-- ==== Sys2Proof/Word.lean ====
section
/-!
DEFINITION. Word.lean: the words of the ZT9 (64-bit registers and KCI words, bytes, F32 bit patterns), and the
sparse map that holds everything the spec numbers (cells, pavilions, bytes of memory): a list of index and value in
rising order of index.
-/
namespace Sys2Proof

/-- A 64-bit register, KCI word or scalar register (R8, R55, R71). -/
abbrev Word := BitVec 64

/-- One byte of memory. -/
abbrev Byte := BitVec 8

/-- The bits of an F32 (R33). -/
abbrev F32 := BitVec 32

/-- A sparse map: index and value, indexes strictly rising; an index that is not listed holds the default. -/
abbrev Map (α : Type) := List (Nat × α)

/-- Bytes of memory by address; an address that is not listed reads 0 (R504). -/
abbrev Mem := Map Byte

end Sys2Proof
end

