-- ==== Sys2Proof/Syntax.lean ====
section
/-!
DEFINITION. Syntax.lean: the commands of the block, one constructor of Instr per row of spec/opcode_table.json, and the
data they carry: the fields of a KCI word (R73), of a dispatch word (R226), of an update-program word (R320), a ZFP
packet (R349), a re-shard descriptor (R382), a job image (R414, R415).
-/
namespace Sys2Proof

/-! ### Fields of the program words -/

/-- Format R (R73). -/
structure RFields where
  d : BitVec 5
  a : BitVec 5
  b : BitVec 5
  c : BitVec 5
  deriving DecidableEq, Repr

/-- Format I (R73). -/
structure IFields where
  d : BitVec 5
  a : BitVec 5
  imm : BitVec 32
  deriving DecidableEq, Repr

/-- Format B (R73). -/
structure BFields where
  d : BitVec 5
  a : BitVec 5
  b : BitVec 5
  off : BitVec 32
  deriving DecidableEq, Repr

/-- Format M (R73): `space` is 1 for the global space. -/
structure MFields where
  d : BitVec 5
  a : BitVec 5
  b : BitVec 5
  space : Bool
  size : BitVec 2
  ord : BitVec 2
  off : BitVec 32
  deriving DecidableEq, Repr

/-- Format V (R73). -/
structure VFields where
  d : BitVec 5
  a : BitVec 5
  b : BitVec 5
  c : BitVec 5
  fmt : BitVec 8
  mask : BitVec 3
  mz : Bool
  rnd : BitVec 2
  imm : BitVec 16
  deriving DecidableEq, Repr

/-- Format VM (R73); `c` is bits [35:32], which a VST with SR takes with SPACE as its index register (R84, log 15). -/
structure VMFields where
  d : BitVec 5
  a : BitVec 5
  b : BitVec 5
  space : Bool
  c : BitVec 4
  fmt : BitVec 8
  mask : BitVec 3
  mz : Bool
  rnd : BitVec 2
  off : BitVec 16
  deriving DecidableEq, Repr

/-- Format X (R73). -/
structure XFields where
  acc : BitVec 4
  a : BitVec 5
  b : BitVec 5
  c : BitVec 5
  fmta : BitVec 8
  fmtb : BitVec 8
  srca : Bool
  srcb : Bool
  ora : Bool
  orb : Bool
  spa : Bool
  spb : Bool
  msk : BitVec 2
  deriving DecidableEq, Repr

/-- Format Q (R73). -/
structure QFields where
  d : BitVec 5
  a : BitVec 5
  b : BitVec 5
  c : BitVec 5
  fmt : BitVec 8
  dest : BitVec 2
  rnd : BitVec 2
  acc : BitVec 4
  pre : BitVec 5
  deriving DecidableEq, Repr

/-- A dispatch word (R226). -/
structure DFields where
  d : BitVec 4
  a : BitVec 4
  b : BitVec 4
  imm : BitVec 14
  deriving DecidableEq, Repr

/-- An update-program word (R320). -/
structure UFields where
  d : BitVec 5
  a : BitVec 5
  b : BitVec 5
  c : BitVec 5
  x : BitVec 6
  deriving DecidableEq, Repr

/-! ### Data carried from outside -/

/-- A store by the host to its own DDR5, performed before the command that carries it (log 4). -/
structure HostWrite where
  addr : Nat
  bytes : List Byte
  deriving DecidableEq, Repr

/-- The code word at address `addr` in which an error struck, 8 bytes of store or 64 bytes of HBM (R181): `bad` when it cannot be
corrected. -/
structure Upset where
  addr : Nat
  bad : Bool
  deriving DecidableEq, Repr

/-- The ZFP packet types of R350 (class 3 included). -/
inductive PType where
  | rd | rdrsp | wr | atom | atomrsp | ack | rack | arrive | mark | xfer | status
  | crd | crdx | cdata | crecall | crack | cwb
  | reserved (code : BitVec 6)
  deriving DecidableEq, Repr

/-- A ZFP packet (R349): the header fields by name, word 3, the payload. -/
structure Packet where
  dst : BitVec 16
  src : BitVec 16
  typ : PType
  hops : Nat
  cls : BitVec 2
  path : Nat
  cseq : BitVec 32
  sstk : Nat
  dstk : Nat
  tag : Nat
  gen : BitVec 4
  retry : Bool
  openp : Bool
  epoch : BitVec 16
  region : Nat
  offset : Nat
  w3 : Word
  payload : List Byte
  deriving DecidableEq, Repr

/-- A flit as it arrives (R341): its 640 bytes after the FEC, whether the codeword could not be corrected (`uncorr`), the number of symbols
corrected, and the lanes whose pre-FEC symbol error ratio is seen to exceed 2^−10 (R437). -/
structure Flit where
  bytes : List Byte
  uncorr : Bool
  corrected : Nat
  badLanes : List Nat
  deriving DecidableEq, Repr

/-- A re-shard descriptor (R382); `rsv` is 1 when a reserved byte or bit of it is not zero; `tensor` is the entry of the tensor table
that it moves, by which SR numbers elements (R46; that the mapping table says so is a DESIGN CHOICE, log 36). -/
structure Descr where
  kind : Nat
  ndim : Nat
  sfmt : BitVec 8
  dfmt : BitVec 8
  rnd : BitVec 8
  rsv : Bool
  stream : BitVec 32
  v : BitVec 32
  obj : Word
  sbase : Word
  sscale : Word
  dbase : Word
  dscale : Word
  first : List Nat
  count : List Nat
  sorg : List Nat
  sext : List Nat
  dorg : List Nat
  dext : List Nat
  tensor : Nat
  deriving DecidableEq, Repr

/-- A channel of the job image (R216). -/
structure ChanDecl where
  pStage : Nat
  pRank : Nat
  cStage : Nat
  cRank : Nat
  u : Nat
  k : Nat
  txAddr : Nat
  rxAddr : Nat
  fillVa : Nat
  weight : Nat
  deriving DecidableEq, Repr

/-- Where an output slot's pages go (R166). -/
inductive Placement where
  | home | spread | hbm
  deriving DecidableEq, Repr

/-- An output slot of a stage (R166, R167, R170); `stash` makes it a stash slot (R248): tensor index, format,
RECOMPUTABLE. -/
structure SlotDecl where
  va : Nat
  size : Nat
  stride : Nat
  place : Placement
  rm : Bool
  stash : Option (Nat × BitVec 8 × Bool)
  deriving DecidableEq, Repr

/-- One stage of the stage graph (R57, R214, R506); `conts` are the contraction identities it declares (R507). -/
structure StageDecl where
  h : Nat
  w : Nat
  replicas : Nat
  progWords : Nat
  words : List Word
  entFwd : Option Nat
  entBwd : Option Nat
  entRed : Option Nat
  dataBytes : Nat
  data : List (Nat × List Byte)
  slots : List SlotDecl
  reads : List (Nat × Nat)
  deriving DecidableEq, Repr

/-- A data edge between phases of two stages (R223), with its weight (R215). -/
structure EdgeDecl where
  fStage : Nat
  fPhase : Nat
  tStage : Nat
  tPhase : Nat
  weight : Nat
  deriving DecidableEq, Repr

/-- Items of a phase of a stage depend on a completion object of a transition's descriptors (R381). -/
structure ObjEdgeDecl where
  stage : Nat
  phase : Nat
  obj : Nat
  deriving DecidableEq, Repr

/-- The region kinds of R164 that the image declares. -/
inductive RegionKind where
  | persistent | hostBuf | fabric | args
  deriving DecidableEq, Repr

/-- A region of the job (R164, R163, R296); `frames`: HBM when `inHbm`, else store, of die `die`;
`target` is the host physical address of a host buffer or the fabric address of a fabric region;
`xs` is W and the element count of an XS region, `close` its close object and contributors (R296, R297); `coherent` marks a fabric
region that its home exports in MODE 3 (R368; that the image says so is a DESIGN CHOICE, log 29). -/
structure RegionDecl where
  kind : RegionKind
  va : Nat
  size : Nat
  die : Nat
  inHbm : Bool
  r : Bool
  w : Bool
  imm : Bool
  ns : Bool
  rm : Bool
  data : List (Nat × List Byte)
  target : Nat
  xs : Option (Nat × Nat)
  contribs : Nat
  close : Option (Nat × Nat)
  coherent : Bool
  deriving DecidableEq, Repr

/-- A page of synchronisation objects that the image declares: its virtual address, its die and the targets of its
objects (R275). -/
structure SyncDecl where
  va : Nat
  die : Nat
  targets : List (BitVec 32)
  deriving DecidableEq, Repr

/-- Per store die: reservations (R165) and Icehouse figures (R253). -/
structure DieDecl where
  storeFrames : Nat
  hbmUnits : Nat
  iceStore : Nat
  iceSpill : Nat
  hwm : Nat
  peak : Nat
  deriving DecidableEq, Repr

/-- A tensor-table entry (R36, R263, R265, R266): its parameter identity, if it is a parameter, the identity's places of use, whether its accumulator
is declared in XS mode, the declared Emax of its contributions (R54) and the most contributions of an element. -/
structure TensorDecl where
  shape : List Nat
  fmt : BitVec 8
  scale : F32
  identity : Option (BitVec 32)
  places : Nat
  accXs : Bool
  emax : Int
  contribs : Nat
  train : Nat
  trainBits : List (BitVec 32)
  deriving DecidableEq, Repr

/-- An update program (R318): the header fields, the slots (kind, format, reserved, stream) and the words. -/
structure UpdDecl where
  tier : Nat
  nfield : Nat
  rsv : Bool
  slots : List (Nat × BitVec 8 × Nat × BitVec 32)
  consts : List F32
  words : List (BitVec 32)
  deriving DecidableEq, Repr

/-- A shard of a parameter tensor (R306): identity, index, tensor, box, owner; the virtual addresses of the working copy,
the hot-tier state, the gradient region, the slow-tier and snapshot host buffers; the update programs; the stage whose UPD
item updates it; the program of the slow tier; for each die of this package that fetches it the completion object of the fetch with its arrival
value (R285, R309); the close object with its contributors; the slow-done object; the packages' notice objects. -/
structure ShardDecl where
  identity : BitVec 32
  shard : BitVec 32
  tensor : Nat
  first : List Nat
  count : List Nat
  ownerPkg : BitVec 16
  ownerDie : Nat
  stage : Nat
  fmt : BitVec 8
  workVa : Nat
  workScaleVa : Nat
  bases : List Nat
  slowBufs : List Nat
  snapBufs : List Nat
  prog : Nat
  slowProg : Option Nat
  fetchDone : List (Nat × Nat × BitVec 32)
  closeObj : Option (Nat × Nat)
  slowDone : Option Nat
  notices : List Nat
  initial : Option Nat
  deriving DecidableEq, Repr

/-- A transition record of the mapping table (R381). -/
structure TransDecl where
  epoch : BitVec 16
  trigger : Nat
  die : Nat
  step : BitVec 32
  descrs : List Descr
  deriving DecidableEq, Repr

/-- A region export of the image (R346, R374); `dom` names up to three domain members. -/
structure ExportDecl where
  index : Nat
  mode : BitVec 2
  vbase : Nat
  len : Nat
  owner : BitVec 16
  dom : List (BitVec 16)
  deriving DecidableEq, Repr

/-- One contraction of the split table (R507). -/
structure ContrDecl where
  cid : BitVec 32
  xs : Bool
  w : BitVec 8
  pieces : List (Nat × Nat × Bool × List Nat)
  deriving DecidableEq, Repr

/-- The axes along which a job is cut (R375): D, T, P, S, E. -/
inductive Axis where
  | data | tensor | pipeline | sequence | expert
  deriving DecidableEq, Repr

/-- What is cut along an axis (R377, R380): the units to divide over its members, an explicit split (first unit, units) if given. -/
structure CutDecl where
  axis : Axis
  units : Nat
  explicit : Option (List (Nat × Nat))
  deriving DecidableEq, Repr

/-- The experts of a mixture layer and its total routing capacity in token slots (R379). -/
structure ExpertDecl where
  experts : Nat
  capacity : Nat
  deriving DecidableEq, Repr

/-- The layout of one phase in one epoch (R381, R388): the package and store die that hold each shard. -/
structure LayoutDecl where
  epoch : BitVec 16
  phase : Nat
  holders : List (BitVec 16 × Nat)
  deriving DecidableEq, Repr

/-- The mapping table (R375 to R389). `axes` gives the member count of each axis that is cut, `ranks` the rank of each package of the job on these
axes; `packages` are the packages of the job by rank; `closeObj` and `activations` are the objects of R389 (package, object index). -/
structure MappingDecl where
  axes : List (Axis × Nat)
  ranks : List (List Nat)
  cuts : List CutDecl
  experts : List ExpertDecl
  layouts : List LayoutDecl
  layers : Nat
  cost : Option (List Nat)
  nodeSize : Nat
  packages : List (BitVec 16)
  trans : List TransDecl
  epochLast : List (BitVec 16 × BitVec 32)
  closeObj : BitVec 16 × Nat
  activations : List (BitVec 16 × Nat)
  activation : Option Nat
  deriving DecidableEq, Repr

/-- An export record named as an initial version (R331, R332): its header fields and both sections. -/
structure InitDecl where
  fmt : BitVec 8
  identity : BitVec 32
  shard : BitVec 32
  version : BitVec 32
  digest : Word
  hcrc : Word
  hdr : List Byte
  first : List Nat
  count : List Nat
  elems : List Byte
  scales : List Byte
  deriving DecidableEq, Repr

/-- A job image as the loader reads it (R414 to R416). The manual gives no binary encoding of the sections, so
the sections come decoded (log 5); `sections` is the section table, `verifies` says whether the signature verifies under the
key of slot `keyIdx` (log 6), `bytes` are the bytes measured (R471). The loader reads the header, the section table, `keyIdx` and `bytes` from
host memory, whatever the operand of the command says of them. -/
structure JobImage where
  magic : BitVec 32
  hlen : Nat
  rev : Nat
  len : Nat
  rsv : Bool
  seed : Word
  nsect : Nat
  policy : Nat
  stale : Nat
  slowD : Nat
  window : Nat
  scrubSteps : Nat
  chunkT : Nat
  firstStep : BitVec 32
  rank : Nat
  nrank : Nat
  sections : List (Nat × Nat × Nat)
  keyIdx : Nat
  verifies : Bool
  bytes : List Byte
  samples : List Nat
  stages : List StageDecl
  edges : List EdgeDecl
  objEdges : List ObjEdgeDecl
  chans : List ChanDecl
  progs : List (Nat × List (BitVec 32))
  perPav : Bool
  table : List Word
  regions : List RegionDecl
  syncs : List SyncDecl
  dies : List DieDecl
  tensors : List TensorDecl
  updates : List UpdDecl
  shards : List ShardDecl
  exports : List ExportDecl
  mapping : MappingDecl
  contrs : List ContrDecl
  placement : Option (List (Nat × Nat × Nat × Nat × Nat))
  initial : List InitDecl
  deriving DecidableEq, Repr

/-- What a pavilion's monitors read in a Temper pass (R451): worst slack and worst DRIFT. -/
structure TemperRead where
  slack : Nat
  drift : Nat
  deriving DecidableEq, Repr

/-- The measured quantities of one throttle period (R493): power in watts averaged over the last 1,000 ticks, the
junctions of the four compute dies, the hottest store junction, the HBM stacks' temperatures, the energy counter in millijoules. -/
structure PowerRead where
  watts : Nat
  cmp : List Nat
  store : Nat
  hbm : List Nat
  energy : Nat
  deriving DecidableEq, Repr

/-- The rail groups of R483 with an enable and a power-good. -/
inductive Rail where
  | aux | sto | hbm | ser | cmp (s : Nat)
  deriving DecidableEq, Repr

/-- The reference clocks of R486 and R501. -/
inductive RefClk where
  | aon | sys | ser (s : Nat)
  deriving DecidableEq, Repr

/-- A queue pair: the admin pair, or pair q of a context (R419). -/
inductive QueueId where
  | admin
  | ctx (j q : Nat)
  deriving DecidableEq, Repr

/-- The commands: one constructor per row of spec/opcode_table.json, in the table's order. `c` is a cell, `t` a thread, `p` a
pavilion, `s` a store die, `j` a job context, `l` a link; a KCI, dispatch or update instruction carries the fields of its word. -/
inductive Instr where
  /-- NOP (R75): KCI no-operation. -/
  | kNop (c t : Nat) (f : BFields)
  /-- JMP (R75): KCI jump to PC + OFF. -/
  | kJmp (c t : Nat) (f : BFields)
  /-- JAL (R75): KCI jump and link: sD gets PC + 1, PC gets PC + OFF. -/
  | kJal (c t : Nat) (f : BFields)
  /-- JR (R75): KCI indirect jump to sA[12:0]; a target outside the program region faults. -/
  | kJr (c t : Nat) (f : BFields)
  /-- JALR (R75): KCI indirect jump and link. -/
  | kJalr (c t : Nat) (f : BFields)
  /-- BEQ (R75): KCI branch if sA equals sB. -/
  | kBeq (c t : Nat) (f : BFields)
  /-- BNE (R75): KCI branch if sA differs from sB. -/
  | kBne (c t : Nat) (f : BFields)
  /-- BLT (R75): KCI branch if sA is less than sB, signed. -/
  | kBlt (c t : Nat) (f : BFields)
  /-- BGE (R75): KCI branch if sA is greater than or equal to sB, signed. -/
  | kBge (c t : Nat) (f : BFields)
  /-- BLTU (R75): KCI branch if sA is less than sB, unsigned. -/
  | kBltu (c t : Nat) (f : BFields)
  /-- BGEU (R75): KCI branch if sA is greater than or equal to sB, unsigned. -/
  | kBgeu (c t : Nat) (f : BFields)
  /-- TSPAWN (R60): Starts an IDLE or HALTED thread at PC + OFF, or returns a status value. -/
  | kTspawn (c t : Nat) (f : BFields)
  /-- TJOIN (R62): Waits in SYNC until the named thread is IDLE or HALTED. -/
  | kTjoin (c t : Nat) (f : BFields)
  /-- YIELD (R75): The thread gives up its fetch slot for one round. -/
  | kYield (c t : Nat) (f : BFields)
  /-- HALT (R62): Halts the thread; from thread 0 it acts as PUBLISH. -/
  | kHalt (c t : Nat) (f : BFields)
  /-- RDSR (R75): Reads a special register into sD. -/
  | kRdsr (c t : Nat) (f : BFields)
  /-- SPARK (R75): Sets the thread's STREAMID from sA[31:0]. -/
  | kSpark (c t : Nat) (f : BFields)
  /-- ADD (R76): Scalar add with wrap. -/
  | kAdd (c t : Nat) (f : RFields)
  /-- SUB (R76): Scalar subtract with wrap. -/
  | kSub (c t : Nat) (f : RFields)
  /-- MUL (R76): Scalar multiply, low 64 bits. -/
  | kMul (c t : Nat) (f : RFields)
  /-- MULH (R76): Scalar multiply, signed high 64 bits. -/
  | kMulh (c t : Nat) (f : RFields)
  /-- MULHU (R76): Scalar multiply, unsigned high 64 bits. -/
  | kMulhu (c t : Nat) (f : RFields)
  /-- DIV (R76): Signed divide, with defined division-by-zero and overflow results. -/
  | kDiv (c t : Nat) (f : RFields)
  /-- DIVU (R76): Unsigned divide, with a defined division-by-zero result. -/
  | kDivu (c t : Nat) (f : RFields)
  /-- REM (R76): Signed remainder. -/
  | kRem (c t : Nat) (f : RFields)
  /-- REMU (R76): Unsigned remainder. -/
  | kRemu (c t : Nat) (f : RFields)
  /-- AND (R76): Scalar bitwise AND. -/
  | kAnd (c t : Nat) (f : RFields)
  /-- OR (R76): Scalar bitwise OR. -/
  | kOr (c t : Nat) (f : RFields)
  /-- XOR (R76): Scalar bitwise XOR. -/
  | kXor (c t : Nat) (f : RFields)
  /-- SHL (R76): Scalar shift left by sB[5:0]. -/
  | kShl (c t : Nat) (f : RFields)
  /-- SHR (R76): Scalar logical shift right. -/
  | kShr (c t : Nat) (f : RFields)
  /-- SRA (R76): Scalar arithmetic shift right. -/
  | kSra (c t : Nat) (f : RFields)
  /-- SLT (R76): Signed set-less-than. -/
  | kSlt (c t : Nat) (f : RFields)
  /-- SLTU (R76): Unsigned set-less-than. -/
  | kSltu (c t : Nat) (f : RFields)
  /-- MIN (R76): Signed minimum. -/
  | kMin (c t : Nat) (f : RFields)
  /-- MAX (R76): Signed maximum. -/
  | kMax (c t : Nat) (f : RFields)
  /-- MINU (R76): Unsigned minimum. -/
  | kMinu (c t : Nat) (f : RFields)
  /-- MAXU (R76): Unsigned maximum. -/
  | kMaxu (c t : Nat) (f : RFields)
  /-- SEL (R76): sD gets sA if sC is non-zero, otherwise sB. -/
  | kSel (c t : Nat) (f : RFields)
  /-- FADD_F32 (R76): Scalar F32 add, RNE. -/
  | kFaddF32 (c t : Nat) (f : RFields)
  /-- FSUB_F32 (R76): Scalar F32 subtract, RNE. -/
  | kFsubF32 (c t : Nat) (f : RFields)
  /-- FMUL_F32 (R76): Scalar F32 multiply, RNE. -/
  | kFmulF32 (c t : Nat) (f : RFields)
  /-- FMA_F32 (R76): Scalar F32 fused multiply-add with one rounding. -/
  | kFmaF32 (c t : Nat) (f : RFields)
  /-- FMIN_F32 (R76): Scalar F32 minimum. -/
  | kFminF32 (c t : Nat) (f : RFields)
  /-- FMAX_F32 (R76): Scalar F32 maximum. -/
  | kFmaxF32 (c t : Nat) (f : RFields)
  /-- FCMPLT_F32 (R76): Writes integer 1 when sA is less than sB as F32, otherwise 0. -/
  | kFcmpltF32 (c t : Nat) (f : RFields)
  /-- FCMPEQ_F32 (R76): Writes integer 1 when sA equals sB as F32, otherwise 0. -/
  | kFcmpeqF32 (c t : Nat) (f : RFields)
  /-- FCVT_F32_I64 (R76): Converts a 64-bit integer to F32. -/
  | kFcvtF32I64 (c t : Nat) (f : RFields)
  /-- FCVT_I64_F32 (R76): Converts F32 to a 64-bit integer; saturates, and NaN gives 0. -/
  | kFcvtI64F32 (c t : Nat) (f : RFields)
  /-- ADDI (R77): Scalar add of an immediate. -/
  | kAddi (c t : Nat) (f : IFields)
  /-- ANDI (R77): Scalar AND with an immediate. -/
  | kAndi (c t : Nat) (f : IFields)
  /-- ORI (R77): Scalar OR with an immediate. -/
  | kOri (c t : Nat) (f : IFields)
  /-- XORI (R77): Scalar XOR with an immediate. -/
  | kXori (c t : Nat) (f : IFields)
  /-- SHLI (R77): Scalar shift left by an immediate. -/
  | kShli (c t : Nat) (f : IFields)
  /-- SHRI (R77): Scalar logical shift right by an immediate. -/
  | kShri (c t : Nat) (f : IFields)
  /-- SRAI (R77): Scalar arithmetic shift right by an immediate. -/
  | kSrai (c t : Nat) (f : IFields)
  /-- SLTI (R77): Signed set-less-than against an immediate. -/
  | kSlti (c t : Nat) (f : IFields)
  /-- SLTIU (R77): Unsigned set-less-than against an immediate. -/
  | kSltiu (c t : Nat) (f : IFields)
  /-- LIH (R77): Loads an immediate into the upper 32 bits of sD. -/
  | kLih (c t : Nat) (f : IFields)
  /-- LD (R78): Scalar load, zero-extended; a global load takes a miss register. -/
  | kLd (c t : Nat) (f : MFields)
  /-- LDS (R78): Scalar load, sign-extended. -/
  | kLds (c t : Nat) (f : MFields)
  /-- ST (R78): Scalar store of the low SIZE bytes of sD. -/
  | kSt (c t : Nat) (f : MFields)
  /-- LDX (R206): Indexed load; on the global space this is a gather demand access. -/
  | kLdx (c t : Nat) (f : MFields)
  /-- STX (R78): Indexed store. -/
  | kStx (c t : Nat) (f : MFields)
  /-- AADD (R292): Atomic integer add at the home Hearth; returns the old value. -/
  | kAadd (c t : Nat) (f : MFields)
  /-- AFADD_F32 (R292): Atomic F32 add in arrival order; returns the old value. -/
  | kAfaddF32 (c t : Nat) (f : MFields)
  /-- AXS (R52): Adds an F32 contribution to an XS accumulator at the Hearth. -/
  | kAxs (c t : Nat) (f : MFields)
  /-- AMIN (R292): Atomic signed minimum; returns the old value. -/
  | kAmin (c t : Nat) (f : MFields)
  /-- AMAX (R292): Atomic signed maximum; returns the old value. -/
  | kAmax (c t : Nat) (f : MFields)
  /-- AXCHG (R292): Atomic exchange; returns the old value. -/
  | kAxchg (c t : Nat) (f : MFields)
  /-- ACAS (R292): Atomic compare and swap; returns the old value. -/
  | kAcas (c t : Nat) (f : MFields)
  /-- FENCE_THREAD (R89): Drains until every earlier global access of the thread has been performed. -/
  | kFenceThread (c t : Nat) (f : MFields)
  /-- FENCE_CELL (R89): Drains until every earlier global access of the cell has been performed. -/
  | kFenceCell (c t : Nat) (f : MFields)
  /-- SYNC_ARRIVE (R277): Posts ARRIVE v to a synchronisation object, local or through a region 0xFF fabric page. -/
  | kSyncArrive (c t : Nat) (f : MFields)
  /-- SYNC_ARM (R277): Posts ARM v to set an object's target. -/
  | kSyncArm (c t : Nat) (f : MFields)
  /-- SYNC_WAIT (R282): Waits in SYNC until the object is satisfied. -/
  | kSyncWait (c t : Nat) (f : MFields)
  /-- SYNC_WAITT (R283): Waits on an object with a timeout in ember ticks; writes SATISFIED or TIMED_OUT. -/
  | kSyncWaitt (c t : Nat) (f : MFields)
  /-- SYNC_READ (R277): Reads an object's word 0 into sD, taking a miss register. -/
  | kSyncRead (c t : Nat) (f : MFields)
  /-- SYNC_RESET (R276): Posts RESET to set the object's counter to 0. -/
  | kSyncReset (c t : Nat) (f : MFields)
  /-- ALLOC_OUT (R167): Allocates staging pages for the cell's share of an output slot. -/
  | kAllocOut (c t : Nat) (f : RFields)
  /-- ALLOC_TMP (R80): Allocates scratch pages until FREE.TMP or the end of the item. -/
  | kAllocTmp (c t : Nat) (f : RFields)
  /-- FREE_TMP (R80): Frees a live scratch allocation. -/
  | kFreeTmp (c t : Nat) (f : RFields)
  /-- PUBLISH (R81): Thread 0 drains the cell to end its share of the work item. -/
  | kPublish (c t : Nat) (f : RFields)
  /-- Q_LOAD (R193): Loads and checks a stream descriptor into a slot. -/
  | kQLoad (c t : Nat) (f : RFields)
  /-- Q_START (R195): Starts a stream after checking its footprint in the stream buffer. -/
  | kQStart (c t : Nat) (f : RFields)
  /-- Q_STOP (R198): Stops a stream and discards its live units. -/
  | kQStop (c t : Nat) (f : RFields)
  /-- Q_POP_S (R197): Claims the next 8 bytes of a LINEAR stream into sD. -/
  | kQPopS (c t : Nat) (f : RFields)
  /-- Q_STATUS (R209): Returns a stream's status word. -/
  | kQStatus (c t : Nat) (f : RFields)
  /-- VADD (R136): Vector elementwise add. -/
  | kVadd (c t : Nat) (f : VFields)
  /-- VSUB (R136): Vector elementwise subtract. -/
  | kVsub (c t : Nat) (f : VFields)
  /-- VMUL (R136): Vector elementwise multiply. -/
  | kVmul (c t : Nat) (f : VFields)
  /-- VFMA (R136): Vector fused multiply-add with one rounding. -/
  | kVfma (c t : Nat) (f : VFields)
  /-- VMIN (R136): Vector elementwise minimum. -/
  | kVmin (c t : Nat) (f : VFields)
  /-- VMAX (R136): Vector elementwise maximum. -/
  | kVmax (c t : Nat) (f : VFields)
  /-- VABS (R136): Vector absolute value. -/
  | kVabs (c t : Nat) (f : VFields)
  /-- VNEG (R136): Vector negation. -/
  | kVneg (c t : Nat) (f : VFields)
  /-- VDIV (R136): Vector correctly rounded division. -/
  | kVdiv (c t : Nat) (f : VFields)
  /-- VSQRT (R136): Vector correctly rounded square root. -/
  | kVsqrt (c t : Nat) (f : VFields)
  /-- VADDS (R136): Vector add of a scalar F32. -/
  | kVadds (c t : Nat) (f : VFields)
  /-- VMULS (R136): Vector multiply by a scalar F32. -/
  | kVmuls (c t : Nat) (f : VFields)
  /-- VIADD (R138): Vector integer add with wrap. -/
  | kViadd (c t : Nat) (f : VFields)
  /-- VIADD_SAT (R138): Vector integer add with saturation. -/
  | kViaddSat (c t : Nat) (f : VFields)
  /-- VISUB (R138): Vector integer subtract with wrap. -/
  | kVisub (c t : Nat) (f : VFields)
  /-- VISUB_SAT (R138): Vector integer subtract with saturation. -/
  | kVisubSat (c t : Nat) (f : VFields)
  /-- VAND (R138): Vector bitwise AND. -/
  | kVand (c t : Nat) (f : VFields)
  /-- VOR (R138): Vector bitwise OR. -/
  | kVor (c t : Nat) (f : VFields)
  /-- VXOR (R138): Vector bitwise XOR. -/
  | kVxor (c t : Nat) (f : VFields)
  /-- VSHL (R138): Vector shift left by per-element counts. -/
  | kVshl (c t : Nat) (f : VFields)
  /-- VSHR (R138): Vector logical shift right. -/
  | kVshr (c t : Nat) (f : VFields)
  /-- VSRA (R138): Vector arithmetic shift right. -/
  | kVsra (c t : Nat) (f : VFields)
  /-- VEXP (R139): Vector exponential on the special-function unit. -/
  | kVexp (c t : Nat) (f : VFields)
  /-- VLOG (R139): Vector natural logarithm. -/
  | kVlog (c t : Nat) (f : VFields)
  /-- VRCP (R139): Vector reciprocal. -/
  | kVrcp (c t : Nat) (f : VFields)
  /-- VRSQRT (R139): Vector reciprocal square root. -/
  | kVrsqrt (c t : Nat) (f : VFields)
  /-- VTANH (R139): Vector hyperbolic tangent. -/
  | kVtanh (c t : Nat) (f : VFields)
  /-- VSIGM (R139): Vector logistic sigmoid. -/
  | kVsigm (c t : Nat) (f : VFields)
  /-- VDSIGM (R140): Sigmoid gradient from the saved output. -/
  | kVdsigm (c t : Nat) (f : VFields)
  /-- VDTANH (R140): Tanh gradient from the saved output. -/
  | kVdtanh (c t : Nat) (f : VFields)
  /-- VDRELU (R140): ReLU gradient from the saved output. -/
  | kVdrelu (c t : Nat) (f : VFields)
  /-- VDEXP (R140): Exponential gradient from the saved output. -/
  | kVdexp (c t : Nat) (f : VFields)
  /-- VDSQRT (R140): Square-root gradient from the saved output. -/
  | kVdsqrt (c t : Nat) (f : VFields)
  /-- VDRCP (R140): Reciprocal gradient from the saved output. -/
  | kVdrcp (c t : Nat) (f : VFields)
  /-- VDSOFTMAX (R141): Row softmax gradient from the saved output. -/
  | kVdsoftmax (c t : Nat) (f : VFields)
  /-- VCMPEQ (R142): Elementwise equality compare into a mask. -/
  | kVcmpeq (c t : Nat) (f : VFields)
  /-- VCMPLT (R142): Elementwise less-than compare into a mask. -/
  | kVcmplt (c t : Nat) (f : VFields)
  /-- VCMPLE (R142): Elementwise less-or-equal compare into a mask. -/
  | kVcmple (c t : Nat) (f : VFields)
  /-- VTESTNAN (R142): Sets the mask bits of NaN elements. -/
  | kVtestnan (c t : Nat) (f : VFields)
  /-- VTESTINF (R142): Sets the mask bits of infinite elements. -/
  | kVtestinf (c t : Nat) (f : VFields)
  /-- VTESTFIN (R142): Sets the mask bits of finite elements. -/
  | kVtestfin (c t : Nat) (f : VFields)
  /-- MAND (R143): Mask AND. -/
  | kMand (c t : Nat) (f : VFields)
  /-- MOR (R143): Mask OR. -/
  | kMor (c t : Nat) (f : VFields)
  /-- MXOR (R143): Mask XOR. -/
  | kMxor (c t : Nat) (f : VFields)
  /-- MNOT (R143): Mask inverse. -/
  | kMnot (c t : Nat) (f : VFields)
  /-- MFIRST (R132): Builds a linear, column or row tail mask from a count. -/
  | kMfirst (c t : Nat) (f : VFields)
  /-- VRSUM_ROW (R144): Exact row sum over active elements, broadcast. -/
  | kVrsumRow (c t : Nat) (f : VFields)
  /-- VRSUM_COL (R144): Exact column sum over active elements, broadcast. -/
  | kVrsumCol (c t : Nat) (f : VFields)
  /-- VRMAX_ROW (R144): Row maximum, broadcast. -/
  | kVrmaxRow (c t : Nat) (f : VFields)
  /-- VRMAX_COL (R144): Column maximum, broadcast. -/
  | kVrmaxCol (c t : Nat) (f : VFields)
  /-- VRMIN_ROW (R144): Row minimum, broadcast. -/
  | kVrminRow (c t : Nat) (f : VFields)
  /-- VRMIN_COL (R144): Column minimum, broadcast. -/
  | kVrminCol (c t : Nat) (f : VFields)
  /-- VCVT (R147): Converts tiles between formats with a scale and a rounding mode. -/
  | kVcvt (c t : Nat) (f : VFields)
  /-- VMOV (R145): Copies a tile under the mask. -/
  | kVmov (c t : Nat) (f : VFields)
  /-- VSEL (R145): Selects elementwise between two tiles by the mask. -/
  | kVsel (c t : Nat) (f : VFields)
  /-- VBCAST (R145): Broadcasts a scalar, a column or a row. -/
  | kVbcast (c t : Nat) (f : VFields)
  /-- VTRANS (R145): Transposes an F32 tile. -/
  | kVtrans (c t : Nat) (f : VFields)
  /-- VEXTR (R145): Extracts one element to a scalar register. -/
  | kVextr (c t : Nat) (f : VFields)
  /-- VINS (R145): Inserts a scalar into one element of a tile. -/
  | kVins (c t : Nat) (f : VFields)
  /-- VSPARK (R146): Writes spark-generator values into a tile. -/
  | kVspark (c t : Nat) (f : VFields)
  /-- VLD (R148): Loads 16 rows into tile registers, converting by FMT. -/
  | kVld (c t : Nat) (f : VMFields)
  /-- VST (R148): Stores a tile under the mask, converting with rounding. -/
  | kVst (c t : Nat) (f : VMFields)
  /-- VLD_Q (R197): Claims the next 1 KiB of a LINEAR stream into a tile. -/
  | kVldQ (c t : Nat) (f : VMFields)
  /-- VLDM (R84): Loads a 128-byte mask register from memory. -/
  | kVldm (c t : Nat) (f : VMFields)
  /-- VSTM (R84): Stores a mask register to memory. -/
  | kVstm (c t : Nat) (f : VMFields)
  /-- MMA (R100): Accumulates a 32x32x32 block product into an accumulator tile. -/
  | kMma (c t : Nat) (f : XFields)
  /-- MMA_Z (R100): Block product that overwrites the accumulator tile. -/
  | kMmaZ (c t : Nat) (f : XFields)
  /-- QUENCH (R117): Reads an accumulator tile out to tile registers or memory in a format. -/
  | kQuench (c t : Nat) (f : QFields)
  /-- QUENCH_RESET (R117): Quench that zeroes the tile atomically with the read. -/
  | kQuenchReset (c t : Nat) (f : QFields)
  /-- QUENCH_PRELOAD (R117): Quench that loads the tile from tPRE atomically with the read. -/
  | kQuenchPreload (c t : Nat) (f : QFields)
  /-- AZERO (R115): Sets an accumulator tile to +0. -/
  | kAzero (c t : Nat) (f : QFields)
  /-- APRELOAD (R115): Copies four tile registers into an accumulator tile. -/
  | kApreload (c t : Nat) (f : QFields)
  /-- INSTRUCTION_FETCH (R66): The front end fetches a bundle of one READY thread into issue queues; stamps are assigned and stream units claimed. -/
  | instructionFetch (c : Nat)
  /-- MISS_REGISTER_GRANT (R63): A freed miss register goes to the longest MISSFULL waiter. -/
  | missRegisterGrant (c : Nat)
  /-- GLOBAL_LOAD_RETURN (R63): The data of a global load, atomic or gather returns to its register and the thread leaves MISS. -/
  | globalLoadReturn (c stamp : Nat)
  /-- FENCE_COMPLETE (R287): The accesses a fence waits on are performed and the thread leaves DRAIN. -/
  | fenceComplete (c t : Nat)
  /-- CELL_REPORT (R81): A PUBLISH drain ends and the cell reports to its dispatch unit. -/
  | cellReport (c : Nat)
  /-- ANVIL_CHUNK_LAND (R116): A closing k-step writes its chunk sum to the tile 9 cycles after issue. -/
  | anvilChunkLand (c : Nat)
  /-- QUENCH_READ_START (R120): After the awaited products land, Quench starts reading the tile. -/
  | quenchReadStart (c : Nat)
  /-- QUENCH_READ_DONE (R120): The Quench read ends, the reset or preload value is in place, and matrix issue resumes. -/
  | quenchReadDone (c : Nat)
  /-- ALLOCATOR_ANSWER (R70): The store-die allocator answers an ALLOC.OUT, ALLOC.TMP or FREE.TMP and writes sD. -/
  | allocatorAnswer (c : Nat)
  /-- BELLOWS_REQUEST (R194): Bellows issues one fetch request for a stream unit or a refetch. -/
  | bellowsRequest (c : Nat)
  /-- BELLOWS_DATA_RETURN (R195): Fetched stream data arrives in the stream buffer, or is marked poisoned. -/
  | bellowsDataReturn (c id : Nat)
  /-- VERTICAL_BEAT_CRC_FAIL (R177): A vertical beat fails its CRC and is sent again. -/
  | verticalBeatCrcFail (c : Nat)
  /-- LANE_TEST (R440): A vertical port tests its bonds and spares a failing bond or retires the port. -/
  | laneTest (c : Nat) (failing : List (Nat × Nat))
  /-- SCRUB_PATROL (R181): Patrol scrub reads the die's store and HBM once per SCRUB.PERIOD. -/
  | scrubPatrol (s : Nat) (found : List Upset)
  /-- PAGE_MOVE_DONE (R175): A residency-managed page move completes, and its leaf is rewritten and invalidated. -/
  | pageMoveDone (j vpn : Nat)
  /-- FRAME_ZERO_COMPLETE (R504): A released frame finishes background zeroing and counts as FREE. -/
  | frameZeroComplete (s frame : Nat)
  /-- ITEM_COMMIT (R172): When every cell has reported, the commit word receives DONE: one mapping switch. -/
  | itemCommit (j item : Nat)
  /-- ITEM_DONE (R172): The commit's translation invalidations complete and the item is reported DONE. -/
  | itemDone (j item : Nat)
  /-- PUBLICATION_FOLD (R172): Background fold moves NEXT to CUR and bumps VERSION. -/
  | publicationFold (j inst : Nat)
  /-- ICEHOUSE_SPILL_START (R257): The mover starts moving the bottom unpinned entry to the spill area. -/
  | icehouseSpillStart (s j : Nat)
  /-- ICEHOUSE_REFILL_START (R257): The mover starts refilling the spilled entry needed soonest. -/
  | icehouseRefillStart (s j : Nat)
  /-- ICEHOUSE_MOVE_DONE (R257): An Icehouse frame move completes and the entry state advances. -/
  | icehouseMoveDone (s j : Nat)
  /-- STASH_FRAME_RETRY (R261): A waiting stash allocation is re-examined when a frame frees. -/
  | stashFrameRetry (c : Nat)
  /-- ICEHOUSE_DEADLOCK_TIMEOUT (R261): After 100 ms of frame deadlock the job faults with E_ICEHOUSE_EXHAUSTED. -/
  | icehouseDeadlockTimeout (j : Nat)
  /-- SLOT_SEND (R218): A transmit port sends a sealed slot in ring order with a credit, then clears its seal. -/
  | slotSend (c port : Nat)
  /-- SLOT_LAND (R219): A slot lands in the receive ring and FILL receives ARRIVE 1. -/
  | slotLand (c port : Nat)
  /-- CREDIT_RETURN (R219): A release store returns a credit to the producer port. -/
  | creditReturn (c port : Nat)
  /-- DISP_NOP (R227): Dispatch no-operation. -/
  | dNop (p : Nat) (f : DFields)
  /-- DISP_ADD (R227): Dispatch add. -/
  | dAdd (p : Nat) (f : DFields)
  /-- DISP_ADDI (R227): Dispatch add immediate. -/
  | dAddi (p : Nat) (f : DFields)
  /-- DISP_SUB (R227): Dispatch subtract. -/
  | dSub (p : Nat) (f : DFields)
  /-- DISP_ANDI (R227): Dispatch AND immediate. -/
  | dAndi (p : Nat) (f : DFields)
  /-- DISP_OR (R227): Dispatch OR. -/
  | dOr (p : Nat) (f : DFields)
  /-- DISP_SHLI (R227): Dispatch shift left immediate. -/
  | dShli (p : Nat) (f : DFields)
  /-- DISP_SHRI (R227): Dispatch logical shift right immediate. -/
  | dShri (p : Nat) (f : DFields)
  /-- MULI (R227): Dispatch multiply by immediate. -/
  | dMuli (p : Nat) (f : DFields)
  /-- LDT (R227): Reads a dispatch-table word; an index outside the table faults. -/
  | dLdt (p : Nat) (f : DFields)
  /-- DISP_LDS (R227): Reads a dispatch scratch word. -/
  | dLds (p : Nat) (f : DFields)
  /-- STS (R227): Writes a dispatch scratch word. -/
  | dSts (p : Nat) (f : DFields)
  /-- DISP_BEQ (R227): Dispatch branch if equal. -/
  | dBeq (p : Nat) (f : DFields)
  /-- DISP_BNE (R227): Dispatch branch if not equal. -/
  | dBne (p : Nat) (f : DFields)
  /-- DISP_BLTU (R227): Dispatch branch if less, unsigned. -/
  | dBltu (p : Nat) (f : DFields)
  /-- DISP_JMP (R227): Dispatch jump. -/
  | dJmp (p : Nat) (f : DFields)
  /-- NEXT (R228): Reserves and returns the first ready item by policy, or waits. -/
  | dNext (p : Nat) (f : DFields)
  /-- NEXT_RESUME (R225): A waiting NEXT resumes when an item of the pavilion becomes ready. -/
  | nextResume (p : Nat)
  /-- ARG (R227): Sets an argument word of the pending launch. -/
  | dArg (p : Nat) (f : DFields)
  /-- LAUNCH (R228): Writes arguments and launches the item on its bed, zeroing cells when the stage changes. -/
  | dLaunch (p : Nat) (f : DFields)
  /-- THREAD0_START (R59): Thread 0 of each bed cell starts fetching at the phase's entry word. -/
  | thread0Start (p b : Nat)
  /-- KINDLE (R231): Dispatch instruction that kindles a pavilion held by the job. -/
  | dKindle (p : Nat) (f : DFields)
  /-- KINDLE_COMPLETE (R230): The pavilion's clocks are stable, it enters RUN, and waiting launches proceed. -/
  | kindleComplete (p : Nat)
  /-- PAVILION_GATE (R230): After GATE_CYCLES with no launch running, the pavilion enters GATED. -/
  | pavilionGate (p : Nat)
  /-- PAVILION_OFF (R230): After OFF_TICKS in GATED, or with a Temper change pending, the pavilion enters OFF. -/
  | pavilionOff (p : Nat)
  /-- MIGRATE (R235): Requests migration of a stage's bed to another bed. -/
  | dMigrate (p : Nat) (f : DFields)
  /-- MIGRATION_END_MARKER (R236): An END marker reaches a port, switching forwarding or consumption. -/
  | migrationEndMarker (j mig port : Nat)
  /-- MIGRATION_MOVE_MARKER (R236): A MOVE marker opens the direct channel to the new bed. -/
  | migrationMoveMarker (j mig port : Nat)
  /-- MIGRATION_COMPLETE (R236): The old bed's ports, rings and bed are released. -/
  | migrationComplete (j mig : Nat)
  /-- STAT (R227): Dispatch read of Icehouse occupancy, HWM, step, ready count or ember counter. -/
  | dStat (p : Nat) (f : DFields)
  /-- DISP_HALT (R227): Stops the dispatch unit until unload. -/
  | dHalt (p : Nat) (f : DFields)
  /-- HEARTH_ATOMIC_APPLY (R293): An atomic or XS add reaches its update port and is applied. -/
  | hearthAtomicApply (s : Nat)
  /-- SYNC_PORT_UPDATE (R281): An object's update port applies one update, evaluates satisfaction and answers reads. -/
  | syncPortUpdate (o : Nat)
  /-- WAIT_RELEASE_MESSAGE (R282): A release or expiry message reaches the waiting thread, which becomes READY. -/
  | waitReleaseMessage (c t : Nat)
  /-- WAITT_EXPIRY (R283): A timed wait's deadline passes and the waiter returns TIMED_OUT. -/
  | waittExpiry (o c t : Nat)
  /-- LDF (R321): Update program loads a field slot, optionally reading a gradient with reset. -/
  | uLdf (s : Nat) (f : UFields)
  /-- STF (R322): Update program stores a field slot with rounding. -/
  | uStf (s : Nat) (f : UFields)
  /-- LDC (R321): Update program loads a per-step scalar. -/
  | uLdc (s : Nat) (f : UFields)
  /-- LDK (R321): Update program loads a program constant. -/
  | uLdk (s : Nat) (f : UFields)
  /-- FADD (R322): Update program add. -/
  | uFadd (s : Nat) (f : UFields)
  /-- FSUB (R322): Update program subtract. -/
  | uFsub (s : Nat) (f : UFields)
  /-- FMUL (R322): Update program multiply. -/
  | uFmul (s : Nat) (f : UFields)
  /-- FMA (R322): Update program fused multiply-add. -/
  | uFma (s : Nat) (f : UFields)
  /-- FDIV (R322): Update program correctly rounded divide. -/
  | uFdiv (s : Nat) (f : UFields)
  /-- FSQRT (R322): Update program correctly rounded square root. -/
  | uFsqrt (s : Nat) (f : UFields)
  /-- FMIN (R321): Update program minimum. -/
  | uFmin (s : Nat) (f : UFields)
  /-- FMAX (R321): Update program maximum. -/
  | uFmax (s : Nat) (f : UFields)
  /-- FABS (R321): Update program absolute value. -/
  | uFabs (s : Nat) (f : UFields)
  /-- FNEG (R321): Update program negation. -/
  | uFneg (s : Nat) (f : UFields)
  /-- FCMPLT (R321): Update program less-than giving 1.0 or +0. -/
  | uFcmplt (s : Nat) (f : UFields)
  /-- FCMPEQ (R321): Update program equality giving 1.0 or +0. -/
  | uFcmpeq (s : Nat) (f : UFields)
  /-- UPD_SEL (R321): Update program select on uC > 0. -/
  | uSel (s : Nat) (f : UFields)
  /-- FTESTFIN (R321): Update program finiteness test. -/
  | uFtestfin (s : Nat) (f : UFields)
  /-- BSUM (R321): Exact sum over the element's block. -/
  | uBsum (s : Nat) (f : UFields)
  /-- BMAX (R321): Maximum over the element's block. -/
  | uBmax (s : Nat) (f : UFields)
  /-- UPD_ITEM_LAUNCH (R317): A ready UPD item is launched on the owner die's update engine. -/
  | updItemLaunch (s j item : Nat)
  /-- PARAM_FETCH_START (R309): A store die starts fetching a shard version into a cached copy. -/
  | paramFetchStart (s j shard : Nat)
  /-- PARAM_FETCH_COMPLETE (R311): A fetch ends: digest matches and it arrives, or it refetches or faults. -/
  | paramFetchComplete (s : Nat) (received : List Byte)
  /-- DIGEST_SCRUB (R312): Every SCRUB_STEPS steps, the digests of cached and owner copies are rechecked. -/
  | digestScrub (s j : Nat)
  /-- EXPORT_RECORD_WRITTEN (R330): The export record is written, the completion object arrives, and the hold is released. -/
  | exportRecordWritten (j : Nat)
  /-- TRANSITION_START (R381): A re-shard engine starts a transition whose trigger is satisfied and epoch current. -/
  | transitionStart (s : Nat)
  /-- RESHARD_DESCRIPTOR_COMPLETE (R385): A re-shard descriptor's writes are performed and it arrives once. -/
  | reshardDescriptorComplete (s k : Nat)
  /-- EPOCH_ARRIVED (R389): Once its epoch regions are Closed, a package becomes ARRIVED and reports to rank 0. -/
  | epochArrived (j : Nat)
  /-- EPOCH_ACTIVATION_SEND (R389): Rank 0's EPOCH_CLOSE is satisfied and it arrives on every activation object. -/
  | epochActivationSend (j : Nat)
  /-- EPOCH_ACTIVATE (R389): A package's activation object is satisfied and the new epoch becomes current. -/
  | epochActivate (j : Nat)
  /-- FLIT_RECEIVE (R342): A codeword arrives; FEC, FCRC, acknowledgements and NAK replay are handled. -/
  | flitReceive (l : Nat) (flit : Flit)
  /-- LINK_DETECT_COMPLETE (R343): Receiver detection succeeds and the link enters TRAIN. -/
  | linkDetectComplete (l : Nat)
  /-- LINK_TRAIN_COMPLETE (R343): Equalisation succeeds and the link enters ALIGN. -/
  | linkTrainComplete (l : Nat)
  /-- LINK_ALIGN_COMPLETE (R343): Lane order, deskew and lock succeed and the link enters NEGOTIATE. -/
  | linkAlignComplete (l : Nat)
  /-- LINK_NEGOTIATE_COMPLETE (R343): Identity, revision and width are agreed, or refused; the link enters UP or DOWN. -/
  | linkNegotiateComplete (l : Nat) (peer : BitVec 16) (peerLink : Nat) (peerRev peerLanes : Nat) (peerAssigned : Bool)
  /-- LINK_STATE_TIMEOUT (R343): A training state times out and the link returns to DOWN. -/
  | linkStateTimeout (l : Nat) (lanes : List Nat)
  /-- LINK_RETRY_DELAY_EXPIRY (R343): 25,000 ticks after DOWN, the next training attempt starts. -/
  | linkRetryDelayExpiry (l : Nat)
  /-- LINK_LOSS (R356): A link leaves UP and its sequenced channels move to another path. -/
  | linkLoss (l : Nat)
  /-- ZFP_RD (R346): An inbound read request is checked and answered with RDRSP. -/
  | zfpRd (s : Nat) (p : Packet)
  /-- ZFP_RDRSP (R358): A read response matched by tag and generation completes the request. -/
  | zfpRdrsp (s : Nat) (p : Packet)
  /-- ZFP_WR (R350): An inbound write is performed, with an optional arrival. -/
  | zfpWr (s : Nat) (p : Packet)
  /-- ZFP_ATOM (R362): An inbound atomic is applied once or answered from its kept result. -/
  | zfpAtom (s : Nat) (p : Packet)
  /-- ZFP_ATOMRSP (R361): An atomic response completes the request, and RACK is sent. -/
  | zfpAtomrsp (s : Nat) (p : Packet)
  /-- ZFP_ACK (R352): A cumulative ACK frees acknowledged packets of a channel. -/
  | zfpAck (s : Nat) (p : Packet)
  /-- ZFP_RACK (R361): A RACK deletes the kept atomic result. -/
  | zfpRack (s : Nat) (p : Packet)
  /-- ZFP_ARRIVE (R346): A remote arrival on a held object is applied after epoch checks. -/
  | zfpArrive (s : Nat) (p : Packet)
  /-- ZFP_MARK (R367): A mark is queued with its source and the local ember counter. -/
  | zfpMark (s : Nat) (p : Packet)
  /-- ZFP_XFER (R348): The home checks the owner and changes the region's owner. -/
  | zfpXfer (s : Nat) (p : Packet)
  /-- ZFP_STATUS (R347): A rejection reaches the requester and is counted. -/
  | zfpStatus (s : Nat) (p : Packet)
  /-- ZFP_CRD (R369): A coherent shared read is answered with CDATA. -/
  | zfpCrd (s : Nat) (p : Packet)
  /-- ZFP_CRDX (R369): A coherent exclusive read recalls other copies, then is answered. -/
  | zfpCrdx (s : Nat) (p : Packet)
  /-- ZFP_CDATA (R369): Coherent line data fills the member's line cache. -/
  | zfpCdata (s : Nat) (p : Packet)
  /-- ZFP_CRECALL (R369): The home recalls or downgrades a member's line. -/
  | zfpCrecall (s : Nat) (p : Packet)
  /-- ZFP_CRACK (R369): A member acknowledges a recall, with data if modified. -/
  | zfpCrack (s : Nat) (p : Packet)
  /-- ZFP_CWB (R369): A member writes back an evicted modified line. -/
  | zfpCwb (s : Nat) (p : Packet)
  /-- PACKET_FORWARD (R354): A router forwards a packet for another package, combining if eligible. -/
  | packetForward (s : Nat) (p : Packet)
  /-- COMBINE_WINDOW_CLOSE (R364): The 64-cycle combining window ends and the combined ATOM is sent. -/
  | combineWindowClose (s id : Nat)
  /-- PACKET_RESIDENCY_DROP (R355): A packet held 625 ticks at a router is discarded. -/
  | packetResidencyDrop (s id : Nat)
  /-- ACK_PERIODIC (R352): A receiver sends ACK at least every 64 SCLK cycles while NEXT advances. -/
  | ackPeriodic (s ch : Nat)
  /-- CHANNEL_RESEND_TIMEOUT (R352): With no ACK progress for 2,500 ticks, unacknowledged packets are resent. -/
  | channelResendTimeout (s ch : Nat)
  /-- CHANNEL_ENTRY_IDLE_FREE (R351): An idle sending or receiving channel entry is freed. -/
  | channelEntryIdleFree (s ch : Nat) (sending : Bool)
  /-- REMOTE_REQUEST_RETRY (R359): An RD or ATOM without a response for 6,250 ticks is resent. -/
  | remoteRequestRetry (s tag : Nat)
  /-- REMOTE_REQUEST_TIMEOUT (R359): After 31,250 ticks the request ends with a job fault and its tag is quarantined. -/
  | remoteRequestTimeout (s tag : Nat)
  /-- TAG_QUARANTINE_END (R358): A quarantined or recently used tag becomes issuable again. -/
  | tagQuarantineEnd (s tag : Nat)
  /-- KEPT_RESULT_EXPIRY (R361): A kept atomic result or combining record expires after 60,000 ticks. -/
  | keptResultExpiry (s id : Nat)
  /-- REGION_TRANSFER (R348): FAB.XFER write: waits for its channels, then sends XFER to the home. -/
  | regionTransfer (s : Nat) (v : Word)
  /-- MARK_SEND (R367): FAB.MARKTX write sends a MARK to a package. -/
  | markSend (s : Nat) (v : Word)
  /-- MARK_RECEIVE_READ (R373): FAB.MARKRX read removes the oldest mark and loads MARKTIME. -/
  | markReceiveRead (s : Nat)
  /-- PKGID_WRITE (R373): Writes the package identity and sets ASSIGNED. -/
  | pkgidWrite (v : Word)
  /-- UCIE_CRC_ERROR (R437): A UCIe flit fails CRC and is replayed; thresholds may repair a lane or retire the module. -/
  | ucieCrcError (u lane : Nat) (retrain : Bool)
  /-- UCIE_TRAINING_RETRY (R460): With no module trained, training is retried every 25,000 ticks. -/
  | ucieTrainingRetry (trained : List Nat)
  /-- HDM_READ (R402): Host CXL.mem read of a 64-byte line. -/
  | hdmRead (dpa : Nat)
  /-- HDM_WRITE (R402): Host CXL.mem write, performed only to persistent mutable frames. -/
  | hdmWrite (dpa : Nat) (bytes : List Byte)
  /-- HOST_SYNC_READ (R279): Host 8-byte read of a synchronisation object through the window. -/
  | hostSyncRead (off size : Nat)
  /-- SYNC_WINDOW_WRITE (R279): A write to the synchronisation-object window is discarded and recorded. -/
  | syncWindowWrite (off size : Nat) (v : Word)
  /-- SYNCOP_ARRIVE (R302): SYNCOP ARRIVE after earlier host posted writes are performed. -/
  | syncopArrive (s : Nat) (v : Word) (hw : List HostWrite)
  /-- SYNCOP_ARM (R302): SYNCOP ARM sets an object's target. -/
  | syncopArm (s : Nat) (v : Word) (hw : List HostWrite)
  /-- SYNCOP_RESET (R302): SYNCOP RESET clears an object's counter. -/
  | syncopReset (s : Nat) (v : Word) (hw : List HostWrite)
  /-- SYNCOP_SETEVT (R276): Arms an event source on an object, firing at once if already satisfied. -/
  | syncopSetevt (s : Nat) (v : Word) (hw : List HostWrite)
  /-- SYNCOP_CLREVT (R276): Clears an object's EVT. -/
  | syncopClrevt (s : Nat) (v : Word) (hw : List HostWrite)
  /-- TAIL_WRITE (R404): The host rings a queue doorbell by raising TAIL. -/
  | tailWrite (q : QueueId) (v : Word) (hw : List HostWrite)
  /-- QUEUE_ENTRY_ACCEPT (R405): The device reads an entry, writes the acceptance word and advances ACCEPT. -/
  | queueEntryAccept (q : QueueId)
  /-- COMPLETION_WRITE (R406): A completion entry is written in acceptance order when the ring has room. -/
  | completionWrite (q : QueueId)
  /-- CQHEAD_WRITE (R420): The host consumes completions by raising CQHEAD. -/
  | cqheadWrite (q : QueueId) (v : Word)
  /-- QUEUE_ENABLE (R420): Setting ENABLE puts a queue in service and zeroes its counts. -/
  | queueEnable (q : QueueId) (v : Word)
  /-- QUEUE_DISABLE (R420): Clearing ENABLE takes a queue out of service. -/
  | queueDisable (q : QueueId) (v : Word)
  /-- QUEUE_NOP (R411): Queue NOP command. -/
  | queueNop (q : QueueId)
  /-- LOAD (R244): Verifies and checks a job image, then commits a job context and writes the load report. -/
  | loadImage (image : JobImage)
  /-- UNLOAD (R403): Accepts unloading of a context once earlier entries complete. -/
  | unloadEntry
  /-- UNLOAD_COMPLETE (R160): Translations are invalidated, frames freed, and the context becomes FREE. -/
  | unloadComplete (j : Nat)
  /-- STEP (R411): Submits a training step with its micro-batch table and scalars. -/
  | stepEntry (q : QueueId)
  /-- EXPORT (R330): Requests an export record of a shard version. -/
  | exportEntry (q : QueueId)
  /-- IMPORT (R411): Submits an IMPORT re-shard descriptor. -/
  | importEntry (q : QueueId)
  /-- EVENT_ROUTE (R431): A routable source is delivered to its eligible target, pushing its priority. -/
  | eventRoute
  /-- EVENT_PEND_CLEAR (R428): W1C of PEND bits clears them and their DELIV. -/
  | eventPendClear (i : Nat) (v : Word)
  /-- EVENT_SETP (R428): Software sets pending bits as if the sources had fired. -/
  | eventSetp (i : Nat) (v : Word)
  /-- EVENT_EOI (R433): Pops the target's priority stack and re-samples level sources. -/
  | eventEoi (t : Nat) (v : Word)
  /-- RESET_PACKAGE (R446): RESETCTL domain 1: holds every stack and resets the accelerator portion. -/
  | resetPackage (v : Word)
  /-- RESET_STACK (R444): RESETCTL domain 2: starts a stack reset. -/
  | resetStack (v : Word)
  /-- RESET_COMPUTE_DIE (R445): RESETCTL domain 3: starts a compute-die reset. -/
  | resetComputeDie (v : Word)
  /-- RESET_PAVILION (R446): RESETCTL domain 4: starts a pavilion reset. -/
  | resetPavilion (v : Word)
  /-- RESET_LINK (R442): RESETCTL domain 5: resets one link. -/
  | resetLink (v : Word)
  /-- LINK_RETRAIN (R371): LINK.CTRL.RETRAIN takes the link to DOWN to train again. -/
  | linkRetrain (l : Nat) (v : Word)
  /-- LINK_ENABLE (R371): LINK.CTRL.ENABLE write holds the link in DOWN or releases it. -/
  | linkEnable (l : Nat) (v : Word)
  /-- STORE_DIE_SELF_FAULT (R442): A store die detects a fault in itself and a stack reset follows. -/
  | storeDieSelfFault (s : Nat)
  /-- COMPUTE_DIE_SELF_FAULT (R442): A compute die detects a dispatch or mesh fault and a compute-die reset follows. -/
  | computeDieSelfFault (s : Nat)
  /-- STACK_DRAIN_END (R444): At 2,048 SCLK cycles open transactions abort, the dies reset and jobs fault. -/
  | stackDrainEnd (s : Nat) (aborted : Nat)
  /-- STACK_REINIT_COMPLETE (R444): A reset stack or die finishes reinitialising and returns to the distance table. -/
  | stackReinitComplete (s : Nat) (ok : Bool) (hbmOk : List Bool)
  /-- STACK_HOLD_TIMEOUT (R448): STACK_HOLD is not acknowledged in 4,096 cycles: fail-safe trigger 4. -/
  | stackHoldTimeout (s : Nat)
  /-- PAVILION_RESET_HALT (R446): Cells still running 4,096 cycles into a pavilion reset are halted. -/
  | pavilionResetHalt (p : Nat)
  /-- FAILSAFE_ENTER (R450): LODGE.FAILSAFE.ENTER write enters fail-safe with trigger 5. -/
  | failsafeEnter (v : Word)
  /-- LODGE_WATCHDOG_EXPIRY (R448): No Lodge heartbeat for 10 ms with a job loaded: fail-safe trigger 2. -/
  | lodgeWatchdogExpiry
  /-- TEMPER_PASS (R452): Each PERIOD, Temper measures every pavilion and plans a step. -/
  | temperPass (reads : List TemperRead)
  /-- COLD_BOOT (R460): The always-on domain releases Lodge core 0 and the boot ROM verifies the birth record and derives identity. -/
  | coldBoot (trained : List Nat)
  /-- BOOT_GO (R460): BOOTCTL.GO starts copying and verifying the firmware image. -/
  | bootGo (v : Word)
  /-- IMAGE_VERIFY_COMPLETE (R460): Verification ends: keys are derived and the firmware starts, or the device returns to AWAITING. -/
  | imageVerifyComplete (readOk verifies : Bool)
  /-- NONCE_DRAW (R470): A read of SEC.NONCE[0] draws a fresh nonce. -/
  | nonceDraw
  /-- ENROLL_ADD (R468): Enrolment record ADD puts an owner key in an empty slot. -/
  | enrollAdd (verifies : Bool)
  /-- ENROLL_REMOVE (R468): Enrolment record REMOVE clears an occupied slot. -/
  | enrollRemove (verifies : Bool)
  /-- ENROLL_RELEASE (R469): Enrolment record RELEASE clears every slot. -/
  | enrollRelease (verifies : Bool)
  /-- DEBUG_UNLOCK (R476): An accepted debug token zeroises keys, locks attestation and opens debug scopes. -/
  | debugUnlock (verifies : Bool)
  /-- SPDM_GET_VERSION (R472): SPDM GET_VERSION request. -/
  | spdmGetVersion
  /-- SPDM_GET_CAPABILITIES (R472): SPDM GET_CAPABILITIES request. -/
  | spdmGetCapabilities
  /-- SPDM_NEGOTIATE_ALGORITHMS (R472): SPDM NEGOTIATE_ALGORITHMS request. -/
  | spdmNegotiateAlgorithms (asym hash : BitVec 32)
  /-- SPDM_GET_DIGESTS (R472): SPDM GET_DIGESTS request. -/
  | spdmGetDigests
  /-- SPDM_GET_CERTIFICATE (R472): SPDM GET_CERTIFICATE request for slot 0. -/
  | spdmGetCertificate (slot off len : Nat)
  /-- SPDM_CHALLENGE (R473): SPDM CHALLENGE, signed by the alias key or refused. -/
  | spdmChallenge (slot : Nat) (nonce : BitVec 256)
  /-- SPDM_GET_MEASUREMENTS (R473): SPDM GET_MEASUREMENTS, signed or unsigned. -/
  | spdmGetMeasurements (index : Nat) (sign : Bool) (nonce : BitVec 256)
  /-- SPDM_UNSUPPORTED_REQUEST (R472): An unsupported SPDM message is answered with ERROR. -/
  | spdmUnsupportedRequest (code : BitVec 8)
  /-- POWER_UP_REQUEST (R484): PKG_RST_N rises and power-up starts from rail enable. -/
  | powerUpRequest
  /-- POWER_DOWN_REQUEST (R484): PKG_RST_N falls and the rails are disabled in order. -/
  | powerDownRequest
  /-- POWER_GOOD_RISE (R483): A PG input rises and the power-up sequence advances. -/
  | powerGoodRise (r : Rail)
  /-- POWER_GOOD_FALL (R485): A PG input falls: a rail fault if its EN is asserted, otherwise power-down advances. -/
  | powerGoodFall (r : Rail)
  /-- POWER_GOOD_TIMEOUT (R485): A PG does not rise within its limit: rail fault. -/
  | powerGoodTimeout (r : Rail)
  /-- POWER_DOWN_STEP_TIMER (R484): 2,500 ticks after an EN is deasserted, the next EN is deasserted. -/
  | powerDownStepTimer
  /-- RAIL_OUT_OF_TOLERANCE (R485): A monitored rail is outside tolerance for 250 ticks: rail fault. -/
  | railOutOfTolerance
  /-- REFCLK_LOSS (R488): A reference clock shows no edge for 50 ticks. -/
  | refclkLoss (k : RefClk)
  /-- REFCLK_RETURN (R488): A lost SerDes reference returns and its links train again. -/
  | refclkReturn (k : RefClk)
  /-- THERMAL_TRIP (R494): A junction or HBM stack reaches its trip temperature: THERMTRIP_N and fail-safe. -/
  | thermalTrip (hbm : Bool) (idx temp : Nat)
  /-- OVER_CURRENT (R493): Current above 700 A on a VCMP rail sets DUTY to 7. -/
  | overCurrent (s : Nat)
  /-- PROCHOT_CHANGE (R493): PROCHOT_N changes and the throttle loop takes it into account. -/
  | prochotChange (high : Bool)
  /-- THROTTLE_PERIOD (R493): Every 25 ticks the control loop steps DUTY by at most one. -/
  | throttlePeriod (m : PowerRead)
  /-- SLEEP_ENTRY (R490): After SLEEP_TICKS idle with SLEEP_EN, the accelerator portion enters SLEEP. -/
  | sleepEntry
  /-- SLEEP_EXIT (R490): A wake condition enables compute rails and wakes store and HBM. -/
  | sleepExit
  /-- SLEEP_EXIT_COMPLETE (R490): PG_CMP is high, PSTATE becomes ACTIVE and waiting work proceeds. -/
  | sleepExitComplete
  /-- REGISTER_WRITE (R10): A write to a register without a row of its own: stored, or rejected and recorded in BLOCK.ERR. -/
  | registerWrite (off size : Nat) (v : Word)
  /-- REGISTER_READ (R9): A host or Lodge read of the register window: returns the fields, clears RC fields, or is rejected as misaligned and recorded in BLOCK.ERR. -/
  | registerRead (off size : Nat)
  /-- POWER_LOSS (R484): VAON is removed, after a requested power-down or without one, and the package enters OFF, losing all state outside the record flash. -/
  | powerLoss
  /-- HBM_REINIT_COMPLETE (R438): An HBM stack reinitialised on its own finishes training and is mapped again over its remaining pseudo-channels, or is retired whole. -/
  | hbmReinitComplete (h : Nat) (ok : Bool)
  /-- UPD_ITEM_END (R317): The update engine finishes the program over every owned shard, commits version n in one commit, publishes the digests and re-arms the close objects. -/
  | updItemEnd (s : Nat)
  /-- LODGE_STATE_UNCORRECTABLE (R448): An uncorrectable error in the Lodge region's own state enters the fail-safe state with trigger 3. -/
  | lodgeStateUncorrectable
  /-- TONGS_OPERAND_ARRIVAL (R112): An address-form operand block read by Tongs arrives whole in its operand buffer, letting the waiting MMA issue. -/
  | tongsOperandArrival (c : Nat) (isB : Bool)
  /-- SPARE_JOURNAL_RECORD (R440): The journal record of a bond spared in service is written, within 25,000 ticks after the sparing. -/
  | spareJournalRecord (c : Nat)
  deriving DecidableEq, Repr

end Sys2Proof
end

