-- ==== Sys2Proof/Machine/Base.lean ====
section
/-!
DEFINITION. Machine/Base.lean: reading and writing sparse maps and byte memories (the one canonical form), little-endian byte
order (R5), bit fields (R6) and sign extension.
-/
namespace Sys2Proof.Machine

/-! ### Sparse maps -/

/-- The value at index `k`; `d` where `k` is not listed. -/
def mget {α : Type} (d : α) : List (Nat × α) → Nat → α
  | [], _ => d
  | (i, v) :: rest, k => if i = k then v else mget d rest k

/-- Lists `v` at `k`, keeping the indexes rising. -/
def mput {α : Type} (k : Nat) (v : α) : List (Nat × α) → List (Nat × α)
  | [] => [(k, v)]
  | (i, w) :: rest => if k < i then (k, v) :: (i, w) :: rest else if i = k then (k, v) :: rest else (i, w) :: mput k v rest

/-- Unlists `k`. -/
def mdel {α : Type} (k : Nat) : List (Nat × α) → List (Nat × α)
  | [] => []
  | (i, w) :: rest => if i = k then mdel k rest else (i, w) :: mdel k rest

/-- Writes `v` at `k` in canonical form: the default `d` is never listed. -/
def mset {α : Type} [DecidableEq α] (d : α) (k : Nat) (v : α) (m : List (Nat × α)) : List (Nat × α) :=
  if v = d then mdel k m else mput k v m

/-- The value listed at `k`, if one is. -/
def mfind {α : Type} : List (Nat × α) → Nat → Option α
  | [], _ => none
  | (i, v) :: rest, k => if i = k then some v else mfind rest k

/-- The indexes rise strictly from above `lo`. -/
def risingFrom {α : Type} : Nat → List (Nat × α) → Bool
  | _, [] => true
  | lo, (i, _) :: rest => decide (lo ≤ i) && risingFrom (i + 1) rest

/-- The canonical form of a sparse map with default `d`: strictly rising indexes, no entry equal to the default. -/
def canonical {α : Type} [DecidableEq α] (d : α) (m : List (Nat × α)) : Bool :=
  risingFrom 0 m && m.all (fun e => decide (e.2 ≠ d))

/-! ### Byte memories -/

/-- One byte; an address that is not listed reads 0 (R504). -/
def memByte (m : Mem) (a : Nat) : Byte := mget 0 m a

/-- `n` bytes from `a`. -/
def memRead (m : Mem) (a n : Nat) : List Byte := (List.range n).map (fun i => memByte m (a + i))

/-- Writes bytes from `a` on. -/
def memWrite (m : Mem) (a : Nat) : List Byte → Mem
  | [] => m
  | b :: rest => memWrite (mset 0 a b m) (a + 1) rest

/-- The form of every byte memory of the state. -/
def Memory.wf (m : Mem) : Bool := canonical 0 m

/-- Removes every entry of the `n` bytes from `a`: they read 0 (R504). -/
def memZero (m : Mem) (a n : Nat) : Mem := m.filter (fun e => decide (e.1 < a) || decide (a + n ≤ e.1))

/-! ### Bytes and words (R5) -/

/-- Little-endian value of bytes. -/
def leNat : List Byte → Nat
  | [] => 0
  | b :: rest => b.toNat + 256 * leNat rest

/-- The `n` little-endian bytes of `v`. -/
def leBytes : Nat → Nat → List Byte
  | 0, _ => []
  | n + 1, v => BitVec.ofNat 8 v :: leBytes n (v / 256)

/-- The field of n bytes at offset `off` of a structure in memory. -/
def leField (l : List Byte) (off n : Nat) : Nat := leNat ((l.drop off).take n)

/-- Bits [hi:lo] of a number (R6). -/
def bits (v hi lo : Nat) : Nat := v / 2 ^ lo % 2 ^ (hi + 1 - lo)

/-- Bit i of a number. -/
def bitAt (v i : Nat) : Bool := v / 2 ^ i % 2 = 1

/-- A field at bit `lo` of a word. -/
def fieldAt (lo : Nat) (v : Nat) : Nat := v * 2 ^ lo

/-- 1 for true. -/
def b2n (b : Bool) : Nat := if b then 1 else 0

/-- The signed value of the low `w` bits of `v`. -/
def signedOf (w v : Nat) : Int :=
  let x := v % 2 ^ w
  if x < 2 ^ (w - 1) then (x : Int) else (x : Int) - (2 ^ w : Nat)

/-- An integer modulo 2^w. -/
def wrapTo (w : Nat) (i : Int) : Nat := (i % ((2 ^ w : Nat) : Int)).toNat

/-- v rounded up to a multiple of m. -/
def roundUp (m v : Nat) : Nat := if m = 0 then v else (v + m - 1) / m * m

/-- The quotient rounded up. -/
def ceilDiv (a b : Nat) : Nat := if b = 0 then 0 else (a + b - 1) / b

/-- A counter that saturates. -/
def satAdd (limit a b : Nat) : Nat := if limit < a + b then limit else a + b

/-- Cuts a list into its first n-element pieces, `k` of them. -/
def pieces {α : Type} (n : Nat) : Nat → List α → List (List α)
  | 0, _ => []
  | k + 1, l => l.take n :: pieces n k (l.drop n)

/-- Applies `f` to the state for each element in turn. -/
def forEach {α σ : Type} (l : List α) (s : σ) (f : σ → α → σ) : σ := l.foldl f s

/-- The list with the element at index i replaced. -/
def listSet {α : Type} (l : List α) (i : Nat) (v : α) : List α := l.set i v

/-- Removes the first element that satisfies p. -/
def dropFirst {α : Type} (p : α → Bool) : List α → List α
  | [] => []
  | x :: rest => if p x then rest else x :: dropFirst p rest

/-- The greatest of a list of numbers, 0 for the empty list. -/
def maxOf (l : List Nat) : Nat := l.foldl Nat.max 0

/-- The element with the least key, the first among equals. -/
def leastBy {α : Type} (key : α → Nat) : List α → Option α
  | [] => none
  | x :: rest =>
    match leastBy key rest with
    | none => some x
    | some y => if key y < key x then some y else some x

end Sys2Proof.Machine
end

