-- ==== Sys2Proof/Machine/Digest.lean ====
section
/-!
DEFINITION. Machine/Digest.lean: CRC-64/ECMA-182 (R310), CRC-32 of journal records (R456), CRC-16 of vertical beats (R176),
and the hashes of FIPS 202 that R464 and R472 name (SHAKE256, SHA3-512).
-/
namespace Sys2Proof.Machine

/-- One bit step of a CRC taken most significant bit first. -/
def crcStep {w : Nat} (poly : BitVec w) (crc : BitVec w) : BitVec w := if crc.msb then (crc <<< 1) ^^^ poly else crc <<< 1

/-- Eight bit steps. -/
def crcEight {w : Nat} (poly crc : BitVec w) : BitVec w :=
  crcStep poly (crcStep poly (crcStep poly (crcStep poly (crcStep poly (crcStep poly (crcStep poly (crcStep poly crc)))))))

/-- The CRC of R310: polynomial 0x42F0_E1EB_A9EA_3693, initial value 0, no reflection, no final XOR. -/
def crc64 (l : List Byte) : Word :=
  l.foldl (fun crc b => crcEight 0x42F0E1EBA9EA3693 (crc ^^^ ((b.setWidth 64 : BitVec 64) <<< 56))) 0

/-- One bit step of a CRC taken least significant bit first. -/
def crcStepR {w : Nat} (poly : BitVec w) (crc : BitVec w) : BitVec w :=
  if crc.getLsbD 0 then (crc >>> 1) ^^^ poly else crc >>> 1

def crcEightR {w : Nat} (poly crc : BitVec w) : BitVec w :=
  crcStepR poly (crcStepR poly (crcStepR poly (crcStepR poly (crcStepR poly (crcStepR poly (crcStepR poly (crcStepR poly crc)))))))

/-- CRC-32 of IEEE 802.3 (R456). -/
def crc32 (l : List Byte) : BitVec 32 :=
  ~~~ (l.foldl (fun crc b => crcEightR 0xEDB88320 (crc ^^^ (b.setWidth 32 : BitVec 32))) (0xFFFFFFFF : BitVec 32))

/-- CRC-16 of a vertical beat (R176): bits least significant first, polynomial 0x1021, initial value 0xFFFF. -/
def crc16Beat (l : List Byte) : BitVec 16 :=
  l.foldl (fun crc b =>
    (List.range 8).foldl (fun c i =>
      let top := c.msb != b.getLsbD i
      if top then (c <<< 1) ^^^ 0x1021 else c <<< 1) crc) (0xFFFF : BitVec 16)

/-! ### Keccak -/

/-- The round constants of Keccak-f[1600]. -/
def keccakRc : List Word := [0x1, 0x8082, 0x800000000000808a, 0x8000000080008000, 0x808b, 0x80000001, 0x8000000080008081, 0x8000000000008009, 0x8a, 0x88, 0x80008009, 0x8000000a, 0x8000808b, 0x800000000000008b, 0x8000000000008089, 0x8000000000008003, 0x8000000000008002, 0x8000000000000080, 0x800a, 0x800000008000000a, 0x8000000080008081, 0x8000000000008080, 0x80000001, 0x8000000080008008]

/-- The rotation of lane i = x + 5y. -/
def keccakRot : List Nat := [0, 1, 62, 28, 27, 36, 44, 6, 55, 20, 3, 10, 43, 25, 39, 41, 45, 15, 21, 8, 18, 2, 61, 56, 14]

def lane (a : List Word) (i : Nat) : Word := a.getD i 0

/-- One round of Keccak-f[1600]. -/
def keccakRound (a : List Word) (rc : Word) : List Word :=
  let c := (List.range 5).map (fun x => lane a x ^^^ lane a (x + 5) ^^^ lane a (x + 10) ^^^ lane a (x + 15) ^^^ lane a (x + 20))
  let d := (List.range 5).map (fun x => lane c ((x + 4) % 5) ^^^ (lane c ((x + 1) % 5)).rotateLeft 1)
  let t := (List.range 25).map (fun i => lane a i ^^^ lane d (i % 5))
  let b := (List.range 25).map (fun j =>
    let x' := j % 5
    let y' := j / 5
    -- lane (x, y) moves to (y, 2x + 3y)
    let y := x'
    let x := (y' + 5 * 3 - 3 * y % 5) * 3 % 5
    (lane t (x + 5 * y)).rotateLeft (keccakRot.getD (x + 5 * y) 0))
  (List.range 25).map (fun i =>
    let x := i % 5
    let y := i / 5
    let v := lane b i ^^^ ((~~~ (lane b ((x + 1) % 5 + 5 * y))) &&& lane b ((x + 2) % 5 + 5 * y))
    if i = 0 then v ^^^ rc else v)

def keccakF (a : List Word) : List Word := keccakRc.foldl keccakRound a

/-- Absorbs the padded message, `rate` bytes a block. -/
def spongeAbsorb (rate : Nat) : Nat → List Byte → List Word → List Word
  | 0, _, a => a
  | k + 1, l, a =>
    let blk := l.take rate
    let a := (List.range 25).map (fun i => lane a i ^^^ BitVec.ofNat 64 (leNat ((blk.drop (8 * i)).take 8)))
    spongeAbsorb rate k (l.drop rate) (keccakF a)

/-- Squeezes k blocks. -/
def spongeSqueeze (rate : Nat) : Nat → List Word → List Byte
  | 0, _ => []
  | k + 1, a => ((a.flatMap (fun w => leBytes 8 w.toNat)).take rate) ++ spongeSqueeze rate k (keccakF a)

/-- The sponge with a domain byte, giving n bytes. -/
def sponge (rate : Nat) (dom : Byte) (l : List Byte) (n : Nat) : List Byte :=
  let q := rate - l.length % rate
  let pad := if q = 1 then [dom ||| 0x80] else [dom] ++ List.replicate (q - 2) 0 ++ [0x80]
  let msg := l ++ pad
  (spongeSqueeze rate ((n + rate - 1) / rate) (spongeAbsorb rate (msg.length / rate) msg (List.replicate 25 0))).take n

/-- SHAKE256 with an output of n bytes (R464). -/
def shake256 (l : List Byte) (n : Nat) : List Byte := sponge 136 0x1F l n

/-- SHA3-512 (R472). -/
def sha3_512 (l : List Byte) : List Byte := sponge 72 0x06 l 64

end Sys2Proof.Machine
end

