-- ==== Sys2Proof/Config.lean ====
section
/-!
DEFINITION. Config.lean: the free values (log 7). Each is an opaque constant: nothing in Lean can evaluate it, so a
statement holds for every value of it.
-/
namespace Sys2Proof.Config

/-- A value the spec calls unpredictable or leaves open, at the n-th draw, for the purpose named by the second number. -/
opaque freeWord : Nat → Nat → BitVec 64

/-- A random draw that the spec asks of the hardware (R468, R472, R476), at the n-th draw. -/
opaque freeRandom : Nat → BitVec 256

/-- An unpredictable byte of a tile or of the cell store (R56). -/
opaque freeByte : Nat → Nat → BitVec 8

/-- An unpredictable element of an accumulator tile (R56). -/
opaque freeF32 : Nat → Nat → BitVec 32

/-- An unpredictable mask register (R56). -/
opaque freeMask : Nat → Nat → BitVec 1024

/-- The magnitude code that the special-function unit gives for a function, a format and an input code, where R139 leaves a
choice within its error bound: the same on every cell and every ZT9. -/
opaque sfu : Nat → Nat → Nat → Nat

/-- A signature of Ed448 (R475, R476): over the bytes signed. -/
opaque signature : List (BitVec 8) → List (BitVec 8)

/-- The measurement of the boot ROM's mask, which the spec does not give (R471). -/
opaque romDigest : List (BitVec 8)

/-- The vendor's root certificate, and the alias certificate that the DeviceID seed signs for an alias seed, a firmware measurement and a security version
(R465, R472). -/
opaque rootCert : List (BitVec 8)
opaque aliasCert : List (BitVec 8) → List (BitVec 8) → List (BitVec 8) → Nat → List (BitVec 8)

/-- An address that the Lodge or an allocator chooses freely (R505, R184), at the n-th draw. -/
opaque freeAddr : Nat → Nat

/-- The digest that the owner in another package published with a version of a shard (R309): identity, shard, version. -/
opaque remoteDigest : BitVec 32 → BitVec 32 → Nat → BitVec 64

end Sys2Proof.Config
end

