-- ==== Sys2Proof/Machine/State.lean ====
section
/-!
DEFINITION. Machine/State.lean: everything the spec gives the package to hold, as plain data, the queue of waiting commands, and
the state right after reset. Whatever is numbered (cells, pavilions, pages, registers) is a sparse map with one default for all
numbers not listed (log 12).
-/
namespace Sys2Proof.Machine

/-! ### The cell (chapters 03 to 07) -/

/-- Thread states (R58). -/
inductive TState where
  | idle | ready | miss | missfull | sync | qfull | drain | halted
  deriving DecidableEq, Repr

/-- What a thread in SYNC or DRAIN waits for, or that it gave up its fetch slot (R62, R66, R75, R89). -/
inductive Waits where
  | none
  | join (t : Nat)
  | object (d : Nat) (timed : Bool) (stamp : Nat)
  | fence (cell : Bool) (stamp : Nat)
  | publish
  deriving DecidableEq, Repr

/-- What a consuming instruction has claimed of a stream (R197): unit k of slot q, `n` bytes from `pos`, or a claim that
faults. -/
inductive Claim where
  | unit (q k : Nat)
  | bytes (q pos n : Nat)
  | bad (q : Nat)
  deriving DecidableEq, Repr

/-- An entry of an issue queue (R65, R67); `claims` is none until the entry has claimed (R197); `opA`, `opB` are the operand bytes
that Tongs holds for an MMA (R112), `relDone` says that its release fence is over (R89). -/
structure Entry where
  stamp : Nat
  thread : Nat
  pc : Nat
  word : Word
  claims : Option (List Claim)
  opA : Option (List Byte)
  opB : Option (List Byte)
  relDone : Bool
  deriving DecidableEq, Repr

/-- Kinds of issued global accesses that are not complete. -/
inductive FKind where
  | load | store | atom | sync | opA | opB
  deriving DecidableEq, Repr

/-- An issued global access that is not complete (R63, R64, R89): `dest` is the resource that it writes (numbered as the registers
of R55 by Operands.lean), `data` the bytes to write there once `arrived`; `switches` when its thread waits in MISS; `ranges` the virtual
bytes that it reads or writes. Of an access to another package, `raw` holds the bytes that have come, by offset, `need` how many bytes or answers it wants, `old` and `mask` the
destination's bytes and the mask at issue. -/
structure Flight where
  stamp : Nat
  thread : Nat
  pc : Nat
  word : Word
  kind : FKind
  dest : Option Nat
  miss : Bool
  switches : Bool
  acquire : Bool
  arrived : Bool
  data : List Byte
  raw : Map Byte
  need : Nat
  old : List Byte
  mask : BitVec 1024
  ranges : List (Nat × Nat)
  deriving DecidableEq, Repr

/-- A MAT instruction whose products have not all landed (R100, R116): element and scale bytes of both operands, the next
chunk. -/
structure MatRun where
  stamp : Nat
  word : Word
  scaleC : F32
  rows : BitVec 32
  bytesA : List Byte
  bytesB : List Byte
  chunk : Nat
  deriving DecidableEq, Repr

/-- A Quench that has issued (R120): its registers, and whether the read has started. -/
structure QuenchRun where
  stamp : Nat
  thread : Nat
  pc : Nat
  word : Word
  addrA : Word
  addrA1 : Word
  scale : F32
  regC : Word
  stream : BitVec 32
  preload : List F32
  started : Bool
  value : List F32
  deriving DecidableEq, Repr

/-- Slot states (R190). -/
inductive SlotState where
  | empty | loaded | running | ended
  deriving DecidableEq, Repr

/-- A unit of a stream that Bellows has begun to fetch (R194): `got` holds the bytes that have arrived, by offset (the scale part
from 4,096 on); `want` the 64-byte granules still to request; `drop` those dropped by R199, which are fetched again at the claim;
`faults` the code and address of fetches at the claim that failed, by granule offset (R201). -/
structure SUnit where
  k : Nat
  got : Map Byte
  want : List Nat
  drop : List Nat
  counted : Bool
  poisoned : Bool
  faults : Map (Nat × Nat)
  deriving DecidableEq, Repr

/-- A stream slot q0 to q15 (R190): the descriptor's eight words, the starting thread, the generation (which Q.START and
Q.STOP advance), the next unit to fetch, the next byte or block to claim, DROPS. -/
structure Slot where
  state : SlotState
  desc : List Word
  starter : Nat
  gen : Nat
  nextUnit : Nat
  pos : Nat
  units : List SUnit
  drops : Nat
  deriving DecidableEq, Repr

/-- A Bellows request in flight (R194, R207): slot, generation, unit, the granule offsets asked for in order, those of them whose bytes are
still wanted with the bytes read; `bad` when an
uncorrectable error lies there (R202), `remote` when the data come in packets: `raw` holds what has come, by offset in the request,
until all has `arrived`. -/
structure BellowsReq where
  id : Nat
  q : Nat
  gen : Nat
  k : Nat
  offs : List Nat
  parts : List (Nat × List Byte)
  bad : Bool
  demand : Bool
  remote : Bool
  arrived : Bool
  raw : Map Byte
  deriving DecidableEq, Repr

/-- A channel port of a cell (R216 to R219, R236): `chan` is the index of the channel in the job image, `peerCell` and `peerPort` the
other end; `turn` the next slot to send or to land; `credits` of a transmit port; `sealed` the slots sealed and not sent; `wire` the
slots on their way to a receive port; `creditsBack` the credits that it has yet to return. While a migration is `forwarding` to
the port, `direct` keeps the slots that its producer sends there, and slots on the `wire` have been counted on FILL before. -/
structure Port where
  valid : Bool
  chan : Nat
  replica : Nat
  peerCell : Nat
  peerPort : Nat
  turn : Nat
  credits : Nat
  sealed : List Nat
  wire : List (Nat × List Byte)
  creditsBack : Nat
  direct : List (Nat × List Byte)
  forwarding : Bool
  deriving DecidableEq, Repr

/-- A request to an allocator that awaits its answer (R80, R167): kind 0 ALLOC.OUT, 1 ALLOC.TMP, 2 FREE.TMP. -/
structure AllocReq where
  stamp : Nat
  thread : Nat
  pc : Nat
  dest : Nat
  kind : Nat
  a : Word
  b : Word
  waiting : Bool
  forStore : Bool
  deriving DecidableEq, Repr

/-- A cell (R55, R92 to R99, R190, R210). -/
structure Cell where
  -- scalar register r of thread t is entry 32 t + r
  sreg : Map Word
  pc : Map (BitVec 13)
  streamId : Map (BitVec 32)
  tstate : Map TState
  waits : Map Waits
  -- byte b of tile register n is entry 1,024 n + b; element (r, n) of accumulator tile a is entry 1,024 a + 32 r + n
  tile : Map Byte
  acc : Map F32
  mask : Map (BitVec 1024)
  -- resources written since the cell was last zeroed, or since the thread was spawned (R56, R60)
  written : Map Bool
  progWords : Nat
  prog : List Word
  -- cell-store bytes above the program region that have been written or declared (R56, R57)
  store : Map Byte
  slots : Map Slot
  nextStamp : Nat
  fetchPtr : Nat
  skip : List Nat
  -- threads whose next fetch is past the end of the program (R87)
  pastEnd : List Nat
  ctl : List Entry
  vec : List Entry
  mat : List Entry
  flights : List Flight
  missWaiters : List Nat
  missGranted : List Nat
  runs : List MatRun
  quench : Option QuenchRun
  bellows : List BellowsReq
  nextReq : Nat
  bellowsPtr : Nat
  allocs : List AllocReq
  -- cached translations, oldest first: virtual page number and what it maps (R162)
  tlb : List (Nat × Nat)
  -- the launch: mode 2 while one runs, 3 for a retired cell, else 0 (R94)
  mode : Nat
  ctxv : Bool
  ctx : Nat
  stage : Option Nat
  job : Nat
  item : Option Nat
  rank : Nat
  bedW : Nat
  bedH : Nat
  step : BitVec 32
  itemWord : Word
  reported : Bool
  -- registers
  issue : Map Nat
  missWait : Nat
  faultCode : Nat
  faultAddr : Nat
  faultSpace : Bool
  faultThread : Nat
  faultPc : Nat
  retries : Nat
  sparesUsed : Nat
  beatFails : Nat
  beatTick : Nat
  retryTimes : List Nat
  testOwed : Bool
  laneSound : Bool
  -- groups whose spare is in use; spares without a journal record yet (64 × group + bond)
  spared : List Nat
  unlogged : List Nat
  qdrop : List Nat
  qinval : List Nat
  qdefer : List Nat
  -- channel ports
  tx : Map Port
  rx : Map Port
  deriving DecidableEq, Repr

/-! ### Pavilions, beds and dispatch units (chapter 08) -/

/-- Power states of a pavilion (R230). -/
inductive PPower where
  | off | gated | kindling | run
  deriving DecidableEq, Repr

/-- A bed (R212, R243); `item` is the item reserved or running on it, by its number in the job. -/
structure Bed where
  valid : Bool
  stage : Nat
  replica : Nat
  row0 : Nat
  col0 : Nat
  h : Nat
  w : Nat
  migrating : Bool
  item : Option Nat
  deriving DecidableEq, Repr

/-- What a dispatch unit waits for (R225). -/
inductive DWait where
  | none
  | next (d : Nat)
  | launch (d : Nat) (item : Nat)
  deriving DecidableEq, Repr

/-- A pavilion with its dispatch unit (R225, R230, R238 to R243, R393, R453). -/
structure Pav where
  power : PPower
  held : Bool
  ctx : Nat
  retired : Bool
  retirePend : Bool
  beds : Map Bed
  offTicks : Nat
  gateCycles : Nat
  -- the values of POWER that govern the present idle period (R240)
  offNow : Nat
  gateNow : Nat
  idleSince : Nat
  aclkDown : Nat
  aclkPend : Nat
  voff : Nat
  voffPend : Nat
  slack : Nat
  drift : Nat
  -- dispatch unit
  code : Nat
  dstate : Nat
  dpc : Nat
  dreg : Map Word
  prog : List (BitVec 32)
  table : List Word
  scratch : Map Word
  args : Map Word
  reserved : Option Nat
  dwait : DWait
  starts : List (Nat × Nat)
  -- counters
  late : Nat
  kindles : Nat
  belv : Map Nat
  deriving DecidableEq, Repr

/-! ### Memory of a job context (chapter 06) -/

/-- What a leaf maps (R159, R157). -/
inductive Target where
  | phys (addr : Nat)
  | fabric (addr : Nat)
  deriving DecidableEq, Repr

/-- A leaf entry of 64 KiB (R159): `loc` is 0 store, 1 HBM, 2 moving. -/
structure Leaf where
  target : Target
  r : Bool
  w : Bool
  rm : Bool
  ns : Bool
  imm : Bool
  a : Bool
  loc : Nat
  deriving DecidableEq, Repr

/-- States of a frame (R173). -/
inductive FState where
  | free | zeroing | staged | published | held | scratch | persistent | icehouse | system | retired
  deriving DecidableEq, Repr

/-- A frame in use: its state and the job context that holds it. -/
structure Frame where
  state : FState
  job : Nat
  deriving DecidableEq, Repr

/-- An output slot instance with its publication word (R170): pages by their number within the instance. -/
structure Inst where
  va : Nat
  size : Nat
  cur : Map Leaf
  curV : Bool
  next : Map Leaf
  nextV : Bool
  commitItem : Nat
  version : Nat
  deriving DecidableEq, Repr

/-- A staging range of an item for a slot (R167, R170): its base, the bytes allocated so far by each bed rank, its pages by number. -/
structure Staging where
  slot : Nat
  base : Nat
  used : Map Nat
  pages : Map Leaf
  deriving DecidableEq, Repr

/-- A page move between store and HBM (R175): the page, its frames' addresses, whether it comes in; a page-in that waits for an
eviction to free a frame has not `started`. -/
structure PageMove where
  vpn : Nat
  fromAddr : Nat
  toAddr : Nat
  pageIn : Bool
  started : Bool
  deriving DecidableEq, Repr

/-! ### Work items (chapters 06, 08, 09, 11) -/

/-- How far an item has come: not yet reserved, reserved by NEXT, running on its bed, committed (the DONE write of R172), DONE,
NOT_EXECUTED (R16). -/
inductive IState where
  | waiting | reserved | running | committed | done | notExecuted
  deriving DecidableEq, Repr

/-- A work item (R222, R223). -/
structure Item where
  stage : Nat
  replica : Nat
  phase : Nat
  mb : Nat
  chunk : Nat
  step : BitVec 32
  die : Nat
  state : IState
  pav : Nat
  bed : Nat
  toReport : List Nat
  reported : Bool
  staging : List Staging
  scratch : Map Nat
  scratchPages : Map Leaf
  version : Nat
  deriving DecidableEq, Repr

/-- An entry of the micro-batch table (R412). -/
structure Batch where
  len : Nat
  input : Nat
  target : Nat
  deriving DecidableEq, Repr

/-- A step submitted to the job (R411): its micro-batches, scalars, the queue entry to complete, the tick at which
an item of it last committed (R413). -/
structure StepRec where
  number : BitVec 32
  batches : List Batch
  scalars : List F32
  queue : Option (Nat × Nat)
  committedAt : Nat
  deriving DecidableEq, Repr

/-! ### The Icehouse (chapter 09) -/

/-- Entry states (R251). -/
inductive EState where
  | instore | spilling | spilled | refilling | dropped
  deriving DecidableEq, Repr

/-- A stash entry (R251): the frame addresses of its pages, and their numbers within the slot. -/
structure StashEntry where
  stage : Nat
  replica : Nat
  mb : Nat
  chunk : Nat
  slot : Nat
  step : BitVec 32
  version : Nat
  state : EState
  recomp : Bool
  fmt : BitVec 8
  tensor : Nat
  size : Nat
  seq : Nat
  pages : List Nat
  pageNos : List Nat
  pins : List Nat
  deriving DecidableEq, Repr

/-- The Icehouse of a job on one store die (R253, R269 to R272). -/
structure Ice where
  store : Nat
  spill : Nat
  hwm : Nat
  peak : Nat
  entries : List StashEntry
  seq : Nat
  storeFrames : List Nat
  spillFrames : List Nat
  moves : List (Nat × Nat)
  spills : Nat
  refills : Nat
  drops : Nat
  recomputes : Nat
  deriving DecidableEq, Repr

/-! ### Synchronisation objects and the Hearth (chapter 10) -/

/-- A registered waiter (R282): waiter-table entry, deadline of a WAITT (E0 + n + 1). -/
structure Waiter where
  agent : Nat
  deadline : Option Nat
  deriving DecidableEq, Repr

/-- A synchronisation object (R273). -/
structure SyncObj where
  count : BitVec 32
  target : BitVec 32
  evsrc : Nat
  evt : Bool
  waiters : List Waiter
  -- word 1 of an object no job has held, or that the job does not declare, is zero until a first waiter registers (R275)
  wnull : Bool
  deriving DecidableEq, Repr

/-- An operation at an object's update port (R276, R281); `who` is the cell and stamp that a performed access reports to. -/
inductive PortOp where
  | arrive (v : BitVec 32) (who : Option (Nat × Nat))
  | arm (v : BitVec 32) (who : Option (Nat × Nat))
  | reset (who : Option (Nat × Nat))
  | read (c stamp : Nat)
  | wait (agent : Nat) (ticks : Option Nat)
  | setevt (e : Nat)
  | clrevt
  deriving DecidableEq, Repr

/-- A release or expiry message on its way to a waiting agent (R282). -/
structure WaitMsg where
  agent : Nat
  satisfied : Bool
  deriving DecidableEq, Repr

/-- The atomics of R292. -/
inductive AtomOp where
  | add | fadd | xs | min | max | xchg | cas
  deriving DecidableEq, Repr

/-- An atomic at a Hearth (R291): the physical ranges of its operand (an XS element may cross a page), operands, width in bytes, and where the result goes: a cell's flight, or a fabric request. -/
structure HearthReq where
  op : AtomOp
  parts : List (Nat × Nat)
  a : Word
  b : Word
  width : Nat
  cell : Option (Nat × Nat)
  fabric : Option Packet
  deriving DecidableEq, Repr

/-! ### Parameters (chapter 11) -/

/-- A version of a shard at its owner (R308, R315): pages of the working copy and of the hot-tier state by virtual page number, the
digest published with it, its holds. -/
structure VerRec where
  version : Nat
  step : BitVec 32
  digest : Word
  work : Map Leaf
  hot : Map Leaf
  holds : Nat
  deriving DecidableEq, Repr

/-- A cached copy of a shard version on a store die (R309): its pages by virtual page number, its holds; one that the
scrub has `discarded` is read by items already running only (R312). -/
structure CacheRec where
  shard : Nat
  die : Nat
  version : Nat
  digest : Word
  pages : Map Leaf
  holds : Nat
  newest : Bool
  discarded : Bool
  -- the items that ran on it when it was discarded (R312)
  users : List Nat
  deriving DecidableEq, Repr

/-- A fetch in progress on a store die (R309, R311); from another package, `raw` holds the bytes that have come of the `need`
wanted. -/
structure FetchRec where
  job : Nat
  shard : Nat
  version : Nat
  tries : Nat
  remote : Bool
  raw : Map Byte
  need : Nat
  deriving DecidableEq, Repr

/-- The UPD item that an update engine runs (R317, R320, R323): the shards still to do, the block within the shard, the
program counter, the registers u (entry 1,024 u + element of the block). -/
structure UpdRun where
  job : Nat
  item : Nat
  shards : List Nat
  block : Nat
  pc : Nat
  u : Map F32
  deriving DecidableEq, Repr

/-- The version fixed for a micro-batch at a stage, and the die that holds it there (R314, R315). -/
structure FixedVer where
  stage : Nat
  replica : Nat
  step : BitVec 32
  mb : Nat
  version : Nat
  die : Nat
  deriving DecidableEq, Repr

/-! ### A job context -/

/-- A job context (R403, R158, R164, R165). `gen` tells one load from the next; `stuckSince` is the tick from which the deadlock condition
of R261 has held. -/
structure Job where
  loaded : Bool
  faulted : Bool
  gen : Nat
  image : JobImage
  epoch : BitVec 16
  epochState : Nat
  -- physical address of the level-1 table (R158, R184)
  root : Nat
  pages : Map Leaf
  syncPages : Map Nat
  insts : List Inst
  windowNext : Nat
  items : Map Item
  nextItem : Nat
  steps : List StepRec
  begun : List (Nat × Nat × Nat)
  usedStore : Map Nat
  usedHbm : Map Nat
  ices : Map Ice
  moves : List PageMove
  clock : Map Nat
  stuckSince : Option Nat
  -- versions by shard and version number (shard × 2^32 + version); the current version of each shard
  versions : Map VerRec
  shardVer : Map Nat
  caches : List CacheRec
  fixed : List FixedVer
  -- the step at which each store die last scrubbed (R312)
  scrubbed : Map Nat
  -- what the loader divided (R377 to R379): the ranges of each cut by member, the layers of each pipeline member, the slots of each expert and of each expert-axis member by layer
  cutRanges : List (List (Nat × Nat))
  stageRanges : List (Nat × Nat)
  expertSlots : List (List Nat)
  memberSlots : List (List Nat)
  deriving DecidableEq, Repr

/-- A re-shard descriptor in flight (R381, R385): its job context, the step for SR, the transition it belongs to or the queue
entry that asked for it (IMPORT). -/
structure RunDescr where
  job : Nat
  d : Descr
  step : BitVec 32
  trans : Option Nat
  entry : Option (Nat × Nat)
  -- its number; taken up; bytes that came from another package, by virtual address, and how many are wanted; WRs sent and not acknowledged;
  -- the code with which a target has rejected part of it
  id : Nat
  started : Bool
  raw : Map Byte
  need : Nat
  sent : Bool
  acks : Nat
  failed : Option Nat
  deriving DecidableEq, Repr

/-! ### Store dies and HBM (chapter 06) -/

/-- A store die's own registers and allocator state (R183 to R188); frames are numbered by physical address / 65,536. -/
structure StoreDie where
  ctxRoot : Map (Nat × Bool)
  frames : Map Frame
  corrected : Nat
  uncorrected : Nat
  pageIn : Nat
  evict : Nat
  walks : Nat
  inval : Nat
  passes : Nat
  period : Nat
  -- corrected and uncorrectable errors by bank, with the ticks at which they came (R437)
  bankErrs : List (Nat × Bool × Nat)
  -- the Hearth (R301 to R305)
  syncIndex : Nat
  syncCode : Nat
  atomics : Nat
  xsAdds : Nat
  xsInf : Nat
  xsNan : Nat
  waitsSat : Nat
  waitsOut : Nat
  peak : Nat
  hearthQ : List HearthReq
  -- the update engine (R334 to R339)
  updRun : Option UpdRun
  updStep : BitVec 32
  updCtx : Nat
  elems : Nat
  fetches : Nat
  refetch : Nat
  failed : Nat
  scrubPasses : Nat
  discards : Nat
  vholdWait : Nat
  slowWait : Nat
  fetch : List FetchRec
  -- the re-shard engine (R396)
  transBusy : Option (Nat × Nat)
  transLast : Nat
  transCtx : Nat
  transQueue : List (Nat × Nat)
  descrs : List RunDescr
  nextDescr : Nat
  bytesOut : Nat
  epRejEpoch : BitVec 16
  epRejSrc : BitVec 16
  epRejCount : Nat
  deriving DecidableEq, Repr

/-- An HBM controller and its stack (R183, R189, R439). -/
structure Hbm where
  state : Nat
  temp : Nat
  pcRet : Word
  usable : List Nat
  corrected : Nat
  uncorrected : Nat
  errs : List (Nat × Bool × Nat)
  reinitWanted : Bool
  deriving DecidableEq, Repr

/-! ### Links and the fabric (chapter 12) -/

/-- A link (R340 to R344, R371). -/
structure Link where
  state : Nat
  since : Nat
  enable : Bool
  retrain : Bool
  peer : BitVec 16
  peerLink : Nat
  lanes : Nat
  lanesRetired : List Nat
  laneFails : List (Nat × Nat)
  trains : Nat
  trainTimes : List Nat
  uncorrTimes : List Nat
  llretry : Nat
  uncorr : Nat
  crcFail : Nat
  fecSym : Nat
  rxNext : BitVec 12
  nakSent : Bool
  -- bytes of a packet that goes on in the next flit
  rx : List Byte
  -- the transmitter: credits per class, number of the next flit, the flits not yet acknowledged with the packets that begin in them (R342)
  credits : List Nat
  txNext : BitVec 12
  replay : List (List Packet)
  deriving DecidableEq, Repr

/-- Who a remote request answers (R358): a cell's flight at a byte offset, a Bellows request at a granule offset, a shard fetch at a
byte offset, a combining entry, a re-shard descriptor at the virtual address of the byte. -/
inductive ReqFor where
  | cell (c stamp off : Nat)
  | operand (c stamp : Nat) (isB : Bool) (off : Nat)
  | bellows (c id off : Nat)
  | fetch (shard off : Nat)
  | comb (id : Nat)
  | reshard (id off : Nat)
  | none
  deriving DecidableEq, Repr

/-- An outstanding RD or ATOM (R358, R359); `ahead` for run-ahead of a stream (R208). -/
structure OutReq where
  tag : Nat
  gen : Nat
  sentAt : Nat
  lastAt : Nat
  retries : Nat
  forWho : ReqFor
  ahead : Bool
  job : Nat
  pkt : Packet
  deriving DecidableEq, Repr

/-- A packet of a sequenced channel with the times it was resent, the job context that it is sent for, and the cell and stamp of the
access whose acknowledgement it is (R352, R353). -/
structure SentPkt where
  pkt : Packet
  resent : Nat
  job : Option Nat
  who : Option (Nat × Nat)
  deriving DecidableEq, Repr

/-- A sending channel entry (R351, R352): the packets not yet covered by an ACK, and those that wait behind 4,096 of them. -/
structure SendCh where
  id : Nat
  dst : BitVec 16
  dstk : Nat
  cls : Nat
  next : BitVec 32
  opened : Bool
  unacked : List SentPkt
  waitQ : List SentPkt
  progressAt : Nat
  idleAt : Nat
  path : Option Nat
  deriving DecidableEq, Repr

/-- A receiving channel entry (R351); `pendObjs` are the objects on which its arrivals may yet wait at their port (R352). -/
structure RecvCh where
  id : Nat
  src : BitVec 16
  sstk : Nat
  cls : Nat
  next : BitVec 32
  held : List Packet
  acked : BitVec 32
  usedAt : Nat
  pendObjs : List Nat
  deriving DecidableEq, Repr

/-- A kept result of a remote atomic (R361). -/
structure Kept where
  id : Nat
  src : BitVec 16
  sstk : Nat
  tag : Nat
  gen : Nat
  old : Word
  code : Nat
  time : Nat
  deriving DecidableEq, Repr

/-- A combining entry or record at a router (R364, R365): the requests merged, in the router's order; `sent`
once the one request that stands for them has gone on. -/
structure Comb where
  id : Nat
  members : List Packet
  sent : Bool
  deriving DecidableEq, Repr

/-- An access that waits for a line: its job context, whom it answers, its bytes within the line, the bytes to write. -/
structure LineWait where
  job : Nat
  who : ReqFor
  lo : Nat
  len : Nat
  wr : Option (List Byte)
  deriving DecidableEq, Repr

/-- A line of a coherent region cached at a member (R369): 0 I, 1 S, 2 M; `asked` 1 when a CRD is out for it, 2 when a CRDX is. -/
structure MLine where
  state : Nat
  data : List Byte
  asked : Nat
  waits : List LineWait
  deriving DecidableEq, Repr

/-- The home's directory entry of a line (R369): 0 U, 1 S, 2 M; the members that hold it; the members whose CRACK is awaited; the
requests that wait. -/
structure DLine where
  state : Nat
  holders : List (BitVec 16)
  recalls : List (BitVec 16)
  pend : List Packet
  deriving DecidableEq, Repr

/-- The fabric unit of a store die (R358, R361, R372, R373). -/
structure Fab where
  rtsel : Nat
  route : Map Nat
  outs : List OutReq
  -- next generation of a tag; tick + 1 at which (tag, generation), numbered 16 tag + generation, was last carried
  tagGen : Map Nat
  tagTime : Map Nat
  -- tags that may not be issued before a tick: quarantined (R359), recently used (R358)
  quar : Map Nat
  recent : Map Nat
  tagNext : Nat
  send : List SendCh
  -- packets whose channel waits for one of the 4,096 sending entries (R351)
  chanWait : List SentPkt
  recv : List RecvCh
  nextId : Nat
  kept : List Kept
  waiting : List Packet
  -- requests that wait for a tag (R358)
  tagWait : List OutReq
  combs : List Comb
  held : List (Nat × Packet × Nat)
  hoplimit : Nat
  residency : Nat
  dupseq : Nat
  stalegen : Nat
  dupatom : Nat
  indet : Nat
  combReads : Nat
  combAtoms : Nat
  rejCode : Nat
  rejTarget : BitVec 16
  rejCount : Nat
  xfer : Option (BitVec 16 × Nat × BitVec 16)
  xferBusy : Bool
  -- channels (store die, entry) with the number that the next packet had when FAB.XFER was written
  xferWait : List (Nat × Nat × BitVec 32)
  xferSent : Bool
  xferCode : Nat
  marks : List (BitVec 16 × BitVec 32 × Nat)
  markTime : Nat
  lines : Map MLine
  dir : Map DLine
  deriving DecidableEq, Repr

/-- An entry of the region table (R346, R374). -/
structure Region where
  valid : Bool
  mode : Nat
  ctx : Nat
  vbase : Nat
  owner : BitVec 16
  len : Nat
  dom : List (BitVec 16)
  deriving DecidableEq, Repr

/-! ### Queues (chapter 15) -/

/-- An accepted entry without a completion (R405, R406): acceptance count, its 128 bytes, whether it has begun, its outcome (code,
1 for NOT_EXECUTED, detail, context). -/
structure QEntry where
  k : Nat
  data : List Byte
  begun : Bool
  outcome : Option (Nat × Nat × Nat × Nat)
  deriving DecidableEq, Repr

/-- A queue pair (R404 to R406, R420); `sqSet`, `cqSet`, `awSet`: the base has been written since reset. -/
structure Queue where
  sqBase : Nat
  cqBase : Nat
  awBase : Nat
  sqSet : Bool
  cqSet : Bool
  awSet : Bool
  sqlog : Nat
  cqlog : Nat
  enable : Bool
  tail : Nat
  accept : Nat
  cqhead : Nat
  written : Nat
  entries : List QEntry
  deriving DecidableEq, Repr

/-- LODGE.CTX[j] (R420). -/
structure Ctx where
  code : Nat
  state : Nat
  step : Nat
  deriving DecidableEq, Repr

/-- An export in progress (R330). -/
structure ExportRun where
  job : Nat
  queue : Nat
  k : Nat
  shard : Nat
  version : Nat
  buf : Nat
  obj : Nat
  deriving DecidableEq, Repr

/-- A UCIe module (R397, R421). -/
structure Ucie where
  state : Nat
  repaired : Nat
  laneUse : List (Nat × Bool)
  replay : Nat
  crcErr : Nat
  hdmRej : Nat
  crcTimes : List (Nat × Nat)
  retrainTimes : List Nat
  deriving DecidableEq, Repr

/-! ### The event controller (chapter 16) -/

/-- EVC.SRC[n] with its pending and enable bits (R428, R429); `level` is the input last seen of a level source (R426). -/
structure EvSrc where
  pend : Bool
  enable : Bool
  prio : Nat
  deliv : Bool
  last : Nat
  targets : BitVec 52
  level : Bool
  deriving DecidableEq, Repr

/-- A target's running priority and stack (R430, R431). -/
structure EvCpu where
  runpri : Nat
  stack : List Nat
  deriving DecidableEq, Repr

/-- An MSI-X table entry (R432). -/
structure MsixEntry where
  addr : Word
  data : BitVec 32
  masked : Bool
  deriving DecidableEq, Repr

/-! ### Resets, flash, security, power (chapters 17 to 19) -/

/-- A stack or a compute die on its way through a reset (R444, R445): phase 0 up, 1 holding, 2 in reset, 3 reinitialising; `since` the
tick of the hold, while reinitialising the tick from which it may be up; `wanted` when it was requested in SLEEP and waits for the exit
(R491); `boot` while the firmware brings the stack up after a boot, which is no change of the distance table (R28, R30). -/
structure StackRst where
  phase : Nat
  computeOnly : Bool
  since : Nat
  wanted : Bool
  boot : Bool
  deriving DecidableEq, Repr

/-- A journal record (R456). -/
structure JRec where
  seq : Nat
  typ : Nat
  index : Nat
  boot : Nat
  ember : Nat
  value : Nat
  deriving DecidableEq, Repr

/-- The package record flash (R17, R456, R458, R466): birth record (what it retires, its bytes, whether its signature verifies, log 6), the
unique device secret that its helper data give with the PUF, journal, enrolled keys; `boots` counts cold boots, `used` the records in the
active half. -/
structure Flash where
  big : Bool
  birth : List JRec
  birthBytes : List Byte
  birthOk : Bool
  uds : List Byte
  svnFloor : Nat
  devicePub : List Byte
  cert : List Byte
  pufOk : Bool
  journal : List (List Byte)
  seq : Nat
  used : Nat
  boots : Nat
  health : Nat
  slots : Map (List Byte)
  deriving DecidableEq, Repr

/-- Boot, SEC and attestation (chapter 18). -/
structure Sec where
  bootCode : Nat
  bootState : Nat
  svn : Nat
  imgAddr : Nat
  imgLen : Nat
  cmdAddr : Nat
  imgAddrSet : Bool
  imgLenSet : Bool
  cmdAddrSet : Bool
  nonce : BitVec 128
  nonceValid : Bool
  cmdOp : Nat
  cmdCode : Nat
  debugScope : BitVec 32
  debug : Bool
  identOk : Bool
  attestOk : Bool
  event : Nat
  attCode : Nat
  attRefused : Nat
  aliasSeed : List Byte
  aliasCert : List Byte
  meas : Map (List Byte)
  spdm : Nat
  -- the cold boot since VAON came up has begun (R460)
  coldDone : Bool
  pufLocked : Bool
  deriving DecidableEq, Repr

/-- Power, clocks and package pins (chapter 19): `row` the row of R483 reached, 6 once Lodge core 0 is released, 7 while the rails go down;
`pstate` 0 for OFF, else PSTATE of R489; `sleeping` 2 once an exit from SLEEP has begun; `skipped` in eighths of a cycle. -/
structure Pwr where
  fault : Nat
  row : Nat
  rowSince : Nat
  pg : List Rail
  en : List Rail
  refLost : List RefClk
  sleepTicks : Nat
  linkLp : Nat
  sleepEn : Bool
  tj : Nat
  plimit : Nat
  temps : List Nat
  tempStore : Nat
  skipped : Nat
  duty : Nat
  prochotCause : Bool
  thermal : Bool
  power : Bool
  active : Bool
  energy : Nat
  prochotN : Bool
  faultN : Bool
  thermtripN : Bool
  pkgRstN : Bool
  pstate : Nat
  sleeping : Nat
  idleSince : Nat
  throttleAt : Nat
  deriving DecidableEq, Repr

/-- A migration of a bed (R236): from and to (pavilion, bed); `ends` the END markers that have arrived, `moves` the channels whose
MOVE marker has. -/
structure Mig where
  stage : Nat
  replica : Nat
  fromP : Nat
  fromB : Nat
  toP : Nat
  toB : Nat
  ends : List Nat
  moves : List Nat
  done : Bool
  deriving DecidableEq, Repr

/-- An error register BLOCK.ERR (R11). -/
structure ErrReg where
  count : Nat
  offset : Nat
  code : Nat
  deriving DecidableEq, Repr

/-- An SPDM response (R472): its code (RequestResponseCode), and the bytes of its body. -/
structure SpdmMsg where
  code : BitVec 8
  body : List Byte
  deriving DecidableEq, Repr

/-- The package (the spec's whole state), and the model's own fields, said so where they stand. -/
structure State where
  -- the model's own: the queue of commands that wait, first in first out
  pending : List Instr
  -- the model's own: counter that makes every free value fresh (log 7)
  free : Nat
  -- the model's own: what the last read by the host returned (log 8)
  rdata : Word
  hdmData : List Byte
  -- the ember counter (R18, R487)
  ember : Nat
  -- store and HBM by device physical address; host DDR5 by host physical address (R152, R182)
  mem : Mem
  host : Mem
  ddr5 : Nat
  -- code words that hold an error, by address: 8 bytes of store, 64 bytes of HBM; true when it cannot be corrected (R181)
  upsets : Map Bool
  cells : Map Cell
  pavs : Map Pav
  stores : Map StoreDie
  hbms : Map Hbm
  links : Map Link
  fabs : Map Fab
  ucies : Map Ucie
  -- synchronisation objects, the jobs that hold their pages (number of the context plus 1), port queues, messages
  objs : Map SyncObj
  objPages : Map Nat
  ports : Map (List PortOp)
  waitMsgs : List WaitMsg
  jobs : Map Job
  -- the model's own: loads committed, which number the jobs (log 51)
  loads : Nat
  migs : Map (List Mig)
  exportRuns : List ExportRun
  regions : Map Region
  pkgId : BitVec 16
  pkgSet : Bool
  -- LODGE
  ctxs : Map Ctx
  queues : Map Queue
  errs : Map ErrReg
  distGen : BitVec 32
  rsts : Map StackRst
  pavRsts : Map Nat
  rstCause : Nat
  rstAborted : Nat
  rstPkg : Bool
  failTrigger : Nat
  lodgeClk : Bool
  imageMem : List Byte
  -- EVC and BAR4
  evs : Map EvSrc
  evCpus : Map EvCpu
  rotate : Nat
  msix : Map MsixEntry
  msixMask : Bool
  -- the model's own: messages that have left the block (MSI-X writes with the UCIe module that they take, Lodge wires, SPDM responses, packets by link)
  msiOut : List (Nat × Word × BitVec 32)
  wires : List Nat
  spdmOut : List SpdmMsg
  sent : Map (List Packet)
  -- events reported: code, and the unit that it is about
  events : List (Nat × Nat)
  -- TEMPER.CFG
  guard : Nat
  driftPlan : Nat
  period : Nat
  temperAt : Nat
  flash : Flash
  sec : Sec
  pwr : Pwr
  hdmAt : Nat
  deriving DecidableEq, Repr

/-! ### Why a step stops -/

/-- Faults. -/
inductive Fault where
  /-- Raised by every command whose operand names a cell, thread, pavilion, store die, link, object, source or context that the
  package does not have. Safe: the block has no such unit, so the hardware has no behaviour that the model leaves out. -/
  | noSuchUnit
  deriving DecidableEq, Repr

/-- Refusals. -/
inductive Refusal where
  /-- Raised by the arm of a command that has no meaning yet. Safe. -/
  | notModelled (mnemonic : String)
  deriving DecidableEq, Repr

/-! ### Reset values (log 9 to log 12 name those the spec does not give) -/

def Slot.reset : Slot := ⟨.empty, [], 0, 0, 0, 0, [], 0⟩
def Port.reset : Port := ⟨false, 0, 0, 0, 0, 0, 0, [], [], 0, [], false⟩

def Cell.reset : Cell :=
  { sreg := [], pc := [], streamId := [], tstate := [], waits := [], tile := [], acc := [], mask := [], written := [],
    progWords := 0, prog := [], store := [], slots := [], nextStamp := 0, fetchPtr := 0, skip := [], pastEnd := [], ctl := [], vec := [],
    mat := [], flights := [], missWaiters := [], missGranted := [], runs := [], quench := none, bellows := [], nextReq := 0, bellowsPtr := 0,
    allocs := [], tlb := [], mode := 0, ctxv := false, ctx := 0, stage := none, job := 0, item := none, rank := 0, bedW := 0, bedH := 0,
    step := 0, itemWord := 0, reported := false, issue := [], missWait := 0, faultCode := 0, faultAddr := 0,
    faultSpace := false, faultThread := 0, faultPc := 0, retries := 0, sparesUsed := 0, beatFails := 0, beatTick := 0, retryTimes := [],
    testOwed := false, laneSound := false, spared := [], unlogged := [],
    qdrop := [0, 0, 0, 0], qinval := [0, 0], qdefer := [0, 0], tx := [], rx := [] }

def Bed.reset : Bed := ⟨false, 0, 0, 0, 0, 0, 0, false, none⟩

def Pav.reset : Pav :=
  { power := .off, held := false, ctx := 0, retired := false, retirePend := false, beds := [], offTicks := 25000,
    gateCycles := 4096, offNow := 25000, gateNow := 4096, idleSince := 0, aclkDown := 0, aclkPend := 0, voff := 0,
    voffPend := 0, slack := 0, drift := 0, code := 0, dstate := 0, dpc := 0, dreg := [], prog := [], table := [],
    scratch := [], args := [], reserved := none, dwait := .none, starts := [], late := 0, kindles := 0,
    belv := [] }

def StoreDie.reset : StoreDie :=
  { ctxRoot := [], frames := [], corrected := 0, uncorrected := 0, pageIn := 0, evict := 0, walks := 0, inval := 0,
    passes := 0, period := 24, bankErrs := [], syncIndex := 0, syncCode := 0, atomics := 0, xsAdds := 0, xsInf := 0,
    xsNan := 0, waitsSat := 0, waitsOut := 0, peak := 0, hearthQ := [], updRun := none, updStep := 0, updCtx := 0,
    elems := 0, fetches := 0, refetch := 0, failed := 0, scrubPasses := 0, discards := 0, vholdWait := 0, slowWait := 0,
    fetch := [], transBusy := none, transLast := 0, transCtx := 0, transQueue := [], descrs := [], nextDescr := 0, bytesOut := 0,
    epRejEpoch := 0, epRejSrc := 0, epRejCount := 0 }

def Hbm.reset : Hbm :=
  { state := 0, temp := 0, pcRet := 0, usable := List.range 64, corrected := 0, uncorrected := 0, errs := [], reinitWanted := false }

def Link.reset : Link :=
  { state := 0, since := 0, enable := true, retrain := false, peer := 0xFFFF, peerLink := 0, lanes := 0, lanesRetired := [],
    laneFails := [], trains := 0, trainTimes := [], uncorrTimes := [], llretry := 0, uncorr := 0, crcFail := 0, fecSym := 0,
    rxNext := 0, nakSent := false, rx := [], credits := [512, 512, 512, 512], txNext := 0, replay := [] }

def Fab.reset : Fab :=
  { rtsel := 0, route := [], outs := [], tagGen := [], tagTime := [], quar := [], recent := [], tagNext := 0, send := [], chanWait := [], recv := [], nextId := 0,
    kept := [], waiting := [], tagWait := [], combs := [], held := [], hoplimit := 0, residency := 0, dupseq := 0, stalegen := 0,
    dupatom := 0, indet := 0, combReads := 0, combAtoms := 0, rejCode := 0, rejTarget := 0, rejCount := 0, xfer := none,
    xferBusy := false, xferWait := [], xferSent := false, xferCode := 0, marks := [], markTime := 0, lines := [], dir := [] }

def Ucie.reset : Ucie :=
  { state := 0, repaired := 0, laneUse := [], replay := 0, crcErr := 0, hdmRej := 0, crcTimes := [], retrainTimes := [] }

def MLine.reset : MLine := ⟨0, [], 0, []⟩
def DLine.reset : DLine := ⟨0, [], [], []⟩
def SyncObj.reset : SyncObj := ⟨0, 0, 0, false, [], true⟩

def Queue.reset : Queue :=
  { sqBase := 0, cqBase := 0, awBase := 0, sqSet := false, cqSet := false, awSet := false, sqlog := 4, cqlog := 4,
    enable := false, tail := 0, accept := 0, cqhead := 0, written := 0, entries := [] }

def Ctx.reset : Ctx := ⟨0, 0, 0⟩
def EvSrc.reset : EvSrc := ⟨false, false, 0, false, 0x3F, 0, false⟩
def EvCpu.reset : EvCpu := ⟨0, []⟩
def MsixEntry.reset : MsixEntry := ⟨0, 0, false⟩
def StackRst.reset : StackRst := ⟨0, false, 0, false, false⟩
def ErrReg.reset : ErrReg := ⟨0, 0, 0⟩
def Region.reset : Region := ⟨false, 0, 0, 0, 0, 0, [0xFFFF, 0xFFFF, 0xFFFF]⟩

def Ice.reset : Ice :=
  { store := 0, spill := 0, hwm := 0, peak := 0, entries := [], seq := 0, storeFrames := [], spillFrames := [], moves := [],
    spills := 0, refills := 0, drops := 0, recomputes := 0 }

def MappingDecl.none : MappingDecl :=
  { axes := [], ranks := [], cuts := [], experts := [], layouts := [], layers := 0, cost := Option.none, nodeSize := 0, packages := [], trans := [], epochLast := [],
    closeObj := (0, 0), activations := [], activation := Option.none }

def JobImage.none : JobImage :=
  { magic := 0, hlen := 0, rev := 0, len := 0, rsv := false, seed := 0, nsect := 0, policy := 0, stale := 0, slowD := 0,
    window := 0, scrubSteps := 0, chunkT := 0, firstStep := 0, rank := 0, nrank := 0, sections := [], keyIdx := 0,
    verifies := false, bytes := [], samples := [], stages := [], edges := [], objEdges := [], chans := [], progs := [], perPav := false,
    table := [], regions := [], syncs := [], dies := [], tensors := [], updates := [], shards := [], exports := [],
    mapping := MappingDecl.none, contrs := [], placement := Option.none, initial := [] }

/-- A context that holds no job. -/
def Job.none : Job :=
  { loaded := false, faulted := false, gen := 0, image := JobImage.none, epoch := 0, epochState := 0, root := 0,
    pages := [], syncPages := [], insts := [], windowNext := 0, items := [], nextItem := 0, steps := [],
    begun := [], usedStore := [], usedHbm := [], ices := [], moves := [], clock := [], stuckSince := Option.none,
    versions := [], caches := [], fixed := [], shardVer := [], scrubbed := [], cutRanges := [], stageRanges := [], expertSlots := [], memberSlots := [] }

/-- The birth record and the journal of a part as it leaves the factory: ZT9-384-LQ, nothing retired, unowned (log 10). -/
def Flash.reset : Flash :=
  { big := false, birth := [], birthBytes := [], birthOk := true, uds := List.replicate 64 0, svnFloor := 0, devicePub := List.replicate 57 0, cert := [],
    pufOk := true, journal := [], seq := 0, used := 0, boots := 0, health := 0, slots := [] }

def Sec.reset : Sec :=
  { bootCode := 0, bootState := 0, svn := 0, imgAddr := 0, imgLen := 0, cmdAddr := 0, imgAddrSet := false,
    imgLenSet := false, cmdAddrSet := false, nonce := 0, nonceValid := false, cmdOp := 0, cmdCode := 0, debugScope := 0,
    debug := false, identOk := false, attestOk := false, event := 0, attCode := 0, attRefused := 0, aliasSeed := [], aliasCert := [],
    meas := [], spdm := 0, coldDone := false, pufLocked := false }

def Pwr.reset : Pwr :=
  { fault := 0, row := 2, rowSince := 0, pg := [], en := [.aux], refLost := [], sleepTicks := 25000000, linkLp := 0,
    sleepEn := true, tj := 92, plimit := 2900, temps := [0, 0, 0, 0], tempStore := 0, skipped := 0, duty := 0,
    prochotCause := false, thermal := false, power := false, active := false, energy := 0, prochotN := true, faultN := true,
    thermtripN := true, pkgRstN := true, pstate := 1, sleeping := 0, idleSince := 0, throttleAt := 0 }

/-- The package right after the always-on domain leaves reset (R483 row 1), which begins row 2: every register at its reset value, EN_AUX
asserted, no rail but VAON up, nothing pending. -/
def State.reset : State :=
  { pending := [], free := 0, rdata := 0, hdmData := [], ember := 0, mem := [], host := [], ddr5 := 137438953472, upsets := [],
    cells := [], pavs := [], stores := [], hbms := [], links := [], fabs := [], ucies := [], objs := [],
    objPages := [], ports := [], waitMsgs := [], jobs := [], loads := 0, migs := [], exportRuns := [], regions := [], pkgId := 0,
    pkgSet := false, ctxs := [], queues := [], errs := [], distGen := 0, rsts := [], pavRsts := [], rstCause := 0,
    rstAborted := 0, rstPkg := false, failTrigger := 0, lodgeClk := false, imageMem := [], evs := [],
    evCpus := [], rotate := 0, msix := [], msixMask := false, msiOut := [], wires := [], spdmOut := [], sent := [],
    events := [], guard := 40, driftPlan := 24, period := 45, temperAt := 0, flash := Flash.reset, sec := Sec.reset,
    pwr := Pwr.reset, hdmAt := 0 }

end Sys2Proof.Machine
end

