-- ==== Sys2Proof/WellFormed.lean ====
section
/-!
DEFINITION. WellFormed.lean: the units that the package has (R20, R22, R397, R404, R424, R483, R486), and the commands all of whose
operands name such units.
-/
namespace Sys2Proof

def cellOk (c : Nat) : Bool := decide (c < 4096)
def threadOk (t : Nat) : Bool := decide (t < 8)
def pavOk (p : Nat) : Bool := decide (p < 64)
def bedOk (b : Nat) : Bool := decide (b < 16)
def storeOk (s : Nat) : Bool := decide (s < 4)
def hbmOk (h : Nat) : Bool := decide (h < 8)
def linkOk (l : Nat) : Bool := decide (l < 48)
def ucieOk (u : Nat) : Bool := decide (u < 4)
def jobOk (j : Nat) : Bool := decide (j < 8)
def objOk (o : Nat) : Bool := decide (o < 262144)
def targetOk (t : Nat) : Bool := decide (t < 52)

def queueOk : QueueId → Bool
  | .admin => true
  | .ctx j q => decide (j < 8 ∧ q < 64)

def railOk : Rail → Bool
  | .cmp s => storeOk s
  | _ => true

def clkOk : RefClk → Bool
  | .ser s => storeOk s
  | _ => true

/-- Every unit that the command names exists. -/
def Instr.wellFormed (i : Instr) : Bool :=
  match i with
  | .kNop c t _ | .kJmp c t _ | .kJal c t _ | .kJr c t _ | .kJalr c t _ | .kBeq c t _ | .kBne c t _ | .kBlt c t _
  | .kBge c t _ | .kBltu c t _ | .kBgeu c t _ | .kTspawn c t _ | .kTjoin c t _ | .kYield c t _ | .kHalt c t _
  | .kRdsr c t _ | .kSpark c t _ | .kAdd c t _ | .kSub c t _ | .kMul c t _ | .kMulh c t _ | .kMulhu c t _ | .kDiv c t _
  | .kDivu c t _ | .kRem c t _ | .kRemu c t _ | .kAnd c t _ | .kOr c t _ | .kXor c t _ | .kShl c t _ | .kShr c t _
  | .kSra c t _ | .kSlt c t _ | .kSltu c t _ | .kMin c t _ | .kMax c t _ | .kMinu c t _ | .kMaxu c t _ | .kSel c t _
  | .kFaddF32 c t _ | .kFsubF32 c t _ | .kFmulF32 c t _ | .kFmaF32 c t _ | .kFminF32 c t _ | .kFmaxF32 c t _
  | .kFcmpltF32 c t _ | .kFcmpeqF32 c t _ | .kFcvtF32I64 c t _ | .kFcvtI64F32 c t _ | .kAddi c t _ | .kAndi c t _
  | .kOri c t _ | .kXori c t _ | .kShli c t _ | .kShri c t _ | .kSrai c t _ | .kSlti c t _ | .kSltiu c t _ | .kLih c t _
  | .kLd c t _ | .kLds c t _ | .kSt c t _ | .kLdx c t _ | .kStx c t _ | .kAadd c t _ | .kAfaddF32 c t _ | .kAxs c t _
  | .kAmin c t _ | .kAmax c t _ | .kAxchg c t _ | .kAcas c t _ | .kFenceThread c t _ | .kFenceCell c t _
  | .kSyncArrive c t _ | .kSyncArm c t _ | .kSyncWait c t _ | .kSyncWaitt c t _ | .kSyncRead c t _ | .kSyncReset c t _
  | .kAllocOut c t _ | .kAllocTmp c t _ | .kFreeTmp c t _ | .kPublish c t _ | .kQLoad c t _ | .kQStart c t _
  | .kQStop c t _ | .kQPopS c t _ | .kQStatus c t _ | .kVadd c t _ | .kVsub c t _ | .kVmul c t _ | .kVfma c t _
  | .kVmin c t _ | .kVmax c t _ | .kVabs c t _ | .kVneg c t _ | .kVdiv c t _ | .kVsqrt c t _ | .kVadds c t _
  | .kVmuls c t _ | .kViadd c t _ | .kViaddSat c t _ | .kVisub c t _ | .kVisubSat c t _ | .kVand c t _ | .kVor c t _
  | .kVxor c t _ | .kVshl c t _ | .kVshr c t _ | .kVsra c t _ | .kVexp c t _ | .kVlog c t _ | .kVrcp c t _
  | .kVrsqrt c t _ | .kVtanh c t _ | .kVsigm c t _ | .kVdsigm c t _ | .kVdtanh c t _ | .kVdrelu c t _ | .kVdexp c t _
  | .kVdsqrt c t _ | .kVdrcp c t _ | .kVdsoftmax c t _ | .kVcmpeq c t _ | .kVcmplt c t _ | .kVcmple c t _
  | .kVtestnan c t _ | .kVtestinf c t _ | .kVtestfin c t _ | .kMand c t _ | .kMor c t _ | .kMxor c t _ | .kMnot c t _
  | .kMfirst c t _ | .kVrsumRow c t _ | .kVrsumCol c t _ | .kVrmaxRow c t _ | .kVrmaxCol c t _ | .kVrminRow c t _
  | .kVrminCol c t _ | .kVcvt c t _ | .kVmov c t _ | .kVsel c t _ | .kVbcast c t _ | .kVtrans c t _ | .kVextr c t _
  | .kVins c t _ | .kVspark c t _ | .kVld c t _ | .kVst c t _ | .kVldQ c t _ | .kVldm c t _ | .kVstm c t _ | .kMma c t _
  | .kMmaZ c t _ | .kQuench c t _ | .kQuenchReset c t _ | .kQuenchPreload c t _ | .kAzero c t _ | .kApreload c t _
  | .fenceComplete c t | .waitReleaseMessage c t => cellOk c && threadOk t
  | .instructionFetch c | .missRegisterGrant c | .globalLoadReturn c _ | .cellReport c | .anvilChunkLand c
  | .quenchReadStart c | .quenchReadDone c | .allocatorAnswer c | .bellowsRequest c | .bellowsDataReturn c _
  | .verticalBeatCrcFail c | .laneTest c _ | .stashFrameRetry c | .slotSend c _ | .slotLand c _ | .creditReturn c _
  | .tongsOperandArrival c _ | .spareJournalRecord c => cellOk c
  | .scrubPatrol s _ | .frameZeroComplete s _ | .hearthAtomicApply s | .uLdf s _ | .uStf s _ | .uLdc s _ | .uLdk s _
  | .uFadd s _ | .uFsub s _ | .uFmul s _ | .uFma s _ | .uFdiv s _ | .uFsqrt s _ | .uFmin s _ | .uFmax s _ | .uFabs s _
  | .uFneg s _ | .uFcmplt s _ | .uFcmpeq s _ | .uSel s _ | .uFtestfin s _ | .uBsum s _ | .uBmax s _
  | .paramFetchComplete s _ | .transitionStart s | .reshardDescriptorComplete s _ | .zfpRd s _ | .zfpRdrsp s _
  | .zfpWr s _ | .zfpAtom s _ | .zfpAtomrsp s _ | .zfpAck s _ | .zfpRack s _ | .zfpArrive s _ | .zfpMark s _
  | .zfpXfer s _ | .zfpStatus s _ | .zfpCrd s _ | .zfpCrdx s _ | .zfpCdata s _ | .zfpCrecall s _ | .zfpCrack s _
  | .zfpCwb s _ | .packetForward s _ | .combineWindowClose s _ | .packetResidencyDrop s _ | .ackPeriodic s _
  | .channelResendTimeout s _ | .channelEntryIdleFree s _ _ | .remoteRequestRetry s _ | .remoteRequestTimeout s _
  | .tagQuarantineEnd s _ | .keptResultExpiry s _ | .regionTransfer s _ | .markSend s _ | .markReceiveRead s
  | .syncopArrive s _ _ | .syncopArm s _ _ | .syncopReset s _ _ | .syncopSetevt s _ _ | .syncopClrevt s _ _
  | .storeDieSelfFault s | .computeDieSelfFault s | .stackDrainEnd s _ | .stackReinitComplete s _ _
  | .stackHoldTimeout s | .overCurrent s | .updItemEnd s => storeOk s
  | .pageMoveDone j _ | .itemCommit j _ | .itemDone j _ | .publicationFold j _ | .icehouseDeadlockTimeout j
  | .migrationEndMarker j _ _ | .migrationMoveMarker j _ _ | .migrationComplete j _ | .exportRecordWritten j
  | .epochArrived j | .epochActivationSend j | .epochActivate j | .unloadComplete j => jobOk j
  | .icehouseSpillStart s j | .icehouseRefillStart s j | .icehouseMoveDone s j | .updItemLaunch s j _
  | .paramFetchStart s j _ | .digestScrub s j => storeOk s && jobOk j
  | .dNop p _ | .dAdd p _ | .dAddi p _ | .dSub p _ | .dAndi p _ | .dOr p _ | .dShli p _ | .dShri p _ | .dMuli p _
  | .dLdt p _ | .dLds p _ | .dSts p _ | .dBeq p _ | .dBne p _ | .dBltu p _ | .dJmp p _ | .dNext p _ | .nextResume p
  | .dArg p _ | .dLaunch p _ | .dKindle p _ | .kindleComplete p | .pavilionGate p | .pavilionOff p | .dMigrate p _
  | .dStat p _ | .dHalt p _ | .pavilionResetHalt p => pavOk p
  | .thread0Start p b => pavOk p && bedOk b
  | .syncPortUpdate o => objOk o
  | .waittExpiry o c t => objOk o && cellOk c && threadOk t
  | .flitReceive l _ | .linkDetectComplete l | .linkTrainComplete l | .linkAlignComplete l
  | .linkNegotiateComplete l _ _ _ _ _ | .linkStateTimeout l _ | .linkRetryDelayExpiry l | .linkLoss l
  | .linkRetrain l _ | .linkEnable l _ => linkOk l
  | .pkgidWrite _ | .ucieTrainingRetry _ | .hdmRead _ | .hdmWrite _ _ | .hostSyncRead _ _ | .syncWindowWrite _ _ _
  | .loadImage _ | .unloadEntry | .eventRoute | .resetPackage _ | .resetStack _
  | .resetComputeDie _ | .resetPavilion _ | .resetLink _ | .failsafeEnter _ | .lodgeWatchdogExpiry | .temperPass _
  | .coldBoot _ | .bootGo _ | .imageVerifyComplete _ _ | .nonceDraw | .enrollAdd _ | .enrollRemove _ | .enrollRelease _
  | .debugUnlock _ | .spdmGetVersion | .spdmGetCapabilities | .spdmNegotiateAlgorithms _ _ | .spdmGetDigests
  | .spdmGetCertificate _ _ _ | .spdmChallenge _ _ | .spdmGetMeasurements _ _ _ | .spdmUnsupportedRequest _
  | .powerUpRequest | .powerDownRequest | .powerDownStepTimer | .railOutOfTolerance
  | .prochotChange _ | .throttlePeriod _ | .sleepEntry | .sleepExit | .sleepExitComplete | .registerWrite _ _ _
  | .registerRead _ _ | .powerLoss | .lodgeStateUncorrectable => true
  | .ucieCrcError u _ _ => ucieOk u
  | .eventPendClear i _ | .eventSetp i _ => decide (i < 32)
  | .thermalTrip hbm idx _ => if hbm then hbmOk idx else decide (idx ≤ 4)
  | .tailWrite q _ _ | .queueEntryAccept q | .completionWrite q | .cqheadWrite q _ | .queueEnable q _
  | .queueDisable q _ | .queueNop q | .stepEntry q | .exportEntry q | .importEntry q => queueOk q
  | .eventEoi t _ => targetOk t
  | .powerGoodRise r | .powerGoodFall r | .powerGoodTimeout r => railOk r
  | .refclkLoss k | .refclkReturn k => clkOk k
  | .hbmReinitComplete h _ => hbmOk h

end Sys2Proof
end

