-- ==== Sys2Proof/Machine/Ops.lean ====
section
/-!
DEFINITION. Machine/Ops.lean: the accessors of the state, the outcome of a command, error codes (R423), events (R426), codes
reported (R14), registers' error records (R11), the job fault (R408).
-/
namespace Sys2Proof.Machine

/-- What a command answers. -/
abbrev Out := Host.Outcome State Fault Refusal

/-- A command on a unit that the package has; otherwise a fault (log 1). -/
def onUnit (ok : Bool) (t : State) : Out := if ok then .next t else .fault .noSuchUnit

/-- A command whose enabling condition holds has its effect; otherwise it is not performed and nothing changes (log 1). -/
def whenOk (ok : Bool) (s t : State) : State := if ok then t else s

/-! ### Error codes (R423) -/

def eArgRange : Nat := 0x1001
def eArgReserved : Nat := 0x1002
def eArgAlign : Nat := 0x1003
def eNotOwner : Nat := 0x1004
def eBadState : Nat := 0x1005
def eBadFormat : Nat := 0x1006
def eQueueFull : Nat := 0x1007
def eOverReservation : Nat := 0x1008
def eSeqTooLong : Nat := 0x1009
def eNotCoherent : Nat := 0x100A
def eLoadCells : Nat := 0x2001
def eLoadStore : Nat := 0x2002
def eLoadSync : Nat := 0x2003
def eLoadChannels : Nat := 0x2004
def eLoadHbm : Nat := 0x2005
def eLoadIcehouse : Nat := 0x2006
def eLoadImage : Nat := 0x2007
def eLoadContext : Nat := 0x2008
def iLinkRetry : Nat := 0x3001
def iVerticalRetry : Nat := 0x3002
def iEccCorrected : Nat := 0x3003
def iLaneSpared : Nat := 0x3004
def iDigestRefetch : Nat := 0x3005
def iMarginReplanned : Nat := 0x3006
def eLinkRetired : Nat := 0x4001
def eCellRetired : Nat := 0x4002
def eBankRetired : Nat := 0x4003
def eHbmChannelRetired : Nat := 0x4004
def eUcieModuleRetired : Nat := 0x4005
def ePavilionRetired : Nat := 0x4006
def eIcehouseExhausted : Nat := 0x5001
def eStackReset : Nat := 0x5002
def eAtomicIndeterminate : Nat := 0x5003
def eEpochClosed : Nat := 0x5004
def eDigestMismatch : Nat := 0x5005
def eUncorrectable : Nat := 0x5006
def eLinkNoPath : Nat := 0x5007
def ePageFault : Nat := 0x5008
def eFailSafe : Nat := 0x5009
def eSigInvalid : Nat := 0x6001
def eDebugOpen : Nat := 0x6002
def eMeasureMismatch : Nat := 0x6003
def eTokenInvalid : Nat := 0x6004

/-- A status value (R61): bit 63 set, the code in bits [15:0]. -/
def statusWord (code : Nat) : Word := BitVec.ofNat 64 (2 ^ 63 + code)

/-! ### Accessors: one home for each map -/

def getCell (s : State) (c : Nat) : Cell := mget Cell.reset s.cells c
def setCell (s : State) (c : Nat) (x : Cell) : State := { s with cells := mset Cell.reset c x s.cells }
def getPav (s : State) (p : Nat) : Pav := mget Pav.reset s.pavs p
def setPav (s : State) (p : Nat) (x : Pav) : State := { s with pavs := mset Pav.reset p x s.pavs }
def getStore (s : State) (d : Nat) : StoreDie := mget StoreDie.reset s.stores d
def setStore (s : State) (d : Nat) (x : StoreDie) : State := { s with stores := mset StoreDie.reset d x s.stores }
def getHbm (s : State) (h : Nat) : Hbm := mget Hbm.reset s.hbms h
def setHbm (s : State) (h : Nat) (x : Hbm) : State := { s with hbms := mset Hbm.reset h x s.hbms }
def getLink (s : State) (l : Nat) : Link := mget Link.reset s.links l
def setLink (s : State) (l : Nat) (x : Link) : State := { s with links := mset Link.reset l x s.links }
def getFab (s : State) (d : Nat) : Fab := mget Fab.reset s.fabs d
def setFab (s : State) (d : Nat) (x : Fab) : State := { s with fabs := mset Fab.reset d x s.fabs }
def getUcie (s : State) (u : Nat) : Ucie := mget Ucie.reset s.ucies u
def setUcie (s : State) (u : Nat) (x : Ucie) : State := { s with ucies := mset Ucie.reset u x s.ucies }
def getJob (s : State) (j : Nat) : Job := mget Job.none s.jobs j
def setJob (s : State) (j : Nat) (x : Job) : State := { s with jobs := mset Job.none j x s.jobs }
def getObj (s : State) (o : Nat) : SyncObj := mget SyncObj.reset s.objs o
def setObj (s : State) (o : Nat) (x : SyncObj) : State := { s with objs := mset SyncObj.reset o x s.objs }
def getQueue (s : State) (q : Nat) : Queue := mget Queue.reset s.queues q
def setQueue (s : State) (q : Nat) (x : Queue) : State := { s with queues := mset Queue.reset q x s.queues }
def getCtx (s : State) (j : Nat) : Ctx := mget Ctx.reset s.ctxs j
def setCtx (s : State) (j : Nat) (x : Ctx) : State := { s with ctxs := mset Ctx.reset j x s.ctxs }
def getEv (s : State) (n : Nat) : EvSrc := mget EvSrc.reset s.evs n
def setEv (s : State) (n : Nat) (x : EvSrc) : State := { s with evs := mset EvSrc.reset n x s.evs }
def getEvCpu (s : State) (t : Nat) : EvCpu := mget EvCpu.reset s.evCpus t
def setEvCpu (s : State) (t : Nat) (x : EvCpu) : State := { s with evCpus := mset EvCpu.reset t x s.evCpus }
def getRst (s : State) (d : Nat) : StackRst := mget StackRst.reset s.rsts d
def setRst (s : State) (d : Nat) (x : StackRst) : State := { s with rsts := mset StackRst.reset d x s.rsts }
def getRegion (s : State) (r : Nat) : Region := mget Region.reset s.regions r
def setRegion (s : State) (r : Nat) (x : Region) : State := { s with regions := mset Region.reset r x s.regions }
def getMsix (s : State) (n : Nat) : MsixEntry := mget MsixEntry.reset s.msix n
def getPort (s : State) (o : Nat) : List PortOp := mget [] s.ports o
def setPort (s : State) (o : Nat) (x : List PortOp) : State := { s with ports := mset [] o x s.ports }
def getIce (jb : Job) (d : Nat) : Ice := mget Ice.reset jb.ices d
def setIce (jb : Job) (d : Nat) (x : Ice) : Job := { jb with ices := mset Ice.reset d x jb.ices }
def getSlot (x : Cell) (q : Nat) : Slot := mget Slot.reset x.slots q
def setSlot (x : Cell) (q : Nat) (v : Slot) : Cell := { x with slots := mset Slot.reset q v x.slots }
def getTx (x : Cell) (p : Nat) : Port := mget Port.reset x.tx p
def setTx (x : Cell) (p : Nat) (v : Port) : Cell := { x with tx := mset Port.reset p v x.tx }
def getRx (x : Cell) (p : Nat) : Port := mget Port.reset x.rx p
def setRx (x : Cell) (p : Nat) (v : Port) : Cell := { x with rx := mset Port.reset p v x.rx }
def getBed (x : Pav) (b : Nat) : Bed := mget Bed.reset x.beds b
def setBed (x : Pav) (b : Nat) (v : Bed) : Pav := { x with beds := mset Bed.reset b v x.beds }

def modCell (s : State) (c : Nat) (f : Cell → Cell) : State := setCell s c (f (getCell s c))
def modPav (s : State) (p : Nat) (f : Pav → Pav) : State := setPav s p (f (getPav s p))
def modStore (s : State) (d : Nat) (f : StoreDie → StoreDie) : State := setStore s d (f (getStore s d))
def modHbm (s : State) (h : Nat) (f : Hbm → Hbm) : State := setHbm s h (f (getHbm s h))
def modLink (s : State) (l : Nat) (f : Link → Link) : State := setLink s l (f (getLink s l))
def modFab (s : State) (d : Nat) (f : Fab → Fab) : State := setFab s d (f (getFab s d))
def modJob (s : State) (j : Nat) (f : Job → Job) : State := setJob s j (f (getJob s j))
def modQueue (s : State) (q : Nat) (f : Queue → Queue) : State := setQueue s q (f (getQueue s q))
def modUcie (s : State) (u : Nat) (f : Ucie → Ucie) : State := setUcie s u (f (getUcie s u))

/-- The count towards SLEEP begins anew (R490). -/
def restartIdle (s : State) : State := { s with pwr := { s.pwr with idleSince := s.ember } }

/-- An idle period of a pavilion begins, under the values of POWER as they stand (R240). -/
def beginIdle (now : Nat) (p : Pav) : Pav := { p with idleSince := now, offNow := p.offTicks, gateNow := p.gateCycles }

/-- The next fresh number of a free value (log 7). -/
def draw (s : State) : State := { s with free := s.free + 1 }

/-! ### Numbering (R20, R22) -/

def pavOfCell (c : Nat) : Nat := c / 64
def dieOfCell (c : Nat) : Nat := c / 1024
def dieOfPav (p : Nat) : Nat := p / 16
def dieOfObj (o : Nat) : Nat := o / 65536
def dieOfLink (l : Nat) : Nat := l / 12

/-! ### Counters and reports -/

def wrap32 (n : Nat) : Nat := n % 4294967296

/-- A code is reported (R14) about unit i (a link, a cell, a bank, a job context): the model keeps what was reported, newest first (log 8). -/
def reportOf (s : State) (code i : Nat) : State := { s with events := (code, i) :: s.events }

/-- A report that names no unit. -/
def report (s : State) (code : Nat) : State := reportOf s code 0

/-- A register access rejected: BLOCK.ERR keeps the first code and offset and counts (R11). -/
def recordErr (s : State) (block offset code : Nat) : State :=
  let e := mget ErrReg.reset s.errs block
  let e' : ErrReg := if e.count = 0 then ⟨1, offset, code⟩ else { e with count := satAdd 255 e.count 1 }
  { s with errs := mset ErrReg.reset block e' s.errs }

/-! ### Events (R424 to R426) -/

/-- The reserved sources of R425. -/
def evReserved (n : Nat) : Bool :=
  decide (128 ≤ n ∧ n < 160 ∧ 2 ≤ n % 4) || decide (245 ≤ n ∧ n ≤ 255)

/-- The level sources of R425. -/
def evIsLevel (n : Nat) : Bool :=
  decide (64 ≤ n ∧ n < 128) || decide (128 ≤ n ∧ n < 160 ∧ n % 4 = 1) || decide (n = 243) || decide (n = 244)

/-- The present input of a level source (R425). -/
def evInput (s : State) (n : Nat) : Bool :=
  if 64 ≤ n ∧ n < 128 then decide ((getPav s (n - 64)).dstate = 3 ∧ (getPav s (n - 64)).code ≠ 0)
  else if 128 ≤ n ∧ n < 160 ∧ n % 4 = 1 then decide ((getCtx s ((n - 128) / 4)).state = 2)
  else if n = 243 then decide (s.pwr.duty ≠ 0)
  else if n = 244 then decide (s.failTrigger ≠ 0)
  else false

/-- An edge source fires: its pending bit is set, and the wake logic starts the Lodge clock (R424, R426). -/
def raiseEvent (s : State) (n : Nat) : State :=
  { setEv s n { getEv s n with pend := true } with lodgeClk := true }

/-- Every level source whose input has risen sets its pending bit (R426); inputs are remembered. -/
def sampleLevel (s : State) (n : Nat) : State :=
  let i := evInput s n
  let e := getEv s n
  if i = e.level then s
  else
    let t := setEv s n { e with level := i, pend := e.pend || i }
    if i then { t with lodgeClk := true } else t

/-! ### Job faults (R408, R14) -/

/-- Every entry of a queue that has not completed completes NOT_EXECUTED with a code (R408). -/
def failEntries (code : Nat) (q : Queue) : Queue :=
  { q with entries := q.entries.map (fun e => { e with outcome := some (code, 1, 0, 0) }) }

/-- The queue numbers of a context: 64 j + q; the admin queue is 512. -/
def ctxQueues (j : Nat) : List Nat := (List.range 64).map (fun q => 64 * j + q)

def adminQ : Nat := 512

/-- Frees the frames of an item's staging ranges and scratch (R172: they return to FREE). -/
def itemFrames (i : Item) : List Nat :=
  (i.staging.flatMap (fun g => g.pages.map (·.2))).filterMap (fun l => match l.target with | .phys a => some (a / 65536) | _ => none) ++
    i.scratchPages.filterMap (fun e => match e.2.target with | .phys a => some (a / 65536) | _ => none)

/-- The store die that holds a frame, by its number (R153, R154, R291). -/
def dieOfFrame (s : State) (f : Nat) : Nat :=
  let a := f * 65536
  if a < 0x180000000 then a / 0x60000000
  else (a - 0x1000000000) / (if s.flash.big then 0x1000000000 else 0xC00000000) / 2

/-- Frames that count against a job's reservation (R165): all but the Icehouse's. -/
def FState.counted : FState → Bool
  | .staged | .published | .held | .scratch | .persistent => true
  | _ => false

/-- One frame fewer, or more, of a job's reservation is in use on a die. -/
def countFrame (s : State) (j d f : Nat) (add : Bool) : State :=
  modJob s j (fun jb =>
    let g := fun (m : Map Nat) => mset 0 d (if add then mget 0 m d + 1 else mget 0 m d - 1) m
    if f * 65536 < 0x180000000 then { jb with usedStore := g jb.usedStore } else { jb with usedHbm := g jb.usedHbm })

/-- The state of a frame that an allocator or the loader may have given out. -/
def frameOf (s : State) (f : Nat) : Frame := mget ⟨.free, 0⟩ (getStore s (dieOfFrame s f)).frames f

def putFrame (s : State) (f : Nat) (x : Frame) : State :=
  modStore s (dieOfFrame s f) (fun y => { y with frames := mset ⟨.free, 0⟩ f x y.frames })

/-- A frame goes back to the free pool; it is zeroed in the background first (R173, R504). A retired frame stays retired; a frame of
the Icehouse returns, zeroed, to the frames reserved there (R253). -/
def releaseFrame (s : State) (f : Nat) : State :=
  let x := frameOf s f
  if x.state = .icehouse then { s with mem := memZero s.mem (f * 65536) 65536 }
  else if x.state = .free ∨ x.state = .zeroing ∨ x.state = .retired ∨ x.state = .system then s
  else
    let s := putFrame s f ⟨.zeroing, 0⟩
    if x.state.counted then countFrame s x.job (dieOfFrame s f) f false else s

def releaseFrames (s : State) (l : List Nat) : State := l.foldl releaseFrame s

/-- The allocator of store die d invalidates the translations of pages of job j in every cell (R162). WALK.INVAL counts them one by one: the
spec does not say whether one commit's invalidation of many pages counts once (DESIGN CHOICE, log 106). -/
def invalidate (s : State) (j d : Nat) (vpns : List Nat) : State :=
  let s := modStore s d (fun x => { x with inval := wrap32 (x.inval + vpns.length) })
  { s with cells := s.cells.map (fun e => if e.2.ctx = j then (e.1, { e.2 with tlb := e.2.tlb.filter (fun t => !vpns.contains t.1) }) else e) }

/-- The virtual pages that only an item translates: its staging ranges and its scratch. -/
def privateVpns (it : Item) : List Nat :=
  it.staging.flatMap (fun g => g.pages.map (fun e => g.base / 65536 + e.1)) ++ it.scratchPages.map (·.1)

/-- An item ends NOT_EXECUTED (R172): its staged and scratch frames return to FREE, NEXT_V of the instances it prepared clears. -/
def abandonItem (s : State) (j i : Nat) : State :=
  let jb := getJob s j
  match mfind jb.items i with
  | none => s
  | some it =>
    if it.state = .done ∨ it.state = .committed ∨ it.state = .notExecuted then s
    else
      let s := invalidate (releaseFrames s (itemFrames it)) j it.die (privateVpns it)
      modJob s j (fun jb =>
        { jb with
          items := mput i { it with state := .notExecuted, staging := [], scratch := [], scratchPages := [] } jb.items
          insts := jb.insts.map (fun n => if n.nextV && decide (n.commitItem = i) then { n with next := [], nextV := false } else n) })

/-- The frames of a map of pages. -/
def mapFrames (m : Map Leaf) : List Nat :=
  m.filterMap (fun e => match e.2.target with | .phys a => some (a / 65536) | .fabric _ => none)

/-- A job's pages that only holds have kept: replaced versions of shards that it owns, and cached copies that are not the newest (R315). -/
def heldPages (jb : Job) : List (Nat × Map Leaf) :=
  let dieOf := fun (i : Nat) => match jb.image.shards[i]? with | some sh => sh.ownerDie | none => 0
  (jb.versions.filter (fun e => decide (mget 0 jb.shardVer (e.1 / 4294967296) ≠ e.1 % 4294967296))).map (fun e =>
    (dieOf (e.1 / 4294967296), e.2.work ++ e.2.hot)) ++
    (jb.caches.filter (fun c => !c.newest)).map (fun c => (c.die, c.pages))

/-- Every hold of a faulted job is dropped: HELD frames return to FREE after their invalidation (R315, R173). -/
def dropHolds (s : State) (j : Nat) : State :=
  let jb := getJob s j
  let s := (heldPages jb).foldl (fun s e => releaseFrames (invalidate s j e.1 (e.2.map (·.1))) (mapFrames e.2)) s
  let s := { s with exportRuns := s.exportRuns.filter (fun e => decide (e.job ≠ j)) }
  modJob s j (fun jb =>
    { jb with versions := (jb.versions.filter (fun e => decide (mget 0 jb.shardVer (e.1 / 4294967296) = e.1 % 4294967296))).map (fun e => (e.1, { e.2 with holds := 0 }))
              caches := (jb.caches.filter (·.newest)).map (fun c => { c with holds := 0 }) })

/-- The engines of the store dies end what they do for a job: its update item, its fetches, its descriptors and transitions. -/
def stopEngines (s : State) (j : Nat) : State :=
  { s with stores := s.stores.map (fun e =>
      (e.1, { e.2 with
        updRun := e.2.updRun.filter (fun r => decide (r.job ≠ j)), fetch := e.2.fetch.filter (fun f => decide (f.job ≠ j))
        descrs := e.2.descrs.filter (fun r => decide (r.job ≠ j)), transQueue := e.2.transQueue.filter (fun q => decide (q.1 ≠ j))
        transBusy := e.2.transBusy.filter (fun q => decide (q.1 ≠ j)) })) }

/-- A class 0x5 fault of job context j (R408, R447): the context is FAULTED, its unfinished entries complete NOT_EXECUTED, its
unfinished items are NOT_EXECUTED, its engines stop, every hold is dropped (R315). Nothing of the job issues afterwards (log 13). -/
def jobFault (s : State) (j code : Nat) : State :=
  let jb := getJob s j
  if !jb.loaded || jb.faulted then s
  else
    let s := jb.items.foldl (fun s e => abandonItem s j e.1) s
    let s := dropHolds (stopEngines s j) j
    let s := modJob s j (fun jb => { jb with faulted := true, stuckSince := none })
    let s := restartIdle (setCtx s j { getCtx s j with state := 2, code := code })
    let s := (ctxQueues j).foldl (fun s q => modQueue s q (failEntries code)) s
    sampleLevel (reportOf s code j) (128 + 4 * j + 1)

/-- The job context that runs on a cell, if its launch has not ended. -/
def cellJob (s : State) (c : Nat) : Option Nat :=
  let x := getCell s c
  if x.mode = 2 ∧ x.ctxv ∧ (getJob s x.ctx).gen = x.job then some x.ctx else none

/-- A run-time fault of a cell: the job faults; of the faults with E_PAGE_FAULT, which are those of R87, CELL[c].FAULT and FAULTAT keep the first
(R98). -/
def cellFault (s : State) (c thread pc addr : Nat) (glob : Bool) (code : Nat) : State :=
  let x := getCell s c
  let s :=
    if x.faultCode = 0 ∧ code = ePageFault then
      setCell s c { x with faultCode := code, faultAddr := addr % 2 ^ 48, faultSpace := glob, faultThread := thread, faultPc := pc }
    else s
  jobFault s x.ctx code

end Sys2Proof.Machine
end

