-- ==== Sys2Proof/Machine/Translate.lean ====
section
/-!
DEFINITION. Machine/Translate.lean: device physical addresses (R152 to R155), routes between stacks (R24), the translation of a
job's virtual addresses (R157 to R161, R170, R171, R249), physical reads and writes with ECC (R181), the host window (R182).
-/
namespace Sys2Proof.Machine

/-! ### Physical addresses -/

def hostBase : Nat := 0x10000000000
def hostEnd : Nat := 0x30000000000
def hbmBase : Nat := 0x1000000000
def storeEnd : Nat := 0x180000000

/-- Z of R154. -/
def hbmZ (s : State) : Nat := if s.flash.big then 0x1000000000 else 0xC00000000

/-- HBM stack, pseudo-channel, granule and offset of an address (R154); none where it is unmapped. -/
def hbmPlace (s : State) (a : Nat) : Option (Nat × Nat × Nat × Nat) :=
  let off := a - hbmBase
  let h := off / hbmZ s
  let o := off % hbmZ s
  let us := (getHbm s h).usable
  let n := us.length
  let g := o / 256
  if n = 0 then none
  else if hbmZ s / 256 * n / 64 ≤ g then none
  else some (h, us.getD (g % n) 0, g / n, o % 256)

/-- The usable bytes of an HBM stack (R154). -/
def hbmUsable (s : State) (h : Nat) : Nat := hbmZ s / 256 * (getHbm s h).usable.length / 64 * 256

/-- The HBM stack of store die d that holds the system area (R155, R439): 2d + 1, or 2d once that is retired. -/
def systemStack (s : State) (d : Nat) : Nat := if (getHbm s (2 * d + 1)).usable.isEmpty then 2 * d else 2 * d + 1

/-- The first address of the system area of store die d (R155). -/
def systemBase (s : State) (d : Nat) : Nat :=
  let h := systemStack s d
  hbmBase + h * hbmZ s + (hbmUsable s h - 0x40000000)

def inSystem (s : State) (a : Nat) : Bool :=
  (List.range 4).any (fun d =>
    let h := systemStack s d
    decide (systemBase s d ≤ a ∧ a < hbmBase + h * hbmZ s + hbmUsable s h))

/-- The state of any frame (R173): those of the system area are SYSTEM from boot on, whatever allocators do. -/
def frameNow (s : State) (f : Nat) : Frame := if decide (s.sec.bootState = 3) && inSystem s (f * 65536) then ⟨.system, 0⟩ else frameOf s f

/-- An address of store or HBM that exists (R152, R154); HBM is mapped while its stack is active (R189). -/
def mapped (s : State) (a : Nat) : Bool :=
  decide (a < storeEnd) ||
    (decide (hbmBase ≤ a ∧ a < hbmBase + 8 * hbmZ s) && (hbmPlace s a).isSome && decide ((getHbm s ((a - hbmBase) / hbmZ s)).state = 1))

/-- The store die that holds a store or HBM address (R291). -/
def dieOfAddr (s : State) (a : Nat) : Nat := dieOfFrame s (a / 65536)

/-- The home bank of a store address (R153). -/
def bankOfAddr (a : Nat) : Nat := a / 0x60000000 * 1024 + a % 0x60000000 / 0x180000

/-- The lowest store address of home bank b (R153). -/
def bankBase (b : Nat) : Nat := b / 1024 * 0x60000000 + b % 1024 * 0x180000

/-! ### Stacks that answer -/

/-- A stack (or its compute die alone) is up: neither held, in reset nor reinitialising (R444, R445). -/
def stackUp (s : State) (d : Nat) : Bool := decide ((getRst s d).phase = 0)

/-- A store die forwards bridge traffic: also while only its compute die resets (R445). R24 does not say whether a stack that is held and
drains, and has not reset yet, still forwards; here it does not (DESIGN CHOICE, log 97). -/
def forwards (s : State) (d : Nat) : Bool := stackUp s d || (getRst s d).computeOnly

/-- A route from store die a to store die b exists (R24). -/
def routeExists (s : State) (a b : Nat) : Bool :=
  if a = b then true
  else if a % 2 = b % 2 ∨ a / 2 = b / 2 then true
  else forwards s (a / 2 * 2 + b % 2) || forwards s (b / 2 * 2 + a % 2)

/-- The module through which processor-die traffic for stack d enters: its own, else the lowest-numbered that is left (R25). -/
def moduleFor (s : State) (d : Nat) : Option Nat :=
  if (getUcie s d).state = 1 then some d else (List.range 4).find? (fun u => decide ((getUcie s u).state = 1))

/-- Traffic of the processor die reaches stack d: a module is left, and a route from it (R24, R25). -/
def hostReaches (s : State) (d : Nat) : Bool :=
  match moduleFor s d with
  | none => false
  | some u => routeExists s u d

/-- An access to the register window reaches stack d: from the host, or from the Lodge, whose region stands on store die 0 (R18, R24; which
of the two sends it, a command does not say: log 97). -/
def windowReaches (s : State) (d : Nat) : Bool := hostReaches s d || routeExists s 0 d

/-- The accelerator portion runs: firmware up, not asleep, not in the fail-safe state (R449, R460, R489). -/
def running (s : State) : Bool := decide (s.pwr.pstate = 2 ∧ s.failTrigger = 0 ∧ s.sec.bootState = 3)

/-! ### Bytes of physical memory -/

def physRead (s : State) (a n : Nat) : List Byte :=
  if hostBase ≤ a ∧ a < hostEnd then memRead s.host (a - hostBase) n else memRead s.mem a n

def physWrite (s : State) (a : Nat) (l : List Byte) : State :=
  if hostBase ≤ a ∧ a < hostEnd then { s with host := memWrite s.host (a - hostBase) l } else { s with mem := memWrite s.mem a l }

/-- The bytes of the code word at an address: 64 bits of store, a 64-byte granule of HBM (R181). -/
def codeLen (w : Nat) : Nat := if w < storeEnd then 8 else 64

/-- The code word at w has a byte among the n from a on. -/
def wordMeets (a n w : Nat) : Bool := decide (a < w + codeLen w ∧ w < a + n)

/-- A code word of the range cannot be corrected (R181). -/
def uncorrectableIn (s : State) (a n : Nat) : Bool := s.upsets.any (fun e => e.2 && wordMeets a n e.1)

/-- A write replaces a code word whole or corrects it, so its error goes when the whole word is written. -/
def clearErrors (s : State) (a n : Nat) : State :=
  { s with upsets := s.upsets.filter (fun e => !(decide (a ≤ e.1 ∧ e.1 + codeLen e.1 ≤ a + n))) }

/-! ### Translation -/

/-- What a walk finds (R161, R157): nothing, a page of synchronisation objects (its first object), or a leaf. -/
inductive Walk where
  | absent
  | sync (obj : Nat)
  | leaf (l : Leaf)
  deriving DecidableEq, Repr

/-- The commit word of an item has DONE = 1 (R170, R172). -/
def itemDone (jb : Job) (i : Nat) : Bool :=
  match mfind jb.items i with
  | some it => decide (it.state = .committed ∨ it.state = .done)
  | none => false

/-- The published pages of an instance (R171). -/
def resolveInst (jb : Job) (n : Inst) : Option (Map Leaf) :=
  if n.nextV && itemDone jb n.commitItem then some n.next else if n.curV then some n.cur else none

/-- Stages of the image. -/
def stageOf (jb : Job) (st : Nat) : Option StageDecl := jb.image.stages[st]?

/-- An entry belongs to the stage, replica, micro-batch, chunk and step of an item. -/
def entryOf (it : Item) (e : StashEntry) : Bool :=
  decide (e.stage = it.stage ∧ e.replica = it.replica ∧ e.mb = it.mb ∧ e.chunk = it.chunk ∧ e.step = it.step)

/-- The entries of an item, on whichever store die they were written (R236, R249). -/
def itemEntries (jb : Job) (it : Item) : List StashEntry :=
  (List.range 4).flatMap (fun d => (getIce jb d).entries.filter (entryOf it))

/-- The stash entry that a BWD item reads for a slot (R249). -/
def entryFor (jb : Job) (it : Item) (slot : Nat) : Option StashEntry :=
  (itemEntries jb it).find? (fun e => decide (e.slot = slot))

/-- The page of a parameter shard that an item reads (R309, R314): of its version, from the owner's instance on the owner's die, else
from the cached copy on its own die (DEDUCED, log 20). A copy that the scrub has discarded is read on by the items that ran on it only (R312). -/
def paramPage (jb : Job) (i : Nat) (it : Item) (vpn : Nat) : Option Leaf :=
  match (jb.versions.filter (fun e =>
      decide (e.1 % 2 ^ 32 = it.version) &&
        (match jb.image.shards[e.1 / 2 ^ 32]? with | some sh => decide (sh.ownerDie = it.die) | none => false))).findSome?
      (fun e => mfind e.2.work vpn) with
  | some l => some l
  | none =>
    (jb.caches.filter (fun c => decide (c.die = it.die ∧ c.version = it.version) && (!c.discarded || c.users.contains i))).findSome? (fun c => mfind c.pages vpn)

/-- A read-only leaf to a stash frame (R249). -/
def stashLeaf (a : Nat) : Leaf := ⟨.phys a, true, false, false, false, true, false, 0⟩

def leafOr (o : Option Leaf) : Walk := match o with | some l => .leaf l | none => .absent

/-- Pages private to an item: its staging ranges, its scratch, its stash slots (R170, R173, R249). An RCP item reads its kept
entries (R259), though R249 names only its staging range: a page that it has not staged is that of the entry (DESIGN CHOICE, log 110). -/
def walkItem (jb : Job) (i : Nat) (it : Item) (va : Nat) : Walk :=
  match (mfind it.scratchPages (va / 65536)).or (paramPage jb i it (va / 65536)) with
  | some l => .leaf l
  | none =>
    match it.staging.findSome? (fun g => if g.base ≤ va then mfind g.pages ((va - g.base) / 65536) else none) with
    | some l => .leaf l
    | none =>
      match stageOf jb it.stage with
      | none => .absent
      | some st =>
        let slots := (List.range st.slots.length).zip st.slots
        match slots.find? (fun e => e.2.stash.isSome && decide (e.2.va ≤ va ∧ va < e.2.va + e.2.size)) with
        | none => .absent
        | some (k, d) =>
          let pg := (va - d.va) / 65536
          let own := (it.staging.find? (fun g => decide (g.slot = k))).bind (fun g => mfind g.pages pg)
          let kept := (entryFor jb it k).bind (fun e => ((e.pageNos.zip e.pages).find? (fun q => decide (q.1 = pg))).map (fun q => stashLeaf q.2))
          if it.phase = 0 then leafOr own
          else if it.phase = 2 then leafOr (own.or kept)
          else if it.phase = 1 then leafOr kept
          else .absent

/-- A page of the owner's instance of a shard's working copy, of the version that is current: what an access that no item makes finds, as the
fetch of another package does (R306, R309). -/
def ownedPage (jb : Job) (vpn : Nat) : Option Leaf :=
  jb.versions.findSome? (fun e => if mget 0 jb.shardVer (e.1 / 2 ^ 32) = e.1 % 2 ^ 32 then mfind e.2.work vpn else none)

/-- The walk of a virtual address of job context j for a cell that runs `item` (R158, R161 checks 1 and 2). -/
def walk (jb : Job) (item : Option Nat) (va : Nat) : Walk :=
  if 2 ^ 48 ≤ va then .absent
  else
    match mfind jb.syncPages (va / 65536) with
    | some g => .sync (g * 4096)
    | none =>
      match mfind jb.pages (va / 65536) with
      | some l => .leaf l
      | none =>
        match jb.insts.find? (fun n => decide (n.va ≤ va ∧ va < n.va + n.size)) with
        | some n =>
          match (resolveInst jb n).bind (fun m => mfind m ((va - n.va) / 65536)) with
          | some l => .leaf l
          | none => .absent
        | none =>
          match item, item.bind (fun i => mfind jb.items i) with
          | some i, some it => walkItem jb i it va
          | _, _ => leafOr (ownedPage jb (va / 65536))

/-- Kinds of access (R161). -/
inductive Acc where
  | rd | wr | atom
  deriving DecidableEq, Repr

/-- One piece of a checked access, wholly in one page. -/
structure Piece where
  va : Nat
  len : Nat
  target : Target
  deriving DecidableEq, Repr

/-- The answer of the checks of R161 for an access: its pieces, a failing code with its address, or "waits" (a write to a page that
moves, R175; a line that another package holds, R369). -/
inductive Chk where
  | ok (l : List Piece)
  | bad (code addr : Nat)
  | wait
  deriving DecidableEq, Repr

/-- The physical part of the checks: the address exists, its stack answers and can be reached from store die `d`. -/
def checkPhys (s : State) (d a : Nat) : Option Nat :=
  if hostBase ≤ a ∧ a < hostEnd then (if a - hostBase < s.ddr5 then none else some ePageFault)
  else if !mapped s a then some ePageFault
  else if !stackUp s (dieOfAddr s a) then some eStackReset
  else if !routeExists s d (dieOfAddr s a) then some eLinkNoPath
  else none

def isHost (t : Target) : Bool :=
  match t with
  | .phys a => decide (hostBase ≤ a ∧ a < hostEnd)
  | .fabric _ => false

/-- Check 3 of R161 for a leaf. -/
def permits (k : Acc) (l : Leaf) : Bool :=
  match k with
  | .rd => l.r
  | .wr => l.w && !l.imm
  | .atom => l.r && l.w && !l.imm && !isHost l.target

/-- Lines of a range, relative to `base`, that lie in a region of `len` bytes from there. -/
def linesOf (base len va n : Nat) : List Nat :=
  let lo := max va base - base
  let hi := min (va + n) (base + len) - base
  if lo < hi then (List.range ((hi - 1) / 64 + 1 - lo / 64)).map (fun i => lo / 64 + i) else []

/-- The directory entry of line n of region r (R369). -/
def dirLine (s : State) (r n : Nat) : DLine := mget DLine.reset (getFab s (r % 4)).dir (r * 2 ^ 34 + n)

/-- The lines of coherent regions that a job exports, under an access of its own package, which other packages hold: for a read those in
M, for a write or an atomic all (R369). -/
def heldLines (s : State) (jb : Job) (k : Acc) (va len : Nat) : List (Nat × Nat) :=
  s.regions.flatMap (fun e =>
    if e.2.valid && decide (e.2.mode = 3) && decide ((getJob s e.2.ctx).gen = jb.gen) then
      ((linesOf e.2.vbase e.2.len va len).filter (fun n =>
        let st := (dirLine s e.1 n).state
        if k = .rd then decide (st = 2) else decide (st ≠ 0))).map (fun n => (e.1, n))
    else [])

/-- An access that lies in one page, by an agent on store die d. -/
def checkPage (s : State) (jb : Job) (item : Option Nat) (d : Nat) (k : Acc) (va len : Nat) : Chk :=
  match walk jb item va with
  | .absent => .bad ePageFault va
  | .sync _ => .bad ePageFault va
  | .leaf l =>
    if !permits k l then .bad ePageFault va
    else if l.loc = 2 ∧ k ≠ .rd then .wait
    else
      match l.target with
      | .fabric f => if f / 2 ^ 40 % 256 = 255 then .bad ePageFault va else .ok [⟨va, len, .fabric (f + va % 65536)⟩]
      | .phys a =>
        let p := a + va % 65536
        match checkPhys s d p with
        | some code => .bad code va
        | none =>
          if !(heldLines s jb k va len).isEmpty then .wait
          else if k ≠ .wr ∧ uncorrectableIn s p len then .bad eUncorrectable va
          else .ok [⟨va, len, .phys p⟩]

/-- The first piece that a check of R161 refuses decides, else the first that fails otherwise; a piece that waits makes the access wait
(R87: every range is checked before any part is performed). -/
def joinChk : List Chk → Chk
  | [] => .ok []
  | .bad c a :: rest =>
    match joinChk rest with
    | .bad c' a' => if c ≠ ePageFault ∧ c' = ePageFault then .bad c' a' else .bad c a
    | _ => .bad c a
  | .wait :: rest =>
    match joinChk rest with
    | .bad c a => .bad c a
    | _ => .wait
  | .ok l :: rest =>
    match joinChk rest with
    | .ok m => .ok (l ++ m)
    | x => x

/-- Cuts a range at 64 KiB page boundaries: at most `fuel` further pages. -/
def cutPages : Nat → Nat → Nat → List (Nat × Nat)
  | 0, va, len => [(va, len)]
  | fuel + 1, va, len =>
    let room := 65536 - va % 65536
    if len ≤ room then [(va, len)] else (va, room) :: cutPages fuel (va + room) (len - room)

/-- All checks of R161 on the ranges of one access, in order of rows. -/
def checkAccess (s : State) (jb : Job) (item : Option Nat) (d : Nat) (k : Acc) (rs : List (Nat × Nat)) : Chk :=
  joinChk (rs.flatMap (fun r => (cutPages 64 r.1 r.2).map (fun q => checkPage s jb item d k q.1 q.2)))

/-! ### Bytes of an access -/

/-- Bytes of a checked read; fabric pieces read as no bytes (their data comes in packets). -/
def readPieces (s : State) (l : List Piece) : List Byte :=
  l.flatMap (fun p => match p.target with | .phys a => physRead s a p.len | .fabric _ => [])

/-- Writes bytes to checked pieces; bytes for fabric pieces are sent elsewhere. -/
def writePieces : State → List Piece → List Byte → State
  | s, [], _ => s
  | s, p :: rest, b =>
    let s := match p.target with
      | .phys a => clearErrors (physWrite s a (b.take p.len)) a p.len
      | .fabric _ => s
    writePieces s rest (b.drop p.len)

def hasFabric (l : List Piece) : Bool := l.any (fun p => match p.target with | .fabric _ => true | _ => false)

end Sys2Proof.Machine
end

