-- ==== Sys2Proof/Machine/Retire.lean ====
section
/-!
DEFINITION. Machine/Retire.lean: the journal (R456, R457), retirement of permanent faults (R438, R439), the start of a stack reset
(R444), ECC errors with their thresholds (R181, R437).
-/
namespace Sys2Proof.Machine

/-! ### The journal -/

/-- Records of a half of the journal (R456). -/
def journalHalf : Nat := 16384

/-- The 32 bytes of a record (R456), its CRC last. -/
def recordBytes (r : JRec) : List Byte :=
  let l := leBytes 4 r.seq ++ leBytes 1 r.typ ++ leBytes 1 0 ++ leBytes 2 r.index ++ leBytes 4 r.boot ++ leBytes 4 0 ++ leBytes 8 r.ember ++
    leBytes 4 r.value
  l ++ leBytes 4 (crc32 l).toNat

/-- A record with a good CRC. -/
def recordGood (l : List Byte) : Bool := decide (l.length = 32 ∧ leField l 0x1C 4 = (crc32 (l.take 0x1C)).toNat)

def recordOf (l : List Byte) : JRec :=
  ⟨leField l 0 4, leField l 4 1, leField l 6 2, leField l 8 4, leField l 0x10 8, leField l 0x18 4⟩

/-- The journal ends at the first bad CRC, and nothing after it counts (R457). -/
def journalRecords (f : Flash) : List JRec := (f.journal.takeWhile recordGood).map recordOf

def addRecord (ember : Nat) (f : Flash) (typ index value : Nat) : Flash :=
  { f with journal := f.journal ++ [recordBytes ⟨f.seq + 1, typ, index, f.boots, ember, value⟩], seq := (f.seq + 1) % 4294967296, used := f.used + 1 }

/-- A later record replaces an earlier one of the same setting or sample; the others accumulate. -/
def sameSubject (a b : JRec) : Bool :=
  decide (a.typ = b.typ ∧ a.index = b.index) && (decide (a.typ = 9 ∨ a.typ = 11) || decide (a.value = b.value))

/-- The records that state the present condition: the last of each subject (R457). -/
def presentState : List JRec → List JRec
  | [] => []
  | r :: rest => if rest.any (sameSubject r) then presentState rest else r :: presentState rest

/-- The full half is summarised into the other half as ordinary records and erased (R457). -/
def compact (ember : Nat) (f : Flash) : Flash :=
  (presentState (journalRecords f)).foldl (fun g r => addRecord ember g r.typ r.index r.value) { f with journal := [], used := 0 }

/-- A journal record is written before its change takes effect (R457). -/
def journalWrite (s : State) (typ index value : Nat) : State :=
  let f := if journalHalf ≤ s.flash.used then compact s.ember s.flash else s.flash
  { s with flash := addRecord s.ember f typ index value }

/-! ### Jobs that a retirement or a reset touches -/

/-- The bed of pavilion p that covers the cell at (row, col). -/
def bedCovers (b : Bed) (row col : Nat) : Bool :=
  b.valid && decide (b.row0 ≤ row ∧ row < b.row0 + b.h ∧ b.col0 ≤ col ∧ col < b.col0 + b.w)

/-- The job whose bed covers cell c. -/
def jobOver (s : State) (c : Nat) : Option Nat :=
  let p := getPav s (pavOfCell c)
  if p.held && p.beds.any (fun e => bedCovers e.2 (c / 8 % 8) (c % 8)) then some p.ctx else none

/-- Jobs with a frame among frames lo to hi − 1 of store die d. -/
def jobsWithFrames (s : State) (d lo hi : Nat) : List Nat :=
  (List.range 8).filter (fun j =>
    (getStore s d).frames.any (fun e =>
      decide (lo ≤ e.1 ∧ e.1 < hi) && (e.2.state.counted || decide (e.2.state = .icehouse)) && decide (e.2.job = j)))

def faultJobs (s : State) (l : List Nat) (code : Nat) : State := l.foldl (fun s j => jobFault s j code) s

/-! ### Retirements -/

/-- The cell is retired; the job with a bed over it faults (R438). -/
def markCellRetired (s : State) (c : Nat) : State :=
  let s := reportOf (modCell s c (fun x => { x with mode := 3 })) eCellRetired c
  match jobOver s c with
  | some j => jobFault s j eUncorrectable
  | none => s

/-- A vertical port and its cell are retired (R441); `unc` when an uncorrectable error caused it. -/
def retireCell (s : State) (c : Nat) (unc : Bool) : State :=
  if (getCell s c).mode = 3 then s
  else
    let s := markCellRetired (journalWrite s 2 c 0) c
    if unc then raiseEvent s (224 + dieOfCell c) else s

/-- A home bank is retired with the cell above it (R438). -/
def retireBank (s : State) (b : Nat) (unc : Bool) : State :=
  let f0 := bankBase b / 65536
  let d := b / 1024
  if (mget ⟨.free, 0⟩ (getStore s d).frames f0).state = .retired then s
  else
    let s := journalWrite s 3 b 0
    let js := jobsWithFrames s d f0 (f0 + 24)
    let s := modStore s d (fun x =>
      { x with frames := (List.range 24).foldl (fun m i => mput (f0 + i) ⟨.retired, 0⟩ m) x.frames })
    let s := reportOf s eBankRetired b
    let s := if unc then raiseEvent s (224 + d) else s
    faultJobs (markCellRetired s b) js eUncorrectable

/-- Frames of HBM stack h. -/
def hbmFrames (s : State) (h : Nat) : Nat × Nat := ((hbmBase + h * hbmZ s) / 65536, (hbmBase + (h + 1) * hbmZ s) / 65536)

/-- STACK_HOLD on stack d (R444 step 1, R445). -/
def startHold (s : State) (d : Nat) (computeOnly : Bool) : State :=
  if (getRst s d).phase = 0 then setRst s d { getRst s d with phase := 1, computeOnly := computeOnly, since := s.ember, wanted := false }
  else s

/-- What follows when HBM stack h changes for good: the jobs with frames on it fault; a system area that moves takes a stack reset,
else the stack reinitialises on its own (R438, R439). -/
def afterHbm (s : State) (h : Nat) : State :=
  let fr := hbmFrames s h
  let s := faultJobs s (jobsWithFrames s (h / 2) fr.1 fr.2) eUncorrectable
  let s := raiseEvent (reportOf s eHbmChannelRetired h) (216 + h)
  if h % 2 = 1 then startHold s (h / 2) false else s

/-- An HBM stack is retired whole (R439). -/
def retireHbm (s : State) (h : Nat) : State :=
  if (getHbm s h).state = 3 then s
  else
    let s := journalWrite s 12 h 0
    let s := modHbm s h (fun x => { x with state := 3, pcRet := -1#64, usable := [], reinitWanted := false })
    afterHbm s h

/-- Bits set in a 64-bit word. -/
def popcount (w : Word) : Nat := ((List.range 64).filter (fun i => w.getLsbD i)).length

/-- A pseudo-channel is retired; the stack is unmapped until it reinitialises (R189, R438). -/
def retirePc (s : State) (h pc : Nat) : State :=
  let x := getHbm s h
  if x.state = 3 ∨ x.pcRet.getLsbD pc then s
  else
    let s := journalWrite s 4 h pc
    let ret := x.pcRet ||| (1#64 <<< pc)
    let s := modHbm s h (fun x => { x with pcRet := ret, state := 0, reinitWanted := true })
    if 64 - popcount ret < 32 then retireHbm s h else afterHbm s h

/-- LODGE.DIST_GEN counts a change of the distance table (R29, R30). -/
def bumpDist (s : State) : State := { s with distGen := s.distGen + 1 }

/-- A pavilion is retired with its cells; the job that holds it faults (R438). -/
def retirePav (s : State) (p : Nat) : State :=
  if (getPav s p).retired then s
  else
    let s := journalWrite s 10 p 0
    let s := modPav s p (fun x => { x with retired := true, retirePend := false })
    let s := (List.range 64).foldl (fun s i => modCell s (64 * p + i) (fun x => { x with mode := 3 })) s
    let s := raiseEvent (reportOf (bumpDist s) ePavilionRetired p) 241
    let pv := getPav s p
    if pv.held ∧ pv.beds.any (fun e => e.2.valid) then jobFault s pv.ctx eUncorrectable else s

/-! ### ECC errors (R181, R437) -/

/-- Errors of one unit (bank or pseudo-channel): `n` corrected within 25,000,000 ticks, or two uncorrectable within
250,000,000. -/
def overLimit (now n unit : Nat) (l : List (Nat × Bool × Nat)) : Bool :=
  decide (n ≤ (l.filter (fun e => decide (e.1 = unit) && !e.2.1 && decide (now < e.2.2 + 25000000))).length) ||
    decide (2 ≤ (l.filter (fun e => decide (e.1 = unit) && e.2.1 && decide (now < e.2.2 + 250000000))).length)

def keepErrs (s : State) (l : List (Nat × Bool × Nat)) : List (Nat × Bool × Nat) :=
  l.filter (fun e => decide (s.ember < e.2.2 + 250000000))

/-- Counts an ECC error of the code word at `a` where it lies (R181, R186): STORE[s].ECC or HBMC[h].ECC, the events of R425,
I_ECC_CORRECTED; at a threshold of R437 the bank or pseudo-channel is retired. -/
def countEcc (s : State) (a : Nat) (bad : Bool) : State :=
  if a < storeEnd then
    let d := a / 0x60000000
    let b := bankOfAddr a
    let s := modStore s d (fun x =>
      { x with corrected := if bad then x.corrected else wrap32 (x.corrected + 1)
               uncorrected := if bad then satAdd 0xFFFF x.uncorrected 1 else x.uncorrected
               bankErrs := (b, bad, s.ember) :: keepErrs s x.bankErrs })
    let s := if bad then raiseEvent s (224 + d) else reportOf s iEccCorrected d
    if overLimit s.ember 4096 b (getStore s d).bankErrs then retireBank s b bad else s
  else
    match hbmPlace s a with
    | none => s
    | some (h, pc, _, _) =>
      let s := modHbm s h (fun x =>
        { x with corrected := if bad then x.corrected else wrap32 (x.corrected + 1)
                 uncorrected := if bad then satAdd 0xFFFF x.uncorrected 1 else x.uncorrected
                 errs := (pc, bad, s.ember) :: keepErrs s x.errs })
      let s := if bad then raiseEvent s (216 + h) else reportOf s iEccCorrected h
      if overLimit s.ember 16384 pc (getHbm s h).errs then retirePc s h pc else s

/-- An uncorrectable error in the system area faults every job context with translations through it (R181). Which contexts those are turns on
where the Lodge put their tables, which the spec leaves open: here every loaded job (DESIGN CHOICE, log 107). -/
def systemError (s : State) (a : Nat) : State :=
  if inSystem s a then faultJobs s ((List.range 8).filter (fun j => (getJob s j).loaded)) eUncorrectable else s

/-- A read meets the errors of its code words: a corrected one is written back and counted, an uncorrectable one is counted
(R181). -/
def meetErrors (s : State) (a n : Nat) : State :=
  (s.upsets.filter (fun e => wordMeets a n e.1)).foldl
    (fun s e =>
      let s := countEcc s e.1 e.2
      if e.2 then systemError s e.1 else { s with upsets := mdel e.1 s.upsets }) s

/-- Errors of the code words of checked pieces are met. -/
def meetPieces (s : State) (l : List Piece) : State :=
  l.foldl (fun s p => match p.target with | .phys a => meetErrors s a p.len | .fabric _ => s) s

/-- Errors under ranges of virtual addresses, whatever the checks said of them. -/
def meetRanges (s : State) (jb : Job) (item : Option Nat) (rs : List (Nat × Nat)) : State :=
  rs.foldl (fun s r =>
    (cutPages 64 r.1 r.2).foldl (fun s q =>
      match walk jb item q.1 with
      | .leaf l => (match l.target with | .phys a => meetErrors s (a + q.1 % 65536) q.2 | .fabric _ => s)
      | _ => s) s) s

end Sys2Proof.Machine
end

