-- ==== Sys2Proof/Machine/Paging.lean ====
section
/-!
DEFINITION. Machine/Paging.lean: the distance table (R27), the frames that an allocator may take (R165, R166), page moves of
residency-managed pages (R175), what every access does to its pages (R162).
-/
namespace Sys2Proof.Machine

/-! ### Distance (R21, R27) -/

def pavX (p : Nat) : Nat := p / 16 % 2 * 4 + p % 16 % 4
def pavY (p : Nat) : Nat := p / 32 * 4 + p % 16 / 4

def absDiff (a b : Nat) : Nat := (a - b) + (b - a)

/-- A pavilion that is retired, or whose stack or compute die resets (R27). -/
def pavAway (s : State) (p : Nat) : Bool := (getPav s p).retired || (decide (2 ≤ (getRst s (dieOfPav p)).phase) && !(getRst s (dieOfPav p)).boot)

def cost (s : State) (p q : Nat) : Nat :=
  if pavAway s p || pavAway s q then 0xFF
  else
    let sp := dieOfPav p
    let sq := dieOfPav q
    23 + 3 * (absDiff (pavX p) (pavX q) + absDiff (pavY p) (pavY q)) + 40 * (absDiff (sp % 2) (sq % 2) + absDiff (sp / 2) (sq / 2))

/-! ### Free frames -/

/-- The lowest number from n on that a rising map does not list: frames that are not listed are FREE. -/
def firstGap {α : Type} : Nat → List (Nat × α) → Nat
  | n, [] => n
  | n, (i, _) :: rest => if i < n then firstGap n rest else if i = n then firstGap (n + 1) rest else n

def freeIn (m : Map Frame) (lo hi : Nat) : Option Nat :=
  let f := firstGap lo m
  if f < hi then some f else none

/-- A FREE frame of home bank b. -/
def bankFree (s : State) (b : Nat) : Option Nat :=
  let f0 := bankBase b / 65536
  freeIn (getStore s (b / 1024)).frames f0 (f0 + 24)

/-- Frames of HBM stack h that jobs may hold: below its usable capacity and outside the system area (R154, R155). -/
def hbmJobFrames (s : State) (h : Nat) : Nat × Nat :=
  let lo := hbmBase + h * hbmZ s
  let hi := lo + hbmUsable s h - (if systemStack s (h / 2) = h then 0x40000000 else 0)
  (lo / 65536, hi / 65536)

/-- A FREE frame of HBM stack h. -/
def hbmFree (s : State) (h : Nat) : Option Nat :=
  if (getHbm s h).state ≠ 1 then none
  else let r := hbmJobFrames s h; freeIn (getStore s (h / 2)).frames r.1 r.2

/-- Insertion by a key, the first among equals staying first. -/
def insertBy {α : Type} (key : α → Nat) (a : α) : List α → List α
  | [] => [a]
  | b :: rest => if key a ≤ key b then a :: b :: rest else b :: insertBy key a rest

def sortBy {α : Type} (key : α → Nat) (l : List α) : List α := l.foldr (insertBy key) []

/-- The other pavilions of a stack by rising cost from p, ties to the lower index (R166). -/
def nearPavs (s : State) (p : Nat) : List Nat :=
  sortBy (fun q => cost s p q) ((List.range 16).map (fun i => dieOfPav p * 16 + i) |>.filter (· ≠ p))

def pavBanks (p : Nat) : List Nat := (List.range 64).map (fun i => 64 * p + i)

/-- The banks that placement HOME tries for cell c, in order (R166). -/
def homeBanks (s : State) (c : Nat) : List Nat :=
  c :: ((pavBanks (pavOfCell c)).filter (· ≠ c)) ++ (nearPavs s (pavOfCell c)).flatMap pavBanks

/-- The frame for placement HOME from cell c. -/
def homeFrame (s : State) (c : Nat) : Option Nat := (homeBanks s c).findSome? (bankFree s)

/-- The frame for placement HBM of page index n, allocated on stack d (R166). -/
def hbmFrame (s : State) (d n : Nat) : Option Nat :=
  match hbmFree s (2 * d + n % 2) with
  | some f => some f
  | none => hbmFree s (2 * d + (n + 1) % 2)

/-- A zeroing frame may yet become FREE among the frames of a stack's store or HBM, so the allocation waits (R504). -/
def zeroingOn (s : State) (d : Nat) (store : Bool) : Bool :=
  (getStore s d).frames.any (fun e => decide (e.2.state = .zeroing) && (decide (e.1 * 65536 < storeEnd) == store))

/-- What is left of job j's reservation of store frames, or of HBM frames, on die d (R165). -/
def storeLeft (s : State) (j d : Nat) : Nat :=
  let jb := getJob s j
  (match jb.image.dies[d]? with | some x => x.storeFrames | none => 0) - mget 0 jb.usedStore d

/-- HBM is reserved in units of 2 MiB, which are 32 frames (R185, R417). -/
def hbmLeft (s : State) (j d : Nat) : Nat :=
  let jb := getJob s j
  (match jb.image.dies[d]? with | some x => 32 * x.hbmUnits | none => 0) - mget 0 jb.usedHbm d

/-- Job j takes a frame. -/
def takeFrame (s : State) (j f : Nat) (st : FState) : State :=
  let s := putFrame s f ⟨st, j⟩
  if st.counted then countFrame s j (dieOfFrame s f) f true else s

/-! ### Leaves of a job -/

/-- Every leaf of the job that satisfies `p` is replaced, wherever it stands: regions, instances, staging ranges, scratch. -/
def mapLeaves (jb : Job) (p : Leaf → Bool) (g : Leaf → Leaf) : Job :=
  let h := fun (m : Map Leaf) => m.map (fun e => if p e.2 then (e.1, g e.2) else e)
  { jb with
    pages := h jb.pages
    insts := jb.insts.map (fun n => { n with cur := h n.cur, next := h n.next })
    items := jb.items.map (fun e =>
      (e.1, { e.2 with staging := e.2.staging.map (fun r => { r with pages := h r.pages }), scratchPages := h e.2.scratchPages })) }

def atAddr (a : Nat) (l : Leaf) : Bool := decide (l.target = .phys a)

/-- Leaves with their virtual page numbers, from the page of `base` on. -/
def leavesAt (base : Nat) (m : Map Leaf) : List (Nat × Leaf) := m.map (fun e => (base / 65536 + e.1, e.2))

/-- The leaves of regions, published instances and staging ranges. -/
def mappedLeaves (jb : Job) : List (Nat × Leaf) :=
  leavesAt 0 jb.pages ++ jb.insts.flatMap (fun n => leavesAt n.va (if n.curV then n.cur else [])) ++
    jb.items.flatMap (fun e => e.2.staging.flatMap (fun r => leavesAt r.base r.pages))

/-- Those, scratch and the pages of parameter versions: every leaf of the job. -/
def jobLeaves (jb : Job) : List (Nat × Leaf) :=
  mappedLeaves jb ++ jb.items.flatMap (fun e => e.2.scratchPages) ++ jb.versions.flatMap (fun e => e.2.work ++ e.2.hot) ++
    jb.caches.flatMap (fun c => c.pages)

/-- Residency-managed pages in store frames of die d, in the order of page numbers, which is the clock's (R175, log 105). -/
def rmStorePages (s : State) (jb : Job) (d : Nat) : List (Nat × Leaf) :=
  sortBy (·.1) ((mappedLeaves jb).filter (fun e =>
    e.2.rm && decide (e.2.loc = 0) &&
      (match e.2.target with | .phys a => decide (a < storeEnd ∧ dieOfAddr s a = d) | .fabric _ => false)))

/-! ### Page moves (R175) -/

/-- The page at `fromA` starts to move to a frame taken for it. -/
def startMove (s : State) (j vpn fromA f : Nat) (pageIn : Bool) : State :=
  let st := (frameOf s (fromA / 65536)).state
  let s := takeFrame s j f st
  modJob s j (fun jb =>
    let jb := mapLeaves jb (atAddr fromA) (fun l => { l with loc := 2 })
    { jb with moves := jb.moves.filter (fun m => decide (m.fromAddr ≠ fromA)) ++ [⟨vpn, fromA, f * 65536, pageIn, true⟩] })

/-- One sweep of the clock over pages in order: those with A = 1 have A cleared and are passed over; the first with A = 0 is the
victim. Answers the cleared addresses and the victim. -/
def sweep : List (Nat × Leaf) → List Nat × Option (Nat × Nat)
  | [] => ([], none)
  | (v, l) :: rest =>
    match l.target with
    | .fabric _ => sweep rest
    | .phys a => if l.a then (let r := sweep rest; (a :: r.1, r.2)) else ([], some (v, a))

/-- The lowest free store frame of die d, if job j's reservation allows one more. -/
def dieFrame (s : State) (j d : Nat) : Option Nat :=
  if storeLeft s j d = 0 then none else (List.range 1024).findSome? (fun i => bankFree s (d * 1024 + i))

/-- The cell of rank r in a bed of a pavilion (R213: ranks count row by row). -/
def rankCell (p : Nat) (b : Bed) (r : Nat) : Nat := 64 * p + (b.row0 + r / b.w) * 8 + b.col0 + r % b.w

/-- The first bed of the job on die d for which `f` holds. -/
def bedOnDie (s : State) (j d : Nat) (f : Bed → Bool) : Option (Nat × Bed) :=
  (List.range 16).findSome? (fun i =>
    let pv := getPav s (16 * d + i)
    if pv.held ∧ pv.ctx = j then (pv.beds.find? (fun e => e.2.valid && f e.2)).map (fun e => (16 * d + i, e.2)) else none)

/-- The slot whose instance, or staging range of an item, holds a virtual page: its stage, its declaration, the page's index in the instance. -/
def slotOfPage (jb : Job) (vpn : Nat) : Option (Nat × SlotDecl × Nat) :=
  let stages := (List.range jb.image.stages.length).zip jb.image.stages
  match stages.findSome? (fun e => (e.2.slots.find? (fun d => decide (d.va ≤ vpn * 65536 ∧ vpn * 65536 < d.va + d.size))).map (fun d => (e.1, d, vpn - d.va / 65536))) with
  | some r => some r
  | none =>
    jb.items.findSome? (fun e => e.2.staging.findSome? (fun g =>
      match (jb.image.stages[e.2.stage]?).bind (fun st => st.slots[g.slot]?) with
      | some d => if g.base ≤ vpn * 65536 ∧ vpn * 65536 < g.base + d.size then some (e.2.stage, d, vpn - g.base / 65536) else none
      | none => none))

/-- The cell from which the placement of a page's region starts (R166, R175): of a slot SPREAD the rank of the page, of another slot the rank whose
share it begins in; of a persistent region the first cell of the job on the die, as at load. -/
def placeCell (s : State) (j d vpn : Nat) : Nat :=
  match slotOfPage (getJob s j) vpn with
  | some (st, sl, n) =>
    (match bedOnDie s j d (fun b => decide (b.stage = st)) with
     | some (p, b) => rankCell p b (if sl.place = .spread then n % (b.h * b.w) else min (n * 65536 / sl.stride) (b.h * b.w - 1))
     | none => 1024 * d)
  | none => match bedOnDie s j d (fun _ => true) with | some (p, b) => rankCell p b 0 | none => 1024 * d

/-- A store frame of die d for a page that comes in, by its region's placement (R175). -/
def pageInFrame (s : State) (j d vpn : Nat) : Option Nat := if storeLeft s j d = 0 then none else homeFrame s (placeCell s j d vpn)

/-- Evicts a page of the job from die d. In which order the clock visits the pages, and how many pointers there are, the spec leaves open: here by
virtual page number, one pointer for each job and store die (DESIGN CHOICE, log 105). The victim starts for a free reserved HBM frame (R175). Answers whether one started. -/
def evict (s : State) (j d : Nat) : State × Bool :=
  let jb := getJob s j
  let l := rmStorePages s jb d
  let hand := mget 0 jb.clock d
  let order := l.filter (fun e => decide (hand ≤ e.1)) ++ l.filter (fun e => decide (e.1 < hand))
  let r := sweep order
  let s := modJob s j (fun jb =>
    mapLeaves jb (fun l => match l.target with | .phys a => r.1.contains a | .fabric _ => false) (fun l => { l with a := false }))
  match r.2 with
  | none => (s, false)
  | some (v, a) =>
    let s := modJob s j (fun jb => { jb with clock := mset 0 d (v + 1) jb.clock })
    if hbmLeft s j d = 0 then (s, false)
    else
      match hbmFrame s d v with
      | none => (s, false)
      | some f => (startMove s j v a f false, true)

/-- An access to a residency-managed page in HBM requests a page-in: it starts into a free reserved store frame, or waits for an
eviction, or is dropped (R175). -/
def requestPageIn (s : State) (j vpn : Nat) (l : Leaf) : State :=
  match l.target with
  | .fabric _ => s
  | .phys a =>
    if !l.rm ∨ l.loc ≠ 1 ∨ (getJob s j).moves.any (fun m => decide (m.fromAddr = a)) then s
    else
      let d := dieOfAddr s a
      match pageInFrame s j d vpn with
      | some f => startMove s j vpn a f true
      | none =>
        let r := evict s j d
        if r.2 then modJob r.1 j (fun jb => { jb with moves := jb.moves ++ [⟨vpn, a, 0, true, false⟩] }) else r.1

/-- The first page-in of die d that waits for a frame starts, or is dropped when there is none. -/
def startWaiting (s : State) (j d : Nat) : State :=
  match (getJob s j).moves.find? (fun m => !m.started && decide (dieOfAddr s m.fromAddr = d)) with
  | none => s
  | some m =>
    match pageInFrame s j d m.vpn with
    | some f => startMove s j m.vpn m.fromAddr f true
    | none => s

/-! ### What an access does to its pages -/

/-- What a translation maps, as a number: it tells one mapping of a page from the next. -/
def Walk.number : Walk → Nat
  | .absent => 0
  | .sync o => 3 * o + 1
  | .leaf l => match l.target with | .phys a => 3 * a + 2 | .fabric f => 3 * f + 3

/-- A translation enters a cell's cache of 64; which one it replaces when that is full is not stated, and free (R162, log 14). -/
def installTlb (free : Nat) (t : Nat × Nat) (x : Cell) : Cell :=
  let old := x.tlb.filter (fun e => decide (e.1 ≠ t.1))
  { x with tlb := (if old.length < 64 then old else old.eraseIdx (Config.freeAddr free % 64)) ++ [t] }

/-- The access misses the cache of its cell; an engine, of which R162 names no cache, walks every time. -/
def missesTlb (s : State) (who : Option Nat) (t : Nat × Nat) : Bool :=
  match who with
  | some c => !(getCell s c).tlb.contains t
  | none => true

/-- The walker answers a miss (R162): the translation is installed, A of its leaf is set, WALK.WALKS counts a walk that read the system area,
which turns on what the walk cache holds (a free value, log 14). -/
def installPage (s : State) (who : Option Nat) (j : Nat) (item : Option Nat) (d va : Nat) : State :=
  let w := walk (getJob s j) item va
  let s := modStore s d (fun x => { x with walks := wrap32 (x.walks + (Config.freeWord s.free 9000).toNat % 2) })
  let s := match who with | some c => modCell s c (installTlb s.free (va / 65536, w.number)) | none => s
  match w with
  | .leaf l =>
    draw (if l.a then s else modJob s j (fun jb => mapLeaves jb (fun m => decide (m.target = l.target)) (fun m => { m with a := true })))
  | _ => draw s

/-- What an access does to a page: a miss is walked (R162), a page in HBM asks to come in (R175). -/
def touchPage (s : State) (who : Option Nat) (j : Nat) (item : Option Nat) (d va : Nat) : State :=
  let w := walk (getJob s j) item va
  let s := if missesTlb s who (va / 65536, w.number) then installPage s who j item d va else s
  match w with
  | .leaf l => requestPageIn s j (va / 65536) { l with a := true }
  | _ => s

/-- All pages of an access by cell `who`, or by an engine, on store die d. -/
def touchRanges (s : State) (who : Option Nat) (j : Nat) (item : Option Nat) (d : Nat) (rs : List (Nat × Nat)) : State :=
  rs.foldl (fun s r => (cutPages 64 r.1 r.2).foldl (fun s q => touchPage s who j item d q.1) s) s

end Sys2Proof.Machine
end

