-- ==== Sys2Proof/Machine/Items.lean ====
section
/-!
DEFINITION. Machine/Items.lean: the work items of a job (R222, R223, R506), their order and admission (R224), the versions that they
read (R314), what the Icehouse adds (R260), the frames in use there (R253, R254).
-/
namespace Sys2Proof.Machine

/-! ### Phases and the stage graph -/

def phFwd : Nat := 0
def phBwd : Nat := 1
def phRcp : Nat := 2
def phRed : Nat := 3
def phUpd : Nat := 4

/-- The entry word of a stage for a phase (R506, R259). -/
def entryWord (st : StageDecl) (ph : Nat) : Option Nat :=
  if ph = 0 ∨ ph = 2 then st.entFwd else if ph = 1 then st.entBwd else if ph = 3 then st.entRed else none

/-- Stages joined to those of `l` by a channel, once more. -/
def joinOnce (chans : List ChanDecl) (l : List Nat) : List Nat :=
  chans.foldl (fun l c =>
    let l := if l.contains c.pStage && !l.contains c.cStage then l ++ [c.cStage] else l
    if l.contains c.cStage && !l.contains c.pStage then l ++ [c.pStage] else l) l

def joinFuel (chans : List ChanDecl) : Nat → List Nat → List Nat
  | 0, l => l
  | n + 1, l => joinFuel chans n (joinOnce chans l)

/-- The stages joined to stage st directly or through others (R221). -/
def joined (im : JobImage) (st : Nat) : List Nat := joinFuel im.chans im.stages.length [st]

/-- T of R233. -/
def chunkOf (im : JobImage) : Nat := if im.chunkT = 0 then 32768 else im.chunkT

/-- Chunks of a sample of length n (R233). -/
def chunksOf (im : JobImage) (n : Nat) : Nat := if n ≤ chunkOf im then 1 else ceilDiv n (chunkOf im)

def stepRec (jb : Job) (n : BitVec 32) : Option StepRec := jb.steps.find? (fun r => decide (r.number = n))

/-- Chunks of micro-batch m of a step. -/
def chunkCount (jb : Job) (step : BitVec 32) (mb : Nat) : Nat :=
  match stepRec jb step with
  | some r => chunksOf jb.image ((r.batches[mb]?.map (·.len)).getD 0)
  | none => 1

/-- An item by its name. -/
def findItem (jb : Job) (stage phase mb chunk : Nat) (step : BitVec 32) : Option (Nat × Item) :=
  jb.items.find? (fun e =>
    decide (e.2.stage = stage ∧ e.2.phase = phase ∧ e.2.mb = mb ∧ e.2.chunk = chunk ∧ e.2.step = step ∧ e.2.state ≠ .notExecuted))

def launchedState (st : IState) : Bool := decide (st = .running ∨ st = .committed ∨ st = .done)

def doneItem (jb : Job) (stage phase mb chunk : Nat) (step : BitVec 32) : Bool :=
  match findItem jb stage phase mb chunk step with
  | some e => decide (e.2.state = .done)
  | none => false

/-- The members of an item's commit group, the item itself among them (R221). -/
def groupOf (jb : Job) (it : Item) : List Nat :=
  let g := joined jb.image it.stage
  (jb.items.filter (fun e =>
    g.contains e.2.stage &&
      decide (e.2.phase = it.phase ∧ e.2.mb = it.mb ∧ e.2.chunk = it.chunk ∧ e.2.step = it.step ∧ e.2.state ≠ .notExecuted ∧
        (e.2.state = it.state ∨ it.phase ≠ 2)))).map (·.1)

/-! ### Frames of the Icehouse -/

/-- The frame of a leaf. -/
def leafFrame (l : Leaf) : Option Nat := match l.target with | .phys a => some (a / 65536) | .fabric _ => none

/-- A staging range made of Icehouse frames. -/
def stashStaging (jb : Job) (it : Item) (g : Staging) : Bool :=
  match (stageOf jb it.stage).bind (fun st => st.slots[g.slot]?) with
  | some d => d.stash.isSome
  | none => false

/-- Icehouse frames staged by running items on die d. -/
def stagedFrames (jb : Job) (d : Nat) : List Nat :=
  jb.items.flatMap (fun e =>
    if e.2.die = d then
      (e.2.staging.filter (stashStaging jb e.2)).flatMap (fun g => g.pages.filterMap (fun q => leafFrame q.2))
    else [])

def entryFrames (e : StashEntry) : List Nat := e.pages.map (· / 65536)

/-- Frames of the Icehouse on die d that hold data: committed or staged (R254). -/
def iceHeld (jb : Job) (d : Nat) : List Nat := (getIce jb d).entries.flatMap entryFrames ++ stagedFrames jb d

/-- Frame moves run eight at a time (R257). -/
def runningMoves (i : Ice) : List (Nat × Nat) := i.moves.take 8

/-- INSTORE and SPILLED of R271. -/
def iceInStore (jb : Job) (d : Nat) : Nat :=
  let i := getIce jb d
  ((iceHeld jb d ++ (runningMoves i).map (fun (m : Nat × Nat) => m.2 / 65536)).filter (fun f => i.storeFrames.contains f)).length

def iceSpilled (jb : Job) (d : Nat) : Nat :=
  let i := getIce jb d
  ((iceHeld jb d ++ (runningMoves i).map (fun (m : Nat × Nat) => m.2 / 65536)).filter (fun f => i.spillFrames.contains f)).length

/-- Occupancy (R254). -/
def iceOccupancy (jb : Job) (d : Nat) : Nat := iceInStore jb d + iceSpilled jb d

/-- Frames taken or promised to a move. -/
def iceTaken (jb : Job) (d : Nat) : List Nat := iceHeld jb d ++ (getIce jb d).moves.map (fun (m : Nat × Nat) => m.2 / 65536)

def freeStoreFrames (jb : Job) (d : Nat) : List Nat := (getIce jb d).storeFrames.filter (fun f => !(iceTaken jb d).contains f)
def freeSpillFrames (jb : Job) (d : Nat) : List Nat := (getIce jb d).spillFrames.filter (fun f => !(iceTaken jb d).contains f)

/-- Need order (R252): e is needed sooner than f. -/
def neededSooner (policy : Nat) (e f : StashEntry) : Bool :=
  if e.step ≠ f.step then decide (e.step.toNat < f.step.toNat)
  else if e.mb ≠ f.mb then (if policy = 3 then decide (f.mb < e.mb) else decide (e.mb < f.mb))
  else decide (f.seq < e.seq)

/-- The entry with the largest key. -/
def bottomOf (policy : Nat) : List StashEntry → Option StashEntry
  | [] => none
  | e :: rest =>
    match bottomOf policy rest with
    | none => some e
    | some f => if neededSooner policy e f then some f else some e

/-- The entry with the smallest key. -/
def topOf (policy : Nat) : List StashEntry → Option StashEntry
  | [] => none
  | e :: rest =>
    match topOf policy rest with
    | none => some e
    | some f => if neededSooner policy f e then some f else some e

/-! ### Versions (R314 to R316) -/

def verKey (sh v : Nat) : Nat := sh * 4294967296 + v

/-- The shards that a stage reads. -/
def readsShards (jb : Job) (st : Nat) : List Nat :=
  match stageOf jb st with
  | none => []
  | some d => (List.range jb.image.shards.length).filter (fun i =>
      match jb.image.shards[i]? with
      | some sh => d.reads.contains (sh.identity.toNat, sh.shard.toNat)
      | none => false)

/-- This package owns the shard. -/
def ownsShard (s : State) (sh : ShardDecl) : Bool := decide (sh.ownerPkg = s.pkgId)

/-- Version v of shard i can be read on die d: from the owner's instance there, or from a cached copy there (R309). -/
def versionAt (s : State) (jb : Job) (d i v : Nat) : Bool :=
  (match jb.image.shards[i]? with
   | some sh => ownsShard s sh && decide (sh.ownerDie = d) && (mfind jb.versions (verKey i v)).isSome
   | none => false) ||
    jb.caches.any (fun c => decide (c.shard = i ∧ c.die = d ∧ c.version = v) && !c.discarded)

/-- Version numbers known to the job context. -/
def knownVersions (jb : Job) : List Nat := jb.versions.map (·.1 % 4294967296) ++ (jb.caches.filter (fun c => !c.discarded)).map (·.version)

/-- STEP − 1 − STALE (R314). -/
def oldestFor (jb : Job) (step : BitVec 32) : Nat := step.toNat - 1 - jb.image.stale

/-- The version that a first FWD item of a step would fix, on die d. -/
def newestReadable (s : State) (jb : Job) (st d : Nat) (step : BitVec 32) : Option Nat :=
  let sh := readsShards jb st
  let ok := (knownVersions jb).filter (fun v => decide (oldestFor jb step ≤ v) && sh.all (fun i => versionAt s jb d i v))
  if ok.isEmpty then none else some (maxOf ok)

/-- The record fixes the version that the item's micro-batch reads at its stage. -/
def fixedFor (it : Item) (f : FixedVer) : Bool :=
  decide (f.stage = it.stage ∧ f.replica = it.replica ∧ f.step = it.step ∧ f.mb = it.mb)

def fixedVersion (jb : Job) (it : Item) : Option Nat :=
  (jb.fixed.find? (fixedFor it)).map (·.version)

/-- The version that an item would read now; none while it is not available (R223 item 4, R312, R314). A stage that reads no shard
reads version 0. -/
def versionOf (s : State) (jb : Job) (it : Item) : Option Nat :=
  let sh := readsShards jb it.stage
  if sh.isEmpty then some 0
  else if it.phase = 3 then
    let v := maxOf ((knownVersions jb).filter (fun v => sh.all (fun i => versionAt s jb it.die i v)))
    if sh.all (fun i => versionAt s jb it.die i v) then some v else none
  else
    match fixedVersion jb it with
    | some v => if sh.all (fun i => versionAt s jb it.die i v) then some v else none
    | none => if it.phase = 0 then newestReadable s jb it.stage it.die it.step else none

/-! ### Objects that items wait on -/

/-- R274. -/
def satisfied (o : SyncObj) : Bool := decide ((o.count - o.target).toNat < 2147483648)

/-- The object at a virtual address of the job. -/
def objAt (jb : Job) (va : Nat) : Option Nat :=
  match walk jb none va with
  | .sync o => some (o + va % 65536 / 16)
  | _ => none

/-- The completion objects of transitions that the items of a stage and phase depend on are satisfied (R381). -/
def objectsDone (s : State) (jb : Job) (it : Item) : Bool :=
  jb.image.objEdges.all (fun e =>
    decide (e.stage ≠ it.stage ∨ e.phase ≠ it.phase) || (match objAt jb e.obj with | some o => satisfied (getObj s o) | none => false))

/-! ### Readiness (R223) -/

/-- Item 1: data-edge predecessors and the chain of chunks (R234). -/
def edgesDone (jb : Job) (it : Item) : Bool :=
  jb.image.edges.all (fun e =>
    decide (e.tStage ≠ it.stage ∨ e.tPhase ≠ it.phase) || doneItem jb e.fStage e.fPhase it.mb it.chunk it.step) &&
    (decide (it.phase ≠ 0 ∨ it.chunk = 0) || doneItem jb it.stage 0 it.mb (it.chunk - 1) it.step) &&
    (decide (it.phase ≠ 1 ∨ chunkCount jb it.step it.mb ≤ it.chunk + 1) || doneItem jb it.stage 1 it.mb (it.chunk + 1) it.step)

/-- Item 2: a channel consumer waits for its producer's launch. -/
def producersLaunched (jb : Job) (it : Item) : Bool :=
  jb.image.chans.all (fun c =>
    decide (c.cStage ≠ it.stage) ||
      (match (jb.items.filter (fun e =>
          decide (e.2.stage = c.pStage ∧ e.2.phase = it.phase ∧ e.2.mb = it.mb ∧ e.2.chunk = it.chunk ∧ e.2.step = it.step ∧
            e.2.state ≠ .notExecuted))).getLast? with
       | some e => launchedState e.2.state
       | none => false))

/-- Item 3: the bed is idle, and not held by a migration whose point the item lies behind (R236). -/
def bedIdle (s : State) (it : Item) : Bool :=
  let b := getBed (getPav s it.pav) it.bed
  b.valid && b.item.isNone

/-- New forward work (R223). -/
def newForward (jb : Job) (it : Item) : Bool :=
  decide (it.phase = 0) && !jb.image.edges.any (fun e => decide (e.tStage = it.stage ∧ e.tPhase = 0)) &&
    !jb.image.chans.any (fun c => decide (c.cStage = it.stage))

/-- Micro-batches begun and not ended at a stage, on any of its replicas (R224 code 1). -/
def begunAt (jb : Job) (stage : Nat) : Nat := (jb.begun.filter (fun b => decide (b.1 = stage))).length

/-- Item 5: admission of new forward work (R224, R254). -/
def admitted (jb : Job) (it : Item) : Bool :=
  !newForward jb it ||
    (decide (iceOccupancy jb it.die < (getIce jb it.die).hwm) &&
      (decide (jb.image.policy ≠ 1 ∨ it.chunk ≠ 0) || decide (begunAt jb it.stage < jb.image.window)))

/-- What R260 adds for BWD and RCP items. -/
def stashReady (jb : Job) (it : Item) : Bool :=
  let es := itemEntries jb it
  if it.phase = 1 then es.all (fun e => decide (e.state ≠ .dropped))
  else if it.phase = 2 then
    es.all (fun e => e.recomp || decide (e.state ≠ .dropped)) &&
      (let need := ((es.filter (fun e => decide (e.state = .dropped))).map (fun e => ceilDiv (e.size * 64) 65536)).sum
       decide (need ≤ (freeStoreFrames jb it.die).length + (freeSpillFrames jb it.die).length))
  else true

/-- The order of items under the job's policy (R224), as a list to compare from the left. -/
def orderKey (policy : Nat) (it : Item) : List Int :=
  let ph : Int := it.phase
  let st : Int := it.step.toNat
  let mb : Int := it.mb
  let ch : Int := it.chunk
  let tail : List Int := [(it.stage : Int), (it.pav : Int), (it.bed : Int)]
  if policy = 3 then
    if it.phase = 1 ∨ it.phase = 2 then [st, 1, -mb, -ch, -ph] ++ tail
    else [st, if it.phase = 0 then 0 else ph, mb, ch, 0] ++ tail
  else
    let rank : Int :=
      if it.phase = 1 ∨ it.phase = 2 then (if policy = 2 then 1 else 0)
      else if it.phase = 0 then (if policy = 2 then 0 else 3)
      else if it.phase = 3 then (if policy = 2 then 2 else 1)
      else (if policy = 2 then 3 else 2)
    [rank, st, mb] ++ tail ++ [ch]

def lexLt : List Int → List Int → Bool
  | a :: x, b :: y => if a < b then true else if b < a then false else lexLt x y
  | _, _ => false

/-- Under STEP_ORDER no item launches on a bed before every earlier item of that bed. -/
def inStepOrder (jb : Job) (it : Item) : Bool :=
  decide (jb.image.policy ≠ 3) ||
    jb.items.all (fun e =>
      decide (e.2.pav ≠ it.pav ∨ e.2.bed ≠ it.bed ∨ e.2.phase = 4 ∨ (e.2.state ≠ .waiting ∧ e.2.state ≠ .reserved)) ||
        !lexLt (orderKey 3 e.2) (orderKey 3 it))

/-- No item of a step beyond the last step of the layout epoch is launched (R389 step 1). -/
def inEpoch (jb : Job) (it : Item) : Bool :=
  match jb.image.mapping.epochLast.find? (fun e => decide (e.1 = jb.epoch)) with
  | some e => decide (it.step.toNat ≤ e.2.toNat)
  | none => true

/-- An item on a bed is ready but for the versions that it reads (R223, R309). -/
def otherwiseReady (s : State) (jb : Job) (it : Item) : Bool :=
  decide (it.state = .waiting ∧ it.phase ≤ 3) && edgesDone jb it && objectsDone s jb it && producersLaunched jb it && bedIdle s it &&
    admitted jb it && stashReady jb it && inStepOrder jb it && inEpoch jb it

/-- An item on a bed is ready (R223). -/
def itemReady (s : State) (jb : Job) (it : Item) : Bool := otherwiseReady s jb it && (versionOf s jb it).isSome

/-- The items of pavilion p that are ready, by number. -/
def readyOn (s : State) (p : Nat) : List (Nat × Item) :=
  let pv := getPav s p
  let jb := getJob s pv.ctx
  if !pv.held ∨ !jb.loaded ∨ jb.faulted then []
  else jb.items.filter (fun e => decide (e.2.pav = p) && itemReady s jb e.2)

/-- The first of items in the order of the policy, the lower number among equals. -/
def firstItem (policy : Nat) : List (Nat × Item) → Option (Nat × Item)
  | [] => none
  | e :: rest =>
    match firstItem policy rest with
    | none => some e
    | some f => if lexLt (orderKey policy f.2) (orderKey policy e.2) then some f else some e

/-- The item word (R222). -/
def itemWordOf (it : Item) : Word :=
  BitVec.ofNat 64 (fieldAt 48 it.bed + fieldAt 36 it.stage + fieldAt 32 it.phase + fieldAt 12 it.mb + it.chunk)

/-- A new item of stage st; the die is that of its bed. -/
def newItem (st replica phase mb chunk : Nat) (step : BitVec 32) (pav bed : Nat) : Item :=
  { stage := st, replica := replica, phase := phase, mb := mb, chunk := chunk, step := step, die := dieOfPav pav, state := .waiting
    pav := pav, bed := bed, toReport := [], reported := false, staging := [], scratch := [], scratchPages := [], version := 0 }

def addItem (jb : Job) (it : Item) : Job := { jb with items := mput jb.nextItem it jb.items, nextItem := jb.nextItem + 1 }

/-- The bed of a stage and replica that takes new items: the one that is not being left. -/
def bedFor (s : State) (j st replica : Nat) : Option (Nat × Nat) :=
  (List.range 64).findSome? (fun p =>
    let pv := getPav s p
    if pv.held ∧ pv.ctx = j then
      ((List.range 16).find? (fun b =>
        let bd := getBed pv b
        bd.valid && decide (bd.stage = st ∧ bd.replica = replica) && !bd.migrating)).map (fun b => (p, b))
    else none)

/-- What a recomputation owes (R259): an RCP item for the marker's stage and for each stage joined to it. -/
def oweRcp (s : State) (j : Nat) (e : StashEntry) : State :=
  (joined (getJob s j).image e.stage).foldl (fun s st =>
    let jb := getJob s j
    match (stageOf jb st).bind (·.entFwd), bedFor s j st e.replica with
    | some _, some (p, b) =>
      if jb.items.any (fun i => decide (i.2.stage = st ∧ i.2.phase = 2 ∧ i.2.mb = e.mb ∧ i.2.chunk = e.chunk ∧ i.2.step = e.step ∧
          (i.2.state = .waiting ∨ i.2.state = .reserved ∨ i.2.state = .running))) then s
      else setJob s j (addItem jb { newItem st e.replica 2 e.mb e.chunk e.step p b with version := e.version })
    | _, _ => s) s

end Sys2Proof.Machine
end

