-- ==== Sys2Proof/Machine/UpdReady.lean ====
section
/-!
DEFINITION. Machine/UpdReady.lean: when an UPD item is ready, and what holds it (R223, R316, R317, R327).
-/
namespace Sys2Proof.Machine

/-- The HOT program of a shard. -/
def progOf (jb : Job) (sh : ShardDecl) : Option UpdDecl := jb.image.updates[sh.prog]?

/-- The shards that a store die of this package owns at a stage. -/
def ownedShards (s : State) (jb : Job) (d st : Nat) : List Nat :=
  (List.range jb.image.shards.length).filter (fun i =>
    match jb.image.shards[i]? with
    | some sh => ownsShard s sh && decide (sh.ownerDie = d ∧ sh.stage = st)
    | none => false)

/-- Live versions of a shard (R316). -/
def liveCount (jb : Job) (i : Nat) : Nat := (jb.versions.filter (fun e => decide (e.1 / 4294967296 = i))).length

/-- The close object of a shard's gradient region is satisfied (R297). -/
def closedOk (s : State) (jb : Job) (sh : ShardDecl) : Bool :=
  match sh.closeObj with
  | none => true
  | some (va, _) => (match objAt jb va with | some o => satisfied (getObj s o) | none => false)

def usesSlow (jb : Job) (sh : ShardDecl) : Bool :=
  match progOf jb sh with
  | some p => (p.slots.take p.nfield).any (fun k => decide (k.1 = 3))
  | none => false

/-- The slow tier has done step n − D: its object counts one ARRIVE for each step after the first (R327). -/
def slowOk (s : State) (jb : Job) (sh : ShardDecl) (n : BitVec 32) : Bool :=
  if !usesSlow jb sh ∨ n.toNat ≤ jb.image.slowD + jb.image.firstStep.toNat then true
  else
    match sh.slowDone.bind (objAt jb) with
    | some o => decide (((getObj s o).count - (n - BitVec.ofNat 32 jb.image.slowD - jb.image.firstStep)).toNat < 2147483648)
    | none => false

/-- The predecessors of an UPD item by data edges: every item of the phase in the step (R223). -/
def updEdges (jb : Job) (it : Item) : Bool :=
  jb.image.edges.all (fun e =>
    decide (e.tStage ≠ it.stage ∨ e.tPhase ≠ 4) ||
      jb.items.all (fun x => decide (x.2.stage ≠ e.fStage ∨ x.2.phase ≠ e.fPhase ∨ x.2.step ≠ it.step ∨ x.2.state = .done)))

/-- An UPD item waits for nothing but versions and the slow tier: its edges, the BWD items of its step, its gradient regions (R223, R317). -/
def updDue (s : State) (jb : Job) (it : Item) : Bool :=
  decide (it.state = .waiting ∧ it.phase = 4) && updEdges jb it && objectsDone s jb it && inEpoch jb it &&
    jb.items.all (fun x => decide (x.2.phase ≠ 1 ∨ x.2.step ≠ it.step ∨ x.2.state = .done)) &&
    (ownedShards s jb it.die it.stage).all (fun i => match jb.image.shards[i]? with | some sh => closedOk s jb sh | none => false)

/-- The slow tier has done for a shard what the item needs (R327). -/
def slowDone (s : State) (jb : Job) (it : Item) (i : Nat) : Bool :=
  match jb.image.shards[i]? with | some sh => slowOk s jb sh it.step | none => false

/-- An UPD item that is otherwise due is held by R316, or by R327. -/
def heldBy316 (s : State) (jb : Job) (it : Item) : Bool :=
  updDue s jb it && (ownedShards s jb it.die it.stage).any (fun i => decide (3 ≤ liveCount jb i))
def heldBy327 (s : State) (jb : Job) (it : Item) : Bool :=
  updDue s jb it && (ownedShards s jb it.die it.stage).any (fun i => !slowDone s jb it i)

/-- An UPD item of store die d is held by a rule (R338, R339). -/
def updHeldOn (s : State) (d : Nat) (held : State → Job → Item → Bool) : Bool :=
  (List.range 8).any (fun j =>
    let jb := getJob s j
    jb.loaded && !jb.faulted && jb.items.any (fun e => decide (e.2.die = d) && held s jb e.2))

/-- An UPD item is ready (R223, R316, R317, R327). -/
def updReady (s : State) (jb : Job) (it : Item) : Bool :=
  updDue s jb it && (ownedShards s jb it.die it.stage).all (fun i => decide (liveCount jb i < 3) && slowDone s jb it i)

end Sys2Proof.Machine
end

