-- ==== Sys2Proof/Machine/Time.lean ====
section
/-!
DEFINITION. Machine/Time.lean: the passing of ember ticks (R487): the Belvedere counters (R393, R394), the waits whose deadlines pass (R283).
-/
namespace Sys2Proof.Machine

/-! ### Causes of a bed's idle time (R394) -/

/-- The next item of a bed: the first in the order of the policy that has not been launched. -/
def nextItemOf (jb : Job) (p b : Nat) : Option (Nat × Item) :=
  firstItem jb.image.policy (jb.items.filter (fun e =>
    decide (e.2.pav = p ∧ e.2.bed = b ∧ e.2.phase ≠ 4) && decide (e.2.state = .waiting ∨ e.2.state = .reserved)))

/-- A migration from or to the bed runs (R236). -/
def bedInMigration (s : State) (j p b : Nat) : Bool :=
  (mget [] s.migs j).any (fun m => !m.done && decide ((m.fromP = p ∧ m.fromB = b) ∨ (m.toP = p ∧ m.toB = b)))

/-- A queue of the context holds an entry that has not been accepted (R405). -/
def entryWaits (s : State) (j : Nat) : Bool := (ctxQueues j).any (fun q => let x := mget Queue.reset s.queues q; decide (x.accept ≠ x.tail))

/-- The item's data edges come from stages of the package, whose items are not DONE. -/
def awaitsEdge (jb : Job) (it : Item) : Bool := !edgesDone jb it || !producersLaunched jb it

/-- The cause of a bed on which no item runs, as far as the state decides it: none where the bed has an item ready that its dispatch program has not
launched, for which R394 names no cause. -/
def idleCause (s : State) (j p b : Nat) : Option Nat :=
  let jb := getJob s j
  let bd := getBed (getPav s p) b
  let stageItems := jb.items.filter (fun e => decide (e.2.stage = bd.stage ∧ e.2.phase ≠ 4))
  if bedInMigration s j p b then some 9
  else
    match nextItemOf jb p b with
    | none =>
      if entryWaits s j then some 13
      else if stageItems.any (fun e => decide (e.2.state = .waiting ∨ e.2.state = .reserved ∨ e.2.state = .running)) then some 5
      else if jb.items.any (fun e => decide (e.2.phase ≠ 4 ∧ (e.2.state = .waiting ∨ e.2.state = .reserved ∨ e.2.state = .running))) then some 4
      else some 15
    | some (_, it) =>
      if !inEpoch jb it ∨ !objectsDone s jb it then some 8
      else if (match (getPav s p).dwait with | .launch _ i => decide (bd.item = some i) | _ => false) then some 11
      else if (versionOf s jb it).isNone then some 6
      else if awaitsEdge jb it then
        (if stageItems.any (fun e => itemReady s jb e.2) then some 2
         else if it.chunk ≠ 0 ∧ edgesDone jb { it with chunk := 0 } then some 5 else some 2)
      else if !admitted jb it ∨ !stashReady jb it then some 7
      else none

/-- The place of a cause in the order of precedence of R394. -/
def precedence (k : Nat) : Nat := ([14, 9, 8, 11, 10, 12, 7, 6, 13, 1, 2, 3, 5, 4, 15].findIdx? (· = k)).getD 15

/-- An item runs on a bed: in which of its cycles it is busy, and on what its threads wait in the others, turns on cycle timing. -/
def bedRuns (jb : Job) (b : Bed) : Bool :=
  match b.item.bind (fun i => mfind jb.items i) with
  | some it => decide (it.state = .running)
  | none => false

/-- The causes of the beds of a pavilion; none where one of them is not decided by the state. -/
def bedCauses (s : State) (p : Nat) (pv : Pav) : List (Nat × Bed) → Option (List Nat)
  | [] => some []
  | (b, bd) :: rest =>
    if !bd.valid then bedCauses s p pv rest
    else if bedRuns (getJob s pv.ctx) bd then none
    else
      match idleCause s pv.ctx p b, bedCauses s p pv rest with
      | some k, some l => some (k :: l)
      | _, _ => none

/-- The cause that the state decides for a pavilion: 15 where no job holds it, 14 where its job has faulted or its stack reinitialises, else that of
highest precedence among its beds. Where a bed runs an item, or no cause is named, which counters rise is free, the sum is not (log 26). -/
def belvCause (s : State) (p : Nat) (pv : Pav) : Option Nat :=
  if !pv.held then some 15
  else if (getJob s pv.ctx).faulted ∨ (getRst s (dieOfPav p)).phase = 3 then some 14
  else
    match bedCauses s p pv pv.beds with
    | some (k :: l) => some (l.foldl (fun a b => if precedence b < precedence a then b else a) k)
    | _ => none

def addBelv (m : Map Nat) (k n : Nat) : Map Nat := mset 0 k ((mget 0 m k + n) % 2 ^ 64) m

/-- n nominal cycles spread over causes 0 to `k` by free draws; the last takes what is left. -/
def spreadBelv (free : Nat) : Nat → Nat → Map Nat → Map Nat
  | 0, n, m => addBelv m 0 n
  | k + 1, n, m =>
    let a := (Config.freeWord free (9100 + k)).toNat % (n + 1)
    spreadBelv free k (n - a) (addBelv m (k + 1) a)

/-- Time while the stack is held in reset is not counted. -/
def belvCounts (s : State) (p : Nat) : Bool :=
  let r := (getRst s (dieOfPav p)).phase
  decide (r = 0 ∨ r = 3)

/-- n ticks of a pavilion: 90 nominal cycles each (R393). -/
def countBelv (s : State) (n : Nat) (p : Nat) : State :=
  if !belvCounts s p then s
  else
    let x := getPav s p
    match belvCause s p x with
    | some k => setPav s p { x with belv := addBelv x.belv k (90 * n) }
    | none => draw (setPav s p { x with belv := spreadBelv s.free 15 (90 * n) x.belv })

/-! ### Deadlines of waits (R283) -/

/-- A release or expiry message sets out (R282). -/
def sendWait (s : State) (agent : Nat) (ok : Bool) : State := { s with waitMsgs := s.waitMsgs ++ [⟨agent, ok⟩] }

/-- The deadline of a waiter has come. -/
def overdue (now : Nat) (w : Waiter) : Bool := match w.deadline with | some e => decide (e ≤ now) | none => false

/-- The waiters of an object whose deadlines have come leave the chain and return TIMED_OUT, while the object's Hearth runs (R283). -/
def expireObj (s : State) (i : Nat) : State :=
  let o := getObj s i
  let l := o.waiters.filter (overdue s.ember)
  if l.isEmpty ∨ !stackUp s (dieOfObj i) ∨ s.failTrigger ≠ 0 then s
  else
    let s := setObj s i { o with waiters := o.waiters.filter (fun w => !overdue s.ember w) }
    let s := modStore s (dieOfObj i) (fun x => { x with waitsOut := wrap32 (x.waitsOut + l.length) })
    l.foldl (fun s w => sendWait s w.agent false) s

/-- Every wait whose deadline has come expires. -/
def expireWaits (s : State) : State := (s.objs.map (·.1)).foldl expireObj s

/-! ### Held update items (R338, R339) -/

/-- While an UPD item of a store die is held, its counters of waiting rise, by how much turns on the clocks (log 49). -/
def countHeld (s : State) (d : Nat) : State :=
  let v := updHeldOn s d heldBy316
  let w := updHeldOn s d heldBy327
  if !v && !w then s
  else modStore (draw s) d (fun x =>
    { x with vholdWait := if v then wrap32 (x.vholdWait + (Config.freeWord s.free 9601).toNat) else x.vholdWait
             slowWait := if w then wrap32 (x.slowWait + (Config.freeWord s.free 9602).toNat) else x.slowWait })

/-! ### Ticks -/

/-- n ember ticks pass: the counters run while the accelerator portion is ACTIVE or asleep, and waits expire. -/
def passTicks (s : State) (n : Nat) : State :=
  let s := { s with ember := s.ember + n }
  let s := if s.pwr.pstate = 2 ∨ s.pwr.pstate = 3 then (List.range 64).foldl (fun s p => countBelv s n p) s else s
  expireWaits ((List.range 4).foldl countHeld s)

/-- Advances the ember counter to a tick that a command names, never back (log 2). -/
def advanceTo (s : State) (t : Nat) : State := if s.ember < t then passTicks s (t - s.ember) else s

end Sys2Proof.Machine
end

