-- ==== Sys2Proof/Machine/Clock.lean ====
section
/-!
DEFINITION. Machine/Clock.lean: the tick of the ember clock (R487), which is what the package does when no command waits (log 2).
-/
namespace Sys2Proof.Machine

/-- One tick of the ember clock; without VAON it stands still. -/
def idleTick (s : State) : State := if s.pwr.pstate = 0 then s else passTicks s 1

end Sys2Proof.Machine
end

