-- ==== Sys2Proof/Machine/PacketBytes.lean ====
section
/-!
DEFINITION. Machine/PacketBytes.lean: the bytes of a ZFP packet (R349, R350) and of a flit (R341).
-/
namespace Sys2Proof.Machine

/-! ### Packets -/

/-- The TYPE of R350. -/
def typeCode : PType → Nat
  | .rd => 1 | .rdrsp => 2 | .wr => 3 | .atom => 4 | .atomrsp => 5 | .ack => 6 | .rack => 7 | .arrive => 8 | .mark => 9
  | .xfer => 0x0A | .status => 0x0B | .crd => 0x10 | .crdx => 0x11 | .cdata => 0x12 | .crecall => 0x13 | .crack => 0x14
  | .cwb => 0x15 | .reserved c => c.toNat

/-- The types of R350 that are not reserved. -/
def pTypes : List PType :=
  [.rd, .rdrsp, .wr, .atom, .atomrsp, .ack, .rack, .arrive, .mark, .xfer, .status, .crd, .crdx, .cdata, .crecall, .crack, .cwb]

/-- The type that a TYPE field names. -/
def pTypeOf (c : Nat) : PType := (pTypes.find? (fun t => decide (typeCode t = c))).getD (.reserved (BitVec.ofNat 6 c))

/-- The four words of the header (R349). -/
def headerWord0 (p : Packet) : Nat :=
  fieldAt 48 p.dst.toNat + fieldAt 32 p.src.toNat + fieldAt 26 (typeCode p.typ) + fieldAt 20 p.hops + fieldAt 18 p.cls.toNat +
    fieldAt 13 (p.payload.length / 16) + fieldAt 10 p.path

def headerWord1 (p : Packet) : Nat :=
  fieldAt 32 p.cseq.toNat + fieldAt 30 p.sstk + fieldAt 28 p.dstk + fieldAt 14 p.tag + fieldAt 10 p.gen.toNat + fieldAt 9 (b2n p.retry) +
    fieldAt 8 (b2n p.openp)

def headerWord2 (p : Packet) : Nat := fieldAt 48 p.epoch.toNat + fieldAt 40 p.region + p.offset

/-- The packet as it crosses a link: 32 bytes of header, then the payload. -/
def packetBytes (p : Packet) : List Byte :=
  leBytes 8 (headerWord0 p) ++ leBytes 8 (headerWord1 p) ++ leBytes 8 (headerWord2 p) ++ leBytes 8 p.w3.toNat ++ p.payload

/-- Bytes of the packet that begins here: header and LEN units of payload. -/
def packetLen (l : List Byte) : Nat := 32 + 16 * bits (leNat (l.take 8)) 17 13

/-- The packet that bytes spell. -/
def packetOf (l : List Byte) : Packet :=
  let w := fun i => leNat ((l.drop (8 * i)).take 8)
  let a := w 0
  let b := w 1
  let c := w 2
  { dst := BitVec.ofNat 16 (bits a 63 48), src := BitVec.ofNat 16 (bits a 47 32), typ := pTypeOf (bits a 31 26), hops := bits a 25 20
    cls := BitVec.ofNat 2 (bits a 19 18), path := bits a 11 10
    cseq := BitVec.ofNat 32 (bits b 63 32), sstk := bits b 31 30, dstk := bits b 29 28, tag := bits b 27 14, gen := BitVec.ofNat 4 (bits b 13 10)
    retry := bitAt b 9, openp := bitAt b 8
    epoch := BitVec.ofNat 16 (bits c 63 48), region := bits c 47 40, offset := bits c 39 0
    w3 := BitVec.ofNat 64 (w 3), payload := (l.drop 32).take (packetLen l - 32) }

/-- Every field of the packet fits its bits of the header, and the payload is 0 to 16 units of 16 bytes (R349). -/
def wireOk (p : Packet) : Bool :=
  decide (p.hops < 64 ∧ p.path < 4 ∧ p.sstk < 4 ∧ p.dstk < 4 ∧ p.tag < 16384 ∧ p.region < 256 ∧ p.offset < 2 ^ 40 ∧
    p.payload.length % 16 = 0 ∧ p.payload.length ≤ 256 ∧ pTypeOf (typeCode p.typ) = p.typ)

/-- Receive-buffer units of 64 bytes that a packet takes (R341). -/
def packetUnits (p : Packet) : Nat := (32 + p.payload.length + 63) / 64

/-! ### Flits -/

/-- The first word of a flit, and its fields. -/
def flitWord (f : Flit) : Nat := leNat (f.bytes.take 8)
def flitSeq (f : Flit) : BitVec 12 := BitVec.ofNat 12 (bits (flitWord f) 63 52)
def flitAck (f : Flit) : BitVec 12 := BitVec.ofNat 12 (bits (flitWord f) 51 40)
def flitNak (f : Flit) : Bool := bitAt (flitWord f) 39
/-- Credits returned for class c, in units of 64 bytes. -/
def flitCredit (f : Flit) (c : Nat) : Nat := bits (flitWord f) 31 0 / 256 ^ c % 256
/-- The 39 slots. -/
def flitSlots (f : Flit) : List Byte := (f.bytes.drop 8).take 624
/-- The FCRC over bytes 0 to 631 fails (R310, R341). -/
def flitBad (f : Flit) : Bool := decide (leNat ((f.bytes.drop 632).take 8) ≠ (crc64 (f.bytes.take 632)).toNat)

/-- Packets standing back to back in bytes, with an unused slot all zero: the packets complete, and what is left of one that goes on in the
next flit. -/
def takePackets : Nat → List Byte → List Packet × List Byte
  | 0, l => ([], l)
  | fuel + 1, l =>
    if l.length < 16 then ([], l)
    else if (l.take 16).all (fun b => decide (b = 0)) then takePackets fuel (l.drop 16)
    else if l.length < packetLen l then ([], l)
    else
      let t := takePackets fuel (l.drop (packetLen l))
      (packetOf l :: t.1, t.2)

end Sys2Proof.Machine
end

