-- ==== Sys2Proof/Machine/Fabric.lean ====
section
/-!
DEFINITION. Machine/Fabric.lean: sending over the fabric: paths (R354), tags (R358), requests (R350, R359), sequenced channels (R351,
R352, R356), rejections (R347), the lines of coherent regions (R369).
-/
namespace Sys2Proof.Machine

/-! ### Packets (R349, R350) -/

/-- A packet with every field that a sender leaves open at 0. -/
def Packet.blank (typ : PType) (dst : BitVec 16) : Packet :=
  { dst := dst, src := 0, typ := typ, hops := 0, cls := 0, path := 0, cseq := 0, sstk := 0, dstk := 0, tag := 0, gen := 0,
    retry := false, openp := false, epoch := 0, region := 0, offset := 0, w3 := 0, payload := [] }

/-- The layout epoch after another (R388). -/
def nextEpoch (e : BitVec 16) : BitVec 16 := if e = 0xFFFF then 1 else e + 1

/-- Bytes asked for by an RD or carried by a WR. -/
def pktBytes (p : Packet) : Nat := p.w3.toNat % 512 + 1

/-- Payload of n bytes, padded with zeros to 16-byte units. -/
def padded (l : List Byte) : List Byte := l ++ List.replicate (roundUp 16 l.length - l.length) 0

/-- The code in word 3 of a response. -/
def pktCode (p : Packet) : Nat := p.w3.toNat % 65536

def aopOf (n : Nat) : Option AtomOp :=
  match n with
  | 1 => some .add
  | 2 => some .min
  | 3 => some .max
  | 4 => some .xchg
  | 5 => some .cas
  | 6 => some .fadd
  | 7 => some .xs
  | _ => none

/-- The fields of word 3 of an ATOM. -/
def atomAop (p : Packet) : Option AtomOp := aopOf (p.w3.toNat / 2 ^ 60)
def atomSize (p : Packet) : Nat := p.w3.toNat / 2 ^ 58 % 4
def atomCmbd (p : Packet) : Bool := bitAt p.w3.toNat 56
def atomN (p : Packet) : Nat := p.w3.toNat / 2 ^ 50 % 64

/-- Two packets of one request: its key of R361. -/
def sameReq (p q : Packet) : Bool := decide (p.src = q.src ∧ p.sstk = q.sstk ∧ p.tag = q.tag ∧ p.gen = q.gen)

/-! ### Paths (R354) -/

/-- The link carries flits: in the fail-safe state a link in UP sends fault-idle (R343, R449). -/
def linkUp (s : State) (l : Nat) : Bool := decide ((getLink s l).state = 5 ∧ s.failTrigger = 0)

/-- Path n of the route entry of a destination: its link, if the path is valid. -/
def routePath (s : State) (d : Nat) (dst : BitVec 16) (n : Nat) : Option Nat :=
  let e := mget 0 (getFab s d).route dst.toNat / 256 ^ n % 256
  if 128 ≤ e then some (e % 64) else none

/-- Path n is usable from store die d: its link is UP and can be reached over the bridges; class 3 travels on direct links only
(R368). -/
def pathUsable (s : State) (d : Nat) (dst : BitVec 16) (cls n : Nat) : Bool :=
  match routePath s d dst n with
  | some l => linkUp s l && forwards s (dieOfLink l) && routeExists s d (dieOfLink l) && (decide (cls ≠ 3) || decide ((getLink s l).peer = dst))
  | none => false

/-- The lowest-indexed usable path. -/
def bestPath (s : State) (d : Nat) (dst : BitVec 16) (cls : Nat) : Option Nat := (List.range 4).find? (pathUsable s d dst cls)

/-- The key under which packets to the package itself stand in `sent`. -/
def loopLink : Nat := 48

/-- The transmitter of a link takes a packet: it spends credits of its class and stands in the flit being filled or begins the next, which
goes into the replay buffer (R341, R342). How packets share flits is free (log 32). -/
def Link.transmit (x : Link) (join : Bool) (p : Packet) : Link :=
  { x with
    credits := x.credits.mapIdx (fun i v => if i = p.cls.toNat then v - packetUnits p else v)
    txNext := if join && !x.replay.isEmpty then x.txNext else x.txNext + 1
    replay := if join && !x.replay.isEmpty then x.replay.dropLast ++ [x.replay.getLastD [] ++ [p]] else x.replay ++ [[p]] }

/-- A packet leaves on link l, or turns back to the package itself. -/
def putSent (s : State) (l : Nat) (p : Packet) : State :=
  let t := { s with sent := mset [] l (p :: mget [] s.sent l) s.sent }
  if l = loopLink then t else draw (modLink t l (fun x => x.transmit (bitAt (Config.freeWord s.free 9410).toNat 0) p))

/-- The link has credits for the packet and room in its replay buffer of 512 flits. -/
def linkRoom (s : State) (l : Nat) (p : Packet) : Bool :=
  let x := getLink s l
  decide (packetUnits p ≤ x.credits.getD p.cls.toNat 0 ∧ x.replay.length < 512)

/-- A packet of the class waits at a router for link l. -/
def waitsFor (s : State) (d l : Nat) (p : Packet) (h : Nat × Packet × Nat) : Bool :=
  decide (h.2.1.cls = p.cls ∧ routePath s d h.2.1.dst h.2.1.path = some l)

/-- A packet waits at the router of store die d (R355). -/
def holdPacket (s : State) (d : Nat) (p : Packet) : State :=
  modFab s d (fun f => { f with held := f.held ++ [(f.nextId, p, s.ember)], nextId := f.nextId + 1 })

/-- A packet leaves store die d on its path n, behind those that wait for the same link. -/
def emitOn (s : State) (d n : Nat) (p : Packet) : State :=
  match routePath s d p.dst n with
  | some l =>
    if linkRoom s l p && !(getFab s d).held.any (waitsFor s d l p) then putSent s l { p with path := n } else holdPacket s d { p with path := n }
  | none => s

/-- A packet for the package itself. -/
def ownDst (s : State) (p : Packet) : Bool := decide (p.dst = s.pkgId) && s.pkgSet

/-- An unsequenced or forwarded packet leaves on the lowest-indexed usable path of the router's own table; with none it waits there (R354,
R355). -/
def emit (s : State) (d : Nat) (p : Packet) : State :=
  if ownDst s p then putSent s loopLink p
  else
    match bestPath s d p.dst p.cls.toNat with
    | some n => emitOn s d n p
    | none => holdPacket s d p

/-- The path on which a packet that waited goes on: a sequenced channel stays on its own, any other packet takes the best (R354). -/
def heldPath (s : State) (d : Nat) (p : Packet) : Option Nat :=
  if p.src = s.pkgId ∧ (p.cls = 0 ∨ p.cls = 3) ∧ pathUsable s d p.dst p.cls.toNat p.path then some p.path else bestPath s d p.dst p.cls.toNat

/-- A retry of an atomic that this router has merged into one that is not answered yet (R365). -/
def inComb (f : Fab) (p : Packet) : Bool := decide (p.typ = .atom) && p.retry && f.combs.any (fun c => c.members.any (sameReq p))

/-- A packet that waits goes on if it can. -/
def releaseOne (s : State) (d : Nat) (h : Nat × Packet × Nat) : State :=
  let f := getFab s d
  let p := h.2.1
  match (heldPath s d p).bind (fun n => (routePath s d p.dst n).map (fun l => (n, l))) with
  | none => s
  | some (n, l) =>
    if inComb f p || !linkRoom s l p || (f.held.takeWhile (fun g => decide (g.1 ≠ h.1))).any (waitsFor s d l p) then s
    else putSent (setFab s d { f with held := f.held.filter (fun g => decide (g.1 ≠ h.1)) }) l { p with path := n }

/-- What waits at the router of die d is looked at again, in order. -/
def releaseHeld (s : State) (d : Nat) : State := (getFab s d).held.foldl (fun s h => releaseOne s d h) s

/-! ### Tags (R358, R359) -/

def tagFree (f : Fab) (tag : Nat) : Bool :=
  !f.outs.any (fun o => decide (o.tag = tag)) && (mfind f.quar tag).isNone && (mfind f.recent tag).isNone

/-- The first tag that may be issued, from `tag` on, among `n`. -/
def findTag (f : Fab) : Nat → Nat → Option Nat
  | 0, _ => none
  | n + 1, tag => if tagFree f (tag % 16384) then some (tag % 16384) else findTag f n (tag + 1)

def nextGen (f : Fab) (tag : Nat) : Nat := mget 0 f.tagGen tag % 16

/-- A tag returns to the pool: its next use carries the next generation, and waits while that generation is recent. -/
def returnTag (s : State) (d tag gen : Nat) : State :=
  modFab s d (fun f =>
    let g := (gen + 1) % 16
    let f := { f with outs := f.outs.filter (fun o => decide (o.tag ≠ tag)), tagGen := mset 0 tag g f.tagGen
                      tagTime := mset 0 (16 * tag + gen) (s.ember + 1) f.tagTime }
    let last := mget 0 f.tagTime (16 * tag + g)
    if last ≠ 0 ∧ s.ember + 1 < last + 90000 then { f with recent := mput tag (last + 90000 - 1) f.recent } else f)

/-! ### Sequenced channels (R351, R352, R356) -/

def sameChannel (e : SendCh) (p : Packet) : Bool := decide (e.dst = p.dst ∧ e.dstk = p.dstk ∧ e.cls = p.cls.toNat)

/-- The first packet on a new entry carries OPEN (R351). -/
def newChannel (f : Fab) (p : Packet) (now : Nat) : SendCh :=
  { id := f.nextId, dst := p.dst, dstk := p.dstk, cls := p.cls.toNat, next := 0, opened := false, unacked := [], waitQ := [],
    progressAt := now, idleAt := now, path := none }

/-- The path that a channel runs on: it stays where it is while that is usable and something is unacknowledged (R354, R356). -/
def channelPath (s : State) (d : Nat) (e : SendCh) : Option Nat :=
  match e.path with
  | some n => if pathUsable s d e.dst e.cls n ∧ !e.unacked.isEmpty then some n else bestPath s d e.dst e.cls
  | none => bestPath s d e.dst e.cls

def putChannel (f : Fab) (e : SendCh) : Fab :=
  { f with send := if f.send.any (fun x => decide (x.id = e.id)) then f.send.map (fun x => if x.id = e.id then e else x) else f.send ++ [e]
           nextId := max f.nextId (e.id + 1) }

/-- The channel ends with E_LINK_NO_PATH, a fault of every job that it carries packets for (R352, R356). -/
def endChannel (s : State) (d id : Nat) : State :=
  match (getFab s d).send.find? (fun e => decide (e.id = id)) with
  | none => s
  | some e =>
    let s := modFab s d (fun f => { f with send := f.send.filter (fun x => decide (x.id ≠ id)) })
    (e.unacked ++ e.waitQ).foldl (fun s p => match p.job with | some j => jobFault s j eLinkNoPath | none => s) s

/-- A packet goes out on the channel: numbered, kept until an ACK covers it; with no usable path the channel ends. -/
def sendNow (s : State) (d : Nat) (e : SendCh) (p : SentPkt) : State :=
  let pkt := { p.pkt with cseq := e.next, openp := !e.opened }
  let own := ownDst s pkt
  let path := if own then some 0 else channelPath s d e
  let e := { e with next := e.next + 1, opened := true, unacked := e.unacked ++ [{ p with pkt := pkt, resent := 0 }], path := path
                    progressAt := if e.unacked.isEmpty then s.ember else e.progressAt }
  let s := modFab s d (fun f => putChannel f e)
  match path with
  | some n => if own then putSent s loopLink pkt else emitOn s d n pkt
  | none => endChannel s d e.id

/-- A packet joins its channel: it waits behind 4,096 that are not acknowledged, and for one of the 4,096 entries where its channel has none
(R351, R352; that it waits there is a DESIGN CHOICE, log 74). -/
def joinChannel (s : State) (d : Nat) (sp : SentPkt) : State :=
  let f := getFab s d
  match f.send.find? (fun e => sameChannel e sp.pkt) with
  | some e => if 4096 ≤ e.unacked.length then setFab s d (putChannel f { e with waitQ := e.waitQ ++ [sp] }) else sendNow s d e sp
  | none =>
    if 4096 ≤ f.send.length then setFab s d { f with chanWait := f.chanWait ++ [sp] }
    else sendNow s d (newChannel f sp.pkt s.ember) sp

/-- A packet of class 0 or 3 is sent. `who` is the cell and stamp that its acknowledgement is for. -/
def sendSeq (s : State) (d : Nat) (p : Packet) (job : Option Nat) (who : Option (Nat × Nat)) : State :=
  joinChannel s d { pkt := { p with src := s.pkgId, sstk := d }, resent := 0, job := job, who := who }

/-- A sending entry has been freed: packets whose channel waited for one join theirs (R351). -/
def serveChannels (s : State) (d : Nat) : State :=
  let l := (getFab s d).chanWait
  l.foldl (fun s sp => joinChannel s d sp) (modFab s d (fun f => { f with chanWait := [] }))

/-- Every unacknowledged packet goes out again, with its number (R352, R356); `count` for a resend by timeout. -/
def resendAll (s : State) (d : Nat) (e : SendCh) (path : Option Nat) (count : Bool) : State :=
  let e := { e with path := path, progressAt := s.ember
                    unacked := e.unacked.map (fun p => { p with resent := if count then p.resent + 1 else p.resent }) }
  let s := modFab s d (fun f => putChannel f e)
  e.unacked.foldl (fun s p =>
    if ownDst s p.pkt then putSent s loopLink p.pkt else match path with | some n => emitOn s d n p.pkt | none => s) s

/-- Packets that wait go out while there is room. -/
def drainChannel : Nat → State → Nat → Nat → State
  | 0, s, _, _ => s
  | fuel + 1, s, d, id =>
    match (getFab s d).send.find? (fun e => decide (e.id = id)) with
    | none => s
    | some e =>
      match e.waitQ with
      | p :: rest => if e.unacked.length < 4096 then drainChannel fuel (sendNow s d { e with waitQ := rest } p) d id else s
      | [] => s

/-- The path of each sequenced channel of die d is looked at again after a link has left UP or the route table has changed (R356). -/
def movePaths (s : State) (d : Nat) : State :=
  serveChannels ((getFab s d).send.foldl (fun s e =>
    match e.path with
    | none => s
    | some n =>
      if e.dst = s.pkgId ∨ pathUsable s d e.dst e.cls n then s
      else if e.unacked.isEmpty ∧ e.waitQ.isEmpty then modFab s d (fun f => putChannel f { e with path := none })
      else
        match bestPath s d e.dst e.cls with
        | some m => resendAll s d e (some m) false
        | none => endChannel s d e.id) s) d

/-! ### Combining at a router (R363, R364) -/

def rdComb (p : Packet) : Bool := decide (p.typ = .rd) && bitAt p.w3.toNat 9
def atomComb (p : Packet) : Bool := decide (p.typ = .atom) && bitAt p.w3.toNat 57 && (decide (atomAop p = some .xs) || decide (atomAop p = some .add))

/-- Two requests that a router may combine. -/
def combinesWith (p q : Packet) : Bool :=
  decide (p.typ = q.typ ∧ p.dst = q.dst ∧ p.dstk = q.dstk ∧ p.region = q.region ∧ p.offset = q.offset ∧ p.epoch = q.epoch) &&
    (if p.typ = .rd then decide (pktBytes p = pktBytes q) else decide (atomAop p = atomAop q ∧ atomSize p = atomSize q))

def isRd (c : Comb) : Bool := c.members.any (fun p => decide (p.typ = .rd))

/-- Contributions that an entry carries. -/
def contribs (l : List Packet) : Nat := (l.map (fun p => max 1 (atomN p))).sum

def modComb (s : State) (d id : Nat) (f : Comb → Comb) : State :=
  modFab s d (fun y => { y with combs := y.combs.map (fun c => if c.id = id then f c else c) })

def dropComb (s : State) (d id : Nat) : State := modFab s d (fun y => { y with combs := y.combs.filter (fun c => decide (c.id ≠ id)) })

/-- A router opens an entry for a request. -/
def openComb (s : State) (d : Nat) (p : Packet) (sent : Bool) : State × Nat :=
  let f := getFab s d
  let c : Comb := { id := f.nextId, members := [p], sent := sent }
  (setFab s d { f with combs := f.combs ++ [c], nextId := f.nextId + 1 }, f.nextId)

/-- The atomics that came to store die d and have not been applied. -/
def atomsOf (s : State) (d : Nat) : List Packet :=
  s.stores.flatMap (fun e => e.2.hearthQ.filterMap (fun r => r.fabric)) |>.filter (fun p => decide (p.dstk = d))

/-- Entries for kept results in use or promised: results kept, atomics accepted and not applied, members of atomics being combined (R361,
R365). -/
def entriesUsed (s : State) (d : Nat) : Nat :=
  let f := getFab s d
  f.kept.length + (atomsOf s d).length + ((f.combs.filter (fun c => !isRd c)).map (fun c => c.members.length)).sum

/-- Kept results a die has room for (R361). -/
def keptMax : Nat := 32768

/-- The entry that a combinable request joins: for an RD one that is outstanding, for an atomic a window that is open (R364). -/
def combFor (f : Fab) (p : Packet) : Option Comb :=
  f.combs.find? (fun c =>
    c.members.any (combinesWith p) &&
      (if p.typ = .rd then c.sent && decide (c.members.length < 64) else !c.sent && decide (contribs (p :: c.members) ≤ 32)))

/-- The request joins entry c; an RD that is absorbed counts (R373). -/
def joinComb (s : State) (d : Nat) (c : Comb) (p : Packet) : State :=
  let s := modComb s d c.id (fun c => { c with members := c.members ++ [p] })
  if p.typ = .rd then modFab s d (fun f => { f with combReads := wrap32 (f.combReads + 1) }) else s

/-- One of the 2,048 combining entries is free. -/
def combRoom (s : State) (d : Nat) : Bool := decide ((getFab s d).combs.length < 2048)

/-- A combinable atomic at a router joins an open window of its address, or opens one, while there is room for the answer that must be kept. -/
def combineAtom (s : State) (d : Nat) (p : Packet) : State :=
  if keptMax ≤ entriesUsed s d then emit s d p
  else
    match combFor (getFab s d) p with
    | some c => joinComb s d c p
    | none => if combRoom s d then (openComb s d p false).1 else emit s d p

/-- A combinable RD of the die itself joins one that is outstanding through its router, or goes out under its own tag, where later ones join
it. -/
def combineOwnRd (s : State) (d : Nat) (p : Packet) : State :=
  match combFor (getFab s d) p with
  | some c => joinComb s d c p
  | none => if combRoom s d then emit (openComb s d p true).1 d p else emit s d p

/-! ### Requests -/

/-- A request with its tag goes out: in its channel for class 0 and 3, else through the router of its die, which may combine it unless it is
the router's own. -/
def launchReq (s : State) (d : Nat) (o : OutReq) : State :=
  if o.pkt.cls ≠ 2 then sendSeq s d o.pkt (some o.job) none
  else
    match o.forWho with
    | .comb _ => emit s d o.pkt
    | _ =>
      if ownDst s o.pkt then emit s d o.pkt
      else if rdComb o.pkt then combineOwnRd s d o.pkt
      else if atomComb o.pkt then combineAtom s d o.pkt
      else emit s d o.pkt

/-- The tag that a request may take: run-ahead holds at most 12,288 of them (R208, R358). -/
def tagFor (f : Fab) (o : OutReq) : Option Nat :=
  if o.ahead ∧ 12288 ≤ (f.outs.filter (·.ahead)).length then none else findTag f 16384 f.tagNext

/-- A request takes a tag of die d and goes out; with no tag to issue it waits for one (R358). -/
def sendReq (s : State) (d : Nat) (o : OutReq) : State :=
  let f := getFab s d
  match tagFor f o with
  | none => setFab s d { f with tagWait := f.tagWait ++ [o] }
  | some tag =>
    let p := { o.pkt with tag := tag, gen := BitVec.ofNat 4 (nextGen f tag), src := s.pkgId, sstk := d }
    let o := { o with tag := tag, gen := nextGen f tag, sentAt := s.ember, lastAt := s.ember, pkt := p }
    launchReq (setFab s d { f with tagNext := (tag + 1) % 16384, outs := f.outs ++ [o] }) d o

/-- The request is run-ahead of a stream (R194, R208). -/
def runAhead (s : State) (who : ReqFor) : Bool :=
  match who with
  | .bellows c id _ => (getCell s c).bellows.any (fun r => decide (r.id = id) && !r.demand)
  | _ => false

/-- A request of class 2 when combinable (R363), else of class 0, or 3 for a coherent region. -/
def sendRequest (s : State) (d : Nat) (p : Packet) (cls : BitVec 2) (job : Nat) (who : ReqFor) : State :=
  sendReq s d { tag := 0, gen := 0, sentAt := 0, lastAt := 0, retries := 0, forWho := who, ahead := runAhead s who, job := job, pkt := { p with cls := cls } }

/-- The first request that may take a tag that has become free takes it. -/
def serveTags (s : State) (d : Nat) : State :=
  let f := getFab s d
  match f.tagWait.find? (fun o => (tagFor f o).isSome) with
  | some o => sendReq (setFab s d { f with tagWait := f.tagWait.erase o }) d o
  | none => s

/-- Header fields of a fabric address (R345). -/
def fabPacket (typ : PType) (epoch : BitVec 16) (addr : Nat) : Packet :=
  let region := addr / 2 ^ 40 % 256
  { Packet.blank typ (BitVec.ofNat 16 (addr / 2 ^ 48)) with
    epoch := epoch, region := region, offset := addr % 2 ^ 40, dstk := region % 4 }

def combCls (comb : Bool) : BitVec 2 := if comb then 2 else 0

/-- RD packets for n bytes at a fabric address, at most 256 bytes each (R350); `who k` names the part at byte k. -/
def sendReads (s : State) (d : Nat) (epoch : BitVec 16) (comb : Bool) (job : Nat) (who : Nat → ReqFor) : Nat → Nat → Nat → Nat → State
  | 0, _, _, _ => s
  | fuel + 1, addr, n, k =>
    if n = 0 then s
    else
      let m := min n (256 - addr % 256)
      let p := { fabPacket .rd epoch addr with w3 := BitVec.ofNat 64 (m - 1 + (if comb then 512 else 0)) }
      sendReads (sendRequest s d p (combCls comb) job (who k)) d epoch comb job who fuel (addr + m) (n - m) (k + m)

/-- WR packets for bytes at a fabric address, at most 256 bytes each. -/
def sendWrites (s : State) (d : Nat) (epoch : BitVec 16) (job : Nat) (who : Option (Nat × Nat)) : Nat → Nat → List Byte → State
  | 0, _, _ => s
  | fuel + 1, addr, l =>
    if l.isEmpty then s
    else
      let m := min l.length (256 - addr % 256)
      let p := { fabPacket .wr epoch addr with w3 := BitVec.ofNat 64 (m - 1), payload := padded (l.take m) }
      sendWrites (sendSeq s d p (some job) who) d epoch job who fuel (addr + m) (l.drop m)

/-- Packets that an access of n bytes at an address takes. -/
def packetCount : Nat → Nat → Nat → Nat
  | 0, _, _ => 0
  | fuel + 1, addr, n => if n = 0 then 0 else 1 + packetCount fuel (addr + min n (256 - addr % 256)) (n - min n (256 - addr % 256))

/-- A rejection of a request of die d (R347, R373): counted, and the die's fabric event. -/
def countReject (s : State) (d : Nat) (code : Nat) (target : BitVec 16) : State :=
  raiseEvent
    (modFab s d (fun f => { f with rejCode := code, rejTarget := target, rejCount := wrap32 (f.rejCount + 1) }))
    (208 + d)

/-- An ARRIVE packet to object i of another package (R350). -/
def arrivePacket (dst : BitVec 16) (epoch : BitVec 16) (i : Nat) (v : BitVec 32) : Packet :=
  { Packet.blank .arrive dst with
    epoch := epoch, region := 255, offset := 16 * i, dstk := i / 65536 % 4, w3 := BitVec.ofNat 64 (v.toNat * 2 ^ 32 + i % 262144) }

/-! ### Coherent regions: a member (R369) -/

/-- A fabric address lies in a region that the image declares coherent (log 29). -/
def coherentAt (jb : Job) (f : Nat) : Bool :=
  jb.image.regions.any (fun r => r.coherent && decide (r.kind = .fabric ∧ r.target ≤ f ∧ f < r.target + r.size))

/-- The die of a member that caches the lines of a region: CRECALL finds it by REGION mod 4 (R349, log 29). -/
def lineDie (f : Nat) : Nat := f / 2 ^ 40 % 256 % 4

def lineAt (s : State) (f : Nat) : MLine := mget MLine.reset (getFab s (lineDie f)).lines (f / 64)

def setLine (s : State) (f : Nat) (x : MLine) : State :=
  modFab s (lineDie f) (fun y => { y with lines := mset MLine.reset (f / 64) x y.lines })

/-- A class 3 packet about the line at a fabric address. -/
def linePacket (typ : PType) (epoch : BitVec 16) (f : Nat) : Packet := { fabPacket typ epoch (f / 64 * 64) with cls := 3 }

/-- The line is asked for, to share or to write, if no such request is out: CRD or CRDX. -/
def askLine (s : State) (f : Nat) (job : Nat) (excl : Bool) : State :=
  let x := lineAt s f
  if x.asked ≠ 0 then s
  else
    let s := setLine s f { x with asked := if excl then 2 else 1 }
    sendSeq s (lineDie f) (linePacket (if excl then .crdx else .crd) (getJob s job).epoch f) (some job) none

/-- The access waits for the line. -/
def waitLine (s : State) (f : Nat) (w : LineWait) : State :=
  let x := lineAt s f
  askLine (setLine s f { x with waits := x.waits ++ [w] }) f w.job w.wr.isSome

/-- Cuts n bytes at address f into parts of one line each: address, length, offset from the start. -/
def lineCuts : Nat → Nat → Nat → Nat → List (Nat × Nat × Nat)
  | 0, _, _, _ => []
  | fuel + 1, f, n, k =>
    if n = 0 then []
    else
      let m := min n (64 - f % 64)
      (f, m, k) :: lineCuts fuel (f + m) (n - m) (k + m)

/-- The bytes of a line that a part covers. -/
def lineBytes (x : MLine) (f m : Nat) : List Byte := (x.data.drop (f % 64)).take m

/-- Bytes of a line replaced from `lo` on. -/
def patch (l : List Byte) (lo : Nat) (b : List Byte) : List Byte := l.take lo ++ b ++ l.drop (lo + b.length)

/-! ### Coherent regions: the home (R369) -/

def setDirLine (s : State) (r n : Nat) (x : DLine) : State :=
  modFab s (r % 4) (fun y => { y with dir := mset DLine.reset (r * 2 ^ 34 + n) x y.dir })

/-- CRECALL to members; one that leaves the member in S carries bit 0 of OFFSET set (log 29). -/
def recallFrom (s : State) (r n : Nat) (down : Bool) (members : List (BitVec 16)) : State :=
  let x := dirLine s r n
  let new := members.filter (fun m => !x.recalls.contains m)
  let s := setDirLine s r n { x with recalls := x.recalls ++ new }
  new.foldl (fun s m =>
    sendSeq s (r % 4) { Packet.blank .crecall m with cls := 3, region := r, offset := 64 * n + b2n down, dstk := r % 4 } none none) s

/-- What an access of the home package must have recalled before it may be performed: a read of a line in M, a write of any. -/
def recallRange (s : State) (jb : Job) (k : Acc) (va len : Nat) : State :=
  (heldLines s jb k va len).foldl (fun s e =>
    let x := dirLine s e.1 e.2
    recallFrom s e.1 e.2 (decide (k = .rd)) x.holders) s

end Sys2Proof.Machine
end

