-- ==== Sys2Proof/Machine/Float.lean ====
section
/-!
DEFINITION. Machine/Float.lean: the number formats of chapter 02 by exact arithmetic: decoding (R33 to R39), exact sums and
products, one rounding (R44, R45), conversions (R47, R48), square scales (R40), the spark generator (R49) and the XS
accumulator (R51 to R53).
-/
namespace Sys2Proof.Machine

/-- A decoded value: NaN, an infinity, or (−1)^neg × m × 2^e exactly (a zero keeps its sign, R34). -/
inductive FVal where
  | nan
  | inf (neg : Bool)
  | fin (neg : Bool) (m : Nat) (e : Int)
  deriving DecidableEq, Repr

/-- A floating-point element format of R33: `uemin` is the exponent of the smallest subnormal, `maxCode` the magnitude code of
the largest finite value. -/
structure FFmt where
  width : Nat
  mbits : Nat
  uemin : Int
  maxCode : Nat
  infCode : Option Nat
  nanCode : Option Nat
  deriving DecidableEq, Repr

def fF32 : FFmt := ⟨32, 23, -149, 0x7F7FFFFF, some 0x7F800000, some 0x7FC00000⟩
def fF16 : FFmt := ⟨16, 10, -24, 0x7BFF, some 0x7C00, some 0x7E00⟩
def fBF16 : FFmt := ⟨16, 7, -133, 0x7F7F, some 0x7F80, some 0x7FC0⟩
def fE4M3 : FFmt := ⟨8, 3, -9, 0x7E, none, some 0x7F⟩
def fE5M2 : FFmt := ⟨8, 2, -16, 0x7B, some 0x7C, some 0x7E⟩
def fE3M2 : FFmt := ⟨6, 2, -4, 0x1F, none, none⟩
def fE2M3 : FFmt := ⟨6, 3, -3, 0x1F, none, none⟩
def fE2M1 : FFmt := ⟨4, 1, -1, 7, none, none⟩

/-- How the elements of a format code are coded (R32). -/
inductive Elem where
  | flt (f : FFmt)
  | int (w : Nat)
  | e8m0
  | none
  deriving DecidableEq, Repr

/-- The element coding of a format code (R32). -/
def elemOf (code : Nat) : Elem :=
  if code = 0 then .flt fF32 else if code = 1 then .flt fF16 else if code = 2 then .flt fBF16
  else if code = 3 ∨ code = 8 ∨ code = 0x10 then .flt fE4M3
  else if code = 4 ∨ code = 9 ∨ code = 0x11 then .flt fE5M2
  else if code = 5 then .int 8 else if code = 6 then .int 4
  else if code = 0x0A ∨ code = 0x12 then .flt fE3M2 else if code = 0x0B ∨ code = 0x13 then .flt fE2M3
  else if code = 0x0C ∨ code = 0x14 then .flt fE2M1 else if code = 0x19 then .e8m0 else .none

/-- A square-block format (R32). -/
def isSb (code : Nat) : Bool := decide (8 ≤ code ∧ code ≤ 0x0C)

/-- An OCP Microscaling format, import only (R42). -/
def isMx (code : Nat) : Bool := decide (0x10 ≤ code ∧ code ≤ 0x14)

/-- A format with a per-tensor scale (R32, R36). -/
def isScaled (code : Nat) : Bool := decide (3 ≤ code ∧ code ≤ 6)

/-- A code of the table of R32. -/
def fmtKnown (code : Nat) : Bool :=
  decide (code ≤ 6) || isSb code || isMx code || decide (code = 0x18) || decide (code = 0x19)

/-- Bits per element (R32). -/
def fmtBits (code : Nat) : Nat :=
  match elemOf code with
  | .flt f => f.width
  | .int w => w
  | .e8m0 => 8
  | .none => 192

/-- The value of a floating-point code (R33). -/
def decodeF (f : FFmt) (v : Nat) : FVal :=
  let neg := bitAt v (f.width - 1)
  let mag := v % 2 ^ (f.width - 1)
  if f.maxCode < mag then (if f.infCode = some mag then .inf neg else .nan)
  else if mag / 2 ^ f.mbits = 0 then .fin neg mag f.uemin
  else .fin neg (mag % 2 ^ f.mbits + 2 ^ f.mbits) (f.uemin + (mag / 2 ^ f.mbits : Nat) - 1)

/-- The value of an element without its scale (R33, R35). -/
def decodeElem (code v : Nat) : FVal :=
  match elemOf code with
  | .flt f => decodeF f v
  | .int w => let i := signedOf w v; .fin (decide (i < 0)) i.natAbs 0
  | .e8m0 => if v = 0xFF then .nan else .fin false 1 ((v : Int) - 127)
  | .none => .nan

def f32 (v : F32) : FVal := decodeF fF32 v.toNat

/-! ### Exact arithmetic, special values by R137 -/

def FVal.isNan : FVal → Bool
  | .nan => true
  | _ => false
def FVal.isInf : FVal → Bool
  | .inf _ => true
  | _ => false
def FVal.isZero : FVal → Bool
  | .fin _ 0 _ => true
  | _ => false
def FVal.neg : FVal → FVal
  | .nan => .nan
  | .inf n => .inf (!n)
  | .fin n m e => .fin (!n) m e
def FVal.abs : FVal → FVal
  | .nan => .nan
  | .inf _ => .inf false
  | .fin _ m e => .fin false m e

/-- The signed integer in units of 2^u, for u at most the value's exponent. -/
def scaledInt (u : Int) (n : Bool) (m : Nat) (e : Int) : Int :=
  let a : Int := (m * 2 ^ (e - u).toNat : Nat)
  if n then -a else a

/-- Exact sum: ∞ − ∞ is NaN, x − x is +0, −0 + −0 is −0 (R137). -/
def fvAdd : FVal → FVal → FVal
  | .nan, _ => .nan
  | _, .nan => .nan
  | .inf a, .inf b => if a = b then .inf a else .nan
  | .inf a, _ => .inf a
  | _, .inf b => .inf b
  | .fin n1 m1 e1, .fin n2 m2 e2 =>
    if m1 = 0 ∧ m2 = 0 then .fin (n1 && n2) 0 0
    else
      let u := min e1 e2
      let i := scaledInt u n1 m1 e1 + scaledInt u n2 m2 e2
      .fin (decide (i < 0)) i.natAbs u

def fvSub (a b : FVal) : FVal := fvAdd a b.neg

/-- Exact product: ∞ × 0 is NaN, signs combine by exclusive OR (R137). -/
def fvMul : FVal → FVal → FVal
  | .nan, _ => .nan
  | _, .nan => .nan
  | .inf a, .inf b => .inf (a != b)
  | .inf a, .fin n m _ => if m = 0 then .nan else .inf (a != n)
  | .fin n m _, .inf b => if m = 0 then .nan else .inf (n != b)
  | .fin n1 m1 e1, .fin n2 m2 e2 => .fin (n1 != n2) (m1 * m2) (e1 + e2)

/-- Ordering of two finite or infinite values (−0 equals +0). -/
def fvLt (a b : FVal) : Bool :=
  match a, b with
  | .nan, _ => false
  | _, .nan => false
  | .inf x, .inf y => x && !y
  | .inf x, _ => x
  | _, .inf y => !y
  | .fin n1 m1 e1, .fin n2 m2 e2 =>
    let u := min e1 e2
    decide (scaledInt u n1 m1 e1 < scaledInt u n2 m2 e2)

/-- Numeric equality (+0 equals −0, NaN equals nothing). -/
def fvEq (a b : FVal) : Bool := !a.isNan && !b.isNan && !fvLt a b && !fvLt b a

def fvNeg? : FVal → Bool
  | .fin n _ _ => n
  | .inf n => n
  | .nan => false

/-- Minimum; NaN if either is NaN, −0 below +0 (R137). -/
def fvMin (a b : FVal) : FVal :=
  if a.isNan || b.isNan then .nan
  else if fvLt a b then a else if fvLt b a then b else if fvNeg? a then a else b

/-- Maximum; NaN if either is NaN, −0 below +0 (R137). -/
def fvMax (a b : FVal) : FVal :=
  if a.isNan || b.isNan then .nan
  else if fvLt a b then b else if fvLt b a then a else if fvNeg? a then b else a

/-- An exact quotient to be rounded: a value that is not finite, or (−1)^neg × n / d × 2^e. -/
inductive FQuo where
  | val (v : FVal)
  | quo (neg : Bool) (n d : Nat) (e : Int)
  deriving DecidableEq, Repr

/-- Exact quotient (R137): x/0 is an infinity, 0/0 and ∞/∞ are NaN. -/
def fvDiv : FVal → FVal → FQuo
  | .nan, _ => .val .nan
  | _, .nan => .val .nan
  | .inf _, .inf _ => .val .nan
  | .inf a, .fin n _ _ => .val (.inf (a != n))
  | .fin n _ _, .inf b => .val (.fin (n != b) 0 0)
  | .fin n1 m1 e1, .fin n2 m2 e2 =>
    if m2 = 0 then (if m1 = 0 then .val .nan else .val (.inf (n1 != n2)))
    else if m1 = 0 then .val (.fin (n1 != n2) 0 0)
    else .quo (n1 != n2) m1 m2 (e1 - e2)

/-! ### Rounding -/

/-- A rounding mode (R44); SR carries its spark value (R45). -/
inductive Rnd where
  | rne
  | rz
  | sr (r : Nat)
  deriving DecidableEq, Repr

/-- floor(log2(n / d)). -/
def quoLog2 (n d : Nat) : Int :=
  let k : Int := (Nat.log2 n : Int) - (Nat.log2 d : Int)
  if 0 ≤ k then (if d * 2 ^ k.toNat ≤ n then k else k - 1)
  else (if d ≤ n * 2 ^ (-k).toNat then k else k - 1)

/-- Rounds n/d, in units, to an integer (R44, R45). -/
def roundUnits (mode : Rnd) (n d : Nat) : Nat :=
  let t := n / d
  let r := n % d
  match mode with
  | .rz => t
  | .rne => if 2 * r < d then t else if d < 2 * r then t + 1 else if t % 2 = 0 then t else t + 1
  | .sr x => if 2 ^ 32 ≤ r * 2 ^ 32 / d + x then t + 1 else t

/-- n/d × 2^e as an integer in units of 2^u, rounded. -/
def roundAt (mode : Rnd) (u : Int) (n d : Nat) (e : Int) : Nat :=
  if u ≤ e then roundUnits mode (n * 2 ^ (e - u).toNat) d else roundUnits mode n (d * 2 ^ (u - e).toNat)

/-- The magnitude code of n/d × 2^e, n ≠ 0, rounded at the format's ulp; it may pass `maxCode`. -/
def roundCode (f : FFmt) (mode : Rnd) (n d : Nat) (e : Int) : Nat :=
  if n = 0 then 0
  else
    let ex := quoLog2 n d + e
    let u := max (ex - f.mbits) f.uemin
    (u - f.uemin).toNat * 2 ^ f.mbits + roundAt mode u n d e

def signed (f : FFmt) (neg : Bool) (mag : Nat) : Nat := if neg then 2 ^ (f.width - 1) + mag else mag

/-- An arithmetic result: beyond the largest finite value it is an infinity (R48, R133). -/
def arithQ (f : FFmt) (mode : Rnd) (q : FQuo) : Nat :=
  match q with
  | .val .nan => f.nanCode.getD 0
  | .val (.inf n) => signed f n (f.infCode.getD f.maxCode)
  | .val (.fin n m e) =>
    let c := roundCode f mode m 1 e
    signed f n (if f.maxCode < c then (match mode with | .rz => f.maxCode | _ => f.infCode.getD f.maxCode) else c)
  | .quo neg n d e =>
    let c := roundCode f mode n d e
    signed f neg (if f.maxCode < c then (match mode with | .rz => f.maxCode | _ => f.infCode.getD f.maxCode) else c)

def arith (f : FFmt) (v : FVal) : Nat := arithQ f .rne (.val v)

/-- A conversion: it saturates (R48); NaN in a format without one is left to the square scale (code 0). -/
def convertF (f : FFmt) (mode : Rnd) (q : FQuo) : Nat :=
  match q with
  | .val .nan => f.nanCode.getD 0
  | .val (.inf n) => signed f n (f.infCode.getD f.maxCode)
  | .val (.fin n m e) => signed f n (min f.maxCode (roundCode f mode m 1 e))
  | .quo neg n d e => signed f neg (min f.maxCode (roundCode f mode n d e))

/-- A conversion to INT8 or INT4 (R48): NaN gives 0, beyond the range the nearest end. -/
def convertI (w : Nat) (mode : Rnd) (q : FQuo) : Nat :=
  let put := fun (neg : Bool) (t : Nat) =>
    if neg then wrapTo w (-((min t (2 ^ (w - 1)) : Nat) : Int)) else min t (2 ^ (w - 1) - 1)
  match q with
  | .val .nan => 0
  | .val (.inf n) => put n (2 ^ w)
  | .val (.fin n m e) => put n (roundAt mode 0 m 1 e)
  | .quo neg n d e => put neg (roundAt mode 0 n d e)

/-- A conversion of R47 to a format code. -/
def convertTo (code : Nat) (mode : Rnd) (q : FQuo) : Nat :=
  match elemOf code with
  | .flt f => convertF f mode q
  | .int w => convertI w mode q
  | .e8m0 => 0
  | .none => 0

/-! ### F32 operations -/

def toF32 (v : FVal) : F32 := BitVec.ofNat 32 (arith fF32 v)
/-- A conversion to F32: beyond the largest finite value it saturates (R47, R48). -/
def cvtF32 (v : FVal) : F32 := BitVec.ofNat 32 (convertF fF32 .rne (.val v))
def addF32 (a b : F32) : F32 := toF32 (fvAdd (f32 a) (f32 b))
def subF32 (a b : F32) : F32 := toF32 (fvSub (f32 a) (f32 b))
def mulF32 (a b : F32) : F32 := toF32 (fvMul (f32 a) (f32 b))
def fmaF32 (a b c : F32) : F32 := toF32 (fvAdd (fvMul (f32 a) (f32 b)) (f32 c))
def divF32 (a b : F32) : F32 := BitVec.ofNat 32 (arithQ fF32 .rne (fvDiv (f32 a) (f32 b)))
def minF32 (a b : F32) : F32 := toF32 (fvMin (f32 a) (f32 b))
def maxF32 (a b : F32) : F32 := toF32 (fvMax (f32 a) (f32 b))

/-- Integer square root, one bit of the root at a time from bit k − 1 down. -/
def isqrtFrom : Nat → Nat → Nat → Nat
  | 0, r, _ => r
  | k + 1, r, n => if (r + 2 ^ k) * (r + 2 ^ k) ≤ n then isqrtFrom k (r + 2 ^ k) n else isqrtFrom k r n

def isqrt (n : Nat) : Nat := isqrtFrom (Nat.log2 n / 2 + 1) 0 n

/-- The square root to rounding precision: the root's leading bits and a sticky bit (R136: correctly rounded). -/
def fvSqrt : FVal → FVal
  | .nan => .nan
  | .inf true => .nan
  | .inf false => .inf false
  | .fin n m e =>
    if m = 0 then .fin n 0 0
    else if n then .nan
    else
      let k : Int := if e % 2 = 0 then 128 else 129
      let v := m * 2 ^ k.toNat
      let r := isqrt v
      .fin false (2 * r + (if r * r = v then 0 else 1)) ((e - k) / 2 - 1)

/-- Exact sum of a list, from its first element on; empty sums and sums that cancel are +0 (R100, R144). A sum whose elements are all −0 is
−0: R144 does not say which zero it is (DESIGN CHOICE, log 99). -/
def fvSum (l : List FVal) : FVal :=
  match l with
  | [] => .fin false 0 0
  | x :: rest => rest.foldl fvAdd x

/-- FCVT.F32.I64 (R76). -/
def f32OfI64 (v : Word) : F32 := let i := v.toInt; toF32 (.fin (decide (i < 0)) i.natAbs 0)

/-- FCVT.I64.F32 (R76): saturates, NaN gives 0, rounds to nearest even. -/
def i64OfF32 (v : F32) : Word :=
  match f32 v with
  | .nan => 0
  | .inf true => BitVec.ofNat 64 (2 ^ 63)
  | .inf false => BitVec.ofNat 64 (2 ^ 63 - 1)
  | .fin n m e =>
    let t := roundAt .rne 0 m 1 e
    if n then BitVec.ofInt 64 (-((min t (2 ^ 63) : Nat) : Int)) else BitVec.ofNat 64 (min t (2 ^ 63 - 1))

/-! ### Square-block formats (R37 to R40) -/

/-- k of R40. -/
def sbK (code : Nat) : Int := if code = 8 then 8 else if code = 9 then 15 else if code = 0x0A then 4 else 2

/-- The exponent of the leading bit of a value's magnitude, none for zero and for NaN and infinities. -/
def magLog2 : FQuo → Option Int
  | .val (.fin _ m e) => if m = 0 then none else some ((Nat.log2 m : Int) + e)
  | .quo _ n d e => if n = 0 then none else some (quoLog2 n d + e)
  | _ => none

/-- The greatest of optional exponents. -/
def maxExp : List (Option Int) → Option Int
  | [] => none
  | none :: rest => maxExp rest
  | some x :: rest =>
    match maxExp rest with
    | none => some x
    | some y => some (max x y)

def quoNan : FQuo → Bool
  | .val .nan => true
  | _ => false

/-- The scale of a square, chosen before any element is rounded (R40). -/
def squareScale (code : Nat) (vals : List FQuo) : Nat :=
  if vals.any quoNan then 0xFF
  else
    match maxExp (vals.map magLog2) with
    | none => 0
    | some x => (min (max (x - sbK code + 127) 0) 254).toNat

/-- x / 2^(e − 127). -/
def unscale (e : Nat) : FQuo → FQuo
  | .val (.fin n m x) => .val (.fin n m (x - ((e : Int) - 127)))
  | .quo n a b x => .quo n a b (x - ((e : Int) - 127))
  | q => q

/-- The element code under a chosen scale (R40): code 0 in a square whose scale is 0xFF. -/
def sbElem (code e : Nat) (mode : Rnd) (q : FQuo) : Nat :=
  if e = 0xFF then 0 else convertTo code mode (unscale e q)

/-- The value of an SB element with its scale (R38, R39). -/
def sbValue (code e v : Nat) : FVal :=
  if e = 0xFF then .nan
  else
    match decodeElem code v with
    | .fin n m x => .fin n m (x + ((e : Int) - 127))
    | w => w

/-! ### The spark generator (R49) -/

def rotl32 (x : BitVec 32) (n : Nat) : BitVec 32 := (x <<< n) ||| (x >>> (32 - n))

def sparkAbsorb (h w : BitVec 32) : BitVec 32 := rotl32 (h ^^^ w) 11 * 0x9B1D6E35 + 0x4F1BC6A5

/-- R49. -/
def spark (seed : BitVec 64) (stream step : BitVec 32) (index : BitVec 64) : BitVec 32 :=
  let ws : List (BitVec 32) := [seed.setWidth 32, (seed >>> 32).setWidth 32, stream, step, index.setWidth 32, (index >>> 32).setWidth 32]
  let h := ws.foldl sparkAbsorb (0x2D4B9A17 : BitVec 32)
  let h := h ^^^ (h >>> 16)
  let h := h * 0xE5A33C6B
  h ^^^ (h >>> 15)

/-! ### The exact-sum accumulator (R51 to R53) -/

/-- An XS element (R51). -/
structure Xs where
  v : Int
  w : Nat
  infPos : Bool
  infNeg : Bool
  nan : Bool
  count : Nat
  deriving DecidableEq, Repr

/-- The element in 24 bytes (R51). -/
def xsOfBytes (l : List Byte) : Xs :=
  let v := leNat (l.take 20)
  let h := leNat ((l.drop 20).take 4)
  { v := signedOf 160 v, w := h % 256, infPos := bitAt h 8, infNeg := bitAt h 9, nan := bitAt h 10, count := h / 4096 }

def xsBytes (x : Xs) : List Byte :=
  leBytes 20 (wrapTo 160 x.v) ++
    leBytes 4 (x.w + 256 * b2n x.infPos + 512 * b2n x.infNeg + 1024 * b2n x.nan + 4096 * x.count)

/-- Adds one contribution (R52). -/
def xsAdd (acc : Xs) (x : F32) : Xs :=
  if acc.count = 0xFFFFF then { acc with nan := true }
  else
    let acc := { acc with count := acc.count + 1 }
    let full := fun (n : Bool) => if n then { acc with infNeg := true } else { acc with infPos := true }
    match f32 x with
    | .nan => { acc with nan := true }
    | .inf n => full n
    | .fin n m e =>
      let t := roundAt .rne ((acc.w : Int) - 265) m 1 e
      if 2 ^ 138 ≤ t then full n
      else { acc with v := acc.v + (if n then -(t : Int) else (t : Int)) }

/-- Merges two partial accumulators of one W: V, COUNT and the flags are sums and sticky ORs (R52). -/
def xsMerge (a b : Xs) : Xs :=
  { v := a.v + b.v, w := a.w, infPos := a.infPos || b.infPos, infNeg := a.infNeg || b.infNeg,
    nan := a.nan || b.nan || decide (0xFFFFF < a.count + b.count), count := min (a.count + b.count) 0xFFFFF }

/-- Read-out (R53). -/
def xsRead (x : Xs) : F32 :=
  if x.nan || (x.infPos && x.infNeg) then 0x7FC00000
  else if x.infPos then 0x7F800000
  else if x.infNeg then 0xFF800000
  else toF32 (.fin (decide (x.v < 0)) x.v.natAbs ((x.w : Int) - 265))

end Sys2Proof.Machine
end

