-- ==== Sys2Proof/Machine/Operands.lean ====
section
/-!
DEFINITION. Machine/Operands.lean: the fields of a KCI word (R71, R73) and the words that fields spell, the registers of a cell as
resources with what each instruction reads and writes (R69), registers, tiles, masks and the cell store, reading them with the free
values of R56.
-/
namespace Sys2Proof.Machine

/-! ### Words (R71 to R73) -/

def wClass (w : Word) : Nat := bits w.toNat 63 60
def wOp (w : Word) : Nat := bits w.toNat 59 52
def wD (w : Word) : Nat := bits w.toNat 51 47
def wA (w : Word) : Nat := bits w.toNat 46 42
def wB (w : Word) : Nat := bits w.toNat 41 37
def wC (w : Word) : Nat := bits w.toNat 36 32
def wImm (w : Word) : Nat := bits w.toNat 31 0
def wSpace (w : Word) : Bool := bitAt w.toNat 36
def wSize (w : Word) : Nat := bits w.toNat 35 34
def wOrd (w : Word) : Nat := bits w.toNat 33 32
def wFmt (w : Word) : Nat := bits w.toNat 31 24
def wMask (w : Word) : Nat := bits w.toNat 23 21
def wMz (w : Word) : Bool := bitAt w.toNat 20
def wRnd (w : Word) : Nat := bits w.toNat 19 18
def wImm16 (w : Word) : Nat := bits w.toNat 15 0
/-- Format X. -/
def xAcc (w : Word) : Nat := bits w.toNat 50 47
def xFmtA (w : Word) : Nat := bits w.toNat 31 24
def xFmtB (w : Word) : Nat := bits w.toNat 23 16
def xSrcA (w : Word) : Bool := bitAt w.toNat 15
def xSrcB (w : Word) : Bool := bitAt w.toNat 14
def xOrA (w : Word) : Bool := bitAt w.toNat 13
def xOrB (w : Word) : Bool := bitAt w.toNat 12
def xSpA (w : Word) : Bool := bitAt w.toNat 11
def xSpB (w : Word) : Bool := bitAt w.toNat 10
def xMsk (w : Word) : Nat := bits w.toNat 9 8
/-- Format Q. -/
def qDest (w : Word) : Nat := bits w.toNat 23 22
def qRnd (w : Word) : Nat := bits w.toNat 21 20
def qAcc (w : Word) : Nat := bits w.toNat 19 16
def qPre (w : Word) : Nat := bits w.toNat 15 11

/-- The fields common to every format (R71). -/
def encHead (cls op d a b : Nat) : Nat :=
  fieldAt 60 cls + fieldAt 52 op + fieldAt 47 d + fieldAt 42 a + fieldAt 37 b

/-- Format R (R73). -/
def encR (cls op : Nat) (f : RFields) : Word :=
  BitVec.ofNat 64 (encHead cls op f.d.toNat f.a.toNat f.b.toNat + fieldAt 32 f.c.toNat)

/-- Format I (R73). -/
def encI (cls op : Nat) (f : IFields) : Word := BitVec.ofNat 64 (encHead cls op f.d.toNat f.a.toNat 0 + f.imm.toNat)

/-- Format B (R73). -/
def encB (cls op : Nat) (f : BFields) : Word :=
  BitVec.ofNat 64 (encHead cls op f.d.toNat f.a.toNat f.b.toNat + f.off.toNat)

/-- Format M (R73). -/
def encM (cls op : Nat) (f : MFields) : Word :=
  BitVec.ofNat 64 (encHead cls op f.d.toNat f.a.toNat f.b.toNat + fieldAt 36 (b2n f.space) + fieldAt 34 f.size.toNat +
    fieldAt 32 f.ord.toNat + f.off.toNat)

/-- Format V (R73). -/
def encV (cls op : Nat) (f : VFields) : Word :=
  BitVec.ofNat 64 (encHead cls op f.d.toNat f.a.toNat f.b.toNat + fieldAt 32 f.c.toNat + fieldAt 24 f.fmt.toNat +
    fieldAt 21 f.mask.toNat + fieldAt 20 (b2n f.mz) + fieldAt 18 f.rnd.toNat + f.imm.toNat)

/-- Format VM (R73): register C (R71, R84) is bits [36:32], of which [36] is SPACE and [35:32], the field c, must be 0 (log 15). -/
def encVM (cls op : Nat) (f : VMFields) : Word :=
  BitVec.ofNat 64 (encHead cls op f.d.toNat f.a.toNat f.b.toNat + fieldAt 36 (b2n f.space) + fieldAt 32 f.c.toNat +
    fieldAt 24 f.fmt.toNat + fieldAt 21 f.mask.toNat + fieldAt 20 (b2n f.mz) + fieldAt 18 f.rnd.toNat + f.off.toNat)

/-- Format X (R73). -/
def encX (cls op : Nat) (f : XFields) : Word :=
  BitVec.ofNat 64 (encHead cls op f.acc.toNat f.a.toNat f.b.toNat + fieldAt 32 f.c.toNat + fieldAt 24 f.fmta.toNat +
    fieldAt 16 f.fmtb.toNat + fieldAt 15 (b2n f.srca) + fieldAt 14 (b2n f.srcb) + fieldAt 13 (b2n f.ora) +
    fieldAt 12 (b2n f.orb) + fieldAt 11 (b2n f.spa) + fieldAt 10 (b2n f.spb) + fieldAt 8 f.msk.toNat)

/-- Format Q (R73). -/
def encQ (cls op : Nat) (f : QFields) : Word :=
  BitVec.ofNat 64 (encHead cls op f.d.toNat f.a.toNat f.b.toNat + fieldAt 32 f.c.toNat + fieldAt 24 f.fmt.toNat +
    fieldAt 22 f.dest.toNat + fieldAt 20 f.rnd.toNat + fieldAt 16 f.acc.toNat + fieldAt 11 f.pre.toNat)

/-- The issue queues (R65). -/
inductive IQ where
  | ctl | vec | mat
  deriving DecidableEq, Repr

def queueOf (w : Word) : IQ :=
  if wClass w = 8 ∨ wClass w = 9 then .vec else if wClass w = 0xC ∨ wClass w = 0xD then .mat else .ctl

def queueDepth : IQ → Nat
  | .mat => 8
  | _ => 16

def getIQ (x : Cell) : IQ → List Entry
  | .ctl => x.ctl
  | .vec => x.vec
  | .mat => x.mat

def setIQ (x : Cell) (q : IQ) (l : List Entry) : Cell :=
  match q with
  | .ctl => { x with ctl := l }
  | .vec => { x with vec := l }
  | .mat => { x with mat := l }

def iqIndex : IQ → Nat
  | .ctl => 0
  | .vec => 1
  | .mat => 2

/-! ### Resources: what instructions read and write (R69) -/

def resS (t r : Nat) : Nat := 32 * t + r
def resT (n : Nat) : Nat := 256 + n % 32
def resAcc (n : Nat) : Nat := 288 + n
def resM (n : Nat) : Nat := 304 + n % 8
def resStream (t : Nat) : Nat := 312 + t
def resSlot (q : Nat) : Nat := 320 + q % 16

/-- Scalar sources; s0 is no resource. -/
def sRegs (t : Nat) (l : List Nat) : List Nat := (l.filter (fun r => decide (r ≠ 0))).map (resS t)

/-- Tiles n to n + k − 1. -/
def tRegs (n k : Nat) : List Nat := (List.range k).map (fun i => resT (n + i))

/-- Tiles of a VCVT's F32 side (R147). -/
def cvtTiles (f : Nat) : Nat := if f = 1 ∨ f = 2 then 2 else 4

/-- VEC operations whose only tile operand is tA (R83): VABS, VNEG, VSQRT, the special functions, VTESTNAN to VTESTFIN, the reductions,
VMOV, VTRANS. -/
def oneTile (op : Nat) : Bool :=
  decide (op = 6 ∨ op = 7 ∨ op = 9 ∨ (0x30 ≤ op ∧ op ≤ 0x35) ∨ (0x53 ≤ op ∧ op ≤ 0x55) ∨ (0x70 ≤ op ∧ op ≤ 0x75) ∨ op = 0x90 ∨ op = 0x93)

/-- The scalar, vector, matrix and stream resources that an instruction of thread t reads. -/
def readsOf (t : Nat) (w : Word) : List Nat :=
  let c := wClass w
  let op := wOp w
  let d := wD w
  let a := wA w
  let b := wB w
  let r := wC w
  let m := [resM (wMask w)]
  if c = 0 then
    if op = 3 ∨ op = 4 ∨ op = 0x11 ∨ op = 0x15 then sRegs t [a]
    else if 8 ≤ op ∧ op ≤ 0x0D then sRegs t [a, b]
    else if op = 0x10 then resStream t :: sRegs t [a, b]
    else []
  else if c = 1 then
    sRegs t (if op = 0x1E ∨ op = 0x23 then [a, b, r] else if op = 0x28 ∨ op = 0x29 then [a] else [a, b])
  else if c = 2 then sRegs t [a]
  else if c = 3 then
    if op = 0 ∨ op = 1 then sRegs t [a]
    else if op = 2 then sRegs t [a, d]
    else if op = 3 then sRegs t [a, b]
    else if op = 4 ∨ op = 0x16 then sRegs t [a, b, d]
    else sRegs t [a, b]
  else if c = 4 then
    (if op = 0 then [] else if op = 0x12 ∨ op = 0x14 ∨ op = 0x15 then sRegs t [a] else sRegs t [a, b])
  else if c = 5 then sRegs t (if op = 0 then [a, b] else if op = 1 then [b] else if op = 2 then [a] else [])
  else if c = 6 then (if op = 0 then sRegs t [a] else if op = 3 ∨ op = 4 then [resSlot b] else [])
  else if c = 8 then
    if op = 0x0A ∨ op = 0x0B then resT a :: sRegs t [b] ++ m
    else if op = 0x64 then sRegs t [b]
    else if op = 0x63 then [resM a]
    else if 0x60 ≤ op ∧ op ≤ 0x62 then [resM a, resM b]
    else if op = 0x80 then
      let src := bits (wImm16 w) 7 0
      (if src = 0 then tRegs a (cvtTiles (wFmt w)) else [resT a]) ++ sRegs t (if wRnd w = 2 then [b, r] else [b]) ++ m ++
        (if wRnd w = 2 then [resStream t] else [])
    else if op = 0x92 then (if bits (wImm16 w) 1 0 = 0 then [] else [resT a]) ++ sRegs t [b] ++ m
    else if op = 0x94 then resT a :: sRegs t [b]
    else if op = 0x95 then resT d :: sRegs t [a, b]
    else if op = 0x96 then sRegs t [r] ++ [resStream t] ++ m
    else if op = 0x03 ∨ (op = 0x46 ∧ bitAt (wImm16 w) 0) then [resT a, resT b, resT r] ++ m
    else if oneTile op then resT a :: m
    else [resT a, resT b] ++ m
  else if c = 9 then
    if op = 0 then sRegs t (if isSb (wFmt w) then [a, b, a + 1] else [a, b]) ++ m
    else if op = 1 then
      sRegs t (if isSb (wFmt w) then [a, b, a + 1] else [a, b]) ++ sRegs t (if wRnd w = 2 then [r] else []) ++
        tRegs d (if isSb (wFmt w) then 4 else 1) ++ m ++ (if wRnd w = 2 then [resStream t] else [])
    else if op = 2 then resSlot a :: m
    else if op = 4 then sRegs t [a]
    else [resM d] ++ sRegs t [a]
  else if c = 0xC then
    (if xSrcA w then [resSlot a] else sRegs t (if isSb (xFmtA w) then [a, a + 1] else [a])) ++
      (if xSrcB w then [resSlot b] else sRegs t (if isSb (xFmtB w) then [b, b + 1] else [b])) ++ sRegs t [r]
  else if c = 0xD then
    if op = 8 then []
    else if op = 9 then tRegs (qPre w) 4
    else
      sRegs t [b] ++ (if qDest w = 0 then [] else sRegs t (if isSb (wFmt w) then [a, a + 1] else [a])) ++
        (if qRnd w = 2 then resStream t :: sRegs t [r] else []) ++ (if op = 2 then tRegs (qPre w) 4 else [])
  else []

/-- Tiles that a Quench to tile registers writes (R118). -/
def quenchTiles (w : Word) : List Nat :=
  if qDest w = 0 then (if wFmt w = 0 then tRegs (wD w) 4 else tRegs (wD w) 2) else []

/-- The resources that an instruction of thread t writes. -/
def writesOf (t : Nat) (w : Word) : List Nat :=
  let c := wClass w
  let op := wOp w
  let d := wD w
  if c = 0 then
    if op = 2 ∨ op = 4 ∨ op = 0x10 ∨ op = 0x14 then sRegs t [d] else if op = 0x15 then [resStream t] else []
  else if c = 1 ∨ c = 2 ∨ c = 5 then sRegs t [d]
  else if c = 3 then (if op = 2 ∨ op = 4 ∨ op = 0x12 then [] else sRegs t [d])
  else if c = 4 then (if op = 0x13 ∨ op = 0x14 then sRegs t [d] else [])
  else if c = 6 then (if op = 3 ∨ op = 4 then sRegs t [d] else resSlot (wB w) :: sRegs t [d])
  else if c = 8 then
    if 0x50 ≤ op ∧ op ≤ 0x64 then [resM d]
    else if op = 0x80 then (if bits (wImm16 w) 7 0 = 0 then [resT d] else tRegs d (cvtTiles (bits (wImm16 w) 7 0)))
    else if op = 0x94 then sRegs t [d]
    else [resT d]
  else if c = 9 then
    if op = 0 then tRegs d (if isSb (wFmt w) then 4 else 1) else if op = 2 then [resT d] else if op = 4 then [resM d] else []
  else if c = 0xC then [resAcc (xAcc w)]
  else if c = 0xD then resAcc (qAcc w) :: (if op ≤ 2 then quenchTiles w else [])
  else []

def meets (a b : List Nat) : Bool := a.any (fun x => b.contains x)

/-! ### Registers of a cell -/

/-- Whether a resource has been written since the cell was zeroed or its thread spawned (R56, R60). -/
def isWritten (x : Cell) (res : Nat) : Bool := mget false x.written res

def markWritten (x : Cell) (res : Nat) : Cell := { x with written := mset false res true x.written }

/-- Scalar register r of thread t: s0 reads 0 (R55); a register not written yet reads a free value (R56). -/
def sReg (free : Nat) (x : Cell) (t r : Nat) : Word :=
  if r = 0 then 0
  else if isWritten x (resS t r) then mget 0 x.sreg (resS t r) else Config.freeWord free (resS t r)

/-- Writes scalar register r of thread t; a write to s0 is discarded (R55). -/
def setS (x : Cell) (t r : Nat) (v : Word) : Cell :=
  if r = 0 then x else markWritten { x with sreg := mset 0 (resS t r) v x.sreg } (resS t r)

/-- The 1,024 bytes of a tile register. -/
def tileBytes (free : Nat) (x : Cell) (n : Nat) : List Byte :=
  if isWritten x (resT n) then memRead x.tile (1024 * (n % 32)) 1024
  else (List.range 1024).map (fun i => Config.freeByte free (1024 * (n % 32) + i))

def setTile (x : Cell) (n : Nat) (l : List Byte) : Cell :=
  markWritten { x with tile := memWrite x.tile (1024 * (n % 32)) (l.take 1024) } (resT n)

/-- Writes consecutive tile registers. -/
def setTiles : Cell → Nat → List (List Byte) → Cell
  | x, _, [] => x
  | x, n, l :: rest => setTiles (setTile x n l) (n + 1) rest

def maskReg (free : Nat) (x : Cell) (n : Nat) : BitVec 1024 :=
  if isWritten x (resM n) then mget 0 x.mask (n % 8) else Config.freeMask free (n % 8)

def setMask (x : Cell) (n : Nat) (v : BitVec 1024) : Cell :=
  markWritten { x with mask := mset 0 (n % 8) v x.mask } (resM n)

/-- Element (r, k) of accumulator tile a. -/
def accElem (free : Nat) (x : Cell) (a r k : Nat) : F32 :=
  if isWritten x (resAcc a) then mget 0 x.acc (1024 * a + 32 * r + k) else Config.freeF32 free (1024 * a + 32 * r + k)

/-- The 1,024 elements of accumulator tile a, row by row. -/
def accTile (free : Nat) (x : Cell) (a : Nat) : List F32 :=
  (List.range 1024).map (fun i => accElem free x a (i / 32) (i % 32))

def setAccFrom (a : Nat) : Map F32 → Nat → List F32 → Map F32
  | m, _, [] => m
  | m, i, v :: rest => setAccFrom a (mset 0 (1024 * a + i) v m) (i + 1) rest

def setAcc (x : Cell) (a : Nat) (l : List F32) : Cell := markWritten { x with acc := setAccFrom a x.acc 0 l } (resAcc a)

def streamOf (x : Cell) (t : Nat) : BitVec 32 := mget 0 x.streamId t
def setStream (x : Cell) (t : Nat) (v : BitVec 32) : Cell := { x with streamId := mset 0 t v x.streamId }
def tstateOf (x : Cell) (t : Nat) : TState := mget .idle x.tstate t
def setTState (x : Cell) (t : Nat) (v : TState) : Cell := { x with tstate := mset .idle t v x.tstate }
def waitsOf (x : Cell) (t : Nat) : Waits := mget .none x.waits t
def setWaits (x : Cell) (t : Nat) (v : Waits) : Cell := { x with waits := mset .none t v x.waits }
def pcOf (x : Cell) (t : Nat) : Nat := (mget 0 x.pc t).toNat
def setPc (x : Cell) (t : Nat) (v : Nat) : Cell := { x with pc := mset 0 t (BitVec.ofNat 13 v) x.pc }

/-! ### The cell store (R57) -/

/-- One byte of the cell store: the program region holds the program, whose missing words are 0; any other byte reads what was
written or declared, else a free value (R56). -/
def localByte (free : Nat) (x : Cell) (a : Nat) : Byte :=
  if a < 8 * x.progWords then BitVec.ofNat 8 ((x.prog.getD (a / 8) 0).toNat / 256 ^ (a % 8))
  else
    match mfind x.store a with
    | some b => b
    | none => Config.freeByte free (1048576 + a)

def localRead (free : Nat) (x : Cell) (a n : Nat) : List Byte := (List.range n).map (fun i => localByte free x (a + i))

def localPut : Map Byte → Nat → List Byte → Map Byte
  | m, _, [] => m
  | m, a, b :: rest => localPut (mput a b m) (a + 1) rest

def localWrite (x : Cell) (a : Nat) (l : List Byte) : Cell := { x with store := localPut x.store a l }

/-- A local range may be read: it lies below 0x4_0000 (R87). -/
def localOk (a n : Nat) : Bool := decide (a + n ≤ 0x40000)

/-- A local range may be written: it also lies above the program region (R57, R87). -/
def localWOk (x : Cell) (a n : Nat) : Bool := localOk a n && decide (8 * x.progWords ≤ a)

/-- A value written to a flight's destination when its data returns: a scalar register, tiles, or a mask register. -/
def writeDest (x : Cell) (dest : Option Nat) (data : List Byte) : Cell :=
  match dest with
  | none => x
  | some r =>
    if r < 256 then setS x (r / 32) (r % 32) (BitVec.ofNat 64 (leNat (data.take 8)))
    else if r < 288 then setTiles x (r - 256) (pieces 1024 (data.length / 1024) data)
    else if 304 ≤ r ∧ r < 312 then setMask x (r - 304) (BitVec.ofNat 1024 (leNat data))
    else x

end Sys2Proof.Machine
end

