-- ==== Sys2Proof/Machine/Streams.lean ====
section
/-!
DEFINITION. Machine/Streams.lean: stream descriptors (R191, R192), claims (R197), the bytes that a claim delivers, ENDED (R198),
invalidation by own writes (R203) and by acquires (R204).
-/
namespace Sys2Proof.Machine

/-! ### Blocks of a format (R168) -/

/-- Bytes of the element part of a 32×32 block. -/
def blockBytes (fmt : Nat) : Nat := 1024 * fmtBits fmt / 8

/-- Blocks in a 64 KiB page. -/
def blocksPerPage (fmt : Nat) : Nat := if blockBytes fmt = 768 then 84 else 65536 / blockBytes fmt

/-- Address of the element part of block b. -/
def blockAddr (fmt base b : Nat) : Nat :=
  base + b / blocksPerPage fmt * 0x10000 + b % blocksPerPage fmt * blockBytes fmt

/-- The formats of R101. -/
def anvilFmt (fmt : Nat) : Bool := decide (fmt ≤ 6) || isSb fmt

/-! ### The descriptor (R191) -/

def dWord (d : List Word) (i : Nat) : Nat := (d.getD i 0).toNat
def dBase (d : List Word) : Nat := bits (dWord d 0) 47 0
def dSBase (d : List Word) : Nat := bits (dWord d 1) 47 0
def dB0 (d : List Word) : Nat := bits (dWord d 2) 39 0
def dS0 (d : List Word) : Int := signedOf 32 (bits (dWord d 3) 31 0)
def dS1 (d : List Word) : Int := signedOf 32 (bits (dWord d 3) 63 32)
def dS2 (d : List Word) : Int := signedOf 32 (bits (dWord d 4) 31 0)
def dN0 (d : List Word) : Nat := bits (dWord d 4) 47 32
def dN1 (d : List Word) : Nat := bits (dWord d 4) 63 48
def dN2 (d : List Word) : Nat := bits (dWord d 5) 15 0
def dDepth (d : List Word) : Nat := bits (dWord d 5) 22 16
def dUnit (d : List Word) : Nat := bits (dWord d 5) 31 24
def dFmt (d : List Word) : Nat := bits (dWord d 5) 39 32
def dMode (d : List Word) : Nat := bits (dWord d 5) 41 40
def dVolatile (d : List Word) : Bool := bitAt (dWord d 5) 43
def dRemoteOk (d : List Word) : Bool := bitAt (dWord d 5) 44
def dLo (d : List Word) : Nat := bits (dWord d 6) 47 0
def dHi (d : List Word) : Nat := bits (dWord d 7) 47 0
def dBlock (d : List Word) : Bool := decide (dMode d = 0)

/-- Units of the stream. -/
def dTotal (d : List Word) : Nat := dN0 d * dN1 d * dN2 d

/-- Bytes of the element part of a unit. -/
def dBytes (d : List Word) : Nat := if dBlock d then blockBytes (dFmt d) else 64 * dUnit d

/-- B0 or BASE advanced by the strides to unit k (R192). -/
def dIndex (d : List Word) (start : Int) (k : Nat) : Int :=
  start + (k % dN0 d : Nat) * dS0 d + (k / dN0 d % dN1 d : Nat) * dS1 d + (k / dN0 d / dN1 d : Nat) * dS2 d

/-- First element address and scale address of unit k; none for a block number outside 0 to 2^40 − 1 (R192, R196). -/
def unitPlace (d : List Word) (k : Nat) : Option (Int × Option Nat) :=
  if dBlock d then
    let b := dIndex d (dB0 d) k
    if b < 0 ∨ 2 ^ 40 ≤ b then none
    else some (blockAddr (dFmt d) (dBase d) b.toNat, if isSb (dFmt d) then some (dSBase d + 16 * b.toNat) else none)
  else some (dIndex d (dBase d) k, none)

/-- Where unit k lies when it is in bounds (R192). -/
def unitIn (d : List Word) (k : Nat) : Option (Nat × Option Nat) :=
  match unitPlace d k with
  | some (a, sc) => if (dLo d : Int) ≤ a ∧ a + dBytes d ≤ dHi d then some (a.toNat, sc) else none
  | none => none

/-- The address recorded for a unit out of bounds (R196). -/
def unitFaultAddr (d : List Word) (k : Nat) : Nat :=
  match unitPlace d k with
  | some (a, _) => wrapTo 48 a
  | none => dBase d

/-- Granule offsets of a unit: its element part, then 4,096 for the scale part. -/
def unitOffs (d : List Word) : List Nat :=
  (List.range (ceilDiv (dBytes d) 64)).map (64 * ·) ++ (if dBlock d && isSb (dFmt d) then [4096] else [])

/-- The virtual address of a granule offset of a unit at `a`. -/
def offAddr (p : Nat × Option Nat) (off : Nat) : Nat := if off = 4096 then p.2.getD 0 else p.1 + off

def offLen (off : Nat) : Nat := if off = 4096 then 16 else 64

/-- The footprint of a unit in the stream buffer (R195). -/
def unitFootprint (d : List Word) : Nat := roundUp 64 (dBytes d) + (if dBlock d && isSb (dFmt d) then 64 else 0)

/-! ### What an instruction takes of a stream (R197) -/

/-- A consumer's portion: a block of slot q in a format, or n bytes of slot q. -/
inductive Take where
  | block (q fmt : Nat)
  | bytes (q n : Nat)
  deriving DecidableEq, Repr

def Take.slot : Take → Nat
  | .block q _ => q
  | .bytes q _ => q

/-- The portions that a word takes, in order: operand A before operand B (R110). -/
def takesOf (w : Word) : List Take :=
  if wClass w = 0xC then
    (if xSrcA w then [.block (wA w % 16) (xFmtA w)] else []) ++ (if xSrcB w then [.block (wB w % 16) (xFmtB w)] else [])
  else if wClass w = 9 ∧ wOp w = 2 then [.bytes (wA w % 16) 1024]
  else if wClass w = 6 ∧ wOp w = 3 then [.bytes (wB w % 16) 8]
  else []

/-- Q.LOAD, Q.START and Q.STOP name the slot whose later claims wait for them. -/
def changesSlot (w : Word) : List Nat := if wClass w = 6 ∧ wOp w ≤ 2 then [wB w % 16] else []

/-- One claim: the portion is fixed and the slot's position moves past it; a claim that R197 forbids is bad. -/
def claimOne (x : Cell) (k : Take) : Cell × Claim :=
  let s := getSlot x k.slot
  if s.state ≠ .running then (x, .bad k.slot)
  else
    match k with
    | .block q fmt =>
      if dBlock s.desc && decide (dFmt s.desc = fmt ∧ s.pos < dTotal s.desc) then
        (setSlot x q { s with pos := s.pos + 1 }, .unit q s.pos)
      else (x, .bad q)
    | .bytes q n =>
      if !dBlock s.desc && decide (s.pos + n ≤ dTotal s.desc * dBytes s.desc) then
        (setSlot x q { s with pos := s.pos + n }, .bytes q s.pos n)
      else (x, .bad q)

def claimAll (x : Cell) : List Take → Cell × List Claim
  | [] => (x, [])
  | k :: rest =>
    let a := claimOne x k
    let b := claimAll a.1 rest
    (b.1, a.2 :: b.2)

/-- All entries of the cell's queues, by stamp. -/
def insertEntry (e : Entry) : List Entry → List Entry
  | [] => [e]
  | f :: rest => if e.stamp ≤ f.stamp then e :: f :: rest else f :: insertEntry e rest

def entriesOf (x : Cell) : List Entry := (x.ctl ++ x.vec ++ x.mat).foldr insertEntry []

def putEntry (x : Cell) (e : Entry) : Cell :=
  let q := queueOf e.word
  setIQ x q ((getIQ x q).map (fun f => if f.stamp = e.stamp then e else f))

/-- Claims are made in stamp order as the consumers enter their queues; behind an unissued Q.LOAD, Q.START or Q.STOP of the slot
they are made when that has issued (DEDUCED, log 16). -/
def assignFrom (x : Cell) (barred : List Nat) : List Entry → Cell
  | [] => x
  | e :: rest =>
    let ks := takesOf e.word
    if ks.isEmpty ∨ e.claims.isSome then assignFrom x (changesSlot e.word ++ barred) rest
    else if ks.any (fun k => barred.contains k.slot) then assignFrom x (ks.map Take.slot ++ barred) rest
    else
      let r := claimAll x ks
      assignFrom (putEntry r.1 { e with claims := some r.2 }) barred rest

def assignClaims (x : Cell) : Cell := assignFrom x [] (entriesOf x)

/-! ### Delivery -/

/-- What a claim delivers now: it waits, element and scale bytes, or the fault of R197, R196, R201, R202. -/
inductive Got where
  | wait
  | data (e s : List Byte)
  | bad (code addr : Nat)
  deriving DecidableEq, Repr

/-- The bytes of unit u of slot s at offsets lo to hi − 1 of its element part, and its scale part if asked. -/
def unitBytes (s : Slot) (k lo hi : Nat) (scale : Bool) : Got :=
  if (unitIn s.desc k).isNone then .bad ePageFault (unitFaultAddr s.desc k)
  else
    match s.units.find? (fun u => decide (u.k = k)) with
    | none => .wait
    | some u =>
      if u.poisoned then .bad eUncorrectable (unitFaultAddr s.desc k)
      else
        match u.faults.find? (fun e => if e.1 = 4096 then scale else decide (e.1 < hi ∧ lo < e.1 + 64)) with
        | some (_, c, a) => .bad c a
        | none =>
          let el := (List.range (hi - lo)).map (fun i => mfind u.got (lo + i))
          let sc := if scale then (List.range 16).map (fun i => mfind u.got (4096 + i)) else []
          if (el ++ sc).all Option.isSome then .data (el.filterMap id) (sc.filterMap id) else .wait

/-- A LINEAR portion: the units that it spans, from unit k on. -/
def linearBytes (s : Slot) : Nat → Nat → Nat → Got
  | 0, _, _ => .data [] []
  | fuel + 1, pos, n =>
    if n = 0 then .data [] []
    else
      let len := dBytes s.desc
      let off := pos % len
      let m := min n (len - off)
      match unitBytes s (pos / len) off (off + m) false with
      | .bad c a => .bad c a
      | .wait =>
        match linearBytes s fuel (pos + m) (n - m) with
        | .bad c a => .bad c a
        | _ => .wait
      | .data e _ =>
        match linearBytes s fuel (pos + m) (n - m) with
        | .data f _ => .data (e ++ f) []
        | g => g

def claimGot (x : Cell) (c : Claim) : Got :=
  match c with
  | .bad q => .bad ePageFault (dBase (getSlot x q).desc)
  | .unit q k => let s := getSlot x q; unitBytes s k 0 (dBytes s.desc) (isSb (dFmt s.desc))
  | .bytes q pos n => linearBytes (getSlot x q) 17 pos n

/-! ### Units that are done, ENDED -/

/-- The units of slot q that a claim covers. -/
def claimUnits (x : Cell) (q : Nat) : Claim → List Nat
  | .unit p k => if p = q then [k] else []
  | .bytes p pos n =>
    if p = q then
      let len := dBytes (getSlot x q).desc
      (List.range ((pos + n - 1) / len + 1 - pos / len)).map (fun i => pos / len + i)
    else []
  | .bad _ => []

/-- Claims made and not taken. -/
def openClaims (x : Cell) : List Claim := (entriesOf x).flatMap (fun e => e.claims.getD [])

/-- The unit that holds the next byte or block to be claimed. -/
def nextUnitOf (s : Slot) : Nat := if dBlock s.desc then s.pos else if dBytes s.desc = 0 then 0 else s.pos / dBytes s.desc

/-- Position at which everything has been claimed. -/
def endPos (s : Slot) : Nat := if dBlock s.desc then dTotal s.desc else dTotal s.desc * dBytes s.desc

/-- Drops the units that are claimed and taken; a stream wholly taken is ENDED (R198). -/
def settleSlot (x : Cell) (q : Nat) : Cell :=
  let s := getSlot x q
  if s.state ≠ .running then x
  else
    let held := (openClaims x).flatMap (claimUnits x q)
    let s := { s with units := s.units.filter (fun u => decide (nextUnitOf s ≤ u.k) || held.contains u.k) }
    if s.pos = endPos s ∧ held.isEmpty then setSlot x q { s with state := .ended, units := [] } else setSlot x q s

def settleSlots (x : Cell) : Cell := (List.range 16).foldl settleSlot x

/-- Live units (R194): requested, not dropped, not wholly claimed. -/
def liveUnits (s : Slot) : List SUnit := s.units.filter (fun u => decide (nextUnitOf s ≤ u.k) && u.drop.isEmpty)

/-! ### Invalidation -/

/-- The granule offsets of unit k that bytes lo to hi − 1 of virtual addresses touch. -/
def offsTouched (d : List Word) (k lo hi : Nat) : List Nat :=
  match unitIn d k with
  | none => []
  | some p => (unitOffs d).filter (fun off => decide (offAddr p off / 64 * 64 < hi ∧ lo < offAddr p off / 64 * 64 + 64))

/-- Requests in flight for these offsets deliver nothing. -/
def cancelParts (l : List BellowsReq) (q gen k : Nat) (offs : List Nat) : List BellowsReq :=
  l.map (fun r => if r.q = q ∧ r.gen = gen ∧ r.k = k then { r with parts := r.parts.filter (fun p => !offs.contains p.1) } else r)

def dropGot (got : Map Byte) (offs : List Nat) : Map Byte :=
  got.filter (fun e => !offs.any (fun o => decide (o ≤ e.1 ∧ e.1 < o + offLen o)))

/-- Whether a granule offset of a unit has been requested: it is neither still to request nor dropped. -/
def offFetched (u : SUnit) (off : Nat) : Bool := !u.want.contains off && !u.drop.contains off

/-- Granules are to be fetched again. -/
def refetch (u : SUnit) (offs : List Nat) : SUnit :=
  { u with got := dropGot u.got offs, want := offs ++ u.want.filter (fun o => !offs.contains o) }

/-- An own write to global bytes lo to hi − 1 (R203): matching granules of live or claimed units are fetched again, and
counted. -/
def ownWriteSlot (lo hi : Nat) (x : Cell) (q : Nat) : Cell :=
  let s := getSlot x q
  if s.state ≠ .running then x
  else
    s.units.foldl (fun x u =>
      let offs := (offsTouched s.desc u.k lo hi).filter (offFetched u)
      if offs.isEmpty then x
      else
        let s' := getSlot x q
        let x := setSlot x q { s' with units := s'.units.map (fun v => if v.k = u.k then refetch v offs else v) }
        { x with bellows := cancelParts x.bellows q s.gen u.k offs
                 qinval := [wrap32 (x.qinval.getD 0 0 + offs.length), x.qinval.getD 1 0] }) x

def ownWrite (x : Cell) (lo len : Nat) : Cell := (List.range 16).foldl (ownWriteSlot lo (lo + len)) x

/-- The bytes of a claim lie in a granule that bytes lo to hi − 1 touch, whether Bellows has begun the unit or not. -/
def claimTouches (x : Cell) (lo hi : Nat) : Claim → Bool
  | .bad _ => false
  | .unit q k => !(offsTouched (getSlot x q).desc k lo hi).isEmpty
  | .bytes q pos n =>
    let d := (getSlot x q).desc
    (claimUnits x q (.bytes q pos n)).any (fun k =>
      (offsTouched d k lo hi).any (fun off => decide (pos < k * dBytes d + off + 64 ∧ k * dBytes d + off < pos + n)))

/-- A write waits while an earlier-stamped consumer has claimed bytes of a matching granule and not taken them, or has entered its queue
and not claimed yet (R203, log 16). -/
def streamHolds (x : Cell) (stamp lo len : Nat) : Bool :=
  (entriesOf x).any (fun e =>
    decide (e.stamp < stamp) &&
      match e.claims with
      | some l => l.any (claimTouches x lo (lo + len))
      | none => !(takesOf e.word).isEmpty)

/-- An acquire stamped `stamp` by thread t (R204): granules of VOLATILE streams that t started which hold a byte not claimed by an
instruction stamped before it are fetched again; each unit counts once. -/
def acquireSlot (t stamp : Nat) (x : Cell) (q : Nat) : Cell :=
  let s := getSlot x q
  if s.state ≠ .running ∨ !dVolatile s.desc ∨ s.starter ≠ t then x
  else
    let later := ((entriesOf x).filter (fun e => decide (stamp < e.stamp))).flatMap (fun e => e.claims.getD [])
    let back := (later.map (fun c =>
      match c with
      | .unit p _ => if p = q then 1 else 0
      | .bytes p _ n => if p = q then n else 0
      | .bad _ => 0)).sum
    let pos := s.pos - back
    let len := dBytes s.desc
    s.units.foldl (fun x u =>
      let offs := (unitOffs s.desc).filter (fun off =>
        offFetched u off && (if dBlock s.desc then decide (pos ≤ u.k) else decide (pos < u.k * len + off + 64)))
      if offs.isEmpty then x
      else
        let s' := getSlot x q
        let x := setSlot x q { s' with units := s'.units.map (fun v => if v.k = u.k then refetch v offs else v) }
        { x with bellows := cancelParts x.bellows q s.gen u.k offs
                 qinval := [x.qinval.getD 0 0, wrap32 (x.qinval.getD 1 0 + 1)] }) x

def acquireStreams (x : Cell) (t stamp : Nat) : Cell := (List.range 16).foldl (acquireSlot t stamp) x

/-- An issued access that brings no data to its cell is complete; an acquire acts on the streams (R204). -/
def endFlight (x : Cell) (stamp : Nat) : Cell :=
  let y := { x with flights := x.flights.filter (fun f => decide (f.stamp ≠ stamp)) }
  match x.flights.find? (fun f => decide (f.stamp = stamp)) with
  | some f => if f.acquire then acquireStreams y f.thread stamp else y
  | none => y

end Sys2Proof.Machine
end

