-- ==== Sys2Proof/Machine/Issue.lean ====
section
/-!
DEFINITION. Machine/Issue.lean: which entry of an issue queue may issue (R68, R69, R88, R89, R203, R218), and what issuing does to
the queues; the miss registers (R63, R64).
-/
namespace Sys2Proof.Machine

/-! ### Classes of words -/

/-- The control transfers of R66. -/
def isTransfer (w : Word) : Bool :=
  decide (wClass w = 0 ∧ (1 ≤ wOp w ∧ wOp w ≤ 4 ∨ 8 ≤ wOp w ∧ wOp w ≤ 0x0D ∨ wOp w = 0x13))

def isAtomic (w : Word) : Bool := decide (wClass w = 3 ∧ 0x10 ≤ wOp w)

/-- Memory scalar accesses that put their thread in MISS: global loads, gathers and indexed global stores, atomics that return a
value (R63, R206), SYNC.READ (R277). -/
def isMissing (w : Word) : Bool :=
  (decide (wClass w = 3) && wSpace w && decide (wOp w ≠ 2 ∧ wOp w ≠ 0x12)) || decide (wClass w = 4 ∧ wOp w = 0x14)

/-- Accesses that take a miss register (R63, R64). -/
def needsMiss (w : Word) : Bool :=
  isMissing w || (decide (wClass w = 9 ∧ wOp w ≠ 2) && wSpace w)

def isRelease (w : Word) : Bool := decide ((wClass w = 3 ∨ wClass w = 4 ∧ wOp w ≠ 0) ∧ wOrd w = 2)

def isFence (w : Word) : Bool := decide (wClass w = 4 ∧ wOp w = 0)

/-- SYNC.WAIT and SYNC.WAITT. -/
def isWait (w : Word) : Bool := decide (wClass w = 4 ∧ (wOp w = 0x12 ∨ wOp w = 0x13))

/-- Acquires (R89, R277). -/
def isAcquire (w : Word) : Bool := isWait w || decide ((wClass w = 3 ∨ wClass w = 4 ∧ wOp w ≠ 0) ∧ wOrd w = 1)

/-- Instructions that can switch their thread (R66). -/
def canSwitch (w : Word) : Bool :=
  isMissing w || isRelease w || isFence w || isWait w || decide (wClass w = 0 ∧ (wOp w = 0x11 ∨ wOp w = 0x12)) ||
    decide (wClass w = 5 ∧ wOp w = 8)

/-! ### What an access touches -/

/-- Byte ranges of an access, in one space, in the order in which they are checked. -/
structure Foot where
  glob : Bool
  write : Bool
  ranges : List (Nat × Nat)
  deriving DecidableEq, Repr

def sext32 (v : Nat) : Word := (BitVec.ofNat 32 v).signExtend 64

/-- The address of a format M access (R78). -/
def memAddr (free : Nat) (x : Cell) (t : Nat) (w : Word) : Word :=
  let base := sReg free x t (wA w) + sext32 (wImm w)
  if wClass w = 3 ∧ (wOp w = 3 ∨ wOp w = 4) then base + sReg free x t (wB w) <<< wSize w else base

/-- Bytes of a format M access; an XS element has 24 (R51). -/
def memSize (w : Word) : Nat := if wClass w = 3 ∧ wOp w = 0x12 then 24 else 2 ^ wSize w

/-- sA + 64 × OFF16 (R84). -/
def tileAddr (free : Nat) (x : Cell) (t : Nat) (w : Word) : Word :=
  sReg free x t (wA w) + 64 * (BitVec.ofNat 16 (wImm16 w)).signExtend 64

/-- Memory bytes of a row of a tile access (R148). -/
def rowBytes (fmt : Nat) : Nat := 16 * fmtBits fmt / 8

/-- The ranges of a VLD or VST (R84, R148). -/
def tileRanges (free : Nat) (x : Cell) (t : Nat) (w : Word) : List (Nat × Nat) :=
  let a := tileAddr free x t w
  if isSb (wFmt w) then [(a.toNat, blockBytes (wFmt w)), ((sReg free x t (wA w + 1)).toNat, 16)]
  else
    let b := sReg free x t (wB w)
    let stride := if b = 0 then 64 else b
    (List.range 16).map (fun r => ((a + BitVec.ofNat 64 r * stride).toNat, rowBytes (wFmt w)))

/-- The ranges of an operand or result block at a and, for an SB format, its scale part at a1 (R110, R118). -/
def blockRanges (fmt : Nat) (a a1 : Word) : List (Nat × Nat) :=
  (a.toNat, blockBytes fmt) :: (if isSb fmt then [(a1.toNat, 16)] else [])

/-- The block mask suppresses the MMA (R114). -/
def suppressed (free : Nat) (x : Cell) (t : Nat) (w : Word) : Bool :=
  decide (xMsk w = 2) && !bitAt (sReg free x t (wC w)).toNat 0

/-- The operand block of an address-form MMA that Tongs reads: its space and ranges. -/
def operandFoot (free : Nat) (x : Cell) (t : Nat) (w : Word) (isB : Bool) : Option Foot :=
  if wClass w ≠ 0xC ∨ suppressed free x t w then none
  else if isB then
    (if xSrcB w then none
     else some ⟨xSpB w, false, blockRanges (xFmtB w) (sReg free x t (wB w)) (sReg free x t (wB w + 1))⟩)
  else if xSrcA w then none
  else some ⟨xSpA w, false, blockRanges (xFmtA w) (sReg free x t (wA w)) (sReg free x t (wA w + 1))⟩

/-- The memory that an entry will touch, with the registers as they are. -/
def feetOf (free : Nat) (x : Cell) (e : Entry) : List Foot :=
  let w := e.word
  let t := e.thread
  if wClass w = 3 then
    [⟨wSpace w, decide (wOp w = 2 ∨ wOp w = 4 ∨ 0x10 ≤ wOp w), [((memAddr free x t w).toNat, memSize w)]⟩]
  else if wClass w = 9 then
    (if wOp w = 2 then []
     else if wOp w ≤ 1 then [⟨wSpace w, decide (wOp w = 1), tileRanges free x t w⟩]
     else [⟨wSpace w, decide (wOp w = 5), [((tileAddr free x t w).toNat, 128)]⟩])
  else if wClass w = 0xC then
    (if e.opA.isSome then [] else (operandFoot free x t w false).toList) ++
      (if e.opB.isSome then [] else (operandFoot free x t w true).toList)
  else if wClass w = 0xD ∧ wOp w ≤ 2 ∧ qDest w ≠ 0 then
    [⟨decide (qDest w = 2), true, blockRanges (wFmt w) (sReg free x t (wA w)) (sReg free x t (wA w + 1))⟩]
  else if wClass w = 6 ∧ wOp w = 0 then [⟨false, false, [((sReg free x t (wA w)).toNat, 64)]⟩]
  else []

/-- The memory that a Quench in flight will write. -/
def quenchFoot (q : QuenchRun) : List Foot :=
  if qDest q.word = 0 then [] else [⟨decide (qDest q.word = 2), true, blockRanges (wFmt q.word) q.addrA q.addrA1⟩]

def rangesMeet (a b : List (Nat × Nat)) : Bool :=
  a.any (fun p => b.any (fun q => decide (p.1 < q.1 + q.2 ∧ q.1 < p.1 + p.2)))

def footsMeet (a b : Foot) : Bool := decide (a.glob = b.glob) && (a.write || b.write) && rangesMeet a.ranges b.ranges

def feetMeet (a b : List Foot) : Bool := a.any (fun f => b.any (footsMeet f))

/-- The spaces that a word reads and writes, whatever its registers hold: (global, writes). -/
def spacesOf (w : Word) : List (Bool × Bool) :=
  if wClass w = 3 then [(wSpace w, decide (wOp w = 2 ∨ wOp w = 4 ∨ 0x10 ≤ wOp w))]
  else if wClass w = 9 ∧ wOp w ≠ 2 then [(wSpace w, decide (wOp w = 1 ∨ wOp w = 5))]
  else if wClass w = 0xC then (if xSrcA w then [] else [(xSpA w, false)]) ++ (if xSrcB w then [] else [(xSpB w, false)])
  else if wClass w = 0xD ∧ wOp w ≤ 2 ∧ qDest w ≠ 0 then [(decide (qDest w = 2), true)]
  else if wClass w = 6 ∧ wOp w = 0 then [(false, false)]
  else []

/-- The entry touches memory or a synchronisation object. -/
def touchesMem (w : Word) : Bool :=
  decide (wClass w = 3 ∨ wClass w = 9 ∧ wOp w ≠ 2 ∨ wClass w = 6 ∧ wOp w = 0 ∨ wClass w = 4 ∧ wOp w ≠ 0) ||
    (decide (wClass w = 0xC) && (!xSrcA w || !xSrcB w)) || decide (wClass w = 0xD ∧ wOp w ≤ 2 ∧ qDest w ≠ 0)

/-- The entry makes a global access that a fence waits for (R89, R287). -/
def isGlobal (w : Word) : Bool :=
  ((decide (wClass w = 3) || decide (wClass w = 9 ∧ wOp w ≠ 2)) && wSpace w) ||
    decide (wClass w = 4 ∧ wOp w ≠ 0 ∧ wOp w ≠ 0x12 ∧ wOp w ≠ 0x13) ||
    (decide (wClass w = 0xC) && ((!xSrcA w && xSpA w) || (!xSrcB w && xSpB w))) ||
    decide (wClass w = 0xD ∧ wOp w ≤ 2 ∧ qDest w = 2)

/-! ### Register interlock (R69, R121, R123) -/

/-- The resources that issued instructions have yet to write. -/
def pendingWrites (x : Cell) : List Nat :=
  x.flights.flatMap (fun f => if f.dest.isSome then writesOf f.thread f.word else []) ++
    x.allocs.map (fun a => resS a.thread a.dest) ++
    (match x.quench with | some q => quenchTiles q.word | none => [])

/-- Products outstanding into accumulator tile a. -/
def runsInto (x : Cell) (a : Nat) : Bool := x.runs.any (fun r => decide (xAcc r.word = a))

/-- The instruction overwrites its accumulator tile at issue, so the products of the tile must have landed (R114, R115, R123). -/
def overwritesAcc (free : Nat) (x : Cell) (t : Nat) (w : Word) : Bool :=
  decide (wClass w = 0xD ∧ 8 ≤ wOp w) || (decide (wClass w = 0xC ∧ wOp w = 1) && suppressed free x t w)

/-- No earlier-stamped instruction has still to write or read what the entry reads or writes. -/
def regsReady (x : Cell) (e : Entry) : Bool :=
  let rd := readsOf e.thread e.word
  let wr := writesOf e.thread e.word
  !meets (rd ++ wr) (pendingWrites x) &&
    (x.ctl ++ x.vec ++ x.mat).all (fun f =>
      decide (e.stamp ≤ f.stamp) ||
        (!meets (rd ++ wr) (writesOf f.thread f.word) && !meets wr (readsOf f.thread f.word)))

/-! ### Matrix entries -/

/-- Two MMAs share a chain key (R122). -/
def sameKey (a b : Word) : Bool := decide (xFmtA a = xFmtA b ∧ xFmtB a = xFmtB b)

/-- A MAT or QNC entry: no Quench is being read (R120), operands are held (R112), products have landed where the tile is overwritten
(R123), and an MMA of another chain key waits for the products of its tile (R122). -/
def matReady (free : Nat) (x : Cell) (e : Entry) : Bool :=
  let w := e.word
  if wClass w = 0xC then
    x.quench.isNone && ((operandFoot free x e.thread w false).isNone || e.opA.isSome) &&
      ((operandFoot free x e.thread w true).isNone || e.opB.isSome) &&
      !(overwritesAcc free x e.thread w && runsInto x (xAcc w)) &&
      !(decide (wOp w = 0) && x.runs.any (fun r => decide (xAcc r.word = xAcc w) && !sameKey r.word w))
  else if wClass w = 0xD then x.quench.isNone && !(overwritesAcc free x e.thread w && runsInto x (qAcc w))
  else true

/-! ### Memory order (R88, R89) -/

/-- An acquire of thread t stamped before n is not complete. -/
def acquireBefore (x : Cell) (t n : Nat) : Bool :=
  (x.ctl ++ x.vec ++ x.mat).any (fun f => decide (f.thread = t ∧ f.stamp < n) && isAcquire f.word) ||
    x.flights.any (fun f => decide (f.thread = t ∧ f.stamp < n) && f.acquire) ||
    (match waitsOf x t with | .object _ _ st => decide (st < n) | _ => false)

/-- A fence of thread t stamped before n is not complete. -/
def fenceBefore (x : Cell) (t n : Nat) : Bool :=
  x.ctl.any (fun f => decide (f.thread = t ∧ f.stamp < n) && isFence f.word) ||
    (match waitsOf x t with | .fence _ st => decide (st < n) | _ => false)

/-- A transmit slot that is FULL lies under a local write (R218). -/
def txHolds (s : State) (x : Cell) (ranges : List (Nat × Nat)) : Bool :=
  (List.range 8).any (fun p =>
    let pt := getTx x p
    match (if pt.valid then (getJob s x.ctx).image.chans[pt.chan]? else none) with
    | none => false
    | some ch =>
      (List.range ch.k).any (fun i =>
        let a := ch.txAddr + i * ch.u
        bitAt (localByte s.free x (a + ch.u - 8)).toNat 0 && rangesMeet ranges [(a, ch.u)]))

/-- A global access must wait for a page that moves (R175). -/
def pageWaits (s : State) (c : Nat) (x : Cell) (w : Word) (f : Foot) : Bool :=
  f.glob && decide (checkAccess s (getJob s x.ctx) x.item (dieOfCell c) (if isAtomic w then .atom else if f.write then .wr else .rd) f.ranges = .wait)

/-- The flight reads memory: until its data has come, no later-stamped write of the cell to bytes that it reads is performed (R88). -/
def Flight.reads (f : Flight) : Bool := decide (f.kind = .load ∨ f.kind = .opA ∨ f.kind = .opB)

/-- The accesses that an entry makes may be performed now. -/
def orderReady (s : State) (c : Nat) (x : Cell) (e : Entry) : Bool :=
  if !touchesMem e.word then true
  else
    let feet := feetOf s.free x e
    let glob := isGlobal e.word
    !acquireBefore x e.thread e.stamp && !fenceBefore x e.thread e.stamp &&
      (x.ctl ++ x.vec ++ x.mat).all (fun f =>
        decide (e.stamp ≤ f.stamp) || !touchesMem f.word ||
          (if regsReady x f then !feetMeet feet (feetOf s.free x f)
           else !feet.any (fun a => (spacesOf f.word).any (fun b => decide (a.glob = b.1) && (a.write || b.2))))) &&
      (match x.quench with | some q => decide (e.stamp < q.stamp) || !feetMeet feet (quenchFoot q) | none => true) &&
      !(glob && x.flights.any (fun f => decide (f.stamp < e.stamp ∧ (f.kind = .atom ∨ f.kind = .store)) && !f.arrived)) &&
      !(feet.any (fun a => a.glob && a.write && x.flights.any (fun f => decide (f.stamp < e.stamp) && f.reads && !f.arrived && rangesMeet a.ranges f.ranges))) &&
      feet.all (fun f =>
        (if f.write then
           (if f.glob then f.ranges.all (fun r => !streamHolds x e.stamp r.1 r.2) else !txHolds s x f.ranges)
         else true) && !pageWaits s c x e.word f)

/-! ### Streams -/

/-- The virtual addresses of n bytes of the sequence of a LINEAR stream from `pos` on. -/
def linearRanges (s : Slot) : Nat → Nat → Nat → List (Nat × Nat)
  | 0, _, _ => []
  | fuel + 1, pos, n =>
    if n = 0 ∨ dBytes s.desc = 0 then []
    else
      let off := pos % dBytes s.desc
      let m := min n (dBytes s.desc - off)
      (match unitIn s.desc (pos / dBytes s.desc) with | some p => [(p.1 + off, m)] | none => []) ++ linearRanges s fuel (pos + m) (n - m)

/-- What a claim covers of memory. -/
def claimRanges (x : Cell) : Claim → List (Nat × Nat)
  | .bad _ => []
  | .unit q k =>
    let s := getSlot x q
    match unitIn s.desc k with
    | some p => (p.1, dBytes s.desc) :: (match p.2 with | some a => [(a, 16)] | none => [])
    | none => []
  | .bytes q pos n => linearRanges (getSlot x q) 17 pos n

/-- An own write stamped before the consumer is still to be made to bytes that it claimed: the consumer sees it (R88, R203). -/
def ownWriteBefore (free : Nat) (x : Cell) (e : Entry) : Bool :=
  let mine : List Foot := [⟨true, false, (e.claims.getD []).flatMap (claimRanges x)⟩]
  (x.ctl ++ x.vec ++ x.mat).any (fun f =>
    decide (f.stamp < e.stamp) && (spacesOf f.word).any (fun p => p.1 && p.2) &&
      (!regsReady x f || feetMeet mine (feetOf free x f))) ||
    (match x.quench with | some q => decide (q.stamp < e.stamp) && feetMeet mine (quenchFoot q) | none => false)

/-- The portions that the entry claimed have arrived, or the claims fault (R197); a VOLATILE stream is not read past an acquire of its
starting thread that is not complete (R204). -/
def streamReady (free : Nat) (x : Cell) (e : Entry) : Bool :=
  if (takesOf e.word).isEmpty then true
  else
    match e.claims with
    | none => false
    | some cs =>
      !ownWriteBefore free x e && cs.all (fun c => decide (claimGot x c ≠ .wait)) &&
        (takesOf e.word).all (fun k =>
          let s := getSlot x k.slot
          !dVolatile s.desc || !acquireBefore x s.starter e.stamp)

/-! ### Issue -/

/-- The cell runs a launch of a job that goes on: firmware runs, the pavilion's clocks run, its stack is up, the job is loaded and not
faulted (log 13). -/
def cellLive (s : State) (c : Nat) : Bool :=
  running s && decide ((getPav s (pavOfCell c)).power = .run) && stackUp s (dieOfCell c) &&
    (match cellJob s c with | some j => (getJob s j).loaded && !(getJob s j).faulted | none => false)

/-- TSPAWN waits for a HALT of the thread that it names which is ahead of it in the control queue (R91). TSPAWN of a thread that has
stopped waits until what that thread issued or queued before has been done: its registers change hands in stamp order (R60, R69). -/
def spawnReady (free : Nat) (x : Cell) (e : Entry) : Bool :=
  if wClass e.word = 0 ∧ wOp e.word = 0x10 then
    let u := (sReg free x e.thread (wA e.word)).toNat % 8
    if x.ctl.any (fun f => decide (f.thread = u ∧ f.stamp < e.stamp ∧ wClass f.word = 0 ∧ wOp f.word = 0x13)) then false
    else if tstateOf x u = .idle ∨ tstateOf x u = .halted then
      !(x.ctl ++ x.vec ++ x.mat).any (fun f => decide (f.thread = u ∧ f.stamp < e.stamp)) &&
        !x.flights.any (fun f => decide (f.thread = u)) && !x.allocs.any (fun a => decide (a.thread = u))
    else true
  else true

/-- Everything but a miss register that an entry needs to issue. -/
def ready (s : State) (c : Nat) (e : Entry) : Bool :=
  let x := getCell s c
  regsReady x e && spawnReady s.free x e && matReady s.free x e && streamReady s.free x e && orderReady s c x e

/-- Miss registers in use or promised (R63). -/
def missUsed (x : Cell) : Nat := (x.flights.filter (fun f => f.miss)).length + x.missGranted.length

/-- A miss register is there for the thread's access. -/
def missFree (x : Cell) (t : Nat) (w : Word) : Bool :=
  !needsMiss w || x.missGranted.contains t || (x.missWaiters.isEmpty && decide (missUsed x < 48))

/-- The oldest entry of thread t in a queue (R68). -/
def frontOf (l : List Entry) (t : Nat) : Option Entry := l.find? (fun e => decide (e.thread = t))

/-- The units of the vector engine (R134) and those behind the other queues. -/
inductive VUnit where
  | datapath | special | mask | port | anvil | other
  deriving DecidableEq, Repr

/-- The unit that an instruction occupies (R134, R112). -/
def unitOf (w : Word) : VUnit :=
  let op := wOp w
  if wClass w = 8 then
    if (0x30 ≤ op ∧ op ≤ 0x35) ∨ op = 8 ∨ op = 9 then .special
    else if (0x60 ≤ op ∧ op ≤ 0x64) ∨ op = 0x94 then .mask
    else .datapath
  else if wClass w = 9 then .port
  else if wClass w = 0xC then .anvil
  else .other

/-- The unit of an entry may be busy with instructions that have issued: a unit of the vector engine (R135: cycles are not modelled, so that
it is busy is possible at any time, log 102), the Anvil while products are outstanding (R112). -/
def mayBeBusy (x : Cell) (u : VUnit) : Bool :=
  match u with
  | .datapath | .special | .mask | .port => true
  | .anvil => !x.runs.isEmpty
  | .other => false

/-- An older entry of the same queue, the oldest of its thread, could issue: the queue issues that one first (R68). An older one whose
unit may be busy does not hold an entry bound for another unit (R135). -/
def olderReady (s : State) (c : Nat) (e : Entry) : Bool :=
  let x := getCell s c
  let l := getIQ x (queueOf e.word)
  l.any (fun f =>
    decide (f.stamp < e.stamp ∧ frontOf l f.thread = some f) && ready s c f && missFree x f.thread f.word &&
      !(decide (unitOf f.word ≠ unitOf e.word) && mayBeBusy x (unitOf f.word)))

/-- Global accesses of a thread stamped before n that are not performed (R89). -/
def openAccess (x : Cell) (t n : Nat) : Bool :=
  (x.ctl ++ x.vec ++ x.mat).any (fun f => decide (f.thread = t ∧ f.stamp < n) && isGlobal f.word) ||
    x.flights.any (fun f => decide (f.thread = t ∧ f.stamp < n)) ||
    (match x.quench with
     | some q => decide (q.thread = t ∧ q.stamp < n ∧ qDest q.word = 2)
     | none => false)

/-- Threads in QFULL whose next word's queue has room become READY (R58). -/
def wakeFull (x : Cell) : Cell :=
  (List.range 8).foldl (fun x t =>
    let q := queueOf (x.prog.getD (pcOf x t) 0)
    if tstateOf x t = .qfull ∧ (getIQ x q).length < queueDepth q then setTState x t .ready else x) x

/-- The entry leaves its queue; ISSUE counts it (R97); a promised miss register is taken. -/
def issued (s : State) (c : Nat) (e : Entry) : State :=
  let q := queueOf e.word
  let x := getCell s c
  let x := setIQ x q (dropFirst (fun f => decide (f.stamp = e.stamp)) (getIQ x q))
  let x := { x with issue := mset 0 (iqIndex q) ((mget 0 x.issue (iqIndex q) + 1) % 2 ^ 64) x.issue
                    missGranted := if needsMiss e.word then dropFirst (fun t => decide (t = e.thread)) x.missGranted else x.missGranted }
  draw (setCell s c (wakeFull x))

/-- A thread is in MISSFULL and waits for a miss register. -/
def inMissfull (x : Cell) : Bool := x.missWaiters.any (fun t => decide (tstateOf x t = .missfull))

/-- The thread waits in MISSFULL; an entry that is none of a READY thread waits without changing its state. -/
def waitMiss (s : State) (c t : Nat) : State :=
  modCell s c (fun x =>
    if x.missWaiters.contains t then x
    else
      let x := { x with missWaiters := x.missWaiters ++ [t] }
      if tstateOf x t = .ready then setTState x t .missfull else x)

/-- A release with accesses outstanding performs FENCE.THREAD first (R89). -/
def releaseFence (s : State) (c t stamp : Nat) : State :=
  modCell s c (fun x => setWaits (setTState x t .drain) t (.fence false stamp))

/-- An entry that may not issue: lines that other packages hold of what it accesses are recalled (R369). -/
def recallFor (s : State) (c : Nat) (e : Entry) : State :=
  let x := getCell s c
  if s.regions.isEmpty ∨ !touchesMem e.word then s
  else
    (feetOf s.free x e).foldl (fun s f =>
      if f.glob then
        f.ranges.foldl (fun s r => recallRange s (getJob s x.ctx) (if isAtomic e.word then .atom else if f.write then .wr else .rd) r.1 r.2) s
      else s) s

/-- The oldest entry of thread t issues if it is this word and nothing holds it; `f` is the effect, on the state from which the
entry has gone. -/
def issue (s : State) (c t : Nat) (w : Word) (f : State → Entry → State) : State :=
  let x := getCell s c
  match frontOf (getIQ x (queueOf w)) t with
  | none => s
  | some e =>
    if e.word ≠ w ∨ !cellLive s c ∨ olderReady s c e then s
    else if !ready s c e then recallFor s c e
    else if !missFree x t w then waitMiss s c t
    else if isRelease w && !e.relDone && openAccess x t e.stamp then releaseFence s c t e.stamp
    else f (issued s c e) e

/-- The conditions under which `issue` performs the effect, as one test. -/
def canIssue (s : State) (c t : Nat) (w : Word) : Option Entry :=
  let x := getCell s c
  match frontOf (getIQ x (queueOf w)) t with
  | none => none
  | some e =>
    if decide (e.word = w) && cellLive s c && !olderReady s c e && ready s c e && missFree x t w &&
        !(isRelease w && !e.relDone && openAccess x t e.stamp) then some e
    else none

/-- A command of cell c, thread t. -/
def onThread (c t : Nat) (s : State) : Out := onUnit (cellOk c && threadOk t) s

end Sys2Proof.Machine
end

