-- ==== Sys2Proof/Machine/Access.lean ====
section
/-!
DEFINITION. Machine/Access.lean: what a cell's access to its own store or to global memory does (R87, R161, R203), issued accesses
and the return of their data (R63).
-/
namespace Sys2Proof.Machine

/-- A run-time fault of an entry at an address (R87, R98). -/
def faultAt (s : State) (c : Nat) (e : Entry) (glob : Bool) (addr code : Nat) : State := cellFault s c e.thread e.pc addr glob code

/-- The first of the ranges that is not aligned to n bytes (R78, R84, R110). -/
def misaligned (n : Nat) (rs : List (Nat × Nat)) : Option Nat := (rs.find? (fun r => decide (r.1 % n ≠ 0))).map (·.1)

/-- The failing address of local ranges (R87): beyond the cell store, or for a write in the program region. -/
def localBad (x : Cell) (write : Bool) (rs : List (Nat × Nat)) : Option Nat :=
  (rs.find? (fun r => !(if write then localWOk x r.1 r.2 else localOk r.1 r.2))).map (fun r => if localOk r.1 r.2 then r.1 else max r.1 0x40000)

/-! ### Which address a failing access records (R87) -/

/-- A range of an access with the alignment that it must have. -/
structure Extent where
  align : Nat
  addr : Nat
  len : Nat
  deriving DecidableEq, Repr

/-- The rows of a tile, at 64 bytes each; an element part, at 64 bytes, and its scale part, at 16 (R84, R110, R148). -/
def rowSpans (rs : List (Nat × Nat)) : List Extent := rs.map (fun r => ⟨64, r.1, r.2⟩)
def partSpans (rs : List (Nat × Nat)) : List Extent := rowSpans (rs.take 1) ++ (rs.drop 1).map (fun r => ⟨16, r.1, r.2⟩)

/-- The checks of R161 on one range; `noHost`: the host window is no place for it (R182). -/
def rangeChk (s : State) (c : Nat) (k : Acc) (noHost : Bool) (r : Nat × Nat) : Chk :=
  let x := getCell s c
  match checkAccess s (getJob s x.ctx) x.item (dieOfCell c) k [r] with
  | .ok ps =>
    match (if noHost then ps.find? (fun p => isHost p.target) else none) with
    | some p => .bad ePageFault p.va
    | none => .ok ps
  | x => x

/-- The code and address at which each range that fails does so. -/
def accessSpots (s : State) (c : Nat) (glob : Bool) (k : Acc) (noHost : Bool) (l : List Extent) : List (Nat × Nat) :=
  l.filterMap (fun r =>
    if r.addr % r.align ≠ 0 then some (ePageFault, r.addr)
    else if glob then (match rangeChk s c k noHost (r.addr, r.len) with | .bad code a => some (code, a) | _ => none)
    else (localBad (getCell s c) (decide (k = .wr)) [(r.addr, r.len)]).map (fun a => (ePageFault, a)))

/-- Of the failing ranges, the lowest-numbered row, or the lowest address of the parts of a block, is recorded; the checks come before data
is read (R87). -/
def decidingSpot (rows : Bool) (l : List (Nat × Nat)) : Option (Nat × Nat) :=
  let checks := l.filter (fun q => decide (q.1 = ePageFault))
  let l := if checks.isEmpty then l else checks
  if rows then l.head? else leastBy (·.2) l

/-- The fault of an access some of whose ranges fail; an uncorrectable error has been met. -/
def faultSpots (s : State) (c : Nat) (e : Entry) (glob : Bool) (k : Acc) (noHost : Bool) (l : List Extent) : State :=
  match decidingSpot (decide (2 < l.length)) (accessSpots s c glob k noHost l) with
  | some (code, a) =>
    let x := getCell s c
    let s := if code = eUncorrectable then meetRanges s (getJob s x.ctx) x.item (l.map (fun r => (r.addr, r.len))) else s
    faultAt s c e glob a code
  | none => s

/-- A global access of cell c passes the checks of R161 and meets the errors of the data that it reads; `f` performs it. -/
def globalAccess (s : State) (c : Nat) (e : Entry) (k : Acc) (rs : List (Nat × Nat)) (f : State → List Piece → State) : State :=
  let x := getCell s c
  let jb := getJob s x.ctx
  match checkAccess s jb x.item (dieOfCell c) k rs with
  | .bad _ _ => faultSpots s c e true k false (rs.map (fun r => ⟨1, r.1, r.2⟩))
  | .wait => s
  | .ok ps => f (touchRanges (if k = .wr then s else meetPieces s ps) (some c) x.ctx x.item (dieOfCell c) rs) ps

/-- A global access to a block, which may not lie in the host window (R182). -/
def blockAccess (s : State) (c : Nat) (e : Entry) (k : Acc) (rs : List (Nat × Nat)) (f : State → List Piece → State) : State :=
  if (accessSpots s c true k true (partSpans rs)).isEmpty then globalAccess s c e k rs f else faultSpots s c e true k true (partSpans rs)

/-- A local access; `f` performs it. -/
def localAccess (s : State) (c : Nat) (e : Entry) (write : Bool) (rs : List (Nat × Nat)) (f : Cell → Cell) : State :=
  match localBad (getCell s c) write rs with
  | some _ => faultSpots s c e false (if write then .wr else .rd) false (rs.map (fun r => ⟨1, r.1, r.2⟩))
  | none => modCell s c f

/-- Bytes of several local ranges. -/
def localReads (free : Nat) (x : Cell) (rs : List (Nat × Nat)) : List Byte := rs.flatMap (fun r => localRead free x r.1 r.2)

/-- Writes bytes to local ranges in order. -/
def localWrites : Cell → List (Nat × Nat) → List Byte → Cell
  | x, [], _ => x
  | x, r :: rest, l => localWrites (localWrite x r.1 (l.take r.2)) rest (l.drop r.2)

/-! ### Issued accesses -/

/-- An access that has issued; a thread that it switches enters MISS (R63). -/
def addFlight (x : Cell) (f : Flight) : Cell :=
  let x := { x with flights := x.flights ++ [f] }
  if f.switches then setTState x f.thread .miss else x

def newFlight (e : Entry) (kind : FKind) (dest : Option Nat) : Flight :=
  { stamp := e.stamp, thread := e.thread, pc := e.pc, word := e.word, kind := kind, dest := dest, miss := needsMiss e.word
    switches := isMissing e.word, acquire := isAcquire e.word, arrived := false, data := [], raw := [], need := 0, old := [], mask := 0, ranges := [] }

/-- The layout epoch that the cell's requests carry (R349). -/
def cellEpoch (s : State) (c : Nat) : BitVec 16 := (getJob s (getCell s c).ctx).epoch

/-- The bytes of a map at 0 to n − 1. -/
def rawBytes (m : Map Byte) (n : Nat) : List Byte := (List.range n).map (fun i => mget 0 m i)

/-- Reads n bytes of a coherent region into a map: those of lines held are placed, the others are waited for (R369). -/
def readLines (s : State) (job : Nat) (who : Nat → ReqFor) (m : Map Byte) (f n k : Nat) : State × Map Byte :=
  (lineCuts 8192 f n k).foldl (fun (r : State × Map Byte) q =>
    let x := lineAt r.1 q.1
    if x.state ≠ 0 then (r.1, localPut r.2 q.2.2 (lineBytes x q.1 q.2.1))
    else (waitLine r.1 q.1 ⟨job, who q.2.2, q.1 % 64, q.2.1, none⟩, r.2)) (s, m)

/-- Sends the RDs of the fabric pieces of an access; the bytes of other pieces, and of coherent lines held, are placed at once. Answers
the bytes known, by offset, and the bytes wanted. -/
def fetchPieces (s : State) (c : Nat) (comb : Bool) (who : Nat → ReqFor) : List Piece → Nat → Map Byte → State × Map Byte × Nat
  | [], k, m => (s, m, k)
  | p :: rest, k, m =>
    match p.target with
    | .phys a => fetchPieces s c comb who rest (k + p.len) (localPut m k (physRead s a p.len))
    | .fabric a =>
      let j := (getCell s c).ctx
      if coherentAt (getJob s j) a then
        let r := readLines s j who m a p.len k
        fetchPieces r.1 c comb who rest (k + p.len) r.2
      else
        let s := sendReads s (dieOfCell c) (cellEpoch s c) comb j who 64 a p.len k
        fetchPieces s c comb who rest (k + p.len) m

/-- A global read of a cell with its flight: the data is there at once, or comes in packets; `fin` makes the destination's bytes of
the bytes read. -/
def startRead (s : State) (c : Nat) (fl : Flight) (ps : List Piece) (fin : List Byte → List Byte) : State :=
  let fl := { fl with ranges := ps.map (fun (p : Piece) => (p.va, p.len)) }
  if hasFabric ps then
    let r := fetchPieces s c false (fun k => .cell c fl.stamp k) ps 0 []
    let here := decide (r.2.1.length = r.2.2)
    modCell r.1 c (fun x =>
      addFlight x { fl with raw := r.2.1, need := r.2.2, arrived := here, data := if here then fin (rawBytes r.2.1 r.2.2) else [] })
  else modCell s c (fun x => addFlight x { fl with arrived := true, data := fin (readPieces s ps) })

/-- Writes bytes to a coherent region: into lines in M at once, else after a CRDX. Answers how many parts wait. -/
def writeLines (s : State) (job c stamp : Nat) (f : Nat) (l : List Byte) : State × Nat :=
  (lineCuts 8192 f l.length 0).foldl (fun (r : State × Nat) q =>
    let x := lineAt r.1 q.1
    let b := (l.drop q.2.2).take q.2.1
    if x.state = 2 then (setLine r.1 q.1 { x with data := patch x.data (q.1 % 64) b }, r.2)
    else (waitLine r.1 q.1 ⟨job, .cell c stamp q.2.2, q.1 % 64, q.2.1, some b⟩, r.2 + 1)) (s, 0)

/-- Sends the WRs of the fabric pieces of an access; answers how many acknowledgements it wants. -/
def pushPieces (s : State) (c stamp : Nat) : List Piece → List Byte → Nat → State × Nat
  | [], _, n => (s, n)
  | p :: rest, l, n =>
    match p.target with
    | .phys _ => pushPieces s c stamp rest (l.drop p.len) n
    | .fabric a =>
      let j := (getCell s c).ctx
      if coherentAt (getJob s j) a then
        let r := writeLines s j c stamp a (l.take p.len)
        pushPieces r.1 c stamp rest (l.drop p.len) (n + r.2)
      else
        let s := sendWrites s (dieOfCell c) (cellEpoch s c) j (some (c, stamp)) 64 a (l.take p.len)
        pushPieces s c stamp rest (l.drop p.len) (n + packetCount 64 a p.len)

/-- A global write of a cell: performed at the target now, or sent (R287); own streams are invalidated (R203), by an acquire that is over those that it names (R204). An access that takes a
thread into MISS, or that waits for acknowledgements, has a flight. -/
def startWrite (s : State) (c : Nat) (fl : Flight) (rs : List (Nat × Nat)) (ps : List Piece) (l : List Byte) : State :=
  let s := writePieces s ps l
  let s := modCell s c (fun x => rs.foldl (fun x r => ownWrite x r.1 r.2) x)
  let r := pushPieces s c fl.stamp ps l 0
  if 0 < r.2 then modCell r.1 c (fun x => addFlight x { fl with need := r.2, ranges := rs })
  else if fl.switches then modCell r.1 c (fun x => addFlight x { fl with arrived := true, ranges := rs })
  else if fl.acquire then modCell r.1 c (fun x => acquireStreams x fl.thread fl.stamp)
  else r.1

/-- The value of a scalar load, widened to 64 bits (R78). -/
def widen (w : Word) (l : List Byte) : List Byte :=
  let n := l.length
  leBytes 8 (if wClass w = 3 ∧ wOp w = 1 then wrapTo 64 (signedOf (8 * n) (leNat l)) else leNat l)

/-- The data of an issued access returns: the destination is written, the thread leaves MISS, an acquire acts on the streams (R63,
R204). -/
def deliver (x : Cell) (f : Flight) : Cell :=
  let x := { x with flights := x.flights.filter (fun g => decide (g.stamp ≠ f.stamp)) }
  let x := writeDest x f.dest f.data
  let x := if f.acquire then acquireStreams x f.thread f.stamp else x
  if f.switches ∧ tstateOf x f.thread = .miss then setTState x f.thread .ready else x

def execGlobalLoadReturn (c stamp : Nat) (s : State) : Out :=
  onUnit (cellOk c)
    (match (getCell s c).flights.find? (fun f => decide (f.stamp = stamp)) with
     | none => s
     | some f =>
       if !cellLive s c ∨ !f.arrived ∨ f.kind = .opA ∨ f.kind = .opB then s else modCell s c (fun x => deliver x f))

end Sys2Proof.Machine
end

