-- ==== Sys2Proof/Machine/Control.lean ====
section
/-!
DEFINITION. Machine/Control.lean: the CTL instructions (R60, R62, R75), instruction fetch (R66, R67), the miss-register grant (R63)
and the end of a fence (R89).
-/
namespace Sys2Proof.Machine

/-- The thread's next fetch is at word n; past the last word it is a fault when it is made (R87). -/
def gotoPc (x : Cell) (t n : Nat) : Cell :=
  { setPc x t n with pastEnd := if x.progWords ≤ n then t :: x.pastEnd.filter (· ≠ t) else x.pastEnd.filter (· ≠ t) }

/-- PC + OFF for a word at `pc`. -/
def pcPlus (pc : Nat) (off : BitVec 32) : Nat := wrapTo 13 ((pc : Int) + off.toInt)

def issueB (s : State) (c t op : Nat) (f : BFields) (g : State → Entry → State) : State := issue s c t (encB 0 op f) g

/-- A jump to word n. -/
def jump (s : State) (c t n : Nat) : State := modCell s c (fun x => gotoPc x t n)

/-- An indirect jump to a[12:0] of the word at `pc`, after which `g` acts; outside the program region it faults (R87). -/
def jumpTo (s : State) (c t pc : Nat) (a : Word) (g : State → State) : State :=
  let n := a.toNat % 8192
  if (getCell s c).progWords ≤ n then cellFault s c t pc (8 * n) false ePageFault else jump (g s) c t n

/-- sD of thread t gets v. -/
def putS (s : State) (c t d : Nat) (v : Word) : State := modCell s c (fun x => setS x t d v)

def execKNop (c t : Nat) (f : BFields) (s : State) : Out := onThread c t (issueB s c t 0x00 f (fun s' _ => s'))

def execKJmp (c t : Nat) (f : BFields) (s : State) : Out :=
  onThread c t (issueB s c t 0x01 f (fun s' e => jump s' c t (pcPlus e.pc f.off)))

def execKJal (c t : Nat) (f : BFields) (s : State) : Out :=
  onThread c t (issueB s c t 0x02 f (fun s' e =>
    jump (putS s' c t f.d.toNat (BitVec.ofNat 64 (e.pc + 1))) c t (pcPlus e.pc f.off)))

def execKJr (c t : Nat) (f : BFields) (s : State) : Out :=
  onThread c t (issueB s c t 0x03 f (fun s' e =>
    jumpTo s' c t e.pc (sReg s.free (getCell s' c) t f.a.toNat) (fun u => u)))

def execKJalr (c t : Nat) (f : BFields) (s : State) : Out :=
  onThread c t (issueB s c t 0x04 f (fun s' e =>
    jumpTo s' c t e.pc (sReg s.free (getCell s' c) t f.a.toNat) (fun u => putS u c t f.d.toNat (BitVec.ofNat 64 (e.pc + 1)))))

/-- A branch: PC + OFF when sA compares with sB; the fetch has left PC at the next word. -/
def branch (s : State) (c t op : Nat) (f : BFields) (cmp : Word → Word → Bool) : State :=
  issueB s c t op f (fun s' e =>
    let x := getCell s' c
    if cmp (sReg s.free x t f.a.toNat) (sReg s.free x t f.b.toNat) then jump s' c t (pcPlus e.pc f.off) else s')

def execKBeq (c t : Nat) (f : BFields) (s : State) : Out := onThread c t (branch s c t 0x08 f (fun a b => a == b))
def execKBne (c t : Nat) (f : BFields) (s : State) : Out := onThread c t (branch s c t 0x09 f (fun a b => a != b))
def execKBlt (c t : Nat) (f : BFields) (s : State) : Out := onThread c t (branch s c t 0x0A f (fun a b => a.slt b))
def execKBge (c t : Nat) (f : BFields) (s : State) : Out := onThread c t (branch s c t 0x0B f (fun a b => !a.slt b))
def execKBltu (c t : Nat) (f : BFields) (s : State) : Out := onThread c t (branch s c t 0x0C f (fun a b => a.ult b))
def execKBgeu (c t : Nat) (f : BFields) (s : State) : Out := onThread c t (branch s c t 0x0D f (fun a b => !a.ult b))

/-- Scalar registers of thread u other than s0 and s1 become unpredictable (R60). -/
def forgetRegs (x : Cell) (u : Nat) : Cell :=
  { x with written := x.written.filter (fun e => !decide (32 * u ≤ e.1 ∧ e.1 < 32 * u + 32)) }

/-- Starts thread u at word n with s1 and STREAMID from its spawner (R60). -/
def spawn (x : Cell) (u n : Nat) (arg : Word) (stream : BitVec 32) : Cell :=
  setTState (gotoPc (setStream (setS (forgetRegs x u) u 1 arg) u stream) u n) u .ready

def execKTspawn (c t : Nat) (f : BFields) (s : State) : Out :=
  onThread c t (issueB s c t 0x10 f (fun s' e =>
    modCell s' c (fun x =>
      let u := (sReg s.free x t f.a.toNat).toNat % 8
      if u = 0 then setS x t f.d.toNat (statusWord eArgRange)
      else if tstateOf x u ≠ .idle ∧ tstateOf x u ≠ .halted then setS x t f.d.toNat (statusWord eBadState)
      else setS (spawn x u (pcPlus e.pc f.off) (sReg s.free x t f.b.toNat) (streamOf x t)) t f.d.toNat 0)))

def execKTjoin (c t : Nat) (f : BFields) (s : State) : Out :=
  onThread c t (issueB s c t 0x11 f (fun s' _ =>
    modCell s' c (fun x =>
      let u := (sReg s.free x t f.a.toNat).toNat % 8
      if u = t ∨ tstateOf x u = .idle ∨ tstateOf x u = .halted then x
      else setWaits (setTState x t .sync) t (.join u))))

def execKYield (c t : Nat) (f : BFields) (s : State) : Out :=
  onThread c t (issueB s c t 0x12 f (fun s' _ => modCell s' c (fun x => { x with skip := t :: x.skip.filter (· ≠ t) })))

/-- Thread t halts; the threads that join it become READY (R62). -/
def haltThread (x : Cell) (t : Nat) : Cell :=
  (List.range 8).foldl (fun x u =>
    if waitsOf x u = .join t then setWaits (setTState x u .ready) u .none else x) (setTState x t .halted)

/-- PUBLISH by thread 0 puts it in DRAIN until the cell reports (R81). -/
def startPublish (x : Cell) : Cell := setWaits (setTState x 0 .drain) 0 .publish

def execKHalt (c t : Nat) (f : BFields) (s : State) : Out :=
  onThread c t (issueB s c t 0x13 f (fun s' _ => modCell s' c (fun x => if t = 0 then startPublish x else haltThread x t)))

/-- A special register of cell c for thread t (the table of "Special registers"); CYCLES is a free value, since cycles are not
modelled (log 2). -/
def specialReg (s : State) (c t n : Nat) : Word :=
  let x := getCell s c
  match n with
  | 0 => BitVec.ofNat 64 c
  | 1 => BitVec.ofNat 64 t
  | 2 => BitVec.ofNat 64 (x.rank + 65536 * x.bedW + 16777216 * x.bedH)
  | 3 => x.step.setWidth 64
  | 4 => x.itemWord &&& 0xFFFFFFFFF#64
  | 5 => BitVec.ofNat 64 s.ember
  | 7 => BitVec.ofNat 64 x.ctx
  | _ => Config.freeWord s.free n

def execKRdsr (c t : Nat) (f : BFields) (s : State) : Out :=
  onThread c t (issueB s c t 0x14 f (fun s' _ => putS s' c t f.d.toNat (specialReg s c t f.off.toNat)))

def execKSpark (c t : Nat) (f : BFields) (s : State) : Out :=
  onThread c t (issueB s c t 0x15 f (fun s' _ =>
    modCell s' c (fun x => setStream x t ((sReg s.free x t f.a.toNat).setWidth 32))))

/-! ### Fetch -/

/-- The front end may select thread t (R66): READY, and neither a control transfer of it nor an instruction that can switch it waits in
the control queue (log 19). -/
def canFetch (x : Cell) (t : Nat) : Bool :=
  decide (tstateOf x t = .ready) &&
    !x.ctl.any (fun e => decide (e.thread = t) && (isTransfer e.word || canSwitch e.word))

/-- Round robin from `p`: the first of n threads that may be fetched; a thread that has yielded is passed over once (R75). -/
def pickThread (x : Cell) : Nat → Nat → Option Nat × Cell
  | 0, _ => (none, x)
  | n + 1, p =>
    let t := p % 8
    if !canFetch x t then pickThread x n (p + 1)
    else if x.skip.contains t then pickThread { x with skip := x.skip.filter (· ≠ t) } n (p + 1)
    else (some t, x)

/-- Fetches up to n consecutive words of thread t in one bundle (R66, R67). -/
def fetchWords (x : Cell) (t : Nat) : Nat → Cell
  | 0 =>
    let w := x.prog.getD (pcOf x t) 0
    if !x.pastEnd.contains t && decide (queueDepth (queueOf w) ≤ (getIQ x (queueOf w)).length) then setTState x t .qfull else x
  | n + 1 =>
    if x.pastEnd.contains t then x
    else
      let pc := pcOf x t
      let w := x.prog.getD pc 0
      let q := queueOf w
      if queueDepth q ≤ (getIQ x q).length then setTState x t .qfull
      else
        let e : Entry := { stamp := x.nextStamp, thread := t, pc := pc, word := w, claims := none, opA := none, opB := none, relDone := false }
        let x := gotoPc { setIQ x q (getIQ x q ++ [e]) with nextStamp := x.nextStamp + 1 } t (pc + 1)
        if isTransfer w || canSwitch w then x else fetchWords x t n

def execInstructionFetch (c : Nat) (s : State) : Out :=
  onUnit (cellOk c)
    (if !cellLive s c then s
     else
       let x := getCell s c
       match pickThread x 8 x.fetchPtr with
       | (none, x) => setCell s c x
       | (some t, x) =>
         let x := { x with fetchPtr := (t + 1) % 8 }
         if x.pastEnd.contains t then cellFault (setCell s c x) c t (x.progWords - 1) (8 * x.progWords) false ePageFault
         else setCell s c (assignClaims (fetchWords x t 4)))

/-! ### Miss registers and fences -/

/-- The waiters that are left; MISSWAIT has counted the cycles with a thread in MISSFULL: how many turns on timing, at least one in all
once none is left (R97, log 49). -/
def endMissWait (free : Nat) (x : Cell) (rest : List Nat) : Cell :=
  let y := { x with missWaiters := rest }
  if !inMissfull x then y
  else { y with missWait := (x.missWait + b2n (!inMissfull y) + (Config.freeWord free 9600).toNat) % 2 ^ 64 }

/-- A miss register is free and the thread that has waited longest takes it (R63). -/
def execMissRegisterGrant (c : Nat) (s : State) : Out :=
  onUnit (cellOk c)
    (let x := getCell s c
     match x.missWaiters with
     | [] => s
     | t :: rest =>
       if !cellLive s c ∨ 48 ≤ missUsed x then s
       else
         let x := { endMissWait s.free x rest with missGranted := x.missGranted ++ [t] }
         setCell (draw s) c (if tstateOf x t = .missfull then setTState x t .ready else x))

/-- Every global access that the fence of thread t waits for has been performed at its target (R89, R287). -/
def fenceOver (x : Cell) (t : Nat) : Bool :=
  match waitsOf x t with
  | .fence false st => !openAccess x t st
  | .fence true st => (List.range 8).all (fun u => !openAccess x u st)
  | _ => false

def execFenceComplete (c t : Nat) (s : State) : Out :=
  onThread c t
    (let x := getCell s c
     if !cellLive s c ∨ !fenceOver x t then s
     else
       match waitsOf x t with
       | .fence _ st =>
         let x := { x with ctl := x.ctl.map (fun e => if e.stamp = st then { e with relDone := true } else e) }
         setCell s c (setWaits (setTState x t .ready) t .none)
       | _ => s)

end Sys2Proof.Machine
end

