-- ==== Sys2Proof/Machine/Icehouse.lean ====
section
/-!
DEFINITION. Machine/Icehouse.lean: the Icehouse mover (R257), recompute markers (R259), the frame of a stash allocation and the deadlock
on frames (R261, R262).
-/
namespace Sys2Proof.Machine

/-! ### Entries -/

def modIce (s : State) (j d : Nat) (f : Ice → Ice) : State := modJob s j (fun jb => setIce jb d (f (getIce jb d)))

/-- Entries of a die that may be spilled or dropped: none that an item has pinned (R256). -/
def unpinned (i : Ice) : List StashEntry := i.entries.filter (fun e => e.pins.isEmpty)

def putEntryState (i : Ice) (seq : Nat) (f : StashEntry → StashEntry) : Ice :=
  { i with entries := i.entries.map (fun e => if e.seq = seq then f e else e) }

/-- The bottom INSTORE entry, committed and not pinned (R257, R261). -/
def spillVictim (jb : Job) (d : Nat) : Option StashEntry :=
  bottomOf jb.image.policy ((unpinned (getIce jb d)).filter (fun e => decide (e.state = .instore)))

/-- The frames of an entry that a spill moves: those in the store portion. -/
def storePagesOf (i : Ice) (e : StashEntry) : List Nat := e.pages.filter (fun a => i.storeFrames.contains (a / 65536))
def spillPagesOf (i : Ice) (e : StashEntry) : List Nat := e.pages.filter (fun a => i.spillFrames.contains (a / 65536))

/-- A spill starts (R257): every page of the entry that lies in the store is to move to a spill frame. -/
def startSpill (s : State) (j d : Nat) (e : StashEntry) : State :=
  let jb := getJob s j
  let to' := freeSpillFrames jb d
  modIce s j d (fun i =>
    { putEntryState i e.seq (fun f => { f with state := if (storePagesOf i e).isEmpty then .spilled else .spilling }) with
      moves := i.moves ++ (storePagesOf i e).zip (to'.map (· * 65536)) })

/-- A refill starts. -/
def startRefill (s : State) (j d : Nat) (e : StashEntry) : State :=
  let jb := getJob s j
  let to' := freeStoreFrames jb d
  modIce s j d (fun i =>
    { putEntryState i e.seq (fun f => { f with state := if (spillPagesOf i e).isEmpty then .instore else .refilling }) with
      moves := i.moves ++ (spillPagesOf i e).zip (to'.map (· * 65536)) })

/-- The store portion is short of free frames, so the mover spills (R257). -/
def mustSpill (jb : Job) (d : Nat) : Bool := decide ((freeStoreFrames jb d).length < (getIce jb d).store / 8)

/-- The jobs other than j whose moves the mover of die d runs or has to run. -/
def moverJobs (s : State) (d : Nat) : List Nat :=
  (List.range 8).filter (fun k => (getJob s k).loaded && !(getIce (getJob s k) d).moves.isEmpty)

/-- The mover of die d is free for job j: it takes the moves of one job at a time, the lowest-numbered first (R257 gives one mover to a die and
no order among jobs: DESIGN CHOICE, log 111). -/
def moverFree (s : State) (j d : Nat) : Bool := (moverJobs s d).all (fun k => decide (k = j))

/-- A job of the die needs to spill, so its mover refills nothing (R257). -/
def spillNeeded (s : State) (d : Nat) : Bool := (List.range 8).any (fun k => (getJob s k).loaded && mustSpill (getJob s k) d)

/-- A spill that may start now. -/
def spillReady (jb : Job) (d : Nat) : Option StashEntry :=
  match spillVictim jb d with
  | none => none
  | some e =>
    if mustSpill jb d ∧ (storePagesOf (getIce jb d) e).length ≤ (freeSpillFrames jb d).length ∧ (getIce jb d).moves.length < 8 then some e
    else none

/-- A refill that may start now. -/
def refillReady (jb : Job) (d : Nat) : Option StashEntry :=
  let i := getIce jb d
  match topOf jb.image.policy (i.entries.filter (fun e => decide (e.state = .spilled))) with
  | none => none
  | some e =>
    if !mustSpill jb d ∧ (spillPagesOf i e).length + i.store / 4 ≤ (freeStoreFrames jb d).length ∧ i.moves.length < 8 then some e else none

/-- The job runs and store die d answers. -/
def jobLive (s : State) (j : Nat) : Bool := (getJob s j).loaded && !(getJob s j).faulted && running s

/-- A store frame of job j's Icehouse on die d is freed: allocations that wait for one go on (R261). -/
def storeFreed (s : State) (j d : Nat) : State :=
  { s with cells := s.cells.map (fun c =>
      if c.2.ctx = j ∧ dieOfCell c.1 = d then (c.1, { c.2 with allocs := c.2.allocs.map (fun a => { a with forStore := false }) }) else c) }

/-- Frames of entries that are freed are zeroed and free again (R256, R504). -/
def freePages (s : State) (j d : Nat) (l : List Nat) : State :=
  let s := l.foldl (fun s a => { s with mem := memZero s.mem a 65536 }) s
  if l.any (fun a => decide (a < storeEnd)) then storeFreed s j d else s

/-- The BWD item that read an entry has committed and its invalidation is complete: the frames are freed when no move of it runs (R256,
R268). -/
def backwardDone (jb : Job) (e : StashEntry) : Bool :=
  jb.items.any (fun i =>
    entryOf i.2 e && decide (i.2.phase = 1 ∧ i.2.state = .done))

def moving (e : StashEntry) : Bool := decide (e.state = .spilling ∨ e.state = .refilling)

/-- Entries that a committed BWD item has read, and that no move holds, leave the Icehouse of die d. -/
def sweepEntries (s : State) (j d : Nat) : State :=
  let jb := getJob s j
  let gone := (getIce jb d).entries.filter (fun e => backwardDone jb e && !moving e)
  let s := freePages s j d (gone.flatMap (·.pages))
  modIce s j d (fun i => { i with entries := i.entries.filter (fun e => !(backwardDone jb e && !moving e)) })

/-- An entry is dropped (R259): it becomes a marker, its frames are freed, its moves end with nothing to move, an RCP item is owed. -/
def dropEntry (s : State) (j d : Nat) (e : StashEntry) : State :=
  let s := freePages s j d e.pages
  let s := modIce s j d (fun i =>
    { putEntryState i e.seq (fun f => { f with state := .dropped, pages := [], pageNos := [] }) with
      drops := wrap32 (i.drops + 1), moves := i.moves.filter (fun m => !e.pages.contains m.1) })
  oweRcp s j e

/-! ### Deadlock on frames (R261) -/

/-- An item waits in the stash procedure: an allocation of one of its cells does. -/
def itemWaits (s : State) (i : Nat) (j : Nat) : Bool :=
  s.cells.any (fun c => decide (c.2.ctx = j ∧ c.2.item = some i) && c.2.allocs.any (·.waiting))

/-- The condition of R261: every running item waits, no move runs, no BWD item is ready. -/
def stuckNow (s : State) (j : Nat) : Bool :=
  let jb := getJob s j
  let run := jb.items.filter (fun e => decide (e.2.state = .running))
  !run.isEmpty && run.all (fun e => itemWaits s e.1 j) && (List.range 4).all (fun d => (getIce jb d).moves.isEmpty) &&
    !jb.items.any (fun e => decide (e.2.phase = 1) && itemReady s jb e.2)

/-- The tick from which the condition has held without a break. -/
def noteStuck (s : State) (j : Nat) : State :=
  let now := stuckNow s j
  modJob s j (fun jb => { jb with stuckSince := if now then jb.stuckSince.or (some s.ember) else none })

/-! ### The frame of a stash allocation (R261) -/

/-- What one turn of the procedure gives: a frame, or the wait, which after the start of a spill is for a store frame. -/
inductive StashAns where
  | frame (f : Nat)
  | wait (forStore : Bool)
  deriving DecidableEq, Repr

def stashFrame (phase j d : Nat) : Nat → State → State × StashAns
  | 0, s => (s, .wait false)
  | fuel + 1, s =>
    let jb := getJob s j
    match freeStoreFrames jb d with
    | f :: _ => (s, .frame f)
    | [] =>
      let spill := freeSpillFrames jb d
      match (spillVictim jb d).filter (fun e => decide (e.pages.length ≤ spill.length)) with
      | some e =>
        if (storePagesOf (getIce jb d) e).isEmpty then stashFrame phase j d fuel (startSpill s j d e) else (startSpill s j d e, .wait true)
      | none =>
        match spill with
        | f :: _ => (s, .frame f)
        | [] =>
          match (if phase = 0 then
              bottomOf jb.image.policy ((unpinned (getIce jb d)).filter (fun e => e.recomp && decide (e.state ≠ .dropped)))
            else none) with
          | some e => stashFrame phase j d fuel (dropEntry s j d e)
          | none => (s, .wait false)

/-! ### Commands of the mover -/

def execIcehouseSpillStart (d j : Nat) (s : State) : Out :=
  onUnit (storeOk d && jobOk j)
    (match spillReady (getJob s j) d with
     | some e => if jobLive s j ∧ stackUp s d ∧ moverFree s j d then noteStuck (startSpill s j d e) j else s
     | none => s)

def execIcehouseRefillStart (d j : Nat) (s : State) : Out :=
  onUnit (storeOk d && jobOk j)
    (match refillReady (getJob s j) d with
     | some e => if jobLive s j ∧ stackUp s d ∧ moverFree s j d ∧ !spillNeeded s d then noteStuck (startRefill s j d e) j else s
     | none => s)

/-- The virtual page of an entry's page that lies at an address: its number within the stash slot. -/
def movedVpns (jb : Job) (d a : Nat) : List Nat :=
  (getIce jb d).entries.flatMap (fun e =>
    match (stageOf jb e.stage).bind (fun st => st.slots[e.slot]?) with
    | some sl => ((e.pageNos.zip e.pages).filter (fun q => decide (q.2 = a))).map (fun q => sl.va / 65536 + q.1)
    | none => [])

/-- Frame move of `fromA` to `toA` ends: the page is copied, the translation rewritten, the source freed; the last move of an entry
advances its state (R251, R257). -/
def endMove (s : State) (j d fromA toA : Nat) : State :=
  let s := { s with mem := memWrite s.mem toA (memRead s.mem fromA 65536) }
  let s := { s with mem := memZero s.mem fromA 65536 }
  let s := invalidate s j d (movedVpns (getJob s j) d fromA)
  let s := if fromA < storeEnd then storeFreed s j d else s
  modIce s j d (fun i =>
    let moves := i.moves.filter (fun m => decide (m.1 ≠ fromA))
    let spills := i.entries.any (fun e => e.pages.contains fromA && decide (e.state = .spilling))
    { i with
      moves := moves
      spills := if spills then wrap32 (i.spills + 1) else i.spills
      refills := if spills then i.refills else wrap32 (i.refills + 1)
      entries := i.entries.map (fun e =>
        if e.pages.contains fromA then
          let e := { e with pages := e.pages.map (fun a => if a = fromA then toA else a) }
          if e.pages.any (fun a => moves.any (fun m => decide (m.1 = a))) then e
          else { e with state := if e.state = .spilling then .spilled else .instore }
        else e) })

def execIcehouseMoveDone (d j : Nat) (s : State) : Out :=
  onUnit (storeOk d && jobOk j)
    (match (getIce (getJob s j) d).moves with
     | (a, b) :: _ =>
       if jobLive s j ∧ stackUp s d ∧ (moverJobs s d).head? = some j then noteStuck (sweepEntries (endMove s j d a b) j d) j else s
     | [] => s)

/-- The cells whose allocations wait. -/
def waitingCells (s : State) (j : Nat) : List Nat :=
  (s.cells.filter (fun c => decide (c.2.ctx = j) && c.2.allocs.any (·.waiting))).map (·.1)

/-- After 2,500,000 ticks the job faults; CELL[c].FAULT of a waiting cell records it (R261, R262). The Icehouse is emptied. -/
def exhausted (s : State) (j : Nat) : State :=
  let s := match waitingCells s j with
    | c :: _ =>
      (match (getCell s c).allocs.find? (·.waiting) with
       | some a => cellFault s c a.thread a.pc 0 true eIcehouseExhausted
       | none => s)
    | [] => s
  let s := (List.range 4).foldl (fun s d => freePages s j d ((getIce (getJob s j) d).entries.flatMap (·.pages))) s
  modJob s j (fun jb => { jb with ices := jb.ices.map (fun e => (e.1, { e.2 with entries := [], moves := [] })) })

def execIcehouseDeadlockTimeout (j : Nat) (s : State) : Out :=
  onUnit (jobOk j)
    (let s := if jobLive s j then noteStuck s j else s
     match (getJob s j).stuckSince with
     | some t => if jobLive s j then exhausted (advanceTo s (t + 2500000)) j else s
     | none => s)

end Sys2Proof.Machine
end

