-- ==== Sys2Proof/Machine/Sfu.lean ====
section
/-!
DEFINITION. Machine/Sfu.lean: the special functions of R139. The result is a free value (Config.sfu) held within the error
bound of R139 around the exact result, which rational intervals enclose; exact points and special inputs are forced.
-/
namespace Sys2Proof.Machine

/-- Fraction bits of the fixed-point numbers used here. -/
def fxP : Nat := 192

/-- floor(ln 2 × 2^192). -/
def fxLn2 : Nat := 0xb17217f7d1cf79abc9e3b39803f2f6af40f343267298b62d

/-- The error bound, in units of 2^−192, of every fixed-point result here. -/
def fxErr : Nat := 16384

/-- The Taylor sum of e^r for r in [0, ln 2), from term k on. -/
def expTerms : Nat → Nat → Nat → Nat → Nat
  | 0, _, _, _ => 0
  | fuel + 1, k, term, r => term + expTerms fuel (k + 1) (term * r / 2 ^ fxP / (k + 1)) r

/-- m × 2^e in units of 2^−192, rounded down. -/
def toFx (m : Nat) (e : Int) : Nat :=
  if 0 ≤ e + (fxP : Int) then m * 2 ^ (e + (fxP : Int)).toNat else m / 2 ^ (-(e + (fxP : Int))).toNat

/-- e^x for |x| < 1,024: lower end, upper end (units of 2^−192) and a power of two. -/
def expFx (neg : Bool) (m : Nat) (e : Int) : Nat × Nat × Int :=
  let x : Int := if neg then -(toFx m e : Int) else (toFx m e : Int)
  let n := x / (fxLn2 : Int)
  let r := (x - n * (fxLn2 : Int)).toNat
  let t := expTerms 64 0 (2 ^ fxP) r
  (t - fxErr, t + fxErr, n)

/-- The atanh sum of z^(2i+1) / (2i+1). -/
def atanhTerms : Nat → Nat → Nat → Nat → Nat
  | 0, _, _, _ => 0
  | fuel + 1, k, p, z2 => p / (2 * k + 1) + atanhTerms fuel (k + 1) (p * z2 / 2 ^ fxP) z2

/-- ln(m × 2^e) in units of 2^−192, within fxErr. -/
def lnFx (m : Nat) (e : Int) : Int :=
  let k := Nat.log2 m
  let f := m * 2 ^ fxP / 2 ^ k
  let z := (f - 2 ^ fxP) * 2 ^ fxP / (f + 2 ^ fxP)
  2 * (atanhTerms 80 0 z (z * z / 2 ^ fxP) : Int) + ((k : Int) + e) * (fxLn2 : Int)

/-- A positive magnitude between two rationals n / d × 2^e. -/
structure Span where
  ln : Nat
  ld : Nat
  le : Int
  hn : Nat
  hd : Nat
  he : Int
  deriving DecidableEq, Repr

/-- n / d × 2^e less k × 2^u, not below 0. -/
def quoLess (n d : Nat) (e : Int) (k : Nat) (u : Int) : Nat × Nat × Int :=
  if u ≤ e then (n * 2 ^ (e - u).toNat - k * d, d, u) else (n - k * d * 2 ^ (u - e).toNat, d, e)

def quoMore (n d : Nat) (e : Int) (k : Nat) (u : Int) : Nat × Nat × Int :=
  if u ≤ e then (n * 2 ^ (e - u).toNat + k * d, d, u) else (n + k * d * 2 ^ (u - e).toNat, d, e)

/-- The candidate held within k ulp of the span, or with no candidate the nearest code; `top` bounds the code from above. -/
def withinUlp (f : FFmt) (k : Nat) (sp : Span) (top : Nat) (cand : Option Nat) : Nat :=
  let ex := if sp.hn = 0 then f.uemin else quoLog2 sp.hn sp.hd + sp.he
  let u := max (ex - f.mbits) f.uemin
  let l := quoLess sp.ln sp.ld sp.le k u
  let h := quoMore sp.hn sp.hd sp.he k u
  let lo := roundCode f (.sr (2 ^ 32 - 1)) l.1 l.2.1 l.2.2
  let hi := min top (roundCode f .rz h.1 h.2.1 h.2.2)
  match cand with
  | some c => if lo ≤ c ∧ c ≤ hi then c else max lo (min hi (roundCode f .rne sp.ln sp.ld sp.le))
  | none => max lo (min hi (roundCode f .rne sp.ln sp.ld sp.le))

/-- The six functions (R139). -/
inductive SfuFn where
  | exp | log | rcp | rsqrt | tanh | sigm
  deriving DecidableEq, Repr

def SfuFn.index : SfuFn → Nat
  | .exp => 0
  | .log => 1
  | .rcp => 2
  | .rsqrt => 3
  | .tanh => 4
  | .sigm => 5

/-- The error bound in ulp (R139). -/
def sfuUlp (fn : SfuFn) (f : FFmt) : Nat :=
  if f.mbits ≠ 23 then 1
  else
    match fn with
    | .exp | .log | .rsqrt => 2
    | .rcp => 1
    | .tanh | .sigm => 3

/-- e^−|x| as n / d: lower and upper rational ends. -/
def expNegSpan (m : Nat) (e : Int) : (Nat × Nat) × Nat :=
  if 1024 ≤ toFx m e / 2 ^ fxP then ((0, 1), 2 ^ 1400)
  else
    let r := expFx true m e
    ((r.1, r.2.1), 2 ^ ((fxP : Int) - r.2.2).toNat)

/-- The code of a special function of the input code v in format f: the candidate within the bound of R139, exact points and special inputs as
they are; with no candidate, the result nearest the exact one. -/
def sfuWith (cand : Option Nat) (fn : SfuFn) (f : FFmt) (v : Nat) : Nat :=
  let nan := f.nanCode.getD 0
  let inf := f.infCode.getD f.maxCode
  let one := roundCode f .rne 1 1 0
  let k := sfuUlp fn f
  match fn, decodeF f v with
  | _, .nan => nan
  | .exp, .inf n => if n then 0 else inf
  | .exp, .fin n m e =>
    if m = 0 then one
    else if 1024 ≤ toFx m e / 2 ^ fxP then (if n then withinUlp f k ⟨0, 1, 0, 1, 1, -1400⟩ f.maxCode cand else inf)
    else
      let r := expFx n m e
      let x := r.2.2 - (fxP : Int)
      if f.maxCode < roundCode f .rne r.1 1 x then inf
      else withinUlp f k ⟨r.1, 1, x, r.2.1, 1, x⟩ inf cand
  | .log, .inf n => if n then nan else inf
  | .log, .fin n m e =>
    if m = 0 then signed f true inf
    else if n then nan
    else
      let l := lnFx m e
      if fvEq (.fin n m e) (.fin false 1 0) then 0
      else
        let a := l.natAbs
        signed f (decide (l < 0)) (withinUlp f k ⟨a - fxErr, 1, -(fxP : Int), a + fxErr, 1, -(fxP : Int)⟩ f.maxCode cand)
  | .rcp, .inf n => signed f n 0
  | .rcp, .fin n m e =>
    if m = 0 then signed f n inf
    else
      let c := roundCode f .rne 1 m (-e)
      if f.maxCode < c then signed f n inf
      else if c = roundCode f .rz 1 m (-e) ∧ c = roundCode f (.sr (2 ^ 32 - 1)) 1 m (-e) ∧ m = 2 ^ Nat.log2 m then signed f n c
      else signed f n (withinUlp f k ⟨1, m, -e, 1, m, -e⟩ inf cand)
  | .rsqrt, .inf n => if n then nan else 0
  | .rsqrt, .fin n m e =>
    if m = 0 then signed f n inf
    else if n then nan
    else
      let q : Int := if e % 2 = 0 then 256 else 257
      let r := isqrt (m * 2 ^ q.toNat)
      let h := (q - e) / 2
      if m = 2 ^ Nat.log2 m ∧ ((Nat.log2 m : Int) + e) % 2 = 0 then roundCode f .rne 1 1 (-(((Nat.log2 m : Int) + e) / 2))
      else withinUlp f k ⟨1, r + 1, h, 1, r, h⟩ f.maxCode cand
  | .tanh, .inf n => signed f n one
  | .tanh, .fin n m e =>
    if m = 0 then signed f n 0
    else if toFx m e < 2 ^ (fxP - 20) then
      let d := 3 * m * m * m
      let z : Int := 3 * e
      signed f n (withinUlp f k
        (if z ≤ e then ⟨3 * (m * 2 ^ (e - z).toNat) - d / 3, 3, z, m, 1, e⟩ else ⟨0, 1, 0, m, 1, e⟩) one cand)
    else
      let s := expNegSpan (2 * m) e
      signed f n (withinUlp f k ⟨s.2 - s.1.2, s.2 + s.1.2, 0, s.2 - s.1.1, s.2 + s.1.1, 0⟩ one cand)
  | .sigm, .inf n => if n then 0 else one
  | .sigm, .fin n m e =>
    if m = 0 then roundCode f .rne 1 2 0
    else
      let s := expNegSpan m e
      if n then withinUlp f k ⟨s.1.1, s.2 + s.1.1, 0, s.1.2, s.2 + s.1.2, 0⟩ one cand
      else withinUlp f k ⟨s.2, s.2 + s.1.2, 0, s.2, s.2 + s.1.1, 0⟩ one cand

/-- The functions that are non-decreasing in x (R139). -/
def SfuFn.rising : SfuFn → Bool
  | .exp | .log | .tanh | .sigm => true
  | .rcp | .rsqrt => false

/-- A code's place in the order of the values of its format; −0 and +0 have one place. -/
def codeOrder (f : FFmt) (v : Nat) : Int :=
  let m : Int := (v % 2 ^ (f.width - 1) : Nat)
  if bitAt v (f.width - 1) then -m else m

def codeNan (f : FFmt) (v : Nat) : Bool := (decodeF f v).isNan

/-- A function on codes that never falls as its argument rises, NaN aside. -/
abbrev neverFalls (f : FFmt) (g : Nat → Nat) : Prop :=
  ∀ a, a < 2 ^ f.width → ∀ b, b < 2 ^ f.width →
    codeNan f a = true ∨ codeNan f b = true ∨ codeNan f (g a) = true ∨ codeNan f (g b) = true ∨ codeOrder f b < codeOrder f a ∨
      codeOrder f (g a) ≤ codeOrder f (g b)

/-- The free values of the special-function unit, each held within the bound, make a function that R139 allows: one of the rising four never
falls. -/
abbrev sfuAllowed (fn : SfuFn) (f : FFmt) : Prop :=
  fn.rising = false ∨ neverFalls f (fun v => sfuWith (some (Config.sfu fn.index f.mbits v)) fn f v)

/-- The code of a special function of the input code v in format f (R139): a free value within the bound, such that VEXP, VLOG, VTANH and VSIGM
never fall; free values that would make one of them fall somewhere are no unit of a ZT9, and the nearest results stand for them (log 84). -/
def sfuCode (fn : SfuFn) (f : FFmt) (v : Nat) : Nat :=
  if sfuAllowed fn f then sfuWith (some (Config.sfu fn.index f.mbits v)) fn f v else sfuWith none fn f v

end Sys2Proof.Machine
end

