-- ==== Sys2Proof/Machine/Flags.lean ====
section
/-!
DEFINITION. Machine/Flags.lean: the views of a tile register (R129), the masks that govern its elements (R130 to R132, R148), what
compares and tests write into a mask (R142).
-/
namespace Sys2Proof.Machine

/-! ### Views (R129) -/

/-- Bits of an element of the view that a format code selects. -/
def viewBits (fmt : Nat) : Nat := if fmt = 0 then 32 else if fmt = 1 ∨ fmt = 2 then 16 else 8

/-- Elements of a row of the view. -/
def viewWidth (fmt : Nat) : Nat := 512 / viewBits fmt

/-- Elements of the view. -/
def viewCount (fmt : Nat) : Nat := 16 * viewWidth fmt

/-- The floating-point format of the view. -/
def viewFmt (fmt : Nat) : FFmt := if fmt = 1 then fF16 else if fmt = 2 then fBF16 else fF32

/-- The elements of a tile in row-major order. -/
def viewElems (fmt : Nat) (l : List Byte) : List Nat := (pieces (viewBits fmt / 8) (viewCount fmt) l).map leNat

/-- The bytes of elements of `w` bits each, a whole number of bytes. -/
def packElems (w : Nat) (l : List Nat) : List Byte := l.flatMap (leBytes (w / 8))

/-! ### Masks (R130 to R132) -/

/-- A mask of the first n bits of a list; the bits above are 0. -/
def maskOf (l : List Bool) : BitVec 1024 := BitVec.ofNat 1024 (l.foldr (fun b v => b2n b + 2 * v) 0)

/-- The result under a mask: active elements take it, inactive ones keep their old value, or become zero with MZ (R131). `bit` is the
mask bit of element i. -/
def underMask (m : BitVec 1024) (mz : Bool) (bit : Nat → Nat) (old new : List Nat) : List Nat :=
  (old.zip new).mapIdx (fun i e => if m.getLsbD (bit i) then e.2 else if mz then 0 else e.1)

/-- A compare or test under a mask (R142): inactive bits keep their value, or become 0 with MZ; bits outside the view become 0
(R130). -/
def maskUnder (m : BitVec 1024) (mz : Bool) (old : BitVec 1024) (new : List Bool) : BitVec 1024 :=
  maskOf (new.mapIdx (fun i b => if m.getLsbD i then b else !mz && old.getLsbD i))

/-- MFIRST (R132): the bit of element (r, k) of a view of row width w for count n and shape s. -/
def firstBit (s w n i : Nat) : Bool :=
  if s = 0 then decide (i < n) else if s = 1 then decide (i % w < n) else decide (i / w < n)

/-! ### Compares and tests (R142) -/

/-- Which order a compare asks. -/
inductive CmpOp where
  | eq | lt | le
  deriving DecidableEq, Repr

/-- A floating-point compare: false with NaN, +0 equals −0. -/
def cmpFloat (op : CmpOp) (a b : FVal) : Bool :=
  match op with
  | .eq => fvEq a b
  | .lt => fvLt a b
  | .le => fvLt a b || fvEq a b

def cmpInt (op : CmpOp) (a b : Int) : Bool :=
  match op with
  | .eq => decide (a = b)
  | .lt => decide (a < b)
  | .le => decide (a ≤ b)

/-- The compare of two elements of a view under IMM16 [1:0]: 0 floating point, 1 signed, 2 unsigned. -/
def cmpElem (op : CmpOp) (fmt mode a b : Nat) : Bool :=
  if mode = 0 then cmpFloat op (decodeF (viewFmt fmt) a) (decodeF (viewFmt fmt) b)
  else if mode = 1 then cmpInt op (signedOf (viewBits fmt) a) (signedOf (viewBits fmt) b)
  else cmpInt op (a : Int) (b : Int)

end Sys2Proof.Machine
end

