-- ==== Sys2Proof/Machine/Vector.lean ====
section
/-!
DEFINITION. Machine/Vector.lean: the VEC instructions (R83, R131 to R147).
-/
namespace Sys2Proof.Machine

/-- A VEC instruction: `g` acts on the cell, reading registers with the free number given. -/
def vecOp (s : State) (c t op : Nat) (f : VFields) (g : Nat → State → Entry → Cell → Cell) : State :=
  issue s c t (encV 8 op f) (fun u e => modCell u c (fun x => g s.free u e x))

def vMask (free : Nat) (x : Cell) (f : VFields) : BitVec 1024 := maskReg free x f.mask.toNat

def vElems (free : Nat) (x : Cell) (f : VFields) (n : Nat) : List Nat := viewElems f.fmt.toNat (tileBytes free x n)

/-- tD takes the elements `new` of the view, under the mask (R131). -/
def putTile (free : Nat) (x : Cell) (f : VFields) (new : List Nat) : Cell :=
  setTile x f.d.toNat (packElems (viewBits f.fmt.toNat) (underMask (vMask free x f) f.mz (fun i => i) (vElems free x f f.d.toNat) new))

/-- tD takes every element. -/
def putWhole (x : Cell) (f : VFields) (new : List Nat) : Cell := setTile x f.d.toNat (packElems (viewBits f.fmt.toNat) new)

/-! ### Elementwise operations -/

/-- One operand. -/
def vec1 (s : State) (c t op : Nat) (f : VFields) (g : Nat → Nat) : State :=
  vecOp s c t op f (fun free _ _ x => putTile free x f ((vElems free x f f.a.toNat).map g))

/-- Two operands. -/
def vec2 (s : State) (c t op : Nat) (f : VFields) (g : Nat → Nat → Nat) : State :=
  vecOp s c t op f (fun free _ _ x => putTile free x f (List.zipWith g (vElems free x f f.a.toNat) (vElems free x f f.b.toNat)))

/-- A floating-point result of the view, rounded once (R136). -/
def fpRes (f : VFields) (v : FVal) : Nat := arith (viewFmt f.fmt.toNat) v

def fpVal (f : VFields) (v : Nat) : FVal := decodeF (viewFmt f.fmt.toNat) v

def vecF1 (s : State) (c t op : Nat) (f : VFields) (g : FVal → FVal) : State := vec1 s c t op f (fun a => fpRes f (g (fpVal f a)))

def vecF2 (s : State) (c t op : Nat) (f : VFields) (g : FVal → FVal → FVal) : State :=
  vec2 s c t op f (fun a b => fpRes f (g (fpVal f a) (fpVal f b)))

/-- Second operand the F32 in sB [31:0], exact in every view (R136). -/
def vecFS (s : State) (c t op : Nat) (f : VFields) (g : FVal → FVal → FVal) : State :=
  vecOp s c t op f (fun free _ _ x =>
    let b := f32 ((sReg free x t f.b.toNat).setWidth 32)
    putTile free x f ((vElems free x f f.a.toNat).map (fun a => fpRes f (g (fpVal f a) b))))

def zipThree (g : Nat → Nat → Nat → Nat) : List Nat → List Nat → List Nat → List Nat
  | a :: x, b :: y, c :: z => g a b c :: zipThree g x y z
  | _, _, _ => []

def execKVadd (c t : Nat) (f : VFields) (s : State) : Out := onThread c t (vecF2 s c t 0x00 f fvAdd)
def execKVsub (c t : Nat) (f : VFields) (s : State) : Out := onThread c t (vecF2 s c t 0x01 f fvSub)
def execKVmul (c t : Nat) (f : VFields) (s : State) : Out := onThread c t (vecF2 s c t 0x02 f fvMul)

def execKVfma (c t : Nat) (f : VFields) (s : State) : Out :=
  onThread c t (vecOp s c t 0x03 f (fun free _ _ x =>
    putTile free x f
      (zipThree (fun a b k => fpRes f (fvAdd (fvMul (fpVal f a) (fpVal f b)) (fpVal f k)))
        (vElems free x f f.a.toNat) (vElems free x f f.b.toNat) (vElems free x f f.c.toNat))))

def execKVmin (c t : Nat) (f : VFields) (s : State) : Out := onThread c t (vecF2 s c t 0x04 f fvMin)
def execKVmax (c t : Nat) (f : VFields) (s : State) : Out := onThread c t (vecF2 s c t 0x05 f fvMax)
def execKVabs (c t : Nat) (f : VFields) (s : State) : Out := onThread c t (vecF1 s c t 0x06 f FVal.abs)
def execKVneg (c t : Nat) (f : VFields) (s : State) : Out := onThread c t (vecF1 s c t 0x07 f FVal.neg)

def execKVdiv (c t : Nat) (f : VFields) (s : State) : Out :=
  onThread c t (vec2 s c t 0x08 f (fun a b => arithQ (viewFmt f.fmt.toNat) .rne (fvDiv (fpVal f a) (fpVal f b))))

def execKVsqrt (c t : Nat) (f : VFields) (s : State) : Out := onThread c t (vecF1 s c t 0x09 f fvSqrt)
def execKVadds (c t : Nat) (f : VFields) (s : State) : Out := onThread c t (vecFS s c t 0x0A f fvAdd)
def execKVmuls (c t : Nat) (f : VFields) (s : State) : Out := onThread c t (vecFS s c t 0x0B f fvMul)

/-! ### Integer and logic (R138) -/

/-- An integer result held to the width: the nearest end of the signed range. -/
def satInt (w : Nat) (v : Int) : Nat := wrapTo w (max (-(2 ^ (w - 1) : Nat) : Int) (min v ((2 ^ (w - 1) - 1 : Nat) : Int)))

/-- Two integer operands of the view's width. -/
def vecI2 (s : State) (c t op : Nat) (f : VFields) (g : Nat → Nat → Nat → Nat) : State := vec2 s c t op f (g (viewBits f.fmt.toNat))

def intAdd (w a b : Nat) : Nat := (a + b) % 2 ^ w
def intAddSat (w a b : Nat) : Nat := satInt w (signedOf w a + signedOf w b)
def intSub (w a b : Nat) : Nat := wrapTo w ((a : Int) - (b : Int))
def intSubSat (w a b : Nat) : Nat := satInt w (signedOf w a - signedOf w b)
def intShl (w a b : Nat) : Nat := if w ≤ b then 0 else a * 2 ^ b % 2 ^ w
def intShr (w a b : Nat) : Nat := if w ≤ b then 0 else a / 2 ^ b
def intSra (w a b : Nat) : Nat := wrapTo w (signedOf w a / (2 ^ (min b w) : Nat))

def execKViadd (c t : Nat) (f : VFields) (s : State) : Out := onThread c t (vecI2 s c t 0x20 f intAdd)
def execKViaddSat (c t : Nat) (f : VFields) (s : State) : Out := onThread c t (vecI2 s c t 0x21 f intAddSat)
def execKVisub (c t : Nat) (f : VFields) (s : State) : Out := onThread c t (vecI2 s c t 0x22 f intSub)
def execKVisubSat (c t : Nat) (f : VFields) (s : State) : Out := onThread c t (vecI2 s c t 0x23 f intSubSat)
def execKVand (c t : Nat) (f : VFields) (s : State) : Out := onThread c t (vecI2 s c t 0x24 f (fun _ a b => a &&& b))
def execKVor (c t : Nat) (f : VFields) (s : State) : Out := onThread c t (vecI2 s c t 0x25 f (fun _ a b => a ||| b))
def execKVxor (c t : Nat) (f : VFields) (s : State) : Out := onThread c t (vecI2 s c t 0x26 f (fun _ a b => a ^^^ b))
def execKVshl (c t : Nat) (f : VFields) (s : State) : Out := onThread c t (vecI2 s c t 0x27 f intShl)
def execKVshr (c t : Nat) (f : VFields) (s : State) : Out := onThread c t (vecI2 s c t 0x28 f intShr)
def execKVsra (c t : Nat) (f : VFields) (s : State) : Out := onThread c t (vecI2 s c t 0x29 f intSra)

/-! ### Special functions (R139) -/

def vecSfu (s : State) (c t op : Nat) (f : VFields) (fn : SfuFn) : State := vec1 s c t op f (sfuCode fn (viewFmt f.fmt.toNat))

def execKVexp (c t : Nat) (f : VFields) (s : State) : Out := onThread c t (vecSfu s c t 0x30 f .exp)
def execKVlog (c t : Nat) (f : VFields) (s : State) : Out := onThread c t (vecSfu s c t 0x31 f .log)
def execKVrcp (c t : Nat) (f : VFields) (s : State) : Out := onThread c t (vecSfu s c t 0x32 f .rcp)
def execKVrsqrt (c t : Nat) (f : VFields) (s : State) : Out := onThread c t (vecSfu s c t 0x33 f .rsqrt)
def execKVtanh (c t : Nat) (f : VFields) (s : State) : Out := onThread c t (vecSfu s c t 0x34 f .tanh)
def execKVsigm (c t : Nat) (f : VFields) (s : State) : Out := onThread c t (vecSfu s c t 0x35 f .sigm)

/-! ### Derivatives from the output (R140, R141) -/

def finite (v : FVal) : Bool := !v.isNan && !v.isInf

/-- One: the constant of the formulas. -/
def fvOne : FVal := .fin false 1 0

/-- A derivative of y and dy: the value of the formula, rounded once. With a NaN or an infinity the operators of the formula follow R137 in
the order written, which tells of special operands only: what it has of finite operands stays exact (DEDUCED, log 52). -/
def vecDeriv (s : State) (c t op : Nat) (f : VFields) (g : FVal → FVal → FVal) : State := vecF2 s c t op f g

def dSigm (y dy : FVal) : FVal := fvMul (fvMul dy y) (fvSub fvOne y)
def dTanh (y dy : FVal) : FVal := fvMul dy (fvSub fvOne (fvMul y y))
def dRelu (y dy : FVal) : FVal := if y.isNan then .nan else if fvLt (.fin false 0 0) y then dy else .fin false 0 0
def dExp (y dy : FVal) : FVal := fvMul dy y
def dRcp (y dy : FVal) : FVal := (fvMul dy (fvMul y y)).neg

def execKVdsigm (c t : Nat) (f : VFields) (s : State) : Out := onThread c t (vecDeriv s c t 0x40 f dSigm)
def execKVdtanh (c t : Nat) (f : VFields) (s : State) : Out := onThread c t (vecDeriv s c t 0x41 f dTanh)
def execKVdrelu (c t : Nat) (f : VFields) (s : State) : Out := onThread c t (vecDeriv s c t 0x42 f dRelu)
def execKVdexp (c t : Nat) (f : VFields) (s : State) : Out := onThread c t (vecDeriv s c t 0x43 f dExp)

/-- dy / (2y), correctly rounded. -/
def dSqrt (f : VFields) (y dy : Nat) : Nat := arithQ (viewFmt f.fmt.toNat) .rne (fvDiv (fpVal f dy) (fvMul (.fin false 2 0) (fpVal f y)))

def execKVdsqrt (c t : Nat) (f : VFields) (s : State) : Out := onThread c t (vec2 s c t 0x44 f (dSqrt f))
def execKVdrcp (c t : Nat) (f : VFields) (s : State) : Out := onThread c t (vecDeriv s c t 0x45 f dRcp)

/-- The active elements of row r of a list in row-major order, width w. -/
def rowOf {α : Type} (w r : Nat) (l : List α) : List α := (l.drop (w * r)).take w

/-- The active ones of elements whose mask bits are given by `bit`. -/
def activeOf (m : BitVec 1024) (bit : Nat → Nat) (l : List FVal) : List FVal :=
  ((List.range l.length).zip l).filterMap (fun e => if m.getLsbD (bit e.1) then some e.2 else none)

/-- VDSOFTMAX: y_i × (dy_i − s), with s the row's sum over active elements, or from column 0 of tC (R141). -/
def softmaxGrad (f : VFields) (m : BitVec 1024) (ys dys cs : List FVal) : List Nat :=
  let w := viewWidth f.fmt.toNat
  (List.range 16).flatMap (fun r =>
    let y := rowOf w r ys
    let dy := rowOf w r dys
    let s := if f.imm.getLsbD 0 then (rowOf w r cs).headD .nan
      else fpVal f (fpRes f (fvSum (activeOf m (fun i => w * r + i) (List.zipWith fvMul y dy))))
    List.zipWith (fun a b => fpRes f (fvMul a (fvSub b s))) y dy)

def execKVdsoftmax (c t : Nat) (f : VFields) (s : State) : Out :=
  onThread c t (vecOp s c t 0x46 f (fun free _ _ x =>
    let v := fun (n : BitVec 5) => (vElems free x f n.toNat).map (fpVal f)
    putTile free x f (softmaxGrad f (vMask free x f) (v f.a) (v f.b) (v f.c))))

/-! ### Compares, tests, masks (R142, R143) -/

/-- A compare or test writes m(D [2:0]). -/
def putMask (free : Nat) (x : Cell) (f : VFields) (l : List Bool) : Cell :=
  setMask x f.d.toNat (maskUnder (vMask free x f) f.mz (maskReg free x f.d.toNat) l)

def vecCmp (s : State) (c t op : Nat) (f : VFields) (k : CmpOp) : State :=
  vecOp s c t op f (fun free _ _ x =>
    putMask free x f
      (List.zipWith (cmpElem k f.fmt.toNat (f.imm.toNat % 4)) (vElems free x f f.a.toNat) (vElems free x f f.b.toNat)))

def vecTest (s : State) (c t op : Nat) (f : VFields) (g : FVal → Bool) : State :=
  vecOp s c t op f (fun free _ _ x => putMask free x f ((vElems free x f f.a.toNat).map (fun a => g (fpVal f a))))

def execKVcmpeq (c t : Nat) (f : VFields) (s : State) : Out := onThread c t (vecCmp s c t 0x50 f .eq)
def execKVcmplt (c t : Nat) (f : VFields) (s : State) : Out := onThread c t (vecCmp s c t 0x51 f .lt)
def execKVcmple (c t : Nat) (f : VFields) (s : State) : Out := onThread c t (vecCmp s c t 0x52 f .le)
def execKVtestnan (c t : Nat) (f : VFields) (s : State) : Out := onThread c t (vecTest s c t 0x53 f FVal.isNan)
def execKVtestinf (c t : Nat) (f : VFields) (s : State) : Out := onThread c t (vecTest s c t 0x54 f FVal.isInf)
def execKVtestfin (c t : Nat) (f : VFields) (s : State) : Out := onThread c t (vecTest s c t 0x55 f finite)

/-- All 1,024 bits of mD from mA and mB (R143). -/
def maskOp (s : State) (c t op : Nat) (f : VFields) (g : BitVec 1024 → BitVec 1024 → BitVec 1024) : State :=
  vecOp s c t op f (fun free _ _ x => setMask x f.d.toNat (g (maskReg free x f.a.toNat) (maskReg free x f.b.toNat)))

def execKMand (c t : Nat) (f : VFields) (s : State) : Out := onThread c t (maskOp s c t 0x60 f (· &&& ·))
def execKMor (c t : Nat) (f : VFields) (s : State) : Out := onThread c t (maskOp s c t 0x61 f (· ||| ·))
def execKMxor (c t : Nat) (f : VFields) (s : State) : Out := onThread c t (maskOp s c t 0x62 f (· ^^^ ·))
def execKMnot (c t : Nat) (f : VFields) (s : State) : Out := onThread c t (maskOp s c t 0x63 f (fun a _ => ~~~a))

def execKMfirst (c t : Nat) (f : VFields) (s : State) : Out :=
  onThread c t (vecOp s c t 0x64 f (fun free _ _ x =>
    let n := (sReg free x t f.b.toNat).toNat
    setMask x f.d.toNat
      (maskOf ((List.range (viewCount f.fmt.toNat)).map (firstBit (f.imm.toNat % 4) (viewWidth f.fmt.toNat) n)))))

/-! ### Reductions (R144) -/

/-- One value for each row or column of the view, broadcast to it. -/
def reduce (f : VFields) (m : BitVec 1024) (row : Bool) (g : List FVal → FVal) (l : List FVal) : List Nat :=
  let w := viewWidth f.fmt.toNat
  let rows := (List.range 16).map (fun r => fpRes f (g (activeOf m (fun i => w * r + i) (rowOf w r l))))
  let cols := (List.range w).map (fun k =>
    fpRes f (g (activeOf m (fun r => w * r + k) ((List.range 16).map (fun r => l.getD (w * r + k) .nan)))))
  (List.range (16 * w)).map (fun i => if row then rows.getD (i / w) 0 else cols.getD (i % w) 0)

def vecReduce (s : State) (c t op : Nat) (f : VFields) (row : Bool) (g : List FVal → FVal) : State :=
  vecOp s c t op f (fun free _ _ x => putWhole x f (reduce f (vMask free x f) row g ((vElems free x f f.a.toNat).map (fpVal f))))

/-- The greatest, −∞ of none. -/
def fvGreatest : List FVal → FVal
  | [] => .inf true
  | x :: rest => rest.foldl fvMax x

/-- The least, +∞ of none. -/
def fvLeast : List FVal → FVal
  | [] => .inf false
  | x :: rest => rest.foldl fvMin x

def execKVrsumRow (c t : Nat) (f : VFields) (s : State) : Out := onThread c t (vecReduce s c t 0x70 f true fvSum)
def execKVrsumCol (c t : Nat) (f : VFields) (s : State) : Out := onThread c t (vecReduce s c t 0x71 f false fvSum)
def execKVrmaxRow (c t : Nat) (f : VFields) (s : State) : Out := onThread c t (vecReduce s c t 0x72 f true fvGreatest)
def execKVrmaxCol (c t : Nat) (f : VFields) (s : State) : Out := onThread c t (vecReduce s c t 0x73 f false fvGreatest)
def execKVrminRow (c t : Nat) (f : VFields) (s : State) : Out := onThread c t (vecReduce s c t 0x74 f true fvLeast)
def execKVrminCol (c t : Nat) (f : VFields) (s : State) : Out := onThread c t (vecReduce s c t 0x75 f false fvLeast)

/-! ### Random indices (R46, R74) -/

/-- The logical index of element (r, k) of a tile of row width w from register C. -/
def sparkIndex (regC : Word) (w r k : Nat) : Nat :=
  let base := bits regC.toNat 39 0
  let len := bits regC.toNat 63 40
  base + r * (if len = 0 then w else len) + k

/-- The spark value of an element for thread t of a cell (R46). -/
def sparkOf (s : State) (x : Cell) (stream : BitVec 32) (index : Nat) : BitVec 32 :=
  spark (getJob s x.ctx).image.seed stream x.step (BitVec.ofNat 64 index)

/-- The rounding of element (r, k) under a RND field (R44, R45, R149). -/
def rndAt (s : State) (x : Cell) (stream : BitVec 32) (regC : Word) (rnd w r k : Nat) : Rnd :=
  if rnd = 2 then .sr (sparkOf s x stream (sparkIndex regC w r k)).toNat else if rnd = 1 then .rz else .rne

/-- A scale field: 0 is read as 1.0 (R74, R147). -/
def scaleVal (v : F32) : FVal := if v = 0 then fvOne else f32 v

/-! ### Conversion (R147) -/

/-- The elements of four or two F32 tiles in the order of the narrow tile: (r, 16 j + k) from tile j. -/
def gatherTiles (free : Nat) (x : Cell) (n k : Nat) : List Nat :=
  let ts := (List.range k).map (fun j => viewElems 0 (tileBytes free x (n + j)))
  (List.range 16).flatMap (fun r => ts.flatMap (fun l => rowOf 16 r l))

/-- The F32 tile j of a narrow tile's elements. -/
def scatterTile (k j : Nat) (l : List Nat) : List Nat := (List.range 16).flatMap (fun r => ((l.drop (16 * k * r + 16 * j)).take 16))

/-- Bits of an element of the narrow tile. -/
def narrowBits (fmt : Nat) : Nat := if fmt = 1 ∨ fmt = 2 then 16 else 8

def narrowing (s : State) (free : Nat) (e : Entry) (f : VFields) (x : Cell) : Cell :=
  let fmt := f.fmt.toNat
  let k := cvtTiles fmt
  let w := 16 * k
  let sc := scaleVal ((sReg free x e.thread f.b.toNat).setWidth 32)
  let regC := sReg free x e.thread f.c.toNat
  let src := gatherTiles free x f.a.toNat k
  let new := src.mapIdx (fun i v =>
    convertTo fmt (rndAt s x (streamOf x e.thread) regC f.rnd.toNat w (i / w) (i % w)) (fvDiv (decodeF fF32 v) sc))
  let old := (pieces (narrowBits fmt / 8) (16 * w) (tileBytes free x f.d.toNat)).map leNat
  setTile x f.d.toNat (packElems (narrowBits fmt) (underMask (vMask free x f) f.mz (fun i => i) old new))

def widening (free : Nat) (e : Entry) (f : VFields) (x : Cell) : Cell :=
  let src := f.imm.toNat % 256
  let k := cvtTiles src
  let w := 16 * k
  let sc := scaleVal ((sReg free x e.thread f.b.toNat).setWidth 32)
  let l := (pieces (narrowBits src / 8) (16 * w) (tileBytes free x f.a.toNat)).map leNat
  let new := l.map (fun v => (cvtF32 (fvMul (decodeElem src v) sc)).toNat)
  let m := vMask free x f
  setTiles x f.d.toNat ((List.range k).map (fun j =>
    packElems 32 (underMask m f.mz (fun i => w * (i / 16) + 16 * j + i % 16)
      (viewElems 0 (tileBytes free x (f.d.toNat + j))) (scatterTile k j new))))

def execKVcvt (c t : Nat) (f : VFields) (s : State) : Out :=
  onThread c t (vecOp s c t 0x80 f (fun free u e x => if f.imm.toNat % 256 = 0 then narrowing u free e f x else widening free e f x))

/-! ### Movement (R145, R146) -/

def execKVmov (c t : Nat) (f : VFields) (s : State) : Out := onThread c t (vec1 s c t 0x90 f (fun a => a))

def execKVsel (c t : Nat) (f : VFields) (s : State) : Out :=
  onThread c t (vecOp s c t 0x91 f (fun free _ _ x =>
    putWhole x f (underMask (vMask free x f) false (fun i => i) (vElems free x f f.b.toNat) (vElems free x f f.a.toNat))))

/-- VBCAST: a scalar, a column or a row. -/
def broadcast (f : VFields) (l : List Nat) (b : Nat) : List Nat :=
  let w := viewWidth f.fmt.toNat
  (List.range (16 * w)).map (fun i =>
    if f.imm.toNat % 4 = 0 then b % 2 ^ viewBits f.fmt.toNat
    else if f.imm.toNat % 4 = 1 then l.getD (w * (i / w) + b % w) 0
    else l.getD (w * (b % 16) + i % w) 0)

def execKVbcast (c t : Nat) (f : VFields) (s : State) : Out :=
  onThread c t (vecOp s c t 0x92 f (fun free _ _ x =>
    putTile free x f (broadcast f (vElems free x f f.a.toNat) (sReg free x t f.b.toNat).toNat)))

def execKVtrans (c t : Nat) (f : VFields) (s : State) : Out :=
  onThread c t (vecOp s c t 0x93 f (fun free _ _ x =>
    let l := vElems free x f f.a.toNat
    putTile free x f ((List.range 256).map (fun i => l.getD (16 * (i % 16) + i / 16) 0))))

def execKVextr (c t : Nat) (f : VFields) (s : State) : Out :=
  onThread c t (vecOp s c t 0x94 f (fun free _ _ x =>
    let i := (sReg free x t f.b.toNat).toNat % viewCount f.fmt.toNat
    setS x t f.d.toNat (BitVec.ofNat 64 ((vElems free x f f.a.toNat).getD i 0))))

def execKVins (c t : Nat) (f : VFields) (s : State) : Out :=
  onThread c t (vecOp s c t 0x95 f (fun free _ _ x =>
    let i := (sReg free x t f.b.toNat).toNat % viewCount f.fmt.toNat
    putWhole x f ((vElems free x f f.d.toNat).set i ((sReg free x t f.a.toNat).toNat % 2 ^ viewBits f.fmt.toNat))))

def execKVspark (c t : Nat) (f : VFields) (s : State) : Out :=
  onThread c t (vecOp s c t 0x96 f (fun free u _ x =>
    let regC := sReg free x t f.c.toNat
    putTile free x f ((List.range 256).map (fun i => (sparkOf u x (streamOf x t) (sparkIndex regC 16 (i / 16) (i % 16))).toNat))))

end Sys2Proof.Machine
end

