-- ==== Sys2Proof/Machine/Blocks.lean ====
section
/-!
DEFINITION. Machine/Blocks.lean: elements packed in memory (R35, R37, R38, R118), 32×32 blocks and the tile groups that hold them
(R85), encoding with square scales (R40).
-/
namespace Sys2Proof.Machine

/-! ### Packed elements -/

/-- n element codes of `w` bits each, from little-endian bytes. -/
def unpack (w n : Nat) (l : List Byte) : List Nat :=
  let v := leNat l
  (List.range n).map (fun i => v / 2 ^ (w * i) % 2 ^ w)

/-- Element codes of `w` bits each as a number. -/
def packNat (w : Nat) : List Nat → Nat
  | [] => 0
  | c :: rest => c % 2 ^ w + 2 ^ w * packNat w rest

/-- Element codes of `w` bits each, packed. -/
def pack (w : Nat) (l : List Nat) : List Byte := leBytes (w * l.length / 8) (packNat w l)

/-! ### Blocks -/

/-- The scale byte of element i of a block: square (r / 8, c / 8) (R38). -/
def squareOf (i : Nat) : Nat := i / 256 * 4 + i % 32 / 8

/-- The values of the 1,024 elements of a block. -/
def blockVals (fmt : Nat) (el sc : List Byte) : List FVal :=
  let codes := unpack (fmtBits fmt) 1024 el
  if isSb fmt then codes.mapIdx (fun i v => sbValue fmt (sc.getD (squareOf i) 0).toNat v) else codes.map (decodeElem fmt)

/-- The 64 values of square q. -/
def squareVals (l : List FQuo) (q : Nat) : List FQuo :=
  (List.range 64).filterMap (fun i => l[(q / 4 * 8 + i / 8) * 32 + (q % 4 * 8 + i % 8)]?)

/-- A block encoded in a format: element codes and scale bytes; `mode i` rounds element i. -/
def encodeBlock (fmt : Nat) (mode : Nat → Rnd) (l : List FQuo) : List Byte × List Byte :=
  if isSb fmt then
    let sc := (List.range 16).map (fun q => squareScale fmt (squareVals l q))
    (pack (fmtBits fmt) (l.mapIdx (fun i q => sbElem fmt (sc.getD (squareOf i) 0) (mode i) q)), sc.map (BitVec.ofNat 8))
  else (pack (fmtBits fmt) (l.mapIdx (fun i q => convertTo fmt (mode i) q)), [])

/-! ### Tile groups (R85) -/

/-- Element i of a block stands in tile 2 (r / 16) + c / 16 of the group, at (r mod 16, c mod 16). -/
def tileOf (i : Nat) : Nat × Nat := (i / 512 * 2 + i % 32 / 16, i / 32 % 16 * 16 + i % 16)

/-- Element k of tile j stands at this place of the block. -/
def placeOf (j k : Nat) : Nat := (j / 2 * 16 + k / 16) * 32 + j % 2 * 16 + k % 16

/-- The 1,024 F32 elements of tiles n to n + 3 in block order. -/
def groupBlock (free : Nat) (x : Cell) (n : Nat) : List Nat :=
  let ts := (List.range 4).map (fun j => viewElems 0 (tileBytes free x (n + j)))
  (List.range 1024).map (fun i => (ts.getD (tileOf i).1 []).getD (tileOf i).2 0)

/-- The four tiles of a block of F32 elements. -/
def blockGroup (l : List Nat) : List (List Byte) :=
  (List.range 4).map (fun j => packElems 32 ((List.range 256).map (fun k => l.getD (placeOf j k) 0)))

end Sys2Proof.Machine
end

