-- ==== Sys2Proof/Machine/Layout.lean ====
section
/-!
DEFINITION. Machine/Layout.lean: blocked tensors in memory (R37, R38, R41, R168), logical element indexes (R46), the byte string of a
shard's digest (R310).
-/
namespace Sys2Proof.Machine

/-! ### Blocks of a tensor (R168) -/

/-- Bytes of the element part of a block; an XS element takes 24 (R51). -/
def partSize (fmt : Nat) : Nat := 128 * fmtBits fmt

/-- Element parts in a 64 KiB page (R168): 84 of SB6, which leave its last 1,024 bytes unused. XS elements of a region follow one another
with no page tails (log 33). -/
def perPage (fmt : Nat) : Nat := if partSize fmt = 768 then 84 else 65536 / partSize fmt

/-- Rows, columns and the leading extents, outermost first. -/
def matrixOf (ext : List Nat) : Nat × Nat × List Nat :=
  match ext.reverse with
  | [] => (1, 1, [])
  | [c] => (1, c, [])
  | c :: r :: lead => (r, c, lead.reverse)

/-- Matrices, block rows and block columns. -/
def blockShape (ext : List Nat) : Nat × Nat × Nat :=
  let m := matrixOf ext
  (m.2.2.foldl (· * ·) 1, ceilDiv m.1 32, ceilDiv m.2.1 32)

def blockCount (ext : List Nat) : Nat :=
  let s := blockShape ext
  s.1 * s.2.1 * s.2.2

/-- Where the element part of block b lies, from the base. -/
def partOffset (fmt b : Nat) : Nat :=
  if fmt = 0x18 then b * partSize fmt else b / perPage fmt * 65536 + b % perPage fmt * partSize fmt

/-- Row-major index to coordinates under extents. -/
def coordsOf : List Nat → Nat → List Nat
  | [], _ => []
  | _ :: rest, n => let m := rest.foldl (· * ·) 1; (n / m) :: coordsOf rest (n % m)

/-- Row-major index of coordinates. -/
def linearOf : List Nat → List Nat → Nat
  | e :: ext, x :: xs => (if e = 0 then 0 else x) * ext.foldl (· * ·) 1 + linearOf ext xs
  | _, _ => 0

/-- The logical coordinates, within the shard, of element i of block b; none for padding (R41). -/
def elemCoords (ext : List Nat) (b i : Nat) : Option (List Nat) :=
  let m := matrixOf ext
  let s := blockShape ext
  let r := b / s.2.2 % s.2.1 * 32 + i / 32
  let c := b % s.2.2 * 32 + i % 32
  let lead := coordsOf m.2.2 (b / (s.2.1 * s.2.2))
  if r < m.1 ∧ c < m.2.1 then some (lead ++ (if ext.length ≤ 1 then [c] else [r, c])) else none

/-- Block and element of logical coordinates within the shard. -/
def elemPlace (ext : List Nat) (x : List Nat) : Nat × Nat :=
  let m := matrixOf ext
  let s := blockShape ext
  let r := if ext.length ≤ 1 then 0 else x.getD (ext.length - 2) 0
  let c := x.getD (ext.length - 1) 0
  let mi := linearOf m.2.2 (x.take (ext.length - 2))
  ((mi * s.2.1 + r / 32) * s.2.2 + c / 32, r % 32 * 32 + c % 32)

/-- Element-wise sum of coordinates. -/
def addCoords : List Nat → List Nat → List Nat
  | a :: x, b :: y => (a + b) :: addCoords x y
  | _, _ => []

def subCoords : List Nat → List Nat → List Nat
  | a :: x, b :: y => (a - b) :: subCoords x y
  | _, _ => []

/-- Coordinates lie in the box from `lo` with extents `n`. -/
def inBox : List Nat → List Nat → List Nat → Bool
  | x :: xs, l :: lo, n :: ns => decide (l ≤ x ∧ x < l + n) && inBox xs lo ns
  | _, _, _ => true

/-! ### Bytes and elements -/

/-- Pages in rising order as the frames that hold a range of virtual addresses: a byte of it. -/
def pageByte (s : State) (m : Map Leaf) (va : Nat) : Byte :=
  match mfind m (va / 65536) with
  | some ⟨.phys a, _, _, _, _, _, _, _⟩ => memByte s.mem (a + va % 65536)
  | _ => 0

def pageRead (s : State) (m : Map Leaf) (va n : Nat) : List Byte := (List.range n).map (fun i => pageByte s m (va + i))

/-- Writes bytes through pages. -/
def pageWrite (s : State) (m : Map Leaf) (va : Nat) (l : List Byte) : State :=
  (l.foldl (fun (r : State × Nat) b =>
    (match mfind m (r.2 / 65536) with
     | some ⟨.phys a, _, _, _, _, _, _, _⟩ => { r.1 with mem := mset 0 (a + r.2 % 65536) b r.1.mem }
     | _ => r.1, r.2 + 1)) (s, va)).1

/-- Bytes of an element code starting at bit w·i of a part that begins at va. -/
def codeAt (byte : Nat → Byte) (w va i : Nat) : Nat :=
  let bit := w * i
  leNat ((List.range 5).map (fun k => byte (va + bit / 8 + k))) / 2 ^ (bit % 8) % 2 ^ w

/-! ### Shards -/

def workFmt (sh : ShardDecl) : Nat := sh.fmt.toNat

/-- Bytes of the elements and of the scales of a shard's working copy. -/
def workBytes (sh : ShardDecl) : Nat := blockCount sh.count * partSize (workFmt sh)
def scaleBytes (sh : ShardDecl) : Nat := if isSb (workFmt sh) then 16 * blockCount sh.count else 0

/-- The element parts and then the scale parts of a version, in shard block order (R310). -/
def verBytes (s : State) (sh : ShardDecl) (m : Map Leaf) : List Byte :=
  (List.range (blockCount sh.count)).flatMap (fun b => pageRead s m (sh.workVa + partOffset (workFmt sh) b) (partSize (workFmt sh))) ++
    (if isSb (workFmt sh) then (List.range (blockCount sh.count)).flatMap (fun b => pageRead s m (sh.workScaleVa + 16 * b) 16) else [])

/-- Places the bytes of a version in pages. -/
def putVer (s : State) (sh : ShardDecl) (m : Map Leaf) (l : List Byte) : State :=
  let e := partSize (workFmt sh)
  let s := (List.range (blockCount sh.count)).foldl (fun s b =>
    pageWrite s m (sh.workVa + partOffset (workFmt sh) b) ((l.drop (b * e)).take e)) s
  if isSb (workFmt sh) then
    (List.range (blockCount sh.count)).foldl (fun s b => pageWrite s m (sh.workScaleVa + 16 * b) ((l.drop (workBytes sh + 16 * b)).take 16)) s
  else s

/-- The 16-byte prefix of the digest's byte string (R310). -/
def digestPrefix (identity shard : BitVec 32) (version : Nat) (fmt : BitVec 8) : List Byte :=
  leBytes 4 identity.toNat ++ leBytes 4 shard.toNat ++ leBytes 4 version ++ [fmt, 0, 0, 0]

/-- The digest of a version (R310). -/
def digestOf (sh : ShardDecl) (version : Nat) (l : List Byte) : Word := crc64 (digestPrefix sh.identity sh.shard version sh.fmt ++ l)

/-- The virtual pages that n bytes at va take. -/
def pagesOf (va n : Nat) : List Nat := if n = 0 then [] else (List.range ((va + n - 1) / 65536 + 1 - va / 65536)).map (fun i => va / 65536 + i)

/-- Bytes that the blocks of a tensor take from its base. -/
def spanBytes (fmt : Nat) (ext : List Nat) : Nat := if blockCount ext = 0 then 0 else partOffset fmt (blockCount ext - 1) + partSize fmt

/-- The virtual pages of a shard's working copy. -/
def workPages (sh : ShardDecl) : List Nat :=
  let a := pagesOf sh.workVa (spanBytes (workFmt sh) sh.count)
  a ++ (pagesOf sh.workScaleVa (scaleBytes sh)).filter (fun p => !a.contains p)

/-- The aligned range that holds an output slot instance: the smallest of 2 MiB, 1 GiB and 512 GiB that does (R170). -/
def instanceSpan (size : Nat) : Nat := if size ≤ 2 ^ 21 then 2 ^ 21 else if size ≤ 2 ^ 30 then 2 ^ 30 else 2 ^ 39

end Sys2Proof.Machine
end

