-- ==== Sys2Proof/Machine/Alloc.lean ====
section
/-!
DEFINITION. Machine/Alloc.lean: ALLOC.OUT, ALLOC.TMP, FREE.TMP and the answers of the allocators (R80, R165 to R167, R170, R171, R505),
stash allocations (R248, R261), PUBLISH and the cell's report (R81).
-/
namespace Sys2Proof.Machine

def issueR (s : State) (c t cls op : Nat) (f : RFields) (g : State → Entry → State) : State := issue s c t (encR cls op f) g

/-! ### The allocation window (R505) -/

/-- Address ranges given out and not released. -/
def liveRanges (jb : Job) : List (Nat × Nat) :=
  jb.items.flatMap (fun e =>
    e.2.staging.map (fun g => (g.base, match (stageOf jb e.2.stage).bind (fun st => st.slots[g.slot]?) with | some d => d.size | none => 65536)) ++
      e.2.scratch.map (fun q => (q.1, 65536 * q.2)))

/-- An address for n bytes in the window: the allocator's choice where that is aligned and free, else the first above all that is
given out. -/
def windowPick (free : Nat) (jb : Job) (align n : Nat) : Nat :=
  let live := liveRanges jb
  let cand := align * (Config.freeAddr free % (2 ^ 48 / align))
  if jb.windowNext ≤ cand ∧ cand + n ≤ 2 ^ 48 ∧ live.all (fun r => decide (cand + n ≤ r.1 ∨ r.1 + r.2 ≤ cand)) then cand
  else roundUp align (maxOf (jb.windowNext :: live.map (fun r => r.1 + r.2)))

/-! ### Frames for a page (R166) -/

/-- The answer of an allocator for one page. -/
inductive FrameAns where
  | frame (f : Nat) (loc : Nat)
  | over
  | wait
  deriving DecidableEq, Repr

/-- A store frame, if the reservation and the banks allow. -/
def tryStore (s : State) (j d : Nat) (f : Option Nat) : FrameAns :=
  if storeLeft s j d = 0 then .over
  else match f with
    | some n => .frame n 0
    | none => if zeroingOn s d true then .wait else .over

def tryHbm (s : State) (j d n : Nat) : FrameAns :=
  if hbmLeft s j d = 0 then .over
  else match hbmFrame s d n with
    | some f => .frame f 1
    | none => if zeroingOn s d false then .wait else .over

/-- The frame for page n of a slot instance. -/
def slotFrame (s : State) (j c : Nat) (it : Item) (d : SlotDecl) (n : Nat) : FrameAns :=
  let die := dieOfCell c
  let b := getBed (getPav s it.pav) it.bed
  match d.place with
  | .hbm => tryHbm s j die n
  | .home =>
    (match tryStore s j die (homeFrame s c) with
     | .over => if d.rm then tryHbm s j die n else .over
     | r => r)
  | .spread =>
    (match tryStore s j die (homeFrame s (rankCell it.pav b (n % (b.h * b.w)))) with
     | .over => if d.rm then tryHbm s j die n else .over
     | r => r)

/-! ### ALLOC.OUT -/

/-- Outcome of a whole request. -/
inductive AllocAns where
  | done (s : State) (v : Word)
  | wait (s : State) (forStore : Bool)

/-- A leaf of a staging range and the matching leaf of NEXT (R170); LOC is 0 without RM (R159), A waits for the walker (R163). -/
def stagedLeaf (f loc : Nat) (rm : Bool) : Leaf := ⟨.phys (f * 65536), true, true, rm, false, false, false, if rm then loc else 0⟩
def nextLeaf (f loc : Nat) (rm : Bool) : Leaf := ⟨.phys (f * 65536), true, false, rm, false, true, false, if rm then loc else 0⟩

def modItem (s : State) (j i : Nat) (f : Item → Item) : State :=
  modJob s j (fun jb => match mfind jb.items i with | some it => { jb with items := mput i (f it) jb.items } | none => jb)

def modStaging (it : Item) (k : Nat) (f : Staging → Staging) : Item :=
  { it with staging := it.staging.map (fun g => if g.slot = k then f g else g) }

/-- The pages of slot range [off, off + n) that a staging range lacks. -/
def missingPages (g : Staging) (off n : Nat) : List Nat :=
  ((List.range ((off + n - 1) / 65536 + 1 - off / 65536)).map (fun i => off / 65536 + i)).filter (fun p => (mfind g.pages p).isNone)

/-- Makes the staging range of (item, slot) if there is none. -/
def openStaging (s : State) (j i k : Nat) (d : SlotDecl) (inst : Option Nat) : State :=
  match mfind (getJob s j).items i with
  | none => s
  | some it =>
    if it.staging.any (fun g => decide (g.slot = k)) then s
    else
      let base := windowPick s.free (getJob s j) (instanceSpan d.size) d.size
      let s := modItem (draw s) j i (fun it => { it with staging := it.staging ++ [⟨k, base, [], []⟩] })
      match inst with
      | none => s
      | some n =>
        modJob s j (fun jb =>
          { jb with insts := jb.insts.mapIdx (fun m x => if m = n then { x with nextV := true, commitItem := i, next := [] } else x) })

/-- A frame becomes page p of the staging range, and of NEXT. -/
def placePage (s : State) (j i k p f loc : Nat) (rm : Bool) (inst : Option Nat) : State :=
  let s := modItem s j i (fun it => modStaging it k (fun g => { g with pages := mput p (stagedLeaf f loc rm) g.pages }))
  match inst with
  | none => s
  | some n =>
    modJob s j (fun jb =>
      { jb with insts := jb.insts.mapIdx (fun m x => if m = n then { x with next := mput p (nextLeaf f loc rm) x.next } else x) })

/-- Frames for pages one after the other; all or none (R80). -/
def placeAll (j c i k : Nat) (it : Item) (d : SlotDecl) (inst : Option Nat) : State → List Nat → Option State ⊕ Unit
  | s, [] => .inl (some s)
  | s, p :: rest =>
    match slotFrame s j c it d p with
    | .wait => .inr ()
    | .over => .inl none
    | .frame f loc => placeAll j c i k it d inst (placePage (takeFrame s j f .staged) j i k p f loc d.rm inst) rest

/-- Frames of the Icehouse for pages one after the other (R261); those found so far are kept while the rest waits. -/
def stashAll (j i k phase d : Nat) : State → List Nat → State × Option Bool
  | s, [] => (s, none)
  | s, p :: rest =>
    match stashFrame phase j d 4096 s with
    | (s, .wait forStore) => (s, some forStore)
    | (s, .frame f) => stashAll j i k phase d (placePage s j i k p f (if f * 65536 < storeEnd then 0 else 1) false none) rest

def argRange : Word := statusWord eArgRange

/-- The bytes of slot k that rank r has been given in the item. -/
def usedBytes (it : Item) (k r : Nat) : Nat :=
  match it.staging.find? (fun g => decide (g.slot = k)) with
  | some g => mget 0 g.used r
  | none => 0

/-- The share is given: sD is the staging base plus its offset. -/
def giveShare (s : State) (j i k r off share : Nat) : AllocAns :=
  let base := match (mfind (getJob s j).items i).bind (fun it => it.staging.find? (fun g => decide (g.slot = k))) with
    | some g => g.base
    | none => 0
  .done (modItem s j i (fun it => modStaging it k (fun g => { g with used := mput r (mget 0 g.used r + share) g.used })))
    (BitVec.ofNat 64 (base + off))

/-- ALLOC.OUT of slot sA with sB bytes (R167, R171, R248). -/
def allocOut (s : State) (c : Nat) (a b : Word) : AllocAns :=
  let x := getCell s c
  let j := x.ctx
  let jb := getJob s j
  match x.item, x.item.bind (fun i => mfind jb.items i) with
  | some i, some it =>
    (match (stageOf jb it.stage).bind (fun st => st.slots[a.toNat]?) with
     | none => .done s argRange
     | some d =>
       let k := a.toNat
       let share := roundUp 64 b.toNat
       let used := usedBytes it k x.rank
       let off := x.rank * d.stride + used
       let inst := if d.stash.isSome ∨ it.phase = 2 then none else jb.insts.findIdx? (fun n => decide (n.va = d.va))
       let taken := match inst with
         | some n => (match jb.insts[n]? with | some y => y.nextV && decide (y.commitItem ≠ i) | none => false)
         | none => false
       if b = 0 then .done s argRange
       else if d.stride < used + share ∨ d.size < off + share then .done s argRange
       else if taken then .done s (statusWord eBadState)
       else if d.stash.isSome ∧ it.phase ≠ 0 ∧ it.phase ≠ 2 then .done (draw s) (Config.freeWord s.free 80)
       else
         let s1 := openStaging s j i k d inst
         match (mfind (getJob s1 j).items i).bind (fun it => it.staging.find? (fun g => decide (g.slot = k))) with
         | none => .wait s false
         | some g =>
           let pages := missingPages g off share
           if d.stash.isSome then
             (match stashAll j i k it.phase it.die s1 pages with
              | (s2, none) => giveShare s2 j i k x.rank off share
              | (s2, some forStore) => .wait s2 forStore)
           else
             (match placeAll j c i k it d inst s1 pages with
              | .inr () => .wait s false
              | .inl none => .done s (statusWord eOverReservation)
              | .inl (some s2) => giveShare s2 j i k x.rank off share))
  | _, _ => .done s argRange

/-! ### ALLOC.TMP and FREE.TMP -/

def tmpPages (j c i : Nat) : State → List Nat → Option State ⊕ Unit
  | s, [] => .inl (some s)
  | s, vpn :: rest =>
    match tryStore s j (dieOfCell c) (homeFrame s c) with
    | .wait => .inr ()
    | .over => .inl none
    | .frame f _ =>
      let s := takeFrame s j f .scratch
      tmpPages j c i (modItem s j i (fun it => { it with scratchPages := mput vpn (stagedLeaf f 0 false) it.scratchPages })) rest

/-- ALLOC.TMP of sB bytes: whole pages, placement HOME (R80, R166, R505). -/
def allocTmp (s : State) (c : Nat) (b : Word) : AllocAns :=
  let x := getCell s c
  let j := x.ctx
  match x.item with
  | none => .done s argRange
  | some i =>
    let n := ceilDiv b.toNat 65536
    if b = 0 then .done s argRange
    else if storeLeft s j (dieOfCell c) < n then .done s (statusWord eOverReservation)
    else
      let va := windowPick s.free (getJob s j) 65536 (65536 * n)
      match tmpPages j c i (draw s) ((List.range n).map (fun k => va / 65536 + k)) with
      | .inr () => .wait s false
      | .inl none => .done s (statusWord eOverReservation)
      | .inl (some s2) =>
        .done (modItem s2 j i (fun it => { it with scratch := mput va n it.scratch })) (BitVec.ofNat 64 va)

/-- Pages [vpn, vpn + n) leave a map. -/
def dropPages (m : Map Leaf) (vpn n : Nat) : Map Leaf := m.filter (fun e => decide (e.1 < vpn ∨ vpn + n ≤ e.1))

/-- FREE.TMP of the scratch allocation at sA; what sD gets when it is freed is not stated, and free (R80, log 21). -/
def freeTmp (s : State) (c : Nat) (a : Word) : AllocAns :=
  let x := getCell s c
  let j := x.ctx
  match x.item, x.item.bind (fun i => mfind (getJob s j).items i) with
  | some i, some it =>
    (match mfind it.scratch a.toNat with
     | none => .done s argRange
     | some n =>
       let gone := it.scratchPages.filter (fun e => decide (a.toNat / 65536 ≤ e.1 ∧ e.1 < a.toNat / 65536 + n))
       let s1 := invalidate (draw s) j (dieOfCell c) (gone.map (·.1))
       .done (modItem (releaseFrames s1 (gone.filterMap (fun e => leafFrame e.2))) j i (fun it =>
         { it with scratch := mdel a.toNat it.scratch, scratchPages := dropPages it.scratchPages (a.toNat / 65536) n }))
         (Config.freeWord s.free 81))
  | _, _ => .done s argRange

/-! ### Requests and answers -/

/-- The request goes to the allocator; sD is written when it answers (R70). -/
def requestAlloc (s : State) (c : Nat) (e : Entry) (free kind : Nat) : State :=
  modCell s c (fun x =>
    { x with allocs := x.allocs ++
        [{ stamp := e.stamp, thread := e.thread, pc := e.pc, dest := wD e.word, kind := kind, a := sReg free x e.thread (wA e.word)
           b := sReg free x e.thread (wB e.word), waiting := false, forStore := false }] })

def execKAllocOut (c t : Nat) (f : RFields) (s : State) : Out :=
  onThread c t (issueR s c t 5 0x00 f (fun u e => requestAlloc u c e s.free 0))

def execKAllocTmp (c t : Nat) (f : RFields) (s : State) : Out :=
  onThread c t (issueR s c t 5 0x01 f (fun u e => requestAlloc u c e s.free 1))

def execKFreeTmp (c t : Nat) (f : RFields) (s : State) : Out :=
  onThread c t (issueR s c t 5 0x02 f (fun u e => requestAlloc u c e s.free 2))

/-- Global writes of the cell stamped before n that are not performed: FREE.TMP waits for them (R174). -/
def writesBefore (x : Cell) (n : Nat) : Bool :=
  (x.ctl ++ x.vec ++ x.mat).any (fun f => decide (f.stamp < n) && isGlobal f.word) ||
    x.flights.any (fun f => decide (f.stamp < n) && !f.arrived) ||
    (match x.quench with | some q => decide (q.stamp < n ∧ qDest q.word = 2) | none => false)

def performAlloc (s : State) (c : Nat) (a : AllocReq) : AllocAns :=
  if a.kind = 0 then allocOut s c a.a a.b
  else if a.kind = 1 then allocTmp s c a.b
  else if writesBefore (getCell s c) a.stamp then .wait s false
  else freeTmp s c a.a

/-- The answer is written to sD. -/
def answered (s : State) (c : Nat) (a : AllocReq) (v : Word) : State :=
  modCell s c (fun x => setS { x with allocs := x.allocs.filter (fun r => decide (r.stamp ≠ a.stamp)) } a.thread a.dest v)

/-- A stash allocation that found no frame waits, after the start of a spill for a store frame, and the test for deadlock is made (R261). -/
def markWaiting (s : State) (c : Nat) (a : AllocReq) (forStore : Bool) : State :=
  noteStuck
    (modCell s c (fun x =>
      { x with allocs := x.allocs.map (fun r => if r.stamp = a.stamp then { r with waiting := true, forStore := forStore } else r) }))
    (getCell s c).ctx

/-- The stash slots of the cell's stage: only their allocations wait in R261. -/
def stashRequest (s : State) (c : Nat) (a : AllocReq) : Bool :=
  let x := getCell s c
  let jb := getJob s x.ctx
  decide (a.kind = 0) &&
    (match (x.item.bind (fun i => mfind jb.items i)).bind (fun it => (stageOf jb it.stage).bind (fun st => st.slots[a.a.toNat]?)) with
     | some d => d.stash.isSome
     | none => false)

def serveAlloc (s : State) (c : Nat) (a : AllocReq) : State :=
  match performAlloc s c a with
  | .done u v => answered u c a v
  | .wait u forStore => if stashRequest s c a then markWaiting u c a forStore else u

def execAllocatorAnswer (c : Nat) (s : State) : Out :=
  onUnit (cellOk c)
    (match (getCell s c).allocs.find? (fun a => !a.waiting) with
     | some a => if cellLive s c then serveAlloc s c a else s
     | none => s)

def execStashFrameRetry (c : Nat) (s : State) : Out :=
  onUnit (cellOk c)
    (match (getCell s c).allocs.find? (fun a => a.waiting && !a.forStore) with
     | some a => if cellLive s c then noteStuck (serveAlloc s c a) (getCell s c).ctx else s
     | none => s)

/-! ### PUBLISH (R81) -/

def execKPublish (c t : Nat) (f : RFields) (s : State) : Out :=
  onThread c t (issueR s c t 5 0x08 f (fun u _ =>
    modCell u c (fun x => if t = 0 then startPublish x else setS x t f.d.toNat (statusWord eBadState))))

/-- Every condition of R81 but the streams, which are stopped at the report. -/
def drained (x : Cell) : Bool :=
  decide (waitsOf x 0 = .publish) &&
    ((List.range 7).all (fun i => decide (tstateOf x (i + 1) = .idle ∨ tstateOf x (i + 1) = .halted))) &&
    x.ctl.isEmpty && x.vec.isEmpty && x.mat.isEmpty && x.flights.isEmpty && x.runs.isEmpty && x.quench.isNone && x.allocs.isEmpty

/-- Every running stream stops, its unconsumed data discarded (R81, R190, R198). -/
def stopStreams (x : Cell) : Cell :=
  (List.range 16).foldl (fun x q =>
    let s := getSlot x q
    if s.state = .running then setSlot x q { s with state := .loaded, units := [], gen := s.gen + 1 } else x) x

/-- When every cell of the bed has reported, the bed is idle (R223 item 3). -/
def bedReported (j i : Nat) (s : State) : State :=
  match mfind (getJob s j).items i with
  | some it =>
    if it.reported then
      modPav s it.pav (fun p => setBed (beginIdle s.ember p) it.bed { getBed p it.bed with item := none })
    else s
  | none => s

/-- The cell reports to its dispatch unit: thread 0 halts, the item counts the report (R81, R223). -/
def reportCell (s : State) (c : Nat) : State :=
  let x := getCell s c
  let s := modCell s c (fun x => { setWaits (setTState (stopStreams x) 0 .halted) 0 .none with reported := true, mode := 0 })
  match x.item with
  | none => s
  | some i =>
    (modItem s x.ctx i (fun it =>
      let l := it.toReport.filter (· ≠ c)
      { it with toReport := l, reported := l.isEmpty })) |> bedReported x.ctx i

def execCellReport (c : Nat) (s : State) : Out :=
  onUnit (cellOk c) (if cellLive s c ∧ drained (getCell s c) then reportCell s c else s)

end Sys2Proof.Machine
end

