-- ==== Sys2Proof/Machine/Bellows.lean ====
section
/-!
DEFINITION. Machine/Bellows.lean: the stream instructions (R190, R193, R195, R197, R198, R209), the requests of Bellows and the return of
their data (R194, R196, R199 to R202).
-/
namespace Sys2Proof.Machine

/-! ### Instructions -/

/-- The first check of R193 that a descriptor fails. -/
def descFault (d : List Word) : Option Nat :=
  let w := dWord d
  let block := dBlock d
  let sb := isSb (dFmt d)
  if bits (w 0) 63 48 ≠ 0 ∨ bits (w 1) 63 48 ≠ 0 ∨ bits (w 2) 63 40 ≠ 0 ∨ bits (w 5) 63 45 ≠ 0 ∨ bitAt (w 5) 42 ∨ bitAt (w 5) 23 ∨
      bits (w 6) 63 48 ≠ 0 ∨ bits (w 7) 63 48 ≠ 0 ∨ 2 ≤ dMode d ∨ (!block ∧ (dFmt d ≠ 0 ∨ dB0 d ≠ 0 ∨ dSBase d ≠ 0)) ∨
      (block ∧ !sb ∧ dSBase d ≠ 0) then some eArgReserved
  else if block ∧ !anvilFmt (dFmt d) then some eBadFormat
  else if !block ∧ (dUnit d = 0 ∨ 64 < dUnit d) then some eArgRange
  else if block ∧ dUnit d ≠ 0 then some eArgRange
  else if dN0 d = 0 ∨ dN1 d = 0 ∨ dN2 d = 0 ∨ 2 ^ 40 ≤ dTotal d ∨ dDepth d = 0 ∨ 64 < dDepth d ∨ dHi d ≤ dLo d then some eArgRange
  else if dBase d % 64 ≠ 0 ∨ dLo d % 64 ≠ 0 ∨ (!block ∧ (dS0 d % 64 ≠ 0 ∨ dS1 d % 64 ≠ 0 ∨ dS2 d % 64 ≠ 0)) ∨ dSBase d % 16 ≠ 0 then
    some eArgAlign
  else none

/-- Eight words of 64 bytes. -/
def wordsOf (l : List Byte) : List Word := (pieces 8 8 l).map (fun b => BitVec.ofNat 64 (leNat b))

def slotIndex (f : RFields) : Nat := f.b.toNat % 16

/-- sD of the thread gets v and streams go on: claims that waited for this instruction are made. -/
def qAnswer (x : Cell) (t d : Nat) (v : Word) : Cell := assignClaims (settleSlots (setS x t d v))

/-- Q.LOAD. -/
def qLoad (free : Nat) (s : State) (c t : Nat) (e : Entry) (f : RFields) : State :=
  let x := getCell s c
  let q := slotIndex f
  let a := (sReg free x t f.a.toNat).toNat
  let sl := getSlot x q
  if sl.state = .running ∨ sl.state = .ended then setCell s c (qAnswer x t f.d.toNat (statusWord eBadState))
  else if a % 64 ≠ 0 ∨ 0x3FFC0 < a then faultAt s c e false a ePageFault
  else
    let d := wordsOf (localRead free x a 64)
    match descFault d with
    | some code => setCell s c (qAnswer x t f.d.toNat (statusWord code))
    | none => setCell s c (qAnswer (setSlot x q { sl with state := .loaded, desc := d, pos := 0 }) t f.d.toNat 0)

def execKQLoad (c t : Nat) (f : RFields) (s : State) : Out := onThread c t (issueR s c t 6 0x00 f (fun u e => qLoad s.free u c t e f))

/-- Bytes of the stream buffer that RUNNING streams take (R195). -/
def bufferUsed (x : Cell) : Nat :=
  ((List.range 16).map (fun q =>
    let s := getSlot x q
    if s.state = .running then dDepth s.desc * unitFootprint s.desc else 0)).sum

/-- Q.START. -/
def qStart (x : Cell) (t : Nat) (f : RFields) : Cell :=
  let q := slotIndex f
  let sl := getSlot x q
  if sl.state ≠ .loaded ∧ sl.state ≠ .ended then qAnswer x t f.d.toNat (statusWord eBadState)
  else if 65536 < bufferUsed x + dDepth sl.desc * unitFootprint sl.desc then qAnswer x t f.d.toNat (statusWord eArgRange)
  else
    qAnswer (setSlot x q { sl with state := .running, starter := t, gen := sl.gen + 1, nextUnit := 0, pos := 0, units := [], drops := 0 })
      t f.d.toNat 0

def execKQStart (c t : Nat) (f : RFields) (s : State) : Out :=
  onThread c t (issueR s c t 6 0x01 f (fun u _ => modCell u c (fun x => qStart x t f)))

/-- Q.STOP. -/
def qStop (x : Cell) (t : Nat) (f : RFields) : Cell :=
  let q := slotIndex f
  let sl := getSlot x q
  if sl.state ≠ .running ∧ sl.state ≠ .ended then qAnswer x t f.d.toNat (statusWord eBadState)
  else qAnswer (setSlot x q { sl with state := .loaded, gen := sl.gen + 1, units := [] }) t f.d.toNat 0

def execKQStop (c t : Nat) (f : RFields) (s : State) : Out :=
  onThread c t (issueR s c t 6 0x02 f (fun u _ => modCell u c (fun x => qStop x t f)))

/-- The portions that an entry claimed, in order; the first that faults decides. -/
def claimsGot (x : Cell) : List Claim → List (List Byte × List Byte) ⊕ (Nat × Nat)
  | [] => .inl []
  | k :: rest =>
    match claimGot x k with
    | .bad code a => .inr (code, a)
    | .wait => .inr (ePageFault, 0)
    | .data e sc =>
      match claimsGot x rest with
      | .inl l => .inl ((e, sc) :: l)
      | .inr b => .inr b

/-- An instruction takes its claims: `f` acts on the portions; a claim that faults is a job fault with SPACE = 1 (R197). -/
def takeClaims (s : State) (c : Nat) (e : Entry) (f : List (List Byte × List Byte) → Cell → Cell) : State :=
  let x := getCell s c
  match claimsGot x (e.claims.getD []) with
  | .inr (code, a) => faultAt s c e true a code
  | .inl l => setCell s c (assignClaims (settleSlots (f l x)))

def execKQPopS (c t : Nat) (f : RFields) (s : State) : Out :=
  onThread c t (issueR s c t 6 0x03 f (fun u e =>
    takeClaims u c e (fun l x => setS x t f.d.toNat (BitVec.ofNat 64 (leNat ((l.headD ([], [])).1))))))

/-- The status word of R209. -/
def qStatus (x : Cell) (q : Nat) : Word :=
  let s := getSlot x q
  let code := match s.state with | .empty => 0 | .loaded => 1 | .running => 2 | .ended => 3
  if s.state = .empty then statusWord eBadState
  else
    BitVec.ofNat 64 (fieldAt 57 code + fieldAt 56 (b2n (dVolatile s.desc)) +
      fieldAt 48 (if s.state = .running then (liveUnits s).length % 256 else 0) + fieldAt 40 (min s.drops 255) + nextUnitOf s % 2 ^ 40)

def execKQStatus (c t : Nat) (f : RFields) (s : State) : Out :=
  onThread c t (issueR s c t 6 0x04 f (fun u _ => modCell u c (fun x => setS x t f.d.toNat (qStatus x (slotIndex f)))))

/-! ### Which granules Bellows asks for next (R194) -/

/-- A request that Bellows may make: slot, unit, granule offsets in order, whether an instruction has claimed them. -/
structure Want where
  q : Nat
  k : Nat
  offs : List Nat
  demand : Bool
  deriving DecidableEq, Repr

/-- Granule offsets of unit k that a claim covers. -/
def claimOffs (x : Cell) (q k : Nat) (cl : Claim) : List Nat :=
  let s := getSlot x q
  match cl with
  | .unit _ _ => unitOffs s.desc
  | .bytes _ pos n => (unitOffs s.desc).filter (fun off => decide (pos < k * dBytes s.desc + off + 64 ∧ k * dBytes s.desc + off < pos + n))
  | .bad _ => []

def claimSlot : Claim → Nat
  | .unit q _ => q
  | .bytes q _ _ => q
  | .bad q => q

/-- What a claim still waits for of a unit: granules not requested, or dropped; all of them when the unit has not been begun. -/
def missingOffs (x : Cell) (q k : Nat) (cl : Claim) : List Nat :=
  let s := getSlot x q
  let offs := claimOffs x q k cl
  if (unitIn s.desc k).isNone then []
  else
    match s.units.find? (fun u => decide (u.k = k)) with
    | none => offs
    | some u => if u.poisoned then [] else offs.filter (fun o => u.want.contains o || u.drop.contains o)

/-- A write of the cell to the granule is on its way to its target: the granule is fetched after it has been performed (R88, R203). -/
def ownPending (x : Cell) (q k off : Nat) : Bool :=
  match unitIn (getSlot x q).desc k with
  | some p => x.flights.any (fun f => decide (f.kind = .store) && !f.arrived && rangesMeet f.ranges [(offAddr p off / 64 * 64, 64)])
  | none => false

/-- Fetches at claim and refetches that a claim waits on, oldest claim first. -/
def demandWant (x : Cell) : Option Want :=
  (openClaims x).findSome? (fun cl =>
    let q := claimSlot cl
    (claimUnits x q cl).findSome? (fun k =>
      let offs := (missingOffs x q k cl).filter (fun o => !ownPending x q k o)
      if offs.isEmpty then none else some ⟨q, k, offs, true⟩))

/-- Run-ahead of slot q: a refetch of a unit begun, else the next unit within DEPTH of consumption; units out of bounds are passed
over (R196). -/
def aheadOf (x : Cell) (q : Nat) : Nat → Nat → Option Want
  | 0, _ => none
  | fuel + 1, k =>
    let s := getSlot x q
    if dTotal s.desc ≤ k ∨ nextUnitOf s + dDepth s.desc ≤ k then none
    else
      let offs := match s.units.find? (fun u => decide (u.k = k)) with
        | some u => if u.poisoned then [] else u.want
        | none => if (unitIn s.desc k).isNone then [] else unitOffs s.desc
      let now := offs.filter (fun o => !ownPending x q k o)
      if offs.isEmpty then aheadOf x q fuel (k + 1) else if now.isEmpty then none else some ⟨q, k, now, false⟩

def aheadWant (x : Cell) : Option Want :=
  (List.range 16).findSome? (fun i =>
    let q := (x.bellowsPtr + i) % 16
    let s := getSlot x q
    if s.state = .running then aheadOf x q 66 (nextUnitOf s) else none)

/-- The offsets that one request covers from the first on: granules one after the other, within one 256-byte line. -/
def oneRequest (p : Nat × Option Nat) : List Nat → List Nat
  | [] => []
  | o :: rest =>
    if o = 4096 then [o]
    else
      o :: (([1, 2, 3].map (fun i => o + 64 * i)).takeWhile (fun r =>
        rest.contains r && decide (r ≠ 4096 ∧ offAddr p r / 256 = offAddr p o / 256)))

/-! ### Dropping and faulting -/

/-- The unit is begun: it stands in the slot, all its granules to be requested. -/
def openUnit (s : Slot) (k : Nat) : Slot :=
  let s := { s with nextUnit := max s.nextUnit (k + 1) }
  if s.units.any (fun u => decide (u.k = k)) then s
  else { s with units := s.units ++ [{ k := k, got := [], want := unitOffs s.desc, drop := [], counted := false, poisoned := false, faults := [] }] }

def modUnit (x : Cell) (q k : Nat) (f : SUnit → SUnit) : Cell :=
  let s := getSlot x q
  setSlot x q { s with units := s.units.map (fun u => if u.k = k then f u else u) }

/-- The granules have been requested. -/
def requested (offs : List Nat) (u : SUnit) : SUnit :=
  { u with want := u.want.filter (fun o => !offs.contains o), drop := u.drop.filter (fun o => !offs.contains o) }

/-- The row of R199 that a run-ahead fetch at an address meets: 0 ABSENT, 1 NOACCESS, 2 NOSPEC, 3 WINDOW. -/
def dropRow (s : State) (jb : Job) (item : Option Nat) (d : Nat) (remoteOk : Bool) (va : Nat) : Option Nat :=
  match walk jb item va with
  | .absent => some 0
  | .sync _ => some 1
  | .leaf l =>
    if !l.r then some 1
    else if l.ns then some 2
    else
      match l.target with
      | .fabric f => if f / 2 ^ 40 % 256 = 255 then some 1 else if remoteOk then none else some 3
      | .phys a =>
        if hostBase ≤ a ∧ a < hostEnd ∧ !remoteOk then some 3
        else if (checkPhys s d (a + va % 65536)).isSome then some 0
        else none

/-- The granules are dropped; the unit counts once (R199). -/
def dropUnit (x : Cell) (q k row : Nat) (offs : List Nat) : Cell :=
  let s := getSlot x q
  match s.units.find? (fun u => decide (u.k = k)) with
  | none => x
  | some u =>
    let x := modUnit x q k (fun u => { requested offs u with drop := u.drop ++ offs, counted := true })
    if u.counted then x
    else
      let s := getSlot x q
      { setSlot x q { s with drops := satAdd 255 s.drops 1 } with
        qdrop := x.qdrop.mapIdx (fun i v => if i = row then satAdd 0xFFFF v 1 else v) }

/-! ### Requests -/

/-- A page-in that run-ahead asks for counts (R200, R210). -/
def countPageIn (s : State) (c va : Nat) : State :=
  let x := getCell s c
  let jb := getJob s x.ctx
  match walk jb x.item va with
  | .leaf l =>
    if l.rm ∧ l.loc = 1 ∧ !jb.moves.any (fun m => decide (l.target = .phys m.fromAddr)) then
      modCell s c (fun x => { x with qdefer := [x.qdefer.getD 0 0, wrap32 (x.qdefer.getD 1 0 + 1)] })
    else s
  | _ => s

/-- Bytes that have come for a request to another package; with the last of them the request has arrived. -/
def gotRaw (m : Map Byte) (r : BellowsReq) : BellowsReq :=
  if m.length < (r.offs.map offLen).sum then { r with raw := m }
  else
    let first := r.offs.headD 0
    { r with raw := m, parts := r.parts.map (fun p => (p.1, (List.range (offLen p.1)).map (fun i => mget 0 m (p.1 - first + i)))), arrived := true }

def modReq (x : Cell) (id : Nat) (f : BellowsReq → BellowsReq) : Cell :=
  { x with bellows := x.bellows.map (fun r => if r.id = id then f r else r) }

/-- A request for checked pieces goes out: bytes of this package are read now, a fabric page is asked by an RD, combinable for an
IMMUTABLE stream (R363). -/
def sendWant (s : State) (c : Nat) (w : Want) (p : Nat × Option Nat) (offs : List Nat) (ps : List Piece) (bad : Bool) : State :=
  let x := getCell s c
  let id := x.nextReq
  let sl := getSlot x w.q
  let remote := hasFabric ps
  let parts := offs.map (fun o =>
    (o, match ps with
        | ⟨va, _, .phys a⟩ :: _ => if remote then [] else physRead s (a + (offAddr p o - va)) (offLen o)
        | _ => []))
  let r : BellowsReq :=
    { id := id, q := w.q, gen := sl.gen, k := w.k, offs := offs, parts := parts, bad := bad, demand := w.demand, remote := remote, arrived := false, raw := [] }
  let s := setCell s c { modUnit x w.q w.k (requested offs) with bellows := x.bellows ++ [r], nextReq := id + 1 }
  match ps with
  | ⟨_, n, .fabric a⟩ :: _ =>
    if coherentAt (getJob s x.ctx) a then
      let t := readLines s x.ctx (fun k => .bellows c id k) [] a n 0
      modCell t.1 c (fun x => modReq x id (gotRaw t.2))
    else sendReads s (dieOfCell c) (cellEpoch s c) (!dVolatile sl.desc) x.ctx (fun k => .bellows c id k) 4 a n 0
  | _ => s

/-- The address recorded when a fetch at claim fails (R201). -/
def partFaultAddr (p : Nat × Option Nat) (off : Nat) : Nat :=
  if off = 4096 then (if 2 ^ 48 ≤ p.2.getD 0 then p.1 else p.2.getD 0) else p.1

/-- A fetch of granules at a claim has failed. -/
def faultGranules (offs : List Nat) (code addr : Nat) (u : SUnit) : SUnit :=
  { requested offs u with faults := offs.foldl (fun m o => mput o (code, addr) m) u.faults }

/-- One request for the leading granules of what Bellows wants. -/
def bellowsFetch (s : State) (c : Nat) (w : Want) : State :=
  let x := getCell s c
  let sl := openUnit (getSlot x w.q) w.k
  match unitIn sl.desc w.k with
  | none => s
  | some p =>
    let s := setCell s c { setSlot x w.q sl with bellowsPtr := if w.demand then x.bellowsPtr else (w.q + 1) % 16 }
    let offs := oneRequest p w.offs
    let off := offs.headD 0
    let va := offAddr p off
    let n := (offs.map offLen).sum
    let jb := getJob s x.ctx
    let d := dieOfCell c
    if w.demand then
      match checkAccess s jb x.item d .rd [(va, n)] with
      | .bad code _ =>
        let s := if code = eUncorrectable then meetRanges s jb x.item [(va, n)] else s
        modCell s c (fun x => modUnit x w.q w.k (faultGranules offs code (partFaultAddr p off)))
      | .wait => recallRange s jb .rd va n
      | .ok ps => sendWant (touchRanges (meetPieces s ps) (some c) x.ctx x.item d [(va, n)]) c w p offs ps false
    else
      match (if 2 ^ 48 ≤ va then some 0 else dropRow s jb x.item d (dRemoteOk sl.desc) va) with
      | some row => modCell s c (fun x => dropUnit x w.q w.k row offs)
      | none =>
        let s := touchRanges (countPageIn s c va) (some c) x.ctx x.item d [(va, n)]
        match walk (getJob s x.ctx) x.item va with
        | .leaf l =>
          match l.target with
          | .fabric f => sendWant s c w p offs [⟨va, n, .fabric (f + va % 65536)⟩] false
          | .phys a =>
            let a := a + va % 65536
            let bad := uncorrectableIn s a n
            sendWant (meetErrors s a n) c w p offs [⟨va, n, .phys a⟩] bad
        | _ => s

/-- Bellows issues one request (R194); none while 96 are in flight (R207). -/
def execBellowsRequest (c : Nat) (s : State) : Out :=
  onUnit (cellOk c)
    (let x := getCell s c
     if !cellLive s c ∨ 96 ≤ x.bellows.length then s
     else
       match (demandWant x).or (aheadWant x) with
       | some w => bellowsFetch s c w
       | none => s)

/-! ### Data -/

/-- The bytes of a request reach the unit, unless the stream has gone on to another generation; an error marks the unit (R202). -/
def arriveData (x : Cell) (r : BellowsReq) : Cell :=
  let x := { x with bellows := x.bellows.filter (fun b => decide (b.id ≠ r.id)) }
  let s := getSlot x r.q
  if s.state ≠ .running ∨ s.gen ≠ r.gen then x
  else
    match s.units.find? (fun u => decide (u.k = r.k)) with
    | none => x
    | some u =>
      let x := modUnit x r.q r.k (fun u => { u with got := r.parts.foldl (fun g p => localPut g p.1 p.2) u.got, poisoned := u.poisoned || r.bad })
      if r.bad ∧ !u.poisoned then { x with qdefer := [satAdd 0xFFFF (x.qdefer.getD 0 0) 1, x.qdefer.getD 1 0] } else x

def execBellowsDataReturn (c id : Nat) (s : State) : Out :=
  onUnit (cellOk c)
    (match (getCell s c).bellows.find? (fun r => decide (r.id = id)) with
     | some r => if r.remote ∧ !r.arrived then s else modCell s c (fun x => arriveData x r)
     | none => s)

end Sys2Proof.Machine
end

