-- ==== Sys2Proof/Machine/VecMem.lean ====
section
/-!
DEFINITION. Machine/VecMem.lean: the VMEM instructions (R84, R148, R149).
-/
namespace Sys2Proof.Machine

def issueVM (s : State) (c t op : Nat) (f : VMFields) (g : State → Entry → State) : State := issue s c t (encVM 9 op f) g

/-- Tiles that a VLD writes or a VST reads. -/
def tileCount (fmt : Nat) : Nat := if isSb fmt then 4 else 1

/-- F32 codes of values that F32 holds exactly, or a conversion rounds to nearest even and saturates (R47, R48). -/
def f32Codes (l : List FVal) : List Nat := l.map (fun v => (cvtF32 v).toNat)

/-- What a VLD makes of the bytes read (R148): `old` are the destination's bytes, `m` the mask. -/
def vldBytes (w : Word) (m : BitVec 1024) (old data : List Byte) : List Byte :=
  let fmt := wFmt w
  if isSb fmt then
    let vals := f32Codes (blockVals fmt (data.take (blockBytes fmt)) (data.drop (blockBytes fmt)))
    let olds := (pieces 1024 4 old).map (viewElems 0)
    let oldBlock := (List.range 1024).map (fun i => (olds.getD (tileOf i).1 []).getD (tileOf i).2 0)
    (blockGroup (underMask m (wMz w) (fun i => i) oldBlock vals)).flatten
  else
    let vals := if fmt = 0 then unpack 32 256 data else f32Codes ((unpack (fmtBits fmt) 256 data).map (decodeElem fmt))
    packElems 32 (underMask m (wMz w) (fun i => i) (viewElems 0 old) vals)

/-- The bytes that a global load writes to its destination, from the bytes read (R78, R84, R148). -/
def finishLoad (f : Flight) (data : List Byte) : List Byte :=
  if wClass f.word = 9 then (if wOp f.word = 0 then vldBytes f.word f.mask f.old data else data) else widen f.word data

/-! ### Loads -/

def tilesFrom (free : Nat) (x : Cell) (n k : Nat) : List Byte := (List.range k).flatMap (fun i => tileBytes free x (n + i))

def tileSpans (fmt : Nat) (rs : List (Nat × Nat)) : List Extent := if isSb fmt then partSpans rs else rowSpans rs

/-- The alignment of tile ranges: rows at 64 bytes, a scale part at 16 (R84, R148). -/
def tileMisaligned (fmt : Nat) (rs : List (Nat × Nat)) : Option Nat :=
  if isSb fmt then (misaligned 64 (rs.take 1)).or (misaligned 16 (rs.drop 1)) else misaligned 64 rs

def loadTile (s : State) (c : Nat) (e : Entry) (free : Nat) : State :=
  let x := getCell s c
  let w := e.word
  let rs := tileRanges free x e.thread w
  let old := tilesFrom free x (wD w) (tileCount (wFmt w))
  let m := maskReg free x (wMask w)
  match tileMisaligned (wFmt w) rs with
  | some _ => faultSpots s c e (wSpace w) .rd false (tileSpans (wFmt w) rs)
  | none =>
    if wSpace w then
      globalAccess s c e .rd rs (fun s ps =>
        let fl := { newFlight e .load (some (resT (wD w))) with old := old, mask := m }
        startRead s c fl ps (finishLoad fl))
    else
      localAccess s c e false rs (fun x =>
        let data := vldBytes w m old (localReads free x rs)
        setTiles x (wD w) (pieces 1024 (data.length / 1024) data))

def execKVld (c t : Nat) (f : VMFields) (s : State) : Out := onThread c t (issueVM s c t 0x00 f (fun u e => loadTile u c e s.free))

def execKVldQ (c t : Nat) (f : VMFields) (s : State) : Out :=
  onThread c t (issueVM s c t 0x02 f (fun u e =>
    takeClaims u c e (fun l x =>
      let old := tileBytes s.free x f.d.toNat
      setTile x f.d.toNat (vldBytes e.word (maskReg s.free x f.mask.toNat) old ((l.headD ([], [])).1)))))

/-! ### Stores -/

/-- Register C of a VST with SR: bits [36:32] of the word, so s0, or s16 where SPACE is 1 (R71, R73, R84, log 15). -/
def stIndex (free : Nat) (x : Cell) (e : Entry) : Word := if wRnd e.word = 2 then sReg free x e.thread (wC e.word) else 0

/-- Rounding of element i of a row of width `w`. -/
def stRnd (s : State) (x : Cell) (e : Entry) (free w i : Nat) : Rnd :=
  rndAt s x (streamOf x e.thread) (stIndex free x e) (wRnd e.word) w (i / w) (i % w)

/-- The bytes of a VST and which of them are written, in the order of its ranges (R148). -/
def vstBytes (s : State) (x : Cell) (e : Entry) (free : Nat) : List (Byte × Bool) :=
  let w := e.word
  let fmt := wFmt w
  let m := maskReg free x (wMask w)
  if isSb fmt then
    let el := (groupBlock free x (wD w)).mapIdx (fun i v => if m.getLsbD i then FQuo.val (decodeF fF32 v) else .val (.fin false 0 0))
    let r := encodeBlock fmt (stRnd s x e free 32) el
    (r.1 ++ r.2).map (fun b => (b, true))
  else
    let el := viewElems 0 (tileBytes free x (wD w))
    let codes := el.mapIdx (fun i v =>
      if !m.getLsbD i then 0 else if fmt = 0 then v else convertTo fmt (stRnd s x e free 16 i) (.val (decodeF fF32 v)))
    let bytes := pack (fmtBits fmt) codes
    bytes.mapIdx (fun k b =>
      (b, wMz w || (if fmtBits fmt = 4 then m.getLsbD (2 * k) || m.getLsbD (2 * k + 1) else m.getLsbD (8 * k / fmtBits fmt))))

/-- The written bytes of ranges as runs of address and bytes. -/
def runsOf (rs : List (Nat × Nat)) (l : List (Byte × Bool)) : List (Nat × List Byte) :=
  let addrs := rs.flatMap (fun r => (List.range r.2).map (fun i => r.1 + i))
  (addrs.zip l).foldr (fun e acc =>
    if !e.2.2 then acc
    else
      match acc with
      | (a, bs) :: rest => if e.1 + 1 = a then (e.1, e.2.1 :: bs) :: rest else (e.1, [e.2.1]) :: acc
      | [] => [(e.1, [e.2.1])]) []

/-- A store of runs within checked rows: every row is checked, the runs are written. -/
def storeRuns (s : State) (c : Nat) (e : Entry) (glob : Bool) (rs : List (Nat × Nat)) (runs : List (Nat × List Byte)) : State :=
  if glob then
    globalAccess s c e .wr rs (fun s _ =>
      let x := getCell s c
      let ws := runs.map (fun r => (r.1, r.2.length))
      match checkAccess s (getJob s x.ctx) x.item (dieOfCell c) .wr ws with
      | .ok ps => startWrite s c (newFlight e .store none) ws ps (runs.flatMap (·.2))
      | _ => s)
  else localAccess s c e true rs (fun x => runs.foldl (fun x r => localWrite x r.1 r.2) x)

def storeTile (s : State) (c : Nat) (e : Entry) (free : Nat) : State :=
  let x := getCell s c
  let w := e.word
  let rs := tileRanges free x e.thread w
  match tileMisaligned (wFmt w) rs with
  | some _ => faultSpots s c e (wSpace w) .wr false (tileSpans (wFmt w) rs)
  | none => storeRuns s c e (wSpace w) rs (runsOf rs (vstBytes s x e free))

def execKVst (c t : Nat) (f : VMFields) (s : State) : Out := onThread c t (issueVM s c t 0x01 f (fun u e => storeTile u c e s.free))

/-! ### Masks -/

def loadMask (s : State) (c : Nat) (e : Entry) (free : Nat) : State :=
  let x := getCell s c
  let a := (tileAddr free x e.thread e.word).toNat
  if a % 64 ≠ 0 then faultAt s c e (wSpace e.word) a ePageFault
  else if wSpace e.word then
    globalAccess s c e .rd [(a, 128)] (fun s ps => startRead s c (newFlight e .load (some (resM (wD e.word)))) ps (fun l => l))
  else localAccess s c e false [(a, 128)] (fun x => setMask x (wD e.word) (BitVec.ofNat 1024 (leNat (localRead free x a 128))))

def storeMask (s : State) (c : Nat) (e : Entry) (free : Nat) : State :=
  let x := getCell s c
  let a := (tileAddr free x e.thread e.word).toNat
  if a % 64 ≠ 0 then faultAt s c e (wSpace e.word) a ePageFault
  else storeRuns s c e (wSpace e.word) [(a, 128)] [(a, leBytes 128 (maskReg free x (wD e.word)).toNat)]

def execKVldm (c t : Nat) (f : VMFields) (s : State) : Out := onThread c t (issueVM s c t 0x04 f (fun u e => loadMask u c e s.free))
def execKVstm (c t : Nat) (f : VMFields) (s : State) : Out := onThread c t (issueVM s c t 0x05 f (fun u e => storeMask u c e s.free))

end Sys2Proof.Machine
end

