-- ==== Sys2Proof/Machine/Anvil.lean ====
section
/-!
DEFINITION. Machine/Anvil.lean: MMA and MMA.Z, Tongs, the chunks that land (R100 to R116, R121 to R126).
-/
namespace Sys2Proof.Machine

/-! ### Operands -/

/-- The three BF16 pieces of an F32 element (R125); NaN and infinities pass whole as the first. -/
def splitF32 (a : FVal) : List FVal :=
  if !finite a then [a, .fin false 0 0, .fin false 0 0]
  else
    let bf := fun (v : FVal) => decodeF fBF16 (convertF fBF16 .rne (.val v))
    let a1 := bf a
    let a2 := bf (f32 (toF32 (fvSub a a1)))
    let a3 := bf (f32 (toF32 (fvSub (f32 (toF32 (fvSub a a1))) a2)))
    [a1, a2, a3]

/-- The pieces of A′ and B′ that pass p multiplies, counted from 0 (R126). -/
def passPieces (p : Nat) : Nat × Nat :=
  match p with
  | 0 => (2, 0)
  | 1 => (0, 2)
  | 2 => (1, 1)
  | 3 => (1, 0)
  | 4 => (0, 1)
  | _ => (0, 0)

/-- Landings of an MMA: four chunks, six times over for F32 (R126). -/
def landings (w : Word) : Nat := if xFmtA w = 0 then 24 else 4

/-- The value of an operand element in landing k. -/
def pieceOf (fmt : Nat) (n : Nat) (v : FVal) : FVal := if fmt = 0 then (splitF32 v).getD n .nan else v

/-- Element (r, k) of an operand, or of its transpose (R100, R109). -/
def oriented (tr : Bool) (l : List FVal) (r k : Nat) : FVal := if tr then l.getD (32 * k + r) .nan else l.getD (32 * r + k) .nan

/-- The exact sum of chunk q for output element (r, n) (R100, R106). -/
def chunkSum (w : Word) (va vb : List FVal) (q r n : Nat) : FVal :=
  fvSum ((List.range 8).map (fun i => fvMul (oriented (xOrA w) va r (8 * q + i)) (oriented (xOrB w) vb (8 * q + i) n)))

/-- A tile element after a chunk lands (R100, R102, R108). An infinite S under a scaleC of ±0 gives NaN: R106 says only that it stays
non-finite (DESIGN CHOICE, log 103). -/
def landElem (old : F32) (sum scaleC : FVal) : F32 :=
  if sum.isZero && finite scaleC then old else addF32 old (toF32 (fvMul sum scaleC))

/-- The tile after landing `k` of a run: enabled rows take the chunk; the first landing of MMA.Z starts from +0 in every row
(R100, R113). -/
def landTile (run : MatRun) (k : Nat) (tile : List F32) : List F32 :=
  let w := run.word
  let p := passPieces (k / 4)
  let va := (blockVals (xFmtA w) (run.bytesA.take (blockBytes (xFmtA w))) (run.bytesA.drop (blockBytes (xFmtA w)))).map (pieceOf (xFmtA w) p.1)
  let vb := (blockVals (xFmtB w) (run.bytesB.take (blockBytes (xFmtB w))) (run.bytesB.drop (blockBytes (xFmtB w)))).map (pieceOf (xFmtB w) p.2)
  tile.mapIdx (fun i old =>
    let old := if wOp w = 1 ∧ k = 0 then 0 else old
    if run.rows.getLsbD (i / 32) then landElem old (chunkSum w va vb (k % 4) (i / 32) (i % 32)) (scaleVal run.scaleC) else old)

/-! ### Issue (R110, R112 to R114) -/

/-- The bytes of both operands: what Tongs holds, or the blocks claimed of streams, A before B. -/
def operandBytes (w : Word) (e : Entry) (l : List (List Byte × List Byte)) : List Byte × List Byte :=
  let st := l.map (fun b => b.1 ++ b.2)
  let a := if xSrcA w then st.headD [] else e.opA.getD []
  let b := if xSrcB w then (if xSrcA w then st.getD 1 [] else st.headD []) else e.opB.getD []
  (a, b)

/-- An MMA issues; a suppressed one takes its stream blocks and leaves its tile, or sets it to +0 (R114). -/
def startMma (free : Nat) (s : State) (c : Nat) (e : Entry) : State :=
  let w := e.word
  let x := getCell s c
  let regC := sReg free x e.thread (wC w)
  takeClaims s c e (fun l x =>
    if suppressed free x e.thread w then (if wOp w = 1 then setAcc x (xAcc w) (List.replicate 1024 0) else x)
    else
      let ops := operandBytes w e l
      let run : MatRun :=
        { stamp := e.stamp, word := w, scaleC := (regC >>> 32).setWidth 32, rows := if xMsk w = 1 then regC.setWidth 32 else -1#32
          bytesA := ops.1, bytesB := ops.2, chunk := 0 }
      { x with runs := x.runs ++ [run] })

def issueX (s : State) (c t op : Nat) (f : XFields) : State := issue s c t (encX 0xC op f) (fun u e => startMma s.free u c e)

def execKMma (c t : Nat) (f : XFields) (s : State) : Out := onThread c t (issueX s c t 0x00 f)
def execKMmaZ (c t : Nat) (f : XFields) (s : State) : Out := onThread c t (issueX s c t 0x01 f)

/-! ### Chunks that land (R116) -/

def landChunk (free : Nat) (x : Cell) : Cell :=
  match x.runs with
  | [] => x
  | run :: rest =>
    let a := xAcc run.word
    let x := setAcc x a (landTile run run.chunk (accTile free x a))
    { x with runs := if run.chunk + 1 = landings run.word then rest else { run with chunk := run.chunk + 1 } :: rest }

def execAnvilChunkLand (c : Nat) (s : State) : Out :=
  onUnit (cellOk c) (if cellLive s c then (if (getCell s c).runs.isEmpty then s else draw (modCell s c (landChunk s.free))) else s)

/-! ### Tongs (R110, R112) -/

/-- The operand is held. -/
def holdOperand (x : Cell) (e : Entry) (isB : Bool) (l : List Byte) : Cell :=
  putEntry x (if isB then { e with opB := some l } else { e with opA := some l })

/-- Tongs reads the ranges of an address-form operand: local bytes at once, global ones after the checks of R161; the host window is no
place for an operand (R182). -/
def readOperand (free : Nat) (s : State) (c : Nat) (e : Entry) (isB : Bool) (f : Foot) : State :=
  match (misaligned 64 (f.ranges.take 1)).or (misaligned 16 (f.ranges.drop 1)) with
  | some _ => faultSpots s c e f.glob .rd f.glob (partSpans f.ranges)
  | none =>
    if f.glob then
      blockAccess s c e .rd f.ranges (fun s ps =>
        if hasFabric ps then
          let fl := newFlight e (if isB then .opB else .opA) none
          let r := fetchPieces s c false (fun k => .operand c e.stamp isB k) ps 0 []
          let here := decide (r.2.1.length = r.2.2)
          modCell r.1 c (fun x =>
            addFlight x { fl with raw := r.2.1, need := r.2.2, arrived := here, data := if here then rawBytes r.2.1 r.2.2 else []
                                  ranges := f.ranges })
        else modCell s c (fun x => holdOperand x e isB (readPieces s ps)))
    else localAccess s c e false f.ranges (fun x => holdOperand x e isB (localReads free x f.ranges))

def opKind (isB : Bool) : FKind := if isB then .opB else .opA

/-- The oldest MAT entry is the one that Tongs fetches for. -/
def tongsEntry (x : Cell) : Option Entry := x.mat.find? (fun e => decide (wClass e.word = 0xC))

def execTongsOperandArrival (c : Nat) (isB : Bool) (s : State) : Out :=
  onUnit (cellOk c)
    (let x := getCell s c
     match tongsEntry x with
     | none => s
     | some e =>
       if !cellLive s c ∨ (if isB then e.opB else e.opA).isSome then s
       else
         match x.flights.find? (fun f => decide (f.stamp = e.stamp ∧ f.kind = opKind isB)) with
         | some f =>
           if f.arrived then
             modCell s c (fun x => holdOperand { x with flights := x.flights.filter (fun g => decide (g.stamp ≠ f.stamp ∨ g.kind ≠ f.kind)) } e isB f.data)
           else s
         | none =>
           match operandFoot s.free x e.thread e.word isB with
           | some f => if regsReady x e && orderReady s c x e then readOperand s.free (draw s) c e isB f else s
           | none => s)

end Sys2Proof.Machine
end

