-- ==== Sys2Proof/Machine/MemInstr.lean ====
section
/-!
DEFINITION. Machine/MemInstr.lean: the MEM instructions (R78), the Hearth's atomics (R292, R361).
-/
namespace Sys2Proof.Machine

def issueM (s : State) (c t cls op : Nat) (f : MFields) (g : State → Entry → State) : State := issue s c t (encM cls op f) g

/-! ### Loads and stores -/

/-- A scalar load: LD, LDS, LDX. -/
def loadScalar (s : State) (c : Nat) (e : Entry) (free : Nat) : State :=
  let x := getCell s c
  let w := e.word
  let a := (memAddr free x e.thread w).toNat
  let n := 2 ^ wSize w
  if a % n ≠ 0 then faultAt s c e (wSpace w) a ePageFault
  else if wSpace w then
    globalAccess s c e .rd [(a, n)] (fun s ps => startRead s c (newFlight e .load (some (resS e.thread (wD w)))) ps (widen w))
  else
    localAccess s c e false [(a, n)] (fun x =>
      let x := setS x e.thread (wD w) (BitVec.ofNat 64 (leNat (widen w (localRead free x a n))))
      if isAcquire w then acquireStreams x e.thread e.stamp else x)

/-- The seal word of slot i of a ring (R217). -/
def sealAddr (base u i : Nat) : Nat := base + (i + 1) * u - 8

/-- An 8-byte local store to a seal word: with FULL it seals a transmit slot; with 0 it releases a receive slot, which returns a
credit (R218, R219). -/
def sealStore (jb : Job) (x : Cell) (a : Nat) (v : Word) (wasFull : Bool) : Cell :=
  let x := (List.range 8).foldl (fun x p =>
    let pt := getTx x p
    match (if pt.valid then jb.image.chans[pt.chan]? else none) with
    | none => x
    | some ch =>
      match (List.range ch.k).find? (fun i => decide (sealAddr ch.txAddr ch.u i = a)) with
      | some i => if v.getLsbD 0 then setTx x p { pt with sealed := pt.sealed ++ [i] } else x
      | none => x) x
  (List.range 8).foldl (fun x p =>
    let pt := getRx x p
    match (if pt.valid then jb.image.chans[pt.chan]? else none) with
    | none => x
    | some ch =>
      if v = 0 ∧ wasFull ∧ (List.range ch.k).any (fun i => decide (sealAddr ch.rxAddr ch.u i = a)) then
        setRx x p { pt with creditsBack := pt.creditsBack + 1 }
      else x) x

/-- A scalar store: ST, STX. -/
def storeScalar (s : State) (c : Nat) (e : Entry) (free : Nat) : State :=
  let x := getCell s c
  let w := e.word
  let a := (memAddr free x e.thread w).toNat
  let n := 2 ^ wSize w
  let v := sReg free x e.thread (wD w)
  let l := leBytes n v.toNat
  if a % n ≠ 0 then faultAt s c e (wSpace w) a ePageFault
  else if wSpace w then globalAccess s c e .wr [(a, n)] (fun s ps => startWrite s c (newFlight e .store none) [(a, n)] ps l)
  else
    localAccess s c e true [(a, n)] (fun x =>
      let wasFull := bitAt (localByte free x a).toNat 0
      let x := localWrite x a l
      let x := if n = 8 then sealStore (getJob s x.ctx) x a v wasFull else x
      if isAcquire w then acquireStreams x e.thread e.stamp else x)

def execKLd (c t : Nat) (f : MFields) (s : State) : Out := onThread c t (issueM s c t 3 0x00 f (fun u e => loadScalar u c e s.free))
def execKLds (c t : Nat) (f : MFields) (s : State) : Out := onThread c t (issueM s c t 3 0x01 f (fun u e => loadScalar u c e s.free))
def execKSt (c t : Nat) (f : MFields) (s : State) : Out := onThread c t (issueM s c t 3 0x02 f (fun u e => storeScalar u c e s.free))
def execKLdx (c t : Nat) (f : MFields) (s : State) : Out := onThread c t (issueM s c t 3 0x03 f (fun u e => loadScalar u c e s.free))
def execKStx (c t : Nat) (f : MFields) (s : State) : Out := onThread c t (issueM s c t 3 0x04 f (fun u e => storeScalar u c e s.free))

/-! ### Atomics -/

/-- AOP of an ATOM packet (R350). -/
def AtomOp.aop : AtomOp → Nat
  | .add => 1 | .min => 2 | .max => 3 | .xchg => 4 | .cas => 5 | .fadd => 6 | .xs => 7

/-- Hardware marks every AADD and AXS to a fabric address combinable (R363). -/
def AtomOp.combines : AtomOp → Bool
  | .add | .xs => true
  | _ => false

/-- The ATOM packet of a request (R350). -/
def atomPacket (op : AtomOp) (comb : Bool) (epoch : BitVec 16) (addr size : Nat) (a b : Word) : Packet :=
  { fabPacket .atom epoch addr with
    w3 := BitVec.ofNat 64 (fieldAt 60 op.aop + fieldAt 58 size + fieldAt 57 (b2n comb) + fieldAt 50 1)
    payload := leBytes 8 a.toNat ++ leBytes 8 b.toNat }

/-- An atomic goes to its home Hearth (R291), or over the fabric (R361). -/
def startAtomic (s : State) (c : Nat) (e : Entry) (op : AtomOp) (free : Nat) : State :=
  let x := getCell s c
  let w := e.word
  let a := (memAddr free x e.thread w).toNat
  let n := memSize w
  let va := sReg free x e.thread (wB w)
  let vb := sReg free x e.thread (wD w)
  if a % 2 ^ wSize w ≠ 0 then faultAt s c e true a ePageFault
  else
    globalAccess s c e .atom [(a, n)] (fun s ps =>
      let fl := newFlight e .atom (if op = .xs then none else some (resS e.thread (wD w)))
      match ps with
      | ⟨_, _, .fabric f⟩ :: _ =>
        let s := modCell s c (fun x => addFlight x { fl with need := 1 })
        let j := (getCell s c).ctx
        let coh := coherentAt (getJob s j) f
        let comb := op.combines && !coh
        sendRequest s (if coh then lineDie f else dieOfCell c) (atomPacket op comb (cellEpoch s c) f (wSize w) va vb)
          (if coh then 3 else combCls comb) j (.cell c e.stamp 0)
      | _ =>
        let parts := ps.filterMap (fun p => match p.target with | .phys a => some (a, p.len) | .fabric _ => none)
        let d := dieOfAddr s ((parts.headD (0, 0)).1)
        let s := modCell s c (fun x => addFlight x fl)
        let r : HearthReq := { op := op, parts := parts, a := va, b := vb, width := n, cell := some (c, e.stamp), fabric := none }
        modStore s d (fun y => { y with hearthQ := y.hearthQ ++ [r] }))

def execKAadd (c t : Nat) (f : MFields) (s : State) : Out := onThread c t (issueM s c t 3 0x10 f (fun u e => startAtomic u c e .add s.free))
def execKAfaddF32 (c t : Nat) (f : MFields) (s : State) : Out := onThread c t (issueM s c t 3 0x11 f (fun u e => startAtomic u c e .fadd s.free))
def execKAxs (c t : Nat) (f : MFields) (s : State) : Out := onThread c t (issueM s c t 3 0x12 f (fun u e => startAtomic u c e .xs s.free))
def execKAmin (c t : Nat) (f : MFields) (s : State) : Out := onThread c t (issueM s c t 3 0x13 f (fun u e => startAtomic u c e .min s.free))
def execKAmax (c t : Nat) (f : MFields) (s : State) : Out := onThread c t (issueM s c t 3 0x14 f (fun u e => startAtomic u c e .max s.free))
def execKAxchg (c t : Nat) (f : MFields) (s : State) : Out := onThread c t (issueM s c t 3 0x15 f (fun u e => startAtomic u c e .xchg s.free))
def execKAcas (c t : Nat) (f : MFields) (s : State) : Out := onThread c t (issueM s c t 3 0x16 f (fun u e => startAtomic u c e .cas s.free))

end Sys2Proof.Machine
end

