-- ==== Sys2Proof/Machine/SyncInstr.lean ====
section
/-!
DEFINITION. Machine/SyncInstr.lean: the SYN instructions (R79, R277).
-/
namespace Sys2Proof.Machine

/-! ### Fences (R89) -/

/-- The thread enters DRAIN until its fence completes. -/
def startFence (s : State) (c : Nat) (e : Entry) (cell : Bool) : State :=
  modCell s c (fun x => setWaits (setTState x e.thread .drain) e.thread (.fence cell e.stamp))

/-- FENCE.THREAD is FENCE with OFF = 0, FENCE.CELL with OFF = 1. -/
def execKFenceThread (c t : Nat) (f : MFields) (s : State) : Out :=
  onThread c t (issueM s c t 4 0x00 { f with off := 0 } (fun u e => startFence u c e false))

def execKFenceCell (c t : Nat) (f : MFields) (s : State) : Out :=
  onThread c t (issueM s c t 4 0x00 { f with off := 1 } (fun u e => startFence u c e true))

/-! ### Operations on objects -/

/-- The object, or for an ARRIVE the fabric address of region 0xFF of another package, that a SYNC operation names (R157). -/
inductive SyncAt where
  | obj (o : Nat)
  | remote (addr : Nat)
  | bad (code : Nat)
  deriving DecidableEq, Repr

def syncAt (s : State) (c : Nat) (arrive : Bool) (va : Nat) : SyncAt :=
  let x := getCell s c
  match walk (getJob s x.ctx) x.item va with
  | .sync o =>
    let o := o + va % 65536 / 16
    if !stackUp s (dieOfObj o) then .bad eStackReset
    else if !routeExists s (dieOfCell c) (dieOfObj o) then .bad eLinkNoPath
    else .obj o
  | .leaf l =>
    match l.target with
    | .fabric f => if arrive ∧ f / 2 ^ 40 % 256 = 255 ∧ f / 2 ^ 48 ≠ s.pkgId.toNat then .remote (f + va % 65536) else .bad ePageFault
    | .phys _ => .bad ePageFault
  | .absent => .bad ePageFault

/-- An operation takes its place at the object's update port (R281). -/
def enqueue (s : State) (o : Nat) (op : PortOp) : State := setPort s o (getPort s o ++ [op])

/-- A SYNC operation on the object at sA + OFF; a misaligned address or another page faults (R79, R157). -/
def syncOp (s : State) (c : Nat) (e : Entry) (free : Nat) (arrive : Bool) (g : State → Nat → State)
    (far : State → Nat → State) : State :=
  let a := (memAddr free (getCell s c) e.thread e.word).toNat
  if a % 16 ≠ 0 then faultAt s c e true a ePageFault
  else
    match syncAt s c arrive a with
    | .obj o => g s o
    | .remote f => far s f
    | .bad code => faultAt s c e true a code

/-- A posted operation: a fence waits until it is performed at its port (R277, R287). -/
def postOp (s : State) (c : Nat) (e : Entry) (o : Nat) (op : PortOp) : State :=
  enqueue (modCell s c (fun x => addFlight x (newFlight e .sync none))) o op

/-- sB [31:0] (R277). -/
def syncValue (free : Nat) (x : Cell) (e : Entry) : BitVec 32 := (sReg free x e.thread (wB e.word)).setWidth 32

/-- An ARRIVE to another package (R157, R350). -/
def farArrive (s : State) (c : Nat) (e : Entry) (v : BitVec 32) (f : Nat) : State :=
  let j := (getCell s c).ctx
  let s := modCell s c (fun x => addFlight x { newFlight e .sync none with need := 1 })
  sendSeq s (dieOfCell c) (arrivePacket (BitVec.ofNat 16 (f / 2 ^ 48)) (cellEpoch s c) (f % 2 ^ 40 / 16) v) (some j)
    (some (c, e.stamp))

def execKSyncArrive (c t : Nat) (f : MFields) (s : State) : Out :=
  onThread c t (issueM s c t 4 0x10 f (fun u e =>
    let v := syncValue s.free (getCell u c) e
    syncOp u c e s.free true (fun u o => postOp u c e o (.arrive v (some (c, e.stamp)))) (fun u a => farArrive u c e v a)))

def execKSyncArm (c t : Nat) (f : MFields) (s : State) : Out :=
  onThread c t (issueM s c t 4 0x11 f (fun u e =>
    let v := syncValue s.free (getCell u c) e
    syncOp u c e s.free false (fun u o => postOp u c e o (.arm v (some (c, e.stamp)))) (fun u _ => u)))

def execKSyncReset (c t : Nat) (f : MFields) (s : State) : Out :=
  onThread c t (issueM s c t 4 0x15 f (fun u e =>
    syncOp u c e s.free false (fun u o => postOp u c e o (.reset (some (c, e.stamp)))) (fun u _ => u)))

/-- The thread waits in SYNC; its wait goes to the object's port (R277, R282). -/
def startWait (s : State) (c : Nat) (e : Entry) (o : Nat) (ticks : Option Nat) : State :=
  enqueue (modCell s c (fun x => setWaits (setTState x e.thread .sync) e.thread (.object (wD e.word) ticks.isSome e.stamp))) o
    (.wait (8 * c + e.thread) ticks)

def execKSyncWait (c t : Nat) (f : MFields) (s : State) : Out :=
  onThread c t (issueM s c t 4 0x12 f (fun u e => syncOp u c e s.free false (fun u o => startWait u c e o none) (fun u _ => u)))

def execKSyncWaitt (c t : Nat) (f : MFields) (s : State) : Out :=
  onThread c t (issueM s c t 4 0x13 f (fun u e =>
    let n := (syncValue s.free (getCell u c) e).toNat
    syncOp u c e s.free false (fun u o => startWait u c e o (some n)) (fun u _ => u)))

def execKSyncRead (c t : Nat) (f : MFields) (s : State) : Out :=
  onThread c t (issueM s c t 4 0x14 f (fun u e =>
    syncOp u c e s.free false
      (fun u o => enqueue (modCell u c (fun x => addFlight x (newFlight e .load (some (resS t (wD e.word)))))) o (.read c e.stamp))
      (fun u _ => u)))

end Sys2Proof.Machine
end

