-- ==== Sys2Proof/Machine/Hearth.lean ====
section
/-!
DEFINITION. Machine/Hearth.lean: the update port of a synchronisation object, waits and timeouts (R273 to R284), the arithmetic of the Hearth's
atomics (R52, R292, R293).
-/
namespace Sys2Proof.Machine

/-! ### Objects -/

/-- Waiters registered now on store die d (R305). -/
def waitersNow (s : State) (d : Nat) : Nat :=
  ((s.objs.filter (fun e => decide (dieOfObj e.1 = d))).map (fun e => e.2.waiters.length)).sum

/-- Word 0 of an object. -/
def objWord0 (o : SyncObj) : Word := BitVec.ofNat 64 (o.target.toNat * 4294967296 + o.count.toNat)

/-- WHEAD: 0xFFFF_FFFF with no waiter, 0 in an object whose words were written as zero; the spec does not say which of several waiters
is first, so it is a free choice among them (log 27). -/
def wHead (free : Nat) (o : SyncObj) : Nat :=
  if o.waiters.isEmpty then (if o.wnull then 0 else 0xFFFFFFFF)
  else ((o.waiters.map (·.agent)).getD ((Config.freeWord free 9200).toNat % o.waiters.length) 0)

/-- Word 1 of an object. -/
def objWord1 (free : Nat) (o : SyncObj) : Word :=
  BitVec.ofNat 64 (fieldAt 48 o.waiters.length + fieldAt 33 o.evsrc + fieldAt 32 (b2n o.evt) + wHead free o)

/-- After an update: a satisfied object releases every waiter and raises its event (R276, R280). -/
def evaluate (s : State) (i : Nat) : State :=
  let o := getObj s i
  if !satisfied o then s
  else
    let d := dieOfObj i
    let s := o.waiters.foldl (fun s w => sendWait s w.agent true) s
    let s := modStore s d (fun x => { x with waitsSat := wrap32 (x.waitsSat + o.waiters.length) })
    let s := setObj s i { o with waiters := [], evt := false }
    if o.evt then raiseEvent s (16 * d + o.evsrc) else s

/-- Transitions whose trigger object has become satisfied wait at their re-shard engines, in that order, the lower record first among
equals (R381). -/
def noteTriggers (s : State) (i : Nat) : State :=
  (List.range 8).foldl (fun s j =>
    let jb := getJob s j
    if !jb.loaded ∨ jb.faulted then s
    else
      ((List.range jb.image.mapping.trans.length).zip jb.image.mapping.trans).foldl (fun s e =>
        if objAt jb e.2.trigger = some i then modStore s e.2.die (fun x => { x with transQueue := x.transQueue ++ [(j, e.1)] }) else s) s) s

/-- An update of an object: what follows from its being satisfied, and from its becoming so. -/
def settle (s : State) (i : Nat) (was : Bool) : State :=
  let now := satisfied (getObj s i)
  let s := evaluate s i
  if now && !was then noteTriggers s i else s

/-- The posted access of a cell has been performed at its port (R287). -/
def performed (s : State) (who : Option (Nat × Nat)) : State :=
  match who with
  | none => s
  | some (c, stamp) => modCell s c (fun x => endFlight x stamp)

/-- The port's updates; reads and waits are not updates. -/
def isUpdate : PortOp → Bool
  | .read _ _ | .wait _ _ => false
  | _ => true

/-- One update is applied (R276). -/
def applyUpdate (s : State) (i : Nat) (op : PortOp) : State :=
  let o := getObj s i
  match op with
  | .arrive v who => performed (settle (setObj s i { o with count := o.count + v }) i (satisfied o)) who
  | .arm v who => performed (settle (setObj s i { o with target := v }) i (satisfied o)) who
  | .reset who => performed (settle (setObj s i { o with count := 0 }) i (satisfied o)) who
  | .setevt e => evaluate (setObj s i { o with evsrc := e, evt := true }) i
  | .clrevt => setObj s i { o with evt := false }
  | .read _ _ | .wait _ _ => s

/-- A READ's data is on its way to its cell. -/
def answerRead (s : State) (c stamp : Nat) (w : Word) : State :=
  modCell s c (fun x =>
    { x with flights := x.flights.map (fun f => if f.stamp = stamp then { f with arrived := true, data := leBytes 8 w.toNat } else f) })

/-- A wait ends at once on a satisfied object, else its agent is registered (R282, R283). -/
def registerWait (s : State) (i agent : Nat) (ticks : Option Nat) : State :=
  let o := getObj s i
  let d := dieOfObj i
  if satisfied o then sendWait (modStore s d (fun x => { x with waitsSat := wrap32 (x.waitsSat + 1) })) agent true
  else
    let w : Waiter := { agent := agent, deadline := ticks.map (fun n => s.ember + n + 1) }
    let s := setObj s i { o with waiters := o.waiters ++ [w], wnull := false }
    modStore s d (fun x => { x with peak := max x.peak (waitersNow s d) })

/-- Reads and waits that come before the next update are answered (R281 step 3). -/
def answerOps (i : Nat) : State → List PortOp → State × List PortOp
  | s, .read c stamp :: rest => answerOps i (answerRead s c stamp (objWord0 (getObj s i))) rest
  | s, .wait agent ticks :: rest => answerOps i (registerWait s i agent ticks) rest
  | s, l => (s, l)

/-- One cycle of the port of object i: the next update, evaluation, then the reads and waits before the following update. -/
def portCycle (s : State) (i : Nat) : State :=
  let r := match getPort s i with
    | op :: rest => if isUpdate op then answerOps i (applyUpdate s i op) rest else answerOps i s (op :: rest)
    | [] => (s, [])
  setPort r.1 i r.2

def execSyncPortUpdate (i : Nat) (s : State) : Out :=
  onUnit (objOk i) (if stackUp s (dieOfObj i) ∧ s.failTrigger = 0 then portCycle s i else s)

/-- The ember counter reaches the deadline of a registered wait (R283, R284); every wait whose deadline comes by then expires with it. -/
def execWaittExpiry (i c t : Nat) (s : State) : Out :=
  onUnit (objOk i && cellOk c && threadOk t)
    (let o := getObj s i
     match o.waiters.find? (fun w => decide (w.agent = 8 * c + t)) with
     | some ⟨_, some e⟩ =>
       if !stackUp s (dieOfObj i) ∨ s.failTrigger ≠ 0 then s else expireObj (advanceTo s e) i
     | _ => s)

/-- The message reaches the thread, which becomes READY; SATISFIED is an acquire, and SYNC.WAITT writes 0 or 1 to sD (R79, R277, R282). -/
def endWait (x : Cell) (t : Nat) (ok : Bool) : Cell :=
  match waitsOf x t with
  | .object d timed stamp =>
    let x := setWaits (setTState x t .ready) t .none
    let x := if timed then setS x t d (if ok then 0 else 1) else x
    if ok then acquireStreams x t stamp else x
  | _ => x

def execWaitReleaseMessage (c t : Nat) (s : State) : Out :=
  onThread c t
    (match s.waitMsgs.find? (fun m => decide (m.agent = 8 * c + t)) with
     | some m =>
       if cellLive s c then
         modCell { s with waitMsgs := dropFirst (fun n => decide (n = m)) s.waitMsgs } c (fun x => endWait x t m.satisfied)
       else s
     | none => s)

/-! ### Atomics (R292) -/

/-- The new operand of an integer or F32 operation on a word of w bits. -/
def atomNew (op : AtomOp) (w : Nat) (old a b : Nat) : Nat :=
  let m := 2 ^ w
  match op with
  | .add => (old + a) % m
  | .min => if signedOf w old ≤ signedOf w (a % m) then old else a % m
  | .max => if signedOf w (a % m) ≤ signedOf w old then old else a % m
  | .xchg => a % m
  | .cas => if old = a % m then b % m else old
  | .fadd => (addF32 (BitVec.ofNat 32 old) (BitVec.ofNat 32 a)).toNat
  | .xs => old

/-- The flags that a contribution sets: infinity, NaN (R52). -/
def xsSets (acc : Xs) (x : F32) : Bool × Bool :=
  let r := xsAdd { acc with infPos := false, infNeg := false, nan := false } x
  (r.infPos || r.infNeg, r.nan)

/-- An atomic on operand bytes: the new bytes. -/
def atomBytes (op : AtomOp) (width : Nat) (a b : Word) (old : List Byte) : List Byte :=
  if op = .xs then
    -- the reserved bit of the word at byte 20 stays as it is
    (xsBytes (xsAdd (xsOfBytes old) (a.setWidth 32))).mapIdx (fun i v => if i = 21 then v ||| (old.getD 21 0 &&& 8) else v)
  else leBytes width (atomNew op (8 * width) (leNat old) a.toNat b.toNat)

/-- HEARTH[d].OPS and XSFLAG count an operation (R304). -/
def countAtom (s : State) (d : Nat) (op : AtomOp) (a : Word) (old : List Byte) : State :=
  if op = .xs then
    let f := xsSets (xsOfBytes old) (a.setWidth 32)
    let s := modStore s d (fun x =>
      { x with xsAdds := wrap32 (x.xsAdds + 1)
               xsInf := satAdd 0xFFFFFFFF x.xsInf (b2n f.1)
               xsNan := satAdd 0xFFFFFFFF x.xsNan (b2n f.2) })
    if f.1 || f.2 then raiseEvent s (228 + d) else s
  else modStore s d (fun x => { x with atomics := wrap32 (x.atomics + 1) })

/-- Bytes at physical ranges, one after the other. -/
def partsRead (s : State) (l : List (Nat × Nat)) : List Byte := l.flatMap (fun p => physRead s p.1 p.2)

def partsWrite : State → List (Nat × Nat) → List Byte → State
  | s, [], _ => s
  | s, p :: rest, b => partsWrite (clearErrors (physWrite s p.1 (b.take p.2)) p.1 p.2) rest (b.drop p.2)

/-- The operation is applied at the port; the old bytes are answered. -/
def applyAtomic (s : State) (d : Nat) (r : HearthReq) : State × List Byte :=
  let old := partsRead s r.parts
  (partsWrite (countAtom s d r.op r.a old) r.parts (atomBytes r.op r.width r.a r.b old), old)

/-- The old value is on its way to its cell; an AXS returns nothing. -/
def answerAtomic (s : State) (c stamp : Nat) (op : AtomOp) (old : List Byte) : State :=
  modCell s c (fun x =>
    match x.flights.find? (fun f => decide (f.stamp = stamp)) with
    | none => x
    | some f =>
      if op = .xs then endFlight x stamp
      else { x with flights := x.flights.map (fun g => if g.stamp = stamp then { f with arrived := true, data := leBytes 8 (leNat old) } else g) })

end Sys2Proof.Machine
end

