-- ==== Sys2Proof/Machine/Window.lean ====
section
/-!
DEFINITION. Machine/Window.lean: the blocks of the register window (R156) and how a write to a register is taken (R8 to R11, R462).
-/
namespace Sys2Proof.Machine

def lodgeBase : Nat := 0
def evcBase : Nat := 0x01000000
def pavBase (p : Nat) : Nat := 0x02000000 + p * 0x10000
def cellBase (c : Nat) : Nat := 0x04000000 + c * 0x1000
def storeBase (d : Nat) : Nat := 0x06000000 + d * 0x100000
def hearthBase (d : Nat) : Nat := 0x07000000 + d * 0x10000
def updBase (d : Nat) : Nat := 0x07100000 + d * 0x10000
def reshardBase (d : Nat) : Nat := 0x07200000 + d * 0x10000
def hbmcBase (h : Nat) : Nat := 0x08000000 + h * 0x10000
def linkBase (l : Nat) : Nat := 0x09000000 + l * 0x1000
def fabBase (d : Nat) : Nat := 0x0A000000 + d * 0x100000
def ucieBase (u : Nat) : Nat := 0x0B000000 + u * 0x10000
def temperBase : Nat := 0x0C000000
def secBase : Nat := 0x0D000000
def clkBase : Nat := 0x0E000000

/-- The window answers at all: VAON is up. -/
def powered (s : State) : Bool := decide (s.pwr.pstate ≠ 0)

/-- The firmware runs (R460, R478). -/
def booted (s : State) : Bool := decide (s.sec.bootState = 3)

/-- The blocks that respond while the package awaits its image (R462). -/
def earlyBlock (base : Nat) : Bool := decide (base = secBase ∨ base = evcBase ∨ base = clkBase)

/-- The stack on whose dies the registers of a block lie, and whether they lie on its compute die (R17). -/
def blockDie (base : Nat) : Option (Nat × Bool) :=
  if base < pavBase 0 then none
  else if base < cellBase 0 then some (dieOfPav ((base - pavBase 0) / 0x10000), true)
  else if base < storeBase 0 then some (dieOfCell ((base - cellBase 0) / 0x1000), true)
  else if base < hearthBase 0 then some ((base - storeBase 0) / 0x100000, false)
  else if base < hbmcBase 0 then some ((base - hearthBase 0) / 0x10000 % 16, false)
  else if base < linkBase 0 then some ((base - hbmcBase 0) / 0x20000, false)
  else if base < fabBase 0 then some (dieOfLink ((base - linkBase 0) / 0x1000), false)
  else if base < ucieBase 0 then some ((base - fabBase 0) / 0x100000, false)
  else if base < temperBase then some ((base - ucieBase 0) / 0x10000, false)
  else none

/-- An access reaches the die of a block: the Lodge region always, another die by a route (R24, R25). -/
def blockReached (s : State) (base : Nat) : Bool :=
  match blockDie base with
  | none => true
  | some (d, _) => windowReaches s d

/-- A die that no write reaches takes none, nor does one in reset (R444, R445), nor any in the fail-safe state, where only reads are served
(R449). -/
def blockServed (s : State) (base : Nat) : Bool :=
  blockReached s base &&
    match blockDie base with
    | none => true
    | some (d, compute) =>
      decide (s.failTrigger = 0) && (decide ((getRst s d).phase < 2) || ((getRst s d).computeOnly && !compute))

/-- A write to the register at an offset of a block; `f` is its effect. While the package awaits its image only three blocks take writes,
others are recorded in SEC.ERR with their offset in the window (R462). -/
def regWrite (s : State) (base off : Nat) (f : State → State) : State :=
  if !powered s then s
  else if !blockReached s base then report s eLinkNoPath
  else if booted s || earlyBlock base then (if blockServed s base then f s else s)
  else recordErr s secBase (base + off) eBadState

/-- A write whose reserved bits or values are refused with a code, the first that applies (R10, R11). -/
def checkWrite (s : State) (base off : Nat) (rejections : List (Bool × Nat)) (f : State → State) : State :=
  regWrite s base off (fun s =>
    match rejections.find? (·.1) with
    | some r => recordErr s base off r.2
    | none => f s)

end Sys2Proof.Machine
end

