-- ==== Sys2Proof/Machine/Remote.lean ====
section
/-!
DEFINITION. Machine/Remote.lean: the requesting side of the fabric: what responses, acknowledgements and rejections do to the accesses that
they answer (R347, R352, R353, R358, R361, R369).
-/
namespace Sys2Proof.Machine

/-! ### Parts of an access -/

/-- The flight of a cell with a stamp and, for operands, a kind. -/
def modFlight (s : State) (c stamp : Nat) (p : Flight → Bool) (f : Flight → Flight) : State :=
  modCell s c (fun x => { x with flights := x.flights.map (fun g => if g.stamp = stamp ∧ p g then f g else g) })

/-- Bytes of a read have come; with the last of them its data is there. -/
def gotBytes (fin : Flight → List Byte → List Byte) (off : Nat) (l : List Byte) (f : Flight) : Flight :=
  let raw := localPut f.raw off l
  if raw.length = f.need then { f with raw := raw, arrived := true, data := fin f (rawBytes raw f.need) } else { f with raw := raw }

def isLoad (f : Flight) : Bool := decide (f.kind = .load)

def isOperand (isB : Bool) (f : Flight) : Bool := decide (f.kind = opKind isB)

/-- Bytes of the fetch of a shard have come. -/
def gotFetch (shard off : Nat) (l : List Byte) (f : FetchRec) : FetchRec :=
  if f.shard = shard ∧ f.remote then { f with raw := localPut f.raw off l } else f

/-- A descriptor of the re-shard engine of die d. -/
def modDescr (s : State) (d id : Nat) (f : RunDescr → RunDescr) : State :=
  modStore s d (fun x => { x with descrs := x.descrs.map (fun r => if r.id = id then f r else r) })

/-- Who waits for acknowledgements of a re-shard engine's WRs: numbers from 4,096 on stand for the store dies. -/
def engineAgent (d : Nat) : Nat := 4096 + d

/-- The bytes at an offset of an access have come to store die d. -/
def deliverPart (s : State) (d : Nat) (who : ReqFor) (l : List Byte) : State :=
  match who with
  | .cell c stamp off => modFlight s c stamp isLoad (gotBytes finishLoad off l)
  | .operand c stamp isB off => modFlight s c stamp (isOperand isB) (gotBytes (fun _ b => b) off l)
  | .bellows c id off => modCell s c (fun x => modReq x id (fun r => gotRaw (localPut r.raw off l) r))
  | .fetch shard off => modStore s d (fun x => { x with fetch := x.fetch.map (gotFetch shard off l) })
  | .comb _ => s
  | .reshard id off => modDescr s d id (fun r => { r with raw := localPut r.raw off l })
  | .none => s

/-- One acknowledgement that an access waits for: with the last, the access is performed (R287, R353). -/
def ackOne (s : State) (who : Option (Nat × Nat)) : State :=
  match who with
  | none => s
  | some (c, stamp) =>
    if 4096 ≤ c then modDescr s (c - 4096) stamp (fun r => { r with acks := r.acks - 1 })
    else modCell s c (fun x =>
      match x.flights.find? (fun f => decide (f.stamp = stamp)) with
      | none => x
      | some f =>
        if 1 < f.need then { x with flights := x.flights.map (fun g => if g.stamp = stamp then { g with need := g.need - 1 } else g) }
        else if f.switches then { x with flights := x.flights.map (fun g => if g.stamp = stamp then { g with need := 0, arrived := true } else g) }
        else endFlight x stamp)

/-! ### Rejections (R347) -/

/-- The answers that are job faults of the requesting job (R347, R362, R390). -/
def isFaultCode (code : Nat) : Bool :=
  decide (code = ePageFault ∨ code = eUncorrectable ∨ code = eEpochClosed ∨ code = eAtomicIndeterminate)

def rejectJob (s : State) (j code : Nat) : State := if isFaultCode code then jobFault s j code else s

/-- A rejected load or atomic of a cell: a scalar destination takes the status value, a tile or mask keeps what it holds. -/
def rejectFlight (code : Nat) (f : Flight) : Flight :=
  if wClass f.word = 3 then { f with arrived := true, data := leBytes 8 (statusWord code).toNat }
  else { f with arrived := true, dest := none, data := [] }

/-- n bytes that the spec leaves open. -/
def openBytes (s : State) (n : Nat) : List Byte := (List.range n).map (Config.freeByte s.free)

/-- A rejected request: the access that it belongs to. What a rejected operand read or shard fetch leaves in its buffer is a free value; a
claim of a rejected stream fetch faults (R201), and run-ahead fetches the unit again at its claim (log 30), but an uncorrectable error
poisons it (R202). -/
def rejectPart (s : State) (d code : Nat) (who : ReqFor) (n : Nat) : State :=
  match who with
  | .cell c stamp _ => modFlight s c stamp (fun _ => true) (rejectFlight code)
  | .operand _ _ _ _ => draw (deliverPart s d who (openBytes s n))
  | .fetch _ _ => draw (deliverPart s d who (openBytes s n))
  | .bellows c id _ =>
    modCell s c (fun x =>
      match x.bellows.find? (fun r => decide (r.id = id)) with
      | none => x
      | some r =>
        let x := { x with bellows := x.bellows.filter (fun b => decide (b.id ≠ id)) }
        if (getSlot x r.q).gen ≠ r.gen then x
        else if r.demand then
          modUnit x r.q r.k (fun u =>
            (unitIn (getSlot x r.q).desc r.k).elim u (fun p => faultGranules (r.parts.map (·.1)) code (partFaultAddr p (r.offs.headD 0)) u))
        else if code = eUncorrectable then arriveData x { r with parts := [], bad := true }
        else modUnit x r.q r.k (fun u => { u with drop := u.drop ++ r.parts.map (·.1) }))
  | .comb _ => s
  | .reshard id _ => modDescr s d id (fun r => { r with failed := some code })
  | .none => s

/-! ### Responses (R358) -/

/-- The request that a response matches, by tag and generation. -/
def matchOut (s : State) (d : Nat) (p : Packet) : Option OutReq :=
  (getFab s d).outs.find? (fun o => decide (o.tag = p.tag ∧ o.gen = p.gen.toNat))

def countStale (s : State) (d : Nat) : State := modFab s d (fun f => { f with stalegen := satAdd 0xFFFF f.stalegen 1 })

/-- The request ends: its tag returns to the pool, and may serve one that waits. -/
def endRequest (s : State) (d : Nat) (o : OutReq) : State := serveTags (returnTag s d o.tag o.gen) d

/-- A read response completes its request (R358). -/
def completeRead (s : State) (d : Nat) (p : Packet) (o : OutReq) : State :=
  let s := endRequest s d o
  if pktCode p = 0 then deliverPart s d o.forWho (p.payload.take (pktBytes o.pkt))
  else
    let s := rejectPart (countReject s d (pktCode p) p.src) d (pktCode p) o.forWho (pktBytes o.pkt)
    match o.forWho with
    | .bellows _ _ _ => s
    | _ => rejectJob s o.job (pktCode p)

/-- RACK for the result that a response brought (R361). -/
def sendRack (s : State) (d : Nat) (p : Packet) : State :=
  emit s d { Packet.blank .rack p.src with src := s.pkgId, sstk := d, dstk := p.sstk, cls := 1, tag := p.tag, gen := p.gen }

/-- The old value of a remote atomic returns to its cell; an AXS returns nothing (R292, R353). -/
def answerFlight (s : State) (who : ReqFor) (old : Word) : State :=
  match who with
  | .cell c stamp _ =>
    modCell s c (fun x =>
      match x.flights.find? (fun f => decide (f.stamp = stamp)) with
      | none => x
      | some f =>
        if f.dest.isNone then endFlight x stamp
        else { x with flights := x.flights.map (fun g => if g.stamp = stamp then { g with arrived := true, data := leBytes 8 old.toNat } else g) })
  | _ => s

/-- A WR that its target has rejected: an engine's copy fails with it (R286), any other access is acknowledged without effect (R347, R353). -/
def rejectWrite (s : State) (code : Nat) (who : Option (Nat × Nat)) : State :=
  match who with
  | some (c, id) => if 4096 ≤ c then modDescr s (c - 4096) id (fun r => { r with failed := some code }) else ackOne s who
  | none => s

/-- A rejected AXS returns nothing either: its flight goes. -/
def rejectAtomic (s : State) (d code : Nat) (who : ReqFor) : State :=
  match who with
  | .cell c stamp _ =>
    if (getCell s c).flights.any (fun f => decide (f.stamp = stamp) && f.dest.isNone) then answerFlight s who 0 else rejectPart s d code who 0
  | _ => s

/-! ### Acknowledgements (R352) -/

/-- A channel number lies below another, modulo 2^32. -/
def below (a next : BitVec 32) : Bool := decide (a ≠ next ∧ (next - a).toNat < 2147483648)

/-- The transfer waits no more for packets sent before it (R348). -/
def xferReady (s : State) (f : Fab) : Bool :=
  f.xferWait.all (fun w =>
    match (getFab s w.1).send.find? (fun e => decide (e.id = w.2.1)) with
    | none => true
    | some e => !e.unacked.any (fun p => below p.pkt.cseq w.2.2) && e.waitQ.isEmpty)

/-- XFER goes to the home once the channels are quiet (R348 step 2). -/
def tryXfer (s : State) (d : Nat) : State :=
  let f := getFab s d
  match f.xfer with
  | some (home, region, owner) =>
    if f.xferBusy && !f.xferSent && xferReady s f then
      let s := setFab s d { f with xferSent := true }
      sendSeq s d { Packet.blank .xfer home with region := region, dstk := region % 4, w3 := BitVec.ofNat 64 owner.toNat } none none
    else s
  | none => s

def tryXfers (s : State) : State := (List.range 4).foldl tryXfer s

/-- The answer to a transfer (R348): XFERSTAT takes its code. -/
def endXfer (s : State) (d code : Nat) : State :=
  modFab s d (fun f => { f with xfer := none, xferBusy := false, xferSent := false, xferWait := [], xferCode := code })

/-- A packet is covered by an ACK: its access is acknowledged, a transfer is done (R353). -/
def covered (s : State) (d : Nat) (p : SentPkt) : State :=
  let s := ackOne s p.who
  if p.pkt.typ = .xfer then endXfer s d 0 else s

/-- An ACK frees every packet below its number and lets those that wait go (R352). -/
def applyAck (s : State) (d : Nat) (e : SendCh) (next : BitVec 32) : State :=
  let done := e.unacked.filter (fun p => below p.pkt.cseq next)
  if done.isEmpty then s
  else
    let left := e.unacked.filter (fun p => !below p.pkt.cseq next)
    let s := modFab s d (fun f => putChannel f { e with unacked := left, progressAt := s.ember, idleAt := s.ember })
    let s := done.foldl (fun s p => covered s d p) s
    tryXfers (drainChannel 4096 s d e.id)

/-! ### Coherent lines at a member (R369) -/

/-- A modified line goes home (CWB). -/
def writeBack (s : State) (d key : Nat) (x : MLine) : State :=
  let f := key * 64
  sendSeq s d { linePacket .cwb 0 f with payload := x.data } none none

/-- The cache of 65,536 lines is full: one that nothing is asked for leaves it; which is a free choice. -/
def makeRoom (s : State) (d : Nat) : State :=
  let held := (getFab s d).lines.filter (fun e => decide (e.2.state ≠ 0))
  if held.length < 65536 then s
  else
    let can := held.filter (fun e => decide (e.2.asked = 0))
    match can[(Config.freeWord s.free 9300).toNat % can.length]? with
    | none => s
    | some (key, x) =>
      let s := draw (modFab s d (fun y => { y with lines := mdel key y.lines }))
      if x.state = 2 then writeBack s d key x else s

/-- The accesses that wait for a line, in order: reads are answered, writes are made in M; the first write that finds the line in S, and
what follows it, waits for a CRDX. -/
def serveLine (f : Nat) : State → List LineWait → State
  | s, [] => s
  | s, w :: rest =>
    let x := lineAt s f
    match w.wr with
    | none => serveLine f (deliverPart s (lineDie f) w.who ((x.data.drop w.lo).take w.len)) rest
    | some b =>
      if x.state = 2 then
        let s := setLine s f { x with data := patch x.data w.lo b }
        serveLine f (match w.who with | .cell c stamp _ => ackOne s (some (c, stamp)) | _ => s) rest
      else askLine (setLine s f { x with waits := w :: rest }) f w.job true

/-- CDATA: the line is filled, or the accesses that wait are rejected. -/
def fillLine (s : State) (f : Nat) (code : Nat) (src : BitVec 16) (data : List Byte) : State :=
  let x := lineAt s f
  if code ≠ 0 then
    let s := setLine s f { x with asked := 0, waits := [] }
    let s := countReject s (lineDie f) code src
    x.waits.foldl (fun s w =>
      let s := match w.wr, w.who with
        | some _, .cell c stamp _ => ackOne s (some (c, stamp))
        | _, _ => rejectPart s (lineDie f) code w.who w.len
      rejectJob s w.job code) s
  else
    let s := makeRoom s (lineDie f)
    let s := setLine s f { state := if x.asked = 2 then 2 else 1, data := data, asked := 0, waits := [] }
    serveLine f s x.waits

end Sys2Proof.Machine
end

