-- ==== Sys2Proof/Machine/Zfp.lean ====
section
/-!
DEFINITION. Machine/Zfp.lean: packets that arrive for this package: the checks of R346, channels (R351), the targets' actions (R350, R361,
R362, R367, R369, R390), and the Hearth's application of an atomic (R293).
-/
namespace Sys2Proof.Machine

/-! ### Checks of an inbound request (R346, R347, R390) -/

/-- What the mode of a region answers to an access of class 0 or 2. -/
def modeCode (r : Region) (src : BitVec 16) (write : Bool) : Option Nat :=
  if r.mode = 3 then some eNotCoherent
  else if r.mode = 0 then (if src = r.owner then none else some eNotOwner)
  else if r.mode = 1 then (if write then some eNotOwner else none)
  else if write ∧ src ≠ r.owner then some eNotOwner
  else none

/-- R390: EPOCH 0 where none applies; the current epoch while OPEN, the next one while ARRIVED. -/
def epochOk (jb : Job) (e : BitVec 16) : Bool :=
  decide (e = 0) || (if jb.epochState = 2 then decide (e = nextEpoch jb.epoch) else decide (e = jb.epoch))

/-- An address lies in a reduction region of the job (R296, R390). -/
def inReduction (jb : Job) (va : Nat) : Bool :=
  jb.image.regions.any (fun r => (r.xs.isSome || decide (r.contribs ≠ 0)) && decide (r.va ≤ va ∧ va < r.va + r.size))

/-- RESHARD[s].REJECT records a contribution of another epoch (R396), an event (R425). -/
def recordEpoch (s : State) (d : Nat) (p : Packet) : State :=
  raiseEvent (modStore s d (fun x => { x with epRejEpoch := p.epoch, epRejSrc := p.src, epRejCount := wrap32 (x.epRejCount + 1) })) (236 + d)

/-- Rows 1 to 4 of R346 for a request of n bytes to memory. -/
def regionCode (s : State) (p : Packet) (n : Nat) (k : Acc) : Option Nat :=
  let r := getRegion s p.region
  if p.region = 255 then some eArgRange
  else if !r.valid ∨ r.len < p.offset + n then some eArgRange
  else
    match modeCode r p.src (decide (k ≠ .rd)) with
    | some c => some c
    | none =>
      let jb := getJob s r.ctx
      if k = .atom ∧ inReduction jb (r.vbase + p.offset) ∧ !epochOk jb p.epoch then some eEpochClosed else none

/-- The answer of all checks. -/
inductive Inbound where
  | bad (code : Nat)
  | wait
  | ok (j va : Nat) (ps : List Piece)
  deriving DecidableEq, Repr

/-- All rows of R346. A region whose pages are themselves in another package is no memory of this one. -/
def checkInbound (s : State) (d : Nat) (p : Packet) (n : Nat) (k : Acc) : Inbound :=
  match regionCode s p n k with
  | some c => .bad c
  | none =>
    let r := getRegion s p.region
    let va := r.vbase + p.offset
    match checkAccess s (getJob s r.ctx) none d k [(va, n)] with
    | .bad c _ => .bad c
    | .wait => .wait
    | .ok ps => if hasFabric ps then .bad ePageFault else .ok r.ctx va ps

/-- What the access does to its pages, and the errors that a read meets. -/
def touchInbound (s : State) (d j va n : Nat) (k : Acc) (ps : List Piece) : State :=
  touchRanges (if k = .wr then s else meetPieces s ps) none j none d [(va, n)]

/-! ### Answers -/

/-- A response of class 1 to a request. -/
def answer (s : State) (d : Nat) (p : Packet) (typ : PType) (code : Nat) (data : List Byte) : State :=
  emit s d { Packet.blank typ p.src with
    src := s.pkgId, sstk := d, dstk := p.sstk, cls := 1, tag := p.tag, gen := p.gen, w3 := BitVec.ofNat 64 code, payload := padded data }

/-- STATUS names the number of the packet that it answers. -/
def answerStatus (s : State) (d : Nat) (p : Packet) (code : Nat) : State :=
  emit s d { Packet.blank .status p.src with
    src := s.pkgId, sstk := d, dstk := p.sstk, cls := 1, w3 := BitVec.ofNat 64 (p.cseq.toNat * 4294967296 + code) }

/-- A rejection: an epoch's is recorded, an uncorrectable error's granules count. -/
def noteReject (s : State) (d : Nat) (p : Packet) (n code : Nat) : State :=
  if code = eEpochClosed then recordEpoch s d p
  else if code = eUncorrectable then
    let r := getRegion s p.region
    meetRanges s (getJob s r.ctx) none [(r.vbase + p.offset, n)]
  else s

/-! ### RD, WR -/

def deliverRd (s : State) (d : Nat) (p : Packet) : Option State :=
  match checkInbound s d p (pktBytes p) .rd with
  | .bad c => some (answer (noteReject s d p (pktBytes p) c) d p .rdrsp c [])
  | .wait => none
  | .ok j va ps => some (answer (touchInbound s d j va (pktBytes p) .rd ps) d p .rdrsp 0 (readPieces s ps))

/-- ARRIVE on an object of this package takes its place at the port. -/
def postArrive (s : State) (i : Nat) (v : BitVec 32) : State := setPort s i (getPort s i ++ [.arrive v none])

/-- A WR is performed; with v ≠ 0 it then arrives on the object that it names (R350). -/
def deliverWr (s : State) (d : Nat) (p : Packet) : Option State :=
  match checkInbound s d p (pktBytes p) .wr with
  | .bad c => some (answerStatus (noteReject s d p (pktBytes p) c) d p c)
  | .wait => none
  | .ok j va ps =>
    let s := writePieces (touchInbound s d j va (pktBytes p) .wr ps) ps (p.payload.take (pktBytes p))
    let v := p.w3.toNat / 4294967296
    some (if v = 0 then s else postArrive s (p.w3.toNat / 16384 % 262144) (BitVec.ofNat 32 v))

/-! ### ATOM (R361, R362) -/

def keptKey (p : Packet) (k : Kept) : Bool := decide (k.src = p.src ∧ k.sstk = p.sstk ∧ k.tag = p.tag ∧ k.gen = p.gen.toNat)

/-- Bytes of the operand in memory: an XS element takes 24 (R51). -/
def atomWidth (p : Packet) : Nat := if atomAop p = some .xs then 24 else 2 ^ atomSize p

/-- A checked atomic goes to the Hearth that holds its address (R291). -/
def queueAtomic (s : State) (p : Packet) (op : AtomOp) (ps : List Piece) : State :=
  let parts := ps.filterMap (fun q => match q.target with | .phys a => some (a, q.len) | .fabric _ => none)
  let r : HearthReq :=
    { op := op, parts := parts, a := BitVec.ofNat 64 (leNat (p.payload.take 8)), b := BitVec.ofNat 64 (leNat ((p.payload.drop 8).take 8))
      width := atomWidth p, cell := none, fabric := some p }
  modStore s (dieOfAddr s ((parts.headD (0, 0)).1)) (fun y => { y with hearthQ := y.hearthQ ++ [r] })

/-- An ATOM that no kept result answers: its checks, then the table of R362, then room for its entry (R361). -/
def startRemote (s : State) (d : Nat) (p : Packet) : Option State :=
  match atomAop p with
  | none => some (answer s d p .atomrsp eArgReserved [])
  | some op =>
    match checkInbound s d p (atomWidth p) .atom with
    | .bad c => some (answer (noteReject s d p (atomWidth p) c) d p .atomrsp c [])
    | .wait => none
    | .ok j va ps =>
      if p.retry then
        some (answer (modFab s d (fun f => { f with indet := satAdd 0xFFFF f.indet 1 })) d p .atomrsp eAtomicIndeterminate [])
      else if keptMax ≤ entriesUsed s d then
        some (modFab s d (fun f => { f with waiting := f.waiting ++ [p] }))
      else some (queueAtomic (touchInbound s d j va (atomWidth p) .atom ps) p op ps)

/-- An ATOM arrives: a kept result answers it; a copy of one that has not been applied yet is discarded. -/
def deliverAtom (s : State) (d : Nat) (p : Packet) : Option State :=
  match (getFab s d).kept.find? (keptKey p) with
  | some k =>
    let s := modFab s d (fun f => { f with dupatom := wrap32 (f.dupatom + 1) })
    some (answer s d p .atomrsp k.code (leBytes 8 k.old.toNat))
  | none =>
    if (atomsOf s d).any (sameReq p) || (getFab s d).waiting.any (sameReq p) || (getFab s d).dir.any (fun q => q.2.pend.any (sameReq p)) then some s
    else startRemote s d p

/-- A combined AXS adds each of its contributions by R52 (R364). -/
def applyMany (s : State) (d : Nat) (r : HearthReq) (n : Nat) (l : List Byte) : State :=
  (pieces 4 n l).foldl (fun s b => (applyAtomic s d { r with a := BitVec.ofNat 64 (leNat b) }).1) s

/-- A remote atomic is applied, its result is kept and answered (R361). -/
def applyRemote (s : State) (d : Nat) (r : HearthReq) (p : Packet) : State :=
  let t :=
    if r.op = .xs ∧ atomCmbd p then (applyMany s d r (atomN p) p.payload, [])
    else applyAtomic s d r
  let old : Word := if r.op = .xs then 0 else BitVec.ofNat 64 (leNat t.2)
  let s := modFab t.1 p.dstk (fun f =>
    { f with kept := f.kept ++ [{ id := f.nextId, src := p.src, sstk := p.sstk, tag := p.tag, gen := p.gen.toNat, old := old, code := 0, time := s.ember }]
             nextId := f.nextId + 1 })
  answer s p.dstk p .atomrsp 0 (leBytes 8 old.toNat)

/-- The oldest atomic at the Hearth of store die d is applied at its update port (R293). -/
def execHearthAtomicApply (d : Nat) (s : State) : Out :=
  onUnit (storeOk d)
    (match (getStore s d).hearthQ with
     | [] => s
     | r :: rest =>
       if !stackUp s d ∨ s.failTrigger ≠ 0 then s
       else
         let s := modStore s d (fun x => { x with hearthQ := rest })
         match r.fabric, r.cell with
         | some p, _ => applyRemote s d r p
         | none, some (c, stamp) => let t := applyAtomic s d r; answerAtomic t.1 c stamp r.op t.2
         | none, none => s)

/-! ### ARRIVE, MARK, XFER -/

/-- ARRIVE of another package (R346, R390). -/
def arriveCode (s : State) (p : Packet) : Option Nat :=
  let i := p.w3.toNat % 262144
  let held := mget 0 s.objPages (i / 4096)
  if p.region ≠ 255 then (regionCode s p 0 .wr)
  else if held = 0 then some eBadState
  else if !epochOk (getJob s (held - 1)) p.epoch then some eEpochClosed
  else none

def deliverArrive (s : State) (d : Nat) (p : Packet) : State :=
  match arriveCode s p with
  | some c => answerStatus (noteReject s d p 0 c) d p c
  | none => postArrive s (p.w3.toNat % 262144) (BitVec.ofNat 32 (p.w3.toNat / 4294967296))

/-- A mark joins the queue of 64 with its source and the local ember counter; a full queue loses its oldest (R367). -/
def deliverMark (s : State) (d : Nat) (p : Packet) : State :=
  modFab s d (fun f =>
    let l := f.marks ++ [(p.src, p.w3.setWidth 32, s.ember)]
    { f with marks := l.drop (l.length - 64) })

/-- The home of a region changes its owner, or refuses (R348); the ACK of its channel answers success (R353). -/
def deliverXfer (s : State) (d : Nat) (p : Packet) : State :=
  let r := getRegion s p.region
  if p.region = 255 ∨ !r.valid then answerStatus s d p eArgRange
  else if p.src ≠ r.owner then answerStatus s d p eNotOwner
  else if r.mode = 3 then answerStatus s d p eBadState
  else setRegion s p.region { r with owner := p.w3.setWidth 16 }

/-! ### Coherence (R368, R369) -/

/-- The home accepts class 3 packets that come directly, from a domain member of a coherent region, for a line within it. -/
def coherentCode (s : State) (p : Packet) (n : Nat) : Option Nat :=
  let r := getRegion s p.region
  if p.hops ≠ 0 ∨ p.region = 255 ∨ !r.valid ∨ r.mode ≠ 3 ∨ !r.dom.contains p.src then some eNotCoherent
  else if r.len < p.offset + n then some eArgRange
  else none

/-- The line of a coherence packet at the home. -/
def lineNo (p : Packet) : Nat := p.offset / 64

/-- CDATA to a member (class 3: it goes in its channel). -/
def sendCdata (s : State) (p : Packet) (code : Nat) (data : List Byte) : State :=
  let d := p.region % 4
  sendSeq s d { Packet.blank .cdata p.src with
    cls := 3, dstk := p.sstk, region := p.region, offset := p.offset, w3 := BitVec.ofNat 64 code, payload := data } none none

/-- The page of a line, as the home checks an access to it. -/
def lineCheck (s : State) (p : Packet) (k : Acc) : Chk :=
  let r := getRegion s p.region
  checkAccess s (getJob s r.ctx) none (p.region % 4) k [(r.vbase + lineNo p * 64, 64)]

/-- The oldest request that waits at a line: what must be recalled first, or its answer. None when it has to wait. -/
def servePending (s : State) (p : Packet) : Option State :=
  let r := p.region
  let n := lineNo p
  let x := dirLine s r n
  let pop := fun (s : State) => setDirLine s r n { dirLine s r n with pend := (dirLine s r n).pend.drop 1 }
  let goTo := fun (st : Nat) (l : List (BitVec 16)) (s : State) => setDirLine s r n { dirLine s r n with state := st, holders := l }
  if !x.recalls.isEmpty then none
  else if p.typ = .crd then
    if x.state = 2 ∧ !x.holders.contains p.src then some (recallFrom s r n true x.holders)
    else
      match lineCheck s p .rd with
      | .bad c _ => some (sendCdata (pop s) p c [])
      | .wait => none
      | .ok ps =>
        let l := if x.holders.contains p.src then x.holders else x.holders ++ [p.src]
        some (sendCdata (goTo (max 1 x.state) l (pop (meetPieces s ps))) p 0 (readPieces s ps))
  else if p.typ = .crdx then
    let others := x.holders.filter (fun m => decide (m ≠ p.src))
    if !others.isEmpty then some (recallFrom s r n false others)
    else
      match lineCheck (goTo 0 [] s) p .wr with
      | .bad c _ => some (sendCdata (pop s) p c [])
      | .wait => none
      | .ok ps => some (sendCdata (goTo 2 [p.src] (pop (meetPieces s ps))) p 0 (readPieces s ps))
  else if !x.holders.isEmpty then some (recallFrom s r n false x.holders)
  else
    let rg := getRegion s r
    let jb := getJob s rg.ctx
    match atomAop p with
    | none => some (answer (pop s) p.dstk p .atomrsp eArgReserved [])
    | some op =>
      if inReduction jb (rg.vbase + p.offset) ∧ !epochOk jb p.epoch then
        some (answer (recordEpoch (pop s) p.dstk p) p.dstk p .atomrsp eEpochClosed [])
      else
        match checkAccess s jb none p.dstk .atom [(rg.vbase + p.offset, atomWidth p)] with
        | .bad c _ => some (answer (pop s) p.dstk p .atomrsp c [])
        | .wait => none
        | .ok ps => if keptMax ≤ entriesUsed s p.dstk then none else some (queueAtomic (pop s) p op ps)

/-- Requests that wait at a line are served in order while they can be. -/
def serveDir : Nat → State → Nat → Nat → State
  | 0, s, _, _ => s
  | fuel + 1, s, r, n =>
    match (dirLine s r n).pend with
    | [] => s
    | p :: _ =>
      match servePending s p with
      | none => s
      | some t => serveDir fuel t r n

/-- A request of a member joins the line's queue. -/
def joinLine (s : State) (p : Packet) : State :=
  let x := dirLine s p.region (lineNo p)
  serveDir (2 * x.pend.length + 4) (setDirLine s p.region (lineNo p) { x with pend := x.pend ++ [p] }) p.region (lineNo p)

def deliverCrd (s : State) (_ : Nat) (p : Packet) : State :=
  match coherentCode s p 64 with
  | some c => sendCdata s p c []
  | none => joinLine s p

/-- An atomic on a coherent region: the line is recalled to U first. A kept result answers a copy. -/
def deliverCoherentAtom (s : State) (d : Nat) (p : Packet) : State :=
  match coherentCode s p (atomWidth p) with
  | some c => answer s d p .atomrsp c []
  | none =>
    match (getFab s d).kept.find? (keptKey p) with
    | some k => answer (modFab s d (fun f => { f with dupatom := wrap32 (f.dupatom + 1) })) d p .atomrsp k.code (leBytes 8 k.old.toNat)
    | none => if (atomsOf s d).any (sameReq p) || (dirLine s p.region (lineNo p)).pend.any (sameReq p) then s else joinLine s p

/-- The data of a line goes to memory; none while its page moves. -/
def storeLine (s : State) (p : Packet) : Option State :=
  let r := getRegion s p.region
  let free := setDirLine s p.region (lineNo p) { dirLine s p.region (lineNo p) with state := 0, holders := [] }
  match checkAccess free (getJob s r.ctx) none (p.region % 4) .wr [(r.vbase + lineNo p * 64, 64)] with
  | .bad _ _ => some s
  | .wait => none
  | .ok ps => some (writePieces s ps (p.payload.take 64))

/-- A member holds the line no longer. -/
def dropHolder (s : State) (p : Packet) : State :=
  let x := dirLine s p.region (lineNo p)
  let l := x.holders.filter (fun m => decide (m ≠ p.src))
  setDirLine s p.region (lineNo p) { x with holders := l, state := if l.isEmpty then 0 else x.state }

/-- CRACK: the recall of one member is complete; bit 0 of OFFSET says that it keeps the line in S (log 29). -/
def deliverCrack (s : State) (d : Nat) (p : Packet) : Option State :=
  match coherentCode s p 0 with
  | some c => some (answerStatus s d p c)
  | none =>
    match (if p.payload.isEmpty then some s else storeLine s p) with
    | none => none
    | some s =>
      let s := if p.offset % 2 = 1 then setDirLine s p.region (lineNo p) { dirLine s p.region (lineNo p) with state := 1 } else dropHolder s p
      let x := dirLine s p.region (lineNo p)
      let s := setDirLine s p.region (lineNo p) { x with recalls := x.recalls.filter (fun m => decide (m ≠ p.src)) }
      some (serveDir (2 * x.pend.length + 4) s p.region (lineNo p))

def deliverCwb (s : State) (d : Nat) (p : Packet) : Option State :=
  match coherentCode s p 0 with
  | some c => some (answerStatus s d p c)
  | none => (storeLine s p).map (fun s => dropHolder s p)

/-- The fabric address at the home that a coherence packet from it names. -/
def homeAddr (p : Packet) : Nat := p.src.toNat * 2 ^ 48 + p.region * 2 ^ 40 + p.offset / 64 * 64

/-- A member answers a recall: a modified line goes with the CRACK (R369). -/
def deliverCrecall (s : State) (d : Nat) (p : Packet) : State :=
  let ack := fun (s : State) (keep : Bool) (code : Nat) (data : List Byte) =>
    sendSeq s d { Packet.blank .crack p.src with
      cls := 3, dstk := p.sstk, region := p.region, offset := p.offset / 64 * 64 + b2n keep, w3 := BitVec.ofNat 64 code, payload := data } none none
  let f := homeAddr p
  let x := lineAt s f
  let down := decide (p.offset % 2 = 1)
  if p.hops ≠ 0 then ack s false eNotCoherent []
  else if x.state = 0 then ack s false 0 []
  else
    let s := setLine s f (if down then { x with state := 1 } else { x with state := 0, data := [] })
    ack s down 0 (if x.state = 2 then x.data else [])

def deliverCdata (s : State) (d : Nat) (p : Packet) : State :=
  if p.hops ≠ 0 then answerStatus s d p eNotCoherent else fillLine s (homeAddr p) (pktCode p) p.src p.payload

/-! ### Channels (R351) -/

/-- A packet of class 0 or 3 in its order, or a class 2 request, is performed; none when it has to wait. -/
def deliver1 (s : State) (d : Nat) (p : Packet) : Option State :=
  match p.typ with
  | .rd => deliverRd s d p
  | .wr => deliverWr s d p
  | .atom => if p.cls = 3 then some (deliverCoherentAtom s d p) else deliverAtom s d p
  | .arrive => some (deliverArrive s d p)
  | .mark => some (deliverMark s d p)
  | .xfer => some (deliverXfer s d p)
  | .crd | .crdx => some (deliverCrd s d p)
  | .cdata => some (deliverCdata s d p)
  | .crecall => some (deliverCrecall s d p)
  | .crack => deliverCrack s d p
  | .cwb => deliverCwb s d p
  | _ => some s

/-- A request of class 2 that cannot be performed yet waits at the target: for an entry (R361), for a page that moves (R175), for a line (R369). -/
def holdRequest (s : State) (d : Nat) (p : Packet) : State :=
  if (getFab s d).waiting.any (sameReq p) then s else modFab s d (fun f => { f with waiting := f.waiting ++ [p] })

/-- The requests that wait at die d, and at the lines that it is home of, are tried again in order. -/
def serveWaiting (s : State) (d : Nat) : State :=
  let s := (getFab s d).waiting.foldl (fun s p =>
    (deliver1 (modFab s d (fun f => { f with waiting := f.waiting.filter (fun q => !sameReq p q) })) d p).getD s) s
  (getFab s d).dir.foldl (fun s e => serveDir (2 * e.2.pend.length + 4) s (e.1 / 2 ^ 34) (e.1 % 2 ^ 34)) s

/-- The object that a packet arrives on. -/
def arrivesOn (p : Packet) : List Nat :=
  match p.typ with
  | .arrive => [p.w3.toNat % 262144]
  | .wr => if p.w3.toNat / 4294967296 = 0 then [] else [p.w3.toNat / 16384 % 262144]
  | _ => []

def recvKey (p : Packet) (e : RecvCh) : Bool := decide (e.src = p.src ∧ e.sstk = p.sstk ∧ e.cls = p.cls.toNat)

def putRecv (f : Fab) (e : RecvCh) : Fab :=
  { f with recv := if f.recv.any (fun x => decide (x.id = e.id)) then f.recv.map (fun x => if x.id = e.id then e else x) else f.recv ++ [e]
           nextId := max f.nextId (e.id + 1) }

/-- The packet came in the channel. -/
def ofChannel (e : RecvCh) (p : Packet) : Bool := decide (p.src = e.src ∧ p.sstk = e.sstk ∧ p.cls.toNat = e.cls)

/-- Everything below NEXT of a channel has been performed: no arrival of it waits at a port, no atomic at a Hearth, for an entry or at a line
(R287, R352). -/
def channelQuiet (s : State) (d : Nat) (e : RecvCh) : Bool :=
  let f := getFab s d
  e.pendObjs.all (fun o => !(getPort s o).any isUpdate) && !(atomsOf s d).any (ofChannel e) && !f.waiting.any (ofChannel e) &&
    !f.dir.any (fun q => q.2.pend.any (fun p => decide (p.typ = .atom) && ofChannel e p))

/-- ACK names its channel's class in REGION (log 28). -/
def sendAck (s : State) (d : Nat) (e : RecvCh) : State :=
  let quiet := channelQuiet s d e
  let n := if quiet then e.next else e.acked
  let s := modFab s d (fun f => putRecv f { e with acked := n, pendObjs := if quiet then [] else e.pendObjs })
  emit s d { Packet.blank .ack e.src with src := s.pkgId, sstk := d, dstk := e.sstk, cls := 1, cseq := n, region := e.cls }

/-- Held successors of a channel are delivered in order. -/
def deliverHeld : Nat → State → Nat → Packet → State
  | 0, s, _, _ => s
  | fuel + 1, s, d, key =>
    match (getFab s d).recv.find? (recvKey key) with
    | none => s
    | some e =>
      match e.held.find? (fun p => decide (p.cseq = e.next)) with
      | none => s
      | some p =>
        match deliver1 s d p with
        | none => s
        | some t =>
          let t := modFab t d (fun f =>
            putRecv f { e with next := e.next + 1, held := e.held.filter (fun q => decide (q.cseq ≠ p.cseq)), pendObjs := e.pendObjs ++ arrivesOn p })
          deliverHeld fuel t d key

def countDup (s : State) (d : Nat) : State := modFab s d (fun f => { f with dupseq := satAdd 0xFFFF f.dupseq 1 })

/-- The channel entry that a packet meets: OPEN replaces it (R351). -/
def recvEntry (f : Fab) (p : Packet) (now : Nat) : Option RecvCh :=
  let old := f.recv.find? (recvKey p)
  if p.openp then
    some { id := (old.map (·.id)).getD f.nextId, src := p.src, sstk := p.sstk, cls := p.cls.toNat, next := 0, held := [], acked := 0,
           usedAt := now, pendObjs := [] }
  else old

/-- The 4,096 receiving entries are all taken by other channels (R351). -/
def recvFull (f : Fab) (p : Packet) : Bool := decide (4096 ≤ f.recv.length) && !f.recv.any (recvKey p)

/-- A sequenced packet is taken by d = (CSEQ − NEXT) mod 2^32; one that opens a channel and finds no entry is discarded, to be sent again under
R352 (log 74). -/
def receiveSeq (s : State) (d : Nat) (p : Packet) : State :=
  match recvEntry (getFab s d) p s.ember with
  | none => countDup s d
  | some e =>
    if recvFull (getFab s d) p then s else
    let e := { e with usedAt := s.ember }
    let k := (p.cseq - e.next).toNat
    if k = 0 then
      match deliver1 (modFab s d (fun f => putRecv f e)) d p with
      | none => s
      | some t =>
        let t := modFab t d (fun f => putRecv f { e with next := e.next + 1, pendObjs := e.pendObjs ++ arrivesOn p })
        deliverHeld 4096 t d p
    else
      let s := modFab s d (fun f => putRecv f e)
      if k < 4096 then
        if e.held.any (fun q => decide (q.cseq = p.cseq)) ∨ 2048 ≤ (((getFab s d).recv.map (fun x => x.held.length)).sum) then s
        else modFab s d (fun f => putRecv f { e with held := e.held ++ [p] })
      else if 2 ^ 32 - 4096 ≤ k then sendAck (countDup s d) d e
      else countDup s d

/-! ### The packet commands -/

/-- A packet of a type for this package is at its target die, whose stack is up. -/
def inboundOk (s : State) (d : Nat) (p : Packet) (typ : PType) : Bool :=
  decide (p.typ = typ ∧ p.dstk = d) && wireOk p && ownDst s p && running s && stackUp s d

/-- A request or a sequenced packet. -/
def takePacket (s : State) (d : Nat) (p : Packet) (typ : PType) : State :=
  if !inboundOk s d p typ then s
  else if p.cls = 0 ∨ p.cls = 3 then receiveSeq s d p
  else (deliver1 s d p).getD (holdRequest s d p)

/-- A response of class 1: `f` takes it. -/
def takeResponse (s : State) (d : Nat) (p : Packet) (typ : PType) (f : State → State) : State :=
  if inboundOk s d p typ then f s else s

def execZfpRd (d : Nat) (p : Packet) (s : State) : Out := onUnit (storeOk d) (takePacket s d p .rd)
def execZfpWr (d : Nat) (p : Packet) (s : State) : Out := onUnit (storeOk d) (takePacket s d p .wr)
def execZfpAtom (d : Nat) (p : Packet) (s : State) : Out := onUnit (storeOk d) (takePacket s d p .atom)
def execZfpArrive (d : Nat) (p : Packet) (s : State) : Out := onUnit (storeOk d) (takePacket s d p .arrive)
def execZfpMark (d : Nat) (p : Packet) (s : State) : Out := onUnit (storeOk d) (takePacket s d p .mark)
def execZfpXfer (d : Nat) (p : Packet) (s : State) : Out := onUnit (storeOk d) (takePacket s d p .xfer)
def execZfpCrd (d : Nat) (p : Packet) (s : State) : Out := onUnit (storeOk d) (takePacket s d p .crd)
def execZfpCrdx (d : Nat) (p : Packet) (s : State) : Out := onUnit (storeOk d) (takePacket s d p .crdx)
def execZfpCdata (d : Nat) (p : Packet) (s : State) : Out := onUnit (storeOk d) (takePacket s d p .cdata)
def execZfpCrecall (d : Nat) (p : Packet) (s : State) : Out := onUnit (storeOk d) (takePacket s d p .crecall)
def execZfpCrack (d : Nat) (p : Packet) (s : State) : Out := onUnit (storeOk d) (takePacket s d p .crack)
def execZfpCwb (d : Nat) (p : Packet) (s : State) : Out := onUnit (storeOk d) (takePacket s d p .cwb)

/-- The RACK deletes the kept result of its key, and an ATOM that waited for an entry starts (R361). -/
def takeRack (s : State) (d : Nat) (p : Packet) : State :=
  serveWaiting (modFab s d (fun f => { f with kept := f.kept.filter (fun k => !keptKey p k) })) d

def execZfpRack (d : Nat) (p : Packet) (s : State) : Out := onUnit (storeOk d) (takeResponse s d p .rack (fun s => takeRack s d p))

/-- A cumulative ACK (R352). -/
def takeAck (s : State) (d : Nat) (p : Packet) : State :=
  match (getFab s d).send.find? (fun e => decide (e.dst = p.src ∧ e.dstk = p.sstk ∧ e.cls = p.region)) with
  | some e => applyAck s d e p.cseq
  | none => s

def execZfpAck (d : Nat) (p : Packet) (s : State) : Out := onUnit (storeOk d) (takeResponse s d p .ack (fun s => takeAck s d p))

/-- STATUS names a packet of a class 0 channel: it is acknowledged, and a rejection is counted (R347, R353). -/
def takeStatus (s : State) (d : Nat) (p : Packet) : State :=
  let n := BitVec.ofNat 32 (p.w3.toNat / 4294967296)
  let code := pktCode p
  match (getFab s d).send.find? (fun e => decide (e.dst = p.src ∧ e.dstk = p.sstk ∧ e.cls = 0)) with
  | none => s
  | some e =>
    match e.unacked.find? (fun q => decide (q.pkt.cseq = n)) with
    | none => s
    | some q =>
      let s := modFab s d (fun f =>
        putChannel f { e with unacked := e.unacked.filter (fun r => decide (r.pkt.cseq ≠ n)), progressAt := s.ember, idleAt := s.ember })
      let s := if code = 0 then ackOne s q.who else rejectWrite s code q.who
      let s := if q.pkt.typ = .xfer then endXfer s d code else s
      let s := if code = 0 then s else countReject s d code p.src
      let s := match q.job with | some j => rejectJob s j code | none => s
      tryXfers (drainChannel 4096 s d e.id)

def execZfpStatus (d : Nat) (p : Packet) (s : State) : Out := onUnit (storeOk d) (takeResponse s d p .status (fun s => takeStatus s d p))

end Sys2Proof.Machine
end

