-- ==== Sys2Proof/Machine/Router.lean ====
section
/-!
DEFINITION. Machine/Router.lean: responses (R358, R361, R364, R365), routers (R354, R355, R364), the timers of the fabric (R351,
R352, R358, R359, R361), transfers, marks and the package identity (R348, R367, R373).
-/
namespace Sys2Proof.Machine

/-! ### Combining (R364, R365) -/

/-- The bytes that a member gives to a combined AXS: its N values of F32. -/
def memberValues (p : Packet) : List Byte := if atomCmbd p then p.payload.take (4 * atomN p) else p.payload.take 4

/-- The one ATOM that stands for its members: all contributions of an AXS, or the sum of the operands of an AADD. -/
def combinedAtom (l : List Packet) : Packet :=
  let p := l.headD (Packet.blank .atom 0)
  let n := contribs l
  let head := fieldAt 60 (p.w3.toNat / 2 ^ 60) + fieldAt 58 (atomSize p) + fieldAt 57 1 + fieldAt 56 1 + fieldAt 50 n
  let sum := (l.map (fun q => leNat (q.payload.take 8))).sum % 2 ^ (8 * 2 ^ atomSize p)
  { p with w3 := BitVec.ofNat 64 head, retry := false
           payload := if atomAop p = some .xs then padded (l.flatMap memberValues) else padded (leBytes 8 sum) }

/-- The answers to the members: OK of an AXS; the old value with the operands of the members before (R364). -/
def memberAnswers (old : Word) : List Packet → Nat → List (Packet × Word)
  | [], _ => []
  | p :: rest, add =>
    let w := 2 ^ (8 * 2 ^ atomSize p)
    let v : Word := if atomAop p = some .xs then 0 else BitVec.ofNat 64 ((old.toNat + add) % w)
    (p, v) :: memberAnswers old rest (add + leNat (p.payload.take 8))

/-- The response to a combined atomic: every member is answered, and its answer is kept under its own key; retries that waited for it go on
(R365). -/
def endCombAtom (s : State) (d : Nat) (c : Comb) (code : Nat) (old : Word) : State :=
  releaseHeld ((memberAnswers old c.members 0).foldl (fun s m =>
    let s := modFab s d (fun f =>
      { f with kept := f.kept ++ [{ id := f.nextId, src := m.1.src, sstk := m.1.sstk, tag := m.1.tag, gen := m.1.gen.toNat, old := m.2, code := code, time := s.ember }]
               nextId := f.nextId + 1 })
    answer s d m.1 .atomrsp code (leBytes 8 m.2.toNat)) (dropComb s d c.id)) d

/-- The response to a combined read: each member gets a copy. -/
def endCombRead (s : State) (d : Nat) (c : Comb) (code : Nat) (data : List Byte) : State :=
  c.members.foldl (fun s m => answer s d m .rdrsp code data) (dropComb s d c.id)

/-! ### Responses -/

def findComb (s : State) (d : Nat) (who : ReqFor) : Option Comb :=
  match who with
  | .comb id => (getFab s d).combs.find? (fun c => decide (c.id = id))
  | _ => none

/-- The entry of the RDs that joined a read of the die itself: its first member is that read. -/
def ledBy (s : State) (d : Nat) (o : OutReq) : Option Comb :=
  (getFab s d).combs.find? (fun c => c.sent && isRd c && c.members.head?.any (sameReq o.pkt))

/-- The reads that joined one of the die itself are answered with it. -/
def endLed (s : State) (d : Nat) (p : Packet) (o : OutReq) : State :=
  match ledBy s d o with
  | some c => endCombRead s d { c with members := c.members.drop 1 } (pktCode p) (p.payload.take (pktBytes o.pkt))
  | none => s

def takeRdrsp (s : State) (d : Nat) (p : Packet) : State :=
  match matchOut s d p with
  | none => countStale s d
  | some o =>
    match findComb s d o.forWho with
    | some c => endCombRead (endRequest s d o) d c (pktCode p) (p.payload.take (pktBytes o.pkt))
    | none => completeRead (endLed s d p o) d p o

def execZfpRdrsp (d : Nat) (p : Packet) (s : State) : Out := onUnit (storeOk d) (takeResponse s d p .rdrsp (fun s => takeRdrsp s d p))

/-- An atomic response completes its request and RACK is sent (R361). -/
def takeAtomrsp (s : State) (d : Nat) (p : Packet) : State :=
  match matchOut s d p with
  | none => countStale s d
  | some o =>
    let s := sendRack (endRequest s d o) d p
    let code := pktCode p
    let old := BitVec.ofNat 64 (leNat (p.payload.take 8))
    match findComb s d o.forWho with
    | some c => endCombAtom s d c code old
    | none =>
      if code = 0 then answerFlight s o.forWho old
      else rejectJob (rejectAtomic (countReject s d code p.src) d code o.forWho) o.job code

def execZfpAtomrsp (d : Nat) (p : Packet) (s : State) : Out := onUnit (storeOk d) (takeResponse s d p .atomrsp (fun s => takeAtomrsp s d p))

/-! ### Routers (R354, R355) -/

def countHop (s : State) (d : Nat) : State := modFab s d (fun f => { f with hoplimit := satAdd 0xFFFF f.hoplimit 1 })

/-- A combinable RD of another package joins one that is outstanding; the first goes on under the router's own tag, so that its response comes
back here (R364, log 31). -/
def forwardRd (s : State) (d : Nat) (p : Packet) : State :=
  match combFor (getFab s d) p with
  | some c => joinComb s d c p
  | none =>
    if !combRoom s d then emit s d p
    else
      let t := openComb s d p true
      sendRequest t.1 d p 2 8 (.comb t.2)

/-- A retry of a request that this router has combined: the router answers it from its record (R365); being of class 0 the packet goes on
all the same, since its channel needs it; a retry of one that is not answered yet waits here for the answer (log 31). -/
def answerRecord (s : State) (d : Nat) (p : Packet) : State :=
  match (if p.typ = .atom ∧ p.retry then (getFab s d).kept.find? (keptKey p) else none) with
  | some k => answer (modFab s d (fun f => { f with dupatom := wrap32 (f.dupatom + 1) })) d p .atomrsp k.code (leBytes 8 k.old.toNat)
  | none => s

/-- A router takes a packet for another package. -/
def forwardPacket (s : State) (d : Nat) (p : Packet) : State :=
  match p.typ with
  | .reserved _ => countHop s d
  | _ =>
    if ownDst s p then s
    else if 48 ≤ p.hops then countHop s d
    else if p.cls = 3 then s
    else
      let s := answerRecord s d p
      let p := { p with hops := p.hops + 1 }
      if p.cls = 2 ∧ rdComb p then forwardRd s d p
      else if p.cls = 2 ∧ atomComb p then combineAtom s d p
      else if inComb (getFab s d) p then holdPacket s d p
      else emit s d p

def execPacketForward (d : Nat) (p : Packet) (s : State) : Out :=
  onUnit (storeOk d) (if running s ∧ forwards s d ∧ wireOk p then forwardPacket s d p else s)

/-- The window of an entry closes: one request goes on as it is, several go as one under the router's own tag (R364, R365). -/
def closeWindow (s : State) (d : Nat) (c : Comb) : State :=
  match c.members with
  | [p] => emit (dropComb s d c.id) d p
  | l =>
    let s := modComb s d c.id (fun c => { c with sent := true })
    let s := modFab s d (fun f => { f with combAtoms := wrap32 (f.combAtoms + l.length) })
    sendRequest s d (combinedAtom l) 2 8 (.comb c.id)

def execCombineWindowClose (d id : Nat) (s : State) : Out :=
  onUnit (storeOk d)
    (match (getFab s d).combs.find? (fun c => decide (c.id = id) && !c.sent) with
     | some c => if forwards s d then closeWindow s d c else s
     | none => s)

/-- A packet held for 625 ticks is discarded (R355). -/
def execPacketResidencyDrop (d id : Nat) (s : State) : Out :=
  onUnit (storeOk d)
    (match (getFab s d).held.find? (fun h => decide (h.1 = id)) with
     | some h =>
       modFab (advanceTo s (h.2.2 + 625)) d (fun f =>
         { f with held := f.held.filter (fun g => decide (g.1 ≠ id)), residency := satAdd 0xFFFF f.residency 1 })
     | none => s)

/-! ### Timers -/

/-- A receiver acknowledges what it has performed (R352). -/
def execAckPeriodic (d ch : Nat) (s : State) : Out :=
  onUnit (storeOk d)
    (match (getFab s d).recv.find? (fun e => decide (e.id = ch)) with
     | some e => if e.next ≠ e.acked ∧ channelQuiet s d e ∧ stackUp s d then sendAck s d e else s
     | none => s)

/-- No progress for 2,500 ticks: every unacknowledged packet is resent; one resent eight times ends the channel (R352). -/
def execChannelResendTimeout (d ch : Nat) (s : State) : Out :=
  onUnit (storeOk d)
    (match (getFab s d).send.find? (fun e => decide (e.id = ch)) with
     | none => s
     | some e =>
       if e.unacked.isEmpty ∨ !stackUp s d then s
       else
         let s := advanceTo s (e.progressAt + 2500)
         if e.unacked.any (fun p => decide (8 ≤ p.resent)) then serveChannels (endChannel s d e.id) d
         else
           let own := decide (e.dst = s.pkgId) && s.pkgSet
           match (if own then some 0 else channelPath s d e) with
           | some n => resendAll s d e (some n) true
           | none => serveChannels (endChannel s d e.id) d)

/-- Idle channel entries are freed: a sending one after 60,000 ticks, a receiving one after 120,000 (R351). -/
def execChannelEntryIdleFree (d ch : Nat) (sending : Bool) (s : State) : Out :=
  onUnit (storeOk d)
    (if sending then
       match (getFab s d).send.find? (fun e => decide (e.id = ch)) with
       | some e =>
         if e.unacked.isEmpty ∧ e.waitQ.isEmpty then
           serveChannels (modFab (advanceTo s (e.idleAt + 60000)) d (fun f => { f with send := f.send.filter (fun x => decide (x.id ≠ ch)) })) d
         else s
       | none => s
     else
       match (getFab s d).recv.find? (fun e => decide (e.id = ch)) with
       | some e => modFab (advanceTo s (e.usedAt + 120000)) d (fun f => { f with recv := f.recv.filter (fun x => decide (x.id ≠ ch)) })
       | none => s)

def findOut (s : State) (d tag : Nat) : Option OutReq := (getFab s d).outs.find? (fun o => decide (o.tag = tag))

/-- Word 3 of a retry: not combinable (R359). -/
def uncombined (p : Packet) : Packet :=
  let bit := if p.typ = .rd then 9 else 57
  { p with w3 := p.w3 &&& ~~~(1#64 <<< bit), cls := 0, retry := true }

/-- The request is sent again in class 0, at most four times, before its timeout (R359). -/
def execRemoteRequestRetry (d tag : Nat) (s : State) : Out :=
  onUnit (storeOk d)
    (match findOut s d tag with
     | none => s
     | some o =>
       if 4 ≤ o.retries ∨ o.sentAt + 31250 ≤ s.ember ∨ !stackUp s d then s
       else
         let s := advanceTo s (o.lastAt + 6250)
         let p := uncombined o.pkt
         let o' := { o with retries := o.retries + 1, lastAt := s.ember, pkt := p }
         let s := modFab s d (fun f => { f with outs := f.outs.map (fun x => if x.tag = tag then o' else x) })
         sendSeq s d p (some o.job) none)

/-- The request has timed out: a job fault; its tag is quarantined for 60,000 ticks (R359). -/
def timeOut (s : State) (d : Nat) (o : OutReq) : State :=
  let s := advanceTo s (o.sentAt + 31250)
  let s := returnTag s d o.tag o.gen
  let s := modFab s d (fun f => { f with quar := mput o.tag (s.ember + 60000) f.quar, recent := mdel o.tag f.recent })
  let s := match (findComb s d o.forWho).or (ledBy s d o) with | some c => dropComb s d c.id | none => s
  jobFault s o.job (if o.pkt.typ = .rd then eLinkNoPath else eAtomicIndeterminate)

def execRemoteRequestTimeout (d tag : Nat) (s : State) : Out :=
  onUnit (storeOk d) (match findOut s d tag with | some o => timeOut s d o | none => s)

/-- A tag that was quarantined, or whose next generation was recent, may be issued (R358, R359). -/
def execTagQuarantineEnd (d tag : Nat) (s : State) : Out :=
  onUnit (storeOk d)
    (let f := getFab s d
     match (mfind f.quar tag).or (mfind f.recent tag) with
     | none => s
     | some t => serveTags (modFab (advanceTo s t) d (fun f => { f with quar := mdel tag f.quar, recent := mdel tag f.recent })) d)

/-- A kept result expires 60,000 ticks after it was made (R361, R365). -/
def execKeptResultExpiry (d id : Nat) (s : State) : Out :=
  onUnit (storeOk d)
    (match (getFab s d).kept.find? (fun k => decide (k.id = id)) with
     | none => s
     | some k => serveWaiting (modFab (advanceTo s (k.time + 60000)) d (fun f => { f with kept := f.kept.filter (fun x => decide (x.id ≠ id)) })) d)

/-! ### Registers that act (R348, R367, R373) -/

/-- Channels of the package to a home with the number that their next packet would carry. -/
def channelsTo (s : State) (home : BitVec 16) : List (Nat × Nat × BitVec 32) :=
  (List.range 4).flatMap (fun d => ((getFab s d).send.filter (fun e => decide (e.dst = home))).map (fun e => (d, e.id, e.next)))

/-- A write to FAB[s].XFER (R348, R373). -/
def writeXfer (s : State) (d : Nat) (v : Word) : State :=
  let n := v.toNat
  let region := bits n 47 40
  checkWrite s (fabBase d) 0x40
    [(decide (bits n 23 0 ≠ 0), eArgReserved), (decide (region = 255), eArgRange), ((getFab s d).xferBusy, eBadState)]
    (fun s =>
      let home := BitVec.ofNat 16 (n / 2 ^ 48)
      tryXfer (modFab s d (fun f =>
        { f with xfer := some (home, region, BitVec.ofNat 16 (bits n 39 24)), xferBusy := true, xferSent := false
                 xferWait := channelsTo s home })) d)

def execRegionTransfer (d : Nat) (v : Word) (s : State) : Out := onUnit (storeOk d) (writeXfer s d v)

/-- A write to FAB[s].MARKTX sends a MARK to die 0 of its destination (R367). -/
def writeMarktx (s : State) (d : Nat) (v : Word) : State :=
  checkWrite s (fabBase d) 0x50 [(decide (bits v.toNat 47 32 ≠ 0), eArgReserved)] (fun s =>
    sendSeq s d { Packet.blank .mark (BitVec.ofNat 16 (v.toNat / 2 ^ 48)) with w3 := BitVec.ofNat 64 (v.toNat % 2 ^ 32) } none none)

def execMarkSend (d : Nat) (v : Word) (s : State) : Out := onUnit (storeOk d) (writeMarktx s d v)

/-- A read of FAB[s].MARKRX removes the oldest mark and loads MARKTIME. -/
def readMark (s : State) (d : Nat) : State :=
  let f := getFab s d
  match f.marks with
  | [] => { s with rdata := 0 }
  | (src, v, t) :: rest =>
    { setFab s d { f with marks := rest, markTime := t } with
      rdata := BitVec.ofNat 64 (fieldAt 48 src.toNat + fieldAt 32 1 + v.toNat) }

def execMarkReceiveRead (d : Nat) (s : State) : Out :=
  onUnit (storeOk d) (if !powered s then s else if booted s then readMark s d else { s with rdata := 0 })

/-- A write to FAB[0].ID (R373). -/
def writePkgid (s : State) (v : Word) : State :=
  checkWrite s (fabBase 0) 0
    [(decide (bits v.toNat 63 17 ≠ 0), eArgReserved), (decide (bits v.toNat 15 0 = 0xFFFF), eArgRange),
     ((List.range 48).any (fun l => decide ((getLink s l).state ≠ 0 ∧ (getLink s l).state ≠ 6)), eBadState)]
    (fun s => { s with pkgId := v.setWidth 16, pkgSet := true })

def execPkgidWrite (v : Word) (s : State) : Out := .next (writePkgid s v)

end Sys2Proof.Machine
end

