-- ==== Sys2Proof/Machine/Links.lean ====
section
/-!
DEFINITION. Machine/Links.lean: the links: flits (R341, R342), training (R343, R344), loss (R356, R370), retirement (R437, R438), LINK.CTRL
(R371).
-/
namespace Sys2Proof.Machine

/-! ### Lanes (R344) -/

/-- The lanes that a link can use: all four, or a pair that holds no retired lane. -/
def lanesUsable (x : Link) : Nat :=
  if x.lanesRetired.isEmpty then 15
  else if !x.lanesRetired.contains 0 && !x.lanesRetired.contains 1 then 3
  else if !x.lanesRetired.contains 2 && !x.lanesRetired.contains 3 then 12
  else 0

def laneWidth (x : Link) : Nat := if lanesUsable x = 15 then 4 else if lanesUsable x = 0 then 0 else 2

/-! ### States -/

/-- A direct link to a package is UP. -/
def directUp (s : State) (peer : BitVec 16) : Bool := (List.range 48).any (fun l => linkUp s l && decide ((getLink s l).peer = peer))

/-- A package can no longer be reached directly: lines that it holds of this package's regions are lost, and lines held here of its regions
(R370). -/
def loseMember (s : State) (peer : BitVec 16) : State :=
  if peer = 0xFFFF ∨ directUp s peer then s
  else
    let s := s.regions.foldl (fun s e =>
      if e.2.valid && decide (e.2.mode = 3) && e.2.dom.contains peer then
        let s := modFab s (e.1 % 4) (fun f =>
          { f with dir := (f.dir.filter (fun q => decide (q.1 / 2 ^ 34 ≠ e.1 ∨ ¬ q.2.holders.contains peer))) })
        jobFault s e.2.ctx eLinkNoPath
      else s) s
    let s := (List.range 8).foldl (fun s j =>
      if (getJob s j).loaded && (getJob s j).image.regions.any (fun r => r.coherent && decide (r.target / 2 ^ 48 = peer.toNat)) then jobFault s j eLinkNoPath
      else s) s
    (List.range 4).foldl (fun s d => modFab s d (fun f => { f with lines := f.lines.filter (fun e => decide (e.1 / 2 ^ 42 ≠ peer.toNat)) })) s

/-- A change of LINK[l].STATUS.STATE: its event; channels leave a link that leaves UP, held packets take one that comes UP. -/
def setLinkState (s : State) (l st : Nat) : State :=
  let x := getLink s l
  if x.state = st then s
  else
    let s := setLink s l { x with state := st, since := s.ember, peer := if st = 5 then x.peer else 0xFFFF, rx := [], replay := [] }
    let s := raiseEvent s (160 + l)
    let s := if x.state = 5 then loseMember ((List.range 4).foldl movePaths s) x.peer else s
    if st = 5 then (List.range 4).foldl releaseHeld s else s

/-- The link goes DOWN, unless it is retired. -/
def linkDown (s : State) (l : Nat) : State := if (getLink s l).state = 6 then s else setLinkState s l 0

/-- The link is retired (R437, R438). -/
def retireLink (s : State) (l : Nat) : State :=
  if (getLink s l).state = 6 then s
  else
    let s := journalWrite s 6 l 0
    reportOf (modLink (setLinkState s l 6) l (fun x => { x with lanes := 0 })) eLinkRetired l

/-- A lane is retired: the link goes on at width 2, or is retired when no pair is left (R344, R437). -/
def retireLane (s : State) (l lane : Nat) : State :=
  if (getLink s l).state = 6 ∨ (getLink s l).lanesRetired.contains lane ∨ 4 ≤ lane then s
  else
    let s := journalWrite s 5 l lane
    let s := modLink s l (fun x => { x with lanesRetired := x.lanesRetired ++ [lane], laneFails := mdel lane x.laneFails })
    let x := getLink s l
    if lanesUsable x = 0 then retireLink s l
    else reportOf (modLink s l (fun x => { x with lanes := if x.lanes = 0 then 0 else lanesUsable x })) eLinkRetired l

/-! ### Training (R343) -/

/-- The link may train: firmware runs, the package is ACTIVE or asleep, the reference clock of its die is there, its stack is up. -/
def mayTrain (s : State) (l : Nat) : Bool :=
  booted s && decide (s.pwr.pstate = 2 ∨ s.pwr.pstate = 3) && decide (s.failTrigger = 0) && !s.pwr.refLost.contains (.ser (dieOfLink l)) &&
    decide ((getRst s (dieOfLink l)).phase = 0 ∨ (getRst s (dieOfLink l)).phase = 1 ∨ (getRst s (dieOfLink l)).computeOnly) && (getLink s l).enable

/-- The next attempt starts 25,000 ticks after the link went DOWN; entering DETECT clears RETRAIN. -/
def execLinkRetryDelayExpiry (l : Nat) (s : State) : Out :=
  onUnit (linkOk l)
    (if (getLink s l).state = 0 ∧ mayTrain s l then
       setLinkState (modLink (advanceTo s ((getLink s l).since + 25000)) l (fun x => { x with retrain := false })) l 1
     else s)

/-- DETECT ends well: TRAIN is entered, and counted; the eighth entry within 25,000,000 ticks retires the link (R437). -/
def execLinkDetectComplete (l : Nat) (s : State) : Out :=
  onUnit (linkOk l)
    (if (getLink s l).state = 1 ∧ mayTrain s l then
       let s := modLink s l (fun x =>
         { x with trains := satAdd 0xFFFF x.trains 1, trainTimes := s.ember :: x.trainTimes.filter (fun t => decide (s.ember < t + 25000000)) })
       let s := setLinkState s l 2
       if 8 ≤ (getLink s l).trainTimes.length then retireLink s l else s
     else s)

def execLinkTrainComplete (l : Nat) (s : State) : Out :=
  onUnit (linkOk l) (if (getLink s l).state = 2 ∧ mayTrain s l then setLinkState s l 3 else s)

/-- ALIGN ends well on every lane in use: attempts that failed before are no longer successive. -/
def execLinkAlignComplete (l : Nat) (s : State) : Out :=
  onUnit (linkOk l)
    (if (getLink s l).state = 3 ∧ mayTrain s l then setLinkState (modLink s l (fun x => { x with laneFails := [] })) l 4 else s)

/-- NEGOTIATE: identity, revision and width agree and the link is UP, or it goes DOWN. -/
def execLinkNegotiateComplete (l : Nat) (peer : BitVec 16) (peerLink peerRev peerLanes : Nat) (peerAssigned : Bool) (s : State) : Out :=
  onUnit (linkOk l)
    (let x := getLink s l
     if x.state ≠ 4 ∨ !mayTrain s l then s
     else if !s.pkgSet ∨ !peerAssigned ∨ peer = s.pkgId ∨ peerLanes ≠ laneWidth x ∨ peerRev ≠ 1 then linkDown s l
     else
       let s := setLinkState s l 5
       let s := modLink s l (fun x => { x with peer := peer, peerLink := peerLink % 64, lanes := lanesUsable x, rxNext := 0, nakSent := false
                                               credits := [512, 512, 512, 512], txNext := 0 })
       (List.range 4).foldl releaseHeld s)

/-- Time limits of the training states in ticks. -/
def trainLimit (st : Nat) : Nat := if st = 1 then 2500 else if st = 2 then 250000 else if st = 3 then 25000 else 2500

/-- A training state fails or times out: the link goes DOWN; a lane that fails TRAIN or ALIGN three times in succession is retired
(R437). -/
def execLinkStateTimeout (l : Nat) (lanes : List Nat) (s : State) : Out :=
  onUnit (linkOk l)
    (let x := getLink s l
     if x.state = 0 ∨ 5 ≤ x.state ∨ !mayTrain s l then s
     else
       let s := advanceTo s (x.since + trainLimit x.state)
       let count := fun (m : List (Nat × Nat)) => (List.range 4).foldl (fun m i => if lanes.contains i then mset 0 i (mget 0 m i + 1) m else mset 0 i 0 m) m
       let s := if x.state = 2 ∨ x.state = 3 then modLink s l (fun x => { x with laneFails := count x.laneFails }) else s
       let s := linkDown s l
       ((List.range 4).filter (fun i => decide (3 ≤ mget 0 (getLink s l).laneFails i))).foldl (fun s i => retireLane s l i) s)

/-- What the transmitter of a link sends (R343, R444, R449). -/
inductive LinkSends where
  | idle | training | flits | faultIdle
  deriving DecidableEq, Repr

/-- In the fail-safe state a link in UP sends fault-idle, as do the links of a store die in reset (R444 step 4). -/
def linkSends (s : State) (l : Nat) : LinkSends :=
  let st := (getLink s l).state
  let r := getRst s (dieOfLink l)
  if decide (2 ≤ r.phase) && !r.computeOnly then .faultIdle
  else if st = 5 then (if s.failTrigger = 0 then .flits else .faultIdle)
  else if st = 0 ∨ st = 6 then .idle
  else .training

/-- In the fail-safe state a link that trains fails its attempt; one in UP stays and sends fault-idle (R343, R449). -/
def linkFailSafe (s : State) (l : Nat) : State := if (getLink s l).state = 5 then s else linkDown s l

/-- A link leaves UP (R356). -/
def execLinkLoss (l : Nat) (s : State) : Out := onUnit (linkOk l) (if (getLink s l).state = 5 then linkDown s l else s)

/-! ### Flits (R341, R342) -/

/-- A discarded flit: the receiver sends NAK. -/
def discardFlit (s : State) (l : Nat) : State := modLink s l (fun x => { x with nakSent := true })

/-- A codeword that cannot be corrected; 16 within 25,000 ticks take the link DOWN to train again (R437). -/
def badCodeword (s : State) (l : Nat) : State :=
  let s := modLink s l (fun x =>
    { x with uncorr := satAdd 0xFFFF x.uncorr 1, uncorrTimes := s.ember :: x.uncorrTimes.filter (fun t => decide (s.ember < t + 25000)) })
  let s := discardFlit s l
  if 16 ≤ (getLink s l).uncorrTimes.length then linkDown (modLink s l (fun x => { x with uncorrTimes := [] })) l else s

/-- Flits without a packet that the transmitter has sent since: how many is a matter of time, so it is free (log 32). -/
def idleFlits (s : State) (l : Nat) : State :=
  let n := (Config.freeWord s.free 9400).toNat % 513
  modLink (draw s) l (fun x =>
    let m := min n (512 - x.replay.length)
    { x with txNext := x.txNext + BitVec.ofNat 12 m, replay := x.replay ++ List.replicate m [] })

/-- FACK releases every flit below it from the replay buffer; a number that no flit of the buffer has says nothing (R341, R342). -/
def Link.release (x : Link) (fack : BitVec 12) : Link :=
  let k := (fack - (x.txNext - BitVec.ofNat 12 x.replay.length)).toNat
  if k ≤ x.replay.length then { x with replay := x.replay.drop k } else x

/-- The transmitter replays every flit of its buffer, in order: each counts and is reported (R342). -/
def replayFlits (s : State) (l : Nat) : State :=
  let n := (getLink s l).replay.length
  (List.range n).foldl (fun s _ => reportOf s iLinkRetry l) (modLink s l (fun x => { x with llretry := wrap32 (x.llretry + n) }))

/-- A packet reaches its router: of a reserved type it is discarded and counted, for this package it goes to the target die that it names, for
another it is forwarded (R350, R354). -/
def routePacket (s : State) (d : Nat) (p : Packet) : State :=
  if !wireOk p then s
  else if !ownDst s p then (if running s && forwards s d then forwardPacket s d p else s)
  else
    match p.typ with
    | .reserved _ => countHop s d
    | .rdrsp => takeResponse s p.dstk p .rdrsp (fun s => takeRdrsp s p.dstk p)
    | .atomrsp => takeResponse s p.dstk p .atomrsp (fun s => takeAtomrsp s p.dstk p)
    | .ack => takeResponse s p.dstk p .ack (fun s => takeAck s p.dstk p)
    | .rack => takeResponse s p.dstk p .rack (fun s => takeRack s p.dstk p)
    | .status => takeResponse s p.dstk p .status (fun s => takeStatus s p.dstk p)
    | .rd | .wr | .atom | .arrive | .mark | .xfer | .crd | .crdx | .cdata | .crecall | .crack | .cwb => takePacket s p.dstk p p.typ

/-- The packets of a flit in its turn reach the router of the link's die; one that goes on in the next flit waits for it (R341). -/
def flitPackets (s : State) (l : Nat) (f : Flit) : State :=
  let t := takePackets 64 ((getLink s l).rx ++ flitSlots f)
  t.1.foldl (fun s p => routePacket s (dieOfLink l) p) (modLink s l (fun x => { x with rx := t.2 }))

/-- A flit in its turn: its credits and its packets. -/
def nextFlit (s : State) (l : Nat) (f : Flit) : State :=
  let s := modLink s l (fun x =>
    { x with rxNext := x.rxNext + 1, nakSent := false, credits := x.credits.mapIdx (fun i v => min 512 (v + flitCredit f i)) })
  flitPackets ((List.range 4).foldl releaseHeld s) l f

/-- A good flit: FACK and NAK for the transmitter, then its place in the sequence; out of its turn it is discarded. -/
def goodFlit (s : State) (l : Nat) (f : Flit) : State :=
  let s := modLink (idleFlits s l) l (fun x => x.release (flitAck f))
  let s := if flitNak f then replayFlits s l else s
  if flitSeq f = (getLink s l).rxNext then nextFlit s l f else discardFlit s l

def receiveFlit (s : State) (l : Nat) (f : Flit) : State :=
  let s := modLink s l (fun x => { x with fecSym := (x.fecSym + f.corrected) % 2 ^ 64 })
  let s :=
    if f.uncorr then badCodeword s l
    else if flitBad f then discardFlit (modLink s l (fun x => { x with crcFail := satAdd 0xFFFF x.crcFail 1 })) l
    else goodFlit s l f
  f.badLanes.foldl (fun s i => retireLane s l i) s

/-- A flit is 640 bytes. -/
def execFlitReceive (l : Nat) (f : Flit) (s : State) : Out :=
  onUnit (linkOk l) (if linkUp s l && decide (f.bytes.length = 640) then receiveFlit s l f else s)

/-! ### LINK[l].CTRL (R371) -/

/-- A write of LINK[l].CTRL: RETRAIN, and ENABLE = 0, take the link to DOWN. -/
def writeLinkCtrl (s : State) (l : Nat) (v : Word) : State :=
  checkWrite s (linkBase l) 8
    [(decide (bits v.toNat 63 2 ≠ 0), eArgReserved), (bitAt v.toNat 1 && decide ((getLink s l).state = 6), eBadState)]
    (fun s =>
      let s := modLink s l (fun x => { x with enable := bitAt v.toNat 0, retrain := x.retrain || bitAt v.toNat 1 })
      if bitAt v.toNat 1 || !bitAt v.toNat 0 then linkDown s l else s)

/-- A write that sets RETRAIN. -/
def execLinkRetrain (l : Nat) (v : Word) (s : State) : Out := onUnit (linkOk l) (if bitAt v.toNat 1 then writeLinkCtrl s l v else s)

/-- A write of ENABLE without RETRAIN. -/
def execLinkEnable (l : Nat) (v : Word) (s : State) : Out := onUnit (linkOk l) (if bitAt v.toNat 1 then s else writeLinkCtrl s l v)

end Sys2Proof.Machine
end

