-- ==== Sys2Proof/Machine/LoadCheck.lean ====
section
/-!
DEFINITION. Machine/LoadCheck.lean: what the loader refuses in program words: KCI words (R86, R111, R150, R278), dispatch words (R228),
update programs (R318 to R321, R324).
-/
namespace Sys2Proof.Machine

/-! ### Formats -/

/-- A code of R32 that a KCI word may name: not reserved, no MX format. -/
def wordFmt (f : Nat) : Bool := fmtKnown f && !isMx f

/-- The targets that stochastic rounding may have (R44). -/
def srAllowed (f : Nat) : Bool := (decide (1 ≤ f ∧ f ≤ 6)) || isSb f

/-- A rounding mode for a target format (R44, R86). -/
def rndOk (mode f : Nat) : Bool := decide (mode < 2) || (decide (mode = 2) && srAllowed f)

def sb68 (f : Nat) : Bool := decide (8 ≤ f ∧ f ≤ 0xB)

/-- The format pairs of R101, in either order. -/
def pairOk (a b : Nat) : Bool :=
  (isSb a && isSb b) || (decide (a = 3 ∨ a = 4) && decide (b = 3 ∨ b = 4)) || (decide (a = 5 ∨ a = 6) && decide (b = 5 ∨ b = 6)) ||
    decide (a = b ∧ a ≤ 2)

/-- A direct target lies in the program region. -/
def targetIn (words pc : Nat) (w : Word) : Bool :=
  let t : Int := (pc : Int) + signedOf 32 (wImm w)
  decide (0 ≤ t ∧ t < words)

/-! ### Words by class: what makes each one well formed -/

def ctlOk (words pc : Nat) (w : Word) : Bool :=
  let op := wOp w
  decide (wC w = 0) &&
    (if op = 0 ∨ op = 3 ∨ op = 4 ∨ (0x11 ≤ op ∧ op ≤ 0x13) ∨ op = 0x15 then true
     else if op = 0x14 then decide (wImm w ≤ 7)
     else if op = 1 ∨ op = 2 ∨ (8 ≤ op ∧ op ≤ 0xD) ∨ op = 0x10 then targetIn words pc w
     else false)

def scaOk (w : Word) : Bool :=
  let op := wOp w
  decide (wImm w = 0) && decide (op ≤ 8 ∨ (0x10 ≤ op ∧ op ≤ 0x15) ∨ (0x18 ≤ op ∧ op ≤ 0x1E) ∨ (0x20 ≤ op ∧ op ≤ 0x29))

def sciOk (w : Word) : Bool :=
  let op := wOp w
  decide (bits w.toNat 41 32 = 0 ∧ op ≤ 9) && (decide (op < 4 ∨ 6 < op) || decide (wImm w < 64))

def memOk (w : Word) : Bool :=
  let op := wOp w
  decide (wOrd w ≠ 3) &&
    (if op ≤ 4 then true
     else if 0x10 ≤ op ∧ op ≤ 0x16 then
       wSpace w && (if op = 0x11 then decide (wSize w = 2) else if op = 0x12 then decide (wSize w = 3) else decide (2 ≤ wSize w))
     else false)

def synOk (w : Word) : Bool :=
  let op := wOp w
  decide (wOrd w ≠ 3) &&
    (if op = 0 then decide (wImm w ≤ 1 ∧ wA w = 0 ∧ wB w = 0 ∧ wC w = 0 ∧ wD w = 0)
     else if 0x10 ≤ op ∧ op ≤ 0x15 then
       wSpace w && decide (wSize w = 3) &&
         (if op = 0x10 ∨ op = 0x11 ∨ op = 0x15 then decide (wOrd w ≠ 1) else decide (wOrd w ≠ 2)) &&
         (if op = 0x10 ∨ op = 0x11 ∨ op = 0x12 ∨ op = 0x15 then decide (wD w = 0) else true)
     else false)

def alcOk (w : Word) : Bool := decide (wImm w = 0) && decide (wOp w ≤ 2 ∨ wOp w = 8)
def blwOk (w : Word) : Bool := decide (wImm w = 0) && decide (wOp w ≤ 4)

/-- FMT by the views of R129: a floating-point view, or any view. -/
def floatView (f : Nat) : Bool := decide (f ≤ 2)
def anyView (f : Nat) : Bool := decide (f ≤ 2 ∨ f = 5)

/-- The pairs of R147 with the alignment of their tile groups. -/
def cvtOk (w : Word) : Bool :=
  let a := wImm16 w
  let b := wFmt w
  let narrow16 := fun (f : Nat) => decide (f = 1 ∨ f = 2)
  let narrow8 := fun (f : Nat) => decide (f = 3 ∨ f = 4 ∨ f = 5)
  (decide (a = 0) && narrow16 b && decide (wA w % 2 = 0)) || (decide (a = 0) && narrow8 b && decide (wA w % 4 = 0)) ||
    (narrow16 a && decide (b = 0) && decide (wD w % 2 = 0)) ||
    ((narrow8 a || decide (a = 0x19)) && decide (b = 0) && decide (wD w % 4 = 0))

/-- The formats and the immediate that a VEC operation takes. Whether MFIRST is among the operations whose MASK and MZ must be 0 (R143
speaks of "these operations", R150 lists only MAND, MOR, MXOR and MNOT) the spec leaves open: here it is not (DESIGN CHOICE, log 101). -/
def vecForm (w : Word) : Bool :=
  let op := wOp w
  let f := wFmt w
  let imm := wImm16 w
  if op ≤ 0xB ∨ (0x30 ≤ op ∧ op ≤ 0x35) ∨ (0x40 ≤ op ∧ op ≤ 0x45) ∨ (0x53 ≤ op ∧ op ≤ 0x55) ∨ (0x70 ≤ op ∧ op ≤ 0x75) then
    floatView f && decide (imm = 0)
  else if 0x20 ≤ op ∧ op ≤ 0x29 then anyView f && decide (imm = 0)
  else if op = 0x46 then floatView f && decide (imm ≤ 1)
  else if 0x50 ≤ op ∧ op ≤ 0x52 then (if imm = 0 then floatView f else anyView f) && decide (imm ≤ 2)
  else if 0x60 ≤ op ∧ op ≤ 0x63 then anyView f && decide (imm = 0 ∧ wMask w = 0) && !wMz w
  else if op = 0x64 then anyView f && decide (imm ≤ 2)
  else if op = 0x80 then cvtOk w
  else if op = 0x90 ∨ op = 0x94 then anyView f && decide (imm = 0)
  else if op = 0x91 ∨ op = 0x95 then anyView f && decide (imm = 0) && !wMz w
  else if op = 0x92 then anyView f && decide (imm ≤ 2)
  else if op = 0x93 ∨ op = 0x96 then decide (f = 0 ∧ imm = 0)
  else false

def vecOk (w : Word) : Bool :=
  decide (bits w.toNat 17 16 = 0) && wordFmt (wFmt w) && vecForm w &&
    (if wOp w = 0x80 then rndOk (wRnd w) (wFmt w) && decide (wFmt w ≠ 0 ∨ wRnd w = 0) else decide (wRnd w = 0))

/-- VMEM words. -/
def vmemOk (w : Word) : Bool :=
  let op := wOp w
  let f := wFmt w
  decide (bits w.toNat 17 16 = 0 ∧ bits w.toNat 35 32 = 0) && wordFmt f &&
    (if op = 0 ∨ op = 1 then
       (decide (f ≤ 6) || (isSb f && decide (wA w ≠ 31 ∧ wD w % 4 = 0) && (decide (op = 0) || wMz w))) &&
         (if op = 0 then decide (wRnd w = 0) else rndOk (wRnd w) f && decide (f ≠ 0 ∨ wRnd w = 0))
     else if op = 2 then decide (f = 0 ∧ wRnd w = 0)
     else if op = 4 ∨ op = 5 then decide (f = 0 ∧ wRnd w = 0 ∧ wMask w = 0) && !wMz w
     else false)

def matOk (w : Word) : Bool :=
  decide (wOp w ≤ 1 ∧ bits w.toNat 51 51 = 0 ∧ bits w.toNat 7 0 = 0 ∧ xMsk w ≠ 3) && pairOk (xFmtA w) (xFmtB w) &&
    !(xSrcA w && xSpA w) && !(xSrcB w && xSpB w) && (xSrcA w || !isSb (xFmtA w) || decide (wA w ≠ 31)) &&
    (xSrcB w || !isSb (xFmtB w) || decide (wB w ≠ 31))

/-- The DEST and FMT pairs of R85 and R118, which every word of format Q must keep (R86). -/
def destFmt (w : Word) : Bool :=
  if qDest w = 0 then decide (wFmt w ≤ 2) else decide (qDest w ≠ 3) && (decide (wFmt w ≤ 6) || isSb (wFmt w))

/-- A Quench names its tiles from a multiple of their count, and leaves a register A + 1 for a scale address (R86, R111). -/
def quenchForm (w : Word) : Bool :=
  if qDest w = 0 then decide (wD w % (if wFmt w = 0 then 4 else 2) = 0) else !isSb (wFmt w) || decide (wA w ≠ 31)

def qncOk (w : Word) : Bool :=
  let op := wOp w
  decide (bits w.toNat 10 0 = 0) && wordFmt (wFmt w) && destFmt w && rndOk (qRnd w) (wFmt w) &&
    (if op ≤ 1 then quenchForm w
     else if op = 2 then quenchForm w && decide (qPre w % 4 = 0)
     else if op = 8 then true
     else if op = 9 then decide (qPre w % 4 = 0)
     else false)

/-- Word `pc` of a stage program passes the loader's checks. -/
def kciOk (words pc : Nat) (w : Word) : Bool :=
  match wClass w with
  | 0x0 => ctlOk words pc w
  | 0x1 => scaOk w
  | 0x2 => sciOk w
  | 0x3 => memOk w
  | 0x4 => synOk w
  | 0x5 => alcOk w
  | 0x6 => blwOk w
  | 0x8 => vecOk w
  | 0x9 => vmemOk w
  | 0xC => matOk w
  | 0xD => qncOk w
  | _ => false

def kciProgramOk (words : Nat) (l : List Word) : Bool := (l.mapIdx (fun i w => kciOk words i w)).all id

/-! ### Dispatch words (R227, R228) -/

def dispatchOk (len pc : Nat) (w : BitVec 32) : Bool :=
  let op := bits w.toNat 31 26
  let imm := signedOf 14 (bits w.toNat 13 0)
  if op ≤ 0xB ∨ op = 0x20 ∨ (0x22 ≤ op ∧ op ≤ 0x24) ∨ op = 0x3F then true
  else if 0x10 ≤ op ∧ op ≤ 0x13 then decide (0 ≤ (pc : Int) + imm ∧ (pc : Int) + imm < len)
  else if op = 0x21 then decide (0 ≤ imm ∧ imm ≤ 7)
  else if op = 0x25 then decide (0 ≤ imm ∧ imm ≤ 4)
  else false

def dispatchProgramOk (l : List (BitVec 32)) : Bool :=
  decide (l.length ≤ 1024) && (l.mapIdx (fun i w => dispatchOk l.length i w)).all id

/-! ### Update programs (R318 to R321, R324) -/

def uOp (w : BitVec 32) : Nat := bits w.toNat 31 26
def uD (w : BitVec 32) : Nat := bits w.toNat 25 21
def uA (w : BitVec 32) : Nat := bits w.toNat 20 16
def uB (w : BitVec 32) : Nat := bits w.toNat 15 11
def uC (w : BitVec 32) : Nat := bits w.toNat 10 6
def uX (w : BitVec 32) : Nat := bits w.toNat 5 0

/-- The registers that a word reads: none where the opcode is reserved or a field that it does not use is not 0. -/
def updReads (w : BitVec 32) : Option (List Nat) :=
  let op := uOp w
  let want := fun (ok : Bool) (l : List Nat) => if ok then some l else none
  if op = 1 then want (decide (uA w = 0 ∧ uB w = 0 ∧ uC w = 0 ∧ uX w < 16)) []
  else if op = 2 then want (decide (uD w = 0 ∧ uB w = 0 ∧ uC w = 0) && !bitAt (uX w) 3) [uA w]
  else if op = 3 ∨ op = 4 then want (decide (uA w = 0 ∧ uB w = 0 ∧ uC w = 0 ∧ uX w < 16)) []
  else if op = 0xB ∨ op = 0x14 then want (decide (uX w = 0)) [uA w, uB w, uC w]
  else if (8 ≤ op ∧ op ≤ 0xC) ∨ op = 0xE ∨ op = 0xF ∨ op = 0x12 ∨ op = 0x13 then want (decide (uC w = 0 ∧ uX w = 0)) [uA w, uB w]
  else if op = 0xD ∨ op = 0x10 ∨ op = 0x11 ∨ op = 0x15 ∨ op = 0x18 ∨ op = 0x19 then
    want (decide (uB w = 0 ∧ uC w = 0 ∧ uX w = 0)) [uA w]
  else none

/-- The formats of a field kind (R319). -/
def kindFmt (kind f : Nat) : Bool :=
  if kind = 0 then decide (f = 8 ∨ f = 9 ∨ f = 2)
  else if kind = 1 then decide (f = 0x18 ∨ f = 0)
  else if kind = 2 then decide (f = 0 ∨ f = 2)
  else decide (kind ≤ 6 ∧ f = 0)

/-- Kinds that a tier may name, read and store (R319, R328). -/
def kindTier (tier kind : Nat) : Bool :=
  if tier = 0 then decide (kind = 0 ∨ kind = 1 ∨ kind = 2 ∨ kind = 3 ∨ kind = 5) else decide (kind = 3 ∨ kind = 4 ∨ kind = 6)
def kindReads (kind : Nat) : Bool := decide (kind ≤ 3 ∨ kind = 6)
def kindStores (kind : Nat) : Bool := decide (kind = 0 ∨ kind = 2 ∨ kind = 4 ∨ kind = 5)

/-- What a walk of the program has seen: registers written, slots stored, GRAD slots read with reset. -/
structure UpdSeen where
  regs : List Nat
  stored : List Nat
  reset : List Nat

/-- One word after the others: none where it is refused. -/
def updWord (p : UpdDecl) (seen : UpdSeen) (w : BitVec 32) : Option UpdSeen :=
  match updReads w with
  | none => none
  | some l =>
    if !l.all (fun r => seen.regs.contains r) then none
    else
      let op := uOp w
      let k := uX w % 8
      let slot := p.slots.getD k (7, 0, 0, 0)
      let dest : UpdSeen := { seen with regs := uD w :: seen.regs }
      if op = 1 then
        if p.nfield ≤ k ∨ !kindReads slot.1 then none
        else if bitAt (uX w) 3 then (if slot.1 ≠ 1 ∨ seen.reset.contains k then none else some { dest with reset := k :: seen.reset })
        else some dest
      else if op = 2 then
        if p.nfield ≤ k ∨ !kindStores slot.1 ∨ seen.stored.contains k ∨ !rndOk (uX w / 16) slot.2.1.toNat then none
        else some { seen with stored := k :: seen.stored }
      else some dest

def updWords (p : UpdDecl) : UpdSeen → List (BitVec 32) → Bool
  | _, [] => true
  | seen, w :: rest => match updWord p seen w with | some t => updWords p t rest | none => false

def updProgramOk (p : UpdDecl) : Bool :=
  decide (1 ≤ p.words.length ∧ p.words.length ≤ 128 ∧ p.tier ≤ 1 ∧ 1 ≤ p.nfield ∧ p.nfield ≤ 8) && !p.rsv &&
    (p.slots.take p.nfield).all (fun k => kindFmt k.1 k.2.1.toNat && kindTier p.tier k.1 && decide (k.2.2.1 = 0)) &&
    updWords p ⟨[], [], []⟩ p.words

end Sys2Proof.Machine
end

