-- ==== Sys2Proof/Machine/Mapping.lean ====
section
/-!
DEFINITION. Machine/Mapping.lean: how the loader divides a job over its packages: the axes and the ranks on them (R375), uneven division (R377),
the pipeline cut by cost (R378), experts and routing capacities (R379), explicit splits (R380), the layouts of the phases (R381, R388).
-/
namespace Sys2Proof.Machine

/-! ### Axes (R375) -/

/-- The members of an axis; an axis that the job is not cut along has one. -/
def membersOf (m : MappingDecl) (a : Axis) : Nat := ((m.axes.find? (fun e => decide (e.1 = a))).map (·.2)).getD 1

/-- Packages of the job: the product of the member counts. -/
def packagesOf (m : MappingDecl) : Nat := (m.axes.map (·.2)).foldl (· * ·) 1

def pairsApart {α : Type} [DecidableEq α] : List α → Bool
  | [] => true
  | a :: rest => !rest.contains a && pairsApart rest

/-- The axes are named once each, their product is the number of packages, and each package has a rank from 0 to count − 1 on every axis that no
other package shares on all of them. -/
def axesOk (m : MappingDecl) (nrank : Nat) : Bool :=
  pairsApart (m.axes.map (·.1)) && m.axes.all (fun e => decide (1 ≤ e.2)) && decide (packagesOf m = nrank ∧ m.ranks.length = nrank) &&
    m.ranks.all (fun l => decide (l.length = m.axes.length) && (l.zip m.axes).all (fun e => decide (e.1 < e.2.2))) && pairsApart m.ranks

/-- The rank of a package of the job on an axis. -/
def rankOn (m : MappingDecl) (a : Axis) (rank : Nat) : Nat :=
  match m.axes.findIdx? (fun e => decide (e.1 = a)) with
  | some k => (m.ranks.getD rank []).getD k 0
  | none => 0

/-- Extents (base, length) that do not overlap. -/
def apart : List (Nat × Nat) → Bool
  | [] => true
  | e :: rest => rest.all (fun f => decide (e.1 + e.2 ≤ f.1 ∨ f.1 + f.2 ≤ e.1)) && apart rest

/-! ### Uneven division (R377, R380) -/

/-- Units of member r of n: the floor, and one more below the remainder. -/
def shareOf (units n r : Nat) : Nat := units / n + (if r < units % n then 1 else 0)

/-- The ranges (first unit, units) of members in ascending order, from a unit on. -/
def rangesFrom (first : Nat) : List Nat → List (Nat × Nat)
  | [] => []
  | c :: rest => (first, c) :: rangesFrom (first + c) rest

def divide (units n : Nat) : List (Nat × Nat) := rangesFrom 0 ((List.range n).map (shareOf units n))

/-- An explicit split leaves no member without a unit, no overlap, no unit unassigned. -/
def splitOk (members units : Nat) (l : List (Nat × Nat)) : Bool :=
  decide (l.length = members) && l.all (fun e => decide (1 ≤ e.2 ∧ e.1 + e.2 ≤ units)) && apart l && decide ((l.map (·.2)).sum = units)

/-- The ranges of a cut: an explicit split overrides the division. -/
def cutRanges (m : MappingDecl) (c : CutDecl) : List (Nat × Nat) := c.explicit.getD (divide c.units (membersOf m c.axis))

/-! ### The pipeline axis (R378) -/

/-- Layers that a stage takes from the front of the costs within a limit, leaving at least `keep`. -/
def takeLayers (limit keep : Nat) : Nat → List Nat → Nat
  | _, [] => 0
  | total, c :: rest => if total + c ≤ limit ∧ keep ≤ rest.length then takeLayers limit keep (total + c) rest + 1 else 0

/-- `fill` of R378: contiguous stage ranges of p members within a limit. -/
def fillStages (limit : Nat) : Nat → Nat → List Nat → Option (List (Nat × Nat))
  | 0, _, [] => some []
  | 0, _, _ :: _ => none
  | p + 1, start, l =>
    let k := takeLayers limit p 0 l
    if k = 0 then none else (fillStages limit p (start + k) (l.drop k)).map (fun t => (start, k) :: t)

/-- The costs of the contiguous ranges that begin at the front, and of all. -/
def prefixSums : Nat → List Nat → List Nat
  | _, [] => []
  | t, c :: rest => (t + c) :: prefixSums (t + c) rest

def rangeSums : List Nat → List Nat
  | [] => []
  | c :: rest => prefixSums 0 (c :: rest) ++ rangeSums rest

/-- The least of some limits under which p stages can be filled. -/
def leastLimit (p : Nat) (cost : List Nat) : List Nat → Option Nat
  | [] => none
  | m :: rest =>
    let t := leastLimit p cost rest
    if (fillStages m p 0 cost).isSome then some (match t with | some k => min m k | none => m) else t

/-- The stage ranges (first layer, layers) at M*. -/
def stageRanges (p : Nat) (cost : List Nat) : List (Nat × Nat) :=
  match leastLimit p cost (rangeSums cost) with
  | some m => (fillStages m p 0 cost).getD []
  | none => []

/-- The layers of each pipeline member: an explicit split of the pipeline axis, else the division by cost. -/
def pipelineRanges (m : MappingDecl) : List (Nat × Nat) :=
  match m.cuts.find? (fun c => decide (c.axis = .pipeline)) with
  | some c => c.explicit.getD (stageRanges (membersOf m .pipeline) (m.cost.getD []))
  | none => stageRanges (membersOf m .pipeline) (m.cost.getD [])

/-- No pipeline count above the layers; a cost table has one cost for each layer, and a pipeline axis without an explicit split has a cost table. -/
def pipelineOk (m : MappingDecl) : Bool :=
  (decide ((m.axes.find? (fun e => decide (e.1 = .pipeline))).isNone) || decide (membersOf m .pipeline ≤ m.layers)) &&
    (match m.cost with
     | some l => decide (l.length = m.layers)
     | none => decide (membersOf m .pipeline = 1) || m.cuts.any (fun c => decide (c.axis = .pipeline) && c.explicit.isSome))

/-! ### Experts (R379) -/

/-- The experts (first, count) of each member of the expert axis: an explicit split of as many units, else R377. -/
def expertRanges (m : MappingDecl) (e : ExpertDecl) : List (Nat × Nat) :=
  match m.cuts.find? (fun c => decide (c.axis = .expert ∧ c.units = e.experts)) with
  | some c => cutRanges m c
  | none => divide e.experts (membersOf m .expert)

/-- The routing capacity of each expert of a layer: the floor, and the remainder one slot each to the lowest-numbered. -/
def expertSlots (e : ExpertDecl) : List Nat := (List.range e.experts).map (shareOf e.capacity e.experts)

/-- The routing capacity of each member: the sum of its experts'. -/
def memberSlots (m : MappingDecl) (e : ExpertDecl) : List Nat :=
  (expertRanges m e).map (fun r => (((expertSlots e).drop r.1).take r.2).sum)

/-! ### Layouts (R381, R388) -/

/-- Every layout names a phase and a holder, a package of the job and a store die, for every shard. -/
def layoutsOk (im : JobImage) : Bool :=
  im.mapping.layouts.all (fun l =>
    decide (l.phase = 0 ∨ l.phase = 1 ∨ l.phase = 3 ∨ l.phase = 4) && decide (l.holders.length = im.shards.length) &&
      l.holders.all (fun h => im.mapping.packages.contains h.1 && decide (h.2 < 4)))

/-- The holder of shard k in a phase of an epoch: that of the layout, if there is one. -/
def holderOf (im : JobImage) (epoch : BitVec 16) (phase k : Nat) : Option (BitVec 16 × Nat) :=
  (im.mapping.layouts.find? (fun l => decide (l.epoch = epoch ∧ l.phase = phase))).bind (fun l => l.holders[k]?)

/-- The shards with their owners of an epoch: the holders of its update layout (R307, R388; log 112). -/
def withOwners (im : JobImage) (epoch : BitVec 16) : JobImage :=
  { im with shards := im.shards.mapIdx (fun k sh =>
      match holderOf im epoch 4 k with
      | some h => { sh with ownerPkg := h.1, ownerDie := h.2 }
      | none => sh) }

end Sys2Proof.Machine
end

