-- ==== Sys2Proof/Machine/Versions.lean ====
section
/-!
DEFINITION. Machine/Versions.lean: holds on the versions of parameter shards, the version fixed for a micro-batch, and the frames of versions
that nothing holds (R314 to R316).
-/
namespace Sys2Proof.Machine

/-- The current version of shard i. -/
def currentVersion (jb : Job) (i : Nat) : Nat := mget 0 jb.shardVer i

/-- A fetch of version v of shard i runs on some store die; it holds what it reads. -/
def fetchRuns (s : State) (j i v : Nat) : Bool :=
  (List.range 4).any (fun d => (getStore s d).fetch.any (fun f => decide (f.job = j ∧ f.shard = i ∧ f.version = v)))

/-- An export of the version is pending. -/
def exportRuns (s : State) (j i v : Nat) : Bool :=
  s.exportRuns.any (fun e => decide (e.job = j ∧ e.shard = i ∧ e.version = v))

/-- A cached copy is kept: it is the newest on its die, or something holds it (R315); a discarded one is while items that may read it run (R312). -/
def cacheKept (s : State) (j : Nat) (c : CacheRec) : Bool :=
  if c.discarded then
    (getJob s j).items.any (fun e => c.users.contains e.1 && decide (e.2.state = .running))
  else c.newest || decide (c.holds ≠ 0) || fetchRuns s j c.shard c.version

/-- An owner's version is live: current, or held (R315, R316). -/
def versionLive (s : State) (j i v : Nat) : Bool :=
  let jb := getJob s j
  decide (currentVersion jb i = v) ||
    (match mfind jb.versions (verKey i v) with | some r => decide (r.holds ≠ 0) | none => false) ||
    jb.caches.any (fun c => decide (c.shard = i ∧ c.version = v)) || fetchRuns s j i v || exportRuns s j i v

def pageFrames (m : Map Leaf) : List Nat := m.filterMap (fun e => leafFrame e.2)

/-- The store die of the owner of shard i. -/
def ownerDieOf (jb : Job) (i : Nat) : Nat := match jb.image.shards[i]? with | some sh => sh.ownerDie | none => 0

/-- Cached copies that nothing keeps give their frames back. -/
def sweepCaches (s : State) (j : Nat) : State :=
  let gone := (getJob s j).caches.filter (fun c => !cacheKept s j c)
  let s := gone.foldl (fun s c => invalidate s j c.die (c.pages.map (·.1))) s
  let s := releaseFrames s (gone.flatMap (fun c => pageFrames c.pages))
  modJob s j (fun jb => { jb with caches := jb.caches.filter (fun c => !gone.contains c) })

/-- Replaced versions that nothing holds give their frames back; those held are HELD (R173, R315). -/
def sweepVersions (s : State) (j : Nat) : State :=
  let s := sweepCaches s j
  let gone := (getJob s j).versions.filter (fun e => !versionLive s j (e.1 / 4294967296) (e.1 % 4294967296))
  let s := gone.foldl (fun s e => invalidate s j (ownerDieOf (getJob s j) (e.1 / 4294967296)) ((e.2.work ++ e.2.hot).map (·.1))) s
  let s := releaseFrames s (gone.flatMap (fun e => pageFrames e.2.work ++ pageFrames e.2.hot))
  modJob s j (fun jb => { jb with versions := jb.versions.filter (fun e => versionLive s j (e.1 / 4294967296) (e.1 % 4294967296)) })

/-- The place on die d that version v of shard i is read from counts its holds by `f`. -/
def modHolds (s : State) (j d i v : Nat) (f : Nat → Nat) : State :=
  modJob s j (fun jb =>
    let owned := match jb.image.shards[i]? with
      | some sh => ownsShard s sh && decide (sh.ownerDie = d) && (mfind jb.versions (verKey i v)).isSome
      | none => false
    if owned then
      { jb with versions := jb.versions.map (fun e => if e.1 = verKey i v then (e.1, { e.2 with holds := f e.2.holds }) else e) }
    else { jb with caches := jb.caches.map (fun c => if c.shard = i ∧ c.die = d ∧ c.version = v ∧ !c.discarded then { c with holds := f c.holds } else c) })

/-- The launch that fixes a micro-batch's version takes a hold on each shard that the stage reads (R314, R315). -/
def fixVersion (s : State) (j : Nat) (it : Item) (v : Nat) : State :=
  if it.phase ≠ 0 ∨ (fixedVersion (getJob s j) it).isSome then s
  else
    let s := (readsShards (getJob s j) it.stage).foldl (fun s i => modHolds s j it.die i v (· + 1)) s
    modJob s j (fun jb => { jb with fixed := jb.fixed ++ [⟨it.stage, it.replica, it.step, it.mb, v, it.die⟩] })

/-- The item is the last of its micro-batch at its stage: BWD of chunk 0, or where the stage declares no BWD, FWD of the last chunk
(R224, R315; for the hold of a stage without BWD: DEDUCED, log 22). -/
def lastOfBatch (jb : Job) (it : Item) : Bool :=
  match stageOf jb it.stage with
  | none => false
  | some st =>
    if st.entBwd.isSome then decide (it.phase = 1 ∧ it.chunk = 0)
    else decide (it.phase = 0 ∧ it.chunk + 1 = chunkCount jb it.step it.mb)

/-- The holds of an ended micro-batch are released, and its window place is free (R224, R315). -/
def endBatch (s : State) (j : Nat) (it : Item) : State :=
  let jb := getJob s j
  if !lastOfBatch jb it then s
  else
    let s := match jb.fixed.find? (fixedFor it) with
      | some f => (readsShards jb it.stage).foldl (fun s i => modHolds s j f.die i f.version (· - 1)) s
      | none => s
    let s := modJob s j (fun jb =>
      { jb with fixed := jb.fixed.filter (fun f => !fixedFor it f)
                begun := dropFirst (fun b => decide (b = (it.stage, it.replica, it.mb))) jb.begun })
    sweepVersions s j

end Sys2Proof.Machine
end

