-- ==== Sys2Proof/Machine/Publish.lean ====
section
/-!
DEFINITION. Machine/Publish.lean: patrol scrub (R181), the end of a page move (R175), zeroing of frames (R504), and publication: the commit
of an item's group, its end, the fold (R172, R221, R255, R256, R259).
-/
namespace Sys2Proof.Machine

/-! ### Scrub, moves, zeroing -/

/-- A code word of store die d stands at an address (R181). -/
def wordAt (s : State) (d a : Nat) : Bool := mapped s a && decide (dieOfAddr s a = d) && decide (a % codeLen a = 0)

/-- Errors that struck and that the scrub finds: they stand in memory and are met as a read meets them. -/
def scrubOne (s : State) (d : Nat) (u : Upset) : State :=
  let s := { s with upsets := mput u.addr u.bad s.upsets }
  if wordAt s d u.addr then meetErrors s u.addr (codeLen u.addr) else s

/-- One patrol pass of store die d, over the errors known in its memory and those found (R181, R188). -/
def execScrubPatrol (d : Nat) (found : List Upset) (s : State) : Out :=
  onUnit (storeOk d)
    (if !running s ∨ !stackUp s d ∨ !found.all (fun u => wordAt s d u.addr) then s
     else
       let old := (s.upsets.filter (fun e => wordAt s d e.1)).map (fun e => (⟨e.1, e.2⟩ : Upset))
       let all := old.filter (fun u => !found.any (fun v => decide (v.addr = u.addr))) ++ found
       modStore (all.foldl (fun s u => scrubOne s d u) s) d (fun x => { x with passes := wrap32 (x.passes + 1) }))

/-- The move's 64 KiB have been copied: the leaf names the new frame, the old one goes back (R175). -/
def endPageMove (s : State) (j : Nat) (m : PageMove) : State :=
  let d := dieOfAddr s m.fromAddr
  let s := { s with mem := memWrite s.mem m.toAddr (memRead s.mem m.fromAddr 65536) }
  let s := modJob s j (fun jb =>
    let jb := mapLeaves jb (atAddr m.fromAddr) (fun l => { l with target := .phys m.toAddr, loc := if m.toAddr < storeEnd then 0 else 1 })
    { jb with moves := jb.moves.filter (fun n => decide (n.fromAddr ≠ m.fromAddr)) })
  let s := invalidate s j d [m.vpn]
  let s := modStore s d (fun x => if m.pageIn then { x with pageIn := wrap32 (x.pageIn + 1) } else { x with evict := wrap32 (x.evict + 1) })
  startWaiting (releaseFrame s (m.fromAddr / 65536)) j d

def execPageMoveDone (j vpn : Nat) (s : State) : Out :=
  onUnit (jobOk j)
    (match (getJob s j).moves.find? (fun m => m.started && decide (m.vpn = vpn)) with
     | some m => if (getJob s j).loaded ∧ running s then (List.range 4).foldl serveWaiting (endPageMove s j m) else s
     | none => s)

/-- The frame is zero and FREE; a page-in that waited may take it. -/
def execFrameZeroComplete (d frame : Nat) (s : State) : Out :=
  onUnit (storeOk d)
    (if (mget ⟨.free, 0⟩ (getStore s d).frames frame).state ≠ .zeroing then s
     else
       let s := clearErrors { s with mem := memZero s.mem (frame * 65536) 65536 } (frame * 65536) 65536
       let s := modStore s d (fun x => { x with frames := mdel frame x.frames })
       (List.range 8).foldl (fun s j => startWaiting s j d) s)

/-! ### Commit -/

/-- Every member of the group runs and every cell of every bed has reported (R172 step 2, R221). -/
def groupReported (jb : Job) (g : List Nat) : Bool :=
  !g.isEmpty &&
    g.all (fun i => match mfind jb.items i with | some it => decide (it.state = .running) && it.reported | none => false)

/-- The stages joined to the item's have each an item in the group, where they take part in its phase. -/
def groupWhole (jb : Job) (it : Item) (g : List Nat) : Bool :=
  (joined jb.image it.stage).all (fun st =>
    match (stageOf jb st).bind (fun d => entryWord d it.phase) with
    | some _ => g.any (fun i => match mfind jb.items i with | some m => decide (m.stage = st) | none => false)
    | none => true)

/-- No page staged by the item moves (R174). -/
def stagedMoves (jb : Job) (it : Item) : Bool :=
  jb.moves.any (fun m => m.started && it.staging.any (fun g => g.pages.any (fun q => decide (q.2.target = .phys m.fromAddr))))

/-- Bytes that the cells were given in a staging range, in 64-byte units: SIZE of the entry. -/
def entrySize (g : Staging) : Nat := ((g.used.map (·.2)).sum) / 64

/-- The entry of a stash staging range of a FWD item (R251, R255). -/
def newEntry (it : Item) (g : Staging) (t : Nat × BitVec 8 × Bool) (seq : Nat) : StashEntry :=
  { stage := it.stage, replica := it.replica, mb := it.mb, chunk := it.chunk, slot := g.slot, step := it.step, version := it.version
    state := .instore, recomp := t.2.2, fmt := t.2.1, tensor := t.1, size := entrySize g, seq := seq
    pages := g.pages.filterMap (fun q => match q.2.target with | .phys a => some a | .fabric _ => none)
    pageNos := g.pages.filterMap (fun q => match q.2.target with | .phys _ => some q.1 | .fabric _ => none), pins := [] }

/-- The stash ranges of an item in slot order. -/
def stashRanges (jb : Job) (it : Item) : List Staging := sortBy (·.slot) (it.staging.filter (stashStaging jb it))

def stashDecl (jb : Job) (it : Item) (g : Staging) : Nat × BitVec 8 × Bool :=
  ((stageOf jb it.stage).bind (fun st => (st.slots[g.slot]?).bind (·.stash))).getD (0, 0, false)

/-- The marker that a recomputed range replaces, with its die. -/
def markerOf (jb : Job) (it : Item) (g : Staging) : Option (Nat × StashEntry) :=
  (List.range 4).findSome? (fun d =>
    ((getIce jb d).entries.find? (fun e => entryOf it e && decide (e.slot = g.slot ∧ e.state = .dropped))).map (fun e => (d, e)))

/-- One stash range at commit: FWD pushes an entry; RCP replaces a marker, and releases a range whose slot was not dropped (R255,
R259). -/
def commitStash (s : State) (j : Nat) (it : Item) (g : Staging) : State :=
  let jb := getJob s j
  let push := fun (d : Nat) (e : StashEntry) (s : State) =>
    modIce s j d (fun i => { i with entries := i.entries ++ [e], seq := (i.seq + 1) % 4294967296 })
  let fresh := newEntry it g (stashDecl jb it g) (getIce jb it.die).seq
  if it.phase = 0 then push it.die fresh s
  else
    match markerOf jb it g with
    | some (d, e) =>
      let s := modIce s j d (fun i => { i with entries := i.entries.filter (fun f => decide (f.seq ≠ e.seq)) })
      let s := modIce s j d (fun i => { i with recomputes := wrap32 (i.recomputes + 1) })
      push it.die { e with state := .instore, pages := fresh.pages, pageNos := fresh.pageNos, seq := fresh.seq, size := fresh.size } s
    | none => freePages s j it.die fresh.pages

/-- Frames of published ranges become PUBLISHED; those of an RCP item's other outputs are released (R173, R259). -/
def commitRange (s : State) (it : Item) (g : Staging) : State :=
  let fs := pageFrames g.pages
  if it.phase = 2 then releaseFrames s fs
  else
    fs.foldl (fun s f => let x := frameOf s f; if x.state = .staged then putFrame s f { x with state := .published } else s) s

/-- The tick of the last commit of a step's items (R413). -/
def noteCommit (s : State) (j : Nat) (step : BitVec 32) : State :=
  modJob s j (fun jb => { jb with steps := jb.steps.map (fun r => if r.number = step then { r with committedAt := s.ember } else r) })

/-- The virtual pages of the instances that an item prepares: those that a publication replaces or adds (R172 step 3). -/
def instVpns (jb : Job) (i : Nat) : List Nat :=
  (jb.insts.filter (fun n => n.nextV && decide (n.commitItem = i))).flatMap (fun n =>
    ((n.next.map (·.1) ++ (if n.curV then n.cur.map (·.1) else [])).eraseDups).map (fun k => n.va / 65536 + k))

/-- The virtual pages that a stash slot resolves to for an item: those of its entries (R249). -/
def entryVpns (jb : Job) (it : Item) : List Nat :=
  if it.phase = 0 then []
  else (itemEntries jb it).flatMap (fun e =>
    match (stageOf jb e.stage).bind (fun st => st.slots[e.slot]?) with
    | some d => e.pageNos.map (fun k => d.va / 65536 + k)
    | none => [])

/-- The virtual pages of the stash ranges of an item, at the addresses of their slots (R249). -/
def stashVpns (jb : Job) (it : Item) : List Nat :=
  (it.staging.filter (stashStaging jb it)).flatMap (fun g =>
    match (stageOf jb it.stage).bind (fun st => st.slots[g.slot]?) with
    | some d => g.pages.map (fun e => d.va / 65536 + e.1) ++ g.pages.map (fun e => g.base / 65536 + e.1)
    | none => [])

/-- What the DONE write makes of one item of the group. -/
def commitItem (j : Nat) (s : State) (i : Nat) : State :=
  match mfind (getJob s j).items i with
  | none => s
  | some it =>
    let jb := getJob s j
    let stash := stashRanges jb it
    let s := stash.foldl (fun s g => commitStash s j it g) s
    let s := (it.staging.filter (fun g => !stashStaging jb it g)).foldl (fun s g => commitRange s it g) s
    let s := invalidate s j it.die (stashVpns jb it)
    let s := modItem s j i (fun x => { x with state := .committed, staging := x.staging.filter (fun g => !stashStaging jb it g) })
    endBatch (noteCommit s j it.step) j it

def execItemCommit (j i : Nat) (s : State) : Out :=
  onUnit (jobOk j)
    (let jb := getJob s j
     match mfind jb.items i with
     | none => s
     | some it =>
       let g := groupOf jb it
       let members := g.filterMap (fun k => mfind jb.items k)
       if !jobLive s j ∨ it.state ≠ .running ∨ it.phase = 4 ∨ !groupReported jb g ∨ !groupWhole jb it g ∨
           members.any (stagedMoves jb) ∨ !members.all (fun m => stackUp s m.die) then s
       else noteStuck (g.foldl (commitItem j) s) j)

/-! ### DONE -/

/-- The item ends: translations of its ranges are gone, its scratch is FREE, its pins are gone, entries that a BWD item has read are freed
(R172 steps 3 and 4, R173, R256). -/
def finishItem (s : State) (j i : Nat) (it : Item) : State :=
  let s := releaseFrames s (pageFrames it.scratchPages)
  let s := invalidate s j it.die (privateVpns it ++ instVpns (getJob s j) i ++ entryVpns (getJob s j) it)
  let s := modItem s j i (fun x => { x with state := .done, staging := [], scratch := [], scratchPages := [] })
  let s := modJob s j (fun jb =>
    { jb with ices := jb.ices.map (fun e =>
        (e.1, { e.2 with entries := e.2.entries.map (fun n => { n with pins := n.pins.filter (fun k => decide (k ≠ i)) }) })) })
  (List.range 4).foldl (fun s d => sweepEntries s j d) s

def execItemDone (j i : Nat) (s : State) : Out :=
  onUnit (jobOk j)
    (match mfind (getJob s j).items i with
     | none => s
     | some it => if jobLive s j ∧ it.state = .committed ∧ it.phase ≠ 4 then noteStuck (finishItem s j i it) j else s)

/-! ### Fold -/

/-- CUR takes NEXT; the frames that it replaces go back, since nothing holds the version of an instance that is no shard (R172 step 5,
R173). -/
def foldInst (s : State) (j k : Nat) (n : Inst) : State :=
  let s := modJob s j (fun jb =>
    { jb with insts := jb.insts.mapIdx (fun m x =>
        if m = k then { x with cur := n.next, curV := true, next := [], nextV := false, version := wrap32 (n.version + 1) } else x) })
  releaseFrames s (if n.curV then pageFrames n.cur else [])

def execPublicationFold (j k : Nat) (s : State) : Out :=
  onUnit (jobOk j)
    (let jb := getJob s j
     match jb.insts[k]? with
     | none => s
     | some n =>
       let done := match mfind jb.items n.commitItem with | some it => decide (it.state = .done) | none => false
       if jb.loaded && running s && n.nextV && done then foldInst s j k n else s)

end Sys2Proof.Machine
end

