-- ==== Sys2Proof/Machine/Update.lean ====
section
/-!
DEFINITION. Machine/Update.lean: the update engine: fields, instructions and items of update programs (R317 to R323, R326, R327).
-/
namespace Sys2Proof.Machine

/-! ### The running item -/

/-- OP and fields of an update word (R320). -/
def encU (op : Nat) (f : UFields) : BitVec 32 :=
  BitVec.ofNat 32 (fieldAt 26 op + fieldAt 21 f.d.toNat + fieldAt 16 f.a.toNat + fieldAt 11 f.b.toNat + fieldAt 6 f.c.toNat + f.x.toNat)

/-- The run of store die d, while its job goes on. -/
def updOf (s : State) (d : Nat) : Option UpdRun :=
  match (getStore s d).updRun with
  | some r => if jobLive s r.job ∧ stackUp s d then some r else none
  | none => none

def shardOf (s : State) (r : UpdRun) : Option (Nat × ShardDecl) :=
  match r.shards with
  | i :: _ => ((getJob s r.job).image.shards[i]?).map (fun sh => (i, sh))
  | [] => none

def stepOfRun (s : State) (r : UpdRun) : BitVec 32 := match mfind (getJob s r.job).items r.item with | some it => it.step | none => 0

/-- Registers of one element. -/
def uReg (r : UpdRun) (n i : Nat) : F32 := mget 0 r.u (1024 * n + i)

def setUReg (r : UpdRun) (n : Nat) (f : Nat → F32) : UpdRun :=
  { r with u := (List.range 1024).foldl (fun m i => mset 0 (1024 * n + i) (f i) m) r.u }

/-- Element i of the block is a logical element (R41, R323). -/
def isLogical (sh : ShardDecl) (b i : Nat) : Bool := (elemCoords sh.count b i).isSome

/-- Logical coordinates over the tensor. -/
def tensorCoords (sh : ShardDecl) (b i : Nat) : Option (List Nat) := (elemCoords sh.count b i).map (addCoords sh.first)

/-- The train mask freezes an element (R266, R267). -/
def frozenAt (t : TensorDecl) (x : List Nat) : Bool :=
  let p := elemPlace t.shape x
  let sh := blockShape t.shape
  if t.train = 1 then !bitAt (t.trainBits.getD (p.1 / sh.2.2) 0).toNat (p.2 / 32)
  else if t.train = 2 then !bitAt (t.trainBits.getD (p.1 / 32) 0).toNat (p.1 % 32)
  else false

def frozenElem (jb : Job) (sh : ShardDecl) (b i : Nat) : Bool :=
  match jb.image.tensors[sh.tensor]?, tensorCoords sh b i with
  | some t, some x => frozenAt t x
  | _, _ => false

/-- Logical element index (R46). -/
def elemIndex (jb : Job) (sh : ShardDecl) (b i : Nat) : Nat :=
  match jb.image.tensors[sh.tensor]?, tensorCoords sh b i with
  | some t, some x => linearOf t.shape x
  | _, _ => 0

/-- The block is done: its 1,024 elements count, for blocks are processed whole, and the next block or shard follows (R323, R336). -/
def nextBlock (s : State) (d : Nat) (r : UpdRun) (sh : ShardDecl) : State :=
  let r := if r.block + 1 < blockCount sh.count then { r with block := r.block + 1, pc := 0, u := [] } else { r with shards := r.shards.drop 1, block := 0, pc := 0, u := [] }
  modStore s d (fun x => { x with elems := (x.elems + 1024) % 2 ^ 64, updRun := some r })

/-- The instruction is done. -/
def advanceUpd (s : State) (d : Nat) (r : UpdRun) : State :=
  match shardOf s r with
  | none => s
  | some (_, sh) =>
    let len := match progOf (getJob s r.job) sh with | some p => p.words.length | none => 0
    if r.pc + 1 < len then modStore s d (fun x => { x with updRun := some { r with pc := r.pc + 1 } }) else nextBlock s d r sh

/-- The instruction at the engine's program counter is this word; `f` is its effect on the run and on the rest of the state. -/
def updInstr (s : State) (d : Nat) (w : BitVec 32) (f : State → UpdRun → Nat → ShardDecl → UpdDecl → State × Option UpdRun) : Out :=
  onUnit (storeOk d)
    (match updOf s d with
     | none => s
     | some r =>
       match shardOf s r with
       | none => s
       | some (i, sh) =>
         match progOf (getJob s r.job) sh with
         | none => s
         | some p =>
           if p.words[r.pc]? ≠ some w then s
           else
             let t := f s r i sh p
             match t.2 with
             | some r => advanceUpd t.1 d r
             | none => t.1)

/-- An instruction that computes uD, element by element. -/
def updMap (s : State) (d op : Nat) (f : UFields) (g : UpdRun → Nat → F32) : Out :=
  updInstr s d (encU op f) (fun s r _ _ _ => (s, some (setUReg r f.d.toNat (g r))))

/-! ### Fields (R319, R326) -/

/-- The engine's access fails with a code: the job faults; without one it waits, for a page that moves (R175) or a line that another package holds
(R369), and the instruction is performed later. -/
def engineFault (s : State) (d j : Nat) (code : Option Nat) : State × Option UpdRun :=
  match code with
  | some c => (modStore (jobFault s j c) d (fun x => { x with updRun := none }), none)
  | none => (s, none)

/-- n bytes at a virtual address, read by the engine of die d, or the code of the check that fails, or none while the access waits. -/
def engineRead (s : State) (d j va n : Nat) : List Byte ⊕ Option Nat :=
  match checkAccess s (getJob s j) none d .rd [(va, n)] with
  | .ok ps => if hasFabric ps then .inr (some ePageFault) else .inl (readPieces s ps)
  | .bad c _ => .inr (some c)
  | .wait => .inr none

def engineWrite (s : State) (d j va : Nat) (l : List Byte) : State ⊕ Option Nat :=
  match checkAccess s (getJob s j) none d .wr [(va, l.length)] with
  | .ok ps => if hasFabric ps then .inr (some ePageFault) else .inl (touchRanges (writePieces s ps l) none j none d [(va, l.length)])
  | .bad c _ => .inr (some c)
  | .wait => .inr none

def slotField (p : UpdDecl) (k : Nat) : Nat × Nat × BitVec 32 :=
  match p.slots[k]? with
  | some (kind, fmt, _, stream) => (kind, fmt.toNat, stream)
  | none => (0, 0, 0)

/-- The slow buffer with the state after step n: buffer n mod (D + 1) (R326). -/
def slowState (jb : Job) (sh : ShardDecl) (n : Int) : Nat := sh.slowBufs.getD (n % ((jb.image.slowD + 1 : Nat) : Int)).toNat 0

/-- The buffer that holds the slow state for step n, and the snapshot buffer of step n (R326). -/
def slowBuf (jb : Job) (sh : ShardDecl) (n : Nat) : Nat := slowState jb sh ((n : Int) - (jb.image.slowD : Int))

def snapBuf (jb : Job) (sh : ShardDecl) (n : Nat) : Nat := sh.snapBufs.getD (n % jb.image.slowD) 0

/-- What the slots of the slow tier's program are bound to at step n (R326): SNAPIN, SLOWIN with the state before the step, SLOWOUT. The
processor-die library runs that program (R327). -/
def slowTierBase (jb : Job) (sh : ShardDecl) (n kind : Nat) : Nat :=
  if kind = 6 then snapBuf jb sh n else if kind = 3 then slowState jb sh ((n : Int) - 1) else slowState jb sh n

/-- The base of slot k of a shard at step n, in the program of its update engine. -/
def fieldBase (jb : Job) (sh : ShardDecl) (n k kind : Nat) : Nat :=
  if kind = 0 then sh.workVa else if kind = 3 then slowBuf jb sh n else if kind = 5 then snapBuf jb sh n else sh.bases.getD k 0

/-- Pages of the version that the item reads. -/
def oldVersion (jb : Job) (i : Nat) : VerRec := (mfind jb.versions (verKey i (currentVersion jb i))).getD ⟨0, 0, 0, [], [], 0⟩

/-- The element bytes and scale bytes of a block of the present version or of another field. -/
def fieldBytes (s : State) (d : Nat) (r : UpdRun) (i : Nat) (sh : ShardDecl) (k kind fmt : Nat) : (List Byte × List Byte) ⊕ Option Nat :=
  let jb := getJob s r.job
  let base := fieldBase jb sh (stepOfRun s r).toNat k kind
  let va := base + partOffset fmt r.block
  if kind = 0 then
    let m := (oldVersion jb i).work
    .inl (pageRead s m va (partSize fmt), if isSb fmt then pageRead s m (sh.workScaleVa + 16 * r.block) 16 else [])
  else if kind = 2 then .inl (pageRead s (oldVersion jb i).hot va (partSize fmt), [])
  else
    match engineRead s d r.job va (partSize fmt) with
    | .inl l => .inl (l, [])
    | .inr c => .inr c

/-- F32 values of a block: XS by read-out (R53), other formats converted exactly (R47). -/
def fieldValues (fmt : Nat) (el sc : List Byte) : List F32 :=
  if fmt = 0x18 then (pieces 24 1024 el).map (fun b => xsRead (xsOfBytes b)) else (blockVals fmt el sc).map cvtF32

/-- READ.RESET (R298): XS elements keep W, F32 elements become +0; padding is left. -/
def resetBytes (fmt : Nat) (logical : Nat → Bool) (el : List Byte) : List Byte :=
  let w := if fmt = 0x18 then 24 else fmtBits fmt / 8
  (pieces w 1024 el).mapIdx (fun i b =>
    if !logical i then b
    else if fmt = 0x18 then xsBytes { xsOfBytes b with v := 0, infPos := false, infNeg := false, nan := false, count := 0 }
    else List.replicate w 0) |>.flatten

/-- LDF. -/
def execULdf (d : Nat) (f : UFields) (s : State) : Out :=
  updInstr s d (encU 0x01 f) (fun s r i sh p =>
    let k := f.x.toNat % 8
    let sl := slotField p k
    match fieldBytes s d r i sh k sl.1 sl.2.1 with
    | .inr c => engineFault s d r.job c
    | .inl b =>
      let vals := fieldValues sl.2.1 b.1 b.2
      let r' := setUReg r f.d.toNat (fun n => if isLogical sh r.block n then vals.getD n 0 else 0)
      if sl.1 = 1 ∧ bitAt f.x.toNat 3 then
        let va := fieldBase (getJob s r.job) sh 0 k 1 + partOffset sl.2.1 r.block
        match engineWrite s d r.job va (resetBytes sl.2.1 (isLogical sh r.block) b.1) with
        | .inl s => (s, some r')
        | .inr c => engineFault s d r.job c
      else (s, some r'))

/-- Rounding mode X[5:4] of element n (R44, R322). -/
def updRnd (s : State) (r : UpdRun) (sh : ShardDecl) (stream : BitVec 32) (mode n : Nat) : Rnd :=
  let jb := getJob s r.job
  if mode = 2 then .sr (spark jb.image.seed stream (stepOfRun s r) (BitVec.ofNat 64 (elemIndex jb sh r.block n))).toNat
  else if mode = 1 then .rz else .rne

/-- The scale of square q when the values of a block are stored over old bytes: R40's of the 64 values to be stored, frozen elements with the value
they keep; where a frozen element would not keep its value under it, the square keeps its old scale (R322, R323, R267; log 34). -/
def storedScale (fmt : Nat) (frozen : Nat → Bool) (vals : List FQuo) (olds : List FVal) (oldSc : List Byte) (q : Nat) : Nat :=
  let new := squareScale fmt (squareVals vals q)
  let kept := (List.range 1024).all (fun n =>
    decide (squareOf n ≠ q) || !frozen n ||
      (let v := olds.getD n .nan
       decide (sbValue fmt new (sbElem fmt new .rne (.val v)) = v)))
  if kept then new else (oldSc.getD q 0).toNat

/-- The bytes of a block with uA stored in a field: padding is zero, no STF is performed on a frozen element, which keeps its value (R323). -/
def storeBlock (s : State) (r : UpdRun) (sh : ShardDecl) (fmt a mode : Nat) (stream : BitVec 32) (old : List Byte × List Byte) : List Byte × List Byte :=
  let jb := getJob s r.job
  let frozen := fun n => isLogical sh r.block n && frozenElem jb sh r.block n
  let olds := blockVals fmt old.1 old.2
  let codes := unpack (fmtBits fmt) 1024 old.1
  let rnd := fun n => updRnd s r sh stream mode n
  let vals := (List.range 1024).map (fun n =>
    if !isLogical sh r.block n then FQuo.val (.fin false 0 0)
    else if frozen n then FQuo.val (olds.getD n .nan)
    else FQuo.val (f32 (uReg r a n)))
  if isSb fmt then
    let sc := (List.range 16).map (storedScale fmt frozen vals olds old.2)
    (pack (fmtBits fmt) (vals.mapIdx (fun n v =>
      let e := sc.getD (squareOf n) 0
      if frozen n ∧ e = (old.2.getD (squareOf n) 0).toNat then codes.getD n 0
      else sbElem fmt e (if frozen n then .rne else rnd n) v)), sc.map (BitVec.ofNat 8))
  else (pack (fmtBits fmt) (vals.mapIdx (fun n v => if frozen n then codes.getD n 0 else convertTo fmt (rnd n) v)), [])

/-- The number under which an UPD item's staging stands: apart from the output slots of a stage. -/
def updSlot (k : Nat) (hot : Bool) : Nat := 65536 + 2 * k + b2n hot

/-- The pages that the item prepares for a shard: of the working copy, of the hot state. -/
def newPages (s : State) (r : UpdRun) (i : Nat) (hot : Bool) : Map Leaf :=
  match mfind (getJob s r.job).items r.item with
  | some it => ((it.staging.find? (fun g => decide (g.slot = updSlot i hot))).map (·.pages)).getD []
  | none => []

/-- STF. -/
def execUStf (d : Nat) (f : UFields) (s : State) : Out :=
  updInstr s d (encU 0x02 f) (fun s r i sh p =>
    let k := f.x.toNat % 8
    let sl := slotField p k
    let fmt := sl.2.1
    let kind := sl.1
    let frozen := (List.range 1024).any (frozenElem (getJob s r.job) sh r.block)
    -- a snapshot is read only where a frozen element keeps what stands there
    match (if kind = 5 ∧ !frozen then .inl (List.replicate (partSize fmt) 0, []) else fieldBytes s d r i sh k kind fmt) with
    | .inr c => engineFault s d r.job c
    | .inl old =>
      let b := storeBlock s r sh fmt f.a.toNat (f.x.toNat / 16) sl.2.2 old
      let va := fieldBase (getJob s r.job) sh (stepOfRun s r).toNat k kind + partOffset fmt r.block
      if kind = 0 then
        let m := newPages s r i false
        let s := pageWrite s m va b.1
        (if isSb fmt then pageWrite s m (sh.workScaleVa + 16 * r.block) b.2 else s, some r)
      else if kind = 2 then (pageWrite s (newPages s r i true) va b.1, some r)
      else
        match engineWrite s d r.job va b.1 with
        | .inl s => (s, some r)
        | .inr c => engineFault s d r.job c)

/-! ### Arithmetic (R321, R322) -/

/-- Per-step scalar n of the item's step. -/
def stepScalar (s : State) (r : UpdRun) (n : Nat) : F32 :=
  match stepRec (getJob s r.job) (stepOfRun s r) with
  | some x => x.scalars.getD n 0
  | none => 0

def execULdc (d : Nat) (f : UFields) (s : State) : Out :=
  updMap s d 0x03 f (fun r _ => stepScalar s r (f.x.toNat % 16))

def execULdk (d : Nat) (f : UFields) (s : State) : Out :=
  updInstr s d (encU 0x04 f) (fun s r _ _ p => (s, some (setUReg r f.d.toNat (fun _ => p.consts.getD (f.x.toNat % 16) 0))))

def upd2 (s : State) (d op : Nat) (f : UFields) (g : F32 → F32 → F32) : Out :=
  updMap s d op f (fun r i => g (uReg r f.a.toNat i) (uReg r f.b.toNat i))

def upd1 (s : State) (d op : Nat) (f : UFields) (g : F32 → F32) : Out := updMap s d op f (fun r i => g (uReg r f.a.toNat i))

/-- 1.0 for true, +0 for false. -/
def f32Bool (b : Bool) : F32 := if b then 0x3F800000 else 0

def execUFadd (d : Nat) (f : UFields) (s : State) : Out := upd2 s d 0x08 f addF32
def execUFsub (d : Nat) (f : UFields) (s : State) : Out := upd2 s d 0x09 f subF32
def execUFmul (d : Nat) (f : UFields) (s : State) : Out := upd2 s d 0x0A f mulF32
def execUFma (d : Nat) (f : UFields) (s : State) : Out :=
  updMap s d 0x0B f (fun r i => fmaF32 (uReg r f.a.toNat i) (uReg r f.b.toNat i) (uReg r f.c.toNat i))
def execUFdiv (d : Nat) (f : UFields) (s : State) : Out := upd2 s d 0x0C f divF32
def execUFsqrt (d : Nat) (f : UFields) (s : State) : Out := upd1 s d 0x0D f (fun a => toF32 (fvSqrt (f32 a)))
def execUFmin (d : Nat) (f : UFields) (s : State) : Out := upd2 s d 0x0E f minF32
def execUFmax (d : Nat) (f : UFields) (s : State) : Out := upd2 s d 0x0F f maxF32
def execUFabs (d : Nat) (f : UFields) (s : State) : Out := upd1 s d 0x10 f (fun a => toF32 (f32 a).abs)
def execUFneg (d : Nat) (f : UFields) (s : State) : Out := upd1 s d 0x11 f (fun a => toF32 (f32 a).neg)
def execUFcmplt (d : Nat) (f : UFields) (s : State) : Out := upd2 s d 0x12 f (fun a b => f32Bool (fvLt (f32 a) (f32 b)))
def execUFcmpeq (d : Nat) (f : UFields) (s : State) : Out := upd2 s d 0x13 f (fun a b => f32Bool (fvEq (f32 a) (f32 b)))
def execUSel (d : Nat) (f : UFields) (s : State) : Out :=
  updMap s d 0x14 f (fun r i => if fvLt (f32 0) (f32 (uReg r f.c.toNat i)) then uReg r f.a.toNat i else uReg r f.b.toNat i)
def execUFtestfin (d : Nat) (f : UFields) (s : State) : Out :=
  upd1 s d 0x15 f (fun a => f32Bool (!(f32 a).isNan && !(f32 a).isInf))

/-- uA of the logical elements of the block. -/
def blockVal (r : UpdRun) (sh : ShardDecl) (a : Nat) : List FVal :=
  ((List.range 1024).filter (isLogical sh r.block)).map (fun i => f32 (uReg r a i))

def execUBsum (d : Nat) (f : UFields) (s : State) : Out :=
  updInstr s d (encU 0x18 f) (fun s r _ sh _ =>
    let v := toF32 (fvSum (blockVal r sh f.a.toNat))
    (s, some (setUReg r f.d.toNat (fun _ => v))))

def execUBmax (d : Nat) (f : UFields) (s : State) : Out :=
  updInstr s d (encU 0x19 f) (fun s r _ sh _ =>
    let v := match blockVal r sh f.a.toNat with | [] => 0 | a :: l => toF32 (l.foldl fvMax a)
    (s, some (setUReg r f.d.toNat (fun _ => v))))

/-! ### Items (R317, R316, R327) -/

/-- Frames for pages that an engine publishes: a store frame of the reservation, else an HBM frame (log 35). -/
def engineFrame (s : State) (j d vpn : Nat) : Option Nat :=
  match dieFrame s j d with
  | some f => some f
  | none => if hbmLeft s j d = 0 then none else hbmFrame s d vpn

/-- The leaf of a page that an engine publishes (R163): A waits for the walker. -/
def engineLeaf (f : Nat) : Leaf := ⟨.phys (f * 65536), true, false, false, false, true, false, 0⟩

/-- Frames for a list of virtual pages, in the given state; none when they do not suffice. -/
def allocPages (j d : Nat) (st : FState) : State → List Nat → Map Leaf → Option (State × Map Leaf)
  | s, [], m => some (s, m)
  | s, v :: rest, m =>
    match engineFrame s j d v with
    | none => none
    | some f => allocPages j d st (takeFrame s j f st) rest (mput v (engineLeaf f) m)

/-- Bytes of whole pages copied from old frames to new ones. -/
def copyPages (s : State) (old new : Map Leaf) : State :=
  new.foldl (fun s e =>
    match e.2.target, (mfind old e.1).map (·.target) with
    | .phys a, some (.phys b) => { s with mem := memWrite s.mem a (memRead s.mem b 65536) }
    | _, _ => s) s

/-- Virtual pages of a shard's hot-tier state: its HOT slots. -/
def hotPages (jb : Job) (sh : ShardDecl) : List Nat :=
  match progOf jb sh with
  | none => []
  | some p =>
    ((List.range (min p.nfield p.slots.length)).flatMap (fun k =>
      let sl := slotField p k
      if sl.1 = 2 then pagesOf (sh.bases.getD k 0) (spanBytes sl.2.1 sh.count) else [])).eraseDups

/-- New instances of the working copy and the hot state of each shard, with the content of the present version (R306, R317). -/
def stageShards (j d i : Nat) : State → List Nat → Option State
  | s, [] => some s
  | s, k :: rest =>
    let jb := getJob s j
    match jb.image.shards[k]? with
    | none => stageShards j d i s rest
    | some sh =>
      let old := oldVersion jb k
      match allocPages j d .staged s (workPages sh) [] with
      | none => none
      | some (s, mw) =>
        match allocPages j d .staged s (hotPages jb sh) [] with
        | none => none
        | some (s, mh) =>
          let s := copyPages (copyPages s old.work mw) old.hot mh
          let g := fun (hot : Bool) (m : Map Leaf) => ({ slot := updSlot k hot, base := 0, used := [], pages := m } : Staging)
          stageShards j d i (modItem s j i (fun x => { x with staging := x.staging ++ [g false mw, g true mh] })) rest

/-- A ready UPD item is launched on the engine of its store die, which has no other item. -/
def execUpdItemLaunch (d j i : Nat) (s : State) : Out :=
  onUnit (storeOk d && jobOk j)
    (let jb := getJob s j
     match mfind jb.items i with
     | none => s
     | some it =>
       if !jobLive s j ∨ !stackUp s d ∨ it.die ≠ d ∨ (updOf s d).isSome ∨ !updReady s jb it then s
       else
         let l := ownedShards s jb d it.stage
         match stageShards j d i s l with
         | none => s
         | some s =>
           let s := modItem s j i (fun x => { x with state := .running })
           modStore s d (fun x =>
             { x with updRun := some { job := j, item := i, shards := l, block := 0, pc := 0, u := [] }, updStep := it.step, updCtx := j }))

/-- Version n of a shard is published with its digest (R310, R317). -/
def publishShard (j i n : Nat) (it : Item) (s : State) (k : Nat) : State :=
  let jb := getJob s j
  match jb.image.shards[k]?, mfind jb.items i with
  | some sh, some x =>
    let pagesOf := fun (hot : Bool) => ((x.staging.find? (fun g => decide (g.slot = updSlot k hot))).map (·.pages)).getD []
    let v : VerRec :=
      { version := n, step := it.step, digest := digestOf sh n (verBytes s sh (pagesOf false)), work := pagesOf false, hot := pagesOf true, holds := 0 }
    let s := (pageFrames v.work ++ pageFrames v.hot).foldl (fun s f => putFrame s f { frameOf s f with state := .published }) s
    modJob s j (fun jb => { jb with versions := mput (verKey k n) v jb.versions, shardVer := mput k n jb.shardVer })
  | _, _ => s

/-- The replaced version of a shard is HELD while something holds it (R173, R315). -/
def holdOld (j k old : Nat) (s : State) : State :=
  match mfind (getJob s j).versions (verKey k old) with
  | none => s
  | some r => (pageFrames r.work ++ pageFrames r.hot).foldl (fun s f => putFrame s f { frameOf s f with state := .held }) s

/-- The close object is armed for the next cycle (R297). -/
def rearm (s : State) (j : Nat) (sh : ShardDecl) : State :=
  match sh.closeObj with
  | none => s
  | some (va, n) =>
    match objAt (getJob s j) va with
    | some o => setPort s o (getPort s o ++ [.arm ((getObj s o).target + BitVec.ofNat 32 n) none])
    | none => s

/-- ARRIVE 1 on an object given by its fabric address: here, or in another package (R387). -/
def arriveAt (s : State) (d j addr : Nat) (epoch : BitVec 16) : State :=
  let i := addr % 2 ^ 40 / 16
  if addr / 2 ^ 48 = s.pkgId.toNat ∧ s.pkgSet then setPort s i (getPort s i ++ [.arrive 1 none])
  else sendSeq s d (arrivePacket (BitVec.ofNat 16 (addr / 2 ^ 48)) epoch i 1) (some j) none

/-- The engine has finished every owned shard: version n is committed at once, notices go out, close objects are armed again. -/
def endUpd (s : State) (d : Nat) (r : UpdRun) (it : Item) : State :=
  let j := r.job
  let n := it.step.toNat
  let l := ownedShards s (getJob s j) d it.stage
  let olds := l.map (fun k => (k, currentVersion (getJob s j) k))
  let s := l.foldl (publishShard j r.item n it) s
  let s := olds.foldl (fun s e => holdOld j e.1 e.2 s) s
  let s := invalidate s j d (it.staging.flatMap (fun g => g.pages.map (·.1)))
  let s := noteCommit (modItem s j r.item (fun x => { x with state := .done, staging := [] })) j it.step
  let s := modStore s d (fun x => { x with updRun := none })
  let s := l.foldl (fun s k =>
    match (getJob s j).image.shards[k]? with
    | some sh => sh.notices.foldl (fun s a => arriveAt s d j a (getJob s j).epoch) (rearm s j sh)
    | none => s) s
  sweepVersions s j

def execUpdItemEnd (d : Nat) (s : State) : Out :=
  onUnit (storeOk d)
    (match updOf s d with
     | none => s
     | some r =>
       match mfind (getJob s r.job).items r.item with
       | some it => if r.shards.isEmpty then endUpd s d r it else s
       | none => s)

end Sys2Proof.Machine
end

