-- ==== Sys2Proof/Machine/Fetch.lean ====
section
/-!
DEFINITION. Machine/Fetch.lean: fetching parameter versions (R309 to R313, R387), the digest scrub (R312), export records (R330, R331).
-/
namespace Sys2Proof.Machine

/-! ### Starting a fetch (R309, R387) -/

/-- Bytes of a version: element parts and scale parts (R310). -/
def versionSize (sh : ShardDecl) : Nat := workBytes sh + scaleBytes sh

/-- The version that a remote owner has published: the checkpoint's, or as many later as its notices have counted (R387). -/
def noticedVersion (s : State) (jb : Job) (sh : ShardDecl) : Nat :=
  let n := (sh.notices.filter (fun a => decide (a / 2 ^ 48 = s.pkgId.toNat))).map (fun a => (getObj s (a % 2 ^ 40 / 16)).count.toNat)
  jb.image.firstStep.toNat + n.headD 0

/-- The newest version of a shard that this package knows of. -/
def latestVersion (s : State) (jb : Job) (i : Nat) (sh : ShardDecl) : Nat := if ownsShard s sh then currentVersion jb i else noticedVersion s jb sh

/-- The notice object of this package for a shard is satisfied (R387). -/
def noticed (s : State) (sh : ShardDecl) : Bool :=
  sh.notices.any (fun a => decide (a / 2 ^ 48 = s.pkgId.toNat) && satisfied (getObj s (a % 2 ^ 40 / 16)))

/-- The versions of a shard that store die d is to fetch and does not hold: those fixed for the micro-batches of items that are otherwise ready,
and the newest, for an otherwise ready item without one or after its notice (R309, R387). -/
def wantedVersions (s : State) (jb : Job) (d i : Nat) (sh : ShardDecl) : List Nat :=
  let readers := jb.items.filter (fun e => decide (e.2.die = d) && (readsShards jb e.2.stage).contains i)
  let due := readers.filter (fun e => otherwiseReady s jb e.2)
  let fixed := due.filterMap (fun e => fixedVersion jb e.2)
  let newest := due.any (fun e => (fixedVersion jb e.2).isNone) || (!readers.isEmpty && noticed s sh)
  let held := fun (v : Nat) => !ownsShard s sh || (mfind jb.versions (verKey i v)).isSome
  ((fixed.filter held) ++ (if newest then [latestVersion s jb i sh] else [])).filter (fun v => !versionAt s jb d i v)

/-- The runs of bytes of a remote shard: virtual address, length, place in the byte string; the element and scale bases are its first two
(log 37). -/
def remoteRuns (sh : ShardDecl) : List (Nat × Nat × Nat) :=
  let e := partSize (workFmt sh)
  (List.range (blockCount sh.count)).map (fun b => (sh.bases.getD 0 0 + partOffset (workFmt sh) b, e, b * e)) ++
    (if scaleBytes sh = 0 then [] else [(sh.bases.getD 1 0, scaleBytes sh, workBytes sh)])

/-- RDs for the bytes of a remote shard, combinable (R363, R387); a page that maps no fabric address ends the job with E_PAGE_FAULT. -/
def sendFetch (s : State) (d j i : Nat) (sh : ShardDecl) : State :=
  (remoteRuns sh).foldl (fun s run =>
    (cutPages (run.2.1 / 65536 + 1) run.1 run.2.1).foldl (fun s q =>
      match walk (getJob s j) none q.1 with
      | .leaf ⟨.fabric f, _, _, _, _, _, _, _⟩ =>
        sendReads s d (getJob s j).epoch true j (fun k => .fetch i k) (q.2 / 256 + 2) (f + q.1 % 65536) q.2 (run.2.2 + (q.1 - run.1))
      | _ => jobFault s j ePageFault) s) s

def startFetch (s : State) (d j i v : Nat) (sh : ShardDecl) (tries : Nat) : State :=
  let remote := !ownsShard s sh
  let r : FetchRec := { job := j, shard := i, version := v, tries := tries, remote := remote, raw := [], need := versionSize sh }
  let s := modStore s d (fun x => { x with fetch := x.fetch ++ [r] })
  if remote then sendFetch s d j i sh else s

/-- A store die starts to fetch a version that its items want and that it lacks; one fetch of a shard runs at a time. -/
def execParamFetchStart (d j i : Nat) (s : State) : Out :=
  onUnit (storeOk d && jobOk j)
    (let jb := getJob s j
     match jb.image.shards[i]? with
     | none => s
     | some sh =>
       if !jobLive s j ∨ !stackUp s d ∨ (getStore s d).fetch.any (fun f => decide (f.job = j ∧ f.shard = i)) then s
       else
         match wantedVersions s jb d i sh with
         | v :: _ => startFetch s d j i v sh 0
         | [] => s)

/-! ### Its end (R311) -/

/-- The digest that the owner published: of a remote owner's version this package knows only that there is one, so it is an open value
(log 37). -/
def publishedDigest (s : State) (jb : Job) (i v : Nat) (sh : ShardDecl) : Word :=
  if ownsShard s sh then (match mfind jb.versions (verKey i v) with | some r => r.digest | none => 0)
  else Config.remoteDigest sh.identity sh.shard v

/-- ARRIVE v on an object at a virtual address of the job, here or in another package (R285). -/
def arriveVa (s : State) (d j va : Nat) (v : BitVec 32) : State :=
  match walk (getJob s j) none va with
  | .sync o => let o := o + va % 65536 / 16; setPort s o (getPort s o ++ [.arrive v none])
  | .leaf ⟨.fabric f, _, _, _, _, _, _, _⟩ =>
    let f := f + va % 65536
    sendSeq s d (arrivePacket (BitVec.ofNat 16 (f / 2 ^ 48)) (getJob s j).epoch (f % 2 ^ 40 / 16) v) (some j) none
  | _ => s

/-- A complete fetch arrives once on the completion object that the image names for its die (R285, R309). -/
def arriveFetch (s : State) (d j : Nat) (sh : ShardDecl) : State :=
  match sh.fetchDone.find? (fun e => decide (e.1 = d)) with
  | some (_, va, v) => arriveVa s d j va v
  | none => s

/-- The micro-batches of items on die d that hold version v of shard i (R315). -/
def holdsAt (jb : Job) (d i v : Nat) : Nat :=
  (jb.fixed.filter (fun f => decide (f.die = d ∧ f.version = v) && (readsShards jb f.stage).contains i)).length

/-- The copy is published on its store die (R309): the newest there if no newer one is, with the holds that micro-batches already have on its
version (R315). -/
def publishCopy (s : State) (d j i v : Nat) (sh : ShardDecl) (digest : Word) (l : List Byte) : Option State :=
  match allocPages j d .published s (workPages sh) [] with
  | none => none
  | some (s, m) =>
    let s := putVer s sh m l
    let newest := (getJob s j).caches.all (fun c => decide (c.shard ≠ i ∨ c.die ≠ d ∨ c.version ≤ v))
    let c : CacheRec :=
      { shard := i, die := d, version := v, digest := digest, pages := m, holds := holdsAt (getJob s j) d i v, newest := newest, discarded := false
        users := [] }
    let s := modJob s j (fun jb =>
      { jb with caches := jb.caches.map (fun c => if newest ∧ c.shard = i ∧ c.die = d then { c with newest := false } else c) ++ [c] })
    some s

/-- The link by which data of a package comes: the usable path to it (log 37). -/
def entryLink (s : State) (d : Nat) (dst : BitVec 16) : Option Nat := (bestPath s d dst 2).bind (routePath s d dst)

/-- A third mismatch (R311, R313): the owner checks its own copy. What an owner in another package finds is an open value here (log 113): a bad copy
is E_UNCORRECTABLE and nothing is retired, a good one retires the path. -/
def failFetch (s : State) (d j i v : Nat) (sh : ShardDecl) : State :=
  let s := raiseEvent (modStore s d (fun x => { x with failed := satAdd 0xFFFF x.failed 1 })) (232 + d)
  if ownsShard s sh then
    match mfind (getJob s j).versions (verKey i v) with
    | some r => jobFault s j (if digestOf sh v (verBytes s sh r.work) = r.digest then eDigestMismatch else eUncorrectable)
    | none => jobFault s j eDigestMismatch
  else if (Config.freeWord s.free 9500).getLsbD 0 then jobFault (draw s) j eUncorrectable
  else
    let s := draw s
    let s := match entryLink s d sh.ownerPkg with | some l => retireLink s l | none => s
    jobFault s j eDigestMismatch

/-- All bytes are there: `received` of a fetch within the package, else those that came in packets. -/
def fetchedBytes (f : FetchRec) (received : List Byte) : Option (List Byte) :=
  if f.remote then (if f.raw.length = f.need then some (rawBytes f.raw f.need) else none)
  else if received.length = f.need then some received else none

def endFetch (s : State) (d : Nat) (f : FetchRec) (sh : ShardDecl) (l : List Byte) : State :=
  let jb := getJob s f.job
  let want := publishedDigest s jb f.shard f.version sh
  let gone := modStore s d (fun x => { x with fetch := x.fetch.filter (fun g => decide (g.job ≠ f.job ∨ g.shard ≠ f.shard)) })
  if digestOf sh f.version l = want then
    match publishCopy gone d f.job f.shard f.version sh want l with
    | none => s
    | some t =>
      let t := modStore t d (fun x => { x with fetches := wrap32 (x.fetches + 1) })
      sweepVersions (arriveFetch t d f.job sh) f.job
  else if f.tries < 2 then
    let s := reportOf (modStore gone d (fun x => { x with refetch := satAdd 0xFFFF x.refetch 1 })) iDigestRefetch d
    startFetch s d f.job f.shard f.version sh (f.tries + 1)
  else failFetch gone d f.job f.shard f.version sh

/-- The bytes of a fetch within the package come over the bridges between the owner's die and the fetcher's (R24, R309). -/
def fetchRoute (s : State) (d : Nat) (sh : ShardDecl) : Bool := !ownsShard s sh || routeExists s sh.ownerDie d

/-- The oldest fetch of store die d whose bytes are there ends; one that no route carries ends the job with E_LINK_NO_PATH (R24). -/
def execParamFetchComplete (d : Nat) (received : List Byte) (s : State) : Out :=
  onUnit (storeOk d)
    (match (getStore s d).fetch.find? (fun f => jobLive s f.job && (fetchedBytes f received).isSome) with
     | none => s
     | some f =>
       match (getJob s f.job).image.shards[f.shard]?, fetchedBytes f received with
       | some sh, some l =>
         if !stackUp s d then s
         else if !fetchRoute s d sh then jobFault s f.job eLinkNoPath
         else endFetch s d f sh l
       | _, _ => s)

/-! ### The scrub (R312, R313) -/

/-- A cached copy on die d is checked against its digest. -/
def scrubCopy (s : State) (j d : Nat) (c : CacheRec) : State :=
  match (getJob s j).image.shards[c.shard]? with
  | none => s
  | some sh =>
    if c.die ≠ d ∨ c.discarded ∨ digestOf sh c.version (verBytes s sh c.pages) = c.digest then s
    else
      let users := ((getJob s j).items.filter (fun e =>
        decide (e.2.state = .running ∧ e.2.die = d ∧ e.2.version = c.version) && (readsShards (getJob s j) e.2.stage).contains c.shard)).map (·.1)
      let s := modJob s j (fun jb =>
        { jb with caches := jb.caches.map (fun x => if x = c then { c with discarded := true, newest := false, users := users } else x) })
      reportOf (raiseEvent (modStore s d (fun x => { x with discards := satAdd 0xFFFF x.discards 1 })) (232 + d)) iDigestRefetch d

/-- An owner's version that mismatches its digest is lost. -/
def scrubOwner (s : State) (j d : Nat) (e : Nat × VerRec) : State :=
  match (getJob s j).image.shards[e.1 / 4294967296]? with
  | none => s
  | some sh =>
    if !ownsShard s sh ∨ sh.ownerDie ≠ d ∨ digestOf sh e.2.version (verBytes s sh e.2.work) = e.2.digest then s else jobFault s j eUncorrectable

/-- SCRUB_STEPS, 16 by default (R312). -/
def scrubSteps (im : JobImage) : Nat := if im.scrubSteps = 0 then 16 else im.scrubSteps

/-- The latest step of which an item is DONE. -/
def stepReached (jb : Job) : Nat :=
  maxOf (jb.image.firstStep.toNat :: (jb.items.filter (fun e => decide (e.2.state = .done))).map (fun e => e.2.step.toNat))

/-- SCRUB_STEPS steps have gone by since store die d last scrubbed, or since the checkpoint's. -/
def scrubDue (jb : Job) (d : Nat) : Bool :=
  decide ((mfind jb.scrubbed d).getD jb.image.firstStep.toNat + scrubSteps jb.image ≤ stepReached jb)

/-- A copy that is being fetched is skipped. -/
def beingFetched (s : State) (j d : Nat) (c : CacheRec) : Bool :=
  (getStore s d).fetch.any (fun f => decide (f.job = j ∧ f.shard = c.shard ∧ f.version = c.version))

/-- A scrub pass of a store die over the copies that a job has there (R312). -/
def execDigestScrub (d j : Nat) (s : State) : Out :=
  onUnit (storeOk d && jobOk j)
    (if !jobLive s j ∨ !stackUp s d ∨ !scrubDue (getJob s j) d then s
     else
       let jb := getJob s j
       let s := modJob s j (fun jb => { jb with scrubbed := mput d (stepReached jb) jb.scrubbed })
       let s := (jb.caches.filter (fun c => !beingFetched s j d c)).foldl (fun s c => scrubCopy s j d c) s
       let s := jb.versions.foldl (fun s e => scrubOwner s j d e) s
       sweepCaches (modStore s d (fun x => { x with scrubPasses := wrap32 (x.scrubPasses + 1) })) j)

/-! ### Export (R330, R331) -/

/-- 64-bit numbers of up to six dimensions, 0 beyond. -/
def dims64 (l : List Nat) : List Byte := (List.range 6).flatMap (fun i => leBytes 8 (l.getD i 0))

/-- Bytes 0x00 to 0xB7 of the header. -/
def exportHead (sh : ShardDecl) (v : VerRec) : List Byte :=
  leBytes 4 0x3152535A ++ leBytes 2 192 ++ [sh.fmt] ++ leBytes 1 sh.count.length ++ leBytes 4 sh.identity.toNat ++ leBytes 4 sh.shard.toNat ++
    leBytes 4 v.version ++ leBytes 4 v.step.toNat ++ leBytes 8 v.digest.toNat ++ leBytes 8 (workBytes sh) ++ leBytes 8 (scaleBytes sh) ++
    dims64 sh.first ++ dims64 sh.count ++ List.replicate 40 0

/-- The record of a version. -/
def exportRecord (s : State) (sh : ShardDecl) (v : VerRec) : List Byte :=
  exportHead sh v ++ leBytes 8 (crc64 (exportHead sh v)).toNat ++ verBytes s sh v.work

/-- An entry of a queue gets its outcome. -/
def setOutcome (s : State) (q k : Nat) (o : Nat × Nat × Nat × Nat) : State :=
  modQueue s q (fun x => { x with entries := x.entries.map (fun e => if e.k = k ∧ e.outcome.isNone then { e with outcome := some o } else e) })

/-- The oldest export of context j: the record is written, the completion object arrives, the hold is gone. -/
def execExportRecordWritten (j : Nat) (s : State) : Out :=
  onUnit (jobOk j)
    (match s.exportRuns.find? (fun e => decide (e.job = j)) with
     | none => s
     | some e =>
       let jb := getJob s j
       match jb.image.shards[e.shard]?, mfind jb.versions (verKey e.shard e.version) with
       | some sh, some v =>
         if !jobLive s j ∨ !stackUp s sh.ownerDie then s
         else
           let gone := { s with exportRuns := dropFirst (fun x => decide (x = e)) s.exportRuns }
           match engineWrite gone sh.ownerDie j e.buf (exportRecord s sh v) with
           | .inr (some c) => jobFault gone j c
           | .inr none => s
           | .inl s =>
             let s := match objAt jb e.obj with | some o => setPort s o (getPort s o ++ [.arrive 1 none]) | none => s
             sweepVersions (setOutcome s e.queue e.k (0, 0, (exportRecord gone sh v).length, 0)) j
       | _, _ => s)

end Sys2Proof.Machine
end

