-- ==== Sys2Proof/Machine/Reshard.lean ====
section
/-!
DEFINITION. Machine/Reshard.lean: the re-shard engine (R381 to R385, R42, R43) and the change of layout epoch (R388, R389).
-/
namespace Sys2Proof.Machine

/-! ### Checks of a descriptor (R384) -/

/-- Conversions of R47 that CONVERT performs: neither format MX or XS; between formats that convert to or from F32, or BF16 to SB8. -/
def cvtPair (a b : Nat) : Bool :=
  fmtKnown a && fmtKnown b && !isMx a && !isMx b && decide (a ≠ 0x18 ∧ b ≠ 0x18 ∧ a ≠ b) &&
    (decide (a = 0 ∧ b ≠ 0x19) || decide (b = 0) || decide (a = 2 ∧ (b = 8 ∨ b = 9)))

/-- The SB target of an MX format (R43). -/
def mxTarget (a : Nat) : Option Nat := if isMx a then some (a - 8) else none

/-- Targets of stochastic rounding (R44). -/
def srTarget (b : Nat) : Bool := decide (1 ≤ b ∧ b ≤ 6) || isSb b

/-- Check 2 of R384. A CONVERT to F32 with SR is E_BAD_FORMAT here, as this check lists it, where R44 has it rejected as the reserved code is
(E_ARG_RESERVED): which of the two codes a host-submitted descriptor gets no rule settles (DESIGN CHOICE, log 100). -/
def descBadFormat (d : Descr) : Bool :=
  let a := d.sfmt.toNat
  let b := d.dfmt.toNat
  let ok := if d.kind = 0 then decide (a = b) && fmtKnown a
            else if d.kind = 1 then cvtPair a b
            else decide (mxTarget a = some b) && decide (d.rnd.toNat = 0)
  !ok || (decide (d.rnd.toNat = 2) && !srTarget b)

/-- The box lies within a shard: origin and extents. -/
def boxWithin (first count org ext : List Nat) : Bool :=
  (first.zip (count.zip (org.zip ext))).all (fun e => decide (e.2.2.1 ≤ e.1 ∧ e.1 + e.2.1 ≤ e.2.2.1 + e.2.2.2))

def descBadRange (d : Descr) : Bool :=
  let n := d.ndim
  let cut := fun (l : List Nat) => l.take n
  !(cut d.count).all (fun c => decide (1 ≤ c)) || !boxWithin (cut d.first) (cut d.count) (cut d.sorg) (cut d.sext) ||
    !boxWithin (cut d.first) (cut d.count) (cut d.dorg) (cut d.dext) || !((cut d.first).zip (cut d.count)).all (fun e => decide (e.1 + e.2 < 2 ^ 32))

/-- A box edge lies on a multiple of 8 of a shard or on the shard's edge, in one dimension. -/
def edgeOk (first count org ext : Nat) : Bool :=
  decide ((first - org) % 8 = 0) && (decide ((first + count - org) % 8 = 0) || decide (first + count = org + ext))

/-- The last two dimensions. -/
def lastTwo (n : Nat) : List Nat := if n = 1 then [0] else [n - 2, n - 1]

def descBadAlign (d : Descr) : Bool :=
  let at' := fun (l : List Nat) (k : Nat) => l.getD k 0
  let dims := lastTwo d.ndim
  decide (d.sbase.toNat % 65536 ≠ 0 ∨ d.dbase.toNat % 65536 ≠ 0 ∨ d.sscale.toNat % 16 ≠ 0 ∨ d.dscale.toNat % 16 ≠ 0) ||
    (isSb d.dfmt.toNat &&
      dims.any (fun k =>
        !edgeOk (at' d.first k) (at' d.count k) (at' d.dorg k) (at' d.dext k) ||
          (decide (d.kind = 0) && !edgeOk (at' d.first k) (at' d.count k) (at' d.sorg k) (at' d.sext k)))) ||
    (decide (d.kind = 2) && decide ((at' d.first (d.ndim - 1) - at' d.sorg (d.ndim - 1)) % 32 ≠ 0))

/-- The first check of R384 that fails. -/
def descCode (d : Descr) : Option Nat :=
  if d.rsv ∨ 2 < d.kind ∨ d.ndim = 0 ∨ 6 < d.ndim ∨ 3 ≤ d.rnd.toNat then some eArgReserved
  else if descBadFormat d then some eBadFormat
  else if descBadRange d then some eArgRange
  else if descBadAlign d then some eArgAlign
  else none

/-! ### Elements (R383) -/

/-- The coordinates of the box, in row-major order. -/
def boxSize (d : Descr) : Nat := (d.count.take d.ndim).foldl (· * ·) 1
def boxCoord (d : Descr) (n : Nat) : List Nat := addCoords (d.first.take d.ndim) (coordsOf (d.count.take d.ndim) n)

/-- Address of the element part and of the scale part of the block that holds x in a blocked shard, with x's place in the block. -/
structure Place where
  part : Nat
  scale : Nat
  elem : Nat
  deriving DecidableEq, Repr

def placeIn (fmt base scale : Nat) (org ext x : List Nat) : Place :=
  let p := elemPlace ext (subCoords x org)
  ⟨base + partOffset fmt p.1, scale + 16 * p.1, p.2⟩

def srcPlace (d : Descr) (x : List Nat) : Place := placeIn d.sfmt.toNat d.sbase.toNat d.sscale.toNat (d.sorg.take d.ndim) (d.sext.take d.ndim) x
def dstPlace (d : Descr) (x : List Nat) : Place := placeIn d.dfmt.toNat d.dbase.toNat d.dscale.toNat (d.dorg.take d.ndim) (d.dext.take d.ndim) x

/-- Row and column of element x in an MX array over the source shard (R42, R383). -/
def mxPlace (d : Descr) (x : List Nat) : Nat × Nat :=
  let ext := d.sext.take d.ndim
  let i := linearOf ext (subCoords x (d.sorg.take d.ndim))
  (i / ext.getLastD 1, i % ext.getLastD 1)

/-- The first byte of a row of an MX array, and of its scales. Elements are packed densely within a row, a four-bit element by its index
within the row (R35); each row, a last group of fewer than 32 elements with it, begins at a byte of its own (how the OCP packing meets row
ends the spec does not say: DESIGN CHOICE, log 98). -/
def mxRow (d : Descr) (r : Nat) : Nat := d.sbase.toNat + r * ceilDiv (fmtBits d.sfmt.toNat * (d.sext.take d.ndim).getLastD 1) 8
def mxScaleRow (d : Descr) (r : Nat) : Nat := d.sscale.toNat + r * ceilDiv ((d.sext.take d.ndim).getLastD 1) 32

/-- Bytes of the elements, and of the scales, of a row piece of n elements of an MX array that begins with x. -/
def mxRanges (d : Descr) (n : Nat) (x : List Nat) : List (Nat × Nat) :=
  let w := fmtBits d.sfmt.toNat
  let p := mxPlace d x
  [(mxRow d p.1 + w * p.2 / 8, (w * (p.2 + n) + 7) / 8 - w * p.2 / 8), (mxScaleRow d p.1 + p.2 / 32, (p.2 + n - 1) / 32 + 1 - p.2 / 32)]

/-- Ranges of source bytes, no two of which overlap: element and scale parts of the blocks that the box meets; for an MX source, the pieces
of its rows in the box (R42). -/
def srcRanges (d : Descr) : List (Nat × Nat) :=
  let f := d.sfmt.toNat
  if isMx f then
    let n := (d.count.take d.ndim).getLastD 1
    (List.range (boxSize d / n)).flatMap (fun k => mxRanges d n (boxCoord d (k * n)))
  else
    (List.range (boxSize d)).flatMap (fun n =>
      let p := srcPlace d (boxCoord d n)
      [(p.part, partSize f)] ++ (if isSb f then [(p.scale, 16)] else [])) |>.eraseDups

/-- The scale of a tensor whose format has one (R36). -/
def tensorScale (jb : Job) (d : Descr) : FVal := match jb.image.tensors[d.tensor]? with | some t => f32 t.scale | none => fvOne

/-- The value of source element x, exactly. -/
def srcValue (jb : Job) (d : Descr) (byte : Nat → Byte) (x : List Nat) : FVal :=
  let f := d.sfmt.toNat
  if isMx f then
    let p := mxPlace d x
    let e := (byte (mxScaleRow d p.1 + p.2 / 32)).toNat
    if e = 0xFF then .nan
    else match decodeElem f (codeAt byte (fmtBits f) (mxRow d p.1) p.2) with
      | .fin n m y => .fin n m (y + ((e : Int) - 127))
      | w => w
  else
    let p := srcPlace d x
    let c := codeAt byte (fmtBits f) p.part p.elem
    if isSb f then sbValue f (byte (p.scale + squareOf p.elem)).toNat c
    else if isScaled f then fvMul (decodeElem f c) (tensorScale jb d)
    else decodeElem f c

/-- The code of source element x. -/
def srcCode (d : Descr) (byte : Nat → Byte) (x : List Nat) : Nat :=
  let p := srcPlace d x
  codeAt byte (fmtBits d.sfmt.toNat) p.part p.elem

/-- Rounding of element x: SR by its logical index over the tensor (R46). -/
def descRnd (jb : Job) (d : Descr) (step : BitVec 32) (x : List Nat) : Rnd :=
  if d.rnd.toNat = 2 then
    let shape := match jb.image.tensors[d.tensor]? with | some t => t.shape | none => d.sext.take d.ndim
    .sr (spark jb.image.seed d.stream step (BitVec.ofNat 64 (linearOf shape x))).toNat
  else if d.rnd.toNat = 1 then .rz else .rne

/-- The value that is narrowed: IMPORT's exact value, CONVERT's F32, divided by the scale of a scaled target. -/
def narrowed (jb : Job) (d : Descr) (v : FVal) : FQuo :=
  let v := if d.kind = 1 then f32 (cvtF32 v) else v
  if isScaled d.dfmt.toNat then fvDiv v (tensorScale jb d) else .val v

/-- Coordinates of the logical elements of the destination square that holds x, which lie in the box. -/
def squareMates (d : Descr) (x : List Nat) : List (List Nat) :=
  let p := elemPlace (d.dext.take d.ndim) (subCoords x (d.dorg.take d.ndim))
  (List.range 64).filterMap (fun k =>
    let i := (p.2 / 256 * 8 + k / 8) * 32 + (p.2 % 32 / 8 * 8 + k % 8)
    (elemCoords (d.dext.take d.ndim) p.1 i).map (addCoords (d.dorg.take d.ndim)))

/-- Bits to write: address of the first byte, bit offset, width, value. -/
structure Put where
  va : Nat
  bit : Nat
  width : Nat
  value : Nat
  deriving DecidableEq, Repr

/-- What element x makes of the destination: its code, and for an SB format the scale of its square. -/
def putsFor (jb : Job) (d : Descr) (step : BitVec 32) (byte : Nat → Byte) (x : List Nat) : List Put :=
  let f := d.dfmt.toNat
  let w := fmtBits f
  let p := dstPlace d x
  let put := fun (c : Nat) => ({ va := p.part + w * p.elem / 8, bit := w * p.elem % 8, width := w, value := c } : Put)
  if d.kind = 0 then
    put (srcCode d byte x) ::
      (if isSb f then
         let q := srcPlace d x
         [⟨p.scale + squareOf p.elem, 0, 8, (byte (q.scale + squareOf q.elem)).toNat⟩]
       else [])
  else if isSb f then
    let e := squareScale f ((squareMates d x).map (fun y => narrowed jb d (srcValue jb d byte y)))
    [put (sbElem f e (descRnd jb d step x) (narrowed jb d (srcValue jb d byte x))), ⟨p.scale + squareOf p.elem, 0, 8, e⟩]
  else [put (convertTo f (descRnd jb d step x) (narrowed jb d (srcValue jb d byte x)))]

/-- The blocks of the destination that the box meets: their numbers. -/
def dstBlocks (d : Descr) : List Nat :=
  ((List.range (boxSize d)).map (fun n => (elemPlace (d.dext.take d.ndim) (subCoords (boxCoord d n) (d.dorg.take d.ndim))).1)).eraseDups

/-- Padding elements of those blocks are written zero. -/
def padPuts (d : Descr) : List Put :=
  let f := d.dfmt.toNat
  let w := fmtBits f
  (dstBlocks d).flatMap (fun b =>
    ((List.range 1024).filter (fun i => (elemCoords (d.dext.take d.ndim) b i).isNone)).map (fun i =>
      ({ va := d.dbase.toNat + partOffset f b + w * i / 8, bit := w * i % 8, width := w, value := 0 } : Put)))

/-- Bits to write, by byte: mask and value. -/
def addPut (m : Map (Nat × Nat)) (p : Put) : Map (Nat × Nat) :=
  (List.range ((p.bit + p.width + 7) / 8)).foldl (fun m k =>
    let mask := (2 ^ p.width - 1) * 2 ^ p.bit / 256 ^ k % 256
    let v := p.value % 2 ^ p.width * 2 ^ p.bit / 256 ^ k % 256
    let old := mget (0, 0) m (p.va + k)
    mput (p.va + k) (old.1 ||| mask, (old.2 &&& (255 - mask)) ||| v) m) m

/-- Runs of consecutive bytes. -/
def byteRuns : List (Nat × Byte) → List (Nat × List Byte)
  | [] => []
  | (a, b) :: rest =>
    match byteRuns rest with
    | (c, l) :: more => if c = a + 1 then (a, b :: l) :: more else (a, [b]) :: (c, l) :: more
    | [] => [(a, [b])]

/-- Pieces of runs within one page. -/
def pageRuns (l : List (Nat × List Byte)) : List (Nat × List Byte) :=
  l.flatMap (fun r => (cutPages (r.2.length / 65536 + 1) r.1 r.2.length).map (fun q => (q.1, (r.2.drop (q.1 - r.1)).take q.2)))

/-! ### Running a descriptor (R383, R385) -/

/-- RDs for the source ranges that lie in another package; answers how many bytes are wanted. -/
def fetchSource (s : State) (d j id : Nat) (rs : List (Nat × Nat)) : State × Nat :=
  rs.foldl (fun (t : State × Nat) r =>
    (cutPages (r.2 / 65536 + 1) r.1 r.2).foldl (fun (t : State × Nat) q =>
      match walk (getJob t.1 j) none q.1 with
      | .leaf ⟨.fabric f, _, _, _, _, _, _, _⟩ =>
        let f := f + q.1 % 65536
        let who := fun k => ReqFor.reshard id (q.1 + k)
        (if coherentAt (getJob t.1 j) f then (readLines t.1 j who [] f q.2 0).1
         else sendReads t.1 d (getJob t.1 j).epoch false j who (q.2 / 256 + 2) f q.2 0, t.2 + q.2)
      | _ => t) t) (s, 0)

/-- The destination bits of a descriptor by byte, mask and value, padding among them. -/
def descPuts (jb : Job) (x : Descr) (step : BitVec 32) (byte : Nat → Byte) : Map (Nat × Nat) :=
  (padPuts x ++ (List.range (boxSize x)).flatMap (fun n => putsFor jb x step byte (boxCoord x n))).foldl addPut []

/-- The destination bytes of which the box covers some bits only, and which are no source bytes: their other bits keep their values, so a byte in
another package is read first (R383). Which bits are written does not turn on the source's values. -/
def partBytes (jb : Job) (x : Descr) (step : BitVec 32) : List (Nat × Nat) :=
  ((descPuts jb x step (fun _ => 0)).filter (fun e =>
    decide (e.2.1 ≠ 255) && !(srcRanges x).any (fun r => decide (r.1 ≤ e.1 ∧ e.1 < r.1 + r.2)))).map (fun e => (e.1, 1))

/-- The engine takes up a descriptor: reads of other packages go out. -/
def takeUp (s : State) (d : Nat) (r : RunDescr) : State :=
  let s := modDescr s d r.id (fun y => { y with started := true })
  let t := fetchSource s d r.job r.id (srcRanges r.d ++ partBytes (getJob s r.job) r.d r.step)
  modDescr t.1 d r.id (fun y => { y with need := t.2 })

/-- The first four descriptors of an engine are in flight (R385). -/
def pumpDescrs (s : State) (d : Nat) : State :=
  (((getStore s d).descrs.take 4).filter (fun r => !r.started)).foldl (fun s r => takeUp s d r) s

/-- A descriptor joins the engine's list. -/
def startDescr (s : State) (d j : Nat) (x : Descr) (step : BitVec 32) (trans : Option Nat) (entry : Option (Nat × Nat)) : State :=
  pumpDescrs
    (modStore s d (fun y =>
      { y with nextDescr := y.nextDescr + 1
               descrs := y.descrs ++
                 [{ job := j, d := x, step := step, trans := trans, entry := entry, id := y.nextDescr, started := false, raw := [], need := 0
                    sent := false, acks := 0, failed := none }] })) d

/-- The source bytes: those of this package read now, the others as they came; or the code of a check that fails. -/
def gatherSource (s : State) (d j : Nat) (raw : Map Byte) : List (Nat × Nat) → Map Byte ⊕ Option Nat
  | [] => .inl raw
  | r :: rest =>
    match checkAccess s (getJob s j) none d .rd [r] with
    | .bad c _ => .inr (some c)
    | .wait => .inr none
    | .ok ps =>
      match gatherSource s d j raw rest with
      | .inr c => .inr c
      | .inl m => .inl (ps.foldl (fun m p => match p.target with | .phys a => localPut m p.va (physRead s a p.len) | .fabric _ => m) m)

/-- Writes the runs: those of this package now, the others by WR; answers how many acknowledgements follow, or a failing code. -/
def writeRuns (d j id : Nat) : State → Nat → List (Nat × List Byte) → (State × Nat) ⊕ Option Nat
  | s, n, [] => .inl (s, n)
  | s, n, r :: rest =>
    match checkAccess s (getJob s j) none d .wr [(r.1, r.2.length)] with
    | .bad c _ => .inr (some c)
    | .wait => .inr none
    | .ok ps =>
      let s := writePieces s ps r.2
      match ps with
      | ⟨_, m, .fabric f⟩ :: _ =>
        let fuel := m / 256 + 2
        writeRuns d j id (sendWrites s d (getJob s j).epoch j (some (engineAgent d, id)) fuel f r.2) (n + packetCount fuel f m) rest
      | _ => writeRuns d j id s n rest

/-- A masked byte over the old one: that of another package has come with the source. A page here that the engine may write and not read keeps what
stands there, which the engine then takes from the frame itself. -/
def mergedByte (s : State) (d j : Nat) (raw : Map Byte) (va : Nat) (m : Nat × Nat) : Byte :=
  if m.1 = 255 then BitVec.ofNat 8 m.2
  else
    let old := match mfind raw va with
      | some b => b
      | none =>
        match checkAccess s (getJob s j) none d .wr [(va, 1)] with
        | .ok ps => (readPieces s ps).headD 0
        | _ => 0
    BitVec.ofNat 8 ((old.toNat &&& (255 - m.1)) ||| m.2)

/-- All destination bytes of a descriptor. -/
def descBytes (s : State) (d : Nat) (r : RunDescr) (src : Map Byte) : List (Nat × List Byte) :=
  let jb := getJob s r.job
  let byte := fun va => mget 0 src va
  let puts := descPuts jb r.d r.step byte
  pageRuns (byteRuns (puts.map (fun (e : Nat × Nat × Nat) => (e.1, mergedByte s d r.job r.raw e.1 e.2))))

/-- ARRIVE V on the completion object, here or in another package (R385). -/
def arriveDescr (s : State) (d : Nat) (r : RunDescr) : State :=
  if r.d.obj = 0 then s else arriveVa s d r.job r.d.obj.toNat r.d.v

/-- The descriptor leaves the engine: the transition ends with its last one, the next in the list is taken up. -/
def leaveEngine (s : State) (d : Nat) (r : RunDescr) : State :=
  let s := modStore s d (fun x => { x with descrs := x.descrs.filter (fun y => decide (y.id ≠ r.id)) })
  let s :=
    if r.trans.isSome ∧ !(getStore s d).descrs.any (fun y => decide (y.trans = r.trans ∧ y.job = r.job)) then
      modStore s d (fun x => { x with transBusy := none })
    else s
  pumpDescrs s d

/-- The descriptor is complete: it arrives once, an import completes its entry. -/
def endDescr (s : State) (d : Nat) (r : RunDescr) : State :=
  let s := arriveDescr s d r
  leaveEngine (match r.entry with | some (q, k) => setOutcome s q k (0, 0, 0, 0) | none => s) d r

/-- A target has rejected part of the descriptor: it does not complete, so it never arrives; its import's entry ends with the code (R286,
R347). -/
def rejectDescr (s : State) (d : Nat) (r : RunDescr) (code : Nat) : State :=
  leaveEngine (match r.entry with | some (q, k) => setOutcome s q k (code, 0, 0, 0) | none => s) d r

/-- A descriptor's access fails: the job faults, its engines stop, nothing arrives (R286, R383). -/
def failDescr (s : State) (d : Nat) (r : RunDescr) (code : Nat) : State := pumpDescrs (jobFault s r.job code) d

/-- The bytes of a descriptor are written. -/
def runDescr (s : State) (d : Nat) (r : RunDescr) : State :=
  match gatherSource s d r.job r.raw (srcRanges r.d) with
  | .inr (some c) => failDescr s d r c
  | .inr none => s
  | .inl src =>
    let s := touchRanges s none r.job none d (srcRanges r.d)
    let runs := descBytes s d r src
    match writeRuns d r.job r.id (draw s) 0 runs with
    | .inr (some c) => failDescr s d r c
    | .inr none => s
    | .inl t =>
      let s := modStore t.1 d (fun x => { x with bytesOut := (x.bytesOut + ((runs.map (fun q => q.2.length)).sum)) % 2 ^ 64 })
      let s := modDescr s d r.id (fun y => { y with sent := true, acks := t.2 })
      if t.2 = 0 then endDescr s d r else s

/-- One of up to four descriptors in flight: its bytes are written once the source is there, and it completes when every byte has been
performed (R385). -/
def execReshardDescriptorComplete (d k : Nat) (s : State) : Out :=
  onUnit (storeOk d)
    (match (if k < 4 then (getStore s d).descrs[k]? else none) with
     | none => s
     | some r =>
       if !jobLive s r.job ∨ !stackUp s d then s
       else
         match r.failed with
         | some code => rejectDescr s d r code
         | none =>
           if !r.started then pumpDescrs s d
           else if r.sent then (if r.acks = 0 then endDescr s d r else s)
           else if r.raw.length < r.need then s
           else runDescr s d r)

/-! ### Transitions (R381) -/

/-- The transition that starts next: the first that waits whose epoch is current. -/
def nextTransition (s : State) (d : Nat) : Option (Nat × Nat × TransDecl) :=
  (getStore s d).transQueue.findSome? (fun e =>
    let jb := getJob s e.1
    match jb.image.mapping.trans[e.2]? with
    | some t => if jobLive s e.1 ∧ t.epoch = jb.epoch ∧ jb.epochState = 1 then some (e.1, e.2, t) else none
    | none => none)

def execTransitionStart (d : Nat) (s : State) : Out :=
  onUnit (storeOk d)
    (let x := getStore s d
     let busy := match x.transBusy with | some (j, _) => jobLive s j | none => false
     match nextTransition s d with
     | none => s
     | some (j, k, t) =>
       if busy || !stackUp s d then s
       else
         let s := modStore s d (fun x =>
           { x with transBusy := if t.descrs.isEmpty then none else some (j, k), transLast := k, transCtx := j
                    transQueue := dropFirst (fun e => decide (e = (j, k))) x.transQueue })
         t.descrs.foldl (fun s y => startDescr s d j y t.step (some k) none) s)

/-! ### Layout epochs (R389) -/

/-- Every step up to the last of the epoch has been submitted and its items are done, and every other reduction region of the job here is
Closed (R389 step 2; a gradient region is drained by the UPD item of the last step: DEDUCED, log 38). -/
def epochQuiet (s : State) (jb : Job) (last : BitVec 32) : Bool :=
  jb.steps.any (fun r => decide (r.number = last)) &&
    jb.items.all (fun e => decide (last.toNat < e.2.step.toNat ∨ e.2.state = .done ∨ e.2.state = .notExecuted)) &&
    jb.image.regions.all (fun r =>
      match r.close with
      | none => true
      | some (va, _) =>
        jb.image.shards.any (fun sh => decide ((sh.closeObj.map (·.1)) = some va)) ||
          (match objAt jb va with | some o => satisfied (getObj s o) | none => true))

/-- ARRIVE 1 of the Lodge on an object of a package; such an arrival carries no epoch. -/
def lodgeArrive (s : State) (j : Nat) (a : BitVec 16 × Nat) : State :=
  arriveAt s (a.2 / 65536 % 4) j (a.1.toNat * 2 ^ 48 + 255 * 2 ^ 40 + 16 * a.2) 0

def execEpochArrived (j : Nat) (s : State) : Out :=
  onUnit (jobOk j)
    (let jb := getJob s j
     match jb.image.mapping.epochLast.find? (fun e => decide (e.1 = jb.epoch)) with
     | none => s
     | some e =>
       if !jobLive s j ∨ jb.epochState ≠ 1 ∨ !epochQuiet s jb e.2 then s
       else lodgeArrive (modJob s j (fun jb => { jb with epochState := 2 })) j jb.image.mapping.closeObj)

/-- An object of the epoch change is armed for the next one (log 38). -/
def armNext (s : State) (o n : Nat) : State := setPort s o (getPort s o ++ [.arm ((getObj s o).target + BitVec.ofNat 32 n) none])

/-- Rank 0: EPOCH_CLOSE is satisfied, and every activation object receives ARRIVE 1 (R389 step 5). -/
def execEpochActivationSend (j : Nat) (s : State) : Out :=
  onUnit (jobOk j)
    (let jb := getJob s j
     let o := jb.image.mapping.closeObj.2
     if !jobLive s j ∨ jb.image.rank ≠ 0 ∨ jb.image.mapping.closeObj.1 ≠ s.pkgId ∨ !objOk o ∨ !satisfied (getObj s o) ∨ !(getPort s o).isEmpty ∨ jb.epochState ≠ 2 then s
     else (jb.image.mapping.activations).foldl (fun s a => lodgeArrive s j a) (armNext s o jb.image.nrank))

/-- The version records of a shard, with their numbers. -/
def shardVersions (jb : Job) (k : Nat) : List (Nat × VerRec) :=
  (jb.versions.filter (fun e => decide (e.1 / 4294967296 = k))).map (fun e => (e.1 % 4294967296, e.2))

/-- The shard leaves this package: its versions stay as cached copies of their die, the hot-tier state goes (R307, R388; log 112). -/
def giveShardUp (s : State) (j k d : Nat) : State :=
  let jb := getJob s j
  let l := shardVersions jb k
  let cur := mget 0 jb.shardVer k
  let hot := l.flatMap (fun e => e.2.hot)
  let s := releaseFrames (invalidate s j d (hot.map (·.1))) (pageFrames hot)
  modJob s j (fun jb =>
    { jb with versions := jb.versions.filter (fun e => decide (e.1 / 4294967296 ≠ k))
              caches := jb.caches ++ l.map (fun e =>
                ({ shard := k, die := d, version := e.1, digest := e.2.digest, pages := e.2.work, holds := e.2.holds, newest := decide (e.1 = cur)
                   discarded := false, users := [] } : CacheRec)) })

/-- The shard comes to this package: cached copies of its new die become the owner's versions; what its hot-tier state holds then the spec does
not state (log 112). -/
def takeShard (s : State) (j k d : Nat) (sh : ShardDecl) : State :=
  let mine := (getJob s j).caches.filter (fun c => decide (c.shard = k ∧ c.die = d) && !c.discarded)
  let cur := maxOf (noticedVersion s (getJob s j) sh :: mine.map (·.version))
  let t := (allocPages j d .published s (hotPages (getJob s j) sh) []).getD (s, [])
  let s := (pageFrames t.2).foldl (fun s f => draw { s with mem := memWrite s.mem (f * 65536) (openBytes s 65536) }) t.1
  modJob s j (fun jb =>
    { jb with caches := jb.caches.filter (fun c => !mine.contains c), shardVer := mput k cur jb.shardVer
              versions := mine.foldl (fun m c =>
                mput (verKey k c.version)
                  ({ version := c.version, step := BitVec.ofNat 32 c.version, digest := c.digest, work := c.pages
                     hot := if c.version = cur then t.2 else [], holds := c.holds } : VerRec) m) jb.versions })

/-- Shard k passes from its owner of the old epoch to that of the new one. -/
def moveOwner (j : Nat) (old new : JobImage) (s : State) (k : Nat) : State :=
  match old.shards[k]?, new.shards[k]? with
  | some a, some b =>
    if ownsShard s a && !ownsShard s b then giveShardUp s j k a.ownerDie
    else if !ownsShard s a && ownsShard s b then takeShard s j k b.ownerDie b
    else s
  | _, _ => s

/-- The next epoch is current and the state OPEN: the owners of its layouts hold the shards (R307, R388, R389 step 6). -/
def openEpoch (s : State) (j : Nat) : State :=
  let jb := getJob s j
  let e := nextEpoch jb.epoch
  let im := withOwners jb.image e
  let s := (List.range im.shards.length).foldl (moveOwner j jb.image im) s
  modJob s j (fun jb => { jb with image := im, epoch := e, epochState := 1 })

/-- The activation object is satisfied (R389 step 6). -/
def execEpochActivate (j : Nat) (s : State) : Out :=
  onUnit (jobOk j)
    (let jb := getJob s j
     match jb.image.mapping.activation with
     | none => s
     | some o =>
       if !jobLive s j ∨ jb.epochState ≠ 2 ∨ !objOk o ∨ !satisfied (getObj s o) then s
       else armNext (openEpoch s j) o 1)

end Sys2Proof.Machine
end

