-- ==== Sys2Proof/Machine/Image.lean ====
section
/-!
DEFINITION. Machine/Image.lean: what makes a job image well formed (R36, R164, R165, R215, R216, R223, R224, R228, R233, R244, R263, R265,
R306, R332, R368, R378, R380, R384, R414, R415, R507), the route plan (R386), the split table and its signature (R392, R507).
-/
namespace Sys2Proof.Machine

/-! ### Container (R414 to R416) -/

/-- A little-endian field of n bytes in host memory (R5). -/
def hostField (s : State) (a n : Nat) : Nat := leNat (memRead s.host a n)

/-- The n bytes of host memory from a are zero. -/
def hostZero (s : State) (a n : Nat) : Bool := (memRead s.host a n).all (fun b => decide (b = 0))

/-- The image that the loader reads at host address a (R414 to R416): header, section table and signature block come from its bytes, what the
sections hold from the command (log 5). -/
def readImage (s : State) (a len : Nat) (im : JobImage) : JobImage :=
  let n := hostField s (a + 0x18) 4
  let table := (List.range (min n 4096)).map (fun i => a + 128 + 24 * i)
  let block := a + len - 128
  { im with
    magic := BitVec.ofNat 32 (hostField s a 4), hlen := hostField s (a + 4) 2, rev := hostField s (a + 6) 2, len := hostField s (a + 8) 8
    seed := BitVec.ofNat 64 (hostField s (a + 0x10) 8), nsect := n, policy := hostField s (a + 0x1C) 1, stale := hostField s (a + 0x1D) 1
    slowD := hostField s (a + 0x1E) 1, window := hostField s (a + 0x20) 2, scrubSteps := hostField s (a + 0x22) 2, chunkT := hostField s (a + 0x24) 4
    firstStep := BitVec.ofNat 32 (hostField s (a + 0x28) 4), rank := hostField s (a + 0x2C) 4, nrank := hostField s (a + 0x30) 4
    sections := table.map (fun t => (hostField s t 4, hostField s (t + 8) 8, hostField s (t + 16) 8))
    keyIdx := hostField s block 1
    rsv := im.rsv || !hostZero s (a + 0x1F) 1 || !hostZero s (a + 0x34) 76 || table.any (fun t => !hostZero s (t + 4) 4) ||
      !hostZero s (block + 1) 7 || !hostZero s (block + 122) 6
    bytes := memRead s.host a len }

/-- Section types that appear once; INITIAL may appear any number of times. -/
def onceTypes : List Nat := [1, 2, 3, 4, 5, 6, 7, 255]

def sectionsOk (im : JobImage) : Bool :=
  onceTypes.all (fun t => decide ((im.sections.filter (fun e => decide (e.1 = t))).length = 1)) &&
    im.sections.all (fun e => (onceTypes.contains e.1 || decide (e.1 = 8)) && decide (e.2.1 % 64 = 0 ∧ e.2.1 + e.2.2 ≤ im.len)) &&
    apart (im.sections.map (·.2)) && im.sections.all (fun e => decide (e.1 ≠ 255 ∨ (e.2.2 = 128 ∧ e.2.1 + 128 = im.len)))

def headerOk (im : JobImage) (len : Nat) : Bool :=
  decide (im.magic = 0x3947495A ∧ im.hlen = 128 ∧ im.rev = 1 ∧ im.len = len) && !im.rsv &&
    decide (2 ≤ im.nsect ∧ im.nsect ≤ 4096 ∧ im.sections.length = im.nsect) &&
    decide (im.rank < im.nrank ∧ im.policy ≤ 3 ∧ im.stale ≤ 2 ∧ im.slowD ≤ 4 ∧ im.scrubSteps ≤ 1024) &&
    (if im.policy = 1 then decide (1 ≤ im.window ∧ im.window ≤ 256) else decide (im.window = 0)) &&
    decide (im.chunkT = 0 ∨ (im.chunkT % 1024 = 0 ∧ 1024 ≤ im.chunkT ∧ im.chunkT ≤ 4194304))

/-! ### Stages, channels, edges -/

/-- Parts of the initial contents lie in the data area and do not overlap (R57, R86). -/
def stageDataOk (st : StageDecl) : Bool :=
  let lo := 8 * st.progWords
  st.data.all (fun e => decide (lo ≤ e.1 ∧ e.1 + e.2.length ≤ lo + st.dataBytes)) && apart (st.data.map (fun e => (e.1, e.2.length)))

def stageWordsOk (st : StageDecl) : Bool :=
  decide (1 ≤ st.progWords ∧ st.progWords ≤ 8192 ∧ st.words.length ≤ st.progWords) && kciProgramOk st.progWords st.words &&
    [st.entFwd, st.entBwd, st.entRed].all (fun e => match e with | some w => decide (w < st.progWords) | none => true)

def slotOk (d : SlotDecl) : Bool := match d.stash with | some t => fmtKnown t.2.1.toNat | none => true

def stageOk (st : StageDecl) : Bool :=
  decide (1 ≤ st.h ∧ st.h ≤ 8 ∧ 1 ≤ st.w ∧ st.w ≤ 8 ∧ 1 ≤ st.replicas ∧ st.replicas ≤ 64) && stageWordsOk st && stageDataOk st &&
    st.slots.all slotOk

/-- The fields of a channel (R216). -/
def chanOk (im : JobImage) (c : ChanDecl) : Bool :=
  let rank := fun (st r : Nat) => match im.stages[st]? with | some d => decide (r < d.h * d.w) | none => false
  rank c.pStage c.pRank && rank c.cStage c.cRank && decide (c.u % 64 = 0 ∧ 64 ≤ c.u ∧ c.u ≤ 16384 ∧ 1 ≤ c.k ∧ c.k ≤ 64) &&
    decide (c.txAddr % 64 = 0 ∧ c.rxAddr % 64 = 0)

/-- A phase that an edge may name at a stage (R223): one that the stage declares, among FWD, BWD and RED (R506). -/
def phaseNamed (im : JobImage) (st ph : Nat) : Bool :=
  match im.stages[st]? with
  | some d => decide (ph = 0 ∨ ph = 1 ∨ ph = 3) && (entryWord d ph).isSome
  | none => false

def edgeNamed (im : JobImage) (e : EdgeDecl) : Bool := phaseNamed im e.fStage e.fPhase && phaseNamed im e.tStage e.tPhase

/-! ### Regions, tensors, shards, mapping -/

def slotRange (d : SlotDecl) : Nat × Nat := (d.va, if d.stash.isSome then d.size else instanceSpan d.size)

/-- The ranges of the virtual space that must not overlap (R164): regions, pages of objects, instance ranges, stash slots, working
copies (R306). -/
def declaredRanges (im : JobImage) : List (Nat × Nat) :=
  im.regions.map (fun r => (r.va, r.size)) ++ im.syncs.map (fun y => (y.va, 65536)) ++ im.stages.flatMap (fun st => st.slots.map slotRange) ++
    im.shards.flatMap (fun sh => (sh.workVa, spanBytes (workFmt sh) sh.count) :: (if scaleBytes sh = 0 then [] else [(sh.workScaleVa, scaleBytes sh)]))

/-- A range of whole pages in the 48-bit space (R158); an instance lies at a multiple of its range (R170; that such a declaration is refused is
DEDUCED, log 53). -/
def rangesOk (im : JobImage) : Bool :=
  (declaredRanges im).all (fun r => decide (r.1 % 65536 = 0 ∧ 0 < r.2 ∧ r.1 + r.2 ≤ 2 ^ 48)) &&
    im.stages.all (fun st => st.slots.all (fun d => d.stash.isSome || decide (0 < d.size ∧ d.size ≤ 2 ^ 39 ∧ d.va % instanceSpan d.size = 0))) &&
    im.regions.all (fun r => decide ((r.kind = .hostBuf ∨ r.kind = .fabric) → r.target % 65536 = 0) &&
      r.data.all (fun e => decide (e.1 + e.2.length ≤ r.size)))

/-- The argument area (R228). -/
def argsOk (im : JobImage) : Bool :=
  match im.regions.filter (fun r => decide (r.kind = .args)) with
  | [r] => decide (65536 ≤ r.size) && !r.imm
  | _ => false

/-- An F32 that is finite and positive (R36). -/
def posFinite (x : F32) : Bool := !(f32 x).isNan && !(f32 x).isInf && fvLt (f32 0) (f32 x)

/-- The accumulator of a parameter with more than one place of use (R263). -/
def sharedParam (t : TensorDecl) : Bool := t.identity.isSome && decide (1 < t.places)

/-- A tensor-table entry that the loader takes (R36, R263, R265, R267). -/
def tensorOk (t : TensorDecl) : Bool :=
  fmtKnown t.fmt.toNat && (!isScaled t.fmt.toNat || posFinite t.scale) &&
    decide (1 ≤ t.shape.length ∧ t.shape.length ≤ 6 ∧ t.contribs ≤ 1048575 ∧ t.train ≤ 2) && (!sharedParam t || t.accXs)

/-- The GRAD slots of a shard's program: number and format (R319). -/
def gradSlots (im : JobImage) (sh : ShardDecl) : List (Nat × Nat) :=
  match im.updates[sh.prog]? with
  | some p => ((List.range (min p.nfield p.slots.length)).filter (fun k => decide ((p.slots.getD k (7, 0, 0, 0)).1 = 1))).map (fun k =>
      (k, (p.slots.getD k (7, 0, 0, 0)).2.1.toNat))
  | none => []

def inRegion (r : RegionDecl) (va : Nat) : Bool := decide (r.va ≤ va ∧ va < r.va + r.size)

/-- A shared identity accumulates in XS: no gradient slot, and no declared region of one, is plain F32 (R263). -/
def gradsOk (im : JobImage) (sh : ShardDecl) : Bool :=
  match im.tensors[sh.tensor]? with
  | some t => !sharedParam t || (gradSlots im sh).all (fun k =>
      decide (k.2 = 0x18) && im.regions.all (fun r => !inRegion r (sh.bases.getD k.1 0) || r.xs.isSome))
  | none => false

/-- A field of a record's header (R331). -/
def recordField (r : InitDecl) (off n : Nat) : Nat := leNat ((r.hdr.drop off).take n)

/-- The fields of the record stand in its header where R331 places them. -/
def recordHead (r : InitDecl) : Bool :=
  decide (recordField r 0 4 = 0x3152535A ∧ recordField r 4 2 = 192 ∧ recordField r 6 1 = r.fmt.toNat ∧ recordField r 7 1 = r.count.length ∧
    recordField r 8 4 = r.identity.toNat ∧ recordField r 12 4 = r.shard.toNat ∧ recordField r 16 4 = r.version.toNat ∧
    recordField r 24 8 = r.digest.toNat ∧ recordField r 32 8 = r.elems.length ∧ recordField r 40 8 = r.scales.length) &&
    (List.range 6).all (fun i => decide (recordField r (48 + 8 * i) 8 = r.first.getD i 0 ∧ recordField r (96 + 8 * i) 8 = r.count.getD i 0))

/-- An initial version agrees with a shard and carries its checks (R332). -/
def recordOk (sh : ShardDecl) (r : InitDecl) : Bool :=
  recordHead r && decide (crc64 r.hdr = r.hcrc ∧ r.hdr.length = 184 ∧ r.fmt = sh.fmt ∧ r.identity = sh.identity ∧ r.shard = sh.shard ∧ r.first = sh.first ∧
      r.count = sh.count ∧ r.elems.length = workBytes sh ∧ r.scales.length = scaleBytes sh) &&
    decide (digestOf sh r.version.toNat (r.elems ++ r.scales) = r.digest)

/-- The record that a shard names agrees with it. -/
def initialOk (im : JobImage) (sh : ShardDecl) : Bool :=
  match sh.initial with
  | none => true
  | some i => match im.initial[i]? with | some r => recordOk sh r | none => false

/-- Every record of the image is checked, whether a shard names it or not: it agrees with the shard of its identity and index. -/
def initialsOk (im : JobImage) : Bool :=
  im.initial.all (fun r => im.shards.any (fun sh => decide (sh.identity = r.identity ∧ sh.shard = r.shard) && recordOk sh r))

/-- A slot kind that a program names. -/
def namesKind (p : UpdDecl) (kind : Nat) : Bool := (p.slots.take p.nfield).any (fun k => decide (k.1 = kind))

/-- The shard's program is of the hot tier; where it reads slow state or leaves snapshots, D is 1 to 4, and where it reads slow state it has a
program of the slow tier (R318, R326). -/
def tiersOk (im : JobImage) (sh : ShardDecl) : Bool :=
  match im.updates[sh.prog]? with
  | none => false
  | some p =>
    decide (p.tier = 0) && (!(namesKind p 3 || namesKind p 5) || decide (1 ≤ im.slowD ∧ im.slowD ≤ 4)) &&
      (!namesKind p 3 || (match sh.slowProg.bind (fun q => im.updates[q]?) with | some q => decide (q.tier = 1) | none => false))

def shardOk (im : JobImage) (sh : ShardDecl) : Bool :=
  decide (sh.fmt.toNat = 8 ∨ sh.fmt.toNat = 9 ∨ sh.fmt.toNat = 2) && (im.tensors[sh.tensor]?).isSome && tiersOk im sh &&
    decide (sh.ownerDie < 4) && gradsOk im sh && initialOk im sh

/-- The mapping table (R375, R378, R380, R381, R384). -/
def mappingOk (im : JobImage) : Bool :=
  let m := im.mapping
  axesOk m im.nrank && pipelineOk m && layoutsOk im && decide (m.nodeSize = 0 ∨ (2 ≤ m.nodeSize ∧ m.nodeSize ≤ 16)) &&
    m.cuts.all (fun c => match c.explicit with | some l => splitOk (membersOf m c.axis) c.units l | none => true) &&
    m.experts.all (fun e => decide (1 ≤ e.experts)) &&
    m.trans.all (fun t => decide (t.die < 4) && t.descrs.all (fun d => (descCode d).isNone))

/-- Coherent exports name at most three members (R368). -/
def exportOk (e : ExportDecl) : Bool := decide (e.index < 255) && (decide (e.mode ≠ 3) || decide (e.dom.length ≤ 3))

/-- Dispatch programs (R225, R228). -/
def dispatchImageOk (im : JobImage) : Bool :=
  !im.progs.isEmpty && im.progs.all (fun p => dispatchProgramOk p.2) && decide (im.table.length ≤ 4096)

def noRepeat : List (BitVec 32) → Bool
  | [] => true
  | x :: rest => !rest.contains x && noRepeat rest

/-! ### Frames declared (R165) -/

def pagesOfRegion (r : RegionDecl) : List Nat := pagesOf r.va r.size

def ownsFrames (r : RegionDecl) : Bool := decide (r.kind = .persistent ∨ r.kind = .args)

/-- Frames of the persistent regions on die d, in store or in HBM. -/
def regionFrames (im : JobImage) (d : Nat) (hbm : Bool) : Nat :=
  ((im.regions.filter (fun r => ownsFrames r && decide (r.die = d) && (r.inHbm == hbm))).map (fun r => (pagesOfRegion r).length)).sum

/-- Frames of the initial versions that this package owns on die d. -/
def shardFrames (s : State) (im : JobImage) (jb : Job) (d : Nat) : Nat :=
  ((im.shards.filter (fun sh => ownsShard s sh && decide (sh.ownerDie = d))).map (fun sh => (workPages sh).length + (hotPages jb sh).length)).sum

def dieDecl (im : JobImage) (d : Nat) : DieDecl := im.dies.getD d ⟨0, 0, 0, 0, 0, 0⟩

/-- Persistent frames, and those of the initial versions, are within the declaration of their die. -/
def framesOk (s : State) (im : JobImage) : Bool :=
  (List.range 4).all (fun d =>
    let x := dieDecl im d
    let a := regionFrames im d false
    let b := regionFrames im d true
    decide (a ≤ x.storeFrames ∧ b ≤ 32 * x.hbmUnits ∧
      a + b + shardFrames s im { Job.none with image := im } d ≤ x.storeFrames + 32 * x.hbmUnits))

/-- Check 3 of R244: the image is well formed. -/
def imageOk (s : State) (im : JobImage) (len : Nat) : Bool :=
  headerOk im len && sectionsOk im && im.stages.all stageOk && im.chans.all (chanOk im) && im.edges.all (edgeNamed im) && argsOk im &&
    rangesOk im && apart (declaredRanges im) && im.tensors.all tensorOk && im.updates.all updProgramOk && im.shards.all (shardOk im) && initialsOk im &&
    im.regions.all (fun r => decide (r.die < 4 ∧ r.contribs ≤ 1048575)) && im.syncs.all (fun y => decide (y.die < 4 ∧ y.targets.length ≤ 4096)) &&
    mappingOk im && im.exports.all exportOk && dispatchImageOk im && noRepeat (im.contrs.map (·.cid)) && framesOk s im

/-! ### Route plan (R386) -/

def nodeSizeOf (im : JobImage) : Nat := if im.mapping.nodeSize = 0 then 8 else im.mapping.nodeSize

/-- The packages of this package's node. -/
def nodeOf (im : JobImage) : List (BitVec 16) :=
  let n := nodeSizeOf im
  (im.mapping.packages.drop (im.rank / n * n)).take n

/-- The ranks of owner packages outside this node, rising. -/
def farOwners (im : JobImage) : List Nat :=
  (List.range im.mapping.packages.length).filter (fun r =>
    match im.mapping.packages[r]? with
    | some p => im.shards.any (fun sh => decide (sh.ownerPkg = p)) && !(nodeOf im).contains p
    | none => false)

/-- A route record: owner and gateway. -/
def routeRecord (im : JobImage) (r : Nat) : List Byte :=
  let node := nodeOf im
  leBytes 2 (im.mapping.packages.getD r 0).toNat ++ leBytes 2 (node.getD (r % node.length) 0).toNat ++ List.replicate 4 0

/-- Bytes of a committed load report (R418). -/
def reportSize (im : JobImage) : Nat := 256 + 16 * (im.stages.map (·.replicas)).sum + 8 * (farOwners im).length

/-! ### Bit preservation (R392, R507) -/

/-- A reduction region that takes plain F32 additions from more than one contributor. -/
def plainReduction (r : RegionDecl) : Bool :=
  r.xs.isNone && (match r.close with | some c => decide (1 < c.2) | none => decide (1 < r.contribs))

def bitStable (im : JobImage) : Bool := !im.regions.any plainReduction

def pieceEntry (p : Nat × Nat × Bool × List Nat) : List Byte :=
  leBytes 8 p.1 ++ leBytes 8 p.2.1 ++ leBytes 1 (b2n p.2.2.1) ++ List.replicate 7 0 ++ leBytes 8 (crc64 (p.2.2.2.flatMap (leBytes 4))).toNat

/-- The record of a contraction with its pieces; those combined by XS stand in ascending order of FIRST. -/
def contrRecord (c : ContrDecl) : List Byte :=
  let ps := if c.xs then sortBy (·.1) c.pieces else c.pieces
  leBytes 4 c.cid.toNat ++ leBytes 4 c.pieces.length ++ leBytes 1 (b2n c.xs) ++ [if c.xs then c.w else 0] ++ List.replicate 6 0 ++ ps.flatMap pieceEntry

def splitTable (im : JobImage) : List Byte :=
  leBytes 4 im.contrs.length ++ List.replicate 4 0 ++ (sortBy (fun c => c.cid.toNat) im.contrs).flatMap contrRecord

def splitSig (im : JobImage) : Word := crc64 (splitTable im)

end Sys2Proof.Machine
end

