-- ==== Sys2Proof/Machine/Channels.lean ====
section
/-!
DEFINITION. Machine/Channels.lean: stream channels between cells: sending, landing, the return of credits (R216 to R220).
-/
namespace Sys2Proof.Machine

/-- A port of cell c works: firmware runs, the pavilion's clocks run, the stack is up, its job goes on. -/
def portLive (s : State) (c : Nat) : Bool :=
  let p := getPav s (pavOfCell c)
  running s && decide (p.power = .run) && p.held && stackUp s (dieOfCell c) && (getJob s p.ctx).loaded && !(getJob s p.ctx).faulted

def portJob (s : State) (c : Nat) : Job := getJob s (getPav s (pavOfCell c)).ctx

/-- The seal word as it is sent: ITEM, the reserved bits 0, FULL (R217). -/
def sentSeal (l : List Byte) : List Byte := [1, 0, 0, 0] ++ l.drop 4

/-- The bytes of slot i of a ring, as they are sent. -/
def slotBytes (free : Nat) (x : Cell) (base u i : Nat) : List Byte :=
  localRead free x (base + i * u) (u - 8) ++ sentSeal (localRead free x (sealAddr base u i) 8)

/-- The slot goes to the other end; the port clears its seal, takes a credit and turns to the next slot (R218). -/
def sendSlot (s : State) (c p : Nat) (ch : ChanDecl) : State :=
  let x := getCell s c
  let pt := getTx x p
  let data := slotBytes s.free x ch.txAddr ch.u pt.turn
  let s := draw (setCell s c
    (localWrite
      (setTx x p { pt with turn := (pt.turn + 1) % ch.k, credits := pt.credits - 1, sealed := pt.sealed.filter (· ≠ pt.turn) })
      (sealAddr ch.txAddr ch.u pt.turn) (List.replicate 8 0)))
  modCell s pt.peerCell (fun y =>
    let q := getRx y pt.peerPort
    setRx y pt.peerPort (if q.forwarding then { q with direct := q.direct ++ [(pt.turn, data)] } else { q with wire := q.wire ++ [(pt.turn, data)] }))

/-- What goes between the cells of a channel crosses the bridges between their stacks (R23, R24). -/
def channelRoute (s : State) (c d : Nat) : Bool := routeExists s (dieOfCell c) (dieOfCell d)

/-- A slot that no route carries ends its job with E_LINK_NO_PATH (R24). -/
def execSlotSend (c p : Nat) (s : State) : Out :=
  onUnit (cellOk c)
    (let pt := getTx (getCell s c) p
     match (portJob s c).image.chans[pt.chan]? with
     | none => s
     | some ch =>
       if !(portLive s c && decide (p < 8) && pt.valid && pt.sealed.contains pt.turn && decide (0 < pt.credits)) then s
       else if !channelRoute s c pt.peerCell then jobFault s (getPav s (pavOfCell c)).ctx eLinkNoPath
       else sendSlot s c p ch)

/-- The FILL object of replica r: the declared one is that of replica 0, the others follow it (DEDUCED, log 24). -/
def fillObject (jb : Job) (ch : ChanDecl) (r : Nat) : Option Nat :=
  match walk jb none (ch.fillVa + 16 * r) with
  | .sync o => some (o + (ch.fillVa + 16 * r) % 65536 / 16)
  | _ => none

/-- An operation takes its place at the update port of an object (R281). -/
def postTo (s : State) (o : Option Nat) (op : PortOp) : State :=
  match o with
  | some o => setPort s o (getPort s o ++ [op])
  | none => s

/-- The first slot on the wire lands in the receive ring, seal word last, and FILL receives ARRIVE 1; a slot that a migration forwards
has been counted when it first landed (R219, R236, log 24). -/
def landSlot (s : State) (c p : Nat) (ch : ChanDecl) (data : List Byte) (rest : List (Nat × List Byte)) : State :=
  let pt := getRx (getCell s c) p
  let s := modCell s c (fun x =>
    localWrite (setRx x p { pt with turn := (pt.turn + 1) % ch.k, wire := rest }) (ch.rxAddr + pt.turn * ch.u) data)
  if pt.forwarding then s else postTo s (fillObject (portJob s c) ch pt.replica) (.arrive 1 none)

def execSlotLand (c p : Nat) (s : State) : Out :=
  onUnit (cellOk c)
    (let pt := getRx (getCell s c) p
     match (portJob s c).image.chans[pt.chan]?, pt.wire with
     | some ch, (_, data) :: rest => if portLive s c ∧ p < 8 ∧ pt.valid then landSlot s c p ch data rest else s
     | _, _ => s)

/-- One credit of receive port p goes back to the producer's port (R219). -/
def execCreditReturn (c p : Nat) (s : State) : Out :=
  onUnit (cellOk c)
    (let pt := getRx (getCell s c) p
     if !(portLive s c && decide (p < 8) && pt.valid && decide (0 < pt.creditsBack)) then s
     else if !channelRoute s c pt.peerCell then jobFault s (getPav s (pavOfCell c)).ctx eLinkNoPath
     else
       modCell (modCell s c (fun x => setRx x p { pt with creditsBack := pt.creditsBack - 1 })) pt.peerCell (fun y =>
         let q := getTx y pt.peerPort
         setTx y pt.peerPort { q with credits := q.credits + 1 }))

end Sys2Proof.Machine
end

