-- ==== Sys2Proof/Machine/Port.lean ====
section
/-!
DEFINITION. Machine/Port.lean: a cell's vertical port: beat failures (R177), lane tests, sparing and retirement (R440, R441), the journal
record of a spare.
-/
namespace Sys2Proof.Machine

/-- Retries that call for a lane test: 16 within 2,500 ticks (R440). -/
def manyRetries (now : Nat) (l : List Nat) : Bool := decide (16 ≤ (l.filter (fun t => decide (now < t + 2500))).length)

/-- A beat fails and is sent again: counted and reported. Failures within one tick are taken as successive failures of one beat
(DEDUCED, log 23). -/
def beatFail (s : State) (c : Nat) : State :=
  let x := getCell s c
  let n := if x.beatTick = s.ember ∧ x.beatFails ≠ 0 then x.beatFails + 1 else 1
  let l := s.ember :: x.retryTimes.filter (fun t => decide (s.ember < t + 2500))
  reportOf (setCell s c
    { x with retries := satAdd 0xFFFF x.retries 1, beatFails := n, beatTick := s.ember, retryTimes := l
             testOwed := x.testOwed || manyRetries s.ember l || decide (3 ≤ n) }) iVerticalRetry c

/-- Three failures in succession after a lane test that found every bond sound retire the port (R441). -/
def execVerticalBeatCrcFail (c : Nat) (s : State) : Out :=
  onUnit (cellOk c)
    (if (getCell s c).mode = 3 ∨ !running s then s
     else
       let s := beatFail s c
       let x := getCell s c
       if 3 ≤ x.beatFails ∧ x.laneSound then retireCell s c false else s)

/-- One failing bond: steered to its group's spare, or none is left (R440, R441). -/
inductive BondFate where
  | spare
  | retire
  deriving DecidableEq, Repr

/-- Bond 64 of a group is the spare itself. -/
def bondFate (x : Cell) (g bond : Nat) : BondFate := if 64 ≤ bond ∨ x.spared.contains g then .retire else .spare

/-- The bonds that a test found, in order: each takes its group's spare until one cannot. Answers whether the port is retired. -/
def spareBonds : State → Nat → List (Nat × Nat) → State × Bool
  | s, _, [] => (s, false)
  | s, c, (g, bond) :: rest =>
    match bondFate (getCell s c) g bond with
    | .retire => (s, true)
    | .spare =>
      spareBonds
        (reportOf (modCell s c (fun x =>
          { x with spared := g :: x.spared, unlogged := x.unlogged ++ [64 * g + bond], sparesUsed := x.sparesUsed + 1 })) iLaneSpared c) c rest

/-- The test's result. -/
def laneTested (s : State) (c : Nat) (failing : List (Nat × Nat)) : State :=
  let s := modCell s c (fun x => { x with testOwed := false, beatFails := 0, retryTimes := [], laneSound := failing.isEmpty })
  match spareBonds s c failing with
  | (s, true) => retireCell s c false
  | (s, false) => s

/-- A lane test on one of the occasions of R440; `failing` names the bonds (group, bond) that the patterns show to fail. -/
def execLaneTest (c : Nat) (failing : List (Nat × Nat)) (s : State) : Out :=
  onUnit (cellOk c)
    (let x := getCell s c
     if x.mode = 3 ∨ !(x.testOwed || decide ((getPav s (pavOfCell c)).power = .kindling)) ∨
         !failing.all (fun e => decide (e.1 < 32 ∧ e.2 ≤ 64)) then s
     else laneTested s c failing)

/-- The record of a spare: at most 25,000 ticks after it (R440, R457). -/
def execSpareJournalRecord (c : Nat) (s : State) : Out :=
  onUnit (cellOk c)
    (match (getCell s c).unlogged with
     | [] => s
     | v :: rest => journalWrite (modCell s c (fun x => { x with unlogged := rest })) 1 c v)

end Sys2Proof.Machine
end

