-- ==== Sys2Proof/Machine/Scheduler.lean ====
section
/-!
DEFINITION. Machine/Scheduler.lean: the dispatch units (R225 to R229), launches (R56, R59, R228, R256, R314), Kindle and the power states of a
pavilion (R230 to R232, R453, R454).
-/
namespace Sys2Proof.Machine

/-! ### Dispatch words and registers -/

/-- The word of R226. -/
def encD (op : Nat) (f : DFields) : BitVec 32 :=
  BitVec.ofNat 32 (fieldAt 26 op + fieldAt 22 f.d.toNat + fieldAt 18 f.a.toNat + fieldAt 14 f.b.toNat + f.imm.toNat)

def dReg (p : Pav) (n : Nat) : Word := if n = 0 then 0 else mget 0 p.dreg n
def setD (p : Pav) (n : Nat) (v : Word) : Pav := if n = 0 then p else { p with dreg := mset 0 n v p.dreg }

/-- IMM sign-extended to 64 bits. -/
def dImm (f : DFields) : Word := f.imm.signExtend 64

/-- The job's work in pavilion p goes on: firmware runs, the stack is up, the job is loaded and not faulted (log 13). -/
def pavLive (s : State) (p : Nat) : Bool :=
  let x := getPav s p
  running s && x.held && stackUp s (dieOfPav p) && (getJob s x.ctx).loaded && !(getJob s x.ctx).faulted

/-- A dispatch fault (R229): the unit stops, PAV[p].DISPATCH records code and PC, the job faults. -/
def dispatchFault (s : State) (p pc code : Nat) : State :=
  let s := modPav s p (fun x => { x with code := code, dstate := 3, dpc := pc, dwait := .none })
  sampleLevel (jobFault s (getPav s p).ctx code) (64 + p)

/-- The unit goes on at word n; past the last word it faults (R229). -/
def dGoto (s : State) (p n : Nat) : State :=
  let x := getPav s p
  if x.prog.length ≤ n then dispatchFault s p (x.prog.length - 1) ePageFault else setPav s p { x with dpc := n }

def dNextWord (s : State) (p : Nat) : State := dGoto s p ((getPav s p).dpc + 1)

/-- The instruction is the next of pavilion p's program, and the unit runs. -/
def dEnabled (s : State) (p op : Nat) (f : DFields) : Bool :=
  let x := getPav s p
  pavLive s p && decide (x.dstate = 1 ∧ x.prog[x.dpc]? = some (encD op f))

def onDispatch (p op : Nat) (f : DFields) (s : State) (g : State → State) : Out :=
  onUnit (pavOk p) (if dEnabled s p op f then g s else s)

/-- dD gets v, and the unit goes on. -/
def dWrite (s : State) (p : Nat) (f : DFields) (v : Word) : State := dNextWord (modPav s p (fun x => setD x f.d.toNat v)) p

def dAlu (p op : Nat) (f : DFields) (s : State) (g : Word → Word → Word) : Out :=
  onDispatch p op f s (fun s => let x := getPav s p; dWrite s p f (g (dReg x f.a.toNat) (dReg x f.b.toNat)))

def execDNop (p : Nat) (f : DFields) (s : State) : Out := onDispatch p 0x00 f s (fun s => dNextWord s p)
def execDAdd (p : Nat) (f : DFields) (s : State) : Out := dAlu p 0x01 f s (fun a b => a + b)
def execDAddi (p : Nat) (f : DFields) (s : State) : Out := dAlu p 0x02 f s (fun a _ => a + dImm f)
def execDSub (p : Nat) (f : DFields) (s : State) : Out := dAlu p 0x03 f s (fun a b => a - b)
def execDAndi (p : Nat) (f : DFields) (s : State) : Out := dAlu p 0x04 f s (fun a _ => a &&& dImm f)
def execDOr (p : Nat) (f : DFields) (s : State) : Out := dAlu p 0x05 f s (fun a b => a ||| b)
def execDShli (p : Nat) (f : DFields) (s : State) : Out := dAlu p 0x06 f s (fun a _ => a <<< (f.imm.toNat % 64))
def execDShri (p : Nat) (f : DFields) (s : State) : Out := dAlu p 0x07 f s (fun a _ => a >>> (f.imm.toNat % 64))
def execDMuli (p : Nat) (f : DFields) (s : State) : Out := dAlu p 0x08 f s (fun a _ => a * dImm f)

/-- The index dA + IMM. -/
def dIndex' (x : Pav) (f : DFields) : Nat := (dReg x f.a.toNat + dImm f).toNat

def execDLdt (p : Nat) (f : DFields) (s : State) : Out :=
  onDispatch p 0x09 f s (fun s =>
    let x := getPav s p
    match x.table[dIndex' x f]? with
    | some v => dWrite s p f v
    | none => dispatchFault s p x.dpc ePageFault)

def execDLds (p : Nat) (f : DFields) (s : State) : Out :=
  onDispatch p 0x0A f s (fun s =>
    let x := getPav s p
    if dIndex' x f < 256 then dWrite s p f (mget 0 x.scratch (dIndex' x f)) else dispatchFault s p x.dpc ePageFault)

def execDSts (p : Nat) (f : DFields) (s : State) : Out :=
  onDispatch p 0x0B f s (fun s =>
    let x := getPav s p
    if dIndex' x f < 256 then
      dNextWord (setPav s p { x with scratch := mset 0 (dIndex' x f) (dReg x f.b.toNat) x.scratch }) p
    else dispatchFault s p x.dpc ePageFault)

/-- A branch counts words from this instruction. -/
def dBranch (p op : Nat) (f : DFields) (s : State) (c : Word → Word → Bool) : Out :=
  onDispatch p op f s (fun s =>
    let x := getPav s p
    if c (dReg x f.a.toNat) (dReg x f.b.toNat) then dGoto s p ((x.dpc : Int) + f.imm.toInt).toNat else dNextWord s p)

def execDBeq (p : Nat) (f : DFields) (s : State) : Out := dBranch p 0x10 f s (fun a b => a == b)
def execDBne (p : Nat) (f : DFields) (s : State) : Out := dBranch p 0x11 f s (fun a b => a != b)
def execDBltu (p : Nat) (f : DFields) (s : State) : Out := dBranch p 0x12 f s (fun a b => a.ult b)
def execDJmp (p : Nat) (f : DFields) (s : State) : Out := dBranch p 0x13 f s (fun _ _ => true)

/-- HALT: until the job is unloaded. -/
def execDHalt (p : Nat) (f : DFields) (s : State) : Out :=
  onDispatch p 0x3F f s (fun s => modPav s p (fun x => { x with dstate := 3, dpc := x.dpc + 1 }))

/-! ### Kindle (R230 to R232, R453, R454) -/

/-- A Temper change waits for a Kindle from OFF (R232). -/
def temperPending (x : Pav) : Bool := decide (x.voff ≠ x.voffPend ∨ x.aclkDown ≠ x.aclkPend) || x.retirePend

/-- A Kindle starts. From OFF, also where a change is pending, the planned step applies; a planned retirement refuses the Kindle and retires
the pavilion (R453, R454). In KINDLING and RUN the idle count restarts. -/
def startKindle (s : State) (p : Nat) : State :=
  let x := getPav s p
  if x.retired then s
  else if x.power = .run ∨ x.power = .kindling then setPav s p (beginIdle s.ember x)
  else
    let off := decide (x.power = .off) || temperPending x
    if off && x.retirePend then retirePav s p
    else
      let changed := off && temperPending x
      let s := setPav s p
        { x with power := .kindling, kindles := wrap32 (x.kindles + 1)
                 idleSince := s.ember
                 voff := if off then x.voffPend else x.voff, aclkDown := if off then x.aclkPend else x.aclkDown }
      if changed then raiseEvent (reportOf s iMarginReplanned p) 241 else s

/-- KINDLE of the pavilion in dA (R231). -/
def execDKindle (p : Nat) (f : DFields) (s : State) : Out :=
  onDispatch p 0x23 f s (fun s =>
    let x := getPav s p
    let q := (dReg x f.a.toNat).toNat
    if 63 < q then dWrite s p f (statusWord eArgRange)
    else if !(getPav s q).held ∨ (getPav s q).ctx ≠ x.ctx then dWrite s p f (statusWord eNotOwner)
    else dWrite (startKindle s q) p f 0)

/-! ### Items offered (R227, R228) -/

/-- NEXT returns an item: it is reserved, its bed counts as taken. -/
def reserve (s : State) (p : Nat) (d : Nat) (i : Nat) (it : Item) : State :=
  let s := modItem s (getPav s p).ctx i (fun it => { it with state := .reserved })
  modPav s p (fun x =>
    setD (setBed { x with reserved := some i, dwait := .none, dstate := 1 } it.bed { getBed x it.bed with item := some i }) d
      (itemWordOf it))

/-- The first ready item of the pavilion, by the policy. -/
def offered (s : State) (p : Nat) : Option (Nat × Item) := firstItem (getJob s (getPav s p).ctx).image.policy (readyOn s p)

def execDNext (p : Nat) (f : DFields) (s : State) : Out :=
  onDispatch p 0x20 f s (fun s =>
    if (getPav s p).reserved.isSome then dWrite s p f (statusWord eBadState)
    else
      match offered s p with
      | some (i, it) => dNextWord (reserve s p f.d.toNat i it) p
      | none => modPav s p (fun x => { x with dwait := .next f.d.toNat, dstate := 2 }))

def execDArg (p : Nat) (f : DFields) (s : State) : Out :=
  onDispatch p 0x21 f s (fun s =>
    let x := getPav s p
    dNextWord (setPav s p { x with args := mset 0 (f.imm.toNat % 8) (dReg x f.a.toNat) x.args }) p)

/-! ### Launch -/

/-- ARGBASE: the argument area of the image (R228). -/
def argBase (jb : Job) : Nat := ((jb.image.regions.find? (fun r => decide (r.kind = .args))).map (·.va)).getD 0

def argAddr (jb : Job) (p bed : Nat) : Nat := argBase jb + (p * 16 + bed) * 64

/-- The cells of a bed, in the order of their ranks (R212). -/
def bedCells (p : Nat) (b : Bed) : List Nat := (List.range (b.h * b.w)).map (rankCell p b)

/-- The launch zeroes the cell (R56). -/
def needsZero (x : Cell) (ctx gen stage : Nat) : Bool := !x.ctxv || decide (x.ctx ≠ ctx ∨ x.job ≠ gen ∨ x.stage ≠ some stage)

/-- Bytes of the rings of the cell's channel ports, which only a load resets (R219). -/
def inRings (jb : Job) (x : Cell) (a : Nat) : Bool :=
  (List.range 8).any (fun p =>
    (match (if (getTx x p).valid then jb.image.chans[(getTx x p).chan]? else none) with
     | some ch => decide (ch.txAddr ≤ a ∧ a < ch.txAddr + ch.k * ch.u)
     | none => false) ||
      (match (if (getRx x p).valid then jb.image.chans[(getRx x p).chan]? else none) with
       | some ch => decide (ch.rxAddr ≤ a ∧ a < ch.rxAddr + ch.k * ch.u)
       | none => false))

/-- The cell is zeroed, program and declared contents are written; the rings of its channels stay (R56, R57, R219, log 25). -/
def zeroCell (jb : Job) (st : StageDecl) (x : Cell) : Cell :=
  let kept := x.store.filter (fun e => inRings jb x e.1)
  let declared := st.data.foldl (fun m e => localPut m e.1 e.2) ([] : Map Byte)
  { x with
    sreg := [], tile := [], acc := [], mask := [], written := [], streamId := []
    progWords := st.progWords, prog := st.words
    store := kept.foldl (fun m e => mput e.1 e.2 m) declared
    slots := x.slots.map (fun e => (e.1, { Slot.reset with gen := e.2.gen + 1 })), faultCode := 0, faultAddr := 0, faultSpace := false, faultThread := 0, faultPc := 0 }

/-- The launch context of a cell of rank r (R59). -/
def launchCell (s : State) (ctx i : Nat) (it : Item) (b : Bed) (st : StageDecl) (r : Nat) (x : Cell) : Cell :=
  let jb := getJob s ctx
  let x := if needsZero x ctx jb.gen it.stage then zeroCell jb st x else x
  { x with
    mode := 2, ctxv := true, ctx := ctx, stage := some it.stage, job := jb.gen, item := some i, rank := r, bedW := b.w, bedH := b.h
    step := it.step, itemWord := itemWordOf it, reported := false
    tstate := [], waits := [], skip := [], pastEnd := [] }

/-- Entries that a BWD or RCP item reads are pinned (R256). -/
def pinEntries (s : State) (j i : Nat) (it : Item) : State :=
  if it.phase ≠ 1 ∧ it.phase ≠ 2 then s
  else
    modJob s j (fun jb =>
      { jb with ices := jb.ices.map (fun e =>
          (e.1, { e.2 with entries := e.2.entries.map (fun n => if entryOf it n then { n with pins := i :: n.pins } else n) })) })

/-- The item starts on its bed: version fixed and held, entries pinned, cells prepared; thread 0 starts 24 SCLK cycles later. -/
def startItem (s : State) (p i : Nat) (it : Item) (v : Nat) : State :=
  let j := (getPav s p).ctx
  let s := fixVersion s j it v
  let s := modJob s j (fun jb =>
    if it.phase = 0 ∧ it.chunk = 0 then { jb with begun := jb.begun ++ [(it.stage, it.replica, it.mb)] } else jb)
  let b := getBed (getPav s p) it.bed
  let cells := bedCells p b
  let s := modItem s j i (fun it => { it with state := .running, version := v, toReport := cells, reported := false })
  let s := pinEntries s j i it
  let s := match stageOf (getJob s j) it.stage with
    | some st => ((List.range cells.length).zip cells).foldl (fun s e => modCell s e.2 (launchCell s j i it b st e.1)) s
    | none => s
  modPav s p (fun x => { x with reserved := none, starts := x.starts ++ [(it.bed, i)] })

/-- LAUNCH itself, on a pavilion in RUN: the argument words are written, then the item starts (R228). A write that fails is a dispatch fault;
one that meets a moving page waits. -/
def doLaunch (s : State) (p d i : Nat) (it : Item) : State :=
  let x := getPav s p
  let jb := getJob s x.ctx
  let a := argAddr jb p it.bed
  match checkAccess s jb none (dieOfPav p) .wr [(a, 64)] with
  | .bad code _ => dispatchFault s p x.dpc (if code = eUncorrectable then eUncorrectable else ePageFault)
  | .wait => s
  | .ok ps =>
    match versionOf s jb it with
    | none => s
    | some v =>
      let words := (List.range 8).flatMap (fun k => leBytes 8 (mget 0 x.args k).toNat)
      let s := writePieces (touchRanges s none x.ctx none (dieOfPav p) [(a, 64)]) ps words
      let s := startItem s p i it v
      let s := modPav s p (fun x => setD { x with dwait := .none, dstate := 1 } d 0)
      noteStuck (dNextWord s p) x.ctx

/-- A NEXT that waits returns when an item of the pavilion becomes ready (R225); a LAUNCH held up by a moving page of the argument area
goes on. -/
def execNextResume (p : Nat) (s : State) : Out :=
  onUnit (pavOk p)
    (match (getPav s p).dwait with
     | .next d =>
       if !pavLive s p then s
       else
         (match offered s p with
          | some (i, it) => dNextWord (reserve s p d i it) p
          | none => s)
     | .launch d i =>
       (match mfind (getJob s (getPav s p).ctx).items i with
        | some it => if pavLive s p ∧ (getPav s p).power = .run then doLaunch s p d i it else s
        | none => s)
     | .none => s)

/-- The reserved item, if dA names it. -/
def launchNamed (s : State) (p : Nat) (w : Word) : Option (Nat × Item) :=
  let x := getPav s p
  x.reserved.bind (fun i => (mfind (getJob s x.ctx).items i).bind (fun it => if itemWordOf it = w then some (i, it) else none))

def execDLaunch (p : Nat) (f : DFields) (s : State) : Out :=
  onDispatch p 0x22 f s (fun s =>
    let x := getPav s p
    match launchNamed s p (dReg x f.a.toNat) with
    | none => dWrite s p f (statusWord eBadState)
    | some (i, it) =>
      if x.power = .run then doLaunch s p f.d.toNat i it
      else
        startKindle (modPav s p (fun x => { x with dwait := .launch f.d.toNat i, dstate := 2, late := wrap32 (x.late + 1) })) p)

/-- Thread 0 of every cell of the bed starts at the entry word of the item's phase (R59, R228). -/
def startThread0 (s : State) (p bed i : Nat) : State :=
  let j := (getPav s p).ctx
  let jb := getJob s j
  match mfind jb.items i with
  | none => s
  | some it =>
    match (stageOf jb it.stage).bind (fun st => entryWord st it.phase) with
    | none => s
    | some e =>
      (bedCells p (getBed (getPav s p) bed)).foldl (fun s c =>
        modCell s c (fun x =>
          setTState (gotoPc (setStream (setS x 0 1 (BitVec.ofNat 64 (argAddr jb p bed))) 0 0) 0 e) 0 .ready)) s

def execThread0Start (p b : Nat) (s : State) : Out :=
  onUnit (pavOk p && bedOk b)
    (let x := getPav s p
     match x.starts.find? (fun e => decide (e.1 = b)) with
     | some (_, i) =>
       if pavLive s p ∧ x.power = .run then
         startThread0 (setPav s p { x with starts := dropFirst (fun e => decide (e = (b, i))) x.starts }) p b i
       else s
     | none => s)

/-- The clocks are stable: RUN; a launch that waits proceeds (R230, R231). In a pavilion that is GATED or OFF the Kindle that ends is one that the
Lodge started: no row of the table commands that start (DESIGN CHOICE, log 108). -/
def execKindleComplete (p : Nat) (s : State) : Out :=
  onUnit (pavOk p)
    (let s := if running s ∧ stackUp s (dieOfPav p) ∧ (getPav s p).held ∧ ((getPav s p).power = .gated ∨ (getPav s p).power = .off) then startKindle s p else s
     let x := getPav s p
     if x.power ≠ .kindling ∨ !running s ∨ !stackUp s (dieOfPav p) then s
     else
       let s := setPav s p (beginIdle s.ember { x with power := .run })
       match x.dwait with
       | .launch d i =>
         (match mfind (getJob s x.ctx).items i with
          | some it => if pavLive s p then doLaunch s p d i it else s
          | none => s)
       | _ => s)

/-- A launch runs on some bed, or is about to start. -/
def launchRuns (s : State) (p : Nat) : Bool :=
  let x := getPav s p
  !x.starts.isEmpty ||
    x.beds.any (fun e => match e.2.item.bind (fun i => mfind (getJob s x.ctx).items i) with
      | some it => decide (it.state = .running)
      | none => false)

/-- RUN to GATED after GATE_CYCLES SCLK cycles, 45 to a tick, with no launch running (R230, R240). -/
def execPavilionGate (p : Nat) (s : State) : Out :=
  onUnit (pavOk p)
    (let x := getPav s p
     if x.power ≠ .run ∨ launchRuns s p ∨ !running s then s
     else
       let s := advanceTo s (x.idleSince + ceilDiv x.gateNow 45)
       modPav s p (fun x => { x with power := .gated, idleSince := s.ember }))

/-- GATED to OFF after OFF_TICKS, or at once with a Temper change pending (R230, R232, R240). -/
def execPavilionOff (p : Nat) (s : State) : Out :=
  onUnit (pavOk p)
    (let x := getPav s p
     if x.power ≠ .gated ∨ !running s ∨ (x.offNow = 0xFFFFFFFF ∧ !temperPending x) then s
     else
       let s := if temperPending x then s else advanceTo s (x.idleSince + x.offNow)
       modPav s p (fun x => { x with power := .off }))

/-! ### STAT -/

/-- An item of a step is not DONE in this package. -/
def stepOpen (jb : Job) (r : StepRec) : Bool := jb.items.any (fun e => decide (e.2.step = r.number ∧ e.2.state ≠ .done))

/-- The current step (R227). -/
def currentStep (jb : Job) : BitVec 32 :=
  match jb.steps.find? (stepOpen jb) with
  | some r => r.number
  | none => match jb.steps.getLast? with | some r => r.number | none => jb.image.firstStep

def statValue (s : State) (p n : Nat) : Word :=
  let x := getPav s p
  let jb := getJob s x.ctx
  if n = 0 then BitVec.ofNat 64 (iceOccupancy jb (dieOfPav p))
  else if n = 1 then BitVec.ofNat 64 (getIce jb (dieOfPav p)).hwm
  else if n = 2 then (currentStep jb).setWidth 64
  else if n = 3 then BitVec.ofNat 64 (readyOn s p).length
  else BitVec.ofNat 64 s.ember

def execDStat (p : Nat) (f : DFields) (s : State) : Out :=
  onDispatch p 0x25 f s (fun s => dWrite s p f (statValue s p f.imm.toNat))

end Sys2Proof.Machine
end

