-- ==== Sys2Proof/Machine/Migration.lean ====
section
/-!
DEFINITION. Machine/Migration.lean: migration of a bed (R235, R236). The slots of an input channel reach the new bed first through the old
one, then directly; the slots of an output channel come from the old bed up to its END, then from the new one (log 24).
-/
namespace Sys2Proof.Machine

def getMigs (s : State) (j : Nat) : List Mig := mget [] s.migs j
def setMig (s : State) (j k : Nat) (m : Mig) : State := { s with migs := mset [] j ((getMigs s j).set k m) s.migs }

/-- Cells that a bed could take: of pavilion p, in no bed, not retired. -/
def cellFree (s : State) (p row col : Nat) : Bool :=
  decide ((getCell s (64 * p + 8 * row + col)).mode ≠ 3) && !(getPav s p).beds.any (fun e => bedCovers e.2 row col)

/-- The first origin in row-major order at which an h × w bed fits (R215). -/
def firstOrigin (s : State) (p h w : Nat) : Option (Nat × Nat) :=
  ((List.range 64).map (fun i => (i / 8, i % 8))).find? (fun o =>
    decide (o.1 + h ≤ 8 ∧ o.2 + w ≤ 8) &&
      (List.range (h * w)).all (fun r => cellFree s p (o.1 + r / w) (o.2 + r % w)))

/-- The bed of a stage and replica that serves it: not one that is being left. -/
def servingBed (s : State) (j st r : Nat) : Option (Nat × Nat) := bedFor s j st r

/-- A migration of this bed runs. -/
def bedMoves (s : State) (j st r : Nat) : Bool := (getMigs s j).any (fun m => !m.done && decide (m.stage = st ∧ m.replica = r))

/-- Cross-stack channel entries in use on a store die (R216). -/
def crossEntries (s : State) (d : Nat) : Nat :=
  ((s.cells.filter (fun e => decide (dieOfCell e.1 = d))).map (fun e =>
    (e.2.tx.filter (fun q => q.2.valid && decide (dieOfCell q.2.peerCell ≠ d))).length +
      (e.2.rx.filter (fun q => q.2.valid && decide (dieOfCell q.2.peerCell ≠ d))).length)).sum

/-- The channels of stage st with their index: as consumer, or as producer. -/
def chansIn (jb : Job) (st : Nat) : List (Nat × ChanDecl) :=
  ((List.range jb.image.chans.length).zip jb.image.chans).filter (fun e => decide (e.2.cStage = st))

def chansOut (jb : Job) (st : Nat) : List (Nat × ChanDecl) :=
  ((List.range jb.image.chans.length).zip jb.image.chans).filter (fun e => decide (e.2.pStage = st))

/-- The port of cell c that serves channel k. -/
def rxPort (s : State) (c k : Nat) : Option Nat := ((getCell s c).rx.find? (fun e => e.2.valid && decide (e.2.chan = k))).map (·.1)
def txPort (s : State) (c k : Nat) : Option Nat := ((getCell s c).tx.find? (fun e => e.2.valid && decide (e.2.chan = k))).map (·.1)

/-- The lowest port that is not in use. -/
def freePort (m : Map Port) : Option Nat := (List.range 8).find? (fun p => !(mget Port.reset m p).valid)

/-- The seal words of a ring are 0. -/
def clearSeals (x : Cell) (base u k : Nat) : Cell :=
  (List.range k).foldl (fun x i => localWrite x (sealAddr base u i) (List.replicate 8 0)) x

/-- The ring is reset: what it held of an earlier job is gone, its seal words are 0 (R219). -/
def clearRing (x : Cell) (base u k : Nat) : Cell :=
  clearSeals { x with store := x.store.filter (fun e => !decide (base ≤ e.1 ∧ e.1 < base + k * u)) } base u k

/-- Ports of a cell in use. -/
def usedPorts (m : Map Port) : Nat := (m.filter (fun e => e.2.valid)).length

/-- A channel port is free wherever the migration of bed A needs a further channel (R235, R236): a transmit port at each producer for its channel to
B and at each cell of A for the one that forwards, a receive port at each consumer of A for B's channel, and in B no more than 8 of each kind. Which
ports are meant R235 does not list (DESIGN CHOICE, log 109). -/
def portsFree (s : State) (j st fromP fromB : Nat) : Bool :=
  let jb := getJob s j
  let a := getBed (getPav s fromP) fromB
  let ins := (chansIn jb st).filterMap (fun e =>
    (rxPort s (rankCell fromP a e.2.cRank) e.1).map (fun p => ((getRx (getCell s (rankCell fromP a e.2.cRank)) p).peerCell, e.2.cRank)))
  let outs := (chansOut jb st).filterMap (fun e =>
    (txPort s (rankCell fromP a e.2.pRank) e.1).map (fun p => (getTx (getCell s (rankCell fromP a e.2.pRank)) p).peerCell))
  ins.all (fun e => decide (usedPorts (getCell s e.1).tx + (ins.filter (fun f => decide (f.1 = e.1))).length ≤ 8) &&
      decide (usedPorts (getCell s (rankCell fromP a e.2)).tx + (ins.filter (fun f => decide (f.2 = e.2))).length ≤ 8) &&
      decide ((ins.filter (fun f => decide (f.2 = e.2))).length ≤ 8)) &&
    outs.all (fun c => decide (usedPorts (getCell s c).rx + (outs.filter (fun d => decide (d = c))).length ≤ 8))

/-- A receive port for channel k on the new bed, which takes forwarded slots until their END. -/
def addRx (s : State) (c k : Nat) (ch : ChanDecl) (pt : Port) : State :=
  match freePort (getCell s c).rx with
  | some p => modCell s c (fun x => clearRing (setRx x p { pt with chan := k }) ch.rxAddr ch.u ch.k)
  | none => s

def addTx (s : State) (c k : Nat) (ch : ChanDecl) (pt : Port) : State :=
  match freePort (getCell s c).tx with
  | some p => modCell s c (fun x => clearRing (setTx x p { pt with chan := k }) ch.txAddr ch.u ch.k)
  | none => s

/-- The ports of the new bed. -/
def openPorts (s : State) (j : Nat) (m : Mig) : State :=
  let jb := getJob s j
  let a := getBed (getPav s m.fromP) m.fromB
  let b := getBed (getPav s m.toP) m.toB
  let s := (chansIn jb m.stage).foldl (fun s e =>
    let ca := rankCell m.fromP a e.2.cRank
    match rxPort s ca e.1 with
    | some p => let old := getRx (getCell s ca) p
                addRx s (rankCell m.toP b e.2.cRank) e.1 e.2 { old with turn := 0, wire := [], creditsBack := 0, direct := [], forwarding := true }
    | none => s) s
  (chansOut jb m.stage).foldl (fun s e =>
    let ca := rankCell m.fromP a e.2.pRank
    match txPort s ca e.1 with
    | some p => let old := getTx (getCell s ca) p
                addTx s (rankCell m.toP b e.2.pRank) e.1 e.2 { old with turn := 0, credits := 0, sealed := [] }
    | none => s) s

/-- The items not yet launched on the old bed, a reserved one among them, are those from m* on: they go to the new bed (R236 step 1). -/
def moveItems (s : State) (j : Nat) (m : Mig) : State :=
  let moved := (getJob s j).items.filter (fun e =>
    decide (e.2.pav = m.fromP ∧ e.2.bed = m.fromB) && decide (e.2.state = .waiting ∨ e.2.state = .reserved) && decide (e.2.phase ≠ 4))
  let s := moved.foldl (fun s e =>
    modItem s j e.1 (fun it => { it with state := .waiting, pav := m.toP, bed := m.toB, die := dieOfPav m.toP })) s
  modPav s m.fromP (fun x =>
    let b := getBed x m.fromB
    let gone := moved.any (fun e => decide (b.item = some e.1))
    let x := setBed x m.fromB { b with migrating := true, item := if gone then none else b.item }
    if moved.any (fun e => decide (x.reserved = some e.1)) then { x with reserved := none, dwait := .none, dstate := if x.dstate = 2 then 1 else x.dstate }
    else x)

/-- A migration starts: the new bed stands, with its ports. -/
def startMigration (s : State) (j st r fromP fromB toP toB row col : Nat) : State :=
  let m : Mig := { stage := st, replica := r, fromP := fromP, fromB := fromB, toP := toP, toB := toB, ends := [], moves := [], done := false }
  let a := getBed (getPav s fromP) fromB
  let s := modPav s toP (fun x =>
    setBed x toB { valid := true, stage := st, replica := r, row0 := row, col0 := col, h := a.h, w := a.w, migrating := false, item := none })
  let s := openPorts s j m
  let s := moveItems s j m
  { s with migs := mset [] j (getMigs s j ++ [m]) s.migs }

/-- The answer to a request for migration (R235): an error code, or the new state. -/
def requestMigration (s : State) (j st r q b : Nat) : State ⊕ Nat :=
  match stageOf (getJob s j) st, servingBed s j st r with
  | some sd, some (fp, fb) =>
    if 64 ≤ q ∨ !(getPav s q).held ∨ (getPav s q).ctx ≠ j then .inr eNotOwner
    else if bedMoves s j st r ∨ (getBed (getPav s q) b).valid ∨ !portsFree s j st fp fb then .inr eBadState
    else
      match firstOrigin s q sd.h sd.w with
      | none => .inr eBadState
      | some (row, col) =>
        let u := startMigration s j st r fp fb q b row col
        if (List.range 4).all (fun d => decide (crossEntries u d ≤ 256)) then .inl u else .inr eBadState
  | _, _ => .inr eArgRange

/-- MIGRATE (R227, R235): the range checks come first. -/
def execDMigrate (p : Nat) (f : DFields) (s : State) : Out :=
  onDispatch p 0x24 f s (fun s =>
    let x := getPav s p
    let a := (dReg x f.a.toNat).toNat
    let b := (dReg x f.b.toNat).toNat
    if 2 ^ 20 ≤ a ∨ 2 ^ 10 ≤ b then dWrite s p f (statusWord eArgRange)
    else
      match requestMigration s x.ctx (a % 4096) (a / 4096) (b / 16) (b % 16) with
      | .inl u => dWrite u p f 0
      | .inr code => dWrite s p f (statusWord code))

/-! ### Markers -/

/-- The old bed has finished its items before m*. -/
def oldIdle (s : State) (m : Mig) : Bool := (getBed (getPav s m.fromP) m.fromB).item.isNone

def oldCell (s : State) (m : Mig) (rank : Nat) : Nat := rankCell m.fromP (getBed (getPav s m.fromP) m.fromB) rank
def newCell (s : State) (m : Mig) (rank : Nat) : Nat := rankCell m.toP (getBed (getPav s m.toP) m.toB) rank

/-- The producer of an input channel sends MOVE and continues on a channel to the new bed, at a slot boundary (step 2). -/
def moveInput (s : State) (m : Mig) (k : Nat) (ch : ChanDecl) : Option State :=
  match rxPort s (oldCell s m ch.cRank) k, rxPort s (newCell s m ch.cRank) k with
  | some pa, some pb =>
    let old := getRx (getCell s (oldCell s m ch.cRank)) pa
    some (modCell s old.peerCell (fun x =>
      setTx x old.peerPort { getTx x old.peerPort with peerCell := newCell s m ch.cRank, peerPort := pb }))
  | _, _ => none

/-- The consumer of an output channel takes the new bed's slots from its first one on, which carries MOVE: credits and the turn of the
ring pass to the new port (step 5). -/
def moveOutput (s : State) (m : Mig) (k : Nat) (ch : ChanDecl) : Option State :=
  match txPort s (oldCell s m ch.pRank) k, txPort s (newCell s m ch.pRank) k with
  | some pa, some pb =>
    let ca := oldCell s m ch.pRank
    let cb := newCell s m ch.pRank
    let old := getTx (getCell s ca) pa
    let s := modCell s cb (fun x =>
      setTx x pb { getTx x pb with credits := old.credits, turn := old.turn, peerCell := old.peerCell, peerPort := old.peerPort })
    let s := modCell s ca (fun x => setTx x pa Port.reset)
    some (modCell s old.peerCell (fun y => setRx y old.peerPort { getRx y old.peerPort with peerCell := cb, peerPort := pb }))
  | _, _ => none

/-- MOVE of channel k. -/
def moveMarker (s : State) (j n : Nat) (m : Mig) (k : Nat) : State :=
  match (getJob s j).image.chans[k]? with
  | none => s
  | some ch =>
    if m.moves.contains k then s
    else if ch.cStage = m.stage then
      (match moveInput s m k ch with
       | some u => setMig u j n { m with moves := k :: m.moves }
       | none => s)
    else if ch.pStage = m.stage ∧ m.ends.contains (2 * k) then
      (match moveOutput s m k ch with
       | some u => setMig u j n { m with moves := k :: m.moves }
       | none => s)
    else s

/-- The slots held in a receive ring, oldest first. -/
def heldSlots (free : Nat) (x : Cell) (pt : Port) (ch : ChanDecl) : List (Nat × List Byte) :=
  (((List.range ch.k).map (fun i => (pt.turn + i) % ch.k)).filter (fun i =>
    bitAt (localByte free x (sealAddr ch.rxAddr ch.u i)).toNat 0)).map (fun i => (i, localRead free x (ch.rxAddr + i * ch.u) ch.u))

/-- The producer's END has reached the old bed: every slot that it holds goes on to the new one, whose ring begins at the first of them
(step 3). -/
def forwardAll (s : State) (m : Mig) (k : Nat) (ch : ChanDecl) : Option State :=
  let ca := oldCell s m ch.cRank
  let cb := newCell s m ch.cRank
  match rxPort s ca k, rxPort s cb k with
  | some pa, some pb =>
    let x := getCell s ca
    let old := getRx x pa
    let l := heldSlots s.free x old ch
    if !old.wire.isEmpty then none
    else
      let s := modCell (draw s) ca (fun x => clearSeals x ch.rxAddr ch.u ch.k)
      some (modCell s cb (fun y =>
        let q := getRx y pb
        setRx y pb { q with wire := q.wire ++ l, turn := (old.turn + ch.k - l.length) % ch.k }))
  | _, _ => none

/-- END on the forwarding channel: the direct slots follow (step 4). -/
def endForward (s : State) (m : Mig) (k : Nat) (ch : ChanDecl) : Option State :=
  let cb := newCell s m ch.cRank
  match rxPort s cb k with
  | some pb =>
    let q := getRx (getCell s cb) pb
    if q.wire.isEmpty then some (modCell s cb (fun y => setRx y pb { q with wire := q.direct, direct := [], forwarding := false })) else none
  | none => none

/-- The old bed has sent END on output k after its last slot, and every slot before it has landed (step 5). -/
def outputEnded (s : State) (m : Mig) (k : Nat) (ch : ChanDecl) : Bool :=
  let ca := oldCell s m ch.pRank
  match txPort s ca k with
  | some pa =>
    let old := getTx (getCell s ca) pa
    old.sealed.isEmpty && (getRx (getCell s old.peerCell) old.peerPort).wire.isEmpty
  | none => false

/-- END marker n of a migration: 2 k on channel k, 2 k + 1 on the forwarding channel of input k. -/
def endMarker (s : State) (j n : Nat) (m : Mig) (e : Nat) : State :=
  let k := e / 2
  match (getJob s j).image.chans[k]? with
  | none => s
  | some ch =>
    if m.ends.contains e ∨ !oldIdle s m then s
    else if ch.cStage = m.stage then
      (match (if e % 2 = 0 then (if m.moves.contains k then forwardAll s m k ch else none)
              else if m.ends.contains (2 * k) then endForward s m k ch else none) with
       | some u => setMig u j n { m with ends := e :: m.ends }
       | none => s)
    else if ch.pStage = m.stage ∧ e % 2 = 0 ∧ outputEnded s m k ch then setMig s j n { m with ends := e :: m.ends }
    else s

def onMig (s : State) (j n : Nat) (f : Mig → State) : State :=
  match (getMigs s j)[n]? with
  | some m => if jobLive s j ∧ !m.done then f m else s
  | none => s

def execMigrationEndMarker (j n port : Nat) (s : State) : Out := onUnit (jobOk j) (onMig s j n (fun m => endMarker s j n m port))
def execMigrationMoveMarker (j n port : Nat) (s : State) : Out := onUnit (jobOk j) (onMig s j n (fun m => moveMarker s j n m port))

/-- Every marker has arrived. -/
def migOver (s : State) (j : Nat) (m : Mig) : Bool :=
  let jb := getJob s j
  oldIdle s m &&
    (chansIn jb m.stage).all (fun e => m.moves.contains e.1 && m.ends.contains (2 * e.1) && m.ends.contains (2 * e.1 + 1)) &&
    (chansOut jb m.stage).all (fun e => m.moves.contains e.1 && m.ends.contains (2 * e.1))

/-- The old bed's last credits go back, its ports and the bed are released (step 6); a pavilion whose retirement was planned and whose
beds have all gone is retired (R454). -/
def completeMig (s : State) (j n : Nat) (m : Mig) : State :=
  let cells := bedCells m.fromP (getBed (getPav s m.fromP) m.fromB)
  let s := cells.foldl (fun s c =>
    let s := (getCell s c).rx.foldl (fun s e =>
      modCell s e.2.peerCell (fun y =>
        let q := getTx y e.2.peerPort
        setTx y e.2.peerPort { q with credits := q.credits + e.2.creditsBack })) s
    modCell s c (fun x => { x with tx := [], rx := [] })) s
  let s := modPav s m.fromP (fun x => setBed x m.fromB Bed.reset)
  let s := setMig s j n { m with done := true }
  let x := getPav s m.fromP
  if x.retirePend ∧ x.beds.all (fun e => !e.2.valid) then retirePav s m.fromP else s

def execMigrationComplete (j n : Nat) (s : State) : Out :=
  onUnit (jobOk j) (onMig s j n (fun m => if migOver s j m then completeMig s j n m else s))

end Sys2Proof.Machine
end

