-- ==== Sys2Proof/Machine/Loader.lean ====
section
/-!
DEFINITION. Machine/Loader.lean: placement of beds (R215), the loader's checks in order (R244), what a commit makes of a job context (R57,
R160, R164, R165, R170, R216, R225, R245, R253, R275, R296, R306, R308, R346, R471), the load report (R417, R418).
-/
namespace Sys2Proof.Machine

/-! ### Placement (R215) -/

/-- A placed bed: stage, replica, pavilion, bed number. -/
structure Placed where
  stage : Nat
  replica : Nat
  pav : Nat
  bed : Nat
  deriving DecidableEq, Repr

/-- The edges that order the stages: channels, and data edges that join FWD items. -/
def orderEdges (im : JobImage) : List (Nat × Nat) :=
  im.chans.map (fun c => (c.pStage, c.cStage)) ++
    (im.edges.filter (fun e => decide (e.fPhase = 0 ∧ e.tPhase = 0))).map (fun e => (e.fStage, e.tStage))

/-- The remaining stages in placement order. -/
def orderStages (edges : List (Nat × Nat)) : Nat → List Nat → List Nat
  | 0, _ => []
  | n + 1, rest =>
    let ready := rest.find? (fun st => !edges.any (fun e => decide (e.2 = st) && rest.contains e.1))
    match ready.or rest.head? with
    | none => []
    | some st => st :: orderStages edges n (rest.filter (· ≠ st))

def placementOrder (im : JobImage) : List Nat := orderStages (orderEdges im) im.stages.length (List.range im.stages.length)

/-- The channels and data edges between stage st and others: the other stage, and the weight. -/
def weightsOf (im : JobImage) (st : Nat) : List (Nat × Nat) :=
  (im.chans.map (fun c => (c.pStage, c.cStage, c.weight)) ++ im.edges.map (fun e => (e.fStage, e.tStage, e.weight))).filterMap (fun e =>
    if e.1 = st ∧ e.2.1 ≠ st then some (e.2.1, e.2.2) else if e.2.1 = st ∧ e.1 ≠ st then some (e.1, e.2.2) else none)

def replicasOf (im : JobImage) (st : Nat) : Nat := match im.stages[st]? with | some d => d.replicas | none => 1

/-- The weighted cost of a bed of replica r of stage st in pavilion p. -/
def placeWeight (s : State) (im : JobImage) (beds : List Placed) (st r p : Nat) : Nat :=
  ((weightsOf im st).map (fun e =>
    let g := Nat.gcd (replicasOf im st) (replicasOf im e.1)
    ((beds.filter (fun b => decide (b.stage = e.1 ∧ b.replica % g = r % g))).map (fun b => e.2 * cost s p b.pav)).sum)).sum

/-- Pavilions that a new job may take: held by no other job, not retired, with entries other than 0xFF. -/
def pavAvailable (s : State) (p : Nat) : Bool := !(getPav s p).held && !pavAway s p && decide (mget 0 s.pavRsts p = 0)

def freeBed (s : State) (p : Nat) : Option Nat := (List.range 16).find? (fun b => !(getBed (getPav s p) b).valid)

/-- The bed stands, tentatively. -/
def setDown (s : State) (st r p b row col : Nat) (d : StageDecl) : State :=
  modPav s p (fun x => setBed x b { valid := true, stage := st, replica := r, row0 := row, col0 := col, h := d.h, w := d.w, migrating := false, item := none })

def placeOne (im : JobImage) (t : State × List Placed) (st r : Nat) : Option (State × List Placed) :=
  match im.stages[st]? with
  | none => none
  | some d =>
    let cands := (List.range 64).filterMap (fun p =>
      if pavAvailable t.1 p then
        match freeBed t.1 p, firstOrigin t.1 p d.h d.w with
        | some b, some o => some (placeWeight t.1 im t.2 st r p, p, b, o)
        | _, _ => none
      else none)
    match leastBy (·.1) cands with
    | some (_, p, b, row, col) => some (setDown t.1 st r p b row col d, t.2 ++ [⟨st, r, p, b⟩])
    | none => none

/-- The bed that an explicit placement names, if it may stand there. -/
def placeNamed (im : JobImage) (l : List (Nat × Nat × Nat × Nat × Nat)) (t : State × List Placed) (st r : Nat) : Option (State × List Placed) :=
  match im.stages[st]?, l.find? (fun e => decide (e.1 = st ∧ e.2.1 = r)) with
  | some d, some (_, _, p, row, col) =>
    if 64 ≤ p ∨ !pavAvailable t.1 p ∨ 8 < row + d.h ∨ 8 < col + d.w ∨
        !(List.range (d.h * d.w)).all (fun k => cellFree t.1 p (row + k / d.w) (col + k % d.w)) then none
    else
      match freeBed t.1 p with
      | some b => some (setDown t.1 st r p b row col d, t.2 ++ [⟨st, r, p, b⟩])
      | none => none
  | _, _ => none

/-- Every bed of every stage in the given order. -/
def placeEach (im : JobImage) (f : State × List Placed → Nat → Nat → Option (State × List Placed)) (order : List Nat) (s : State) : Option (State × List Placed) :=
  (order.flatMap (fun st => (List.range (replicasOf im st)).map (fun r => (st, r)))).foldl (fun t e => t.bind (fun t => f t e.1 e.2)) (some (s, []))

def placeBeds (s : State) (im : JobImage) : Option (State × List Placed) :=
  match im.placement with
  | some l => placeEach im (placeNamed im l) (List.range im.stages.length) s
  | none => placeEach im (placeOne im) (placementOrder im) s

/-! ### Resources (R165, R253, R275) -/

/-- Frames of a range that are FREE. -/
def freeCount (m : Map Frame) (lo hi : Nat) : Nat := hi - lo - (m.filter (fun e => decide (lo ≤ e.1 ∧ e.1 < hi))).length

/-- What loaded jobs have reserved on die d and not yet taken. -/
def promised (s : State) (d : Nat) (f : State → Nat → Nat → Nat) : Nat :=
  ((List.range 8).map (fun j => if (getJob s j).loaded then f s j d else 0)).sum

def storeRoom (s : State) (d : Nat) : Nat := freeCount (getStore s d).frames (d * 24576) (d * 24576 + 24576) - promised s d storeLeft

/-- HBM frames of the stacks of die d that `f` admits, which no job holds or has reserved. -/
def hbmUnheld (s : State) (d : Nat) (f : Hbm → Bool) : Nat :=
  ([2 * d, 2 * d + 1].map (fun h =>
    if f (getHbm s h) then let r := hbmJobFrames s h; freeCount (getStore s d).frames r.1 r.2 else 0)).sum - promised s d hbmLeft

/-- What a load may take: only of active stacks. -/
def hbmRoom (s : State) (d : Nat) : Nat := hbmUnheld s d (fun x => decide (x.state = 1))

def iceFits (s : State) (d : Nat) (x : DieDecl) : Bool :=
  decide (x.iceStore ≤ storeRoom s d - x.storeFrames ∧ 32 * x.iceSpill ≤ hbmRoom s d - 32 * x.hbmUnits ∧ x.peak ≤ x.iceStore ∧
    x.hwm ≤ x.iceStore + 32 * x.iceSpill ∧ x.peak ≤ x.hwm)

/-- The pages of objects of die d that no job holds (R275). -/
def freeObjPages (s : State) (d : Nat) : List Nat := ((List.range 16).map (fun g => 16 * d + g)).filter (fun g => decide (mget 0 s.objPages g = 0))

def syncsOn (im : JobImage) (d : Nat) : List SyncDecl := im.syncs.filter (fun y => decide (y.die = d))

/-- The fewest pages that hold the objects declared on die d (R275): the declared objects in order, 4,096 to a page, each page at one of the declared
addresses with the targets of its objects (log 73). -/
def syncPages (im : JobImage) (d : Nat) : List (Nat × List (BitVec 32)) :=
  let ts := (syncsOn im d).flatMap (·.targets)
  (List.range (ceilDiv ts.length 4096)).map (fun k => (((syncsOn im d).map (·.va)).getD k 0, (ts.drop (4096 * k)).take 4096))

/-- A zeroing frame may yet be needed: the loader waits for it (R504: DEDUCED, log 39). -/
def anyZeroing (s : State) : Bool := (List.range 4).any (fun d => (getStore s d).frames.any (fun e => decide (e.2.state = .zeroing)))

/-! ### Channels (R216, R244 row 10) -/

/-- The rings of a channel lie in the declared data of their stages. -/
def ringsIn (im : JobImage) (c : ChanDecl) : Bool :=
  let inside := fun (st a : Nat) => match im.stages[st]? with
    | some d => decide (8 * d.progWords ≤ a ∧ a + c.k * c.u ≤ 8 * d.progWords + d.dataBytes)
    | none => false
  inside c.pStage c.txAddr && inside c.cStage c.rxAddr && decide (replicasOf im c.pStage = replicasOf im c.cStage)

/-- No stage of a cycle is ever free of unplaced predecessors. -/
def peel (edges : List (Nat × Nat)) : Nat → List Nat → List Nat
  | 0, l => l
  | n + 1, l => peel edges n (l.filter (fun st => edges.any (fun e => decide (e.2 = st) && l.contains e.1)))

def chansAcyclic (im : JobImage) : Bool :=
  (peel (im.chans.map (fun c => (c.pStage, c.cStage))) im.stages.length (List.range im.stages.length)).isEmpty

def bedAt (beds : List Placed) (st r : Nat) : Option Placed := beds.find? (fun b => decide (b.stage = st ∧ b.replica = r))

/-- The ports of channel k for replica r, its rings unsealed, its credits full. -/
def openChannel (s : State) (beds : List Placed) (k : Nat) (ch : ChanDecl) (r : Nat) : Option State :=
  match bedAt beds ch.pStage r, bedAt beds ch.cStage r with
  | some a, some b =>
    let ca := rankCell a.pav (getBed (getPav s a.pav) a.bed) ch.pRank
    let cb := rankCell b.pav (getBed (getPav s b.pav) b.bed) ch.cRank
    match freePort (getCell s ca).tx, freePort (getCell s cb).rx with
    | some pa, some pb =>
      let pt : Port := { valid := true, chan := k, replica := r, peerCell := cb, peerPort := pb, turn := 0, credits := ch.k, sealed := [], wire := []
                         creditsBack := 0, direct := [], forwarding := false }
      let s := addTx s ca k ch pt
      some (addRx s cb k ch { pt with peerCell := ca, peerPort := pa, credits := 0 })
    | _, _ => none
  | _, _ => none

def openChannels (s : State) (im : JobImage) (beds : List Placed) : Option State :=
  (((List.range im.chans.length).zip im.chans).flatMap (fun e => (List.range (replicasOf im e.2.pStage)).map (fun r => (e.1, e.2, r)))).foldl
    (fun s e => s.bind (fun s => openChannel s beds e.1 e.2.1 e.2.2)) (some s)

/-- Members of coherent regions are linked to this package (R368). -/
def membersLinked (s : State) (im : JobImage) : Bool :=
  im.exports.all (fun e => decide (e.mode ≠ 3) || e.dom.all (fun m => decide (m = 0xFFFF) || directUp s m))

/-! ### The checks (R244) -/

/-- A check that failed: its order and code. -/
structure Refused where
  check : Nat
  code : Nat
  deriving DecidableEq, Repr

/-- The owner key that the image names is enrolled and its signature verifies (R416, R469). -/
def sigOk (s : State) (im : JobImage) : Bool := decide (im.keyIdx < 4) && (mfind s.flash.slots im.keyIdx).isSome && im.verifies

def freeContext (s : State) : Option Nat := (List.range 8).find? (fun j => decide ((getCtx s j).state = 0))

/-- Every pavilion with a bed has a program (R225). -/
def programFor (im : JobImage) (p : Nat) : Option (List (BitVec 32)) :=
  if im.perPav then (im.progs.find? (fun e => decide (e.1 = p))).map (·.2) else im.progs.head?.map (·.2)

def stageFits (d : StageDecl) : Bool := decide (8 * d.progWords + d.dataBytes ≤ 0x40000)

/-- The checks 5 to 10: the state with beds and channels standing, the beds. -/
def placeChecks (s : State) (im : JobImage) : (State × List Placed) ⊕ Refused :=
  match placeBeds s im with
  | none => .inr ⟨5, eLoadCells⟩
  | some (t, beds) =>
    if !beds.all (fun b => (programFor im b.pav).isSome) then .inr ⟨3, eLoadImage⟩
    else if !im.stages.all stageFits ∨ !(List.range 4).all (fun d => decide ((dieDecl im d).storeFrames ≤ storeRoom s d)) then .inr ⟨6, eLoadStore⟩
    else if !(List.range 4).all (fun d => decide (32 * (dieDecl im d).hbmUnits ≤ hbmRoom s d)) then .inr ⟨7, eLoadHbm⟩
    else if !(List.range 4).all (fun d => iceFits s d (dieDecl im d)) then .inr ⟨8, eLoadIcehouse⟩
    else if !(List.range 4).all (fun d => decide ((syncPages im d).length ≤ (freeObjPages s d).length)) then .inr ⟨9, eLoadSync⟩
    else if !chansAcyclic im ∨ !im.chans.all (ringsIn im) ∨ !membersLinked s im then .inr ⟨10, eLoadChannels⟩
    else
      match openChannels t im beds with
      | none => .inr ⟨10, eLoadChannels⟩
      | some u => if (List.range 4).all (fun d => decide (crossEntries u d ≤ 256)) then .inl (u, beds) else .inr ⟨10, eLoadChannels⟩

/-- All checks in order. -/
def loadChecks (s : State) (im : JobImage) (len : Nat) : (Nat × State × List Placed) ⊕ Refused :=
  if !sigOk s im then .inr ⟨1, eSigInvalid⟩
  else if im.samples.any (fun n => decide (4194304 < n)) then .inr ⟨2, eSeqTooLong⟩
  else if !imageOk s im len then .inr ⟨3, eLoadImage⟩
  else
    match freeContext s with
    | none => .inr ⟨4, eLoadContext⟩
    | some j =>
      match placeChecks s im with
      | .inr r => .inr r
      | .inl (u, beds) => .inl (j, u, beds)

/-! ### Commit (R245) -/

/-- The job record before its mappings: epoch 1 is open (R388). -/
def newJob (s : State) (im : JobImage) : Job :=
  let top := (maxOf (declaredRanges im |>.map (fun r => r.1 + r.2)))
  let shards := maxOf (im.shards.flatMap (fun sh => (workPages sh ++ hotPages { Job.none with image := im } sh).map (fun p => (p + 1) * 65536)))
  { Job.none with
    loaded := true, gen := s.loads + 1, image := im, epoch := 1, epochState := 1
    cutRanges := im.mapping.cuts.map (cutRanges im.mapping), stageRanges := pipelineRanges im.mapping
    expertSlots := im.mapping.experts.map expertSlots, memberSlots := im.mapping.experts.map (memberSlots im.mapping)
    windowNext := roundUp 0x200000 (max top shards)
    insts := im.stages.flatMap (fun st => (st.slots.filter (fun d => d.stash.isNone)).map (fun d =>
      ({ va := d.va, size := d.size, cur := [], curV := false, next := [], nextV := false, commitItem := 0, version := 0 } : Inst))) }

/-- The first bed cell of the job on die d, else the first cell there: where HOME starts for frames that no cell asks for. -/
def firstCell (s : State) (beds : List Placed) (d : Nat) : Nat :=
  match beds.find? (fun b => decide (dieOfPav b.pav = d)) with
  | some b => rankCell b.pav (getBed (getPav s b.pav) b.bed) 0
  | none => 1024 * d

/-- The banks of the job's bed pavilions on die d, in the order of the HOME rule from the first bed cell there, the other banks after them (R253, R166). -/
def iceBanks (s : State) (beds : List Placed) (d : Nat) : List Nat :=
  let all := homeBanks s (firstCell s beds d)
  let inBeds := fun (b : Nat) => beds.any (fun p => decide (p.pav = b / 64))
  all.filter inBeds ++ all.filter (fun b => !inBeds b)

/-- n frames of the store portion of the Icehouse (R253). -/
def iceStoreFrames (j : Nat) (banks : List Nat) : Nat → State × List Nat → State × List Nat
  | 0, t => t
  | n + 1, t =>
    match banks.findSome? (bankFree t.1) with
    | some f => iceStoreFrames j banks n (putFrame t.1 f ⟨.icehouse, j⟩, t.2 ++ [f])
    | none => t

/-- n frames of its spill area. -/
def iceSpillFrames (j d : Nat) : Nat → State × List Nat → State × List Nat
  | 0, t => t
  | n + 1, t =>
    match hbmFrame t.1 d n with
    | some f => iceSpillFrames j d n (putFrame t.1 f ⟨.icehouse, j⟩, t.2 ++ [f])
    | none => t

def makeIce (j : Nat) (beds : List Placed) (im : JobImage) (s : State) (d : Nat) : State :=
  let x := dieDecl im d
  let a := iceStoreFrames j (iceBanks s beds d) x.iceStore (s, [])
  let b := iceSpillFrames j d (32 * x.iceSpill) (a.1, [])
  modIce b.1 j d (fun i => { i with store := x.iceStore, spill := x.iceSpill, hwm := x.hwm, peak := x.peak, storeFrames := a.2, spillFrames := b.2 })

/-- The attributes of a region's pages (R163, R228). -/
def regionLeaf (r : RegionDecl) (t : Target) : Leaf :=
  if r.kind = .args then { target := t, r := true, w := true, rm := false, ns := r.ns, imm := false, a := false, loc := 0 }
  else { target := t, r := r.r, w := r.w, rm := r.rm && decide (r.kind = .persistent), ns := r.ns, imm := r.imm, a := false
         loc := if r.rm && r.inHbm && decide (r.kind = .persistent) then 1 else 0 }

/-- One page of a region is mapped. -/
def mapPage (j c : Nat) (r : RegionDecl) (s : State) (vpn : Nat) : State :=
  let k := vpn - r.va / 65536
  let put := fun (s : State) (t : Target) => modJob s j (fun jb => { jb with pages := mput vpn (regionLeaf r t) jb.pages })
  match r.kind with
  | .hostBuf => put s (.phys (hostBase + r.target + 65536 * k))
  | .fabric => put s (.fabric (r.target + 65536 * k))
  | .persistent | .args =>
    match (if r.inHbm then hbmFrame s r.die k else homeFrame s c) with
    | some f => put (takeFrame s j f .persistent) (.phys (f * 65536))
    | none => s

/-- Bytes at an offset of a region that the loader writes, whatever the page's attributes. -/
def loaderWrite (j : Nat) (s : State) (va : Nat) (l : List Byte) : State := pageWrite s (getJob s j).pages va l

/-- W by R54 from a declared Emax. -/
def xsWindow (emax : Int) : Nat := min 255 (emax + 128).toNat

/-- W of an XS region: that of R54 for the gradient region of a shared identity (R263), else the declared one (R296). -/
def regionW (im : JobImage) (r : RegionDecl) (w : Nat) : Nat :=
  match im.shards.findSome? (fun sh => match im.tensors[sh.tensor]? with
    | some t => if sharedParam t && (gradSlots im sh).any (fun k => inRegion r (sh.bases.getD k.1 0)) then some t else none
    | none => none) with
  | some t => xsWindow t.emax
  | none => w

/-- The declared contents of a region: bytes, or XS elements (R296). -/
def fillRegion (j : Nat) (s : State) (r : RegionDecl) : State :=
  let im := (getJob s j).image
  let s := r.data.foldl (fun s e => loaderWrite j s (r.va + e.1) e.2) s
  match r.xs with
  | none => s
  | some (w, n) =>
    (List.range n).foldl (fun s i => loaderWrite j s (r.va + 24 * i) (xsBytes { v := 0, w := regionW im r w, infPos := false, infNeg := false, nan := false, count := 0 })) s

def mapRegion (j : Nat) (beds : List Placed) (s : State) (r : RegionDecl) : State :=
  let s := (pagesOfRegion r).foldl (mapPage j (firstCell s beds r.die) r) s
  if ownsFrames r then fillRegion j s r else s

/-- A page of objects: the lowest that no job holds; the declared objects get their targets, the others are zero (R275). -/
def mapSync (j d : Nat) (s : State) (y : Nat × List (BitVec 32)) : State :=
  match freeObjPages s d with
  | [] => s
  | g :: _ =>
    let s := { s with objPages := mput g (j + 1) s.objPages, objs := s.objs.filter (fun e => decide (e.1 / 4096 ≠ g)), ports := s.ports.filter (fun e => decide (e.1 / 4096 ≠ g)) }
    let s := modJob s j (fun jb => { jb with syncPages := mput (y.1 / 65536) g jb.syncPages })
    ((List.range y.2.length).zip y.2).foldl (fun s e => setObj s (4096 * g + e.1) { SyncObj.reset with target := e.2, wnull := false }) s

/-- The initial version of an owned shard, named by the checkpoint's step: published with its digest, its hot-tier state zero (R306, R308,
R332, log 40). -/
def initShard (j : Nat) (s : State) (k : Nat) : State :=
  let jb := getJob s j
  match jb.image.shards[k]? with
  | none => s
  | some sh =>
    if !ownsShard s sh then modJob s j (fun jb => { jb with shardVer := mput k jb.image.firstStep.toNat jb.shardVer })
    else
      let v := jb.image.firstStep.toNat
      match allocPages j sh.ownerDie .published s (workPages sh) [] with
      | none => s
      | some (s, mw) =>
        match allocPages j sh.ownerDie .published s (hotPages jb sh) [] with
        | none => s
        | some (s, mh) =>
          let s := match sh.initial.bind (fun i => jb.image.initial[i]?) with
            | some r => putVer s sh mw (r.elems ++ r.scales)
            | none => s
          let rec' : VerRec := { version := v, step := jb.image.firstStep, digest := digestOf sh v (verBytes s sh mw), work := mw, hot := mh, holds := 0 }
          modJob s j (fun jb => { jb with versions := mput (verKey k v) rec' jb.versions, shardVer := mput k v jb.shardVer })

/-- A pavilion with beds is held by the job; its dispatch unit starts at word 0 with zeroed scratch (R213, R225). -/
def holdPav (j : Nat) (im : JobImage) (s : State) (p : Nat) : State :=
  modPav s p (fun x =>
    { x with held := true, ctx := j, idleSince := s.ember, code := 0, dstate := 1, dpc := 0, dreg := [], prog := (programFor im p).getD []
             table := im.table, scratch := [], args := [], reserved := none, dwait := .none, starts := [] })

/-- The loader sets the size of the program region of every cell of a bed (R57, R96). -/
def setLayout (im : JobImage) (s : State) (b : Placed) : State :=
  match im.stages[b.stage]? with
  | some st => (bedCells b.pav (getBed (getPav s b.pav) b.bed)).foldl (fun s c => modCell s c (fun x => { x with progWords := st.progWords })) s
  | none => s

/-- The entries of the region table (R346). -/
def exportRegion (j : Nat) (s : State) (e : ExportDecl) : State :=
  setRegion s e.index { valid := true, mode := e.mode.toNat, ctx := j, vbase := e.vbase, owner := e.owner, len := e.len
                        dom := [e.dom.getD 0 0xFFFF, e.dom.getD 1 0xFFFF, e.dom.getD 2 0xFFFF] }

/-- Where the Lodge puts a level-1 table (R155, R158): 4 KiB of the system area of a store die, which the spec leaves open (log 87). -/
def tablePlace (s : State) (free : Nat) : Nat := systemBase s (free % 4) + 4096 * (free / 4 % 2 ^ 18)

/-- CTXROOT of the four store dies, which all hold the same value (R158, R184). -/
def setRoot (j : Nat) (valid : Bool) (root : Nat) (s : State) (d : Nat) : State :=
  modStore s d (fun x => { x with ctxRoot := mset (0, false) j (root, valid) x.ctxRoot })

/-- Transitions whose trigger is satisfied from the start wait at once (R381). -/
def firstTriggers (j : Nat) (s : State) : State :=
  let ts := (getJob s j).image.mapping.trans
  ((List.range ts.length).zip ts).foldl (fun s e =>
    match objAt (getJob s j) e.2.trigger with
    | some o => if satisfied (getObj s o) then modStore s e.2.die (fun x => { x with transQueue := x.transQueue ++ [(j, e.1)] }) else s
    | none => s) s

/-- Everything is committed at once: `u` is the state with beds and channels standing. -/
def commitLoad (u : State) (j : Nat) (im : JobImage) (beds : List Placed) : State :=
  let s := setJob { u with loads := u.loads + 1 } j (newJob u im)
  let s := (beds.map (·.pav)).eraseDups.foldl (holdPav j im) s
  let s := beds.foldl (setLayout im) s
  let s := im.regions.foldl (mapRegion j beds) s
  let s := (List.range im.shards.length).foldl (initShard j) s
  let s := (List.range 4).foldl (makeIce j beds im) s
  let s := (List.range 4).foldl (fun s d => (syncPages im d).foldl (mapSync j d) s) s
  let s := im.exports.foldl (exportRegion j) s
  let root := tablePlace s (Config.freeAddr s.free)
  let s := modJob (draw s) j (fun jb => { jb with root := root })
  let s := (List.range 4).foldl (setRoot j true root) s
  let s := setCtx s j { getCtx s j with state := 1 }
  let s := { s with migs := mset [] j [] s.migs, sec := { s.sec with meas := mset [] (0x10 + j) (shake256 im.bytes 64) s.sec.meas } }
  firstTriggers j s

/-! ### Load report (R417, R418) -/

def reportHead (len code ctx stable check : Nat) (sig : Word) : List Byte :=
  leBytes 4 0x50524C5A ++ leBytes 2 256 ++ leBytes 2 1 ++ leBytes 8 len ++ leBytes 2 code ++ leBytes 1 ctx ++ leBytes 1 stable ++ leBytes 1 check ++
    List.replicate 3 0 ++ leBytes 8 sig.toNat

/-- The header of a refused load. -/
def refusedReport (r : Refused) : List Byte := reportHead 256 r.code 0xFF 0 r.check 0 ++ List.replicate 224 0

/-- DIE[d] of the report. -/
def dieReport (s u : State) (im : JobImage) (d : Nat) : List Byte :=
  let x := dieDecl im d
  leBytes 4 x.storeFrames ++ leBytes 4 x.hbmUnits ++ leBytes 4 x.iceStore ++ leBytes 4 x.iceSpill ++ leBytes 4 x.peak ++
    leBytes 4 (4096 * (syncPages im d).length) ++ leBytes 2 (crossEntries u d - crossEntries s d) ++ List.replicate 6 0

def bedRecord (u : State) (b : Placed) : List Byte :=
  let x := getBed (getPav u b.pav) b.bed
  leBytes 2 b.stage ++ [b.replica, b.pav, b.bed, x.row0, x.col0, x.h, x.w].flatMap (leBytes 1) ++ List.replicate 7 0

/-- The report of a committed load: s before it, u with the beds and channels standing. -/
def loadReport (s u : State) (j : Nat) (im : JobImage) (beds : List Placed) : List Byte :=
  let sorted := sortBy (fun b => 64 * b.stage + b.replica) beds
  let far := farOwners im
  reportHead (reportSize im) 0 j (b2n (bitStable im)) 0 (splitSig im) ++ leBytes 4 u.distGen.toNat ++ leBytes 4 beds.length ++
    (List.range 4).flatMap (dieReport s u im) ++ leBytes 8 (256 + 16 * beds.length) ++ leBytes 4 far.length ++ List.replicate 76 0 ++
    sorted.flatMap (bedRecord u) ++ far.flatMap (routeRecord im)

end Sys2Proof.Machine
end

