-- ==== Sys2Proof/Machine/Queues.lean ====
section
/-!
DEFINITION. Machine/Queues.lean: the queues of the host (R403 to R413, R419, R420) and what their entries ask for: NOP, LOAD, UNLOAD, STEP,
EXPORT, IMPORT.
-/
namespace Sys2Proof.Machine

/-! ### Queues -/

def qIndex : QueueId → Nat
  | .admin => adminQ
  | .ctx j q => 64 * j + q

/-- Where the registers of a pair lie in LODGE (R419). -/
def qOffset : QueueId → Nat
  | .admin => 0x180000
  | .ctx j q => 0x100000 + j * 0x1000 + q * 0x40

def qJob : QueueId → Option Nat
  | .admin => none
  | .ctx j _ => some j

/-- Stores of the host to its own DDR5 (log 4). -/
def hostStores (s : State) (l : List HostWrite) : State :=
  { s with host := l.foldl (fun m w => if w.addr + w.bytes.length ≤ s.ddr5 then memWrite m w.addr w.bytes else m) s.host }

/-- The device writes bytes to host memory. -/
def toHost (s : State) (a : Nat) (l : List Byte) : State := { s with host := memWrite s.host a l }

/-- A base of a ring, or of the acceptance word; one that has not been written is undefined (R420). -/
def qBase (s : State) (set : Bool) (base : Nat) : Nat := if set then base else Config.freeAddr s.free % 2 ^ 44

/-- A field of n bytes of an entry. -/
def entryOp (e : QEntry) : Nat := leField e.data 0 1

/-- Bytes of the entry without a use are 0 (R410): `used` lists offset and size of the fields after the header. -/
def entryClean (l : List Byte) (used : List (Nat × Nat)) : Bool :=
  (l.mapIdx (fun i b => decide (b = 0 ∨ i = 0 ∨ (8 ≤ i ∧ i < 16)) || used.any (fun u => decide (u.1 ≤ i ∧ i < u.1 + u.2)))).all id

/-- The first entry of a queue that has not begun. -/
def nextEntry (q : Queue) : Option QEntry := q.entries.find? (fun e => !e.begun && e.outcome.isNone)

def beginEntry (s : State) (q k : Nat) : State :=
  modQueue s q (fun x => { x with entries := x.entries.map (fun e => if e.k = k then { e with begun := true } else e) })

/-- An entry that fails a check: NOT_EXECUTED, nothing else changes (R411). -/
def failEntry (s : State) (q k code : Nat) : State := setOutcome s q k (code, 1, 0, 0xFF)

/-- The next entry of queue q has this opcode: its effect; otherwise nothing is done. -/
def onEntry (q : QueueId) (op : Nat) (s : State) (f : State → QEntry → State) : Out :=
  onUnit (queueOk q)
    (match nextEntry (getQueue s (qIndex q)) with
     | some e => if entryOp e = op ∧ running s then f s e else s
     | none => s)

/-! ### Registers of a queue (R404, R420) -/

def writeTail (s : State) (q : QueueId) (v : Word) : State :=
  let x := getQueue s (qIndex q)
  checkWrite s lodgeBase (qOffset q + 0x20)
    [(!x.enable, eBadState), (decide (v.toNat < x.tail ∨ x.cqhead + 2 ^ x.sqlog < v.toNat), eQueueFull)]
    (fun s => modQueue s (qIndex q) (fun x => { x with tail := v.toNat }))

def execTailWrite (q : QueueId) (v : Word) (hw : List HostWrite) (s : State) : Out := onUnit (queueOk q) (writeTail (hostStores s hw) q v)

def writeCqhead (s : State) (q : QueueId) (v : Word) : State :=
  let x := getQueue s (qIndex q)
  checkWrite s lodgeBase (qOffset q + 0x30) [(decide (v.toNat < x.cqhead ∨ x.written < v.toNat), eArgRange)]
    (fun s => modQueue s (qIndex q) (fun x => { x with cqhead := v.toNat }))

def execCqheadWrite (q : QueueId) (v : Word) (s : State) : Out := onUnit (queueOk q) (writeCqhead s q v)

/-- A write of QCTRL: the rejections of R420, then ENABLE and the ring sizes. A write with ENABLE = 1 is refused where it would change a
ring size; setting ENABLE zeroes the counts (DEDUCED, log 41). -/
def writeQctrl (s : State) (q : QueueId) (v : Word) : State :=
  let x := getQueue s (qIndex q)
  let n := v.toNat
  let sl := bits n 20 16
  let cl := bits n 12 8
  let on := bitAt n 0
  let loaded := match qJob q with | none => true | some j => decide ((getCtx s j).state = 1)
  checkWrite s lodgeBase (qOffset q + 0x18)
    [(decide (bits n 63 21 ≠ 0 ∨ bits n 15 13 ≠ 0 ∨ bits n 7 1 ≠ 0), eArgReserved),
     (decide (sl < 4 ∨ 16 < sl ∨ cl < 4 ∨ 16 < cl ∨ cl < sl), eArgRange),
     (x.enable && decide (sl ≠ x.sqlog ∨ cl ≠ x.cqlog), eBadState),
     (on && !x.enable && !loaded, eBadState),
     (!on && x.enable && decide (x.accept ≠ x.cqhead), eBadState)]
    (fun s => modQueue s (qIndex q) (fun x =>
      if on && !x.enable then { x with enable := true, sqlog := sl, cqlog := cl, tail := 0, accept := 0, cqhead := 0, written := 0, entries := [] }
      else { x with enable := on, sqlog := sl, cqlog := cl }))

def execQueueEnable (q : QueueId) (v : Word) (s : State) : Out := onUnit (queueOk q) (if bitAt v.toNat 0 then writeQctrl s q v else s)
def execQueueDisable (q : QueueId) (v : Word) (s : State) : Out := onUnit (queueOk q) (if bitAt v.toNat 0 then s else writeQctrl s q v)

/-! ### Acceptance and completion (R405, R406, R413) -/

/-- Entry k is read, its acceptance word written, ACCEPT advanced. An entry of a context that accepts nothing is NOT_EXECUTED (R403,
R408). -/
def acceptEntry (s : State) (q : QueueId) : State :=
  let x := getQueue s (qIndex q)
  let k := x.accept + 1
  let data := memRead s.host (qBase s x.sqSet x.sqBase + x.accept % 2 ^ x.sqlog * 128) 128
  let dead := match qJob q with | none => false | some j => decide ((getCtx s j).state ≠ 1)
  let s := toHost (draw s) (qBase s x.awSet x.awBase) (leBytes 8 k)
  modQueue s (qIndex q) (fun x =>
    { x with accept := k, entries := x.entries ++ [⟨k, data, false, if dead then some (eBadState, 1, 0, 0) else none⟩] })

def execQueueEntryAccept (q : QueueId) (s : State) : Out :=
  onUnit (queueOk q)
    (let x := getQueue s (qIndex q)
     -- an admin entry is accepted in SLEEP too, and wakes the package (R490)
     let asleep := decide (s.pwr.pstate = 3 ∧ q = .admin) && booted s
     if (running s || asleep) && x.enable && decide (x.accept < x.tail) then (if q = .admin then restartIdle (acceptEntry s q) else acceptEntry s q) else s)

/-- Every item of the step in this package is DONE (R413). -/
def stepDone (jb : Job) (r : StepRec) : Bool := jb.items.all (fun e => decide (e.2.step ≠ r.number ∨ e.2.state = .done))

/-- Opcodes of R411 by queue. -/
def opcodeKnown (q : QueueId) (op : Nat) : Bool :=
  match q with
  | .admin => decide (op ≤ 2)
  | .ctx _ _ => decide (op = 0 ∨ op = 0x10 ∨ op = 0x11 ∨ op = 0x12)

/-- The outcome of an entry as it stands: that of a STEP when its items are done; an opcode that the queue does not have is out of
range (DEDUCED, log 42). -/
def outcomeOf (s : State) (q : QueueId) (e : QEntry) : Option (Nat × Nat × Nat × Nat) :=
  match e.outcome, qJob q with
  | some o, _ => some o
  | none, some j =>
    if !opcodeKnown q (entryOp e) then some (eArgRange, 1, 0, 0)
    else
      match (getJob s j).steps.find? (fun r => decide (r.queue = some (qIndex q, e.k))) with
      | some r => if stepDone (getJob s j) r then some (0, 0, r.committedAt, 0) else none
      | none => none
  | none, none => if opcodeKnown q (entryOp e) then none else some (eArgRange, 1, 0, 0xFF)

/-- CTX of a completion: the context of the queue; of LOAD the one claimed; of UNLOAD the one named, if there is one. -/
def completionCtx (q : QueueId) (e : QEntry) (o : Nat × Nat × Nat × Nat) : Nat :=
  match qJob q with
  | some j => j
  | none => if entryOp e = 1 then o.2.2.2 else if entryOp e = 2 ∧ leField e.data 0x10 1 < 8 then leField e.data 0x10 1 else 0xFF

def completionBytes (q : QueueId) (e : QEntry) (o : Nat × Nat × Nat × Nat) : List Byte :=
  leBytes 8 e.k ++ leBytes 8 (leField e.data 8 8) ++ leBytes 2 o.1 ++ leBytes 1 o.2.1 ++ leBytes 1 (entryOp e) ++ leBytes 1 (completionCtx q e o) ++
    List.replicate 3 0 ++ leBytes 8 o.2.2.1

/-- A DONE step is the last one of its context (R420). -/
def noteStep (s : State) (q : QueueId) (e : QEntry) (o : Nat × Nat × Nat × Nat) : State :=
  match qJob q with
  | some j => if entryOp e = 0x10 ∧ o.2.1 = 0 then setCtx s j { getCtx s j with step := leField e.data 0x10 4 } else s
  | none => s

/-- The event of a completion written to queue q: that of its context, or of the admin queue (R425). -/
def completionEvent (q : Nat) : Nat := if q = adminQ then 240 else 128 + 4 * (q / 64)

def execCompletionWrite (q : QueueId) (s : State) : Out :=
  onUnit (queueOk q)
    (let x := getQueue s (qIndex q)
     match x.entries with
     | [] => s
     | e :: rest =>
       match outcomeOf s q e with
       | none => s
       | some o =>
         if !booted s ∨ s.failTrigger = 2 ∨ s.failTrigger = 3 ∨ x.cqhead + 2 ^ x.cqlog < e.k then s
         else
           let s := toHost (draw s) (qBase s x.cqSet x.cqBase + (e.k - 1) % 2 ^ x.cqlog * 32) (completionBytes q e o)
           raiseEvent (noteStep (modQueue s (qIndex q) (fun x => { x with written := e.k, entries := rest })) q e o) (completionEvent (qIndex q)))

/-! ### NOP -/

def execQueueNop (q : QueueId) (s : State) : Out :=
  onEntry q 0 s (fun s e => setOutcome s (qIndex q) e.k (if entryClean e.data [] then (0, 0, 0, 0xFF) else (eArgReserved, 1, 0, 0xFF)))

/-! ### LOAD (R244, R245, R411) -/

/-- The checks of the entry itself. -/
def loadEntryCode (im : JobImage) (l : List Byte) : Option Nat :=
  let len := leField l 0x18 8
  if !entryClean l [(0x10, 32)] then some eArgReserved
  else if leField l 0x10 8 % 64 ≠ 0 ∨ leField l 0x20 8 % 64 ≠ 0 then some eArgAlign
  else if len % 8 ≠ 0 ∨ len < 256 ∨ 2 ^ 40 < len then some eArgRange
  else if leField l 0x28 8 < reportSize im then some eArgRange
  else none

/-- The image that a LOAD entry names, its shards with their owners of epoch 1, in which a job starts (R388). -/
def loadedImage (s : State) (l : List Byte) (im : JobImage) : JobImage :=
  withOwners (readImage s (leField l 0x10 8) (leField l 0x18 8) im) 1

/-- The loader takes the next LOAD of the admin queue; the image is the one that its bytes spell (log 5). -/
def execLoadImage (sects : JobImage) (s : State) : Out :=
  onEntry .admin 1 s (fun s e =>
    let im := loadedImage s e.data sects
    if anyZeroing s then s
    else
      match loadEntryCode im e.data with
      | some c => failEntry s adminQ e.k c
      | none =>
        let report := leField e.data 0x20 8
        match loadChecks s im (leField e.data 0x18 8) with
        | .inr r => setOutcome (toHost (report_ s r) report (refusedReport r)) adminQ e.k (r.code, 1, 256, 0xFF)
        | .inl (j, u, beds) =>
          let t := commitLoad u j im beds
          setOutcome (toHost t report (loadReport s u j im beds)) adminQ e.k (0, 0, reportSize im, j))
where
  /-- The refusal's code is reported (R14). -/
  report_ (s : State) (r : Refused) : State := report s r.code

/-! ### UNLOAD (R160, R403) -/

def execUnloadEntry (s : State) : Out :=
  onEntry .admin 2 s (fun s e =>
    let j := leField e.data 0x10 1
    if !entryClean e.data [(0x10, 1)] then failEntry s adminQ e.k eArgReserved
    else if 7 < j then failEntry s adminQ e.k eArgRange
    else if (getCtx s j).state = 0 ∨ (getCtx s j).state = 3 then failEntry s adminQ e.k eBadState
    else beginEntry (sampleLevel (restartIdle (setCtx s j { getCtx s j with state := 3 })) (128 + 4 * j + 1)) adminQ e.k)

/-- Every entry accepted on the context's queues has its outcome. -/
def contextQuiet (s : State) (j : Nat) : Bool :=
  (List.range 64).all (fun q => (getQueue s (64 * j + q)).entries.all (fun e => (outcomeOf s (.ctx j q) e).isSome))

/-- A cell that no job holds. -/
def dropCell (free : Nat) (x : Cell) : Cell :=
  { endMissWait free x [] with
    mode := if x.mode = 3 then 3 else 0, item := none, tstate := [], waits := [], skip := [], pastEnd := [], ctl := [], vec := [], mat := [], flights := []
    missGranted := [], runs := [], quench := none, bellows := [], allocs := [], tx := [], rx := [] }

/-- A pavilion is given up: no beds, dispatch unit idle, power OFF (R213). -/
def dropPav (s : State) (p : Nat) : State :=
  let s := modPav s p (fun x =>
    { x with held := false, ctx := 0, power := .off, beds := [], dstate := 0, code := 0, dpc := 0, prog := [], table := [], scratch := [], args := []
             dreg := [], reserved := none, dwait := .none, starts := [] })
  sampleLevel ((List.range 64).foldl (fun s i => modCell s (64 * p + i) (dropCell s.free)) (draw s)) (64 + p)

/-- What a store die holds for the job goes: frames to the free pool, zeroed first, engines' work, requests. -/
def dropOnDie (j : Nat) (s : State) (d : Nat) : State :=
  let mine := fun (f : Frame) => decide (f.job = j) && decide (f.state ≠ .free ∧ f.state ≠ .zeroing ∧ f.state ≠ .retired ∧ f.state ≠ .system)
  let s := modStore s d (fun x =>
    { x with frames := x.frames.map (fun e => if mine e.2 then (e.1, ⟨.zeroing, 0⟩) else e)
             updRun := match x.updRun with | some r => (if r.job = j then none else some r) | none => none
             fetch := x.fetch.filter (fun f => decide (f.job ≠ j)), descrs := x.descrs.filter (fun r => decide (r.job ≠ j))
             transQueue := x.transQueue.filter (fun e => decide (e.1 ≠ j))
             transBusy := match x.transBusy with | some e => (if e.1 = j then none else some e) | none => none
             hearthQ := x.hearthQ.filter (fun r => match r.cell with | some (c, _) => decide ((getPav s (pavOfCell c)).ctx ≠ j) || !(getPav s (pavOfCell c)).held | none => true) })
  modFab s d (fun f =>
    { f with outs := f.outs.map (fun o => if o.job = j then { o with job := 8, forWho := .none } else o)
             tagWait := f.tagWait.filter (fun o => decide (o.job ≠ j))
             send := f.send.map (fun c =>
               let g := fun (p : SentPkt) => if p.job = some j then { p with job := none, who := none } else p
               { c with unacked := c.unacked.map g, waitQ := c.waitQ.map g }) })

/-- The job's objects return to the free pool with both words zero (R275). -/
def dropObjects (s : State) (j : Nat) : State :=
  let mine := fun (o : Nat) => decide (mget 0 s.objPages (o / 4096) = j + 1)
  { s with objs := s.objs.filter (fun e => !mine e.1), ports := s.ports.filter (fun e => !mine e.1)
           objPages := s.objPages.filter (fun e => decide (e.2 ≠ j + 1)) }

/-- The region entries of the job are cleared, with the lines of its coherent regions (R346, R369). -/
def dropRegions (s : State) (j : Nat) : State :=
  let gone := (s.regions.filter (fun e => e.2.valid && decide (e.2.ctx = j))).map (·.1)
  let s := { s with regions := s.regions.filter (fun e => !gone.contains e.1) }
  (List.range 4).foldl (fun s d => modFab s d (fun f => { f with dir := f.dir.filter (fun e => !gone.contains (e.1 / 2 ^ 34)) })) s

/-- All translations of the job are invalidated (R160): a page counts at the store die that holds its frame (log 106). -/
def dropTranslations (s : State) (j : Nat) : State :=
  let l := jobLeaves (getJob s j)
  let s := (List.range 4).foldl (fun s d =>
    invalidate s j d ((l.filter (fun e => match leafFrame e.2 with | some f => decide (f * 65536 < hostBase ∧ dieOfFrame s f = d) | none => false)).map (·.1))) s
  { s with cells := s.cells.map (fun e => if e.2.ctx = j then (e.1, { e.2 with tlb := [] }) else e) }

/-- The context becomes FREE (R160, R403): CTXROOT.VALID clears, then the translations go, then the frames. -/
def dropJob (s : State) (j : Nat) : State :=
  let pavs := (List.range 64).filter (fun p => (getPav s p).held && decide ((getPav s p).ctx = j))
  let s := (List.range 4).foldl (setRoot j false 0) s
  let s := (List.range 4).foldl (dropOnDie j) (dropTranslations s j)
  let s := dropRegions (dropObjects s j) j
  let s := { s with migs := mset [] j [] s.migs, exportRuns := s.exportRuns.filter (fun e => decide (e.job ≠ j))
                    waitMsgs := s.waitMsgs.filter (fun m => !pavs.contains (pavOfCell (m.agent / 8)))
                    sec := { s.sec with meas := mset [] (0x10 + j) [] s.sec.meas } }
  let s := pavs.foldl dropPav s
  setCtx (setJob s j Job.none) j { getCtx s j with state := 0 }

def execUnloadComplete (j : Nat) (s : State) : Out :=
  onUnit (jobOk j)
    (if (getCtx s j).state = 3 ∧ contextQuiet s j ∧ running s then
       let s := dropJob s j
       match (getQueue s adminQ).entries.find? (fun e => e.begun && e.outcome.isNone && decide (entryOp e = 2 ∧ leField e.data 0x10 1 = j)) with
       | some e => setOutcome s adminQ e.k (0, 0, 0, 0xFF)
       | none => s
     else s)

/-! ### STEP (R411, R412) -/

/-- The micro-batch table (R412), or the code of the first field that fails. -/
def readTable (s : State) (a : Nat) : Nat → Nat → List Batch ⊕ Nat
  | 0, _ => .inl []
  | n + 1, m =>
    let l := memRead s.host (a + 32 * m) 32
    let len := leField l 0 4
    if len = 0 then .inr eArgRange
    else if 4194304 < len then .inr eSeqTooLong
    else if leField l 4 4 ≠ 0 ∨ leField l 0x18 8 ≠ 0 then .inr eArgReserved
    else
      match readTable s a n (m + 1) with
      | .inl r => .inl (⟨len, leField l 8 8, leField l 0x10 8⟩ :: r)
      | .inr c => .inr c

def lastStep (jb : Job) : BitVec 32 := match jb.steps.getLast? with | some r => r.number | none => jb.image.firstStep

/-- The checks of a STEP entry. -/
def stepCode (s : State) (jb : Job) (l : List Byte) : Option Nat :=
  if !entryClean l [(0x10, 0x50)] then some eArgReserved
  else if !jb.loaded ∨ BitVec.ofNat 32 (leField l 0x10 4) ≠ lastStep jb + 1 then some eBadState
  else if leField l 0x14 4 = 0 ∨ 1048576 < leField l 0x14 4 then some eArgRange
  else if leField l 0x18 8 % 32 ≠ 0 then some eArgAlign
  else match readTable s (leField l 0x18 8) (leField l 0x14 4) 0 with | .inr c => some c | .inl _ => none

/-- The phases that a stage declares (R506). -/
def declaredPhases (d : StageDecl) : List Nat := [0, 1, 3].filter (fun ph => (entryWord d ph).isSome)

/-- The items of one stage for a micro-batch: one for each chunk and declared phase, on the bed of its replica (R214, R506). -/
def batchItems (s : State) (j : Nat) (step : BitVec 32) (st : Nat) (d : StageDecl) (jb : Job) (m : Nat × Nat) : Job :=
  let r := m.1 % d.replicas
  match bedFor s j st r with
  | none => jb
  | some (p, b) =>
    ((declaredPhases d).flatMap (fun ph => (List.range (chunksOf jb.image m.2)).map (fun ch => (ph, ch)))).foldl
      (fun jb e => addItem jb (newItem st r e.1 m.1 e.2 step p b)) jb

/-- The UPD items: for each store die and stage with shards owned there (R317). -/
def updItems (s : State) (step : BitVec 32) (jb : Job) : Job :=
  ((List.range 4).flatMap (fun d => (List.range jb.image.stages.length).map (fun st => (d, st)))).foldl (fun jb e =>
    if (ownedShards s jb e.1 e.2).isEmpty then jb else addItem jb { newItem e.2 0 4 0 0 step 0 0 with die := e.1 }) jb

def stepItems (s : State) (j : Nat) (step : BitVec 32) (batches : List Batch) (jb : Job) : Job :=
  let ms := (List.range batches.length).zip (batches.map (·.len))
  let jb := ((List.range jb.image.stages.length).zip jb.image.stages).foldl (fun jb e => ms.foldl (batchItems s j step e.1 e.2) jb) jb
  updItems s step jb

/-- A STEP that passes its checks: its items stand, and the entry waits for them. -/
def submitStep (s : State) (j q : Nat) (e : QEntry) (batches : List Batch) : State :=
  let number := BitVec.ofNat 32 (leField e.data 0x10 4)
  let r : StepRec :=
    { number := number, batches := batches, scalars := (List.range 16).map (fun i => BitVec.ofNat 32 (leField e.data (0x20 + 4 * i) 4)), queue := some (q, e.k)
      committedAt := 0 }
  let s := modJob s j (fun jb => { jb with steps := jb.steps ++ [r] })
  beginEntry (noteStuck (modJob s j (stepItems s j number batches)) j) q e.k

def execStepEntry (q : QueueId) (s : State) : Out :=
  onEntry q 0x10 s (fun s e =>
    match qJob q with
    | none => s
    | some j =>
      match stepCode s (getJob s j) e.data, readTable s (leField e.data 0x18 8) (leField e.data 0x14 4) 0 with
      | some c, _ => failEntry s (qIndex q) e.k c
      | none, .inl l => submitStep s j (qIndex q) e l
      | none, .inr c => failEntry s (qIndex q) e.k c)

/-! ### EXPORT (R330, R411) -/

/-- A range lies in a host buffer of the image. -/
def inHostBuf (im : JobImage) (va : Nat) : Bool :=
  im.regions.any (fun r => decide (r.kind = .hostBuf) && decide (r.va ≤ va ∧ va < r.va + r.size))

def findShard (im : JobImage) (identity shard : Nat) : Option Nat :=
  im.shards.findIdx? (fun sh => decide (sh.identity.toNat = identity ∧ sh.shard.toNat = shard))

/-- Bytes of the record of a shard (R331). -/
def recordSize (sh : ShardDecl) : Nat := 192 + workBytes sh + scaleBytes sh

def exportEntryCode (s : State) (j : Nat) (l : List Byte) : Nat ⊕ (Nat × ShardDecl) :=
  let jb := getJob s j
  if !entryClean l [(0x10, 12), (0x20, 24)] then .inl eArgReserved
  else
    match findShard jb.image (leField l 0x10 4) (leField l 0x14 4) with
    | none => .inl eArgRange
    | some i =>
      match jb.image.shards[i]? with
      | none => .inl eArgRange
      | some sh =>
        if !inHostBuf jb.image (leField l 0x20 8) then .inl eArgRange
        else if leField l 0x28 8 < recordSize sh then .inl eArgRange
        else if !ownsShard s sh ∨ (mfind jb.versions (verKey i (leField l 0x18 4))).isNone ∨ !versionLive s j i (leField l 0x18 4) then .inl eBadState
        else .inr (i, sh)

/-- The export holds its version until its record is written (R315). -/
def execExportEntry (q : QueueId) (s : State) : Out :=
  onEntry q 0x11 s (fun s e =>
    match qJob q with
    | none => s
    | some j =>
      match exportEntryCode s j e.data with
      | .inl c => failEntry s (qIndex q) e.k c
      | .inr (i, _) =>
        let x : ExportRun :=
          { job := j, queue := qIndex q, k := e.k, shard := i, version := leField e.data 0x18 4, buf := leField e.data 0x20 8, obj := leField e.data 0x30 8 }
        beginEntry { s with exportRuns := s.exportRuns ++ [x] } (qIndex q) e.k)

/-! ### IMPORT (R382, R384, R411) -/

/-- The descriptor that 256 bytes spell. -/
def parseDescr (l : List Byte) : Descr :=
  let dims := fun (off : Nat) => (List.range 6).map (fun i => leField l (off + 4 * i) 4)
  let n := leField l 1 1
  let beyond := [0x40, 0x58, 0x70, 0x88, 0xA0, 0xB8].any (fun off => ((dims off).drop n).any (· ≠ 0))
  { kind := leField l 0 1, ndim := n, sfmt := BitVec.ofNat 8 (leField l 2 1), dfmt := BitVec.ofNat 8 (leField l 3 1)
    rnd := BitVec.ofNat 8 (leField l 4 1)
    rsv := decide (leField l 5 3 ≠ 0 ∨ leField l 0x38 8 ≠ 0 ∨ leField l 0xD0 48 ≠ 0) || beyond
    stream := BitVec.ofNat 32 (leField l 8 4), v := BitVec.ofNat 32 (leField l 0xC 4), obj := BitVec.ofNat 64 (leField l 0x10 8)
    sbase := BitVec.ofNat 64 (leField l 0x18 8), sscale := BitVec.ofNat 64 (leField l 0x20 8), dbase := BitVec.ofNat 64 (leField l 0x28 8)
    dscale := BitVec.ofNat 64 (leField l 0x30 8), first := dims 0x40, count := dims 0x58, sorg := dims 0x70, sext := dims 0x88, dorg := dims 0xA0
    dext := dims 0xB8, tensor := 0 }

/-- The store die that holds an address of the job; die 0 where no page of store or HBM stands (log 43). -/
def dieHolding (s : State) (jb : Job) (va : Nat) : Nat :=
  match walk jb none va with
  | .leaf ⟨.phys a, _, _, _, _, _, _, _⟩ => if a < hostBase then dieOfAddr s a else 0
  | _ => 0

def importCode (d : Descr) (l : List Byte) : Option Nat :=
  if !entryClean l [(0x10, 12)] then some eArgReserved
  else if leField l 0x10 8 % 64 ≠ 0 then some eArgAlign
  else match descCode d with
    | some c => some c
    | none => if d.kind ≠ 2 then some eArgRange else none

def execImportEntry (q : QueueId) (s : State) : Out :=
  onEntry q 0x12 s (fun s e =>
    match qJob q with
    | none => s
    | some j =>
      let d := parseDescr (memRead s.host (leField e.data 0x10 8) 256)
      match importCode d e.data with
      | some c => failEntry s (qIndex q) e.k c
      | none =>
        let die := dieHolding s (getJob s j) d.dbase.toNat
        startDescr (beginEntry s (qIndex q) e.k) die j d (BitVec.ofNat 32 (leField e.data 0x18 4)) none (some (qIndex q, e.k)))

end Sys2Proof.Machine
end

