-- ==== Sys2Proof/Machine/Resets.lean ====
section
/-!
DEFINITION. Machine/Resets.lean: what the birth record and the journal say (R456, R458), the recovery of queues (R407), the fail-safe state
(R448 to R450), resets of the package, a stack, a compute die, a pavilion, a link (R442 to R446), an HBM stack that reinitialises on its
own (R438).
-/
namespace Sys2Proof.Machine

/-! ### The birth record and the journal (R458) -/

/-- The stack that a record is about. -/
def recordDie (r : JRec) : Nat :=
  if r.typ ≤ 3 then r.index / 1024
  else if r.typ = 4 ∨ r.typ = 12 then r.index / 2
  else if r.typ = 5 ∨ r.typ = 6 then r.index / 12
  else if r.typ = 7 ∨ r.typ = 8 then r.index
  else r.index / 16

/-- Whether it is about something on the compute die. -/
def recordCompute (r : JRec) : Bool := decide (r.typ = 1 ∨ r.typ = 2 ∨ r.typ = 9 ∨ r.typ = 10 ∨ r.typ = 11)

/-- The register that a record governs takes its value (R456). -/
def applyRecord (s : State) (r : JRec) : State :=
  let i := r.index
  if r.typ = 1 then modCell s i (fun x => { x with sparesUsed := x.sparesUsed + 1, spared := x.spared ++ [r.value / 64] })
  else if r.typ = 2 then modCell s i (fun x => { x with mode := 3 })
  else if r.typ = 3 then
    let f0 := bankBase i / 65536
    modStore (modCell s i (fun x => { x with mode := 3 })) (i / 1024) (fun x =>
      { x with frames := (List.range 24).foldl (fun m k => mput (f0 + k) ⟨.retired, 0⟩ m) x.frames })
  else if r.typ = 4 then modHbm s i (fun x => { x with pcRet := x.pcRet ||| (1#64 <<< r.value) })
  else if r.typ = 5 then
    modLink s i (fun x =>
      let x := { x with lanesRetired := if x.lanesRetired.contains r.value then x.lanesRetired else x.lanesRetired ++ [r.value] }
      if lanesUsable x = 0 then { x with state := 6 } else x)
  else if r.typ = 6 then modLink s i (fun x => { x with state := 6 })
  else if r.typ = 7 then modUcie s i (fun x => { x with repaired := x.repaired + 1, laneUse := x.laneUse ++ [(r.value, decide (64 ≤ r.value))] })
  else if r.typ = 8 then modUcie s i (fun x => { x with state := 2 })
  else if r.typ = 9 then
    modPav s i (fun x => { x with voff := r.value % 16, voffPend := r.value % 16, aclkDown := r.value / 16, aclkPend := r.value / 16 })
  else if r.typ = 10 then
    (List.range 64).foldl (fun s k => modCell s (64 * i + k) (fun x => { x with mode := 3 })) (modPav s i (fun x => { x with retired := true }))
  else if r.typ = 12 then modHbm s i (fun x => { x with state := 3, pcRet := -1#64, usable := [] })
  else s

/-- The records that hold: birth record, then journal (R458). -/
def allRecords (s : State) : List JRec := s.flash.birth ++ journalRecords s.flash

def applyRecords (s : State) (p : JRec → Bool) : State := ((allRecords s).filter p).foldl applyRecord s

/-! ### Queue recovery (R407) -/

/-- The code of an accepted entry that will never be executed: the job's fault code, or E_FAIL_SAFE. -/
def recoveryCode (s : State) (q : Nat) : Nat :=
  if q < adminQ ∧ ((getCtx s (q / 64)).state = 2 ∨ (getJob s (q / 64)).faulted) then (getCtx s (q / 64)).code else eFailSafe

/-- Every accepted entry without a completion will complete NOT_EXECUTED; of contexts that go on, `live`, none (log 44). -/
def recoverQueues (s : State) (live : Nat → Bool) : State :=
  { s with queues := s.queues.map (fun e => (e.1, if live e.1 then e.2 else failEntries (recoveryCode s e.1) e.2)) }

/-- The completions that recovery owes are written to the rings, in order (R407); the TAIL limit of R404 leaves each its slot. -/
def writeRecovered (s : State) (q : Nat) (x : Queue) : State :=
  let id : QueueId := if q = adminQ then .admin else .ctx (q / 64) (q % 64)
  x.entries.foldl (fun s e =>
    match e.outcome with
    | some o => raiseEvent (toHost (draw s) (qBase s x.cqSet x.cqBase + (e.k - 1) % 2 ^ x.cqlog * 32) (completionBytes id e o)) (completionEvent q)
    | none => s) s

/-! ### Fail-safe (R448 to R450) -/

/-- Every HBM stack that is up goes to self-refresh; a change of state raises its event (R425). -/
def setHbmState (s : State) (h st : Nat) : State :=
  if (getHbm s h).state = 3 ∨ (getHbm s h).state = st then s else raiseEvent (modHbm s h (fun x => { x with state := st })) (216 + h)

def isCmp : Rail → Bool
  | .cmp _ => true
  | _ => false

/-- The compute rails go off; their PG inputs fall with them (log 45). -/
def cutCompute (s : State) : State :=
  { s with pwr := { s.pwr with en := s.pwr.en.filter (fun r => !isCmp r), pg := s.pwr.pg.filter (fun r => !isCmp r) } }

/-- Cycles that were skipped since the last count, in eighths of a nominal cycle: DUTY of every 8 (R493). Outside ACTIVE the clocks stand
and the throttle with them (R502). -/
def countSkipped (s : State) : State :=
  let n := if s.pwr.pstate = 2 then (s.ember - s.pwr.throttleAt) * 90 * s.pwr.duty else 0
  { s with pwr := { s.pwr with skipped := (s.pwr.skipped + n) % 2 ^ 35, throttleAt := s.ember } }

/-- The fail-safe state is entered (R449); the first trigger is recorded. -/
def failSafe (s : State) (trigger : Nat) : State :=
  if s.failTrigger ≠ 0 ∨ s.pwr.pstate = 0 then s
  else
    let s := ((List.range 8).filter (fun j => decide ((getCtx s j).state = 1))).foldl (fun s j => jobFault s j eFailSafe) s
    let s := recoverQueues s (fun _ => false)
    let s := (List.range 48).foldl linkFailSafe s
    let s := (List.range 8).foldl (fun s h => if (getHbm s h).state = 1 then setHbmState s h 2 else s) s
    let s := cutCompute (countSkipped s)
    let s := { s with failTrigger := trigger, pwr := { s.pwr with pstate := 4, faultN := false, sleeping := 0 }
                      imageMem := [], sec := { s.sec with bootState := if s.sec.bootState = 2 then 1 else s.sec.bootState } }
    sampleLevel s 244

/-! ### RESETCTL (R443) -/

def resetOff : Nat := 0x4000

/-- The package reset itself (R446): everything of the accelerator portion returns to its reset value and memory to zeros (R504); the record
flash, the ember counter, the debug state (R465, R476), the accepted entries of the queues (R407) and what the board drives stay. -/
def packageReset (s : State) : State :=
  let t := State.reset
  { t with
    pending := s.pending, free := s.free, rdata := s.rdata, hdmData := s.hdmData, ember := s.ember, host := s.host, ddr5 := s.ddr5
    queues := (recoverQueues s (fun _ => false)).queues, msiOut := s.msiOut, wires := s.wires, spdmOut := s.spdmOut, sent := s.sent
    events := s.events, flash := s.flash
    sec := { Sec.reset with debug := s.sec.debug, debugScope := s.sec.debugScope, coldDone := s.sec.coldDone, pufLocked := s.sec.debug }
    pwr := { Pwr.reset with row := 5, en := [.aux, .sto, .hbm, .ser], pg := s.pwr.pg.filter (fun r => !isCmp r), refLost := s.pwr.refLost
                            energy := s.pwr.energy, prochotN := s.pwr.prochotN, thermtripN := s.pwr.thermtripN, pkgRstN := s.pwr.pkgRstN
                            idleSince := s.ember, throttleAt := s.ember } }

/-- A package reset is requested: the stacks are held and drain first, where any runs (R446). -/
def requestPackage (s : State) : State :=
  if s.pwr.pstate ≠ 2 ∨ (List.range 4).all (fun d => decide (2 ≤ (getRst s d).phase)) then packageReset s
  else (List.range 4).foldl (fun s d => startHold s d false) { s with rstPkg := true }

/-- A stack or compute die that is up and not asked for already. -/
def mayReset (s : State) (d : Nat) : Bool := decide ((getRst s d).phase = 0) && !(getRst s d).wanted

/-- A stack reset starts with the hold; asked for in SLEEP, it waits for the exit (R491). -/
def requestStack (s : State) (d : Nat) (computeOnly : Bool) : State :=
  if s.pwr.pstate = 3 then setRst s d { getRst s d with computeOnly := computeOnly, wanted := true } else startHold s d computeOnly

/-- The domain and index of a write; the checks of R443 in order. -/
def resetChecks (s : State) (d n : Nat) (v : Word) : List (Bool × Nat) :=
  let x := getPav s n
  [(decide (bits v.toNat 59 6 ≠ 0), eArgReserved),
   (decide (d = 0 ∨ 5 < d) || decide (d = 1 ∧ n ≠ 0) || decide ((d = 2 ∨ d = 3) ∧ 3 < n) || decide (d = 5 ∧ 47 < n), eArgRange),
   (decide (s.failTrigger ≠ 0 ∧ d ≠ 1), eBadState),
   (decide (d = 1) && s.rstPkg, eBadState),
   (decide (d = 2 ∨ d = 3) && !mayReset s n, eBadState),
   (decide (d = 4) && (x.retired || decide (mget 0 s.pavRsts n ≠ 0) || !mayReset s (dieOfPav n) || (x.held && decide ((getCtx s x.ctx).state = 1))), eBadState),
   (decide (d = 5 ∧ (getLink s n).state = 6), eBadState)]

/-- Launches stop (R446 step 1); pavRsts keeps the tick plus 1. -/
def startPavReset (s : State) (p : Nat) : State :=
  let s := modPav s p (fun x => { x with reserved := none, dwait := .none, starts := [], dstate := 0 })
  sampleLevel { s with pavRsts := mset 0 p (s.ember + 1) s.pavRsts } (64 + p)

/-- A write of LODGE.RESETCTL; before the firmware runs, only a package reset is taken (R462). -/
def writeResetctl (s : State) (v : Word) : State :=
  let d := bits v.toNat 63 60
  let n := bits v.toNat 5 0
  if powered s && !booted s && decide (v = 0x1000000000000000) then requestPackage s
  else
    checkWrite s lodgeBase resetOff (resetChecks s d n v) (fun s =>
      if d = 1 then requestPackage s
      else if d = 2 then requestStack s n false
      else if d = 3 then requestStack s n true
      else if d = 4 then startPavReset s n
      else linkDown s n)

/-- The write names this domain. -/
def onDomain (d : Nat) (v : Word) (s : State) : Out := .next (if bits v.toNat 63 60 = d then writeResetctl s v else s)

def execResetPackage (v : Word) (s : State) : Out := onDomain 1 v s
def execResetStack (v : Word) (s : State) : Out := onDomain 2 v s
def execResetComputeDie (v : Word) (s : State) : Out := onDomain 3 v s
def execResetPavilion (v : Word) (s : State) : Out := onDomain 4 v s
def execResetLink (v : Word) (s : State) : Out := onDomain 5 v s

/-- A fault that the store die detects in itself resets the stack; one of the dispatch units or the cell mesh, the compute die (R442). -/
def execStoreDieSelfFault (d : Nat) (s : State) : Out :=
  onUnit (storeOk d) (if booted s ∧ s.failTrigger = 0 ∧ mayReset s d then requestStack s d false else s)

def execComputeDieSelfFault (d : Nat) (s : State) : Out :=
  onUnit (storeOk d) (if running s ∧ mayReset s d then requestStack s d true else s)

/-! ### A stack or compute die in reset (R444, R445) -/

/-- The job has a bed, a frame (its regions, shards and XS regions lie in frames) or a synchronisation object on the stack. -/
def jobOnStack (s : State) (d j : Nat) : Bool :=
  (getJob s j).loaded &&
    ((List.range 16).any (fun i => (getPav s (16 * d + i)).held && decide ((getPav s (16 * d + i)).ctx = j)) ||
      !(jobsWithFrames s d 0 0x1000000).all (fun k => decide (k ≠ j)) ||
      s.objPages.any (fun e => decide (e.2 = j + 1 ∧ e.1 / 16 = d)) ||
      (getJob s j).image.shards.any (fun h => decide (h.ownerDie = d ∧ h.ownerPkg = s.pkgId)))

def onDie (d : Nat) (compute : Bool) (base : Nat) : Bool := decide (blockDie base = some (d, compute))

/-- What a pavilion is after the reset of its compute die: at reset values, but for what TEMPER.PAV shows of it, which the Lodge region keeps
(R18, R455). -/
def Pav.afterReset (x : Pav) : Pav := { Pav.reset with retirePend := x.retirePend, slack := x.slack, drift := x.drift }

/-- The compute die: cells, pavilions and their error registers at reset values, then the records. -/
def resetCompute (s : State) (d : Nat) : State :=
  let s := ((List.range 16).map (16 * d + ·)).foldl (fun s p => modPav s p Pav.afterReset) s
  let s := { s with cells := s.cells.filter (fun e => decide (dieOfCell e.1 ≠ d))
                    pavRsts := s.pavRsts.filter (fun e => decide (dieOfPav e.1 ≠ d)), errs := s.errs.filter (fun e => !onDie d true e.1)
                    waitMsgs := s.waitMsgs.filter (fun m => decide (dieOfCell (m.agent / 8) ≠ d)) }
  let s := applyRecords s (fun r => decide (recordDie r = d) && (recordCompute r || decide (r.typ = 3)))
  (List.range 16).foldl (fun s i => sampleLevel s (64 + 16 * d + i)) s

/-- Bytes of the store and the HBM of a die outside its system area. -/
def onMemory (s : State) (d a : Nat) : Bool := decide (dieOfFrame s (a / 65536) = d) && !inSystem s a

/-- All frames of jobs go back and read zero; the synchronisation objects are those of no job (R444 step 6, R445, R504). -/
def freeDie (s : State) (d : Nat) : State :=
  let s := { s with mem := s.mem.filter (fun e => !onMemory s d e.1), upsets := s.upsets.filter (fun e => !onMemory s d e.1)
                    objs := s.objs.filter (fun e => decide (dieOfObj e.1 ≠ d)), ports := s.ports.filter (fun e => decide (dieOfObj e.1 ≠ d))
                    objPages := s.objPages.filter (fun e => decide (e.1 / 16 ≠ d)) }
  -- the entries of every job on the die are lost with their frames (R268)
  let s := { s with jobs := s.jobs.map (fun e =>
    (e.1, { e.2 with ices := e.2.ices.map (fun i => if i.1 = d then (d, { i.2 with entries := [], moves := [] }) else i) })) }
  modStore s d (fun x =>
    { x with frames := x.frames.filter (fun e => decide (e.2.state = .retired)), hearthQ := [], updRun := none, fetch := [], transBusy := none
             transQueue := [], descrs := [] })

/-- The store die: its registers and those of its HBM controllers, fabric unit, links and UCIe module (R442). -/
def resetStoreDie (s : State) (d : Nat) : State :=
  let s := ((List.range 12).map (12 * d + ·)).foldl linkDown s
  let s := { s with stores := s.stores.filter (fun e => decide (e.1 ≠ d)), fabs := s.fabs.filter (fun e => decide (e.1 ≠ d))
                    errs := s.errs.filter (fun e => !onDie d false e.1) }
  let s := ((List.range 12).map (12 * d + ·)).foldl (fun s l =>
    modLink s l (fun x => { Link.reset with state := x.state, since := x.since })) s
  let s := [2 * d, 2 * d + 1].foldl (fun s h =>
    modHbm (setHbmState s h 0) h (fun x => { Hbm.reset with state := x.state, usable := x.usable })) s
  let s := if (getUcie s d).state = 1 then raiseEvent s (212 + d) else s
  applyRecords (setUcie s d Ucie.reset) (fun r => decide (recordDie r = d) && (!recordCompute r))

/-- Every job on the stack faults (R444 step 5). -/
def faultStack (s : State) (d : Nat) : State :=
  { faultJobs s ((List.range 8).filter (jobOnStack s d)) eStackReset with rstCause := eStackReset }

/-- The rail of the compute die goes off, and on again as it reinitialises (R444 step 4, R483 row 6). -/
def cycleRail (s : State) (d : Nat) : State :=
  { s with pwr := { s.pwr with pg := s.pwr.pg.filter (fun r => decide (r ≠ .cmp d)), rowSince := s.ember } }

/-- Ticks from the end of the hold until the dies may be up (R442). -/
def resetTicks (computeOnly : Bool) : Nat := if computeOnly then 250000 else 2500000

/-- Steps 3 to 5 of R444, and the beginning of step 6. -/
def resetDies (s : State) (d : Nat) : State :=
  let only := (getRst s d).computeOnly
  let s := faultStack s d
  let s := resetCompute s d
  let s := if only then s else cycleRail (resetStoreDie (freeDie s d) d) d
  bumpDist (setRst s d { getRst s d with phase := 3, since := s.ember + resetTicks only })

/-- The drain ends (R444 step 3). Of a package reset, the last stack's drain is followed by the reset itself. -/
def execStackDrainEnd (d aborted : Nat) (s : State) : Out :=
  onUnit (storeOk d)
    (if (getRst s d).phase ≠ 1 ∨ (s.failTrigger ≠ 0 ∧ !s.rstPkg) then s
     else
       let s := { advanceTo s ((getRst s d).since + 46) with rstAborted := aborted % 65536 }
       if s.rstPkg then
         let s := bumpDist (setRst s d { getRst s d with phase := 2 })
         if (List.range 4).all (fun k => decide (2 ≤ (getRst s k).phase)) then packageReset s else s
       else resetDies s d)

/-- STACK_HOLD is not acknowledged (R448). -/
def execStackHoldTimeout (d : Nat) (s : State) : Out :=
  onUnit (storeOk d) (if (getRst s d).phase = 1 ∧ s.failTrigger = 0 then failSafe (advanceTo s ((getRst s d).since + 92)) 4 else s)

/-- An HBM stack ends its training: active over the pseudo-channels that are left, or, after three attempts, retired whole (R154, R189, R437,
R439). -/
def trainHbm (s : State) (h : Nat) (ok : Bool) : State :=
  let x := getHbm s h
  if x.state = 3 then s
  else if !ok then retireHbm s h
  else
    setHbmState (modHbm s h (fun x =>
      { x with usable := (List.range 64).filter (fun i => !x.pcRet.getLsbD i), reinitWanted := false })) h 1

/-- The module of the stack is trained again, unless retired. -/
def trainUcie (s : State) (u : Nat) : State :=
  if (getUcie s u).state = 0 then raiseEvent (modUcie s u (fun x => { x with state := 1 })) (212 + u) else s

/-- A stack that cannot be reinitialised stays in reset; its pavilions are retired (R444 step 6). -/
def failStack (s : State) (d : Nat) : State :=
  let s := setRst s d { getRst s d with phase := 2 }
  ((List.range 16).map (16 * d + ·)).foldl retirePav s

/-- Links and compute rails stay as they are in a compute-die reset; a whole stack needs its compute rail and an HBM stack (R439, R444, R445). -/
def execStackReinitComplete (d : Nat) (ok : Bool) (hbmOk : List Bool) (s : State) : Out :=
  onUnit (storeOk d)
    (let r := getRst s d
     if r.phase ≠ 3 ∨ !running s ∨ (!r.computeOnly && !s.pwr.pg.contains (.cmp d)) then s
     else
       let s := advanceTo s r.since
       let s := if r.computeOnly then freeDie s d
                else ([2 * d, 2 * d + 1].zip hbmOk).foldl (fun s e => trainHbm s e.1 e.2) s
       if !ok ∨ ((getHbm s (2 * d)).state = 3 ∧ (getHbm s (2 * d + 1)).state = 3) then failStack s d
       else
         let s := if r.computeOnly then s else trainUcie (freeDie s d) d
         let s := setRst s d StackRst.reset
         let s := if r.boot then s else bumpDist s
         recoverQueues s (fun q => decide (q = adminQ) || decide ((getCtx s (q / 64)).state = 1 ∨ (getCtx s (q / 64)).state = 3)))

/-- An HBM stack that reinitialises on its own: no job holds frames on it (R438). -/
def execHbmReinitComplete (h : Nat) (ok : Bool) (s : State) : Out :=
  onUnit (hbmOk h)
    (let fr := hbmFrames s h
     if !(getHbm s h).reinitWanted ∨ !(jobsWithFrames s (h / 2) fr.1 fr.2).isEmpty ∨ !running s ∨ !stackUp s (h / 2) then s
     else trainHbm s h ok)

/-! ### A pavilion (R446) -/

/-- Steps 2 to 4: cells are halted, their items NOT_EXECUTED, every cell zeroed, the pavilion OFF with no job. R446 zeroes the cells as R56
gives and does not speak of the counters and records of R97 to R99: ISSUE, MISSWAIT, FAULT, FAULTAT and VPORT.RETRIES are kept (DESIGN
CHOICE, log 104). -/
def haltPav (s : State) (p : Nat) : State :=
  let x := getPav s p
  let s := x.beds.foldl (fun s e => match e.2.item with | some i => abandonItem s x.ctx i | none => s) s
  let s := dropPav s p
  let s := (List.range 64).foldl (fun s i =>
    modCell s (64 * p + i) (fun y =>
      { y with sreg := [], pc := [], streamId := [], tile := [], acc := [], mask := [], written := [], progWords := 0, prog := [], store := [], slots := [] })) s
  sampleLevel s (64 + p)

def execPavilionResetHalt (p : Nat) (s : State) : Out :=
  onUnit (pavOk p)
    (let t := mget 0 s.pavRsts p
     if t = 0 ∨ !booted s then s
     else
       let s := haltPav s p
       advanceTo { s with pavRsts := mset 0 p 0 s.pavRsts } (t - 1 + 5000))

/-! ### Triggers of the fail-safe state (R448, R450) -/

/-- A write of LODGE.FAILSAFE. -/
def writeFailsafe (s : State) (v : Word) : State :=
  checkWrite s lodgeBase 0x4010 [(decide (bits v.toNat 62 56 ≠ 0 ∨ bits v.toNat 47 1 ≠ 0), eArgReserved)]
    (fun s => if bitAt v.toNat 0 then failSafe s 5 else s)

def execFailsafeEnter (v : Word) (s : State) : Out := .next (if bitAt v.toNat 0 then writeFailsafe s v else s)

def execLodgeWatchdogExpiry (s : State) : Out :=
  .next (if booted s ∧ (List.range 8).any (fun j => decide ((getCtx s j).state = 1)) then failSafe s 2 else s)

def execLodgeStateUncorrectable (s : State) : Out := .next (failSafe s 3)

end Sys2Proof.Machine
end

