-- ==== Sys2Proof/Machine/Power.lean ====
section
/-!
DEFINITION. Machine/Power.lean: rails (R481 to R485), reference clocks (R488), power states and SLEEP (R489 to R491), the throttle and thermal
trips (R493, R494).
-/
namespace Sys2Proof.Machine

/-! ### Power-up (R483) -/

/-- The rail groups that a row enables. -/
def rowRails (row : Nat) : List Rail :=
  if row = 2 then [.aux] else if row = 3 then [.sto, .hbm] else if row = 4 then [.ser] else []

def allCmp : List Rail := [.cmp 0, .cmp 1, .cmp 2, .cmp 3]

/-- A row is entered: its enables are asserted. -/
def enterRow (s : State) (row : Nat) : State :=
  { s with pwr := { s.pwr with row := row, rowSince := s.ember, en := s.pwr.en ++ (rowRails row).filter (fun r => !s.pwr.en.contains r) } }

/-- The next row begins when every power-good of this one is high; one that was high before counts now (R483). -/
def advanceRows : Nat → State → State
  | 0, s => s
  | n + 1, s =>
    if 2 ≤ s.pwr.row ∧ s.pwr.row ≤ 4 ∧ (rowRails s.pwr.row).all (fun r => s.pwr.pg.contains r) then advanceRows n (enterRow s (s.pwr.row + 1)) else s

def addPg (s : State) (r : Rail) : State := if s.pwr.pg.contains r then s else { s with pwr := { s.pwr with pg := s.pwr.pg ++ [r] } }
def dropPg (s : State) (r : Rail) : State := { s with pwr := { s.pwr with pg := s.pwr.pg.filter (· ≠ r) } }

def execPowerGoodRise (r : Rail) (s : State) : Out := onUnit (railOk r) (if powered s then advanceRows 3 (addPg s r) else s)

/-! ### Rail faults (R485) -/

/-- A rail fault, or the loss of a clock that is signalled as one: fail-safe trigger 1; before row 5 every accelerator rail but VAUX goes off. -/
def railFault (s : State) (fault : Nat) : State :=
  let early := decide (s.pwr.row < 5)
  let s := failSafe { s with pwr := { s.pwr with fault := if s.failTrigger = 0 then fault else s.pwr.fault } } 1
  if early then { s with pwr := { s.pwr with row := 0, en := s.pwr.en.filter (· = .aux), faultN := false } } else s

/-! ### Power-down (R484) -/

/-- The groups in the order in which their enables are deasserted. -/
def downOrder : List (List Rail) := [allCmp, [.ser], [.hbm], [.sto], [.aux]]

/-- The next enable group that is still asserted is deasserted; power-down is over when none is. -/
def deassertNext (s : State) : State :=
  match downOrder.find? (fun g => g.any (fun r => s.pwr.en.contains r)) with
  | some g => { s with pwr := { s.pwr with en := s.pwr.en.filter (fun r => !g.contains r), rowSince := s.ember } }
  | none => s

/-- The group deasserted last: those that are off, up to the first that is on. -/
def lastDown (s : State) : List Rail := ((downOrder.takeWhile (fun g => !g.any (fun r => s.pwr.en.contains r))).getLast?).getD []

/-- PKG_RST_N falls: the state of the accelerator portion is lost as at a package reset, and the rails go down. -/
def execPowerDownRequest (s : State) : Out :=
  .next (if powered s ∧ s.pwr.row ≠ 7 then
    let en := s.pwr.en
    let pg := s.pwr.pg
    let s := packageReset { s with pwr := { s.pwr with pkgRstN := false } }
    let s := { s with pwr := { s.pwr with row := 7, en := en, pg := pg, pkgRstN := false } }
    let s := deassertNext s
    -- with no compute rail asserted the first group is deasserted at once
    s
  else s)

/-- 2,500 ticks after an enable the next one is deasserted. -/
def execPowerDownStepTimer (s : State) : Out :=
  .next (if s.pwr.row = 7 ∧ !s.pwr.en.isEmpty then deassertNext (advanceTo s (s.pwr.rowSince + 2500)) else s)

/-- A power-good falls: a fault if its enable is asserted; in a power-down, the next group follows once all of this one have fallen. -/
def execPowerGoodFall (r : Rail) (s : State) : Out :=
  onUnit (railOk r)
    (if !powered s ∨ !s.pwr.pg.contains r then s
     else
       let s := dropPg s r
       if s.pwr.en.contains r then railFault s 1
       else if s.pwr.row = 7 ∧ (lastDown s).contains r ∧ !(lastDown s).any (fun x => s.pwr.pg.contains x) then deassertNext s
       else s)

/-- An enabled rail whose power-good has not risen within its 25,000 ticks (R483, R485). -/
def execPowerGoodTimeout (r : Rail) (s : State) : Out :=
  onUnit (railOk r)
    (if powered s ∧ s.pwr.row ≠ 7 ∧ s.pwr.en.contains r ∧ !s.pwr.pg.contains r then railFault (advanceTo s (s.pwr.rowSince + 25000)) 1 else s)

/-- A rail is outside tolerance for 250 ticks. -/
def execRailOutOfTolerance (s : State) : Out := .next (if powered s ∧ s.pwr.row ≠ 7 then railFault (passTicks s 250) 1 else s)

/-- The board takes VAON away: everything but the record flash is lost; the queues' entries are known from host memory (R407, R484). -/
def execPowerLoss (s : State) : Out :=
  .next (
    let t := packageReset s
    { t with ember := 0, sec := Sec.reset, pwr := { Pwr.reset with row := 0, en := [], pg := [], pstate := 0, pkgRstN := s.pwr.pkgRstN } })

/-- PKG_RST_N rises: power-up from row 2; without VAON, the board applies it first (log 46). -/
def execPowerUpRequest (s : State) : Out :=
  .next (if s.pwr.pstate = 0 then
      let s := { s with pwr := { Pwr.reset with pkgRstN := true, row := 1, en := [], pg := s.pwr.pg } }
      advanceRows 3 (enterRow (passTicks s 2500) 2)
    else if !s.pwr.pkgRstN then advanceRows 3 (enterRow { s with pwr := { s.pwr with pkgRstN := true, faultN := true, fault := 0 } } 2)
    else s)

/-! ### Reference clocks (R488) -/

def execRefclkLoss (k : RefClk) (s : State) : Out :=
  onUnit (clkOk k)
    (if !powered s ∨ s.pwr.refLost.contains k then s
     else
       let s := passTicks s 50
       let s := { s with pwr := { s.pwr with refLost := s.pwr.refLost ++ [k] } }
       match k with
       | .ser d => ((List.range 12).map (12 * d + ·)).foldl linkDown s
       | _ => railFault s 2)

def execRefclkReturn (k : RefClk) (s : State) : Out :=
  onUnit (clkOk k) { s with pwr := { s.pwr with refLost := s.pwr.refLost.filter (· ≠ k) } }

/-! ### SLEEP (R490, R491) -/

/-- No stack is in reset, or about to be. -/
def stacksUp (s : State) : Bool := (List.range 4).all (fun d => mayReset s d)

/-- No context is LOADED; no admin entry waits. -/
def idle (s : State) : Bool :=
  (List.range 8).all (fun j => decide ((getCtx s j).state ≠ 1)) &&
    (getQueue s adminQ).entries.isEmpty && decide ((getQueue s adminQ).tail ≤ (getQueue s adminQ).accept)

/-- SLEEP_TICKS after the last context left LOADED and the last HDM access, and 2,500 ticks for the entry. -/
def execSleepEntry (s : State) : Out :=
  .next (if running s ∧ s.pwr.sleepEn ∧ idle s ∧ stacksUp s then
    let s := advanceTo s (max s.pwr.idleSince s.hdmAt + s.pwr.sleepTicks)
    let s := passTicks s 2500
    let s := (List.range 64).foldl (fun s p => modPav s p (fun x => { x with power := .off })) s
    let s := (List.range 8).foldl (fun s h => if (getHbm s h).state = 1 then setHbmState s h 2 else s) s
    let s := cutCompute (countSkipped s)
    { s with pwr := { s.pwr with pstate := 3, sleeping := 1 } }
  else s)

/-- The exit begins: the compute rails are enabled, and from tick 250 store and HBM serve accesses. -/
def wake (s : State) : State :=
  if s.pwr.pstate ≠ 3 ∨ s.pwr.sleeping = 2 then s
  else
    let s := { s with pwr := { s.pwr with sleeping := 2, rowSince := s.ember, en := s.pwr.en ++ allCmp } }
    let s := passTicks s 250
    (List.range 8).foldl (fun s h => if (getHbm s h).state = 2 then setHbmState s h 1 else s) s

/-- A wake condition other than an HDM access, which wakes by itself: an accepted admin entry, SLEEP_EN = 0, a stack reset requested. -/
def wakeWanted (s : State) : Bool := !(getQueue s adminQ).entries.isEmpty || !s.pwr.sleepEn || (List.range 4).any (fun d => (getRst s d).wanted)

def execSleepExit (s : State) : Out := .next (if wakeWanted s then wake s else s)

/-- PG_CMP[0..3] are high: ACTIVE; resets that waited start. -/
def execSleepExitComplete (s : State) : Out :=
  .next (if s.pwr.pstate = 3 ∧ s.pwr.sleeping = 2 ∧ allCmp.all (fun r => s.pwr.pg.contains r) then
    let s := { s with pwr := { s.pwr with pstate := 2, sleeping := 0, idleSince := s.ember, throttleAt := s.ember } }
    (List.range 4).foldl (fun s d =>
      if (getRst s d).wanted then startHold (setRst s d { getRst s d with wanted := false }) d (getRst s d).computeOnly else s) s
  else s)

/-! ### Throttle (R493, R502) -/

/-- DUTY changes: THROTTLE.ACTIVE and source 243 follow. -/
def setDuty (s : State) (n : Nat) : State := sampleLevel { s with pwr := { s.pwr with duty := n, active := decide (n ≠ 0) } } 243

/-- The hottest of the compute and store junctions; of the HBM stacks. -/
def hottest (m : PowerRead) : Nat := max (maxOf m.cmp) m.store

/-- Power or a temperature asks for more skipping. -/
def tooMuch (s : State) (m : PowerRead) : Bool := decide (s.pwr.plimit < m.watts)
def tooHot (s : State) (m : PowerRead) : Bool := decide (s.pwr.tj ≤ hottest m) || decide (90 ≤ maxOf m.hbm)

/-- Power or the temperatures let DUTY fall: the second row of R493. -/
def powerLow (s : State) (m : PowerRead) : Bool := decide (m.watts * 100 < 95 * s.pwr.plimit)
def coolEnough (s : State) (m : PowerRead) : Bool := decide (hottest m + 2 < s.pwr.tj ∧ maxOf m.hbm < 88)
def mayEase (s : State) (m : PowerRead) : Bool := powerLow s m && coolEnough s m && s.pwr.prochotN

def nextDuty (s : State) (m : PowerRead) : Nat :=
  if tooMuch s m || tooHot s m || !s.pwr.prochotN then min 7 (s.pwr.duty + 1) else if mayEase s m then s.pwr.duty - 1 else s.pwr.duty

/-- A control period: the readings are taken, DUTY moves by at most one; a cause holds the throttle up that raises it or keeps it from falling
(DEDUCED, log 46). -/
def execThrottlePeriod (m : PowerRead) (s : State) : Out :=
  .next (if s.pwr.pstate = 2 then
    let s := countSkipped (advanceTo s (s.pwr.throttleAt + 25))
    let n := nextDuty s m
    let s := { s with pwr := { s.pwr with temps := (List.range 4).map (fun i => m.cmp.getD i 0 % 256), tempStore := m.store % 256, energy := m.energy % 2 ^ 64
                                          prochotCause := !s.pwr.prochotN
                                          thermal := tooHot s m || (decide (n ≠ 0) && !coolEnough s m)
                                          power := tooMuch s m || (decide (n ≠ 0) && !powerLow s m) } }
    let s := (List.range 8).foldl (fun s h => modHbm s h (fun x => { x with temp := m.hbm.getD h x.temp % 256 })) s
    setDuty s n
  else s)

/-- More than 700 A on VCMP[d] (R493). -/
def execOverCurrent (d : Nat) (s : State) : Out :=
  onUnit (storeOk d)
    (if s.pwr.pstate = 2 then let s := countSkipped s; setDuty { s with pwr := { s.pwr with power := true } } 7 else s)

def execProchotChange (high : Bool) (s : State) : Out := .next (if powered s then { s with pwr := { s.pwr with prochotN := high } } else s)

/-- A thermal trip (R494): the reading stands in its register, THERMTRIP_N goes low. -/
def execThermalTrip (hbm : Bool) (idx temp : Nat) (s : State) : Out :=
  onUnit (if hbm then hbmOk idx else decide (idx ≤ 4))
    (if !powered s ∨ temp < (if hbm then 100 else 105) then s
     else
       let s := if hbm then modHbm s idx (fun x => { x with temp := temp % 256 })
                else if idx = 4 then { s with pwr := { s.pwr with tempStore := temp % 256 } }
                else { s with pwr := { s.pwr with temps := s.pwr.temps.set idx (temp % 256) } }
       let s := { s with pwr := { s.pwr with thermtripN := false, fault := if s.failTrigger = 0 then 3 else s.pwr.fault } }
       failSafe s 1)

end Sys2Proof.Machine
end

