-- ==== Sys2Proof/Machine/HostMem.lean ====
section
/-!
DEFINITION. Machine/HostMem.lean: the UCIe modules (R25, R397, R437, R460), the host's accesses to device memory (R401, R402), to
synchronisation objects (R279), and SYNCOP (R302, R303).
-/
namespace Sys2Proof.Machine

/-! ### UCIe modules -/

/-- A module is retired; its traffic takes the lowest-numbered one that is left (R25, R438). -/
def retireUcie (s : State) (u : Nat) : State :=
  let s := journalWrite s 8 u 0
  reportOf (raiseEvent (modUcie s u (fun x => { x with state := 2 })) (212 + u)) eUcieModuleRetired u

/-- The direction of a data lane: 64 lanes each way. -/
def laneBack (lane : Nat) : Bool := decide (64 ≤ lane)

/-- A failing lane is repaired onto a redundant lane of its direction, or the module is retired (R437). -/
def failLane (s : State) (u lane : Nat) : State :=
  if 4 ≤ ((getUcie s u).laneUse.filter (fun e => decide (e.2 = laneBack lane))).length then retireUcie s u
  else
    modUcie (journalWrite s 7 u lane) u (fun x =>
      { x with repaired := x.repaired + 1, laneUse := x.laneUse ++ [(lane, laneBack lane)], crcTimes := x.crcTimes.filter (fun e => decide (e.1 ≠ lane)) })

/-- A flit fails its CRC and is replayed; how many flits the adapter replays is free. `retrain` when the adapter retrained as well. -/
def crcError (s : State) (u lane : Nat) (retrain : Bool) : State :=
  let s := modUcie (draw s) u (fun x =>
    { x with crcErr := satAdd 0xFFFFFFFF x.crcErr 1, replay := wrap32 (x.replay + 1 + (Config.freeWord s.free 9500).toNat)
             crcTimes := (lane, s.ember) :: x.crcTimes.filter (fun e => decide (s.ember < e.2 + 25000))
             retrainTimes := (if retrain then [s.ember] else []) ++ x.retrainTimes.filter (fun t => decide (s.ember < t + 25000000)) })
  let s := if 1024 ≤ ((getUcie s u).crcTimes.filter (fun e => decide (e.1 = lane))).length then failLane s u lane else s
  if (getUcie s u).state = 1 ∧ 8 ≤ (getUcie s u).retrainTimes.length then retireUcie s u else s

def execUcieCrcError (u lane : Nat) (retrain : Bool) (s : State) : Out :=
  onUnit (ucieOk u) (if (getUcie s u).state = 1 ∧ lane < 128 then crcError s u lane retrain else s)

/-- An attempt to train the modules that are not retired (R460 step 4). -/
def trainModules (s : State) (trained : List Nat) : State := ((List.range 4).filter (fun u => trained.contains u)).foldl trainUcie s

/-- With no module trained, the next attempt follows 25,000 ticks later. -/
def execUcieTrainingRetry (trained : List Nat) (s : State) : Out :=
  .next (if s.sec.bootState = 1 ∧ (List.range 4).all (fun u => decide ((getUcie s u).state ≠ 1)) then trainModules (passTicks s 25000) trained else s)

/-! ### HDM (R401, R402) -/

/-- A decoder covers the address: the store, or the capacity of an HBM stack that jobs may use. -/
def hdmCovers (s : State) (a : Nat) : Bool :=
  decide (a < storeEnd) || (decide (hbmBase ≤ a ∧ a < hbmBase + 8 * hbmZ s) && (hbmPlace s a).isSome && !inSystem s a)

/-- What meets an HDM request: nobody, no route from its module (R24), the fail-safe state, a stack in reset or memory in training, or
memory; through a module. -/
inductive HdmAt where
  | none
  | noPath
  | failSafe (u : Nat)
  | busy (u : Nat)
  | mem (u : Nat)
  deriving DecidableEq, Repr

def hdmAt (s : State) (a : Nat) : HdmAt :=
  let d := dieOfAddr s a
  if !booted s ∨ a % 64 ≠ 0 ∨ !hdmCovers s a then .none
  else
    match moduleFor s d with
    | .none => .none
    | some u =>
      if s.failTrigger ≠ 0 then .failSafe u
      else if !routeExists s u d then .noPath
      else if stackUp s d && mapped s a then .mem u
      else .busy u

/-- An HDM access wakes the package and waits for tick 250 of the exit (R490). -/
def hdmWake (s : State) : State :=
  let s := wake s
  { s with hdmAt := s.ember }

def retiredFrame (s : State) (a : Nat) : Bool := decide ((frameNow s (a / 65536)).state = .retired)

/-- The line as the host gets it: zeros of a retired frame, no data where it cannot be corrected. -/
def readLine (s : State) (a : Nat) : State :=
  if retiredFrame s a then { s with hdmData := List.replicate 64 0 }
  else
    let bad := uncorrectableIn s a 64
    let s := meetErrors s a 64
    { s with hdmData := if bad then [] else physRead s a 64 }

def execHdmRead (a : Nat) (s : State) : Out :=
  .next (
    let s := if hdmCovers s a then hdmWake s else s
    match hdmAt s a with
    | .none => s
    | .noPath => report { s with hdmData := [] } eLinkNoPath
    | .failSafe _ => { s with hdmData := List.replicate 64 0 }
    | .busy _ => { s with hdmData := [] }
    | .mem _ => readLine s a)

/-- The page of the frame is immutable in the job that holds it. -/
def immutableFrame (s : State) (f : Nat) : Bool := (getJob s (frameOf s f).job).pages.any (fun e => atAddr (f * 65536) e.2 && e.2.imm)

/-- HDM writes are taken by persistent frames whose page is not immutable. -/
def hdmWritable (s : State) (a : Nat) : Bool := decide ((frameNow s (a / 65536)).state = .persistent) && !immutableFrame s (a / 65536)

def rejectHdm (s : State) (u : Nat) : State := modUcie s u (fun x => { x with hdmRej := satAdd 0xFFFFFFFF x.hdmRej 1 })

def execHdmWrite (a : Nat) (l : List Byte) (s : State) : Out :=
  .next (
    if l.length ≠ 64 then s
    else
      let s := if hdmCovers s a then hdmWake s else s
      match hdmAt s a with
      | .none => s
      | .noPath => report s eLinkNoPath
      | .failSafe u | .busy u => rejectHdm s u
      | .mem u => if hdmWritable s a then clearErrors (physWrite s a l) a 64 else rejectHdm s u)

/-! ### The object window (R279) -/

/-- The window is served: the Hearths run, and the host reaches the stack (R24, R25). -/
def windowUp (s : State) (d : Nat) : Bool := booted s && decide (s.failTrigger = 0) && stackUp s d && hostReaches s d

/-- A request of the host that no route carries completes with E_LINK_NO_PATH (R24); one that no module takes never enters. -/
def lostRequest (s : State) (d : Nat) : State := if (moduleFor s d).isSome && !hostReaches s d then report s eLinkNoPath else s

/-- The port of object i works off the operations before a read of the host, which takes its place in the port order (R276, R281). -/
def drainPort : Nat → State → Nat → State
  | 0, s, _ => s
  | fuel + 1, s, i => if (getPort s i).isEmpty then s else drainPort fuel (portCycle s i) i

/-- A read of a word of an object. -/
def readObject (s : State) (off : Nat) : State :=
  let o := getObj s (off / 16)
  if off % 16 = 0 then { s with rdata := objWord0 o } else draw { s with rdata := objWord1 s.free o }

def execHostSyncRead (off size : Nat) (s : State) : Out :=
  .next (
    let d := off / 0x100000
    if 4 ≤ d then s
    else if !windowUp s d then lostRequest s d
    else if size ≠ 8 ∨ off % 8 ≠ 0 then recordErr { s with rdata := 0 } (hearthBase d) (off % 0x100000) eArgAlign
    else readObject (drainPort (getPort s (off / 16)).length s (off / 16)) off)

def execSyncWindowWrite (off _size : Nat) (_v : Word) (s : State) : Out :=
  .next (
    let d := off / 0x100000
    if 4 ≤ d then s else if !windowUp s d then lostRequest s d else recordErr s (hearthBase d) (off % 0x100000) eArgReserved)

/-! ### SYNCOP (R302, R303) -/

/-- The object that a SYNCOP names. -/
def syncopObj (d : Nat) (v : Word) : Nat := d * 65536 + bits v.toNat 47 32

/-- The code of R302, checked in its order. -/
def syncopCode (s : State) (d : Nat) (v : Word) : Nat :=
  let op := bits v.toNat 63 60
  let value := bits v.toNat 31 0
  if op = 0 ∨ 5 < op ∨ (op = 4 ∧ value / 16 ≠ 0) then eArgRange
  else if bits v.toNat 59 48 ≠ 0 ∨ ((op = 3 ∨ op = 5) ∧ value ≠ 0) then eArgReserved
  else if mget 0 s.objPages (syncopObj d v / 4096) = 0 then eBadState
  else 0

def syncopPort (v : Word) : PortOp :=
  let op := bits v.toNat 63 60
  let value := v.setWidth 32
  if op = 1 then .arrive value none
  else if op = 2 then .arm value none
  else if op = 3 then .reset none
  else if op = 4 then .setevt (value.toNat % 16)
  else .clrevt

/-- A write of HEARTH[d].SYNCOP, after the host's earlier writes. -/
def writeSyncop (s : State) (d : Nat) (v : Word) : State :=
  if !hostReaches s d then lostRequest s d
  else
  regWrite s (hearthBase d) 0 (fun s =>
    let code := syncopCode s d v
    let s := modStore s d (fun x => { x with syncIndex := bits v.toNat 47 32, syncCode := code })
    if code ≠ 0 then recordErr s (hearthBase d) 0 code else enqueue s (syncopObj d v) (syncopPort v))

/-- The write carries this operation. -/
def onSyncop (op d : Nat) (v : Word) (hw : List HostWrite) (s : State) : Out :=
  onUnit (storeOk d) (if bits v.toNat 63 60 = op then writeSyncop (hostStores s hw) d v else s)

def execSyncopArrive (d : Nat) (v : Word) (hw : List HostWrite) (s : State) : Out := onSyncop 1 d v hw s
def execSyncopArm (d : Nat) (v : Word) (hw : List HostWrite) (s : State) : Out := onSyncop 2 d v hw s
def execSyncopReset (d : Nat) (v : Word) (hw : List HostWrite) (s : State) : Out := onSyncop 3 d v hw s
def execSyncopSetevt (d : Nat) (v : Word) (hw : List HostWrite) (s : State) : Out := onSyncop 4 d v hw s
def execSyncopClrevt (d : Nat) (v : Word) (hw : List HostWrite) (s : State) : Out := onSyncop 5 d v hw s

end Sys2Proof.Machine
end

