-- ==== Sys2Proof/Machine/Boot.lean ====
section
/-!
DEFINITION. Machine/Boot.lean: the boot sequence (R460 to R463), keys and the PUF (R464, R465), measurements (R471), nonces (R470), owner
enrolment (R467 to R469), debug unlock (R474 to R476).
-/
namespace Sys2Proof.Machine

/-! ### Strings and measurements -/

/-- ASCII labels of R464. -/
def asciiBytes (l : List Nat) : List Byte := l.map (BitVec.ofNat 8)
def labelDevid : List Byte := asciiBytes [0x5A, 0x54, 0x39, 0x2D, 0x44, 0x45, 0x56, 0x49, 0x44]
def labelCdi : List Byte := asciiBytes [0x5A, 0x54, 0x39, 0x2D, 0x43, 0x44, 0x49]
def labelAlias : List Byte := asciiBytes [0x5A, 0x54, 0x39, 0x2D, 0x41, 0x4C, 0x49, 0x41, 0x53]

def setMeas (s : State) (i : Nat) (v : List Byte) : State := { s with sec := { s.sec with meas := mset [] i v s.sec.meas } }

/-- SEC.STATE.SLOTS: bit k is 1 when slot k holds a key (R479). -/
def slotOccupied (s : State) (k : Nat) : Bool := !(mget [] s.flash.slots k).isEmpty
def slotsNat (s : State) : Nat := ((List.range 4).map (fun k => b2n (slotOccupied s k) * 2 ^ k)).sum

/-- Measurement 4: the four slots, zeros for an empty one, then the SLOTS byte (R471). -/
def ownerBytes (s : State) : List Byte :=
  (List.range 4).flatMap (fun k => if slotOccupied s k then mget [] s.flash.slots k else List.replicate 57 0) ++ [BitVec.ofNat 8 (slotsNat s)]

def measureOwners (s : State) : State := setMeas s 4 (shake256 (ownerBytes s) 64)

/-- DEBUG and SCOPE in their places of SEC.STATE (log 47). -/
def debugNat (s : State) : Nat := fieldAt 9 (s.sec.debugScope.toNat % 8) + fieldAt 8 (b2n s.sec.debug)

def measureDebug (s : State) : State := setMeas s 5 (shake256 (leBytes 8 (debugNat s)) 64)

/-- A SEC event bit is set: source 242 (R479). -/
def secEvent (s : State) (bit : Nat) : State :=
  raiseEvent { s with sec := { s.sec with event := s.sec.event / 2 ^ (bit + 1) * 2 ^ (bit + 1) + 2 ^ bit + s.sec.event % 2 ^ bit } } 242

/-! ### Cold boot (R460 steps 1 to 4) -/

/-- The boot ROM begins: boots are counted once for each application of power to VAON. -/
def countBoot (s : State) : State :=
  if s.sec.coldDone then s
  else { s with flash := { s.flash with boots := s.flash.boots + 1 }, sec := { s.sec with coldDone := true } }

/-- Step 3: the identity, which a locked PUF cannot give. -/
def deriveIdentity (s : State) : State :=
  let ok := s.flash.pufOk && !s.sec.pufLocked
  { s with sec := { s.sec with identOk := ok, bootCode := if ok then 0 else eMeasureMismatch } }

/-- Step 4: the modules that the records do not retire are trained. -/
def presentModules (s : State) (trained : List Nat) : State := trainModules (applyRecords s (fun r => decide (r.typ = 7 ∨ r.typ = 8))) trained

/-- The birth record verifies, or the package stays in BIRTH_INVALID. -/
def bootRom (s : State) (trained : List Nat) : State :=
  let s := measureDebug (measureOwners (setMeas (countBoot s) 1 Config.romDigest))
  if !s.flash.birthOk then { s with sec := { s.sec with bootState := 4, bootCode := eSigInvalid } }
  else
    let s := deriveIdentity (setMeas s 3 (shake256 s.flash.birthBytes 64))
    presentModules { s with sec := { s.sec with bootState := 1 } } trained

/-- Row 5 of R483 releases Lodge core 0. -/
def execColdBoot (trained : List Nat) (s : State) : Out :=
  .next (if powered s ∧ s.pwr.row = 5 ∧ s.sec.bootState = 0 ∧ s.failTrigger = 0 ∧ !s.pwr.refLost.contains .sys then
    bootRom { s with pwr := { s.pwr with row := 6 } } trained
  else s)

/-! ### The firmware image (R460 steps 5 to 10) -/

/-- IMGADDR and IMGLEN, free until written. -/
def imgAddr (s : State) : Nat := if s.sec.imgAddrSet then s.sec.imgAddr else Config.freeAddr s.free % 2 ^ 38 * 64
def imgLen (s : State) : Nat := if s.sec.imgLenSet then s.sec.imgLen else Config.freeAddr (s.free + 1) % 2 ^ 25

/-- Step 6: the copy; of an address beyond the DDR5 nothing is copied. -/
def copyImage (s : State) : State :=
  let a := imgAddr s
  let n := imgLen s
  let bytes := if s.ddr5 < a + n then [] else memRead s.host a n
  draw (draw { s with imageMem := bytes, sec := { s.sec with bootState := 2 } })

/-- A write of SEC.BOOTCTL (R478). -/
def writeBootctl (s : State) (v : Word) : State :=
  checkWrite s secBase 0x18 [(decide (bits v.toNat 63 1 ≠ 0), eArgReserved), (decide (s.sec.bootState ≠ 1), eBadState)]
    (fun s => if bitAt v.toNat 0 then copyImage s else s)

def execBootGo (v : Word) (s : State) : Out := .next (if bitAt v.toNat 0 then writeBootctl s v else s)

/-- The manifest and its signature (R463), in order; every failure is E_SIG_INVALID. -/
def manifestOk (s : State) (l : List Byte) (verifies : Bool) : Bool :=
  decide (leField l 0 4 = 0x574D395A) && decide (leField l 0x11 15 = 0 ∧ leField l 0x60 32 = 0 ∧ leField l 0xF2 14 = 0) &&
    decide (leField l 8 8 = l.length) && decide (leField l 0x10 1 ≤ 1) && decide (s.flash.svnFloor ≤ leField l 4 4) && verifies

/-- The first check of steps 6 to 8 that fails. -/
def imageCode (s : State) (readOk verifies : Bool) : Nat :=
  let l := s.imageMem
  if l.isEmpty then eArgRange
  else if !readOk then eUncorrectable
  else if !manifestOk s l verifies then eSigInvalid
  else if shake256 (l.drop 0x100) 64 ≠ (l.drop 0x20).take 64 then eMeasureMismatch
  else 0

/-- The unique device secret as step 3 reconstructed it; what fuzzy_extract gives of a PUF that does not match, or that reads zeros because it is
locked, is open (R464, R465). -/
def bootUds (s : State) : List Byte :=
  if s.sec.identOk then s.flash.uds
  else leBytes 32 (Config.freeRandom s.free).toNat ++ leBytes 32 (Config.freeRandom (s.free + 1)).toNat

/-- devid_seed, the private seed of the DeviceID key (R464). -/
def devidSeedOf (uds : List Byte) : List Byte := shake256 (labelDevid ++ uds) 57

/-- alias_seed (R464). -/
def aliasSeedOf (uds mfw : List Byte) : List Byte := shake256 (labelAlias ++ shake256 (labelCdi ++ uds ++ mfw) 64) 57

/-- Step 9: keys are derived, the alias certificate is issued under the DeviceID key, the secrets are erased, the PUF locked (R460, R465). -/
def deriveKeys (s : State) : State :=
  let mfw := shake256 s.imageMem 64
  let svn := leField s.imageMem 4 4
  let seed := aliasSeedOf (bootUds s) mfw
  let cert := Config.aliasCert (devidSeedOf (bootUds s)) seed mfw svn
  let s := setMeas (draw (draw s)) 2 mfw
  { s with sec := { s.sec with aliasSeed := seed, aliasCert := cert, pufLocked := true, svn := svn } }

/-- Every queue's missing completions are written, then the queue registers stand at reset (R407). -/
def recoverAtBoot (s : State) : State :=
  let s := s.queues.foldl (fun s e => writeRecovered s e.1 e.2) s
  { s with queues := [] }

/-- Step 10: the firmware runs, applies the records, and the stacks come up; ACTIVE begins. -/
def startFirmware (s : State) : State :=
  let s := { s with sec := { s.sec with bootState := 3, bootCode := 0, attestOk := s.sec.identOk } }
  let s := applyRecords s (fun r => decide (r.typ ≠ 7 ∧ r.typ ≠ 8))
  let s := recoverAtBoot s
  let s := { s with pwr := { s.pwr with pstate := 2, en := s.pwr.en ++ allCmp, rowSince := s.ember, idleSince := s.ember, throttleAt := s.ember }
                    temperAt := s.ember }
  (List.range 4).foldl (fun s d => setRst s d { phase := 3, computeOnly := false, since := s.ember, wanted := false, boot := true }) s

/-- A failure in steps 6 to 8: the image is gone and the package awaits another. -/
def refuseImage (s : State) (code : Nat) : State :=
  secEvent { s with imageMem := [], sec := { s.sec with bootState := 1, bootCode := code } } 0

def execImageVerifyComplete (readOk verifies : Bool) (s : State) : Out :=
  .next (if powered s ∧ s.sec.bootState = 2 ∧ s.failTrigger = 0 then
    let code := imageCode s readOk verifies
    if code ≠ 0 then refuseImage s code else startFirmware (deriveKeys s)
  else s)

/-! ### Nonces (R470) -/

def drawNonce (s : State) : State :=
  let n := (Config.freeRandom s.free).setWidth 128
  draw { s with sec := { s.sec with nonce := n, nonceValid := true }, rdata := n.setWidth 64 }

def execNonceDraw (s : State) : Out := .next (if powered s then drawNonce s else s)

/-! ### Commands of SEC (R467, R474, R478) -/

def cmdAddr (s : State) : Nat := if s.sec.cmdAddrSet then s.sec.cmdAddr else Config.freeAddr s.free % 2 ^ 38 * 64

def cmdBusy (s : State) : Bool := decide (s.sec.cmdOp ≠ 0)

/-- The firmware is there to run a command. -/
def firmwareRuns (s : State) : Bool := powered s && booted s && decide (s.failTrigger ≠ 2 ∧ s.failTrigger ≠ 3)

/-- A context is LOADED or UNLOADING. -/
def contextBusy (s : State) : Bool := (List.range 8).any (fun j => decide ((getCtx s j).state = 1 ∨ (getCtx s j).state = 3))

def endCommand (s : State) (code : Nat) : State := { s with sec := { s.sec with cmdOp := 0, cmdCode := code } }

def nonceMatches (s : State) (l : List Byte) : Bool := s.sec.nonceValid && decide (leField l 8 16 = s.sec.nonce.toNat)

def spendNonce (s : State) : State := { s with sec := { s.sec with nonceValid := false } }

/-! ### Enrolment (R467 to R469) -/

/-- The key that signs the record: KEY itself for a first ADD, else an occupied slot's; `verifies` is what Ed448 says of it (log 6). -/
def enrolAuth (s : State) (l : List Byte) (verifies : Bool) : Bool :=
  let auth := leField l 2 1
  (if auth = 0xFF then decide (leField l 0 1 = 1 ∧ slotsNat s = 0) else slotOccupied s auth) && verifies

/-- The checks of R468 before the nonce. -/
def enrolEarly (s : State) (a : Nat) (l : List Byte) : Nat :=
  let auth := leField l 2 1
  if a % 64 ≠ 0 then eArgAlign
  else if leField l 3 5 ≠ 0 ∨ leField l 0x51 7 ≠ 0 ∨ leField l 0xCA 6 ≠ 0 then eArgReserved
  else if leField l 0 1 = 0 ∨ 3 < leField l 0 1 ∨ 3 < leField l 1 1 ∨ (3 < auth ∧ auth ≠ 0xFF) then eArgRange
  else if contextBusy s ∨ s.failTrigger ≠ 0 then eBadState
  else 0

/-- The nonce and what follows it. -/
def enrolLate (s : State) (l : List Byte) (verifies : Bool) : Nat :=
  let op := leField l 0 1
  let slot := leField l 1 1
  if !nonceMatches s l ∨ !enrolAuth s l verifies then eSigInvalid
  else if (op = 1 ∧ slotOccupied s slot) ∨ (op = 2 ∧ !slotOccupied s slot) then eBadState
  else 0

/-- The record is written to the flash (R469). -/
def acceptEnrol (s : State) (l : List Byte) : State :=
  let op := leField l 0 1
  let slot := leField l 1 1
  let slots := if op = 1 then mset [] slot ((l.drop 0x18).take 57) s.flash.slots else if op = 2 then mset [] slot [] s.flash.slots else []
  secEvent (endCommand (measureOwners { s with flash := { s.flash with slots := slots } }) 0) 1

def runEnrol (s : State) (a : Nat) (l : List Byte) (verifies : Bool) : State :=
  let early := enrolEarly s a l
  if early ≠ 0 then endCommand s early
  else
    let late := enrolLate s l verifies
    if late ≠ 0 then endCommand (spendNonce s) late else acceptEnrol (spendNonce s) l

/-- An ENROLL command whose record names this operation, or none that there is. -/
def onEnrol (op : Nat) (verifies : Bool) (s : State) : Out :=
  let a := cmdAddr s
  let l := memRead s.host a 208
  let named := leField l 0 1
  .next (if firmwareRuns s ∧ s.sec.cmdOp = 1 ∧ (named = op ∨ named = 0 ∨ 3 < named) then runEnrol (draw s) a l verifies else s)

def execEnrollAdd (verifies : Bool) (s : State) : Out := onEnrol 1 verifies s
def execEnrollRemove (verifies : Bool) (s : State) : Out := onEnrol 2 verifies s
def execEnrollRelease (verifies : Bool) (s : State) : Out := onEnrol 3 verifies s

/-! ### Debug unlock (R474 to R476) -/

/-- The checks of R475 before those of the token's right. -/
def tokenEarly (s : State) (a : Nat) (l : List Byte) : Nat :=
  let scope := leField l 4 4
  if a % 64 ≠ 0 then eArgAlign
  else if scope / 8 ≠ 0 ∨ leField l 0x39 7 ≠ 0 ∨ leField l 0xB2 14 ≠ 0 then eArgReserved
  else if scope = 0 then eArgRange
  else if contextBusy s ∨ s.sec.debug then eBadState
  else 0

/-- The right to unlock: MAGIC, DEVID of this device, the nonce, the key, the signature. -/
def tokenRight (s : State) (l : List Byte) (verifies : Bool) : Bool :=
  let key := leField l 0x38 1
  decide (leField l 0 4 = 0x4B55395A) && s.sec.identOk && decide ((l.drop 0x18).take 32 = shake256 s.flash.devicePub 32) &&
    nonceMatches s l && (decide (key = 0xF0) || (decide (key ≤ 3) && slotOccupied s key)) && verifies

/-- The token is acted on (R476). -/
def openDebug (s : State) (l : List Byte) : State :=
  let s := { s with sec := { s.sec with aliasSeed := [], aliasCert := [], spdm := 0, pufLocked := true, attestOk := false, debug := true
                                        debugScope := BitVec.ofNat 32 (leField l 4 4) } }
  endCommand (secEvent (measureDebug s) 2) 0

def runUnlock (s : State) (a : Nat) (l : List Byte) (verifies : Bool) : State :=
  let early := tokenEarly s a l
  if early ≠ 0 then endCommand s early
  else if tokenRight s l verifies then openDebug (spendNonce s) l
  else endCommand (spendNonce s) eTokenInvalid

def execDebugUnlock (verifies : Bool) (s : State) : Out :=
  let a := cmdAddr s
  .next (if firmwareRuns s ∧ s.sec.cmdOp = 2 then runUnlock (draw s) a (memRead s.host a 192) verifies else s)

end Sys2Proof.Machine
end

