-- ==== Sys2Proof/Machine/Attest.lean ====
section
/-!
DEFINITION. Machine/Attest.lean: attestation by SPDM 1.2 messages (R472, R473). Codes, flags and bit numbers are those of DMTF DSP0274
(PRESUMED, log 48).
-/
namespace Sys2Proof.Machine

/-! ### Messages -/

def spdmVersion : BitVec 8 := 0x04
def spdmCapabilities : BitVec 8 := 0x61
def spdmAlgorithms : BitVec 8 := 0x63
def spdmDigests : BitVec 8 := 0x01
def spdmCertificate : BitVec 8 := 0x02
def spdmChallengeAuth : BitVec 8 := 0x03
def spdmMeasurements : BitVec 8 := 0x60
def spdmError : BitVec 8 := 0x7F

def errInvalid : BitVec 8 := 0x01
def errUnexpected : BitVec 8 := 0x04
def errUnspecified : BitVec 8 := 0x05
def errUnsupported : BitVec 8 := 0x07

/-- A response leaves through the DOE mailbox (log 8). -/
def reply (s : State) (code : BitVec 8) (body : List Byte) : State := { s with spdmOut := ⟨code, body⟩ :: s.spdmOut }

def replyError (s : State) (e data : BitVec 8) : State := reply s spdmError [e, data]

/-- The responder is there: the firmware, and a module to the processor die. -/
def responds (s : State) : Bool := firmwareRuns s && (List.range 4).any (fun u => decide ((getUcie s u).state = 1))

/-- A request that asks for a stage of the negotiation: 1 after GET_VERSION, 2 after GET_CAPABILITIES, 3 after NEGOTIATE_ALGORITHMS. -/
def onSpdm (stage : Nat) (s : State) (f : State → State) : Out :=
  .next (if !responds s then s else if s.sec.spdm < stage then replyError s errUnexpected 0 else f s)

def setStage (s : State) (n : Nat) : State := { s with sec := { s.sec with spdm := n } }

/-! ### Negotiation -/

/-- Version 1.2 only. -/
def execSpdmGetVersion (s : State) : Out := onSpdm 0 s (fun s => setStage (reply s spdmVersion ([0, 1] ++ leBytes 2 0x1200)) 1)

/-- Flags: certificates, CHALLENGE, measurements with signature. -/
def execSpdmGetCapabilities (s : State) : Out := onSpdm 1 s (fun s => setStage (reply s spdmCapabilities (leBytes 4 0x16)) 2)

/-- Ed448, SHA3-512 where the requester offers them; measurements are raw bit streams. -/
def execSpdmNegotiateAlgorithms (asym hash : BitVec 32) (s : State) : Out :=
  onSpdm 2 s (fun s =>
    setStage (reply s spdmAlgorithms (leBytes 4 1 ++ leBytes 4 (asym &&& 0x800#32).toNat ++ leBytes 4 (hash &&& 0x20#32).toNat)) 3)

/-! ### Certificates -/

/-- Slot 0: vendor root, DeviceID certificate, alias certificate; the last goes with the alias key. -/
def certChain (s : State) : List Byte :=
  Config.rootCert ++ s.flash.cert ++ s.sec.aliasCert

def execSpdmGetDigests (s : State) : Out := onSpdm 3 s (fun s => reply s spdmDigests ([0x01] ++ sha3_512 (certChain s)))

/-- A portion of the chain with its length and what remains. -/
def chainPortion (l : List Byte) (off len : Nat) : List Byte :=
  let part := (l.drop off).take len
  leBytes 2 part.length ++ leBytes 2 (l.length - off - part.length) ++ part

def execSpdmGetCertificate (slot off len : Nat) (s : State) : Out :=
  onSpdm 3 s (fun s =>
    if slot ≠ 0 ∨ (certChain s).length < off then replyError s errInvalid 0 else reply s spdmCertificate (chainPortion (certChain s) off len))

/-! ### Signed answers -/

/-- A signature is refused without attestation (R473). -/
def refuseAttest (s : State) : State :=
  let s := { s with sec := { s.sec with attCode := if s.sec.debug then eDebugOpen else eMeasureMismatch, attRefused := wrap32 (s.sec.attRefused + 1) } }
  replyError (secEvent s 3) errUnspecified 0

/-- The answer with a nonce of the responder and the signature of the alias key over what was asked and answered. -/
def signedReply (s : State) (code : BitVec 8) (nonce : BitVec 256) (body : List Byte) : State :=
  let l := leBytes 32 nonce.toNat ++ body ++ leBytes 32 (Config.freeRandom s.free).toNat
  draw (reply s code (body ++ leBytes 32 (Config.freeRandom s.free).toNat ++ Config.signature (s.sec.aliasSeed ++ l)))

def execSpdmChallenge (slot : Nat) (nonce : BitVec 256) (s : State) : Out :=
  onSpdm 3 s (fun s =>
    if slot ≠ 0 then replyError s errInvalid 0
    else if !s.sec.attestOk then refuseAttest s
    else signedReply s spdmChallengeAuth nonce (sha3_512 (certChain s)))

/-- A measurement block: index, the DMTF specification, a raw bit stream of 64 bytes. -/
def measBlock (e : Nat × List Byte) : List Byte :=
  [BitVec.ofNat 8 e.1, 1] ++ leBytes 2 (e.2.length + 3) ++ [0x80] ++ leBytes 2 e.2.length ++ e.2

/-- Index 0 asks how many there are, 0xFF for all, another for that one. -/
def measBody (s : State) (index : Nat) : Option (List Byte) :=
  if index = 0 then some [BitVec.ofNat 8 s.sec.meas.length]
  else if index = 0xFF then some ([BitVec.ofNat 8 s.sec.meas.length] ++ s.sec.meas.flatMap measBlock)
  else (mfind s.sec.meas index).map (fun v => [1] ++ measBlock (index, v))

def execSpdmGetMeasurements (index : Nat) (sign : Bool) (nonce : BitVec 256) (s : State) : Out :=
  onSpdm 3 s (fun s =>
    match measBody s index with
    | none => replyError s errInvalid 0
    | some body =>
      if !sign then reply s spdmMeasurements body
      else if !s.sec.attestOk then refuseAttest s
      else signedReply s spdmMeasurements nonce body)

/-- Every other message. -/
def execSpdmUnsupportedRequest (code : BitVec 8) (s : State) : Out := onSpdm 0 s (fun s => replyError s errUnsupported code)

end Sys2Proof.Machine
end

