-- ==== Sys2Proof/Machine/Events.lean ====
section
/-!
DEFINITION. Machine/Events.lean: the event controller: routing and delivery (R431, R432), end of interrupt (R433), the source words (R428).
-/
namespace Sys2Proof.Machine

/-! ### Routing (R431) -/

def routable (s : State) (n : Nat) : Bool :=
  let e := getEv s n
  e.pend && e.enable && !e.deliv && decide (1 ≤ e.prio)

/-- Sources in the order in which they are considered: highest PRIO first, lower index first among equals. -/
def insertSrc (s : State) (n : Nat) : List Nat → List Nat
  | [] => [n]
  | m :: rest => if (getEv s m).prio < (getEv s n).prio then n :: m :: rest else m :: insertSrc s n rest

/-- Only listed sources can be pending; they are listed by rising index. -/
def routeOrder (s : State) : List Nat :=
  ((s.evs.map (·.1)).filter (fun n => decide (n < 2048) && routable s n)).foldl (fun l n => insertSrc s n l) []

/-- Target t may receive a source of this priority and these targets now. -/
def eligible (s : State) (e : EvSrc) (t : Nat) : Bool :=
  e.targets.getLsbD t && decide ((getEvCpu s t).runpri < e.prio) && (decide (t < 4) || (!s.msixMask && !(getMsix s (t - 4)).masked))

/-- The eligible target of lowest RUNPRI, the first at or after ROTATE.PTR among equals. -/
def chooseTarget (s : State) (e : EvSrc) : Option Nat :=
  let order := (List.range 52).map (fun i => (s.rotate + i) % 52)
  leastBy (fun t => (getEvCpu s t).runpri) (order.filter (eligible s e))

/-- The lowest-numbered UCIe module that is not retired; with none left, messages reach nobody. -/
def msiModule (s : State) : Option Nat := (List.range 4).find? (fun u => decide ((getUcie s u).state ≠ 2))

/-- The signal: a wire to a Lodge core, or one MSI-X message (R432). -/
def signal (s : State) (t : Nat) : State :=
  if t < 4 then { s with wires := t :: s.wires }
  else
    match msiModule s with
    | some u => { s with msiOut := (u, (getMsix s (t - 4)).addr, (getMsix s (t - 4)).data) :: s.msiOut }
    | none => s

/-- Source n is delivered to target t. -/
def deliverTo (s : State) (n t : Nat) : State :=
  let e := getEv s n
  let c := getEvCpu s t
  let s := setEvCpu s t { runpri := e.prio, stack := c.runpri :: c.stack }
  let s := setEv s n { e with deliv := true, last := t }
  signal { s with rotate := (t + 1) % 52 } t

def routeOne (s : State) (n : Nat) : State :=
  match chooseTarget s (getEv s n) with
  | some t => deliverTo s n t
  | none => s

/-- One Lodge clock cycle of routing; the clock runs on as long as something is routable (R424). -/
def routeCycle (s : State) : State :=
  let s := (routeOrder s).foldl routeOne s
  { s with lodgeClk := !(routeOrder s).isEmpty }

def execEventRoute (s : State) : Out := .next (if powered s ∧ s.lodgeClk then routeCycle s else s)

/-! ### Source words (R428) -/

/-- The bits of a word of 64 sources. -/
def bitsOf (v : Word) : List Nat := (List.range 64).filter (fun b => v.getLsbD b)

/-- The word names a reserved source. -/
def namesReserved (i : Nat) (v : Word) : Bool := (bitsOf v).any (fun b => evReserved (64 * i + b))

def writePend (s : State) (i : Nat) (v : Word) : State :=
  checkWrite s evcBase (8 * i) [] (fun s =>
    (bitsOf v).foldl (fun s b => setEv s (64 * i + b) { getEv s (64 * i + b) with pend := false, deliv := false }) s)

def writeSetp (s : State) (i : Nat) (v : Word) : State :=
  checkWrite s evcBase (0x200 + 8 * i) [(namesReserved i v, eArgReserved)] (fun s => (bitsOf v).foldl (fun s b => raiseEvent s (64 * i + b)) s)

def writeEnable (s : State) (i : Nat) (v : Word) : State :=
  checkWrite s evcBase (0x100 + 8 * i) [(namesReserved i v, eArgReserved)] (fun s =>
    (List.range 64).foldl (fun s b =>
      let s := setEv s (64 * i + b) { getEv s (64 * i + b) with enable := v.getLsbD b }
      if routable s (64 * i + b) then { s with lodgeClk := true } else s) s)

/-- EVC.SRC[n] (R429): PRIO and TARGETS are written, the other fields are read-only. -/
def writeSrc (s : State) (n : Nat) (v : Word) : State :=
  checkWrite s evcBase (0x10000 + 8 * n)
    [(evReserved n && decide (bits v.toNat 63 60 ≠ 0 ∨ bits v.toNat 51 0 ≠ 0), eArgReserved)]
    (fun s =>
      let s := setEv s n { getEv s n with prio := bits v.toNat 63 60, targets := v.setWidth 52 }
      if routable s n then { s with lodgeClk := true } else s)

def execEventPendClear (i : Nat) (v : Word) (s : State) : Out := onUnit (decide (i < 32)) (writePend s i v)
def execEventSetp (i : Nat) (v : Word) (s : State) : Out := onUnit (decide (i < 32)) (writeSetp s i v)

/-! ### End of interrupt (R430, R433) -/

/-- Level sources last delivered to t that are not pending are re-sampled. -/
def resample (s : State) (t : Nat) : State :=
  let due := (s.evs.filter (fun e => evIsLevel e.1 && decide (e.2.last = t) && !e.2.pend)).map (·.1)
  due.foldl (fun s n =>
    let i := evInput s n
    let s := setEv s n { getEv s n with pend := i, last := 0x3F }
    if i then { s with lodgeClk := true } else s) s

/-- The stack is popped. -/
def popTarget (s : State) (t : Nat) : State :=
  match (getEvCpu s t).stack with
  | p :: rest => resample { setEvCpu s t { runpri := p, stack := rest } with lodgeClk := true } t
  | [] => s

def writeEoi (s : State) (t : Nat) (v : Word) : State :=
  checkWrite s evcBase (0x1008 + 0x10 * t)
    [(decide (bits v.toNat 63 1 ≠ 0), eArgReserved), (v.getLsbD 0 && (getEvCpu s t).stack.isEmpty, eBadState)]
    (fun s => if v.getLsbD 0 then popTarget s t else s)

def execEventEoi (t : Nat) (v : Word) (s : State) : Out := onUnit (targetOk t) (writeEoi s t v)

end Sys2Proof.Machine
end

