-- ==== Sys2Proof/Machine/Quench.lean ====
section
/-!
DEFINITION. Machine/Quench.lean: the QNC instructions and the reading of an accumulator tile (R85, R115, R117 to R120).
-/
namespace Sys2Proof.Machine

def issueQ (s : State) (c t op : Nat) (f : QFields) (g : State → Entry → State) : State := issue s c t (encQ 0xD op f) g

/-! ### AZERO and APRELOAD (R115) -/

def execKAzero (c t : Nat) (f : QFields) (s : State) : Out :=
  onThread c t (issueQ s c t 0x08 f (fun u _ => modCell u c (fun x => setAcc x f.acc.toNat (List.replicate 1024 0))))

/-- Tiles tPRE to tPRE + 3 as a tile's elements. -/
def preValue (free : Nat) (x : Cell) (n : Nat) : List F32 := (groupBlock free x n).map (BitVec.ofNat 32)

def execKApreload (c t : Nat) (f : QFields) (s : State) : Out :=
  onThread c t (issueQ s c t 0x09 f (fun u _ => modCell u c (fun x => setAcc x f.acc.toNat (preValue s.free x f.pre.toNat))))

/-! ### QUENCH -/

/-- A Quench issues with its registers; a misaligned address faults (R118, R120). -/
def startQuench (free : Nat) (s : State) (c : Nat) (e : Entry) : State :=
  let w := e.word
  let x := getCell s c
  let q : QuenchRun :=
    { stamp := e.stamp, thread := e.thread, pc := e.pc, word := w, addrA := sReg free x e.thread (wA w)
      addrA1 := if isSb (wFmt w) then sReg free x e.thread (wA w + 1) else 0
      scale := (sReg free x e.thread (wB w)).setWidth 32, regC := if qRnd w = 2 then sReg free x e.thread (wC w) else 0
      stream := streamOf x e.thread, preload := if wOp w = 2 then preValue free x (qPre w) else [], started := false, value := [] }
  let rs := (quenchFoot q).flatMap (·.ranges)
  match (misaligned 64 (rs.take 1)).or (misaligned 16 (rs.drop 1)) with
  | some _ => faultSpots s c e (decide (qDest w = 2)) .wr (decide (qDest w = 2)) (partSpans rs)
  | none => setCell s c { x with quench := some q }

def execKQuench (c t : Nat) (f : QFields) (s : State) : Out :=
  onThread c t (issueQ s c t 0x00 f (fun u e => startQuench s.free u c e))

def execKQuenchReset (c t : Nat) (f : QFields) (s : State) : Out :=
  onThread c t (issueQ s c t 0x01 f (fun u e => startQuench s.free u c e))

def execKQuenchPreload (c t : Nat) (f : QFields) (s : State) : Out :=
  onThread c t (issueQ s c t 0x02 f (fun u e => startQuench s.free u c e))

/-- The read starts when every product of the tile has landed (R120, R123). -/
def execQuenchReadStart (c : Nat) (s : State) : Out :=
  onUnit (cellOk c)
    (let x := getCell s c
     match x.quench with
     | none => s
     | some q =>
       if !cellLive s c ∨ q.started ∨ runsInto x (qAcc q.word) then s
       else draw (setCell s c { x with quench := some { q with started := true, value := accTile s.free x (qAcc q.word) } }))

/-! ### What a Quench writes (R117 to R119) -/

def quenchRnd (s : State) (x : Cell) (q : QuenchRun) (i : Nat) : Rnd := rndAt s x q.stream q.regC (qRnd q.word) 32 (i / 32) (i % 32)

/-- The elements divided by the output scale. -/
def quenchQuos (q : QuenchRun) : List FQuo := q.value.map (fun v => fvDiv (f32 v) (scaleVal q.scale))

/-- F32 output is arithmetic (R119); any other format is a conversion. -/
def quenchBytes (s : State) (x : Cell) (q : QuenchRun) : List Byte × List Byte :=
  let fmt := wFmt q.word
  if fmt = 0 then (packElems 32 ((quenchQuos q).mapIdx (fun i v => arithQ fF32 (quenchRnd s x q i) v)), [])
  else encodeBlock fmt (quenchRnd s x q) (quenchQuos q)

/-- The tile registers of DEST = 0. -/
def quenchTilesOf (q : QuenchRun) (l : List Byte) : List (List Byte) :=
  if wFmt q.word = 0 then blockGroup (unpack 32 1024 l) else pieces 1024 2 l

/-- The tile afterwards: as it was, +0, or the preload value. -/
def quenchAfter (x : Cell) (q : QuenchRun) : Cell :=
  if wOp q.word = 1 then setAcc x (qAcc q.word) (List.replicate 1024 0)
  else if wOp q.word = 2 then setAcc x (qAcc q.word) q.preload
  else x

def quenchEntry (q : QuenchRun) : Entry :=
  { stamp := q.stamp, thread := q.thread, pc := q.pc, word := q.word, claims := none, opA := none, opB := none, relDone := false }

/-- The write of the result. -/
def quenchWrite (s : State) (c : Nat) (q : QuenchRun) (b : List Byte × List Byte) : State :=
  let e := quenchEntry q
  let rs := (quenchFoot q).flatMap (·.ranges)
  if qDest q.word = 0 then modCell s c (fun x => setTiles x (wD q.word) (quenchTilesOf q b.1))
  else if qDest q.word = 1 then localAccess s c e true rs (fun x => localWrites x rs (b.1 ++ b.2))
  else
    blockAccess s c e .wr rs (fun s ps => startWrite s c (newFlight e .store none) rs ps (b.1 ++ b.2))

/-- A page under the result moves: the write waits (R175). -/
def quenchWaits (s : State) (c : Nat) (q : QuenchRun) : Bool :=
  let x := getCell s c
  decide (qDest q.word = 2) &&
    decide (checkAccess s (getJob s x.ctx) x.item (dieOfCell c) .wr ((quenchFoot q).flatMap (·.ranges)) = .wait)

def execQuenchReadDone (c : Nat) (s : State) : Out :=
  onUnit (cellOk c)
    (match (getCell s c).quench with
     | none => s
     | some q =>
       if !cellLive s c ∨ !q.started ∨ quenchWaits s c q then s
       else
         let b := quenchBytes s (getCell s c) q
         quenchWrite (modCell s c (fun x => { quenchAfter x q with quench := none })) c q b)

end Sys2Proof.Machine
end

