-- ==== Sys2Proof/Machine/RegMap.lean ====
section
/-!
DEFINITION. Machine/RegMap.lean: where an offset of the register window lies (R156, R503), and the reserved fields of every register (R9,
R10): the registers of R28, R29, R92 to R99, R183 to R189, R210, R238 to R243, R269 to R272, R301 to R305, R334 to R339, R371 to R374,
R395, R396, R419 to R421, R427 to R430, R443, R450, R455, R458, R477 to R479, R500, R501.
-/
namespace Sys2Proof.Machine

/-- A block of the register window. -/
inductive Blk where
  | lodge
  | evc
  | pav (p : Nat)
  | cell (c : Nat)
  | store (d : Nat)
  | hearth (d : Nat)
  | upd (d : Nat)
  | reshard (d : Nat)
  | hbmc (h : Nat)
  | link (l : Nat)
  | fab (d : Nat)
  | ucie (u : Nat)
  | temper
  | sec
  | clk
  deriving DecidableEq, Repr

def Blk.base : Blk → Nat
  | .lodge => lodgeBase
  | .evc => evcBase
  | .pav p => pavBase p
  | .cell c => cellBase c
  | .store d => storeBase d
  | .hearth d => hearthBase d
  | .upd d => updBase d
  | .reshard d => reshardBase d
  | .hbmc h => hbmcBase h
  | .link l => linkBase l
  | .fab d => fabBase d
  | .ucie u => ucieBase u
  | .temper => temperBase
  | .sec => secBase
  | .clk => clkBase

/-- The block and block offset within an array of n blocks of a span from lo on. -/
def within (off lo span n : Nat) (mk : Nat → Blk) : Option (Blk × Nat) :=
  if lo ≤ off ∧ off < lo + n * span then some (mk ((off - lo) / span), (off - lo) % span) else none

/-- The block in which an offset of the window lies (R156). -/
def findBlock (off : Nat) : Option (Blk × Nat) :=
  [within off lodgeBase 0x1000000 1 (fun _ => .lodge), within off evcBase 0x1000000 1 (fun _ => .evc),
   within off (pavBase 0) 0x10000 64 .pav, within off (cellBase 0) 0x1000 4096 .cell, within off (storeBase 0) 0x100000 4 .store,
   within off (hearthBase 0) 0x10000 4 .hearth, within off (updBase 0) 0x10000 4 .upd, within off (reshardBase 0) 0x10000 4 .reshard,
   within off (hbmcBase 0) 0x10000 8 .hbmc, within off (linkBase 0) 0x1000 48 .link, within off (fabBase 0) 0x100000 4 .fab,
   within off (ucieBase 0) 0x10000 4 .ucie, within off temperBase 0x1000000 1 (fun _ => .temper),
   within off secBase 0x1000000 1 (fun _ => .sec), within off clkBase 0x1000000 1 (fun _ => .clk)].findSome? id

def errOff : Nat := 0xFF8

/-- The offset is one of n registers, `step` bytes apart from lo on. -/
def inArray (off lo step n : Nat) : Bool := decide (lo ≤ off ∧ off < lo + n * step ∧ (off - lo) % step = 0)

/-! ### Queue registers (R419) -/

/-- The queue pair and register offset of a LODGE offset. -/
def queueAt (off : Nat) : Option (QueueId × Nat) :=
  if 0x180000 ≤ off ∧ off < 0x180040 then some (.admin, off - 0x180000)
  else if 0x100000 ≤ off ∧ off < 0x108000 then some (.ctx ((off - 0x100000) / 0x1000) ((off - 0x100000) % 0x1000 / 0x40), off % 0x40)
  else none

def queueReserved (r : Nat) : Option (List (Nat × Nat)) :=
  if r = 0 ∨ r = 8 then some [(63, 44), (11, 0)]
  else if r = 0x10 then some [(63, 44), (5, 0)]
  else if r = 0x18 then some [(63, 21), (15, 13), (7, 1)]
  else if r = 0x20 ∨ r = 0x28 ∨ r = 0x30 then some []
  else if r = 0x38 then some [(63, 18)]
  else none

/-! ### Reserved fields by block; none where no register is -/

def lodgeReserved (off : Nat) : Option (List (Nat × Nat)) :=
  if inArray off 0x1000 8 512 then some []
  else if off = 0x2000 then some [(63, 32)]
  else if inArray off 0x3000 8 8 then some [(47, 35)]
  else if off = 0x4000 then some [(59, 6)]
  else if off = 0x4008 then some [(31, 9)]
  else if off = 0x4010 then some [(62, 56), (47, 1)]
  else if off = 0x4018 then some [(15, 2)]
  else (queueAt off).bind (fun q => queueReserved q.2)

def evcReserved (off : Nat) : Option (List (Nat × Nat)) :=
  if inArray off 0 8 128 then some []
  else if off = 0x400 then some [(63, 6)]
  else if inArray off 0x1000 0x10 52 then some [(63, 8)]
  else if inArray off 0x1008 0x10 52 then some [(63, 1)]
  else if inArray off 0x10000 8 2048 then some []
  else none

def pavReserved (off : Nat) : Option (List (Nat × Nat)) :=
  if off = 0 then some [(63, 40), (33, 32), (25, 21)]
  else if off = 8 then some [(31, 16)]
  else if off = 0x10 then some [(47, 34), (31, 10)]
  else if off = 0x18 then some []
  else if inArray off 0x20 8 16 then some [(62, 48), (27, 16)]
  else if inArray off 0x200 8 16 then some []
  else none

def cellReserved (off : Nat) : Option (List (Nat × Nat)) :=
  if off = 0 then some [(63, 26)]
  else if off = 8 then some [(63, 40), (37, 36)]
  else if inArray off 0x10 8 8 then some [(63, 13)]
  else if off = 0x50 then some [(63, 14)]
  else if inArray off 0x58 8 3 ∨ off = 0x70 ∨ off = 0x78 ∨ off = 0xC0 ∨ off = 0xC8 then some []
  else if off = 0x80 then some [(63, 20), (15, 13)]
  else if off = 0x88 then some [(63, 32), (15, 6)]
  else if off = 0xD0 then some [(63, 48)]
  else none

def storeReserved (off : Nat) : Option (List (Nat × Nat)) :=
  if inArray off 0 8 8 then some [(63, 44), (11, 1)]
  else if off = 0x40 then some [(63, 48), (31, 26), (15, 15)]
  else if off = 0x48 then some [(63, 48)]
  else if off = 0x50 ∨ off = 0x58 then some []
  else if off = 0x60 then some [(63, 48)]
  else if inArray off 0x100 0x20 8 then some [(63, 54), (15, 15)]
  else if inArray off 0x108 0x20 8 then some [(39, 36)]
  else if inArray off 0x110 0x20 8 ∨ inArray off 0x118 0x20 8 then some []
  else none

def hearthReserved (off : Nat) : Option (List (Nat × Nat)) :=
  if off = 0 then some [(59, 48)]
  else if off = 8 then some [(63, 48), (31, 16)]
  else if off = 0x10 ∨ off = 0x18 ∨ off = 0x20 then some []
  else if off = 0x28 then some [(63, 32)]
  else if off = 0x30 then some [(63, 17)]
  else none

def updReserved (off : Nat) : Option (List (Nat × Nat)) :=
  if off = 0 then some [(63, 36)]
  else if off = 8 ∨ off = 0x10 then some []
  else if off = 0x18 then some [(15, 0)]
  else if off = 0x20 then some [(31, 16)]
  else if off = 0x28 then some [(31, 8)]
  else none

def reshardReserved (off : Nat) : Option (List (Nat × Nat)) :=
  if off = 0 then some [(63, 36)]
  else if off = 8 ∨ off = 0x10 then some []
  else if inArray off 0x18 8 8 then some [(63, 18)]
  else none

def hbmcReserved (off : Nat) : Option (List (Nat × Nat)) :=
  if off = 0 then some [(63, 40), (7, 3)] else if off = 8 then some [] else if off = 0x10 then some [(63, 48)] else none

def linkReserved (off : Nat) : Option (List (Nat × Nat)) :=
  if off = 0 then some [(41, 36), (27, 16)]
  else if off = 8 then some [(63, 2)]
  else if off = 0x10 ∨ off = 0x18 then some []
  else none

def fabReserved (d off : Nat) : Option (List (Nat × Nat)) :=
  if off = 0 ∨ off = 0x48 then some [(63, 17)]
  else if off = 8 then some [(63, 16)]
  else if off = 0x10 then some [(63, 32), (30, 30), (22, 22), (14, 14), (6, 6)]
  else if off = 0x18 then some [(63, 47), (31, 15)]
  else if off = 0x20 ∨ off = 0x28 ∨ off = 0x30 ∨ off = 0x38 ∨ off = 0x60 then some []
  else if off = 0x40 then some [(23, 0)]
  else if off = 0x50 then some [(47, 32)]
  else if off = 0x58 then some [(47, 33)]
  else if d ≠ 0 then none
  else if inArray off 0x1000 0x20 255 then some [(57, 48)]
  else if inArray off 0x1008 0x20 255 then some [(47, 40)]
  else if inArray off 0x1010 0x20 255 then some [(63, 48)]
  else none

def ucieReserved (off : Nat) : Option (List (Nat × Nat)) :=
  if off = 0 then some [(63, 24), (15, 4)] else if off = 8 then some [] else if off = 0x10 then some [(63, 32)] else none

def temperReserved (off : Nat) : Option (List (Nat × Nat)) :=
  if off = 0 then some [(63, 48), (31, 16)] else if inArray off 0x100 8 64 then some [(62, 56), (25, 0)] else none

def secReserved (off : Nat) : Option (List (Nat × Nat)) :=
  if off = 0 then some [(15, 3)]
  else if off = 8 ∨ off = 0x30 then some [(63, 44), (5, 0)]
  else if off = 0x10 then some [(63, 25)]
  else if off = 0x18 then some [(63, 1)]
  else if off = 0x20 ∨ off = 0x28 then some []
  else if off = 0x38 then some [(59, 0)]
  else if off = 0x40 then some [(47, 1)]
  else if off = 0x48 then some [(63, 16), (5, 0)]
  else if off = 0x50 then some [(63, 4)]
  else if off = 0x58 then some [(47, 32)]
  else none

def clkReserved (off : Nat) : Option (List (Nat × Nat)) :=
  if off = 0 then some [(63, 22), (3, 3)]
  else if off = 8 then some [(31, 2)]
  else if off = 0x10 then some [(63, 48), (39, 16)]
  else if off = 0x18 then some [(47, 32)]
  else if off = 0x20 then some [(31, 11), (7, 4)]
  else if off = 0x28 then some []
  else none

/-- The reserved fields of the register at a block offset; none where no register is. -/
def reservedAt (b : Blk) (off : Nat) : Option (List (Nat × Nat)) :=
  if off = errOff then some [(62, 56), (47, 44)]
  else
    match b with
    | .lodge => lodgeReserved off
    | .evc => evcReserved off
    | .pav _ => pavReserved off
    | .cell _ => cellReserved off
    | .store _ => storeReserved off
    | .hearth _ => hearthReserved off
    | .upd _ => updReserved off
    | .reshard _ => reshardReserved off
    | .hbmc _ => hbmcReserved off
    | .link _ => linkReserved off
    | .fab d => fabReserved d off
    | .ucie _ => ucieReserved off
    | .temper => temperReserved off
    | .sec => secReserved off
    | .clk => clkReserved off

/-- A write sets none of these fields. -/
def leavesReserved (l : List (Nat × Nat)) (v : Nat) : Bool := l.all (fun f => decide (bits v f.1 f.2 = 0))

end Sys2Proof.Machine
end

