-- ==== Sys2Proof/Machine/Temper.lean ====
section
/-!
DEFINITION. Machine/Temper.lean: the margin re-planning passes (R451 to R454) and TEMPER.CFG (R455).
-/
namespace Sys2Proof.Machine

/-- The step that a pass plans (R452). -/
inductive TemperStep where
  | none | volt | clock | retire
  deriving DecidableEq, Repr

/-- At most one step for a pavilion, the first that applies; it comes on top of those that wait. -/
def planStep (guard driftPlan : Nat) (x : Pav) (r : TemperRead) : TemperStep :=
  if (r.slack < guard ∨ driftPlan < r.drift) ∧ x.voffPend < 12 then .volt
  else if r.slack < guard ∧ x.aclkPend < 16 then .clock
  else if r.slack < guard then .retire
  else .none

/-- A migration of a bed is asked for; the first pavilion of the job that takes it, among those that satisfy `ok`. -/
def tryMigrate (ok : Nat → Bool) (p : Nat) (s : State) (b : Bed) : State :=
  let j := (getPav s p).ctx
  let cands := (List.range 64).filter (fun q => decide (q ≠ p) && ok q && (getPav s q).held && decide ((getPav s q).ctx = j))
  let answers := cands.filterMap (fun q =>
    ((List.range 16).find? (fun k => !(getBed (getPav s q) k).valid)).bind (fun k =>
      match requestMigration s j b.stage b.replica q k with
      | .inl u => some u
      | .inr _ => none))
  match answers with
  | u :: _ => u
  | [] => s

/-- The Lodge asks to migrate every bed of the pavilion that serves its stage. -/
def migrateBeds (s : State) (p : Nat) (ok : Nat → Bool) : State :=
  let x := getPav s p
  if !x.held then s
  else
    (x.beds.filter (fun e => e.2.valid && decide (servingBed s x.ctx e.2.stage e.2.replica = some (p, e.1)))).foldl (fun s e => tryMigrate ok p s e.2) s

/-- The value of a TYPE 9 record. -/
def temperValue (volt clock : Nat) : Nat := volt + 16 * clock

/-- A planned step is journalled, and waits for the next Kindle from OFF; a clock step, or a retirement, asks for migrations
(R453, R454). -/
def applyPlan (s : State) (p : Nat) (step : TemperStep) : State :=
  let x := getPav s p
  match step with
  | .none => s
  | .volt => modPav (journalWrite s 9 p (temperValue (x.voffPend + 1) x.aclkPend)) p (fun x => { x with voffPend := x.voffPend + 1 })
  | .clock =>
    let s := modPav (journalWrite s 9 p (temperValue x.voffPend (x.aclkPend + 1))) p (fun x => { x with aclkPend := x.aclkPend + 1 })
    migrateBeds s p (fun q => decide ((getPav s q).aclkDown < (getPav s p).aclkPend))
  | .retire =>
    let s := modPav s p (fun x => { x with retirePend := true })
    let s := migrateBeds s p (fun _ => true)
    if (getPav s p).beds.all (fun e => !e.2.valid) then retirePav s p else s

/-- One pavilion in a pass: its worst DRIFT is journalled, then the step that is planned. -/
def temperOne (s : State) (p : Nat) (r : TemperRead) : State :=
  if (getPav s p).retired then s
  else
    let s := modPav (journalWrite s 11 p r.drift) p (fun x => { x with slack := min 255 r.slack, drift := min 255 r.drift })
    applyPlan s p (planStep s.guard s.driftPlan (getPav s p) r)

/-- A pass over every pavilion, TEMPER.CFG.PERIOD after the last. -/
def execTemperPass (reads : List TemperRead) (s : State) : Out :=
  .next (if booted s ∧ s.failTrigger = 0 ∧ reads.length = 64 then
    let s := advanceTo s (s.temperAt + s.period * 2 ^ 25)
    let s := ((List.range 64).zip reads).foldl (fun s e => temperOne s e.1 e.2) s
    { s with temperAt := s.ember }
  else s)

/-- TEMPER.CFG (R455). -/
def writeTemper (s : State) (v : Word) : State :=
  let n := v.toNat
  checkWrite s temperBase 0
    [(decide (bits n 63 48 ≠ 0 ∨ bits n 31 16 ≠ 0), eArgReserved), (decide (bits n 15 0 = 0 ∨ bits n 47 40 < 16), eArgRange)]
    (fun s => { s with guard := bits n 47 40, driftPlan := bits n 39 32, period := bits n 15 0 })

end Sys2Proof.Machine
end

