-- ==== Sys2Proof/Machine/RegWrite.lean ====
section
/-!
DEFINITION. Machine/RegWrite.lean: writes of the register window (R8 to R11, R503), register by register; a register whose write is a command of
its own is written by that command's operation.
-/
namespace Sys2Proof.Machine

/-! ### LODGE -/

/-- Bases of the rings and the acceptance word: not while the queue is in service (R420). -/
def writeBase (s : State) (q : QueueId) (r : Nat) (v : Word) : State :=
  let x := getQueue s (qIndex q)
  checkWrite s lodgeBase (qOffset q + r) [(x.enable, eBadState)] (fun s =>
    modQueue s (qIndex q) (fun x =>
      if r = 0 then { x with sqBase := v.toNat, sqSet := true }
      else if r = 8 then { x with cqBase := v.toNat, cqSet := true }
      else { x with awBase := v.toNat, awSet := true }))

def writeQueue (s : State) (q : QueueId) (r : Nat) (v : Word) : State :=
  if r < 0x18 then writeBase s q r v
  else if r = 0x18 then writeQctrl s q v
  else if r = 0x20 then writeTail s q v
  else if r = 0x30 then writeCqhead s q v
  else s

def writeLodge (s : State) (off : Nat) (v : Word) : State :=
  if off = 0x4000 then writeResetctl s v
  else if off = 0x4010 then writeFailsafe s v
  else match queueAt off with
    | some (q, r) => writeQueue s q r v
    | none => s

/-! ### EVC -/

def writeEvc (s : State) (off : Nat) (v : Word) : State :=
  if off < 0x100 then writePend s (off / 8) v
  else if off < 0x200 then writeEnable s ((off - 0x100) / 8) v
  else if off < 0x300 then writeSetp s ((off - 0x200) / 8) v
  else if inArray off 0x1008 0x10 52 then writeEoi s ((off - 0x1008) / 0x10) v
  else if inArray off 0x10000 8 2048 then writeSrc s ((off - 0x10000) / 8) v
  else s

/-! ### Pavilions, store dies, fabric units -/

/-- PAV[p].POWER (R240). -/
def writePower (s : State) (p : Nat) (v : Word) : State :=
  regWrite s (pavBase p) 8 (fun s => modPav s p (fun x => { x with offTicks := bits v.toNat 63 32, gateCycles := bits v.toNat 15 0 }))

/-- STORE[d].SCRUB (R188). -/
def writeScrub (s : State) (d : Nat) (v : Word) : State :=
  checkWrite s (storeBase d) 0x60 [(decide (bits v.toNat 15 0 = 0), eArgRange)] (fun s => modStore s d (fun x => { x with period := bits v.toNat 15 0 }))

def writeRtsel (s : State) (d : Nat) (v : Word) : State :=
  regWrite s (fabBase d) 8 (fun s => modFab s d (fun f => { f with rtsel := v.toNat }))

/-- A path of a route-table word names a link that is not there (R373). -/
def badPath (v n : Nat) : Bool := bitAt v (8 * n + 7) && decide (47 < bits v (8 * n + 5) (8 * n))

/-- FAB[d].RTDATA writes the entry that RTSEL selects; channels and held packets see the new paths. -/
def writeRtdata (s : State) (d : Nat) (v : Word) : State :=
  checkWrite s (fabBase d) 0x10 [((List.range 4).any (badPath v.toNat), eArgRange)] (fun s =>
    releaseHeld (movePaths (modFab s d (fun f => { f with route := mset 0 f.rtsel v.toNat f.route })) d) d)

def writeFab (s : State) (d off : Nat) (v : Word) : State :=
  if off = 0 then (if d = 0 then writePkgid s v else s)
  else if off = 8 then writeRtsel s d v
  else if off = 0x10 then writeRtdata s d v
  else if off = 0x40 then writeXfer s d v
  else if off = 0x50 then writeMarktx s d v
  else s

/-! ### SEC (R478, R479) -/

def notAwaiting (s : State) : Bool × Nat := (decide (s.sec.bootState ≠ 1), eBadState)

def writeImgaddr (s : State) (v : Word) : State :=
  checkWrite s secBase 8 [notAwaiting s] (fun s => { s with sec := { s.sec with imgAddr := v.toNat, imgAddrSet := true } })

def writeImglen (s : State) (v : Word) : State :=
  checkWrite s secBase 0x10 [notAwaiting s, (decide (v.toNat % 64 ≠ 0 ∨ v.toNat < 4096 ∨ 16777216 < v.toNat), eArgRange)]
    (fun s => { s with sec := { s.sec with imgLen := v.toNat, imgLenSet := true } })

def writeCmdaddr (s : State) (v : Word) : State :=
  regWrite s secBase 0x30 (fun s => { s with sec := { s.sec with cmdAddr := v.toNat, cmdAddrSet := true } })

/-- SEC.CMD starts a command, which runs with CMDSTAT.BUSY = 1. -/
def writeCmd (s : State) (v : Word) : State :=
  let op := bits v.toNat 63 60
  checkWrite s secBase 0x38 [(cmdBusy s, eBadState), (decide (op ≠ 1 ∧ op ≠ 2), eArgRange)]
    (fun s => { s with sec := { s.sec with cmdOp := op } })

/-- SEC.EVENT: each 1 clears its bit. -/
def writeEvent (s : State) (v : Word) : State :=
  regWrite s secBase 0x50 (fun s =>
    { s with sec := { s.sec with event := ((List.range 4).map (fun i => b2n (bitAt s.sec.event i && !bitAt v.toNat i) * 2 ^ i)).sum } })

def writeSec (s : State) (off : Nat) (v : Word) : State :=
  if off = 8 then writeImgaddr s v
  else if off = 0x10 then writeImglen s v
  else if off = 0x18 then writeBootctl s v
  else if off = 0x30 then writeCmdaddr s v
  else if off = 0x38 then writeCmd s v
  else if off = 0x50 then writeEvent s v
  else s

/-! ### CLKPWR (R501) -/

def writeClkctrl (s : State) (v : Word) : State :=
  regWrite s clkBase 8 (fun s =>
    { s with pwr := { s.pwr with sleepTicks := bits v.toNat 63 32, linkLp := bits v.toNat 1 1, sleepEn := bitAt v.toNat 0 } })

def writeLimit (s : State) (v : Word) : State :=
  let pl := bits v.toNat 15 0
  let tj := bits v.toNat 47 40
  checkWrite s clkBase 0x10 [(decide (pl < 500 ∨ 2900 < pl ∨ tj < 70 ∨ 95 < tj), eArgRange)]
    (fun s => { s with pwr := { s.pwr with plimit := pl, tj := tj } })

/-! ### Every register -/

/-- The write of a register that is there, its reserved fields being zero; read-only registers ignore it (R9). -/
def writeReg (s : State) (b : Blk) (off : Nat) (v : Word) : State :=
  if off = errOff then s
  else
    match b with
    | .lodge => writeLodge s off v
    | .evc => writeEvc s off v
    | .pav p => if off = 8 then writePower s p v else s
    | .store d => if off = 0x60 then writeScrub s d v else s
    | .hearth d => if off = 0 then writeSyncop s d v else s
    | .link l => if off = 8 then writeLinkCtrl s l v else s
    | .fab d => writeFab s d off v
    | .temper => if off = 0 then writeTemper s v else s
    | .sec => writeSec s off v
    | .clk => if off = 8 then writeClkctrl s v else if off = 0x10 then writeLimit s v else s
    | .cell _ | .upd _ | .reshard _ | .hbmc _ | .ucie _ => s

/-- HEARTH[d].SYNCOP reports its reserved field itself (R302). -/
def ownReserved (b : Blk) (off : Nat) : Bool :=
  match b with
  | .hearth _ => decide (off = 0)
  | _ => false

/-- A write at a block offset (R8, R10): misaligned, to no register, with a reserved field set, or taken. -/
def writeBlock (s : State) (b : Blk) (off size : Nat) (v : Word) : State :=
  if size ≠ 8 ∨ off % 8 ≠ 0 then checkWrite s b.base off [(true, eArgAlign)] id
  else
    match reservedAt b off with
    | none => checkWrite s b.base off [(true, eArgReserved)] id
    | some l =>
      if b = .lodge ∧ off = 0x4000 then writeResetctl s v
      else if leavesReserved l v.toNat || ownReserved b off then
        (if booted s || earlyBlock b.base then writeReg s b off v else regWrite s b.base off id)
      else checkWrite s b.base off [(true, eArgReserved)] id

/-- A write that lies in no block (R503). -/
def writeNowhere (s : State) (off size : Nat) : State :=
  if booted s then recordErr s lodgeBase off (if size ≠ 8 ∨ off % 8 ≠ 0 then eArgAlign else eArgReserved)
  else recordErr s secBase off eBadState

/-! ### BAR4: the MSI-X table (R400, R432), whose entries have the standard's form (PRESUMED, log 50) -/

def bar4 : Nat := 0x10000000

/-- 32 bits of the table: address low and high, data, mask. -/
def writeMsix32 (s : State) (x v : Nat) : State :=
  let n := x / 16
  let e := getMsix s n
  let a := e.addr.toNat
  let r := x % 16
  let e :=
    if r = 0 then { e with addr := BitVec.ofNat 64 (a / 2 ^ 32 * 2 ^ 32 + v) }
    else if r = 4 then { e with addr := BitVec.ofNat 64 (v * 2 ^ 32 + a % 2 ^ 32) }
    else if r = 8 then { e with data := BitVec.ofNat 32 v }
    else { e with masked := bitAt v 0 }
  { s with msix := mset MsixEntry.reset n e s.msix }

def writeBar4 (s : State) (x size : Nat) (v : Word) : State :=
  if 48 * 16 ≤ x ∨ x % size ≠ 0 then s
  else if size = 4 then writeMsix32 s x (v.toNat % 2 ^ 32)
  else if size = 8 then writeMsix32 (writeMsix32 s x (v.toNat % 2 ^ 32)) (x + 4) (v.toNat / 2 ^ 32)
  else s

/-- A write of the window, or, from 0x1000_0000 on, of BAR4. -/
def writeWindow (s : State) (off size : Nat) (v : Word) : State :=
  if !powered s then s
  else if bar4 ≤ off then writeBar4 s (off - bar4) size v
  else
    match findBlock off with
    | some (b, o) => writeBlock s b o size v
    | none => writeNowhere s off size

def execRegisterWrite (off size : Nat) (v : Word) (s : State) : Out := .next (writeWindow s off size v)

end Sys2Proof.Machine
end

