-- ==== Sys2Proof/Machine/RegRead.lean ====
section
/-!
DEFINITION. Machine/RegRead.lean: reads of the register window (R8, R9, R503): what each register reads as, and what its read clears.
-/
namespace Sys2Proof.Machine

/-! ### LODGE -/

/-- LODGE.DIST[i] (R28). -/
def distWord (s : State) (i : Nat) : Nat := ((List.range 8).map (fun k => cost s (i / 8) (8 * (i % 8) + k) * 256 ^ k)).sum

def ctxWord (s : State) (j : Nat) : Nat := fieldAt 48 (getCtx s j).code + fieldAt 32 (getCtx s j).state + (getCtx s j).step

def resetstat (s : State) : Nat :=
  fieldAt 48 s.rstCause + fieldAt 32 s.rstAborted + fieldAt 8 (b2n s.rstPkg) + ((List.range 4).map (fun d => (getRst s d).phase % 4 * 4 ^ d)).sum

def failsafeWord (s : State) : Nat := fieldAt 63 (b2n (s.failTrigger ≠ 0)) + fieldAt 48 s.failTrigger

/-- LODGE.JOURNAL (R458). -/
def journalWord (s : State) : Nat := fieldAt 32 s.flash.seq + fieldAt 16 (journalHalf - s.flash.used) + s.flash.health

/-- A base that nothing has written reads as anything (R420). -/
def baseWord (s : State) (set : Bool) (v : Nat) (low : Nat) : Nat := if set then v else Config.freeAddr s.free % 2 ^ (44 - low) * 2 ^ low

/-- QSTAT (R420). -/
def qstat (s : State) (q : QueueId) : Nat :=
  match qJob q with
  | none => fieldAt 16 (b2n (getQueue s adminQ).enable)
  | some j =>
    let st := if (getCtx s j).state = 2 then 2 else b2n (getQueue s (qIndex q)).enable
    fieldAt 16 st + (getCtx s j).code

def queueWord (s : State) (q : QueueId) (r : Nat) : Nat :=
  let x := getQueue s (qIndex q)
  if r = 0 then baseWord s x.sqSet x.sqBase 12
  else if r = 8 then baseWord s x.cqSet x.cqBase 12
  else if r = 0x10 then baseWord s x.awSet x.awBase 6
  else if r = 0x18 then fieldAt 16 x.sqlog + fieldAt 8 x.cqlog + b2n x.enable
  else if r = 0x20 then x.tail
  else if r = 0x28 then x.accept
  else if r = 0x30 then x.cqhead
  else qstat s q

def lodgeWord (s : State) (off : Nat) : Nat :=
  if inArray off 0x1000 8 512 then distWord s ((off - 0x1000) / 8)
  else if off = 0x2000 then s.distGen.toNat
  else if inArray off 0x3000 8 8 then ctxWord s ((off - 0x3000) / 8)
  else if off = 0x4008 then resetstat s
  else if off = 0x4010 then failsafeWord s
  else if off = 0x4018 then journalWord s
  else match queueAt off with
    | some (q, r) => queueWord s q r
    | none => 0

/-! ### EVC -/

/-- A word of 64 sources. -/
def srcWord (f : Nat → Bool) (i : Nat) : Nat := ((List.range 64).map (fun b => b2n (f (64 * i + b)) * 2 ^ b)).sum

def evSrcWord (s : State) (n : Nat) : Nat :=
  let e := getEv s n
  fieldAt 60 e.prio + fieldAt 59 (b2n (evIsLevel n)) + fieldAt 58 (b2n e.deliv) + fieldAt 52 e.last + e.targets.toNat

def evcWord (s : State) (off : Nat) : Nat :=
  if off < 0x100 then srcWord (fun n => (getEv s n).pend) (off / 8)
  else if off < 0x200 then srcWord (fun n => (getEv s n).enable) ((off - 0x100) / 8)
  else if off < 0x300 then 0
  else if off < 0x400 then srcWord (fun n => evIsLevel n && evInput s n) ((off - 0x300) / 8)
  else if off = 0x400 then s.rotate
  else if inArray off 0x1000 0x10 52 then
    let c := getEvCpu s ((off - 0x1000) / 0x10)
    fieldAt 4 c.stack.length + c.runpri
  else if inArray off 0x10000 8 2048 then evSrcWord s ((off - 0x10000) / 8)
  else 0

/-! ### Pavilions -/

def PPower.code : PPower → Nat
  | .off => 0
  | .gated => 1
  | .kindling => 2
  | .run => 3

/-- PAV[p].STATE (R239). -/
def pavState (s : State) (p : Nat) : Nat :=
  let x := getPav s p
  fieldAt 38 x.power.code + fieldAt 37 (b2n x.held) + fieldAt 34 (x.ctx % 8) + fieldAt 26 x.aclkDown +
    fieldAt 16 (x.beds.filter (fun e => e.2.valid)).length + min 0xFFFF (readyOn s p).length

/-- PAV[p].BED[b] (R243). -/
def bedWord (b : Bed) : Nat :=
  if !b.valid then 0
  else
    fieldAt 63 1 + fieldAt 36 (b.stage % 4096) + fieldAt 28 (b.replica % 256) + fieldAt 13 b.row0 + fieldAt 10 b.col0 + fieldAt 6 b.h + fieldAt 2 b.w +
      fieldAt 1 (b2n b.migrating) + b2n b.item.isSome

/-- The stage's bed moves (R236): of the old bed, and of the new. -/
def bedMigrates (s : State) (p k : Nat) : Bool :=
  let x := getPav s p
  (getMigs s x.ctx).any (fun m => !m.done && x.held && (decide (m.fromP = p ∧ m.fromB = k) || decide (m.toP = p ∧ m.toB = k)))

def pavWord (s : State) (p off : Nat) : Nat :=
  let x := getPav s p
  if off = 0 then pavState s p
  else if off = 8 then fieldAt 32 x.offTicks + x.gateCycles
  else if off = 0x10 then fieldAt 48 x.code + fieldAt 32 x.dstate + x.dpc % 1024
  else if off = 0x18 then fieldAt 32 x.late + x.kindles
  else if inArray off 0x20 8 16 then
    let k := (off - 0x20) / 8
    bedWord { getBed x k with migrating := bedMigrates s p k }
  else mget 0 x.belv ((off - 0x200) / 8)

/-! ### Cells -/

def TState.code : TState → Nat
  | .idle => 0
  | .ready => 1
  | .miss => 2
  | .missfull => 3
  | .sync => 4
  | .qfull => 5
  | .drain => 6
  | .halted => 7

def cellId (c : Nat) : Nat :=
  fieldAt 23 (c % 8) + fieldAt 20 (c / 8 % 8) + fieldAt 18 (c / 1024) + fieldAt 12 (c / 64) + c

/-- MODE of CELL[c].STATE (R94): a cell that is not retired is asleep while its pavilion's clocks do not run, and awake and idle while no launch
runs on it. -/
def cellMode (s : State) (c : Nat) : Nat :=
  let m := (getCell s c).mode
  if m = 3 then 3 else if (getPav s (pavOfCell c)).power ≠ .run then 0 else if m = 2 then 2 else 1

/-- CELL[c].STATE (R94). -/
def cellState (s : State) (c : Nat) : Nat :=
  let x := getCell s c
  fieldAt 38 (cellMode s c) + fieldAt 35 (b2n x.ctxv) + fieldAt 32 (x.ctx % 8) + ((List.range 8).map (fun t => (tstateOf x t).code * 16 ^ t)).sum

/-- CELL[c].MISSWAIT: a wait that goes on has lasted some cycles (log 49). -/
def misswait (s : State) (x : Cell) : Nat :=
  (x.missWait + if inMissfull x then (Config.freeWord s.free 9600).toNat else 0) % 2 ^ 64

def cellWord (s : State) (c off : Nat) : Nat :=
  let x := getCell s c
  if off = 0 then cellId c
  else if off = 8 then cellState s c
  else if inArray off 0x10 8 8 then (mget 0 x.pc ((off - 0x10) / 8)).toNat
  else if off = 0x50 then x.progWords
  else if inArray off 0x58 8 3 then mget 0 x.issue ((off - 0x58) / 8)
  else if off = 0x70 then misswait s x
  else if off = 0x78 then fieldAt 48 x.faultCode + x.faultAddr
  else if off = 0x80 then fieldAt 19 (b2n x.faultSpace) + fieldAt 16 x.faultThread + x.faultPc
  else if off = 0x88 then fieldAt 16 x.retries + x.sparesUsed
  else if off = 0xC0 then fieldAt 48 (x.qdrop.getD 0 0) + fieldAt 32 (x.qdrop.getD 1 0) + fieldAt 16 (x.qdrop.getD 2 0) + x.qdrop.getD 3 0
  else if off = 0xC8 then fieldAt 32 (x.qinval.getD 0 0) + x.qinval.getD 1 0
  else fieldAt 32 (x.qdefer.getD 0 0) + x.qdefer.getD 1 0

/-! ### Store dies and HBM -/

/-- Retired home banks of die d. -/
def banksRetired (s : State) (d : Nat) : Nat :=
  ((getStore s d).frames.filter (fun e => decide (e.2.state = .retired ∧ e.1 * 65536 < storeEnd))).length / 24

/-- STORE[d].FREE (R185): HBM_FREE counts the usable HBM whatever STATE its stacks are in. -/
def freeWordOf (s : State) (d : Nat) : Nat := fieldAt 32 (hbmUnheld s d (fun _ => true) / 32) + fieldAt 16 (banksRetired s d) + storeRoom s d

/-- The Icehouse registers of context j (R269 to R272), 0 while it is not loaded. -/
def iceWord (s : State) (d j r : Nat) : Nat :=
  let jb := getJob s j
  let i := getIce jb d
  if !jb.loaded then 0
  else if r = 0 then fieldAt 32 i.hwm + fieldAt 16 i.spill + i.store
  else if r = 8 then fieldAt 40 i.entries.length + fieldAt 15 (iceSpilled jb d) + iceInStore jb d
  else if r = 0x10 then fieldAt 32 i.spills + i.refills
  else fieldAt 32 i.drops + i.recomputes

def storeWord (s : State) (d off : Nat) : Nat :=
  let x := getStore s d
  if inArray off 0 8 8 then
    let r := mget (0, false) x.ctxRoot (off / 8)
    r.1 / 4096 * 4096 % 2 ^ 44 + b2n r.2
  else if off = 0x40 then freeWordOf s d
  else if off = 0x48 then fieldAt 32 x.uncorrected + x.corrected
  else if off = 0x50 then fieldAt 32 x.pageIn + x.evict
  else if off = 0x58 then fieldAt 32 x.walks + x.inval
  else if off = 0x60 then fieldAt 16 x.passes + x.period
  else iceWord s d ((off - 0x100) / 0x20) ((off - 0x100) % 0x20)

def hbmcWord (s : State) (h off : Nat) : Nat :=
  let x := getHbm s h
  if off = 0 then
    fieldAt 32 (if s.flash.big then 64 else 48) + fieldAt 24 32 + fieldAt 16 (64 - popcount x.pcRet) + fieldAt 8 x.temp + x.state
  else if off = 8 then x.pcRet.toNat
  else fieldAt 32 x.uncorrected + x.corrected

/-! ### Hearth, update engine, re-shard engine -/

/-- Pages of objects of die d that jobs hold. -/
def pagesHeld (s : State) (d : Nat) : Nat := (s.objPages.filter (fun e => decide (e.1 / 16 = d))).length

def hearthWord (s : State) (d off : Nat) : Nat :=
  let x := getStore s d
  if off = 8 then fieldAt 32 x.syncIndex + x.syncCode
  else if off = 0x10 then fieldAt 32 x.atomics + x.xsAdds
  else if off = 0x18 then fieldAt 32 x.xsInf + x.xsNan
  else if off = 0x20 then fieldAt 32 x.waitsSat + x.waitsOut
  else if off = 0x28 then fieldAt 16 x.peak + waitersNow s d
  else if off = 0x30 then 65536 - 4096 * pagesHeld s d
  else 0

/-- Shards owned on die d that have three live versions (R338). -/
def live3 (s : State) (d : Nat) : Nat :=
  ((List.range 8).map (fun j =>
    let jb := getJob s j
    if !jb.loaded then 0
    else ((List.range jb.image.shards.length).filter (fun i =>
      match jb.image.shards[i]? with
      | some sh => decide (sh.ownerDie = d ∧ sh.ownerPkg = s.pkgId) && decide (3 ≤ liveCount jb i)
      | none => false)).length)).sum

/-- Steps by which the slow tier trails the last committed UPD item of the die (R339): its object counts the steps done. -/
def slowLag (s : State) (d : Nat) : Nat :=
  let x := getStore s d
  let jb := getJob s x.updCtx
  if !jb.loaded then 0
  else
    -- UPD items of the die that have committed: the latest step among them
    let done := jb.items.filter (fun e => decide (e.2.phase = 4 ∧ e.2.die = d ∧ e.2.state = .done))
    let last := maxOf (done.map (fun e => e.2.step.toNat)) - jb.image.firstStep.toNat
    maxOf ((jb.image.shards.filter (fun sh => decide (sh.ownerDie = d ∧ sh.ownerPkg = s.pkgId) && usesSlow jb sh)).map (fun sh =>
      match sh.slowDone.bind (objAt jb) with
      | some o => min 4 (last - (getObj s o).count.toNat)
      | none => 0))

/-- An UPD item of the die is held: for how many cycles since the last tick is open (log 49). -/
def updHeld (s : State) (d k : Nat) (held : State → Job → Item → Bool) : Nat :=
  if updHeldOn s d held then (Config.freeWord s.free k).toNat else 0

def updRegWord (s : State) (d off : Nat) : Nat :=
  let x := getStore s d
  if off = 0 then fieldAt 35 (b2n x.updRun.isSome) + fieldAt 32 (x.updCtx % 8) + x.updStep.toNat
  else if off = 8 then x.elems
  else if off = 0x10 then fieldAt 32 x.fetches + fieldAt 16 x.refetch + x.failed
  else if off = 0x18 then fieldAt 32 x.scrubPasses + fieldAt 16 x.discards
  else if off = 0x20 then fieldAt 32 (wrap32 (x.vholdWait + updHeld s d 9601 heldBy316)) + min 0xFFFF (live3 s d)
  else fieldAt 32 (wrap32 (x.slowWait + updHeld s d 9602 heldBy327)) + slowLag s d

def epochWord (s : State) (j : Nat) : Nat :=
  let jb := getJob s j
  if jb.loaded then fieldAt 16 jb.epochState + jb.epoch.toNat else 0

def reshardWord (s : State) (d off : Nat) : Nat :=
  let x := getStore s d
  if off = 0 then fieldAt 35 (b2n x.transBusy.isSome) + fieldAt 32 (x.transCtx % 8) + fieldAt 16 (min 0xFFFF x.transQueue.length) + x.transLast % 65536
  else if off = 8 then x.bytesOut
  else if off = 0x10 then fieldAt 48 x.epRejEpoch.toNat + fieldAt 32 x.epRejSrc.toNat + x.epRejCount
  else epochWord s ((off - 0x18) / 8)

/-! ### Links, fabric units, UCIe -/

def linkWord (s : State) (l off : Nat) : Nat :=
  let x := getLink s l
  if off = 0 then fieldAt 48 x.peer.toNat + fieldAt 42 x.peerLink + fieldAt 32 x.lanes + fieldAt 28 x.state + x.trains
  else if off = 8 then fieldAt 1 (b2n x.retrain) + b2n x.enable
  else if off = 0x10 then fieldAt 32 x.llretry + fieldAt 16 x.uncorr + x.crcFail
  else x.fecSym

/-- FAB[0].REGION[r] (R374). -/
def regionWord (x : Region) (w : Nat) : Nat :=
  if !x.valid then 0
  else if w = 0 then fieldAt 63 1 + fieldAt 61 x.mode + fieldAt 58 (x.ctx % 8) + x.vbase % 2 ^ 48
  else if w = 8 then fieldAt 48 x.owner.toNat + x.len % 2 ^ 40
  else fieldAt 32 (x.dom.getD 2 0xFFFF).toNat + fieldAt 16 (x.dom.getD 1 0xFFFF).toNat + (x.dom.getD 0 0xFFFF).toNat

/-- FAB[d].ID: the identity reads as anything until it is written (R373). -/
def idWord (s : State) : Nat := if s.pkgSet then fieldAt 16 1 + s.pkgId.toNat else (Config.freeWord s.free 9700).toNat % 65536

def fabWord (s : State) (d off : Nat) : Nat :=
  let f := getFab s d
  if off = 0 then idWord s
  else if off = 8 then f.rtsel
  else if off = 0x10 then mget 0 f.route f.rtsel
  else if off = 0x18 then fieldAt 32 f.quar.length + f.outs.length
  else if off = 0x20 then fieldAt 48 f.hoplimit + fieldAt 32 f.residency + fieldAt 16 f.dupseq + f.stalegen
  else if off = 0x28 then fieldAt 32 f.dupatom + fieldAt 16 f.indet + f.kept.length
  else if off = 0x30 then fieldAt 32 f.combReads + f.combAtoms
  else if off = 0x38 then fieldAt 48 f.rejCode + fieldAt 32 f.rejTarget.toNat + f.rejCount
  else if off = 0x48 then fieldAt 16 (b2n f.xferBusy) + f.xferCode
  else if off = 0x60 then f.markTime
  else if 0x1000 ≤ off then regionWord (getRegion s ((off - 0x1000) / 0x20)) ((off - 0x1000) % 0x20)
  else 0

def ucieWord (s : State) (u off : Nat) : Nat :=
  let x := getUcie s u
  if off = 0 then fieldAt 16 x.repaired + x.state else if off = 8 then fieldAt 32 x.replay + x.crcErr else x.hdmRej

/-! ### TEMPER, SEC, CLKPWR -/

def temperWord (s : State) (off : Nat) : Nat :=
  if off = 0 then fieldAt 40 s.guard + fieldAt 32 s.driftPlan + s.period
  else
    let x := getPav s ((off - 0x100) / 8)
    fieldAt 63 (b2n x.retirePend) + fieldAt 48 x.slack + fieldAt 40 x.drift + fieldAt 36 x.voffPend + fieldAt 32 x.voff + fieldAt 26 x.aclkPend

/-- SEC.STATE (R479). -/
def secState (s : State) : Nat := fieldAt 12 (slotsNat s) + debugNat s + fieldAt 7 (b2n s.sec.identOk) + fieldAt 6 (b2n s.sec.attestOk)

def secWord (s : State) (off : Nat) : Nat :=
  if off = 0 then fieldAt 48 s.sec.bootCode + fieldAt 16 s.sec.svn + s.sec.bootState
  else if off = 8 then imgAddr s
  else if off = 0x10 then (if s.sec.imgLenSet then s.sec.imgLen else Config.freeAddr s.free % 2 ^ 25)
  else if off = 0x18 then b2n (s.sec.bootState = 2)
  else if off = 0x28 then bits s.sec.nonce.toNat 127 64
  else if off = 0x30 then cmdAddr s
  else if off = 0x40 then fieldAt 48 s.sec.cmdCode + b2n (cmdBusy s)
  else if off = 0x48 then secState s
  else if off = 0x50 then s.sec.event
  else if off = 0x58 then fieldAt 48 s.sec.attCode + s.sec.attRefused
  else 0

def railBit : Rail → Nat
  | .aux => 0
  | .sto => 1
  | .hbm => 2
  | .ser => 3
  | .cmp d => 4 + d

/-- CLKPWR.STATE (R501). -/
def clkState (s : State) : Nat :=
  let ref := fun (i : Nat) (k : RefClk) => b2n (!s.pwr.refLost.contains k) * 2 ^ i
  let refs := ref 0 .aon + ref 1 .sys + ref 2 (.ser 0) + ref 3 (.ser 1) + ref 4 (.ser 2) + ref 5 (.ser 3)
  let pg := ((List.range 8).map (fun i => b2n (s.pwr.pg.any (fun r => decide (railBit r = i))) * 2 ^ i)).sum
  fieldAt 16 refs + fieldAt 8 pg + fieldAt 4 s.pwr.fault + s.pwr.pstate

def clkTemp (s : State) : Nat :=
  let cmp := ((List.range 4).map (fun d => (if s.pwr.en.contains (.cmp d) then s.pwr.temps.getD d 0 else 0) * 256 ^ d)).sum
  fieldAt 56 (maxOf ((List.range 8).map (fun h => (getHbm s h).temp))) + fieldAt 48 s.pwr.tempStore + cmp

def clkWord (s : State) (off : Nat) : Nat :=
  if off = 0 then clkState s
  else if off = 8 then fieldAt 32 s.pwr.sleepTicks + fieldAt 1 s.pwr.linkLp + b2n s.pwr.sleepEn
  else if off = 0x10 then fieldAt 40 s.pwr.tj + s.pwr.plimit
  else if off = 0x18 then clkTemp s
  else if off = 0x20 then
    fieldAt 32 (s.pwr.skipped / 8) + fieldAt 8 s.pwr.duty + fieldAt 3 (b2n s.pwr.prochotCause) + fieldAt 2 (b2n s.pwr.thermal) +
      fieldAt 1 (b2n s.pwr.power) + b2n s.pwr.active
  else s.pwr.energy

/-- BLOCK.ERR (R11). -/
def errWord (e : ErrReg) : Nat := fieldAt 63 (b2n (e.count ≠ 0)) + fieldAt 48 e.count + fieldAt 16 e.offset + e.code

/-- What a register reads as. -/
def regWord (s : State) (b : Blk) (off : Nat) : Nat :=
  if off = errOff then errWord (mget ErrReg.reset s.errs b.base)
  else
    match b with
    | .lodge => lodgeWord s off
    | .evc => evcWord s off
    | .pav p => pavWord s p off
    | .cell c => cellWord s c off
    | .store d => storeWord s d off
    | .hearth d => hearthWord s d off
    | .upd d => updRegWord s d off
    | .reshard d => reshardWord s d off
    | .hbmc h => hbmcWord s h off
    | .link l => linkWord s l off
    | .fab d => fabWord s d off
    | .ucie u => ucieWord s u off
    | .temper => temperWord s off
    | .sec => secWord s off
    | .clk => clkWord s off

/-! ### What a read clears (R9) -/

def clearCell (x : Cell) (off : Nat) : Cell :=
  if inArray off 0x58 8 3 then { x with issue := mset 0 ((off - 0x58) / 8) 0 x.issue }
  else if off = 0x70 then { x with missWait := 0 }
  else if off = 0x88 then { x with retries := 0 }
  else if off = 0xC0 then { x with qdrop := [0, 0, 0, 0] }
  else if off = 0xC8 then { x with qinval := [0, 0] }
  else if off = 0xD0 then { x with qdefer := [0, 0] }
  else x

def clearStore (x : StoreDie) (off : Nat) : StoreDie :=
  if off = 0x48 then { x with corrected := 0, uncorrected := 0 }
  else if off = 0x50 then { x with pageIn := 0, evict := 0 }
  else if off = 0x58 then { x with walks := 0, inval := 0 }
  else x

/-- ICEMOVE and ICEDROP. -/
def clearIce (s : State) (d off : Nat) : State :=
  if off < 0x100 then s
  else
    modJob s ((off - 0x100) / 0x20) (fun jb =>
      let i := getIce jb d
      if !jb.loaded then jb
      else if (off - 0x100) % 0x20 = 0x10 then setIce jb d { i with spills := 0, refills := 0 }
      else if (off - 0x100) % 0x20 = 0x18 then setIce jb d { i with drops := 0, recomputes := 0 }
      else jb)

/-- PEAK counts from the waiters that are registered now. -/
def clearHearth (s : State) (d off : Nat) : State :=
  modStore s d (fun x =>
    if off = 0x10 then { x with atomics := 0, xsAdds := 0 }
    else if off = 0x18 then { x with xsInf := 0, xsNan := 0 }
    else if off = 0x20 then { x with waitsSat := 0, waitsOut := 0 }
    else if off = 0x28 then { x with peak := 0 }
    else x)

def clearUpd (x : StoreDie) (off : Nat) : StoreDie :=
  if off = 8 then { x with elems := 0 }
  else if off = 0x10 then { x with fetches := 0, refetch := 0, failed := 0 }
  else if off = 0x18 then { x with discards := 0 }
  else if off = 0x20 then { x with vholdWait := 0 }
  else if off = 0x28 then { x with slowWait := 0 }
  else x

def clearReshard (x : StoreDie) (off : Nat) : StoreDie :=
  if off = 8 then { x with bytesOut := 0 } else if off = 0x10 then { x with epRejCount := 0 } else x

def clearLink (x : Link) (off : Nat) : Link :=
  if off = 0 then { x with trains := 0 }
  else if off = 0x10 then { x with llretry := 0, uncorr := 0, crcFail := 0 }
  else if off = 0x18 then { x with fecSym := 0 }
  else x

def clearFab (f : Fab) (off : Nat) : Fab :=
  if off = 0x20 then { f with hoplimit := 0, residency := 0, dupseq := 0, stalegen := 0 }
  else if off = 0x28 then { f with dupatom := 0, indet := 0 }
  else if off = 0x30 then { f with combReads := 0, combAtoms := 0 }
  else if off = 0x38 then { f with rejCount := 0 }
  else f

def clearUcie (x : Ucie) (off : Nat) : Ucie :=
  if off = 8 then { x with replay := 0, crcErr := 0 } else if off = 0x10 then { x with hdmRej := 0 } else x

def clearReg (s : State) (b : Blk) (off : Nat) : State :=
  if off = errOff then { s with errs := mset ErrReg.reset b.base ErrReg.reset s.errs }
  else
    match b with
    | .pav p => if off = 0x18 then modPav s p (fun x => { x with late := 0, kindles := 0 }) else s
    | .cell c => modCell s c (fun x => clearCell x off)
    | .store d => clearIce (modStore s d (fun x => clearStore x off)) d off
    | .hearth d => clearHearth s d off
    | .upd d => modStore s d (fun x => clearUpd x off)
    | .reshard d => modStore s d (fun x => clearReshard x off)
    | .hbmc h => if off = 0x10 then modHbm s h (fun x => { x with corrected := 0, uncorrected := 0 }) else s
    | .link l => modLink s l (fun x => clearLink x off)
    | .fab d => modFab s d (fun f => clearFab f off)
    | .ucie u => modUcie s u (fun x => clearUcie x off)
    | .sec => if off = 0x58 then { s with sec := { s.sec with attRefused := 0 } } else s
    | .clk => if off = 0x20 then { s with pwr := { s.pwr with skipped := s.pwr.skipped % 8 } } else s
    | .lodge | .evc | .temper => s

/-! ### Reads -/

/-- CLKPWR.THROTTLE is brought up to the present tick before it is read. -/
def freshen (s : State) (b : Blk) (off : Nat) : State := if b = .clk ∧ off = 0x20 ∧ s.pwr.pstate = 2 then countSkipped s else s

/-- A read of the register there; those of SEC.NONCE[0] and FAB[d].MARKRX act (R373, R470). -/
def readReg (s : State) (b : Blk) (off : Nat) : State :=
  match b, off with
  | .sec, 0x20 => drawNonce s
  | .fab d, 0x58 => readMark s d
  | _, _ =>
    let s := freshen s b off
    draw (clearReg { s with rdata := BitVec.ofNat 64 (regWord s b off) } b off)

/-- A read at a block offset: misaligned, or of no register, it returns 0 (R8, R10); before the firmware runs, most blocks read 0 (R462). -/
def readBlock (s : State) (b : Blk) (off size : Nat) : State :=
  if !blockReached s b.base then report { s with rdata := 0 } eLinkNoPath
  else if !booted s && !earlyBlock b.base then { s with rdata := 0 }
  else if size ≠ 8 ∨ off % 8 ≠ 0 then recordErr { s with rdata := 0 } b.base off eArgAlign
  else if (reservedAt b off).isNone then { s with rdata := 0 }
  else readReg s b off

def readNowhere (s : State) (off size : Nat) : State :=
  if booted s ∧ (size ≠ 8 ∨ off % 8 ≠ 0) then recordErr { s with rdata := 0 } lodgeBase off eArgAlign else { s with rdata := 0 }

/-- BAR4: the MSI-X table; the pending-bit array reads 0 (R432). -/
def msixWord32 (s : State) (x : Nat) : Nat :=
  let e := getMsix s (x / 16)
  let r := x % 16
  if 48 * 16 ≤ x then 0
  else if r = 0 then e.addr.toNat % 2 ^ 32
  else if r = 4 then e.addr.toNat / 2 ^ 32
  else if r = 8 then e.data.toNat
  else b2n e.masked

def readBar4 (s : State) (x size : Nat) : State :=
  let lo := msixWord32 s (x / 4 * 4)
  { s with rdata := BitVec.ofNat 64 (if size = 8 then lo + 2 ^ 32 * msixWord32 s (x / 4 * 4 + 4) else lo) }

/-- A read of the window, or, from 0x1000_0000 on, of BAR4. -/
def readWindow (s : State) (off size : Nat) : State :=
  if !powered s then s
  else if bar4 ≤ off then readBar4 s (off - bar4) size
  else
    match findBlock off with
    | some (b, o) => readBlock s b o size
    | none => readNowhere s off size

def execRegisterRead (off size : Nat) (s : State) : Out := .next (readWindow s off size)

end Sys2Proof.Machine
end

