-- ==== Sys2Proof/Machine/Scalar.lean ====
section
/-!
DEFINITION. Machine/Scalar.lean: the SCA and SCI instructions (R76, R77).
-/
namespace Sys2Proof.Machine

def flag (b : Bool) : Word := if b then 1 else 0
def low32 (a : Word) : BitVec 32 := a.setWidth 32
def word32 (v : BitVec 32) : Word := v.setWidth 64

def mulHigh (a b : Word) : Word := BitVec.ofInt 64 (a.toInt * b.toInt / (2 ^ 64 : Nat))

/-- DIV: the quotient rounded towards zero (log 18); by 0 it is −1. -/
def divS (a b : Word) : Word := if b = 0 then -1#64 else a.sdiv b
/-- DIVU: by 0 it is all ones. -/
def divU (a b : Word) : Word := if b = 0 then -1#64 else a / b
/-- REM: by 0 it is the dividend. -/
def remS (a b : Word) : Word := if b = 0 then a else a.srem b
/-- REMU: by 0 it is the dividend. -/
def remU (a b : Word) : Word := if b = 0 then a else a % b

/-- ADD wraps (R76). -/
def aluAdd (a b _k : Word) : Word := a + b

/-- SUB wraps (R76). -/
def aluSub (a b _k : Word) : Word := a - b

/-- MUL: the low half (R76). -/
def aluMul (a b _k : Word) : Word := a * b

/-- MULH: the high half, signed (R76). -/
def aluMulh (a b _k : Word) : Word := mulHigh a b

/-- MULHU: the high half, unsigned (R76). -/
def aluMulhu (a b _k : Word) : Word := BitVec.ofNat 64 (a.toNat * b.toNat / 2 ^ 64)

/-- DIV (R76). -/
def aluDiv (a b _k : Word) : Word := divS a b

/-- DIVU (R76). -/
def aluDivu (a b _k : Word) : Word := divU a b

/-- REM (R76). -/
def aluRem (a b _k : Word) : Word := remS a b

/-- REMU (R76). -/
def aluRemu (a b _k : Word) : Word := remU a b

/-- AND (R76). -/
def aluAnd (a b _k : Word) : Word := a &&& b

/-- OR (R76). -/
def aluOr (a b _k : Word) : Word := a ||| b

/-- XOR (R76). -/
def aluXor (a b _k : Word) : Word := a ^^^ b

/-- SHL by sB[5:0] (R76). -/
def aluShl (a b _k : Word) : Word := a <<< (b.toNat % 64)

/-- SHR by sB[5:0] (R76). -/
def aluShr (a b _k : Word) : Word := a >>> (b.toNat % 64)

/-- SRA by sB[5:0] (R76). -/
def aluSra (a b _k : Word) : Word := a.sshiftRight (b.toNat % 64)

/-- SLT (R76). -/
def aluSlt (a b _k : Word) : Word := flag (a.slt b)

/-- SLTU (R76). -/
def aluSltu (a b _k : Word) : Word := flag (a.ult b)

/-- MIN (R76). -/
def aluMin (a b _k : Word) : Word := if a.slt b then a else b

/-- MAX (R76). -/
def aluMax (a b _k : Word) : Word := if a.slt b then b else a

/-- MINU (R76). -/
def aluMinu (a b _k : Word) : Word := if a.ult b then a else b

/-- MAXU (R76). -/
def aluMaxu (a b _k : Word) : Word := if a.ult b then b else a

/-- SEL: sC ≠ 0 ? sA : sB (R76). -/
def aluSel (a b k : Word) : Word := if k = 0 then b else a

/-- FADD.F32 (R76). -/
def aluFaddF32 (a b _k : Word) : Word := word32 (addF32 (low32 a) (low32 b))

/-- FSUB.F32 (R76). -/
def aluFsubF32 (a b _k : Word) : Word := word32 (subF32 (low32 a) (low32 b))

/-- FMUL.F32 (R76). -/
def aluFmulF32 (a b _k : Word) : Word := word32 (mulF32 (low32 a) (low32 b))

/-- FMA.F32: one rounding (R76). -/
def aluFmaF32 (a b k : Word) : Word := word32 (fmaF32 (low32 a) (low32 b) (low32 k))

/-- FMIN.F32: NaN and zeros as VMIN (log 17) (R76). -/
def aluFminF32 (a b _k : Word) : Word := word32 (minF32 (low32 a) (low32 b))

/-- FMAX.F32: NaN and zeros as VMAX (log 17) (R76). -/
def aluFmaxF32 (a b _k : Word) : Word := word32 (maxF32 (low32 a) (low32 b))

/-- FCMPLT.F32 writes the integer 1 or 0 (R76). -/
def aluFcmpltF32 (a b _k : Word) : Word := flag (fvLt (f32 (low32 a)) (f32 (low32 b)))

/-- FCMPEQ.F32 writes the integer 1 or 0 (R76). -/
def aluFcmpeqF32 (a b _k : Word) : Word := flag (fvEq (f32 (low32 a)) (f32 (low32 b)))

/-- FCVT.F32.I64 (R76). -/
def aluFcvtF32I64 (a _b _k : Word) : Word := word32 (f32OfI64 a)

/-- FCVT.I64.F32 saturates; NaN gives 0 (R76). -/
def aluFcvtI64F32 (a _b _k : Word) : Word := i64OfF32 (low32 a)

/-- ADDI (R77). -/
def aluAddi (a i : Word) : Word := a + i

/-- ANDI (R77). -/
def aluAndi (a i : Word) : Word := a &&& i

/-- ORI (R77). -/
def aluOri (a i : Word) : Word := a ||| i

/-- XORI (R77). -/
def aluXori (a i : Word) : Word := a ^^^ i

/-- SHLI by IMM[5:0] (R77). -/
def aluShli (a i : Word) : Word := a <<< (i.toNat % 64)

/-- SHRI by IMM[5:0] (R77). -/
def aluShri (a i : Word) : Word := a >>> (i.toNat % 64)

/-- SRAI by IMM[5:0] (R77). -/
def aluSrai (a i : Word) : Word := a.sshiftRight (i.toNat % 64)

/-- SLTI (R77). -/
def aluSlti (a i : Word) : Word := flag (a.slt i)

/-- SLTIU: IMM is sign-extended, the comparison unsigned (R77). -/
def aluSltiu (a i : Word) : Word := flag (a.ult i)

/-- LIH: IMM is not sign-extended (R77). -/
def aluLih (a i : Word) : Word := (a &&& 0xFFFFFFFF#64) ||| (i <<< 32)

/-- A scalar instruction of format R: sD gets a value computed from sA, sB and sC. -/
def scalarR (s : State) (c t op : Nat) (f : RFields) (g : Word → Word → Word → Word) : State :=
  issue s c t (encR 1 op f) (fun s' _ =>
    modCell s' c (fun x =>
      setS x t f.d.toNat (g (sReg s.free x t f.a.toNat) (sReg s.free x t f.b.toNat) (sReg s.free x t f.c.toNat))))

/-- A scalar instruction of format I: sD gets a value computed from sA and the sign-extended IMM. -/
def scalarI (s : State) (c t op : Nat) (f : IFields) (g : Word → Word → Word) : State :=
  issue s c t (encI 2 op f) (fun s' _ =>
    modCell s' c (fun x => setS x t f.d.toNat (g (sReg s.free x t f.a.toNat) (f.imm.signExtend 64))))

def execKAdd (c t : Nat) (f : RFields) (s : State) : Out := onThread c t (scalarR s c t 0x00 f aluAdd)
def execKSub (c t : Nat) (f : RFields) (s : State) : Out := onThread c t (scalarR s c t 0x01 f aluSub)
def execKMul (c t : Nat) (f : RFields) (s : State) : Out := onThread c t (scalarR s c t 0x02 f aluMul)
def execKMulh (c t : Nat) (f : RFields) (s : State) : Out := onThread c t (scalarR s c t 0x03 f aluMulh)
def execKMulhu (c t : Nat) (f : RFields) (s : State) : Out := onThread c t (scalarR s c t 0x04 f aluMulhu)
def execKDiv (c t : Nat) (f : RFields) (s : State) : Out := onThread c t (scalarR s c t 0x05 f aluDiv)
def execKDivu (c t : Nat) (f : RFields) (s : State) : Out := onThread c t (scalarR s c t 0x06 f aluDivu)
def execKRem (c t : Nat) (f : RFields) (s : State) : Out := onThread c t (scalarR s c t 0x07 f aluRem)
def execKRemu (c t : Nat) (f : RFields) (s : State) : Out := onThread c t (scalarR s c t 0x08 f aluRemu)
def execKAnd (c t : Nat) (f : RFields) (s : State) : Out := onThread c t (scalarR s c t 0x10 f aluAnd)
def execKOr (c t : Nat) (f : RFields) (s : State) : Out := onThread c t (scalarR s c t 0x11 f aluOr)
def execKXor (c t : Nat) (f : RFields) (s : State) : Out := onThread c t (scalarR s c t 0x12 f aluXor)
def execKShl (c t : Nat) (f : RFields) (s : State) : Out := onThread c t (scalarR s c t 0x13 f aluShl)
def execKShr (c t : Nat) (f : RFields) (s : State) : Out := onThread c t (scalarR s c t 0x14 f aluShr)
def execKSra (c t : Nat) (f : RFields) (s : State) : Out := onThread c t (scalarR s c t 0x15 f aluSra)
def execKSlt (c t : Nat) (f : RFields) (s : State) : Out := onThread c t (scalarR s c t 0x18 f aluSlt)
def execKSltu (c t : Nat) (f : RFields) (s : State) : Out := onThread c t (scalarR s c t 0x19 f aluSltu)
def execKMin (c t : Nat) (f : RFields) (s : State) : Out := onThread c t (scalarR s c t 0x1A f aluMin)
def execKMax (c t : Nat) (f : RFields) (s : State) : Out := onThread c t (scalarR s c t 0x1B f aluMax)
def execKMinu (c t : Nat) (f : RFields) (s : State) : Out := onThread c t (scalarR s c t 0x1C f aluMinu)
def execKMaxu (c t : Nat) (f : RFields) (s : State) : Out := onThread c t (scalarR s c t 0x1D f aluMaxu)
def execKSel (c t : Nat) (f : RFields) (s : State) : Out := onThread c t (scalarR s c t 0x1E f aluSel)
def execKFaddF32 (c t : Nat) (f : RFields) (s : State) : Out := onThread c t (scalarR s c t 0x20 f aluFaddF32)
def execKFsubF32 (c t : Nat) (f : RFields) (s : State) : Out := onThread c t (scalarR s c t 0x21 f aluFsubF32)
def execKFmulF32 (c t : Nat) (f : RFields) (s : State) : Out := onThread c t (scalarR s c t 0x22 f aluFmulF32)
def execKFmaF32 (c t : Nat) (f : RFields) (s : State) : Out := onThread c t (scalarR s c t 0x23 f aluFmaF32)
def execKFminF32 (c t : Nat) (f : RFields) (s : State) : Out := onThread c t (scalarR s c t 0x24 f aluFminF32)
def execKFmaxF32 (c t : Nat) (f : RFields) (s : State) : Out := onThread c t (scalarR s c t 0x25 f aluFmaxF32)
def execKFcmpltF32 (c t : Nat) (f : RFields) (s : State) : Out := onThread c t (scalarR s c t 0x26 f aluFcmpltF32)
def execKFcmpeqF32 (c t : Nat) (f : RFields) (s : State) : Out := onThread c t (scalarR s c t 0x27 f aluFcmpeqF32)
def execKFcvtF32I64 (c t : Nat) (f : RFields) (s : State) : Out := onThread c t (scalarR s c t 0x28 f aluFcvtF32I64)
def execKFcvtI64F32 (c t : Nat) (f : RFields) (s : State) : Out := onThread c t (scalarR s c t 0x29 f aluFcvtI64F32)
def execKAddi (c t : Nat) (f : IFields) (s : State) : Out := onThread c t (scalarI s c t 0x00 f aluAddi)
def execKAndi (c t : Nat) (f : IFields) (s : State) : Out := onThread c t (scalarI s c t 0x01 f aluAndi)
def execKOri (c t : Nat) (f : IFields) (s : State) : Out := onThread c t (scalarI s c t 0x02 f aluOri)
def execKXori (c t : Nat) (f : IFields) (s : State) : Out := onThread c t (scalarI s c t 0x03 f aluXori)
def execKShli (c t : Nat) (f : IFields) (s : State) : Out := onThread c t (scalarI s c t 0x04 f aluShli)
def execKShri (c t : Nat) (f : IFields) (s : State) : Out := onThread c t (scalarI s c t 0x05 f aluShri)
def execKSrai (c t : Nat) (f : IFields) (s : State) : Out := onThread c t (scalarI s c t 0x06 f aluSrai)
def execKSlti (c t : Nat) (f : IFields) (s : State) : Out := onThread c t (scalarI s c t 0x07 f aluSlti)
def execKSltiu (c t : Nat) (f : IFields) (s : State) : Out := onThread c t (scalarI s c t 0x08 f aluSltiu)
def execKLih (c t : Nat) (f : IFields) (s : State) : Out := onThread c t (scalarI s c t 0x09 f aluLih)

end Sys2Proof.Machine
end

