-- ==== Sys2Proof/Machine/Dispatch.lean ====
section
/-!
DEFINITION. Machine/Dispatch.lean: what each command does, one arm per command of the table, each a direct call of its meaning.
-/
namespace Sys2Proof.Machine

def exec (i : Instr) (s : State) : Host.Outcome State Fault Refusal :=
  match i with
  | .kNop c t f => Sys2Proof.Machine.execKNop c t f s
  | .kJmp c t f => Sys2Proof.Machine.execKJmp c t f s
  | .kJal c t f => Sys2Proof.Machine.execKJal c t f s
  | .kJr c t f => Sys2Proof.Machine.execKJr c t f s
  | .kJalr c t f => Sys2Proof.Machine.execKJalr c t f s
  | .kBeq c t f => Sys2Proof.Machine.execKBeq c t f s
  | .kBne c t f => Sys2Proof.Machine.execKBne c t f s
  | .kBlt c t f => Sys2Proof.Machine.execKBlt c t f s
  | .kBge c t f => Sys2Proof.Machine.execKBge c t f s
  | .kBltu c t f => Sys2Proof.Machine.execKBltu c t f s
  | .kBgeu c t f => Sys2Proof.Machine.execKBgeu c t f s
  | .kTspawn c t f => Sys2Proof.Machine.execKTspawn c t f s
  | .kTjoin c t f => Sys2Proof.Machine.execKTjoin c t f s
  | .kYield c t f => Sys2Proof.Machine.execKYield c t f s
  | .kHalt c t f => Sys2Proof.Machine.execKHalt c t f s
  | .kRdsr c t f => Sys2Proof.Machine.execKRdsr c t f s
  | .kSpark c t f => Sys2Proof.Machine.execKSpark c t f s
  | .kAdd c t f => Sys2Proof.Machine.execKAdd c t f s
  | .kSub c t f => Sys2Proof.Machine.execKSub c t f s
  | .kMul c t f => Sys2Proof.Machine.execKMul c t f s
  | .kMulh c t f => Sys2Proof.Machine.execKMulh c t f s
  | .kMulhu c t f => Sys2Proof.Machine.execKMulhu c t f s
  | .kDiv c t f => Sys2Proof.Machine.execKDiv c t f s
  | .kDivu c t f => Sys2Proof.Machine.execKDivu c t f s
  | .kRem c t f => Sys2Proof.Machine.execKRem c t f s
  | .kRemu c t f => Sys2Proof.Machine.execKRemu c t f s
  | .kAnd c t f => Sys2Proof.Machine.execKAnd c t f s
  | .kOr c t f => Sys2Proof.Machine.execKOr c t f s
  | .kXor c t f => Sys2Proof.Machine.execKXor c t f s
  | .kShl c t f => Sys2Proof.Machine.execKShl c t f s
  | .kShr c t f => Sys2Proof.Machine.execKShr c t f s
  | .kSra c t f => Sys2Proof.Machine.execKSra c t f s
  | .kSlt c t f => Sys2Proof.Machine.execKSlt c t f s
  | .kSltu c t f => Sys2Proof.Machine.execKSltu c t f s
  | .kMin c t f => Sys2Proof.Machine.execKMin c t f s
  | .kMax c t f => Sys2Proof.Machine.execKMax c t f s
  | .kMinu c t f => Sys2Proof.Machine.execKMinu c t f s
  | .kMaxu c t f => Sys2Proof.Machine.execKMaxu c t f s
  | .kSel c t f => Sys2Proof.Machine.execKSel c t f s
  | .kFaddF32 c t f => Sys2Proof.Machine.execKFaddF32 c t f s
  | .kFsubF32 c t f => Sys2Proof.Machine.execKFsubF32 c t f s
  | .kFmulF32 c t f => Sys2Proof.Machine.execKFmulF32 c t f s
  | .kFmaF32 c t f => Sys2Proof.Machine.execKFmaF32 c t f s
  | .kFminF32 c t f => Sys2Proof.Machine.execKFminF32 c t f s
  | .kFmaxF32 c t f => Sys2Proof.Machine.execKFmaxF32 c t f s
  | .kFcmpltF32 c t f => Sys2Proof.Machine.execKFcmpltF32 c t f s
  | .kFcmpeqF32 c t f => Sys2Proof.Machine.execKFcmpeqF32 c t f s
  | .kFcvtF32I64 c t f => Sys2Proof.Machine.execKFcvtF32I64 c t f s
  | .kFcvtI64F32 c t f => Sys2Proof.Machine.execKFcvtI64F32 c t f s
  | .kAddi c t f => Sys2Proof.Machine.execKAddi c t f s
  | .kAndi c t f => Sys2Proof.Machine.execKAndi c t f s
  | .kOri c t f => Sys2Proof.Machine.execKOri c t f s
  | .kXori c t f => Sys2Proof.Machine.execKXori c t f s
  | .kShli c t f => Sys2Proof.Machine.execKShli c t f s
  | .kShri c t f => Sys2Proof.Machine.execKShri c t f s
  | .kSrai c t f => Sys2Proof.Machine.execKSrai c t f s
  | .kSlti c t f => Sys2Proof.Machine.execKSlti c t f s
  | .kSltiu c t f => Sys2Proof.Machine.execKSltiu c t f s
  | .kLih c t f => Sys2Proof.Machine.execKLih c t f s
  | .kLd c t f => Sys2Proof.Machine.execKLd c t f s
  | .kLds c t f => Sys2Proof.Machine.execKLds c t f s
  | .kSt c t f => Sys2Proof.Machine.execKSt c t f s
  | .kLdx c t f => Sys2Proof.Machine.execKLdx c t f s
  | .kStx c t f => Sys2Proof.Machine.execKStx c t f s
  | .kAadd c t f => Sys2Proof.Machine.execKAadd c t f s
  | .kAfaddF32 c t f => Sys2Proof.Machine.execKAfaddF32 c t f s
  | .kAxs c t f => Sys2Proof.Machine.execKAxs c t f s
  | .kAmin c t f => Sys2Proof.Machine.execKAmin c t f s
  | .kAmax c t f => Sys2Proof.Machine.execKAmax c t f s
  | .kAxchg c t f => Sys2Proof.Machine.execKAxchg c t f s
  | .kAcas c t f => Sys2Proof.Machine.execKAcas c t f s
  | .kFenceThread c t f => Sys2Proof.Machine.execKFenceThread c t f s
  | .kFenceCell c t f => Sys2Proof.Machine.execKFenceCell c t f s
  | .kSyncArrive c t f => Sys2Proof.Machine.execKSyncArrive c t f s
  | .kSyncArm c t f => Sys2Proof.Machine.execKSyncArm c t f s
  | .kSyncWait c t f => Sys2Proof.Machine.execKSyncWait c t f s
  | .kSyncWaitt c t f => Sys2Proof.Machine.execKSyncWaitt c t f s
  | .kSyncRead c t f => Sys2Proof.Machine.execKSyncRead c t f s
  | .kSyncReset c t f => Sys2Proof.Machine.execKSyncReset c t f s
  | .kAllocOut c t f => Sys2Proof.Machine.execKAllocOut c t f s
  | .kAllocTmp c t f => Sys2Proof.Machine.execKAllocTmp c t f s
  | .kFreeTmp c t f => Sys2Proof.Machine.execKFreeTmp c t f s
  | .kPublish c t f => Sys2Proof.Machine.execKPublish c t f s
  | .kQLoad c t f => Sys2Proof.Machine.execKQLoad c t f s
  | .kQStart c t f => Sys2Proof.Machine.execKQStart c t f s
  | .kQStop c t f => Sys2Proof.Machine.execKQStop c t f s
  | .kQPopS c t f => Sys2Proof.Machine.execKQPopS c t f s
  | .kQStatus c t f => Sys2Proof.Machine.execKQStatus c t f s
  | .kVadd c t f => Sys2Proof.Machine.execKVadd c t f s
  | .kVsub c t f => Sys2Proof.Machine.execKVsub c t f s
  | .kVmul c t f => Sys2Proof.Machine.execKVmul c t f s
  | .kVfma c t f => Sys2Proof.Machine.execKVfma c t f s
  | .kVmin c t f => Sys2Proof.Machine.execKVmin c t f s
  | .kVmax c t f => Sys2Proof.Machine.execKVmax c t f s
  | .kVabs c t f => Sys2Proof.Machine.execKVabs c t f s
  | .kVneg c t f => Sys2Proof.Machine.execKVneg c t f s
  | .kVdiv c t f => Sys2Proof.Machine.execKVdiv c t f s
  | .kVsqrt c t f => Sys2Proof.Machine.execKVsqrt c t f s
  | .kVadds c t f => Sys2Proof.Machine.execKVadds c t f s
  | .kVmuls c t f => Sys2Proof.Machine.execKVmuls c t f s
  | .kViadd c t f => Sys2Proof.Machine.execKViadd c t f s
  | .kViaddSat c t f => Sys2Proof.Machine.execKViaddSat c t f s
  | .kVisub c t f => Sys2Proof.Machine.execKVisub c t f s
  | .kVisubSat c t f => Sys2Proof.Machine.execKVisubSat c t f s
  | .kVand c t f => Sys2Proof.Machine.execKVand c t f s
  | .kVor c t f => Sys2Proof.Machine.execKVor c t f s
  | .kVxor c t f => Sys2Proof.Machine.execKVxor c t f s
  | .kVshl c t f => Sys2Proof.Machine.execKVshl c t f s
  | .kVshr c t f => Sys2Proof.Machine.execKVshr c t f s
  | .kVsra c t f => Sys2Proof.Machine.execKVsra c t f s
  | .kVexp c t f => Sys2Proof.Machine.execKVexp c t f s
  | .kVlog c t f => Sys2Proof.Machine.execKVlog c t f s
  | .kVrcp c t f => Sys2Proof.Machine.execKVrcp c t f s
  | .kVrsqrt c t f => Sys2Proof.Machine.execKVrsqrt c t f s
  | .kVtanh c t f => Sys2Proof.Machine.execKVtanh c t f s
  | .kVsigm c t f => Sys2Proof.Machine.execKVsigm c t f s
  | .kVdsigm c t f => Sys2Proof.Machine.execKVdsigm c t f s
  | .kVdtanh c t f => Sys2Proof.Machine.execKVdtanh c t f s
  | .kVdrelu c t f => Sys2Proof.Machine.execKVdrelu c t f s
  | .kVdexp c t f => Sys2Proof.Machine.execKVdexp c t f s
  | .kVdsqrt c t f => Sys2Proof.Machine.execKVdsqrt c t f s
  | .kVdrcp c t f => Sys2Proof.Machine.execKVdrcp c t f s
  | .kVdsoftmax c t f => Sys2Proof.Machine.execKVdsoftmax c t f s
  | .kVcmpeq c t f => Sys2Proof.Machine.execKVcmpeq c t f s
  | .kVcmplt c t f => Sys2Proof.Machine.execKVcmplt c t f s
  | .kVcmple c t f => Sys2Proof.Machine.execKVcmple c t f s
  | .kVtestnan c t f => Sys2Proof.Machine.execKVtestnan c t f s
  | .kVtestinf c t f => Sys2Proof.Machine.execKVtestinf c t f s
  | .kVtestfin c t f => Sys2Proof.Machine.execKVtestfin c t f s
  | .kMand c t f => Sys2Proof.Machine.execKMand c t f s
  | .kMor c t f => Sys2Proof.Machine.execKMor c t f s
  | .kMxor c t f => Sys2Proof.Machine.execKMxor c t f s
  | .kMnot c t f => Sys2Proof.Machine.execKMnot c t f s
  | .kMfirst c t f => Sys2Proof.Machine.execKMfirst c t f s
  | .kVrsumRow c t f => Sys2Proof.Machine.execKVrsumRow c t f s
  | .kVrsumCol c t f => Sys2Proof.Machine.execKVrsumCol c t f s
  | .kVrmaxRow c t f => Sys2Proof.Machine.execKVrmaxRow c t f s
  | .kVrmaxCol c t f => Sys2Proof.Machine.execKVrmaxCol c t f s
  | .kVrminRow c t f => Sys2Proof.Machine.execKVrminRow c t f s
  | .kVrminCol c t f => Sys2Proof.Machine.execKVrminCol c t f s
  | .kVcvt c t f => Sys2Proof.Machine.execKVcvt c t f s
  | .kVmov c t f => Sys2Proof.Machine.execKVmov c t f s
  | .kVsel c t f => Sys2Proof.Machine.execKVsel c t f s
  | .kVbcast c t f => Sys2Proof.Machine.execKVbcast c t f s
  | .kVtrans c t f => Sys2Proof.Machine.execKVtrans c t f s
  | .kVextr c t f => Sys2Proof.Machine.execKVextr c t f s
  | .kVins c t f => Sys2Proof.Machine.execKVins c t f s
  | .kVspark c t f => Sys2Proof.Machine.execKVspark c t f s
  | .kVld c t f => Sys2Proof.Machine.execKVld c t f s
  | .kVst c t f => Sys2Proof.Machine.execKVst c t f s
  | .kVldQ c t f => Sys2Proof.Machine.execKVldQ c t f s
  | .kVldm c t f => Sys2Proof.Machine.execKVldm c t f s
  | .kVstm c t f => Sys2Proof.Machine.execKVstm c t f s
  | .kMma c t f => Sys2Proof.Machine.execKMma c t f s
  | .kMmaZ c t f => Sys2Proof.Machine.execKMmaZ c t f s
  | .kQuench c t f => Sys2Proof.Machine.execKQuench c t f s
  | .kQuenchReset c t f => Sys2Proof.Machine.execKQuenchReset c t f s
  | .kQuenchPreload c t f => Sys2Proof.Machine.execKQuenchPreload c t f s
  | .kAzero c t f => Sys2Proof.Machine.execKAzero c t f s
  | .kApreload c t f => Sys2Proof.Machine.execKApreload c t f s
  | .instructionFetch c => Sys2Proof.Machine.execInstructionFetch c s
  | .missRegisterGrant c => Sys2Proof.Machine.execMissRegisterGrant c s
  | .globalLoadReturn c stamp => Sys2Proof.Machine.execGlobalLoadReturn c stamp s
  | .fenceComplete c t => Sys2Proof.Machine.execFenceComplete c t s
  | .cellReport c => Sys2Proof.Machine.execCellReport c s
  | .anvilChunkLand c => Sys2Proof.Machine.execAnvilChunkLand c s
  | .quenchReadStart c => Sys2Proof.Machine.execQuenchReadStart c s
  | .quenchReadDone c => Sys2Proof.Machine.execQuenchReadDone c s
  | .allocatorAnswer c => Sys2Proof.Machine.execAllocatorAnswer c s
  | .bellowsRequest c => Sys2Proof.Machine.execBellowsRequest c s
  | .bellowsDataReturn c id => Sys2Proof.Machine.execBellowsDataReturn c id s
  | .verticalBeatCrcFail c => Sys2Proof.Machine.execVerticalBeatCrcFail c s
  | .laneTest c failing => Sys2Proof.Machine.execLaneTest c failing s
  | .scrubPatrol d found => Sys2Proof.Machine.execScrubPatrol d found s
  | .pageMoveDone j vpn => Sys2Proof.Machine.execPageMoveDone j vpn s
  | .frameZeroComplete d frame => Sys2Proof.Machine.execFrameZeroComplete d frame s
  | .itemCommit j item => Sys2Proof.Machine.execItemCommit j item s
  | .itemDone j item => Sys2Proof.Machine.execItemDone j item s
  | .publicationFold j inst => Sys2Proof.Machine.execPublicationFold j inst s
  | .icehouseSpillStart d j => Sys2Proof.Machine.execIcehouseSpillStart d j s
  | .icehouseRefillStart d j => Sys2Proof.Machine.execIcehouseRefillStart d j s
  | .icehouseMoveDone d j => Sys2Proof.Machine.execIcehouseMoveDone d j s
  | .stashFrameRetry c => Sys2Proof.Machine.execStashFrameRetry c s
  | .icehouseDeadlockTimeout j => Sys2Proof.Machine.execIcehouseDeadlockTimeout j s
  | .slotSend c port => Sys2Proof.Machine.execSlotSend c port s
  | .slotLand c port => Sys2Proof.Machine.execSlotLand c port s
  | .creditReturn c port => Sys2Proof.Machine.execCreditReturn c port s
  | .dNop p f => Sys2Proof.Machine.execDNop p f s
  | .dAdd p f => Sys2Proof.Machine.execDAdd p f s
  | .dAddi p f => Sys2Proof.Machine.execDAddi p f s
  | .dSub p f => Sys2Proof.Machine.execDSub p f s
  | .dAndi p f => Sys2Proof.Machine.execDAndi p f s
  | .dOr p f => Sys2Proof.Machine.execDOr p f s
  | .dShli p f => Sys2Proof.Machine.execDShli p f s
  | .dShri p f => Sys2Proof.Machine.execDShri p f s
  | .dMuli p f => Sys2Proof.Machine.execDMuli p f s
  | .dLdt p f => Sys2Proof.Machine.execDLdt p f s
  | .dLds p f => Sys2Proof.Machine.execDLds p f s
  | .dSts p f => Sys2Proof.Machine.execDSts p f s
  | .dBeq p f => Sys2Proof.Machine.execDBeq p f s
  | .dBne p f => Sys2Proof.Machine.execDBne p f s
  | .dBltu p f => Sys2Proof.Machine.execDBltu p f s
  | .dJmp p f => Sys2Proof.Machine.execDJmp p f s
  | .dNext p f => Sys2Proof.Machine.execDNext p f s
  | .nextResume p => Sys2Proof.Machine.execNextResume p s
  | .dArg p f => Sys2Proof.Machine.execDArg p f s
  | .dLaunch p f => Sys2Proof.Machine.execDLaunch p f s
  | .thread0Start p b => Sys2Proof.Machine.execThread0Start p b s
  | .dKindle p f => Sys2Proof.Machine.execDKindle p f s
  | .kindleComplete p => Sys2Proof.Machine.execKindleComplete p s
  | .pavilionGate p => Sys2Proof.Machine.execPavilionGate p s
  | .pavilionOff p => Sys2Proof.Machine.execPavilionOff p s
  | .dMigrate p f => Sys2Proof.Machine.execDMigrate p f s
  | .migrationEndMarker j mig port => Sys2Proof.Machine.execMigrationEndMarker j mig port s
  | .migrationMoveMarker j mig port => Sys2Proof.Machine.execMigrationMoveMarker j mig port s
  | .migrationComplete j mig => Sys2Proof.Machine.execMigrationComplete j mig s
  | .dStat p f => Sys2Proof.Machine.execDStat p f s
  | .dHalt p f => Sys2Proof.Machine.execDHalt p f s
  | .hearthAtomicApply d => Sys2Proof.Machine.execHearthAtomicApply d s
  | .syncPortUpdate o => Sys2Proof.Machine.execSyncPortUpdate o s
  | .waitReleaseMessage c t => Sys2Proof.Machine.execWaitReleaseMessage c t s
  | .waittExpiry o c t => Sys2Proof.Machine.execWaittExpiry o c t s
  | .uLdf d f => Sys2Proof.Machine.execULdf d f s
  | .uStf d f => Sys2Proof.Machine.execUStf d f s
  | .uLdc d f => Sys2Proof.Machine.execULdc d f s
  | .uLdk d f => Sys2Proof.Machine.execULdk d f s
  | .uFadd d f => Sys2Proof.Machine.execUFadd d f s
  | .uFsub d f => Sys2Proof.Machine.execUFsub d f s
  | .uFmul d f => Sys2Proof.Machine.execUFmul d f s
  | .uFma d f => Sys2Proof.Machine.execUFma d f s
  | .uFdiv d f => Sys2Proof.Machine.execUFdiv d f s
  | .uFsqrt d f => Sys2Proof.Machine.execUFsqrt d f s
  | .uFmin d f => Sys2Proof.Machine.execUFmin d f s
  | .uFmax d f => Sys2Proof.Machine.execUFmax d f s
  | .uFabs d f => Sys2Proof.Machine.execUFabs d f s
  | .uFneg d f => Sys2Proof.Machine.execUFneg d f s
  | .uFcmplt d f => Sys2Proof.Machine.execUFcmplt d f s
  | .uFcmpeq d f => Sys2Proof.Machine.execUFcmpeq d f s
  | .uSel d f => Sys2Proof.Machine.execUSel d f s
  | .uFtestfin d f => Sys2Proof.Machine.execUFtestfin d f s
  | .uBsum d f => Sys2Proof.Machine.execUBsum d f s
  | .uBmax d f => Sys2Proof.Machine.execUBmax d f s
  | .updItemLaunch d j item => Sys2Proof.Machine.execUpdItemLaunch d j item s
  | .paramFetchStart d j shard => Sys2Proof.Machine.execParamFetchStart d j shard s
  | .paramFetchComplete d received => Sys2Proof.Machine.execParamFetchComplete d received s
  | .digestScrub d j => Sys2Proof.Machine.execDigestScrub d j s
  | .exportRecordWritten j => Sys2Proof.Machine.execExportRecordWritten j s
  | .transitionStart d => Sys2Proof.Machine.execTransitionStart d s
  | .reshardDescriptorComplete d k => Sys2Proof.Machine.execReshardDescriptorComplete d k s
  | .epochArrived j => Sys2Proof.Machine.execEpochArrived j s
  | .epochActivationSend j => Sys2Proof.Machine.execEpochActivationSend j s
  | .epochActivate j => Sys2Proof.Machine.execEpochActivate j s
  | .flitReceive l flit => Sys2Proof.Machine.execFlitReceive l flit s
  | .linkDetectComplete l => Sys2Proof.Machine.execLinkDetectComplete l s
  | .linkTrainComplete l => Sys2Proof.Machine.execLinkTrainComplete l s
  | .linkAlignComplete l => Sys2Proof.Machine.execLinkAlignComplete l s
  | .linkNegotiateComplete l peer peerLink peerRev peerLanes peerAssigned => Sys2Proof.Machine.execLinkNegotiateComplete l peer peerLink peerRev peerLanes peerAssigned s
  | .linkStateTimeout l lanes => Sys2Proof.Machine.execLinkStateTimeout l lanes s
  | .linkRetryDelayExpiry l => Sys2Proof.Machine.execLinkRetryDelayExpiry l s
  | .linkLoss l => Sys2Proof.Machine.execLinkLoss l s
  | .zfpRd d p => Sys2Proof.Machine.execZfpRd d p s
  | .zfpRdrsp d p => Sys2Proof.Machine.execZfpRdrsp d p s
  | .zfpWr d p => Sys2Proof.Machine.execZfpWr d p s
  | .zfpAtom d p => Sys2Proof.Machine.execZfpAtom d p s
  | .zfpAtomrsp d p => Sys2Proof.Machine.execZfpAtomrsp d p s
  | .zfpAck d p => Sys2Proof.Machine.execZfpAck d p s
  | .zfpRack d p => Sys2Proof.Machine.execZfpRack d p s
  | .zfpArrive d p => Sys2Proof.Machine.execZfpArrive d p s
  | .zfpMark d p => Sys2Proof.Machine.execZfpMark d p s
  | .zfpXfer d p => Sys2Proof.Machine.execZfpXfer d p s
  | .zfpStatus d p => Sys2Proof.Machine.execZfpStatus d p s
  | .zfpCrd d p => Sys2Proof.Machine.execZfpCrd d p s
  | .zfpCrdx d p => Sys2Proof.Machine.execZfpCrdx d p s
  | .zfpCdata d p => Sys2Proof.Machine.execZfpCdata d p s
  | .zfpCrecall d p => Sys2Proof.Machine.execZfpCrecall d p s
  | .zfpCrack d p => Sys2Proof.Machine.execZfpCrack d p s
  | .zfpCwb d p => Sys2Proof.Machine.execZfpCwb d p s
  | .packetForward d p => Sys2Proof.Machine.execPacketForward d p s
  | .combineWindowClose d id => Sys2Proof.Machine.execCombineWindowClose d id s
  | .packetResidencyDrop d id => Sys2Proof.Machine.execPacketResidencyDrop d id s
  | .ackPeriodic d ch => Sys2Proof.Machine.execAckPeriodic d ch s
  | .channelResendTimeout d ch => Sys2Proof.Machine.execChannelResendTimeout d ch s
  | .channelEntryIdleFree d ch sending => Sys2Proof.Machine.execChannelEntryIdleFree d ch sending s
  | .remoteRequestRetry d tag => Sys2Proof.Machine.execRemoteRequestRetry d tag s
  | .remoteRequestTimeout d tag => Sys2Proof.Machine.execRemoteRequestTimeout d tag s
  | .tagQuarantineEnd d tag => Sys2Proof.Machine.execTagQuarantineEnd d tag s
  | .keptResultExpiry d id => Sys2Proof.Machine.execKeptResultExpiry d id s
  | .regionTransfer d v => Sys2Proof.Machine.execRegionTransfer d v s
  | .markSend d v => Sys2Proof.Machine.execMarkSend d v s
  | .markReceiveRead d => Sys2Proof.Machine.execMarkReceiveRead d s
  | .pkgidWrite v => Sys2Proof.Machine.execPkgidWrite v s
  | .ucieCrcError u lane retrain => Sys2Proof.Machine.execUcieCrcError u lane retrain s
  | .ucieTrainingRetry trained => Sys2Proof.Machine.execUcieTrainingRetry trained s
  | .hdmRead dpa => Sys2Proof.Machine.execHdmRead dpa s
  | .hdmWrite dpa bytes => Sys2Proof.Machine.execHdmWrite dpa bytes s
  | .hostSyncRead off size => Sys2Proof.Machine.execHostSyncRead off size s
  | .syncWindowWrite off size v => Sys2Proof.Machine.execSyncWindowWrite off size v s
  | .syncopArrive d v hw => Sys2Proof.Machine.execSyncopArrive d v hw s
  | .syncopArm d v hw => Sys2Proof.Machine.execSyncopArm d v hw s
  | .syncopReset d v hw => Sys2Proof.Machine.execSyncopReset d v hw s
  | .syncopSetevt d v hw => Sys2Proof.Machine.execSyncopSetevt d v hw s
  | .syncopClrevt d v hw => Sys2Proof.Machine.execSyncopClrevt d v hw s
  | .tailWrite q v hw => Sys2Proof.Machine.execTailWrite q v hw s
  | .queueEntryAccept q => Sys2Proof.Machine.execQueueEntryAccept q s
  | .completionWrite q => Sys2Proof.Machine.execCompletionWrite q s
  | .cqheadWrite q v => Sys2Proof.Machine.execCqheadWrite q v s
  | .queueEnable q v => Sys2Proof.Machine.execQueueEnable q v s
  | .queueDisable q v => Sys2Proof.Machine.execQueueDisable q v s
  | .queueNop q => Sys2Proof.Machine.execQueueNop q s
  | .loadImage image => Sys2Proof.Machine.execLoadImage image s
  | .unloadEntry => Sys2Proof.Machine.execUnloadEntry s
  | .unloadComplete j => Sys2Proof.Machine.execUnloadComplete j s
  | .stepEntry q => Sys2Proof.Machine.execStepEntry q s
  | .exportEntry q => Sys2Proof.Machine.execExportEntry q s
  | .importEntry q => Sys2Proof.Machine.execImportEntry q s
  | .eventRoute => Sys2Proof.Machine.execEventRoute s
  | .eventPendClear i0 v => Sys2Proof.Machine.execEventPendClear i0 v s
  | .eventSetp i0 v => Sys2Proof.Machine.execEventSetp i0 v s
  | .eventEoi t v => Sys2Proof.Machine.execEventEoi t v s
  | .resetPackage v => Sys2Proof.Machine.execResetPackage v s
  | .resetStack v => Sys2Proof.Machine.execResetStack v s
  | .resetComputeDie v => Sys2Proof.Machine.execResetComputeDie v s
  | .resetPavilion v => Sys2Proof.Machine.execResetPavilion v s
  | .resetLink v => Sys2Proof.Machine.execResetLink v s
  | .linkRetrain l v => Sys2Proof.Machine.execLinkRetrain l v s
  | .linkEnable l v => Sys2Proof.Machine.execLinkEnable l v s
  | .storeDieSelfFault d => Sys2Proof.Machine.execStoreDieSelfFault d s
  | .computeDieSelfFault d => Sys2Proof.Machine.execComputeDieSelfFault d s
  | .stackDrainEnd d aborted => Sys2Proof.Machine.execStackDrainEnd d aborted s
  | .stackReinitComplete d ok hbmOk => Sys2Proof.Machine.execStackReinitComplete d ok hbmOk s
  | .stackHoldTimeout d => Sys2Proof.Machine.execStackHoldTimeout d s
  | .pavilionResetHalt p => Sys2Proof.Machine.execPavilionResetHalt p s
  | .failsafeEnter v => Sys2Proof.Machine.execFailsafeEnter v s
  | .lodgeWatchdogExpiry => Sys2Proof.Machine.execLodgeWatchdogExpiry s
  | .temperPass reads => Sys2Proof.Machine.execTemperPass reads s
  | .coldBoot trained => Sys2Proof.Machine.execColdBoot trained s
  | .bootGo v => Sys2Proof.Machine.execBootGo v s
  | .imageVerifyComplete readOk verifies => Sys2Proof.Machine.execImageVerifyComplete readOk verifies s
  | .nonceDraw => Sys2Proof.Machine.execNonceDraw s
  | .enrollAdd verifies => Sys2Proof.Machine.execEnrollAdd verifies s
  | .enrollRemove verifies => Sys2Proof.Machine.execEnrollRemove verifies s
  | .enrollRelease verifies => Sys2Proof.Machine.execEnrollRelease verifies s
  | .debugUnlock verifies => Sys2Proof.Machine.execDebugUnlock verifies s
  | .spdmGetVersion => Sys2Proof.Machine.execSpdmGetVersion s
  | .spdmGetCapabilities => Sys2Proof.Machine.execSpdmGetCapabilities s
  | .spdmNegotiateAlgorithms asym hash => Sys2Proof.Machine.execSpdmNegotiateAlgorithms asym hash s
  | .spdmGetDigests => Sys2Proof.Machine.execSpdmGetDigests s
  | .spdmGetCertificate slot off len => Sys2Proof.Machine.execSpdmGetCertificate slot off len s
  | .spdmChallenge slot nonce => Sys2Proof.Machine.execSpdmChallenge slot nonce s
  | .spdmGetMeasurements index sign nonce => Sys2Proof.Machine.execSpdmGetMeasurements index sign nonce s
  | .spdmUnsupportedRequest code => Sys2Proof.Machine.execSpdmUnsupportedRequest code s
  | .powerUpRequest => Sys2Proof.Machine.execPowerUpRequest s
  | .powerDownRequest => Sys2Proof.Machine.execPowerDownRequest s
  | .powerGoodRise r => Sys2Proof.Machine.execPowerGoodRise r s
  | .powerGoodFall r => Sys2Proof.Machine.execPowerGoodFall r s
  | .powerGoodTimeout r => Sys2Proof.Machine.execPowerGoodTimeout r s
  | .powerDownStepTimer => Sys2Proof.Machine.execPowerDownStepTimer s
  | .railOutOfTolerance => Sys2Proof.Machine.execRailOutOfTolerance s
  | .refclkLoss k => Sys2Proof.Machine.execRefclkLoss k s
  | .refclkReturn k => Sys2Proof.Machine.execRefclkReturn k s
  | .thermalTrip hbm idx temp => Sys2Proof.Machine.execThermalTrip hbm idx temp s
  | .overCurrent d => Sys2Proof.Machine.execOverCurrent d s
  | .prochotChange high => Sys2Proof.Machine.execProchotChange high s
  | .throttlePeriod m => Sys2Proof.Machine.execThrottlePeriod m s
  | .sleepEntry => Sys2Proof.Machine.execSleepEntry s
  | .sleepExit => Sys2Proof.Machine.execSleepExit s
  | .sleepExitComplete => Sys2Proof.Machine.execSleepExitComplete s
  | .registerWrite off size v => Sys2Proof.Machine.execRegisterWrite off size v s
  | .registerRead off size => Sys2Proof.Machine.execRegisterRead off size s
  | .powerLoss => Sys2Proof.Machine.execPowerLoss s
  | .hbmReinitComplete h ok => Sys2Proof.Machine.execHbmReinitComplete h ok s
  | .updItemEnd d => Sys2Proof.Machine.execUpdItemEnd d s
  | .lodgeStateUncorrectable => Sys2Proof.Machine.execLodgeStateUncorrectable s
  | .tongsOperandArrival c isB => Sys2Proof.Machine.execTongsOperandArrival c isB s
  | .spareJournalRecord c => Sys2Proof.Machine.execSpareJournalRecord c s

end Sys2Proof.Machine
end

