-- ==== Sys2Proof/Certificates/Slice0/Obligations.lean ====
section
/-!
DEFINITION. Certificates/Slice0/Obligations.lean: the statements for the provers, and the words they are written in.
-/
namespace Sys2Proof.Claim
open Sys2Proof.Machine

/-! ### Words of the statements -/

/-- Entry e, whose word is w, is the oldest of thread t of cell c in its queue, and nothing holds its issue (R68, R69, R89). -/
def Issues (s : State) (c t : Nat) (w : Word) (e : Entry) : Prop :=
  cellOk c = true ∧ threadOk t = true ∧ canIssue s c t w = some e

/-- Resource n of a cell, numbered as Operands.lean numbers the registers of R55, holds the same: scalar registers 0 to 255, tile
registers from 256, accumulator tiles from 288, masks from 304, STREAMIDs from 312. -/
def sameRes (x y : Cell) (n : Nat) : Prop :=
  isWritten y n = isWritten x n ∧
  (n < 256 → mget 0 y.sreg n = mget 0 x.sreg n) ∧
  (256 ≤ n → n < 288 → memRead y.tile (1024 * (n - 256)) 1024 = memRead x.tile (1024 * (n - 256)) 1024) ∧
  (288 ≤ n → n < 304 → ∀ i, i < 1024 → mget 0 y.acc (1024 * (n - 288) + i) = mget 0 x.acc (1024 * (n - 288) + i)) ∧
  (304 ≤ n → n < 312 → mget 0 y.mask (n - 304) = mget 0 x.mask (n - 304)) ∧
  (312 ≤ n → n < 320 → streamOf y (n - 312) = streamOf x (n - 312))

/-- The frame of an instruction of cell c that writes no resource but those of `dests` and no byte of the cell store but the n bytes from
`lo`: every other register of the cell, every other byte of its store, its stream slots, its fault record, every byte of device memory and
of host memory, every other cell and every other unit of the package hold what they held. -/
def StoreFrame (s u : State) (c : Nat) (dests : List Nat) (lo n : Nat) : Prop :=
  (∀ r, r < 320 → r ∉ dests → sameRes (getCell s c) (getCell u c) r) ∧
  (∀ a, a < lo ∨ lo + n ≤ a → mfind (getCell u c).store a = mfind (getCell s c).store a) ∧
  (getCell u c).prog = (getCell s c).prog ∧ (getCell u c).progWords = (getCell s c).progWords ∧
  (getCell u c).slots = (getCell s c).slots ∧ (getCell u c).faultCode = (getCell s c).faultCode ∧
  (∀ a, memByte u.mem a = memByte s.mem a) ∧ (∀ a, memByte u.host a = memByte s.host a) ∧
  (∀ k, k ≠ c → getCell u k = getCell s k) ∧
  ∃ m k, u = { s with cells := m, free := k }

/-- The frame of one that writes registers only. -/
def RegisterFrame (s u : State) (c : Nat) (dests : List Nat) : Prop := StoreFrame s u c dests 0 0

/-- The frame of a dispatch instruction that writes dN and goes to the next word: every other register of the unit, its table, its program and
state, every other pavilion and every other unit of the package hold what they held. -/
def DispatchFrame (s u : State) (p n : Nat) : Prop :=
  (getPav u p).dpc = (getPav s p).dpc + 1 ∧ (∀ k, k ≠ n → dReg (getPav u p) k = dReg (getPav s p) k) ∧
  (getPav u p).table = (getPav s p).table ∧ (getPav u p).prog = (getPav s p).prog ∧ (getPav u p).dstate = (getPav s p).dstate ∧
  (getPav u p).power = (getPav s p).power ∧ (getPav u p).reserved = (getPav s p).reserved ∧
  (∀ q, q ≠ p → getPav u q = getPav s q) ∧ ∃ m, u = { s with pavs := m }

/-- The update engine of store die d stands at word w of program p, which it runs for shard k. -/
def UpdAt (s : State) (d : Nat) (w : BitVec 32) (r : UpdRun) (k : Nat) (sh : ShardDecl) (p : UpdDecl) : Prop :=
  storeOk d = true ∧ updOf s d = some r ∧ shardOf s r = some (k, sh) ∧ progOf (getJob s r.job) sh = some p ∧ p.words[r.pc]? = some w

/-! ### Tables of instructions -/

/-- The scalar instructions of format R (R76): constructor, opcode, the value that sD gets from sA, sB and sC. -/
def scalarOps : List ((Nat → Nat → RFields → Instr) × Nat × (Word → Word → Word → Word)) :=
  [(.kAdd, 0x00, fun a b _ => a + b), (.kSub, 0x01, fun a b _ => a - b), (.kMul, 0x02, fun a b _ => a * b),
   (.kMulh, 0x03, fun a b _ => BitVec.ofInt 64 (a.toInt * b.toInt / 2 ^ 64)),
   (.kMulhu, 0x04, fun a b _ => BitVec.ofNat 64 (a.toNat * b.toNat / 2 ^ 64)),
   (.kDiv, 0x05, fun a b _ => if b = 0 then BitVec.allOnes 64 else BitVec.ofInt 64 (a.toInt.tdiv b.toInt)),
   (.kDivu, 0x06, fun a b _ => if b = 0 then BitVec.allOnes 64 else BitVec.ofNat 64 (a.toNat / b.toNat)),
   (.kRem, 0x07, fun a b _ => if b = 0 then a else BitVec.ofInt 64 (a.toInt.tmod b.toInt)),
   (.kRemu, 0x08, fun a b _ => if b = 0 then a else BitVec.ofNat 64 (a.toNat % b.toNat)),
   (.kAnd, 0x10, fun a b _ => a &&& b), (.kOr, 0x11, fun a b _ => a ||| b), (.kXor, 0x12, fun a b _ => a ^^^ b),
   (.kShl, 0x13, fun a b _ => BitVec.ofNat 64 (a.toNat * 2 ^ (b.toNat % 64))),
   (.kShr, 0x14, fun a b _ => BitVec.ofNat 64 (a.toNat / 2 ^ (b.toNat % 64))),
   (.kSra, 0x15, fun a b _ => BitVec.ofInt 64 (a.toInt / 2 ^ (b.toNat % 64))),
   (.kSlt, 0x18, fun a b _ => if a.toInt < b.toInt then 1 else 0), (.kSltu, 0x19, fun a b _ => if a.toNat < b.toNat then 1 else 0),
   (.kMin, 0x1A, fun a b _ => if a.toInt < b.toInt then a else b), (.kMax, 0x1B, fun a b _ => if a.toInt < b.toInt then b else a),
   (.kMinu, 0x1C, fun a b _ => if a.toNat < b.toNat then a else b), (.kMaxu, 0x1D, fun a b _ => if a.toNat < b.toNat then b else a),
   (.kSel, 0x1E, fun a b k => if k ≠ 0 then a else b)]

/-- The scalar instructions on F32 values in bits [31:0] (R76), over the arithmetic of chapter 02. -/
def scalarFloatOps : List ((Nat → Nat → RFields → Instr) × Nat × (Word → Word → Word → Word)) :=
  [(.kFaddF32, 0x20, fun a b _ => (addF32 (a.setWidth 32) (b.setWidth 32)).setWidth 64),
   (.kFsubF32, 0x21, fun a b _ => (subF32 (a.setWidth 32) (b.setWidth 32)).setWidth 64),
   (.kFmulF32, 0x22, fun a b _ => (mulF32 (a.setWidth 32) (b.setWidth 32)).setWidth 64),
   (.kFmaF32, 0x23, fun a b k => (fmaF32 (a.setWidth 32) (b.setWidth 32) (k.setWidth 32)).setWidth 64),
   (.kFminF32, 0x24, fun a b _ => (minF32 (a.setWidth 32) (b.setWidth 32)).setWidth 64),
   (.kFmaxF32, 0x25, fun a b _ => (maxF32 (a.setWidth 32) (b.setWidth 32)).setWidth 64),
   (.kFcmpltF32, 0x26, fun a b _ => if fvLt (f32 (a.setWidth 32)) (f32 (b.setWidth 32)) then 1 else 0),
   (.kFcmpeqF32, 0x27, fun a b _ => if fvEq (f32 (a.setWidth 32)) (f32 (b.setWidth 32)) then 1 else 0),
   (.kFcvtF32I64, 0x28, fun a _ _ => (f32OfI64 a).setWidth 64), (.kFcvtI64F32, 0x29, fun a _ _ => i64OfF32 (a.setWidth 32))]

/-- The scalar instructions of format I (R77): the value from sA and IMM sign-extended to 64 bits. -/
def immediateOps : List ((Nat → Nat → IFields → Instr) × Nat × (Word → Word → Word)) :=
  [(.kAddi, 0x00, fun a i => a + i), (.kAndi, 0x01, fun a i => a &&& i), (.kOri, 0x02, fun a i => a ||| i),
   (.kXori, 0x03, fun a i => a ^^^ i), (.kShli, 0x04, fun a i => BitVec.ofNat 64 (a.toNat * 2 ^ (i.toNat % 64))),
   (.kShri, 0x05, fun a i => BitVec.ofNat 64 (a.toNat / 2 ^ (i.toNat % 64))),
   (.kSrai, 0x06, fun a i => BitVec.ofInt 64 (a.toInt / 2 ^ (i.toNat % 64))),
   (.kSlti, 0x07, fun a i => if a.toInt < i.toInt then 1 else 0), (.kSltiu, 0x08, fun a i => if a.toNat < i.toNat then 1 else 0),
   (.kLih, 0x09, fun a i => BitVec.ofNat 64 (a.toNat % 2 ^ 32 + 2 ^ 32 * (i.toNat % 2 ^ 32)))]

/-- The conditional branches (R75): constructor, opcode, when PC + OFF is taken. -/
def branchOps : List ((Nat → Nat → BFields → Instr) × Nat × (Word → Word → Bool)) :=
  [(.kBeq, 0x08, fun a b => decide (a = b)), (.kBne, 0x09, fun a b => decide (a ≠ b)),
   (.kBlt, 0x0A, fun a b => decide (a.toInt < b.toInt)), (.kBge, 0x0B, fun a b => decide (b.toInt ≤ a.toInt)),
   (.kBltu, 0x0C, fun a b => decide (a.toNat < b.toNat)), (.kBgeu, 0x0D, fun a b => decide (b.toNat ≤ a.toNat))]

/-- The vector instructions of two operands that work element by element (R134 to R136, R138 to R141): constructor, opcode, the
code of the result from the codes of the operands' elements. -/
def elementOps2 : List ((Nat → Nat → VFields → Instr) × Nat × (VFields → Nat → Nat → Nat)) :=
  [(.kVadd, 0x00, fun f a b => arith (viewFmt f.fmt.toNat) (fvAdd (fpVal f a) (fpVal f b))),
   (.kVsub, 0x01, fun f a b => arith (viewFmt f.fmt.toNat) (fvSub (fpVal f a) (fpVal f b))),
   (.kVmul, 0x02, fun f a b => arith (viewFmt f.fmt.toNat) (fvMul (fpVal f a) (fpVal f b))),
   (.kVmin, 0x04, fun f a b => arith (viewFmt f.fmt.toNat) (fvMin (fpVal f a) (fpVal f b))),
   (.kVmax, 0x05, fun f a b => arith (viewFmt f.fmt.toNat) (fvMax (fpVal f a) (fpVal f b))),
   (.kVdiv, 0x08, fun f a b => arithQ (viewFmt f.fmt.toNat) .rne (fvDiv (fpVal f a) (fpVal f b))),
   (.kViadd, 0x20, fun f a b => (a + b) % 2 ^ viewBits f.fmt.toNat),
   (.kViaddSat, 0x21, fun f a b => satInt (viewBits f.fmt.toNat) (signedOf (viewBits f.fmt.toNat) a + signedOf (viewBits f.fmt.toNat) b)),
   (.kVisub, 0x22, fun f a b => wrapTo (viewBits f.fmt.toNat) ((a : Int) - (b : Int))),
   (.kVisubSat, 0x23, fun f a b => satInt (viewBits f.fmt.toNat) (signedOf (viewBits f.fmt.toNat) a - signedOf (viewBits f.fmt.toNat) b)),
   (.kVand, 0x24, fun _ a b => a &&& b), (.kVor, 0x25, fun _ a b => a ||| b), (.kVxor, 0x26, fun _ a b => a ^^^ b),
   (.kVshl, 0x27, fun f a b => if viewBits f.fmt.toNat ≤ b then 0 else a * 2 ^ b % 2 ^ viewBits f.fmt.toNat),
   (.kVshr, 0x28, fun f a b => if viewBits f.fmt.toNat ≤ b then 0 else a / 2 ^ b),
   (.kVsra, 0x29, fun f a b => wrapTo (viewBits f.fmt.toNat) (signedOf (viewBits f.fmt.toNat) a / (2 ^ min b (viewBits f.fmt.toNat) : Nat))),
   (.kVdsigm, 0x40, fun f a b => arith (viewFmt f.fmt.toNat) (fvMul (fvMul (fpVal f b) (fpVal f a)) (fvSub fvOne (fpVal f a)))),
   (.kVdtanh, 0x41, fun f a b => arith (viewFmt f.fmt.toNat) (fvMul (fpVal f b) (fvSub fvOne (fvMul (fpVal f a) (fpVal f a))))),
   (.kVdrelu, 0x42, fun f a b => arith (viewFmt f.fmt.toNat)
     (if (fpVal f a).isNan then .nan else if fvLt (.fin false 0 0) (fpVal f a) then fpVal f b else .fin false 0 0)),
   (.kVdexp, 0x43, fun f a b => arith (viewFmt f.fmt.toNat) (fvMul (fpVal f b) (fpVal f a))),
   (.kVdsqrt, 0x44, dSqrt),
   (.kVdrcp, 0x45, fun f a b => arith (viewFmt f.fmt.toNat) (fvMul (fpVal f b) (fvMul (fpVal f a) (fpVal f a))).neg)]

/-- The vector instructions of one operand that work element by element. -/
def elementOps1 : List ((Nat → Nat → VFields → Instr) × Nat × (VFields → Nat → Nat)) :=
  [(.kVabs, 0x06, fun f a => arith (viewFmt f.fmt.toNat) (fpVal f a).abs), (.kVneg, 0x07, fun f a => arith (viewFmt f.fmt.toNat) (fpVal f a).neg),
   (.kVsqrt, 0x09, fun f a => arith (viewFmt f.fmt.toNat) (fvSqrt (fpVal f a))), (.kVmov, 0x90, fun _ a => a),
   (.kVexp, 0x30, fun f => sfuCode .exp (viewFmt f.fmt.toNat)), (.kVlog, 0x31, fun f => sfuCode .log (viewFmt f.fmt.toNat)),
   (.kVrcp, 0x32, fun f => sfuCode .rcp (viewFmt f.fmt.toNat)), (.kVrsqrt, 0x33, fun f => sfuCode .rsqrt (viewFmt f.fmt.toNat)),
   (.kVtanh, 0x34, fun f => sfuCode .tanh (viewFmt f.fmt.toNat)), (.kVsigm, 0x35, fun f => sfuCode .sigm (viewFmt f.fmt.toNat))]

/-- The vector instructions with the F32 of sB as second operand (R136). -/
def scaleOps : List ((Nat → Nat → VFields → Instr) × Nat × (FVal → FVal → FVal)) := [(.kVadds, 0x0A, fvAdd), (.kVmuls, 0x0B, fvMul)]

/-- The compares and tests that write a mask (R142): which bit an element of tA, and of tB, gives. -/
def compareOps : List ((Nat → Nat → VFields → Instr) × Nat × (VFields → Nat → Nat → Bool)) :=
  [(.kVcmpeq, 0x50, fun f => cmpElem .eq f.fmt.toNat (f.imm.toNat % 4)), (.kVcmplt, 0x51, fun f => cmpElem .lt f.fmt.toNat (f.imm.toNat % 4)),
   (.kVcmple, 0x52, fun f => cmpElem .le f.fmt.toNat (f.imm.toNat % 4))]

def testOps : List ((Nat → Nat → VFields → Instr) × Nat × (FVal → Bool)) :=
  [(.kVtestnan, 0x53, FVal.isNan), (.kVtestinf, 0x54, FVal.isInf), (.kVtestfin, 0x55, fun v => !v.isNan && !v.isInf)]

/-- The mask instructions (R132). -/
def maskOps : List ((Nat → Nat → VFields → Instr) × Nat × (BitVec 1024 → BitVec 1024 → BitVec 1024)) :=
  [(.kMand, 0x60, fun a b => a &&& b), (.kMor, 0x61, fun a b => a ||| b), (.kMxor, 0x62, fun a b => a ^^^ b), (.kMnot, 0x63, fun a _ => ~~~a)]

/-- The reductions (R143, R144): constructor, opcode, over rows, the value of the active elements. -/
def reduceOps : List ((Nat → Nat → VFields → Instr) × Nat × Bool × (List FVal → FVal)) :=
  [(.kVrsumRow, 0x70, true, fvSum), (.kVrsumCol, 0x71, false, fvSum), (.kVrmaxRow, 0x72, true, fvGreatest),
   (.kVrmaxCol, 0x73, false, fvGreatest), (.kVrminRow, 0x74, true, fvLeast), (.kVrminCol, 0x75, false, fvLeast)]

/-- The atomics (R79, R292). -/
def atomicOps : List ((Nat → Nat → MFields → Instr) × Nat × AtomOp) :=
  [(.kAadd, 0x10, .add), (.kAfaddF32, 0x11, .fadd), (.kAxs, 0x12, .xs), (.kAmin, 0x13, .min), (.kAmax, 0x14, .max), (.kAxchg, 0x15, .xchg),
   (.kAcas, 0x16, .cas)]

/-- The address of a format M access: sA + OFF, and for LDX and STX sB scaled by the size as well (R78). -/
def accessAddr (s : State) (c t : Nat) (f : MFields) (indexed : Bool) : Nat :=
  let r := fun n => sReg s.free (getCell s c) t n
  (r f.a.toNat + f.off.signExtend 64 + (if indexed then r f.b.toNat <<< f.size.toNat else 0)).toNat

/-- The active elements of the view under a mask take the new codes; the others keep theirs, or become 0 with MZ (R131). -/
def maskedTile (s : State) (c : Nat) (f : VFields) (new : List Nat) : List Byte :=
  let x := getCell s c
  packElems (viewBits f.fmt.toNat)
    (underMask (maskReg s.free x f.mask.toNat) f.mz (fun i => i) (viewElems f.fmt.toNat (tileBytes s.free x f.d.toNat)) new)

/-- The states after n chunks of the oldest run of cell c have landed, one after the other. -/
def lands (c : Nat) : Nat → State → Option State
  | 0, s => some s
  | n + 1, s =>
    match exec (.anvilChunkLand c) s with
    | .next u => lands c n u
    | _ => none

/-- The router of store die d can pass packet q on at once: its best path is n, over link l, where the packet has room, and none is held. -/
def Leaves (s : State) (d : Nat) (q : Packet) (n l : Nat) : Prop :=
  ownDst s q = false ∧ bestPath s d q.dst q.cls.toNat = some n ∧ routePath s d q.dst n = some l ∧ linkRoom s l q = true ∧ (getFab s d).held = []

/-- The packet of a channel is the one that its entry e expects, with room for the entry and no successor held (R351). -/
def InTurn (s : State) (d : Nat) (p : Packet) (e : RecvCh) : Prop :=
  recvEntry (getFab s d) p s.ember = some e ∧ recvFull (getFab s d) p = false ∧ p.cseq = e.next ∧ e.held = []

/-- The state with the channel entry in place. -/
def entered (s : State) (d : Nat) (e : RecvCh) : State := modFab s d (fun f => putRecv f { e with usedAt := s.ember })

/-- No byte that a descriptor reads lies in another package. -/
def sourceHere (jb : Job) (x : Descr) (step : BitVec 32) : Bool :=
  (srcRanges x ++ partBytes jb x step).all (fun r => (cutPages (r.2 / 65536 + 1) r.1 r.2).all (fun q =>
    match walk jb none q.1 with
    | .leaf l => (match l.target with | .fabric _ => false | .phys _ => true)
    | _ => true))

/-- No request waits at a store die or at a line that it is home of. -/
def noneWaits (s : State) (d : Nat) : Prop := (getFab s d).waiting = [] ∧ ∀ e ∈ (getFab s d).dir, e.2.pend = []

/-- The element codes of tile n in the view of an instruction. -/
def codes (s : State) (c : Nat) (f : VFields) (n : BitVec 5) : List Nat := viewElems f.fmt.toNat (tileBytes s.free (getCell s c) n.toNat)

end Sys2Proof.Claim

section Statements
open Sys2Proof Sys2Proof.Machine Sys2Proof.Claim

/-! ### The block and its queue of commands -/

/-- A step takes the command that has waited longest and performs it with the rest of the queue (the block's form; log 2). -/
def Obligations.StepRunsFrontCommand : Prop :=
  ∀ (i : Instr) (rest : List Instr) (s : State), step { s with pending := i :: rest } = exec i { s with pending := rest }

/-- With no command waiting one tick of the ember clock passes, and none while VAON is down (R487; that the empty queue is the tick is the model's
choice, log 2). -/
def Obligations.IdleStepIsOneTick : Prop :=
  ∀ s : State, s.pending = [] →
    (s.pwr.pstate = 0 → step s = .next s) ∧
    (s.pwr.pstate ≠ 0 → ∃ u, step s = .next u ∧ u.ember = s.ember + 1 ∧ u.mem = s.mem ∧ u.host = s.host ∧ u.cells = s.cells ∧ u.pending = [])

/-- Reset leaves what the spec gives: GUARD 40, DRIFT_PLAN 24, PERIOD 45, Tj limit 92, PLIMIT 2900, SLEEP_TICKS 25,000,000, queues of 16 entries that
are disabled, links enabled with PEER 0xFFFF, pavilions OFF with OFF_TICKS 25,000 and GATE_CYCLES 4,096, scrub PERIOD 24, no cell launched, DIST_GEN 0,
no package ID written, no event source enabled or delivered, LAST 0x3F, nothing waiting. -/
def Obligations.ResetValues : Prop :=
  State.reset.guard = 40 ∧ State.reset.driftPlan = 24 ∧ State.reset.period = 45 ∧ State.reset.pwr.tj = 92 ∧ State.reset.pwr.plimit = 2900 ∧
  State.reset.pwr.sleepTicks = 25000000 ∧ State.reset.pkgSet = false ∧ State.reset.distGen = 0 ∧
  State.reset.pending = [] ∧ State.reset.sec.bootState = 0 ∧ State.reset.rstCause = 0 ∧
  (∀ j, (getQueue State.reset j).sqlog = 4 ∧ (getQueue State.reset j).cqlog = 4 ∧ (getQueue State.reset j).enable = false) ∧
  (∀ l, (getLink State.reset l).enable = true ∧ (getLink State.reset l).peer = 0xFFFF ∧ (getLink State.reset l).state = 0) ∧
  (∀ p, (getPav State.reset p).power = .off ∧ (getPav State.reset p).offTicks = 25000 ∧ (getPav State.reset p).gateCycles = 4096) ∧
  (∀ d, (getStore State.reset d).period = 24 ∧ (getStore State.reset d).updRun = none) ∧ (∀ c, (getCell State.reset c).mode = 0) ∧
  (∀ n, (getEv State.reset n).deliv = false ∧ (getEv State.reset n).enable = false ∧ (getEv State.reset n).last = 0x3F) ∧ (∀ j, (getCtx State.reset j).state = 0)

/-! ### Memory -/

/-- A read after a write gives the bytes written at their addresses, and every other byte is unchanged; zeroing makes the bytes of its range 0 and
leaves the others; memories in canonical form stay so. -/
def Obligations.MemoryReadsWhatWasWritten : Prop :=
  ∀ (m : Mem) (a : Nat) (l : List Byte), Memory.wf m = true →
    (∀ i, i < l.length → memByte (memWrite m a l) (a + i) = l.getD i 0) ∧
    (∀ k, k < a ∨ a + l.length ≤ k → memByte (memWrite m a l) k = memByte m k) ∧ Memory.wf (memWrite m a l) = true ∧
    (∀ n k, memByte (memZero m a n) k = if a ≤ k ∧ k < a + n then 0 else memByte m k) ∧ (∀ n, Memory.wf (memZero m a n) = true)

/-- Every step that answers a next state keeps the device memory and the host memory in canonical form. -/
def Obligations.EveryStepKeepsMemoryCanonical : Prop :=
  ∀ s u : State, Memory.wf s.mem = true → Memory.wf s.host = true → step s = .next u → Memory.wf u.mem = true ∧ Memory.wf u.host = true

/-- No step takes the ember counter back but the loss of VAON (R14, R484, R487; that a tick passes on an empty queue, and that a command which a delay
names passes the delay, is the model's choice, log 2). -/
def Obligations.EmberNeverGoesBack : Prop :=
  ∀ s u : State, step s = .next u → s.pending.head? ≠ some .powerLoss → s.ember ≤ u.ember

/-- The birth record is written once at manufacture: no step changes it, the device secret, the DeviceID key and certificate, the SVN floor or the size
of the HBM stacks that it names (R456, R463, R466). -/
def Obligations.BirthRecordIsNeverRewritten : Prop :=
  ∀ s u : State, step s = .next u →
    u.flash.birth = s.flash.birth ∧ u.flash.birthBytes = s.flash.birthBytes ∧ u.flash.uds = s.flash.uds ∧ u.flash.devicePub = s.flash.devicePub ∧
    u.flash.cert = s.flash.cert ∧ u.flash.svnFloor = s.flash.svnFloor ∧ u.flash.big = s.flash.big

/-- The memories of the state after reset are in canonical form, and every byte reads 0 (what RAM holds after power-on is the model's choice, log 4;
R504 gives zeroed frames). -/
def Obligations.ResetMemoryIsCanonical : Prop :=
  Memory.wf State.reset.mem = true ∧ Memory.wf State.reset.host = true ∧ ∀ a, memByte State.reset.mem a = 0 ∧ memByte State.reset.host a = 0

/-! ### Instruction words -/

/-- Every field of a KCI word is read back from the word that R71 to R73 lay out, at every value of every field, in the formats R, I, B and M. -/
def Obligations.ScalarWordFieldsReadBack : Prop :=
  ∀ cls op : Nat, cls < 16 → op < 256 →
    (∀ f : RFields, let w := encR cls op f
      wClass w = cls ∧ wOp w = op ∧ wD w = f.d.toNat ∧ wA w = f.a.toNat ∧ wB w = f.b.toNat ∧ wC w = f.c.toNat) ∧
    (∀ f : IFields, let w := encI cls op f
      wClass w = cls ∧ wOp w = op ∧ wD w = f.d.toNat ∧ wA w = f.a.toNat ∧ wImm w = f.imm.toNat) ∧
    (∀ f : BFields, let w := encB cls op f
      wClass w = cls ∧ wOp w = op ∧ wD w = f.d.toNat ∧ wA w = f.a.toNat ∧ wB w = f.b.toNat ∧ wImm w = f.off.toNat) ∧
    (∀ f : MFields, let w := encM cls op f
      wClass w = cls ∧ wOp w = op ∧ wD w = f.d.toNat ∧ wA w = f.a.toNat ∧ wB w = f.b.toNat ∧ wSpace w = f.space ∧ wSize w = f.size.toNat ∧
        wOrd w = f.ord.toNat ∧ wImm w = f.off.toNat)

/-- The same of the formats V, VM, X and Q: two words of one format are equal only where every field is. -/
def Obligations.VectorWordFieldsReadBack : Prop :=
  ∀ cls op : Nat, cls < 16 → op < 256 →
    (∀ f : VFields, let w := encV cls op f
      wClass w = cls ∧ wOp w = op ∧ wD w = f.d.toNat ∧ wA w = f.a.toNat ∧ wB w = f.b.toNat ∧ wC w = f.c.toNat ∧ wFmt w = f.fmt.toNat ∧
        wMask w = f.mask.toNat ∧ wMz w = f.mz ∧ wRnd w = f.rnd.toNat ∧ wImm16 w = f.imm.toNat) ∧
    (∀ f : VMFields, let w := encVM cls op f
      wClass w = cls ∧ wOp w = op ∧ wD w = f.d.toNat ∧ wA w = f.a.toNat ∧ wB w = f.b.toNat ∧ wSpace w = f.space ∧ wC w % 16 = f.c.toNat ∧
        wFmt w = f.fmt.toNat ∧ wMask w = f.mask.toNat ∧ wMz w = f.mz ∧ wRnd w = f.rnd.toNat ∧ wImm16 w = f.off.toNat) ∧
    (∀ f : XFields, let w := encX cls op f
      wClass w = cls ∧ wOp w = op ∧ xAcc w = f.acc.toNat ∧ wA w = f.a.toNat ∧ wB w = f.b.toNat ∧ wC w = f.c.toNat ∧ xFmtA w = f.fmta.toNat ∧
        xFmtB w = f.fmtb.toNat ∧ xSrcA w = f.srca ∧ xSrcB w = f.srcb ∧ xOrA w = f.ora ∧ xOrB w = f.orb ∧ xSpA w = f.spa ∧ xSpB w = f.spb ∧
        xMsk w = f.msk.toNat) ∧
    (∀ f : QFields, let w := encQ cls op f
      wClass w = cls ∧ wOp w = op ∧ wD w = f.d.toNat ∧ wA w = f.a.toNat ∧ wB w = f.b.toNat ∧ wC w = f.c.toNat ∧ wFmt w = f.fmt.toNat ∧
        qDest w = f.dest.toNat ∧ qRnd w = f.rnd.toNat ∧ qAcc w = f.acc.toNat ∧ qPre w = f.pre.toNat)

/-- Every field of a dispatch word stands where R226 puts it, at every value; IMM counts with its sign, for arithmetic as a 64-bit value, for a branch in
words from the instruction. -/
def Sys2Proof.Claim.DispatchWordFields : Prop :=
  (∀ (op : Nat) (f : DFields), op < 64 →
    let w := (encD op f).toNat
    w / 2 ^ 26 = op ∧ w / 2 ^ 22 % 16 = f.d.toNat ∧ w / 2 ^ 18 % 16 = f.a.toNat ∧ w / 2 ^ 14 % 16 = f.b.toNat ∧ w % 2 ^ 14 = f.imm.toNat) ∧
  (∀ (s : State) (p : Nat) (f : DFields), pavOk p = true →
    (dEnabled s p 0x02 f = true → f.d ≠ 0 → (getPav s p).dpc + 1 < (getPav s p).prog.length → ∃ u, exec (.dAddi p f) s = .next u ∧
      dReg (getPav u p) f.d.toNat = dReg (getPav s p) f.a.toNat + f.imm.signExtend 64) ∧
    (∀ n : Nat, dEnabled s p 0x13 f = true → (n : Int) = (getPav s p).dpc + f.imm.toInt → n < (getPav s p).prog.length →
      ∃ u, exec (.dJmp p f) s = .next u ∧ (getPav u p).dpc = n))

/-- The dispatch program of R229's example: its eleven words are those that the fields of R226 spell. -/
def Sys2Proof.Claim.DispatchExampleWords : Prop :=
  encD 0x20 ⟨1, 0, 0, 0⟩ = 0x80400000 ∧ encD 0x07 ⟨2, 1, 0, 63⟩ = 0x1C84003F ∧ encD 0x11 ⟨0, 2, 0, 8⟩ = 0x44080008 ∧
  encD 0x07 ⟨3, 1, 0, 36⟩ = 0x1CC40024 ∧ encD 0x04 ⟨3, 3, 0, 0xFFF⟩ = 0x10CC0FFF ∧ encD 0x09 ⟨4, 3, 0, 0⟩ = 0x250C0000 ∧
  encD 0x21 ⟨0, 4, 0, 0⟩ = 0x84100000 ∧ encD 0x21 ⟨0, 1, 0, 1⟩ = 0x84040001 ∧ encD 0x22 ⟨5, 1, 0, 0⟩ = 0x89440000 ∧
  encD 0x13 ⟨0, 0, 0, -9⟩ = 0x4C003FF7 ∧ encD 0x3F ⟨0, 0, 0, 0⟩ = 0xFC000000

/-- The words of the dispatch units (R226). -/
def Obligations.DispatchWordFieldsReadBack : Prop := DispatchWordFields ∧ DispatchExampleWords

/-- Every field of a packet is read back from the bytes that R349 lays out, at every value of every field: 32 bytes of header, then the payload. -/
def Obligations.PacketBytesReadBack : Prop :=
  ∀ p : Packet, wireOk p = true →
    packetOf (packetBytes p) = p ∧ packetLen (packetBytes p) = (packetBytes p).length ∧ (packetBytes p).length = 32 + p.payload.length

/-! ### Scalar and control instructions -/

/-- What issuing does: the entry leaves its queue, its queue's ISSUE counter rises by 1 modulo 2^64, and no register, no byte of the cell store, no
byte of memory and no other cell changes. -/
def Obligations.IssueTakesOneEntry : Prop :=
  ∀ (s : State) (c : Nat) (e : Entry),
    let u := issued s c e
    let q := queueOf e.word
    getIQ (getCell u c) q = dropFirst (fun f => decide (f.stamp = e.stamp)) (getIQ (getCell s c) q) ∧
    (∀ r, r ≠ q → getIQ (getCell u c) r = getIQ (getCell s c) r) ∧
    mget 0 (getCell u c).issue (iqIndex q) = (mget 0 (getCell s c).issue (iqIndex q) + 1) % 2 ^ 64 ∧
    RegisterFrame s u c []

/-- Scalar register writes: sD reads what was written, s0 reads 0 and its writes are discarded, every other register keeps its value (R55). -/
def Obligations.ScalarRegisterWrite : Prop :=
  ∀ (x : Cell) (t r : Nat) (v : Word), t < 8 → r < 32 →
    (∀ n, sReg n (setS x t r v) t r = if r = 0 then 0 else v) ∧ (r = 0 → setS x t r v = x) ∧
    (∀ n, n ≠ resS t r → sameRes x (setS x t r v) n)

/-- The 22 integer instructions of format R complete with the value of R76 in sD (DIV's rounding towards zero is the model's reading, log 18). -/
def Sys2Proof.Claim.ScalarIntegerResults : Prop :=
  ∀ k ∈ scalarOps, ∀ (s : State) (c t : Nat) (f : RFields) (e : Entry), Issues s c t (encR 1 k.2.1 f) e →
    ∃ u, exec (k.1 c t f) s = .next u ∧
      (∀ n, sReg n (getCell u c) t f.d.toNat =
        if f.d = 0 then 0
        else k.2.2 (sReg s.free (getCell s c) t f.a.toNat) (sReg s.free (getCell s c) t f.b.toNat) (sReg s.free (getCell s c) t f.c.toNat)) ∧
      RegisterFrame s u c [resS t f.d.toNat]

/-- The 10 F32 instructions of format R complete with the value of R76 in sD (the NaN and zero rules of FMIN and FMAX are the model's, log 17). -/
def Sys2Proof.Claim.ScalarFloatResults : Prop :=
  ∀ k ∈ scalarFloatOps, ∀ (s : State) (c t : Nat) (f : RFields) (e : Entry), Issues s c t (encR 1 k.2.1 f) e →
    ∃ u, exec (k.1 c t f) s = .next u ∧
      (∀ n, sReg n (getCell u c) t f.d.toNat =
        if f.d = 0 then 0
        else k.2.2 (sReg s.free (getCell s c) t f.a.toNat) (sReg s.free (getCell s c) t f.b.toNat) (sReg s.free (getCell s c) t f.c.toNat)) ∧
      RegisterFrame s u c [resS t f.d.toNat]

/-- The 10 instructions of format I complete with the value of R77 in sD. -/
def Sys2Proof.Claim.ScalarImmediateResults : Prop :=
  ∀ k ∈ immediateOps, ∀ (s : State) (c t : Nat) (f : IFields) (e : Entry), Issues s c t (encI 2 k.2.1 f) e →
    ∃ u, exec (k.1 c t f) s = .next u ∧
      (∀ n, sReg n (getCell u c) t f.d.toNat =
        if f.d = 0 then 0 else k.2.2 (sReg s.free (getCell s c) t f.a.toNat) (f.imm.signExtend 64)) ∧
      RegisterFrame s u c [resS t f.d.toNat]

/-- JMP and JAL go to PC + OFF modulo 2^13 and JAL writes PC + 1 to sD; JR and JALR go to sA[12:0] where that lies in the program, JALR with
PC + 1 in sD; each leaves every other register. -/
def Sys2Proof.Claim.JumpTargets : Prop :=
  ∀ (s : State) (c t : Nat) (f : BFields) (e : Entry),
    let dest := ((e.pc : Int) + f.off.toInt) % 8192
    let reg := (sReg s.free (getCell s c) t f.a.toNat).toNat % 8192
    (Issues s c t (encB 0 0x01 f) e → ∃ u, exec (.kJmp c t f) s = .next u ∧ (pcOf (getCell u c) t : Int) = dest ∧ RegisterFrame s u c []) ∧
    (Issues s c t (encB 0 0x02 f) e → ∃ u, exec (.kJal c t f) s = .next u ∧ (pcOf (getCell u c) t : Int) = dest ∧
      (∀ n, sReg n (getCell u c) t f.d.toNat = if f.d = 0 then 0 else BitVec.ofNat 64 (e.pc + 1)) ∧ RegisterFrame s u c [resS t f.d.toNat]) ∧
    (Issues s c t (encB 0 0x03 f) e → reg < (getCell s c).progWords →
      ∃ u, exec (.kJr c t f) s = .next u ∧ pcOf (getCell u c) t = reg ∧ RegisterFrame s u c []) ∧
    (Issues s c t (encB 0 0x04 f) e → reg < (getCell s c).progWords →
      ∃ u, exec (.kJalr c t f) s = .next u ∧ pcOf (getCell u c) t = reg ∧
        (∀ n, sReg n (getCell u c) t f.d.toNat = if f.d = 0 then 0 else BitVec.ofNat 64 (e.pc + 1)) ∧ RegisterFrame s u c [resS t f.d.toNat])

/-- An indirect jump outside the program region is a fault of the cell: CELL[c].FAULT keeps E_PAGE_FAULT and PC, FAULTAT the address, if they hold none
yet (R87). -/
def Sys2Proof.Claim.IndirectJumpFaultsOutsideProgram : Prop :=
  ∀ (s : State) (c t : Nat) (f : BFields) (e : Entry), let reg := (sReg s.free (getCell s c) t f.a.toNat).toNat % 8192
    Issues s c t (encB 0 0x03 f) e → (getCell s c).progWords ≤ reg → (getCell s c).faultCode = 0 →
      ∃ u, exec (.kJr c t f) s = .next u ∧ (getCell u c).faultCode = ePageFault ∧ (getCell u c).faultAddr = 8 * reg ∧
        (getCell u c).faultPc = e.pc ∧ (getCell u c).faultThread = t ∧ (getCell u c).faultSpace = false

/-- A branch that is taken goes to PC + OFF modulo 2^13; one that is not leaves the PC where the fetch left it; no register changes. -/
def Sys2Proof.Claim.BranchTargets : Prop :=
  ∀ k ∈ branchOps, ∀ (s : State) (c t : Nat) (f : BFields) (e : Entry), Issues s c t (encB 0 k.2.1 f) e →
    ∃ u, exec (k.1 c t f) s = .next u ∧
      (pcOf (getCell u c) t : Int) =
        (if k.2.2 (sReg s.free (getCell s c) t f.a.toNat) (sReg s.free (getCell s c) t f.b.toNat)
         then ((e.pc : Int) + f.off.toInt) % 8192 else (pcOf (getCell s c) t : Int)) ∧
      RegisterFrame s u c []

/-- NOP, YIELD, RDSR, SPARK, TSPAWN, TJOIN and HALT complete: NOP changes nothing more, YIELD gives up the thread's next turn, RDSR reads the special
registers of the cell, SPARK writes STREAMID, TSPAWN starts a stopped thread at PC + OFF with sB in its s1, TJOIN of a thread that runs waits in
SYNC, HALT ends threads 1 to 7 and is PUBLISH for thread 0. -/
def Obligations.ThreadControlEffects : Prop :=
  ∀ (s : State) (c t : Nat) (f : BFields) (e : Entry),
    let x := getCell s c
    let u := (sReg s.free x t f.a.toNat).toNat % 8
    (Issues s c t (encB 0 0x00 f) e → exec (.kNop c t f) s = .next (issued s c e)) ∧
    (Issues s c t (encB 0 0x12 f) e → ∃ v, exec (.kYield c t f) s = .next v ∧ t ∈ (getCell v c).skip ∧ RegisterFrame s v c []) ∧
    (Issues s c t (encB 0 0x14 f) e → ∃ v, exec (.kRdsr c t f) s = .next v ∧ RegisterFrame s v c [resS t f.d.toNat] ∧
      (f.d ≠ 0 → ∀ n, sReg n (getCell v c) t f.d.toNat =
        (if f.off = 0 then BitVec.ofNat 64 c else if f.off = 1 then BitVec.ofNat 64 t
         else if f.off = 2 then BitVec.ofNat 64 (x.rank + 65536 * x.bedW + 16777216 * x.bedH)
         else if f.off = 3 then x.step.setWidth 64 else if f.off = 4 then x.itemWord &&& 0xFFFFFFFFF else if f.off = 5 then BitVec.ofNat 64 s.ember
         else if f.off = 7 then BitVec.ofNat 64 x.ctx else Config.freeWord s.free f.off.toNat))) ∧
    (Issues s c t (encB 0 0x15 f) e → ∃ v, exec (.kSpark c t f) s = .next v ∧ RegisterFrame s v c [resStream t] ∧
      streamOf (getCell v c) t = (sReg s.free x t f.a.toNat).setWidth 32) ∧
    (Issues s c t (encB 0 0x10 f) e → u ≠ 0 → (tstateOf x u = .idle ∨ tstateOf x u = .halted) → u ≠ t →
      ∃ v, exec (.kTspawn c t f) s = .next v ∧ tstateOf (getCell v c) u = .ready ∧
        (pcOf (getCell v c) u : Int) = ((e.pc : Int) + f.off.toInt) % 8192 ∧
        (∀ n, sReg n (getCell v c) u 1 = sReg s.free x t f.b.toNat) ∧ streamOf (getCell v c) u = streamOf x t ∧
        (∀ n, sReg n (getCell v c) t f.d.toNat = 0)) ∧
    (Issues s c t (encB 0 0x11 f) e → u ≠ t → tstateOf x u ≠ .idle → tstateOf x u ≠ .halted →
      ∃ v, exec (.kTjoin c t f) s = .next v ∧ tstateOf (getCell v c) t = .sync ∧ waitsOf (getCell v c) t = .join u) ∧
    (Issues s c t (encB 0 0x13 f) e → waitsOf x t ≠ .join t → ∃ v, exec (.kHalt c t f) s = .next v ∧
      (t ≠ 0 → tstateOf (getCell v c) t = .halted ∧ ∀ k, k < 8 → k ≠ t → waitsOf x k = .join t → tstateOf (getCell v c) k = .ready) ∧
      (t = 0 → tstateOf (getCell v c) 0 = .drain ∧ waitsOf (getCell v c) 0 = .publish))

/-! ### Memory instructions -/

/-- An aligned load from the cell store reads its bytes little-endian: LD and LDX zero-extend, LDS sign-extends; nothing but sD changes unless the
load is an acquire, which also acts on streams. -/
def Sys2Proof.Claim.LocalLoads : Prop :=
  ∀ (s : State) (c t : Nat) (f : MFields) (e : Entry), f.space = false →
    let n := 2 ^ f.size.toNat
    let read := fun a => leNat (localRead s.free (getCell s c) a n)
    let result := fun (i : Instr) (v : Nat) =>
      ∃ u, exec i s = .next u ∧ (∀ k, sReg k (getCell u c) t f.d.toNat = if f.d = 0 then 0 else BitVec.ofNat 64 v) ∧
        (f.ord ≠ 1 → RegisterFrame s u c [resS t f.d.toNat])
    let a := accessAddr s c t f false
    let x := accessAddr s c t f true
    (Issues s c t (encM 3 0x00 f) e → a % n = 0 → a + n ≤ 0x40000 → result (.kLd c t f) (read a)) ∧
    (Issues s c t (encM 3 0x01 f) e → a % n = 0 → a + n ≤ 0x40000 → result (.kLds c t f) (wrapTo 64 (signedOf (8 * n) (read a)))) ∧
    (Issues s c t (encM 3 0x03 f) e → x % n = 0 → x + n ≤ 0x40000 → result (.kLdx c t f) (read x))

/-- An aligned store to the cell store above the program region writes the low bytes of sD little-endian at its address and no other byte; one that is
an acquire also acts on streams (R204). -/
def Sys2Proof.Claim.LocalStores : Prop :=
  ∀ (s : State) (c t : Nat) (f : MFields) (e : Entry), f.space = false →
    let n := 2 ^ f.size.toNat
    let v := (sReg s.free (getCell s c) t f.d.toNat).toNat
    let stored := fun (i : Instr) (a : Nat) =>
      a % n = 0 → a + n ≤ 0x40000 → 8 * (getCell s c).progWords ≤ a →
        ∃ u, exec i s = .next u ∧ (∀ k, k < n → mfind (getCell u c).store (a + k) = some (BitVec.ofNat 8 (v / 256 ^ k))) ∧
          (f.ord ≠ 1 → StoreFrame s u c [] a n)
    (Issues s c t (encM 3 0x02 f) e → stored (.kSt c t f) (accessAddr s c t f false)) ∧
    (Issues s c t (encM 3 0x04 f) e → stored (.kStx c t f) (accessAddr s c t f true))

/-- A misaligned scalar access is a fault of the cell with E_PAGE_FAULT at its address (R78, R87), and no register or byte of memory is written by it:
the cell's registers and store keep what they held. -/
def Sys2Proof.Claim.MisalignedAccessFaults : Prop :=
  ∀ (s : State) (c t : Nat) (f : MFields) (e : Entry), (getCell s c).faultCode = 0 →
    let faults := fun (i : Instr) (op a : Nat) =>
      Issues s c t (encM 3 op f) e → a % 2 ^ f.size.toNat ≠ 0 →
        ∃ u, exec i s = .next u ∧ (getCell u c).faultCode = ePageFault ∧ (getCell u c).faultAddr = a % 2 ^ 48 ∧ (getCell u c).faultPc = e.pc ∧
          (getCell u c).faultThread = t ∧ (∀ r, r < 320 → sameRes (getCell s c) (getCell u c) r) ∧ (getCell u c).store = (getCell s c).store
    faults (.kLd c t f) 0x00 (accessAddr s c t f false) ∧ faults (.kLds c t f) 0x01 (accessAddr s c t f false) ∧
    faults (.kSt c t f) 0x02 (accessAddr s c t f false) ∧ faults (.kLdx c t f) 0x03 (accessAddr s c t f true) ∧
    faults (.kStx c t f) 0x04 (accessAddr s c t f true)

/-- An aligned atomic on device memory that passes the checks of its access takes its place at the Hearth of its home die with its operation and
operands, and its flight waits for the answer; AXS answers nothing, so it has no destination (R79, R291, R293). -/
def Sys2Proof.Claim.AtomicsGoToTheHearth : Prop :=
  ∀ k ∈ atomicOps, ∀ (s : State) (c t : Nat) (f : MFields) (e : Entry) (p : Piece) (ps : List Piece),
    let v := issued s c e
    let x := getCell s c
    let a := accessAddr s c t f false
    let n := if k.2.2 = .xs then 24 else 2 ^ f.size.toNat
    Issues s c t (encM 3 k.2.1 f) e → a % 2 ^ f.size.toNat = 0 → hasFabric (p :: ps) = false →
      checkAccess v (getJob v x.ctx) x.item (dieOfCell c) .atom [(a, n)] = .ok (p :: ps) →
      ∃ u d r, exec (k.1 c t f) s = .next u ∧ (getStore u d).hearthQ = (getStore s d).hearthQ ++ [r] ∧ r.op = k.2.2 ∧
        r.a = sReg s.free x t f.b.toNat ∧ r.b = sReg s.free x t f.d.toNat ∧ r.width = n ∧ r.cell = some (c, e.stamp) ∧
        ∃ g, g ∈ (getCell u c).flights ∧ g.stamp = e.stamp ∧ g.kind = .atom ∧ g.arrived = false ∧
          g.dest = if k.2.2 = .xs then none else some (resS t f.d.toNat)

/-- An atomic completes: it goes to the Hearth of its home die, which applies it next; then memory holds the new bytes of R292 at the operand and
nothing else has changed there, and the old value is on its way to sD. The load return writes it; AXS answers nothing and its flight is gone (R79,
R291 to R293). -/
def Sys2Proof.Claim.AtomicsComplete : Prop :=
  ∀ k ∈ atomicOps, ∀ (s : State) (c t : Nat) (f : MFields) (e : Entry) (p : Piece) (m : Nat),
    let x := getCell s c
    let a := accessAddr s c t f false
    let n := if k.2.2 = .xs then 24 else 2 ^ f.size.toNat
    let d := dieOfAddr s m
    let old := memRead s.mem m n
    Issues s c t (encM 3 k.2.1 f) e → a % 2 ^ f.size.toNat = 0 → p.target = .phys m → p.len = n → m + n ≤ hostBase →
      checkAccess (issued s c e) (getJob s x.ctx) x.item (dieOfCell c) .atom [(a, n)] = .ok [p] → storeOk d = true → stackUp s d = true →
      (getStore s d).hearthQ = [] → (∀ g ∈ x.flights, g.stamp ≠ e.stamp) → s.upsets = [] →
      ∃ u w, exec (k.1 c t f) s = .next u ∧ exec (.hearthAtomicApply d) u = .next w ∧
        memRead w.mem m n = atomBytes k.2.2 n (sReg s.free x t f.b.toNat) (sReg s.free x t f.d.toNat) old ∧
        (∀ q, q < m ∨ m + n ≤ q → memByte w.mem q = memByte s.mem q) ∧ w.host = s.host ∧ (getStore w d).hearthQ = [] ∧
        (k.2.2 = .xs → ∀ g ∈ (getCell w c).flights, g.stamp ≠ e.stamp) ∧
        (k.2.2 ≠ .xs → f.d ≠ 0 → ∃ y, exec (.globalLoadReturn c e.stamp) w = .next y ∧
          (∀ i, sReg i (getCell y c) t f.d.toNat = BitVec.ofNat 64 (leNat old)) ∧ ∀ g ∈ (getCell y c).flights, g.stamp ≠ e.stamp)

/-- Every memory instruction completes: a global load, store, mask or tile access that passes its checks starts its access with the translated
pieces; those on the cell store act on it. -/
def Sys2Proof.Claim.GlobalAccessesStart : Prop :=
  ∀ (s : State) (c t : Nat) (e : Entry) (ps : List Piece),
    let v := issued s c e
    let x := getCell v c
    let ok := fun k rs => checkAccess v (getJob v x.ctx) x.item (dieOfCell c) k rs = .ok ps
    let rd := fun rs => touchRanges (meetPieces v ps) (some c) x.ctx x.item (dieOfCell c) rs
    let wr := fun rs => touchRanges v (some c) x.ctx x.item (dieOfCell c) rs
    (∀ f : MFields, f.space = true →
      let n := 2 ^ f.size.toNat
      let load := fun (i : Instr) (op a : Nat) =>
        Issues s c t (encM 3 op f) e → a % n = 0 → ok .rd [(a, n)] →
          exec i s = .next (startRead (rd [(a, n)]) c (newFlight e .load (some (resS t f.d.toNat))) ps (widen (encM 3 op f)))
      let store := fun (i : Instr) (op a : Nat) =>
        Issues s c t (encM 3 op f) e → a % n = 0 → ok .wr [(a, n)] →
          exec i s = .next (startWrite (wr [(a, n)]) c (newFlight e .store none) [(a, n)] ps (leBytes n (sReg s.free x t f.d.toNat).toNat))
      load (.kLd c t f) 0x00 (accessAddr s c t f false) ∧ load (.kLds c t f) 0x01 (accessAddr s c t f false) ∧
      load (.kLdx c t f) 0x03 (accessAddr s c t f true) ∧ store (.kSt c t f) 0x02 (accessAddr s c t f false) ∧
      store (.kStx c t f) 0x04 (accessAddr s c t f true)) ∧
    (∀ f : VMFields, f.space = true → Issues s c t (encVM 9 0x00 f) e →
      let rs := tileRanges s.free x t e.word
      let fl : Flight := { newFlight e .load (some (resT f.d.toNat)) with
        old := tilesFrom s.free x f.d.toNat (tileCount f.fmt.toNat), mask := maskReg s.free x f.mask.toNat }
      tileMisaligned f.fmt.toNat rs = none → ok .rd rs →
        exec (.kVld c t f) s = .next (startRead (rd rs) c fl ps (finishLoad fl))) ∧
    (∀ f : VMFields, f.space = true → Issues s c t (encVM 9 0x04 f) e →
      let a := (tileAddr s.free x t e.word).toNat
      a % 64 = 0 → ok .rd [(a, 128)] →
        exec (.kVldm c t f) s = .next (startRead (rd [(a, 128)]) c (newFlight e .load (some (resM f.d.toNat))) ps (fun l => l)))

/-- The tile and mask accesses on the cell store: VLD and VLDM write their registers from the bytes of their ranges, VST and VSTM write
the bytes of theirs, VLD.Q takes the units that it has claimed of a stream. -/
def Obligations.LocalTileAccesses : Prop :=
  ∀ (s : State) (c t : Nat) (f : VMFields) (e : Entry),
    let v := issued s c e
    let x := getCell v c
    let rs := tileRanges s.free x t e.word
    let a := (tileAddr s.free x t e.word).toNat
    let m := maskReg s.free x f.mask.toNat
    (Issues s c t (encVM 9 0x00 f) e → f.space = false → tileMisaligned f.fmt.toNat rs = none → localBad x false rs = none →
      let data := vldBytes e.word m (tilesFrom s.free x f.d.toNat (tileCount f.fmt.toNat)) (localReads s.free x rs)
      exec (.kVld c t f) s = .next (modCell v c (fun x => setTiles x f.d.toNat (pieces 1024 (data.length / 1024) data)))) ∧
    (Issues s c t (encVM 9 0x01 f) e → f.space = false → tileMisaligned f.fmt.toNat rs = none → localBad x true rs = none →
      exec (.kVst c t f) s =
        .next (modCell v c (fun y => (runsOf rs (vstBytes v x e s.free)).foldl (fun y r => localWrite y r.1 r.2) y))) ∧
    (Issues s c t (encVM 9 0x04 f) e → f.space = false → a % 64 = 0 → a + 128 ≤ 0x40000 →
      exec (.kVldm c t f) s = .next (modCell v c (fun x => setMask x f.d.toNat (BitVec.ofNat 1024 (leNat (localRead s.free x a 128)))))) ∧
    (Issues s c t (encVM 9 0x05 f) e → f.space = false → a % 64 = 0 → a + 128 ≤ 0x40000 → 8 * x.progWords ≤ a →
      exec (.kVstm c t f) s = .next (modCell v c (fun y => localWrite y a (leBytes 128 (maskReg s.free x f.d.toNat).toNat)))) ∧
    (∀ l, Issues s c t (encVM 9 0x02 f) e → claimsGot x (e.claims.getD []) = .inl l →
      exec (.kVldQ c t f) s = .next (setCell v c (assignClaims (settleSlots
        (setTile x f.d.toNat (vldBytes e.word m (tileBytes s.free x f.d.toNat) ((l.headD ([], [])).1)))))))

/-! ### Synchronisation, allocation and streams -/

/-- FENCE puts its thread in DRAIN; a SYNC operation at a 16-byte aligned address of an object takes its place at the object's update port, ARRIVE,
ARM and RESET posted, WAIT and WAITT with the thread in SYNC, READ with the thread's sD as its destination. -/
def Obligations.SyncInstructionsReachTheirPort : Prop :=
  ∀ (s : State) (c t : Nat) (f : MFields) (e : Entry) (o : Nat),
    let v := issued s c e
    let a := accessAddr s c t f false
    let w := (sReg s.free (getCell s c) t f.b.toNat).setWidth 32
    let at_ := fun arrive => a % 16 = 0 ∧ syncAt v c arrive a = .obj o
    let posts := fun (i : Instr) (op : PortOp) =>
      ∃ u, exec i s = .next u ∧ getPort u o = getPort s o ++ [op] ∧ (∀ k, k ≠ o → getPort u k = getPort s k) ∧
        (∀ r, r < 320 → sameRes (getCell s c) (getCell u c) r) ∧ (∀ k, memByte u.mem k = memByte s.mem k) ∧ getObj u = getObj s
    (Issues s c t (encM 4 0x00 { f with off := 0 }) e → ∃ u, exec (.kFenceThread c t f) s = .next u ∧ tstateOf (getCell u c) t = .drain ∧
      waitsOf (getCell u c) t = .fence false e.stamp ∧ RegisterFrame s u c []) ∧
    (Issues s c t (encM 4 0x00 { f with off := 1 }) e → ∃ u, exec (.kFenceCell c t f) s = .next u ∧ tstateOf (getCell u c) t = .drain ∧
      waitsOf (getCell u c) t = .fence true e.stamp ∧ RegisterFrame s u c []) ∧
    (Issues s c t (encM 4 0x10 f) e → at_ true → posts (.kSyncArrive c t f) (.arrive w (some (c, e.stamp)))) ∧
    (Issues s c t (encM 4 0x11 f) e → at_ false → posts (.kSyncArm c t f) (.arm w (some (c, e.stamp)))) ∧
    (Issues s c t (encM 4 0x15 f) e → at_ false → posts (.kSyncReset c t f) (.reset (some (c, e.stamp)))) ∧
    (Issues s c t (encM 4 0x14 f) e → at_ false → posts (.kSyncRead c t f) (.read c e.stamp)) ∧
    (Issues s c t (encM 4 0x12 f) e → at_ false → posts (.kSyncWait c t f) (.wait (8 * c + t) none)) ∧
    (Issues s c t (encM 4 0x13 f) e → at_ false → posts (.kSyncWaitt c t f) (.wait (8 * c + t) (some w.toNat)))

/-- ALLOC.OUT, ALLOC.TMP and FREE.TMP leave a request with the allocator that holds sA, sB and the destination; PUBLISH by thread 0 puts it in
DRAIN, and by any other thread answers E_BAD_STATE in sD (the latter is the model's reading of R81). -/
def Obligations.AllocationInstructions : Prop :=
  ∀ (s : State) (c t : Nat) (f : RFields) (e : Entry),
    let r := fun n => sReg s.free (getCell s c) t n
    let asks := fun (i : Instr) (kind : Nat) =>
      ∃ u q, exec i s = .next u ∧ (getCell u c).allocs = (getCell s c).allocs ++ [q] ∧ q.kind = kind ∧ q.a = r f.a.toNat ∧ q.b = r f.b.toNat ∧
        q.dest = f.d.toNat ∧ q.thread = t ∧ q.stamp = e.stamp ∧ q.waiting = false ∧ RegisterFrame s u c []
    (Issues s c t (encR 5 0x00 f) e → asks (.kAllocOut c t f) 0) ∧
    (Issues s c t (encR 5 0x01 f) e → asks (.kAllocTmp c t f) 1) ∧
    (Issues s c t (encR 5 0x02 f) e → asks (.kFreeTmp c t f) 2) ∧
    (Issues s c t (encR 5 0x08 f) e → t = 0 → ∃ u, exec (.kPublish c t f) s = .next u ∧ tstateOf (getCell u c) 0 = .drain ∧
      waitsOf (getCell u c) 0 = .publish ∧ RegisterFrame s u c []) ∧
    (Issues s c t (encR 5 0x08 f) e → t ≠ 0 → ∃ u, exec (.kPublish c t f) s = .next u ∧
      (∀ k, sReg k (getCell u c) t f.d.toNat = if f.d = 0 then 0 else statusWord eBadState) ∧ RegisterFrame s u c [resS t f.d.toNat])

/-- Q.LOAD of a slot that does not run puts a sound descriptor there; Q.START of a slot that is LOADED or ENDED starts a new generation where the
stream buffer has room; Q.STOP ends one; Q.POP.S takes the bytes that it has claimed; Q.STATUS reads the slot. Each answers in sD, and streams go
on. -/
def Obligations.StreamInstructions : Prop :=
  ∀ (s : State) (c t : Nat) (f : RFields) (e : Entry),
    let v := issued s c e
    let x := getCell v c
    let q := f.b.toNat % 16
    let sl := getSlot x q
    let a := (sReg s.free x t f.a.toNat).toNat
    let d := wordsOf (localRead s.free x a 64)
    (Issues s c t (encR 6 0x00 f) e → sl.state ≠ .running → sl.state ≠ .ended → a % 64 = 0 → a ≤ 0x3FFC0 → descFault d = none →
      exec (.kQLoad c t f) s = .next (setCell v c (qAnswer (setSlot x q { sl with state := .loaded, desc := d, pos := 0 }) t f.d.toNat 0))) ∧
    (Issues s c t (encR 6 0x00 f) e → (sl.state = .running ∨ sl.state = .ended) →
      exec (.kQLoad c t f) s = .next (setCell v c (qAnswer x t f.d.toNat (statusWord eBadState)))) ∧
    (Issues s c t (encR 6 0x01 f) e → (sl.state = .loaded ∨ sl.state = .ended) → bufferUsed x + dDepth sl.desc * unitFootprint sl.desc ≤ 65536 →
      exec (.kQStart c t f) s = .next (setCell v c (qAnswer (setSlot x q
        { sl with state := .running, starter := t, gen := sl.gen + 1, nextUnit := 0, pos := 0, units := [], drops := 0 }) t f.d.toNat 0))) ∧
    (Issues s c t (encR 6 0x02 f) e → (sl.state = .running ∨ sl.state = .ended) →
      exec (.kQStop c t f) s = .next (setCell v c (qAnswer (setSlot x q { sl with state := .loaded, gen := sl.gen + 1, units := [] }) t f.d.toNat 0))) ∧
    (∀ l, Issues s c t (encR 6 0x03 f) e → claimsGot x (e.claims.getD []) = .inl l →
      exec (.kQPopS c t f) s =
        .next (setCell v c (assignClaims (settleSlots (setS x t f.d.toNat (BitVec.ofNat 64 (leNat (l.headD ([], [])).1))))))) ∧
    (Issues s c t (encR 6 0x04 f) e → exec (.kQStatus c t f) s = .next (setCell v c (setS x t f.d.toNat (qStatus x q))))

/-! ### Vector instructions -/

/-- The vector instructions that work element by element, of one operand, of two, and of a tile and an F32 scalar: tD holds, under the mask, the codes
that the operation gives of the elements of the view. -/
def Obligations.VectorElementResults : Prop :=
  ∀ (s : State) (c t : Nat) (f : VFields) (e : Entry),
    let gives := fun (i : Instr) (l : List Nat) => exec i s = .next (modCell (issued s c e) c (fun x => setTile x f.d.toNat (maskedTile s c f l)))
    (∀ k ∈ elementOps2, Issues s c t (encV 8 k.2.1 f) e → gives (k.1 c t f) (List.zipWith (k.2.2 f) (codes s c f f.a) (codes s c f f.b))) ∧
    (∀ k ∈ elementOps1, Issues s c t (encV 8 k.2.1 f) e → gives (k.1 c t f) ((codes s c f f.a).map (k.2.2 f))) ∧
    (∀ k ∈ scaleOps, Issues s c t (encV 8 k.2.1 f) e →
      gives (k.1 c t f) ((codes s c f f.a).map (fun a =>
        arith (viewFmt f.fmt.toNat) (k.2.2 (fpVal f a) (f32 ((sReg s.free (getCell s c) t f.b.toNat).setWidth 32)))))) ∧
    (Issues s c t (encV 8 0x03 f) e →
      gives (.kVfma c t f) (zipThree (fun a b k => arith (viewFmt f.fmt.toNat) (fvAdd (fvMul (fpVal f a) (fpVal f b)) (fpVal f k)))
        (codes s c f f.a) (codes s c f f.b) (codes s c f f.c)))

/-- Movement and the other whole-tile instructions: VBCAST, VTRANS, VSEL, VINS, VEXTR, VSPARK, VDSOFTMAX, VCVT and the six reductions. -/
def Sys2Proof.Claim.VectorMovementResults : Prop :=
  ∀ (s : State) (c t : Nat) (f : VFields) (e : Entry),
    let v := issued s c e
    let x := getCell s c
    let w := viewBits f.fmt.toNat
    let b := (sReg s.free x t f.b.toNat).toNat
    let vals := fun n => (codes s c f n).map (fpVal f)
    let tile := fun (i : Instr) (l : List Byte) => exec i s = .next (modCell v c (fun y => setTile y f.d.toNat l))
    (Issues s c t (encV 8 0x92 f) e → tile (.kVbcast c t f) (maskedTile s c f (broadcast f (codes s c f f.a) b))) ∧
    (Issues s c t (encV 8 0x93 f) e →
      tile (.kVtrans c t f) (maskedTile s c f ((List.range 256).map (fun i => (codes s c f f.a).getD (16 * (i % 16) + i / 16) 0)))) ∧
    (Issues s c t (encV 8 0x91 f) e →
      tile (.kVsel c t f) (packElems w (underMask (maskReg s.free x f.mask.toNat) false (fun i => i) (codes s c f f.b) (codes s c f f.a)))) ∧
    (Issues s c t (encV 8 0x95 f) e →
      tile (.kVins c t f) (packElems w ((codes s c f f.d).set (b % viewCount f.fmt.toNat) ((sReg s.free x t f.a.toNat).toNat % 2 ^ w)))) ∧
    (Issues s c t (encV 8 0x94 f) e → exec (.kVextr c t f) s = .next (modCell v c (fun y =>
      setS y t f.d.toNat (BitVec.ofNat 64 ((codes s c f f.a).getD (b % viewCount f.fmt.toNat) 0))))) ∧
    (Issues s c t (encV 8 0x96 f) e →
      tile (.kVspark c t f) (maskedTile s c f ((List.range 256).map (fun i =>
        (spark (getJob s x.ctx).image.seed (streamOf x t) x.step
          (BitVec.ofNat 64 (sparkIndex (sReg s.free x t f.c.toNat) 16 (i / 16) (i % 16)))).toNat)))) ∧
    (Issues s c t (encV 8 0x46 f) e →
      tile (.kVdsoftmax c t f) (maskedTile s c f (softmaxGrad f (maskReg s.free x f.mask.toNat) (vals f.a) (vals f.b) (vals f.c)))) ∧
    (Issues s c t (encV 8 0x80 f) e → exec (.kVcvt c t f) s = .next (modCell v c (fun y =>
      if f.imm.toNat % 256 = 0 then narrowing v s.free e f y else widening s.free e f y))) ∧
    (∀ k ∈ reduceOps, Issues s c t (encV 8 k.2.1 f) e →
      tile (k.1 c t f) (packElems w (reduce f (maskReg s.free x f.mask.toNat) k.2.2.1 k.2.2.2 (vals f.a))))

/-- The instructions that write a mask register: compares and tests under the mask and MZ, the logic of masks, MFIRST. -/
def Sys2Proof.Claim.MaskResults : Prop :=
  ∀ (s : State) (c t : Nat) (f : VFields) (e : Entry),
    let x := getCell s c
    let m := fun (n : Nat) => maskReg s.free x n
    let gives := fun (i : Instr) (r : BitVec 1024) => exec i s = .next (modCell (issued s c e) c (fun y => setMask y f.d.toNat r))
    (∀ k ∈ compareOps, Issues s c t (encV 8 k.2.1 f) e →
      gives (k.1 c t f) (maskUnder (m f.mask.toNat) f.mz (m f.d.toNat) (List.zipWith (k.2.2 f) (codes s c f f.a) (codes s c f f.b)))) ∧
    (∀ k ∈ testOps, Issues s c t (encV 8 k.2.1 f) e →
      gives (k.1 c t f) (maskUnder (m f.mask.toNat) f.mz (m f.d.toNat) ((codes s c f f.a).map (fun a => k.2.2 (fpVal f a))))) ∧
    (∀ k ∈ maskOps, Issues s c t (encV 8 k.2.1 f) e → gives (k.1 c t f) (k.2.2 (m f.a.toNat) (m f.b.toNat))) ∧
    (Issues s c t (encV 8 0x64 f) e →
      gives (.kMfirst c t f) (maskOf ((List.range (viewCount f.fmt.toNat)).map
        (firstBit (f.imm.toNat % 4) (viewWidth f.fmt.toNat) (sReg s.free x t f.b.toNat).toNat))))

/-- The frame of the vector instructions: those that write a tile change no register but tD, those that write a mask none but mD, and none of them
changes a scalar register, the cell store, memory, another cell or any other unit. -/
def Obligations.VectorFrames : Prop :=
  ∀ (s u : State) (c t : Nat) (f : VFields) (e : Entry),
    (∀ k ∈ elementOps2, Issues s c t (encV 8 k.2.1 f) e → exec (k.1 c t f) s = .next u → RegisterFrame s u c [resT f.d.toNat]) ∧
    (∀ k ∈ elementOps1, Issues s c t (encV 8 k.2.1 f) e → exec (k.1 c t f) s = .next u → RegisterFrame s u c [resT f.d.toNat]) ∧
    (∀ k ∈ scaleOps, Issues s c t (encV 8 k.2.1 f) e → exec (k.1 c t f) s = .next u → RegisterFrame s u c [resT f.d.toNat]) ∧
    (∀ k ∈ reduceOps, Issues s c t (encV 8 k.2.1 f) e → exec (k.1 c t f) s = .next u → RegisterFrame s u c [resT f.d.toNat]) ∧
    (∀ k ∈ compareOps, Issues s c t (encV 8 k.2.1 f) e → exec (k.1 c t f) s = .next u → RegisterFrame s u c [resM f.d.toNat]) ∧
    (∀ k ∈ testOps, Issues s c t (encV 8 k.2.1 f) e → exec (k.1 c t f) s = .next u → RegisterFrame s u c [resM f.d.toNat]) ∧
    (∀ k ∈ maskOps, Issues s c t (encV 8 k.2.1 f) e → exec (k.1 c t f) s = .next u → RegisterFrame s u c [resM f.d.toNat])

/-! ### The matrix unit -/

/-- MMA and MMA.Z take their stream claims and begin a run with their operands' bytes, unless they are suppressed, which leaves the tile, or sets it
to +0 for MMA.Z (R114); AZERO and APRELOAD write their accumulator tile; a Quench begins with the registers read at issue. -/
def Sys2Proof.Claim.MatrixInstructionsBegin : Prop :=
  ∀ (s : State) (c t : Nat) (e : Entry),
    let v := issued s c e
    let x := getCell v c
    (∀ (f : XFields) (l : List (List Byte × List Byte)), claimsGot x (e.claims.getD []) = .inl l →
      let regC := sReg s.free x t f.c.toNat
      let run := fun w => ({ stamp := e.stamp, word := w, scaleC := (regC >>> 32).setWidth 32
                             rows := if xMsk w = 1 then regC.setWidth 32 else BitVec.allOnes 32, bytesA := (operandBytes w e l).1
                             bytesB := (operandBytes w e l).2, chunk := 0 } : MatRun)
      (Issues s c t (encX 0xC 0x00 f) e → suppressed s.free x t e.word = false →
        exec (.kMma c t f) s = .next (setCell v c (assignClaims (settleSlots { x with runs := x.runs ++ [run e.word] })))) ∧
      (Issues s c t (encX 0xC 0x01 f) e → suppressed s.free x t e.word = false →
        exec (.kMmaZ c t f) s = .next (setCell v c (assignClaims (settleSlots { x with runs := x.runs ++ [run e.word] })))) ∧
      (Issues s c t (encX 0xC 0x00 f) e → suppressed s.free x t e.word = true →
        exec (.kMma c t f) s = .next (setCell v c (assignClaims (settleSlots x)))) ∧
      (Issues s c t (encX 0xC 0x01 f) e → suppressed s.free x t e.word = true →
        exec (.kMmaZ c t f) s = .next (setCell v c (assignClaims (settleSlots (setAcc x f.acc.toNat (List.replicate 1024 0))))))) ∧
    (∀ f : QFields,
      let begins := fun (i : Instr) (op : Nat) =>
        Issues s c t (encQ 0xD op f) e →
          ∃ q : QuenchRun, q.stamp = e.stamp ∧ q.thread = t ∧ q.word = encQ 0xD op f ∧ q.started = false ∧ q.addrA = sReg s.free x t f.a.toNat ∧
            q.scale = (sReg s.free x t f.b.toNat).setWidth 32 ∧ q.preload = (if op = 2 then preValue s.free x f.pre.toNat else []) ∧
            (let rs := (quenchFoot q).flatMap (·.ranges)
             (misaligned 64 (rs.take 1)).or (misaligned 16 (rs.drop 1)) = none → exec i s = .next (setCell v c { x with quench := some q }))
      (Issues s c t (encQ 0xD 0x08 f) e →
        exec (.kAzero c t f) s = .next (modCell v c (fun y => setAcc y f.acc.toNat (List.replicate 1024 0)))) ∧
      (Issues s c t (encQ 0xD 0x09 f) e →
        exec (.kApreload c t f) s = .next (modCell v c (fun y => setAcc y f.acc.toNat (preValue s.free x f.pre.toNat)))) ∧
      begins (.kQuench c t f) 0x00 ∧ begins (.kQuenchReset c t f) 0x01 ∧ begins (.kQuenchPreload c t f) 0x02)

/-- An MMA or MMA.Z of a cell whose accumulators no other run changes completes when its chunks have landed: its tile holds what its products make of it
one after the other, MMA.Z from +0 (R100, R101, R113, R116). A Quench of a tile that no run changes, with tile registers as its destination, completes
when it has read and written: the registers hold the encoded tile, and the accumulator is as it was, +0, or the preload value (R117 to R120). -/
def Sys2Proof.Claim.MatrixInstructionsComplete : Prop :=
  ∀ (s : State) (c t : Nat) (e : Entry),
    let x := getCell (issued s c e) c
    (∀ k ∈ [(Instr.kMma, 0x00), (Instr.kMmaZ, 0x01)], ∀ (f : XFields) (l : List (List Byte × List Byte)),
      Issues s c t (encX 0xC k.2 f) e → claimsGot x (e.claims.getD []) = .inl l → suppressed s.free x t e.word = false → x.runs = [] →
        let regC := sReg s.free x t f.c.toNat
        let ops := operandBytes e.word e l
        let run : MatRun :=
          { stamp := e.stamp, word := e.word, scaleC := (regC >>> 32).setWidth 32
            rows := if xMsk e.word = 1 then regC.setWidth 32 else BitVec.allOnes 32, bytesA := ops.1, bytesB := ops.2, chunk := 0 }
        ∃ u w, exec (k.1 c t f) s = .next u ∧ (getCell u c).runs = [run] ∧ lands c (landings e.word) u = some w ∧ (getCell w c).runs = [] ∧
          ∀ i, i < 1024 → mget 0 (getCell w c).acc (1024 * f.acc.toNat + i) =
            ((List.range (landings e.word)).foldl (fun tile k => landTile run k tile) (accTile u.free (getCell u c) f.acc.toNat)).getD i 0) ∧
    (∀ k ∈ [(Instr.kQuench, 0x00), (Instr.kQuenchReset, 0x01), (Instr.kQuenchPreload, 0x02)], ∀ f : QFields,
      Issues s c t (encQ 0xD k.2 f) e → f.dest = 0 → (f.fmt = 0 ∨ (fmtBits f.fmt.toNat = 16 ∧ isSb f.fmt.toNat = false)) →
      runsInto x f.acc.toNat = false →
        ∃ u v w q, exec (k.1 c t f) s = .next u ∧ exec (.quenchReadStart c) u = .next v ∧ exec (.quenchReadDone c) v = .next w ∧
          (getCell v c).quench = some q ∧ q.word = encQ 0xD k.2 f ∧ q.value = accTile u.free (getCell u c) f.acc.toNat ∧
          q.scale = (sReg s.free x t f.b.toNat).setWidth 32 ∧ (getCell w c).quench = none ∧
          (let tiles := quenchTilesOf q (quenchBytes v (getCell v c) q).1
           ∀ i, i < tiles.length → f.d.toNat + i < 32 → tileBytes w.free (getCell w c) (f.d.toNat + i) = tiles.getD i []) ∧
          ∀ i, i < 1024 → mget 0 (getCell w c).acc (1024 * f.acc.toNat + i) =
            if k.2 = 0x01 then 0 else if k.2 = 0x02 then (preValue s.free x f.pre.toNat).getD i 0
            else mget 0 (getCell s c).acc (1024 * f.acc.toNat + i))

/-- The matrix unit's instructions begin as their rules say and complete. -/
def Obligations.MatrixInstructions : Prop := MatrixInstructionsBegin ∧ MatrixInstructionsComplete

/-- The 42 scalar instructions of the formats R and I complete with the values of R76 and R77 (DIV rounds towards zero by log 18, FMIN and FMAX follow VMIN and VMAX by log 17). -/
def Obligations.ScalarInstructionsGiveTheirResults : Prop := ScalarIntegerResults ∧ ScalarFloatResults ∧ ScalarImmediateResults

/-- Jumps and branches go where R75 and R87 say. -/
def Obligations.ControlTransfersGoToTheirTargets : Prop := JumpTargets ∧ IndirectJumpFaultsOutsideProgram ∧ BranchTargets

/-- Scalar loads and stores on the cell store, and the fault of a misaligned one. -/
def Obligations.LocalAccessesReadAndWriteTheStore : Prop := LocalLoads ∧ LocalStores ∧ MisalignedAccessFaults

/-- Accesses to global memory and atomics set out, and atomics complete. -/
def Obligations.GlobalAccessesAndAtomicsStart : Prop := GlobalAccessesStart ∧ AtomicsGoToTheHearth ∧ AtomicsComplete

/-- The vector instructions that are not element by element, and the masks. -/
def Obligations.VectorInstructionsGiveTheirResults : Prop := VectorMovementResults ∧ MaskResults

/-! ### What happens in a cell -/

/-- The data of a global load returns: the flight ends, its destination register holds the data, and the thread that waited in MISS is READY. -/
def Sys2Proof.Claim.LoadReturnWritesItsDestination : Prop :=
  ∀ (s : State) (c r : Nat) (g : Flight), cellOk c = true → cellLive s c = true → (getCell s c).flights.find? (fun f => decide (f.stamp = g.stamp)) = some g →
    g.arrived = true → g.kind ≠ .opA → g.kind ≠ .opB → g.dest = some r → r < 256 → r % 32 ≠ 0 → g.acquire = false →
      ∃ u, exec (.globalLoadReturn c g.stamp) s = .next u ∧ (∀ f ∈ (getCell u c).flights, f.stamp ≠ g.stamp) ∧
        (∀ n, sReg n (getCell u c) (r / 32) (r % 32) = BitVec.ofNat 64 (leNat (g.data.take 8))) ∧
        (g.switches = true → tstateOf (getCell s c) g.thread = .miss → tstateOf (getCell u c) g.thread = .ready) ∧ RegisterFrame s u c [r]

/-- Instruction fetch takes the next thread in turn that may be fetched, and reads up to four of its words into their issue queues; a thread past the
end of its program is a fault instead (R66, R67, R87). -/
def Sys2Proof.Claim.InstructionFetchEffect : Prop :=
  ∀ (s : State) (c t : Nat) (x : Cell), cellOk c = true → cellLive s c = true → pickThread (getCell s c) 8 (getCell s c).fetchPtr = (some t, x) →
    let y := { x with fetchPtr := (t + 1) % 8 }
    (x.pastEnd.contains t = false → exec (.instructionFetch c) s = .next (setCell s c (assignClaims (fetchWords y t 4)))) ∧
    (x.pastEnd.contains t = true →
      exec (.instructionFetch c) s = .next (cellFault (setCell s c y) c t (x.progWords - 1) (8 * x.progWords) false ePageFault))

/-- A fetched word stands at the end of its queue with the next stamp, and the PC goes to the next word modulo 2^13. -/
def Sys2Proof.Claim.FetchedWordEntersItsQueue : Prop :=
  ∀ (x : Cell) (t : Nat), x.pastEnd.contains t = false →
    let w := x.prog.getD (pcOf x t) 0
    let q := queueOf w
    let y := fetchWords x t 1
    (getIQ x q).length < queueDepth q →
      (∃ e, getIQ y q = getIQ x q ++ [e] ∧ e.word = w ∧ e.thread = t ∧ e.pc = pcOf x t ∧ e.stamp = x.nextStamp ∧ e.claims = none) ∧
      y.nextStamp = x.nextStamp + 1 ∧ pcOf y t = (pcOf x t + 1) % 8192 ∧ (∀ r, r < 320 → sameRes x y r)

/-- The miss-register grant, the end of a fence, an allocator's answer, a stash retry, the report of a drained cell. -/
def Sys2Proof.Claim.CellWaitsEnd : Prop :=
  ∀ (s : State) (c : Nat), cellOk c = true → cellLive s c = true →
    let x := getCell s c
    (∀ t rest, x.missWaiters = t :: rest → missUsed x < 48 →
      ∃ u, exec (.missRegisterGrant c) s = .next u ∧ (getCell u c).missWaiters = rest ∧ (getCell u c).missGranted = x.missGranted ++ [t] ∧
        (tstateOf x t = .missfull → tstateOf (getCell u c) t = .ready) ∧ RegisterFrame s u c []) ∧
    (∀ t b st, threadOk t = true → fenceOver x t = true → waitsOf x t = .fence b st →
      ∃ u, exec (.fenceComplete c t) s = .next u ∧ tstateOf (getCell u c) t = .ready ∧ waitsOf (getCell u c) t = .none ∧
        (getCell u c).ctl = x.ctl.map (fun e => if e.stamp = st then { e with relDone := true } else e) ∧ RegisterFrame s u c []) ∧
    (∀ a v r, x.allocs.find? (fun a => !a.waiting) = some a → performAlloc s c a = .done v r →
      exec (.allocatorAnswer c) s = .next (answered v c a r)) ∧
    (∀ a v r, x.allocs.find? (fun a => a.waiting && !a.forStore) = some a → performAlloc s c a = .done v r →
      exec (.stashFrameRetry c) s = .next (noteStuck (answered v c a r) x.ctx)) ∧
    (drained x = true → ∃ u, exec (.cellReport c) s = .next u ∧ (getCell u c).reported = true ∧ tstateOf (getCell u c) 0 = .halted ∧
      waitsOf (getCell u c) 0 = .none)

/-- The streams and the matrix unit of a cell go on: Bellows makes a request that it wants and takes returned data, a chunk of the oldest run lands,
Tongs holds an operand whose data came, a Quench reads its tile and then writes its result. -/
def Sys2Proof.Claim.CellEnginesGoOn : Prop :=
  ∀ (s : State) (c : Nat), cellOk c = true → cellLive s c = true →
    let x := getCell s c
    (∀ w, x.bellows.length < 96 → (demandWant x).or (aheadWant x) = some w → exec (.bellowsRequest c) s = .next (bellowsFetch s c w)) ∧
    (∀ id r, x.bellows.find? (fun r => decide (r.id = id)) = some r → (r.remote = false ∨ r.arrived = true) →
      exec (.bellowsDataReturn c id) s = .next (setCell s c (arriveData x r))) ∧
    (∀ run rest, x.runs = run :: rest →
      ∃ u, exec (.anvilChunkLand c) s = .next u ∧
        (getCell u c).runs = (if run.chunk + 1 = landings run.word then rest else { run with chunk := run.chunk + 1 } :: rest) ∧
        (∀ i, i < 1024 → mget 0 (getCell u c).acc (1024 * xAcc run.word + i) = (landTile run run.chunk (accTile s.free x (xAcc run.word))).getD i 0) ∧
        RegisterFrame s u c [resAcc (xAcc run.word)]) ∧
    (∀ b e f, tongsEntry x = some e → (if b then e.opB else e.opA) = none →
      x.flights.find? (fun f => decide (f.stamp = e.stamp ∧ f.kind = opKind b)) = some f → f.arrived = true →
        exec (.tongsOperandArrival c b) s =
          .next (setCell s c (holdOperand { x with flights := x.flights.filter (fun g => decide (g.stamp ≠ f.stamp ∨ g.kind ≠ f.kind)) } e b f.data))) ∧
    (∀ q, x.quench = some q → q.started = false → runsInto x (qAcc q.word) = false →
      ∃ u, exec (.quenchReadStart c) s = .next u ∧ (getCell u c).quench = some { q with started := true, value := accTile s.free x (qAcc q.word) } ∧
        RegisterFrame s u c []) ∧
    (∀ q, x.quench = some q → q.started = true → quenchWaits s c q = false →
      exec (.quenchReadDone c) s = .next (quenchWrite (modCell s c (fun y => { quenchAfter y q with quench := none })) c q (quenchBytes s x q)))

/-- The commands of a cell's allocators, streams and operands complete: an answer stands in sD and its request is gone, FREE.TMP's allocation with it; a
request of Bellows stands in flight with the bytes of memory, data that returns stands in its unit, a global operand that has come is held for its MMA
(R80, R110, R194, R196, R202). -/
def Sys2Proof.Claim.CellEventsComplete : Prop :=
  ∀ (s : State) (c : Nat), cellOk c = true → cellLive s c = true →
    let x := getCell s c
    let answers := fun (i : Instr) (a : AllocReq) (v : State) (r : Word) =>
      ∃ u, exec i s = .next u ∧ (getCell u c).allocs = (getCell v c).allocs.filter (fun q => decide (q.stamp ≠ a.stamp)) ∧
        ∀ n, sReg n (getCell u c) a.thread a.dest = if a.dest = 0 then 0 else r
    (∀ a v r, x.allocs.find? (fun a => !a.waiting) = some a → a.thread < 8 → a.dest < 32 → performAlloc s c a = .done v r →
      answers (.allocatorAnswer c) a v r) ∧
    (∀ a v r, x.allocs.find? (fun a => a.waiting && !a.forStore) = some a → a.thread < 8 → a.dest < 32 → performAlloc s c a = .done v r →
      answers (.stashFrameRetry c) a v r) ∧
    (∀ a i it n, x.allocs.find? (fun a => !a.waiting) = some a → a.kind = 2 → writesBefore x a.stamp = false → x.item = some i →
      mfind (getJob s x.ctx).items i = some it → mfind it.scratch a.a.toNat = some n →
        ∃ u, exec (.allocatorAnswer c) s = .next u ∧ (∀ q ∈ (getCell u c).allocs, q.stamp ≠ a.stamp) ∧
          ∃ m, mfind (getJob u x.ctx).items i = some m ∧ mfind m.scratch a.a.toNat = none) ∧
    (∀ w p a, x.bellows.length < 96 → demandWant x = some w → unitIn (getSlot x w.q).desc w.k = some p → s.upsets = [] →
      let offs := oneRequest p w.offs
      let va := offAddr p (offs.headD 0)
      let n := (offs.map offLen).sum
      checkAccess s (getJob s x.ctx) x.item (dieOfCell c) .rd [(va, n)] = .ok [⟨va, n, .phys a⟩] →
        ∃ u r, exec (.bellowsRequest c) s = .next u ∧ (getCell u c).bellows = x.bellows ++ [r] ∧ r.q = w.q ∧ r.k = w.k ∧ r.offs = offs ∧
          r.remote = false ∧ r.bad = false ∧ r.parts = offs.map (fun o => (o, physRead s (a + (offAddr p o - va)) (offLen o)))) ∧
    (∀ id r y, x.bellows.find? (fun r => decide (r.id = id)) = some r → r.remote = false → r.q < 16 → (getSlot x r.q).state = .running →
      (getSlot x r.q).gen = r.gen → (getSlot x r.q).units.find? (fun u => decide (u.k = r.k)) = some y →
        ∃ u z, exec (.bellowsDataReturn c id) s = .next u ∧ (getCell u c).bellows = x.bellows.filter (fun b => decide (b.id ≠ id)) ∧
          (getSlot (getCell u c) r.q).units.find? (fun u => decide (u.k = r.k)) = some z ∧
          z.got = r.parts.foldl (fun g p => localPut g p.1 p.2) y.got ∧ z.poisoned = (y.poisoned || r.bad)) ∧
    (∀ b e f, tongsEntry x = some e → (if b then e.opB else e.opA) = none →
      x.flights.find? (fun f => decide (f.stamp = e.stamp ∧ f.kind = opKind b)) = some f → f.arrived = true →
        ∃ u g, exec (.tongsOperandArrival c b) s = .next u ∧ tongsEntry (getCell u c) = some g ∧ g.stamp = e.stamp ∧
          (if b then g.opB else g.opA) = some f.data ∧ ∀ h ∈ (getCell u c).flights, h.stamp ≠ f.stamp ∨ h.kind ≠ f.kind)

/-- A product of a chunk is added to its accumulator element in one rounding of the exact chunk sum times SCALE_C and one addition in F32; a row that
is not enabled keeps its elements (R100, R102, R113). -/
def Obligations.ChunkArithmetic : Prop :=
  ∀ (run : MatRun) (k : Nat) (tile : List F32) (i : Nat), i < tile.length → xFmtA run.word ≠ 0 → wOp run.word = 0 → k < 4 →
    let va := blockVals (xFmtA run.word) (run.bytesA.take (blockBytes (xFmtA run.word))) (run.bytesA.drop (blockBytes (xFmtA run.word)))
    let vb := blockVals (xFmtB run.word) (run.bytesB.take (blockBytes (xFmtB run.word))) (run.bytesB.drop (blockBytes (xFmtB run.word)))
    xFmtB run.word ≠ 0 →
    (landTile run k tile).getD i 0 =
      if run.rows.getLsbD (i / 32) then landElem (tile.getD i 0) (chunkSum run.word va vb k (i / 32) (i % 32)) (scaleVal run.scaleC) else tile.getD i 0

/-- The vertical port: a beat that fails is sent again, counted and reported; a lane test spares bonds and clears what it was owed for; the record of
a spare is written to the journal. -/
def Obligations.VerticalPortEffects : Prop :=
  ∀ (s : State) (c : Nat), cellOk c = true → (getCell s c).mode ≠ 3 →
    let x := getCell s c
    (running s = true → (x.laneSound = false ∨ x.beatFails = 0 ∨ x.beatTick ≠ s.ember) →
      ∃ u, exec (.verticalBeatCrcFail c) s = .next u ∧ (getCell u c).retries = satAdd 0xFFFF x.retries 1 ∧ u.events = (iVerticalRetry, c) :: s.events ∧
        (∀ r, r < 320 → sameRes x (getCell u c) r) ∧ (∀ k, k ≠ c → getCell u k = getCell s k) ∧ u.mem = s.mem) ∧
    ((x.testOwed = true ∨ (getPav s (pavOfCell c)).power = .kindling) →
      ∃ u, exec (.laneTest c []) s = .next u ∧ (getCell u c).testOwed = false ∧ (getCell u c).laneSound = true ∧ (getCell u c).beatFails = 0 ∧
        u.mem = s.mem) ∧
    (∀ failing, (x.testOwed = true ∨ (getPav s (pavOfCell c)).power = .kindling) → (∀ e ∈ failing, e.1 < 32 ∧ e.2 ≤ 64) →
      exec (.laneTest c failing) s = .next (laneTested s c failing)) ∧
    (∀ v rest, x.unlogged = v :: rest →
      exec (.spareJournalRecord c) s = .next (journalWrite (modCell s c (fun y => { y with unlogged := rest })) 1 c v))

/-- A sealed slot for which there is a credit goes to the other end and its seal word becomes 0; a slot that lands fills the ring and its FILL object
gets an arrival; a credit that is owed goes back to the producer's port (R217 to R220). -/
def Obligations.ChannelSlotsAndCredits : Prop :=
  ∀ (s : State) (c p : Nat), cellOk c = true → p < 8 → portLive s c = true →
    let tx := getTx (getCell s c) p
    let rx := getRx (getCell s c) p
    (∀ ch, (portJob s c).image.chans[tx.chan]? = some ch → tx.valid = true → tx.sealed.contains tx.turn = true → 0 < tx.credits → tx.peerCell ≠ c →
      ∃ u, exec (.slotSend c p) s = .next u ∧ (getTx (getCell u c) p).credits = tx.credits - 1 ∧ (getTx (getCell u c) p).turn = (tx.turn + 1) % ch.k ∧
        (∀ k, k < 8 → mfind (getCell u c).store (sealAddr ch.txAddr ch.u tx.turn + k) = some 0) ∧
        (let data := slotBytes s.free (getCell s c) ch.txAddr ch.u tx.turn
         let q := getRx (getCell s tx.peerCell) tx.peerPort
         getRx (getCell u tx.peerCell) tx.peerPort =
           if q.forwarding then { q with direct := q.direct ++ [(tx.turn, data)] } else { q with wire := q.wire ++ [(tx.turn, data)] })) ∧
    (∀ ch i data rest, (portJob s c).image.chans[rx.chan]? = some ch → rx.wire = (i, data) :: rest → rx.valid = true → rx.forwarding = false →
      exec (.slotLand c p) s = .next (landSlot s c p ch data rest) ∧
        ∃ u, exec (.slotLand c p) s = .next u ∧ (getRx (getCell u c) p).wire = rest ∧ (getRx (getCell u c) p).turn = (rx.turn + 1) % ch.k ∧
          (∀ n, n < data.length → mfind (getCell u c).store (ch.rxAddr + rx.turn * ch.u + n) = data[n]?) ∧
          (∀ o, fillObject (portJob s c) ch rx.replica = some o → getPort u o = getPort s o ++ [.arrive 1 none]) ∧ u.mem = s.mem) ∧
    (rx.valid = true → 0 < rx.creditsBack → rx.peerCell ≠ c →
      ∃ u, exec (.creditReturn c p) s = .next u ∧ (getRx (getCell u c) p).creditsBack = rx.creditsBack - 1 ∧
        (getTx (getCell u rx.peerCell) rx.peerPort).credits = (getTx (getCell s rx.peerCell) rx.peerPort).credits + 1 ∧ u.mem = s.mem)

/-! ### Publication, pages, the Icehouse -/

/-- A scrub pass counts itself; a page move copies its 64 KiB; a frame that has been zeroed reads 0 and is free. -/
def Sys2Proof.Claim.StoreEventEffects : Prop :=
  ∀ s : State,
    (∀ d, storeOk d = true → running s = true → stackUp s d = true → s.upsets = [] →
      ∃ u, exec (.scrubPatrol d []) s = .next u ∧ (getStore u d).passes = wrap32 ((getStore s d).passes + 1) ∧ u.mem = s.mem ∧ u.cells = s.cells) ∧
    (∀ d found, storeOk d = true → running s = true → stackUp s d = true →
      (∀ g ∈ found, wordAt s d g.addr = true) → s.upsets = [] →
      exec (.scrubPatrol d found) s =
        .next (modStore (found.foldl (fun s g => scrubOne s d g) s) d (fun x => { x with passes := wrap32 (x.passes + 1) }))) ∧
    (∀ j m, jobOk j = true → (getJob s j).moves.find? (fun n => n.started && decide (n.vpn = m.vpn)) = some m → (getJob s j).loaded = true →
      running s = true → exec (.pageMoveDone j m.vpn) s = .next ((List.range 4).foldl serveWaiting (endPageMove s j m))) ∧
    (∀ d f, storeOk d = true → (mget ⟨.free, 0⟩ (getStore s d).frames f).state = .zeroing → (∀ j, j < 8 → (getJob s j).moves = []) →
      ∃ u, exec (.frameZeroComplete d f) s = .next u ∧ (mget ⟨.free, 0⟩ (getStore u d).frames f).state = .free ∧
        (∀ a, memByte u.mem a = if f * 65536 ≤ a ∧ a < f * 65536 + 65536 then 0 else memByte s.mem a))

/-- A whole group that has reported commits together; a committed item becomes DONE, with no staging left; an instance whose preparing item is DONE
takes its next pages (R172, R173). -/
def Sys2Proof.Claim.PublicationEffects : Prop :=
  ∀ (s : State) (j : Nat), jobOk j = true → jobLive s j = true →
    let jb := getJob s j
    (∀ i it, mfind jb.items i = some it → it.state = .running → it.phase ≠ 4 → groupReported jb (groupOf jb it) = true →
      groupWhole jb it (groupOf jb it) = true →
      (∀ m ∈ (groupOf jb it).filterMap (fun k => mfind jb.items k), stagedMoves jb m = false ∧ stackUp s m.die = true) →
        exec (.itemCommit j i) s = .next (noteStuck ((groupOf jb it).foldl (commitItem j) s) j)) ∧
    (∀ i it, mfind jb.items i = some it → it.state = .committed → it.phase ≠ 4 →
      exec (.itemDone j i) s = .next (noteStuck (finishItem s j i it) j)) ∧
    (∀ k n it, jb.insts[k]? = some n → n.nextV = true → mfind jb.items n.commitItem = some it → it.state = .done →
      ∃ u, exec (.publicationFold j k) s = .next u ∧
        (getJob u j).insts[k]? = some { n with cur := n.next, curV := true, next := [], nextV := false, version := wrap32 (n.version + 1) })

/-- The Icehouse starts the spill or refill that is due, ends a move, and a deadlock that has lasted 2,500,000 ticks faults the job with
E_ICEHOUSE_EXHAUSTED (R253 to R261). -/
def Sys2Proof.Claim.IcehouseEffects : Prop :=
  ∀ (s : State) (d j : Nat), storeOk d = true → jobOk j = true → jobLive s j = true →
    (stackUp s d = true →
      (∀ e, spillReady (getJob s j) d = some e → moverFree s j d = true → exec (.icehouseSpillStart d j) s = .next (noteStuck (startSpill s j d e) j)) ∧
      (∀ e, refillReady (getJob s j) d = some e → moverFree s j d = true → spillNeeded s d = false → exec (.icehouseRefillStart d j) s = .next (noteStuck (startRefill s j d e) j)) ∧
      (∀ a b rest, (getIce (getJob s j) d).moves = (a, b) :: rest → (moverJobs s d).head? = some j →
        exec (.icehouseMoveDone d j) s = .next (noteStuck (sweepEntries (endMove s j d a b) j d) j))) ∧
    (∀ t, (getJob (noteStuck s j) j).stuckSince = some t → jobLive (noteStuck s j) j = true →
      exec (.icehouseDeadlockTimeout j) s = .next (exhausted (advanceTo (noteStuck s j) (t + 2500000)) j))

/-- The ends of page moves, items and Icehouse moves: the page stands in its new frame, every item of a group that commits is committed, an item that
ends is DONE with nothing staged; a spill or refill is under way with its moves, a move leaves the list, an exhausted Icehouse faults the job and is empty
(R172, R175, R255 to R261). -/
def Sys2Proof.Claim.PageAndIcehouseCommandsComplete : Prop :=
  ∀ (s : State) (d j : Nat), storeOk d = true → jobOk j = true → jobLive s j = true →
    let jb := getJob s j
    let ice := getIce jb d
    (∀ m, jb.moves.find? (fun n => n.started && decide (n.vpn = m.vpn)) = some m → m.fromAddr % 65536 = 0 → m.toAddr % 65536 = 0 →
      m.fromAddr ≠ m.toAddr → (∀ k, k < 4 → noneWaits s k) →
        ∃ u, exec (.pageMoveDone j m.vpn) s = .next u ∧ memRead u.mem m.toAddr 65536 = memRead s.mem m.fromAddr 65536 ∧
          ∀ n ∈ (getJob u j).moves, n.fromAddr ≠ m.fromAddr) ∧
    (∀ i it, mfind jb.items i = some it → it.state = .running → it.phase ≠ 4 → groupReported jb (groupOf jb it) = true →
      groupWhole jb it (groupOf jb it) = true →
      (∀ m ∈ (groupOf jb it).filterMap (fun k => mfind jb.items k), stagedMoves jb m = false ∧ stackUp s m.die = true) →
        ∃ u, exec (.itemCommit j i) s = .next u ∧
          ∀ k ∈ groupOf jb it, ∃ m, mfind (getJob u j).items k = some m ∧ m.state = .committed) ∧
    (∀ i it, mfind jb.items i = some it → it.state = .committed → it.phase ≠ 4 →
      ∃ u m, exec (.itemDone j i) s = .next u ∧ mfind (getJob u j).items i = some m ∧ m.state = .done ∧ m.staging = [] ∧ m.scratch = []) ∧
    (∀ e, stackUp s d = true → spillReady jb d = some e → moverFree s j d = true →
      ∃ u, exec (.icehouseSpillStart d j) s = .next u ∧
        (getIce (getJob u j) d).moves = ice.moves ++ (storePagesOf ice e).zip ((freeSpillFrames jb d).map (· * 65536)) ∧
        (∀ g ∈ (getIce (getJob u j) d).entries, g.seq = e.seq → g.state = if (storePagesOf ice e).isEmpty then .spilled else .spilling) ∧ u.mem = s.mem) ∧
    (∀ e, stackUp s d = true → refillReady jb d = some e → moverFree s j d = true → spillNeeded s d = false →
      ∃ u, exec (.icehouseRefillStart d j) s = .next u ∧
        (getIce (getJob u j) d).moves = ice.moves ++ (spillPagesOf ice e).zip ((freeStoreFrames jb d).map (· * 65536)) ∧
        (∀ g ∈ (getIce (getJob u j) d).entries, g.seq = e.seq → g.state = if (spillPagesOf ice e).isEmpty then .instore else .refilling) ∧ u.mem = s.mem) ∧
    (∀ a b rest, stackUp s d = true → ice.moves = (a, b) :: rest → (moverJobs s d).head? = some j →
      ∃ u, exec (.icehouseMoveDone d j) s = .next u ∧ (getIce (getJob u j) d).moves = ice.moves.filter (fun m => decide (m.1 ≠ a)) ∧
        (a + 65536 ≤ b ∨ b + 65536 ≤ a → memRead (endMove s j d a b).mem b 65536 = memRead s.mem a 65536 ∧
          memRead (endMove s j d a b).mem a 65536 = List.replicate 65536 0)) ∧
    (∀ t c rest a, (getJob (noteStuck s j) j).stuckSince = some t →
      let v := advanceTo (noteStuck s j) (t + 2500000)
      waitingCells v j = c :: rest → (getCell v c).ctx = j → (getCell v c).allocs.find? (·.waiting) = some a →
        ∃ u, exec (.icehouseDeadlockTimeout j) s = .next u ∧ (getJob u j).faulted = true ∧ (getCtx u j).code = eIcehouseExhausted ∧
          ∀ k, k < 4 → (getIce (getJob u j) k).entries = [])

/-- Words are fetched and global loads return. -/
def Obligations.FetchAndLoadReturns : Prop := InstructionFetchEffect ∧ FetchedWordEntersItsQueue ∧ LoadReturnWritesItsDestination

/-- What ends the waits of a cell, and its streams and matrix unit. -/
def Obligations.CellsGoOn : Prop := CellWaitsEnd ∧ CellEnginesGoOn ∧ CellEventsComplete

/-- Scrubbing, page moves, frames, publication and the Icehouse. -/
def Obligations.StorePagesAndIcehouseGoOn : Prop := StoreEventEffects ∧ PublicationEffects ∧ IcehouseEffects ∧ PageAndIcehouseCommandsComplete

/-! ### Dispatch units and pavilions -/

/-- Arithmetic and moves of a dispatch unit whose next word exists: dD holds the result, d0 stays 0, the PC is the next word, and nothing else changes
(R225, R227). -/
def Sys2Proof.Claim.DispatchArithmetic : Prop :=
  ∀ (s : State) (p : Nat) (f : DFields), pavOk p = true → (getPav s p).dpc + 1 < (getPav s p).prog.length →
    let x := getPav s p
    let a := dReg x f.a.toNat
    let b := dReg x f.b.toNat
    let imm := f.imm.signExtend 64
    let sets := fun (i : Instr) (op : Nat) (v : Word) =>
      dEnabled s p op f = true → ∃ u, exec i s = .next u ∧ DispatchFrame s u p f.d.toNat ∧
        dReg (getPav u p) f.d.toNat = (if f.d = 0 then 0 else v) ∧ (getPav u p).scratch = x.scratch ∧ (getPav u p).args = x.args
    (dEnabled s p 0x00 f = true → ∃ u, exec (.dNop p f) s = .next u ∧ DispatchFrame s u p 0 ∧ (getPav u p).dreg = x.dreg) ∧
    sets (.dAdd p f) 0x01 (a + b) ∧ sets (.dAddi p f) 0x02 (a + imm) ∧ sets (.dSub p f) 0x03 (a - b) ∧ sets (.dAndi p f) 0x04 (a &&& imm) ∧
    sets (.dOr p f) 0x05 (a ||| b) ∧ sets (.dShli p f) 0x06 (BitVec.ofNat 64 (a.toNat * 2 ^ (f.imm.toNat % 64))) ∧
    sets (.dShri p f) 0x07 (BitVec.ofNat 64 (a.toNat / 2 ^ (f.imm.toNat % 64))) ∧ sets (.dMuli p f) 0x08 (a * imm) ∧
    (∀ v, x.table[(a + imm).toNat]? = some v → sets (.dLdt p f) 0x09 v) ∧
    ((a + imm).toNat < 256 → sets (.dLds p f) 0x0A (mget 0 x.scratch (a + imm).toNat)) ∧
    (f.imm.toNat < 5 → sets (.dStat p f) 0x25 (statValue s p f.imm.toNat)) ∧
    (dEnabled s p 0x0B f = true → (a + imm).toNat < 256 → ∃ u, exec (.dSts p f) s = .next u ∧ DispatchFrame s u p 0 ∧
      mget 0 (getPav u p).scratch (a + imm).toNat = b ∧ (∀ n, n ≠ (a + imm).toNat → mget 0 (getPav u p).scratch n = mget 0 x.scratch n)) ∧
    (dEnabled s p 0x21 f = true → ∃ u, exec (.dArg p f) s = .next u ∧ DispatchFrame s u p 0 ∧
      mget 0 (getPav u p).args (f.imm.toNat % 8) = a ∧ (getPav u p).scratch = x.scratch ∧
      (∀ n, n ≠ f.imm.toNat % 8 → mget 0 (getPav u p).args n = mget 0 x.args n))

/-- A branch of a dispatch unit that is taken goes to PC + IMM, where the program has a word, and one that is not to the next word; HALT stops the
unit (R227). -/
def Sys2Proof.Claim.DispatchBranches : Prop :=
  ∀ (s : State) (p : Nat) (f : DFields), pavOk p = true →
    let x := getPav s p
    let a := dReg x f.a.toNat
    let b := dReg x f.b.toNat
    let target := fun (taken : Bool) => if taken then ((x.dpc : Int) + f.imm.toInt).toNat else x.dpc + 1
    let goes := fun (i : Instr) (op : Nat) (taken : Bool) =>
      dEnabled s p op f = true → target taken < x.prog.length →
        ∃ u, exec i s = .next u ∧ (getPav u p).dpc = target taken ∧ (getPav u p).dreg = x.dreg ∧ (getPav u p).dstate = x.dstate ∧
          (∀ q, q ≠ p → getPav u q = getPav s q) ∧ ∃ m, u = { s with pavs := m }
    goes (.dBeq p f) 0x10 (decide (a = b)) ∧ goes (.dBne p f) 0x11 (decide (a ≠ b)) ∧ goes (.dBltu p f) 0x12 (decide (a.toNat < b.toNat)) ∧
    goes (.dJmp p f) 0x13 true ∧
    (dEnabled s p 0x3F f = true → exec (.dHalt p f) s = .next (setPav s p { x with dstate := 3, dpc := x.dpc + 1 }))

/-- An index outside the table or the scratch words, and execution past the last word, are job faults with E_PAGE_FAULT: the unit stops and
PAV[p].DISPATCH records the code and the PC of the faulting instruction (R229). -/
def Sys2Proof.Claim.DispatchFaults : Prop :=
  ∀ (s : State) (p : Nat) (f : DFields), pavOk p = true →
    let x := getPav s p
    let i := (dReg x f.a.toNat + f.imm.signExtend 64).toNat
    let faults := fun (c : Instr) (pc : Nat) =>
      ∃ u, exec c s = .next u ∧ (getPav u p).code = ePageFault ∧ (getPav u p).dpc = pc ∧ (getPav u p).dstate = 3 ∧
        (getJob u x.ctx).faulted = true ∧ (getCtx u x.ctx).state = 2 ∧ (getCtx u x.ctx).code = ePageFault
    (dEnabled s p 0x09 f = true → x.table.length ≤ i → faults (.dLdt p f) x.dpc) ∧
    (dEnabled s p 0x0A f = true → 256 ≤ i → faults (.dLds p f) x.dpc) ∧
    (dEnabled s p 0x0B f = true → 256 ≤ i → faults (.dSts p f) x.dpc) ∧
    (dEnabled s p 0x00 f = true → x.dpc + 1 = x.prog.length → faults (.dNop p f) x.dpc)

/-- NEXT reserves the first ready item of the policy and puts its item word in dD, or waits; LAUNCH starts the reserved item that dA names; a wait of
either ends; KINDLE and MIGRATE do what they are asked for a pavilion and a bed of the job, or answer a status value (R225, R227, R228, R231). -/
def Sys2Proof.Claim.DispatchItems : Prop :=
  ∀ (s : State) (p : Nat) (f : DFields), pavOk p = true →
    let x := getPav s p
    let a := dReg x f.a.toNat
    (∀ i it, dEnabled s p 0x20 f = true → x.reserved = none → offered s p = some (i, it) → x.dpc + 1 < x.prog.length →
      ∃ u, exec (.dNext p f) s = .next u ∧ (getPav u p).reserved = some i ∧ (getPav u p).dpc = x.dpc + 1 ∧ (getPav u p).dstate = 1 ∧
        dReg (getPav u p) f.d.toNat = (if f.d = 0 then 0 else itemWordOf it) ∧ u.mem = s.mem ∧ u.cells = s.cells) ∧
    (dEnabled s p 0x20 f = true → x.reserved = none → offered s p = none →
      exec (.dNext p f) s = .next (setPav s p { x with dwait := .next f.d.toNat, dstate := 2 })) ∧
    (∀ i it, dEnabled s p 0x22 f = true → launchNamed s p a = some (i, it) → x.power = .run →
      exec (.dLaunch p f) s = .next (doLaunch s p f.d.toNat i it)) ∧
    (∀ i it, dEnabled s p 0x22 f = true → launchNamed s p a = some (i, it) → x.power ≠ .run →
      exec (.dLaunch p f) s =
        .next (startKindle (setPav s p { x with dwait := .launch f.d.toNat i, dstate := 2, late := wrap32 (x.late + 1) }) p)) ∧
    (∀ d i it, x.dwait = .next d → pavLive s p = true → offered s p = some (i, it) →
      exec (.nextResume p) s = .next (dNextWord (reserve s p d i it) p)) ∧
    (∀ d i it, x.dwait = .launch d i → mfind (getJob s x.ctx).items i = some it → pavLive s p = true → x.power = .run →
      exec (.nextResume p) s = .next (doLaunch s p d i it)) ∧
    (dEnabled s p 0x23 f = true → a.toNat ≤ 63 → (getPav s a.toNat).held = true → (getPav s a.toNat).ctx = x.ctx →
      exec (.dKindle p f) s = .next (dWrite (startKindle s a.toNat) p f 0)) ∧
    (∀ u, dEnabled s p 0x24 f = true → a.toNat < 2 ^ 20 → (dReg x f.b.toNat).toNat < 2 ^ 10 →
      requestMigration s x.ctx (a.toNat % 4096) (a.toNat / 4096) ((dReg x f.b.toNat).toNat / 16) ((dReg x f.b.toNat).toNat % 16) = .inl u →
        exec (.dMigrate p f) s = .next (dWrite u p f 0))

/-- A pavilion's clocks: KINDLING ends in RUN and a LAUNCH that waited goes on; RUN that holds no launch becomes GATED, GATED becomes OFF; a started
bed's thread 0 begins; a pavilion reset halts (R230, R240, R446). -/
def Obligations.PavilionPowerStates : Prop :=
  ∀ (s : State) (p : Nat), pavOk p = true →
    let x := getPav s p
    (x.power = .kindling → running s = true → stackUp s (dieOfPav p) = true → x.dwait = .none →
      ∃ u, exec (.kindleComplete p) s = .next u ∧ (getPav u p).power = .run ∧ (getPav u p).idleSince = s.ember ∧ u.cells = s.cells ∧ u.mem = s.mem ∧
        (∀ q, q ≠ p → getPav u q = getPav s q)) ∧
    (x.power = .run → launchRuns s p = false → running s = true →
      ∃ u, exec (.pavilionGate p) s = .next u ∧ (getPav u p).power = .gated ∧ u.ember = max s.ember (x.idleSince + ceilDiv x.gateNow 45) ∧
        u.cells = s.cells ∧ u.mem = s.mem) ∧
    (x.power = .gated → running s = true → x.offNow ≠ 0xFFFFFFFF → temperPending x = false →
      ∃ u, exec (.pavilionOff p) s = .next u ∧ (getPav u p).power = .off ∧ u.ember = max s.ember (x.idleSince + x.offNow) ∧
        u.cells = s.cells ∧ u.mem = s.mem) ∧
    (x.power = .gated → running s = true → temperPending x = true →
      ∃ u, exec (.pavilionOff p) s = .next u ∧ (getPav u p).power = .off ∧ u.ember = s.ember) ∧
    (∀ b i, bedOk b = true → x.starts.find? (fun e => decide (e.1 = b)) = some (b, i) → pavLive s p = true → x.power = .run →
      exec (.thread0Start p b) s = .next (startThread0 (setPav s p { x with starts := dropFirst (fun e => decide (e = (b, i))) x.starts }) p b i)) ∧
    (∀ t, mget 0 s.pavRsts p = t + 1 → booted s = true →
      ∃ u, exec (.pavilionResetHalt p) s = .next u ∧ (getPav u p).power = .off ∧ (getPav u p).held = false ∧ mget 0 u.pavRsts p = 0)

/-- The markers of a migration are taken, and when every one has come the old bed is released (R236). -/
def Sys2Proof.Claim.MigrationMarkers : Prop :=
  ∀ (s : State) (j n : Nat) (m : Mig), jobOk j = true → jobLive s j = true → (getMigs s j)[n]? = some m → m.done = false →
    (∀ k, exec (.migrationEndMarker j n k) s = .next (endMarker s j n m k)) ∧
    (∀ k, exec (.migrationMoveMarker j n k) s = .next (moveMarker s j n m k)) ∧
    (migOver s j m = true → exec (.migrationComplete j n) s = .next (completeMig s j n m)) ∧
    (∀ k ch u, (getJob s j).image.chans[k]? = some ch → m.moves.contains k = false → ch.cStage = m.stage → moveInput s m k ch = some u →
      moveMarker s j n m k = setMig u j n { m with moves := k :: m.moves })

/-- LAUNCH starts its item: it runs with the newest version that it may read, its bed's thread 0 is to start, dD is 0 and the unit goes on; a wait of
NEXT or LAUNCH ends with its effect; KINDLE of a pavilion that is OFF puts it in KINDLING, MIGRATE puts a migration of a bed under way; thread 0 of a
started bed stands at its entry with its argument block; the markers and the end of a migration are taken (R225, R227, R228, R231, R235, R236, R240). -/
def Sys2Proof.Claim.ItemCommandsComplete : Prop :=
  ∀ (s : State) (p : Nat) (f : DFields), pavOk p = true →
    let x := getPav s p
    let jb := getJob s x.ctx
    let a := dReg x f.a.toNat
    let ends := x.dpc + 1 < x.prog.length
    let starts := fun (c : Instr) (n i : Nat) (it : Item) (v : Nat) =>
      ∃ u m, exec c s = .next u ∧ mfind (getJob u x.ctx).items i = some m ∧ m.state = .running ∧ m.version = v ∧ (it.bed, i) ∈ (getPav u p).starts ∧
        (getPav u p).reserved = none ∧ (getPav u p).dwait = .none ∧ (getPav u p).dpc = x.dpc + 1 ∧ dReg (getPav u p) n = 0
    (∀ i it v ps, dEnabled s p 0x22 f = true → launchNamed s p a = some (i, it) → x.power = .run → ends → versionOf s jb it = some v →
      checkAccess s jb none (dieOfPav p) .wr [(argAddr jb p it.bed, 64)] = .ok ps → starts (.dLaunch p f) f.d.toNat i it v) ∧
    (∀ d i it v ps, x.dwait = .launch d i → mfind jb.items i = some it → pavLive s p = true → x.power = .run → ends → versionOf s jb it = some v →
      checkAccess s jb none (dieOfPav p) .wr [(argAddr jb p it.bed, 64)] = .ok ps → starts (.nextResume p) d i it v) ∧
    (∀ d i it, x.dwait = .next d → pavLive s p = true → offered s p = some (i, it) → ends →
      ∃ u, exec (.nextResume p) s = .next u ∧ (getPav u p).reserved = some i ∧ (getPav u p).dwait = .none ∧ (getPav u p).dstate = 1 ∧
        (getPav u p).dpc = x.dpc + 1 ∧ dReg (getPav u p) d = (if d = 0 then 0 else itemWordOf it)) ∧
    (let y := getPav s a.toNat
     dEnabled s p 0x23 f = true → a.toNat ≤ 63 → y.held = true → y.ctx = x.ctx → y.power = .off → y.retired = false → y.retirePend = false → ends →
      ∃ u, exec (.dKindle p f) s = .next u ∧ (getPav u a.toNat).power = .kindling ∧ (getPav u a.toNat).kindles = wrap32 (y.kindles + 1) ∧
        dReg (getPav u p) f.d.toNat = 0 ∧ (getPav u p).dpc = x.dpc + 1) ∧
    (∀ t, dEnabled s p 0x24 f = true → a.toNat < 2 ^ 20 → (dReg x f.b.toNat).toNat < 2 ^ 10 → ends →
      requestMigration s x.ctx (a.toNat % 4096) (a.toNat / 4096) ((dReg x f.b.toNat).toNat / 16) ((dReg x f.b.toNat).toNat % 16) = .inl t →
        ∃ u m, exec (.dMigrate p f) s = .next u ∧ getMigs u x.ctx = getMigs s x.ctx ++ [m] ∧ m.stage = a.toNat % 4096 ∧ m.replica = a.toNat / 4096 ∧
          m.toP = (dReg x f.b.toNat).toNat / 16 ∧ m.toB = (dReg x f.b.toNat).toNat % 16 ∧ m.done = false ∧ dReg (getPav u p) f.d.toNat = 0) ∧
    (∀ b i it e, bedOk b = true → x.starts.find? (fun e => decide (e.1 = b)) = some (b, i) → pavLive s p = true → x.power = .run →
      mfind jb.items i = some it → (stageOf jb it.stage).bind (fun st => entryWord st it.phase) = some e →
        ∃ u, exec (.thread0Start p b) s = .next u ∧ ∀ c ∈ bedCells p (getBed x b), tstateOf (getCell u c) 0 = .ready ∧
          pcOf (getCell u c) 0 = e % 8192 ∧ streamOf (getCell u c) 0 = 0 ∧ ∀ n, sReg n (getCell u c) 0 1 = BitVec.ofNat 64 (argAddr jb p b)) ∧
    (∀ j n m, jobOk j = true → jobLive s j = true → (getMigs s j)[n]? = some m → m.done = false →
      (∀ k ch u, (getJob s j).image.chans[k]? = some ch → m.moves.contains k = false → ch.cStage = m.stage → moveInput s m k ch = some u →
        ∃ v, exec (.migrationMoveMarker j n k) s = .next v ∧ (getMigs v j)[n]? = some { m with moves := k :: m.moves } ∧ v.mem = s.mem) ∧
      (∀ k ch u, (getJob s j).image.chans[k]? = some ch → m.moves.contains k = true → m.ends.contains (2 * k) = false → oldIdle s m = true →
        ch.cStage = m.stage → forwardAll s m k ch = some u →
          ∃ v, exec (.migrationEndMarker j n (2 * k)) s = .next v ∧ (getMigs v j)[n]? = some { m with ends := 2 * k :: m.ends } ∧ v.mem = s.mem) ∧
      (migOver s j m = true → (getPav s m.fromP).retirePend = false →
        ∃ v, exec (.migrationComplete j n) s = .next v ∧ (getMigs v j)[n]? = some { m with done := true } ∧ getBed (getPav v m.fromP) m.fromB = Bed.reset))

/-- Arithmetic, branches and faults of the dispatch units. -/
def Obligations.DispatchInstructionsGiveTheirResults : Prop := DispatchArithmetic ∧ DispatchBranches ∧ DispatchFaults

/-- NEXT, LAUNCH, KINDLE, MIGRATE and what follows them. -/
def Obligations.ItemsAreLaunchedAndBedsMigrate : Prop := DispatchItems ∧ MigrationMarkers ∧ ItemCommandsComplete

/-! ### Synchronisation objects and the Hearth -/

/-- The update port of an object: the next update is applied, an ARRIVE adding to COUNT modulo 2^32, an ARM writing TARGET, a RESET writing 0 to
COUNT; nothing else of the object's words but the waiters that an update satisfies changes (R273, R276, R281). -/
def Obligations.PortUpdatesObject : Prop :=
  ∀ (s : State) (i : Nat) (rest : List PortOp) (o : SyncObj) (who : Option (Nat × Nat)) (v : BitVec 32), objOk i = true → stackUp s (dieOfObj i) = true →
    s.failTrigger = 0 → getObj s i = o → (rest.head?.map isUpdate).getD true = true →
    let sat := fun (count target : BitVec 32) => decide ((count - target).toNat < 2147483648)
    let after := fun (u : State) (count target : BitVec 32) =>
      (getObj u i).count = count ∧ (getObj u i).target = target ∧ (getObj u i).evsrc = o.evsrc ∧
      (getObj u i).waiters = (if sat count target then [] else o.waiters) ∧ getPort u i = rest ∧ (∀ k, k ≠ i → getObj u k = getObj s k) ∧ u.mem = s.mem
    (getPort s i = .arrive v who :: rest → ∃ u, exec (.syncPortUpdate i) s = .next u ∧ after u (o.count + v) o.target) ∧
    (getPort s i = .arm v who :: rest → ∃ u, exec (.syncPortUpdate i) s = .next u ∧ after u o.count v) ∧
    (getPort s i = .reset who :: rest → ∃ u, exec (.syncPortUpdate i) s = .next u ∧ after u 0 o.target) ∧
    (∀ agent n, getPort s i = .wait agent n :: rest → exec (.syncPortUpdate i) s = .next (setPort (registerWait s i agent n) i rest)) ∧
    (∀ c st, getPort s i = .read c st :: rest →
      exec (.syncPortUpdate i) s = .next (setPort (answerRead s c st (BitVec.ofNat 64 (o.target.toNat * 4294967296 + o.count.toNat))) i rest)) ∧
    (∀ n, n < 16 → getPort s i = .setevt n :: rest → satisfied o = false → ∃ u, exec (.syncPortUpdate i) s = .next u ∧
      getObj u i = { o with evsrc := n, evt := true } ∧ getPort u i = rest ∧ u.mem = s.mem) ∧
    (getPort s i = .clrevt :: rest → ∃ u, exec (.syncPortUpdate i) s = .next u ∧ getObj u i = { o with evt := false } ∧ getPort u i = rest ∧ u.mem = s.mem)

/-- An object is satisfied exactly where (COUNT − TARGET) modulo 2^32 is below 2^31 (R274). -/
def Obligations.SatisfiedObjects : Prop :=
  ∀ o : SyncObj, satisfied o = true ↔ (o.count.toNat + 4294967296 - o.target.toNat) % 4294967296 < 2147483648

/-- A satisfied object releases every waiter in one evaluation, clears EVT, raises the event of source EVSRC of its store die where EVT was 1, once, and
counts the waits; where EVT was 0 no event is raised (R280; R276's last paragraph). -/
def Obligations.SatisfiedObjectReleasesWaiters : Prop :=
  ∀ (s : State) (i : Nat), satisfied (getObj s i) = true →
    (getObj (evaluate s i) i).waiters = [] ∧ (getObj (evaluate s i) i).evt = false ∧ (getObj (evaluate s i) i).count = (getObj s i).count ∧
    (evaluate s i).waitMsgs = s.waitMsgs ++ (getObj s i).waiters.map (fun w => ⟨w.agent, true⟩) ∧
    (getStore (evaluate s i) (dieOfObj i)).waitsSat = wrap32 ((getStore s (dieOfObj i)).waitsSat + (getObj s i).waiters.length) ∧
    ((getObj s i).evt = true → (getEv (evaluate s i) (16 * dieOfObj i + (getObj s i).evsrc)).pend = true ∧
      ∀ n, n ≠ 16 * dieOfObj i + (getObj s i).evsrc → getEv (evaluate s i) n = getEv s n) ∧
    ((getObj s i).evt = false → (evaluate s i).evs = s.evs)

/-- A wait at the port of a satisfied object is answered at once and starts no timeout; else its agent is registered with the deadline E0 + n + 1
(R282, R283). -/
def Sys2Proof.Claim.WaitRegistration : Prop :=
  ∀ (s : State) (i agent : Nat) (n : Option Nat),
    (satisfied (getObj s i) = true →
      (registerWait s i agent n).waitMsgs = s.waitMsgs ++ [⟨agent, true⟩] ∧ (registerWait s i agent n).objs = s.objs) ∧
    (satisfied (getObj s i) = false →
      (getObj (registerWait s i agent n) i).waiters = (getObj s i).waiters ++ [⟨agent, n.map (fun k => s.ember + k + 1)⟩] ∧
      (registerWait s i agent n).waitMsgs = s.waitMsgs)

/-- The deadline of a WAITT that is still registered: the waiter leaves the object, COUNT and TARGET stay, and a message that says TIMED_OUT sets out; a
message that arrives makes its thread READY, with 0 for SATISFIED and 1 for TIMED_OUT in the sD of a WAITT (R79, R277, R283). -/
def Sys2Proof.Claim.TimeoutsAndMessages : Prop :=
  (∀ (s : State) (i c t e : Nat), objOk i = true → cellOk c = true → threadOk t = true → stackUp s (dieOfObj i) = true → s.failTrigger = 0 →
    (getObj s i).waiters.find? (fun w => decide (w.agent = 8 * c + t)) = some ⟨8 * c + t, some e⟩ →
      ∃ u, exec (.waittExpiry i c t) s = .next u ∧ ⟨8 * c + t, some e⟩ ∉ (getObj u i).waiters ∧ (getObj u i).count = (getObj s i).count ∧
        (getObj u i).target = (getObj s i).target ∧ ⟨8 * c + t, false⟩ ∈ u.waitMsgs ∧ u.ember = max s.ember e ∧
        ((getObj s i).waiters = [⟨8 * c + t, some e⟩] → (∀ k, k ≠ i → (getObj s k).waiters = []) →
          u.waitMsgs = s.waitMsgs ++ [⟨8 * c + t, false⟩] ∧
          (getStore u (dieOfObj i)).waitsOut = wrap32 ((getStore s (dieOfObj i)).waitsOut + 1))) ∧
  (∀ (s : State) (c t : Nat) (m : WaitMsg) (d st : Nat), cellOk c = true → threadOk t = true → cellLive s c = true →
    s.waitMsgs.find? (fun m => decide (m.agent = 8 * c + t)) = some m → waitsOf (getCell s c) t = .object d true st → m.satisfied = false →
      ∃ u, exec (.waitReleaseMessage c t) s = .next u ∧ tstateOf (getCell u c) t = .ready ∧ waitsOf (getCell u c) t = .none ∧
        (∀ n, sReg n (getCell u c) t d = if d = 0 then 0 else 1) ∧ u.mem = s.mem ∧ (∀ k, k ≠ c → getCell u k = getCell s k)) ∧
  (∀ (s : State) (c t : Nat) (m : WaitMsg) (d st : Nat) (timed : Bool), cellOk c = true → threadOk t = true → cellLive s c = true →
    s.waitMsgs.find? (fun m => decide (m.agent = 8 * c + t)) = some m → waitsOf (getCell s c) t = .object d timed st → m.satisfied = true →
      ∃ u, exec (.waitReleaseMessage c t) s = .next u ∧ tstateOf (getCell u c) t = .ready ∧
        (timed = true → ∀ n, sReg n (getCell u c) t d = 0))

/-- The Hearth applies the atomic at the front of its queue: memory at the operand's range holds the new bytes, every other byte is unchanged, and
the old value is on its way to the flight that asked (R291 to R293). -/
def Sys2Proof.Claim.HearthAppliesAtomic : Prop :=
  ∀ (s : State) (d a c stamp : Nat) (r : HearthReq) (rest : List HearthReq), storeOk d = true → stackUp s d = true → s.failTrigger = 0 →
    (getStore s d).hearthQ = r :: rest → r.fabric = none → r.cell = some (c, stamp) → r.parts = [(a, r.width)] → (r.width = 4 ∨ r.width = 8) →
    a + r.width ≤ hostBase → r.op ≠ .xs →
      let old := leNat (memRead s.mem a r.width)
      ∃ u, exec (.hearthAtomicApply d) s = .next u ∧ (getStore u d).hearthQ = rest ∧
        memRead u.mem a r.width = leBytes r.width (atomNew r.op (8 * r.width) old r.a.toNat r.b.toNat) ∧
        (∀ k, k < a ∨ a + r.width ≤ k → memByte u.mem k = memByte s.mem k) ∧ u.host = s.host ∧
        (getStore u d).atomics = wrap32 ((getStore s d).atomics + 1) ∧
        (∀ f, (getCell s c).flights.find? (fun f => decide (f.stamp = stamp)) = some f →
          ∃ g, (getCell u c).flights.find? (fun f => decide (f.stamp = stamp)) = some g ∧ g.arrived = true ∧ g.data = leBytes 8 old)

/-- The new operand of the atomics on w bits: AADD adds modulo 2^w, AMIN and AMAX compare signed, AXCHG takes sB, ACAS takes sD only where the operand
equals sB (R292). -/
def Sys2Proof.Claim.AtomicArithmetic : Prop :=
  ∀ (w old a b : Nat), 0 < w → old < 2 ^ w →
    atomNew .add w old a b = (old + a) % 2 ^ w ∧ atomNew .xchg w old a b = a % 2 ^ w ∧
    atomNew .cas w old a b = (if old = a % 2 ^ w then b % 2 ^ w else old) ∧
    signedOf w (atomNew .min w old a b) = min (signedOf w old) (signedOf w a) ∧
    signedOf w (atomNew .max w old a b) = max (signedOf w old) (signedOf w a)

/-! ### Update engines -/

/-- An instruction of an update program computes uD element by element from the elements of its sources and the engine goes to the next word; every
other register of the engine, and every other unit of the package, holds what it held (R320 to R323). -/
def Sys2Proof.Claim.UpdateArithmetic : Prop :=
  ∀ (s : State) (d : Nat) (f : UFields) (r : UpdRun) (k : Nat) (sh : ShardDecl) (p : UpdDecl), r.pc + 1 < p.words.length →
    let A := fun i => uReg r f.a.toNat i
    let B := fun i => uReg r f.b.toNat i
    let C := fun i => uReg r f.c.toNat i
    let one := fun (b : Bool) => if b then (0x3F800000 : F32) else 0
    let gives := fun (i : Instr) (op : Nat) (g : Nat → F32) =>
      UpdAt s d (encU op f) r k sh p → ∃ u q, exec i s = .next u ∧ (getStore u d).updRun = some q ∧ q.pc = r.pc + 1 ∧ q.block = r.block ∧
        q.shards = r.shards ∧ (∀ n, n < 1024 → uReg q f.d.toNat n = g n) ∧ (∀ m n, m ≠ f.d.toNat → n < 1024 → uReg q m n = uReg r m n) ∧
        (∀ e, e ≠ d → getStore u e = getStore s e) ∧ ∃ m, u = { s with stores := m }
    gives (.uFadd d f) 0x08 (fun n => addF32 (A n) (B n)) ∧ gives (.uFsub d f) 0x09 (fun n => subF32 (A n) (B n)) ∧
    gives (.uFmul d f) 0x0A (fun n => mulF32 (A n) (B n)) ∧ gives (.uFma d f) 0x0B (fun n => fmaF32 (A n) (B n) (C n)) ∧
    gives (.uFdiv d f) 0x0C (fun n => divF32 (A n) (B n)) ∧ gives (.uFsqrt d f) 0x0D (fun n => toF32 (fvSqrt (f32 (A n)))) ∧
    gives (.uFmin d f) 0x0E (fun n => minF32 (A n) (B n)) ∧ gives (.uFmax d f) 0x0F (fun n => maxF32 (A n) (B n)) ∧
    gives (.uFabs d f) 0x10 (fun n => toF32 (f32 (A n)).abs) ∧ gives (.uFneg d f) 0x11 (fun n => toF32 (f32 (A n)).neg) ∧
    gives (.uFcmplt d f) 0x12 (fun n => one (fvLt (f32 (A n)) (f32 (B n)))) ∧ gives (.uFcmpeq d f) 0x13 (fun n => one (fvEq (f32 (A n)) (f32 (B n)))) ∧
    gives (.uSel d f) 0x14 (fun n => if fvLt (f32 0) (f32 (C n)) then A n else B n) ∧
    gives (.uFtestfin d f) 0x15 (fun n => one (!(f32 (A n)).isNan && !(f32 (A n)).isInf)) ∧
    gives (.uLdc d f) 0x03 (fun _ => stepScalar s r (f.x.toNat % 16)) ∧ gives (.uLdk d f) 0x04 (fun _ => p.consts.getD (f.x.toNat % 16) 0) ∧
    gives (.uBsum d f) 0x18 (fun _ => toF32 (fvSum (blockVal r sh f.a.toNat))) ∧
    gives (.uBmax d f) 0x19 (fun _ => match blockVal r sh f.a.toNat with | [] => 0 | a :: l => toF32 (l.foldl fvMax a))

/-- LDF loads a block of a field into uD with 0 in the padding; STF encodes uA into the staged working copy, the staged hot-tier state, a snapshot or a
field in device memory (R319, R323, R326). -/
def Sys2Proof.Claim.UpdateLoadsAndStores : Prop :=
  ∀ (s : State) (d : Nat) (f : UFields) (r : UpdRun) (k : Nat) (sh : ShardDecl) (p : UpdDecl) (b : List Byte × List Byte),
    let sl := slotField p (f.x.toNat % 8)
    let vals := fieldValues sl.2.1 b.1 b.2
    fieldBytes s d r k sh (f.x.toNat % 8) sl.1 sl.2.1 = .inl b →
      (UpdAt s d (encU 0x01 f) r k sh p → (sl.1 ≠ 1 ∨ bitAt f.x.toNat 3 = false) →
        exec (.uLdf d f) s = .next (advanceUpd s d (setUReg r f.d.toNat (fun n => if isLogical sh r.block n then vals.getD n 0 else 0)))) ∧
      (UpdAt s d (encU 0x02 f) r k sh p → sl.1 = 2 →
        exec (.uStf d f) s = .next (advanceUpd
          (pageWrite s (newPages s r k true) (fieldBase (getJob s r.job) sh (stepOfRun s r).toNat (f.x.toNat % 8) 2 + partOffset sl.2.1 r.block)
            (storeBlock s r sh sl.2.1 f.a.toNat (f.x.toNat / 16) sl.2.2 b).1) d r)) ∧
      (UpdAt s d (encU 0x02 f) r k sh p → sl.1 = 0 → isSb sl.2.1 = false →
        exec (.uStf d f) s = .next (advanceUpd
          (pageWrite s (newPages s r k false) (fieldBase (getJob s r.job) sh (stepOfRun s r).toNat (f.x.toNat % 8) 0 + partOffset sl.2.1 r.block)
            (storeBlock s r sh sl.2.1 f.a.toNat (f.x.toNat / 16) sl.2.2 b).1) d r))

/-- An UPD item that is ready starts on its die's engine with its shards staged, and ends when every shard is done (R317, R327). -/
def Sys2Proof.Claim.UpdateItems : Prop :=
  ∀ (s : State) (d j i : Nat) (it : Item), storeOk d = true → jobOk j = true → mfind (getJob s j).items i = some it →
    (∀ u, jobLive s j = true → stackUp s d = true → it.die = d → updOf s d = none → updReady s (getJob s j) it = true →
      stageShards j d i s (ownedShards s (getJob s j) d it.stage) = some u →
        ∃ v, exec (.updItemLaunch d j i) s = .next v ∧
          (getStore v d).updRun = some { job := j, item := i, shards := ownedShards s (getJob s j) d it.stage, block := 0, pc := 0, u := [] } ∧
          (getStore v d).updStep = it.step ∧ (getStore v d).updCtx = j ∧ v.mem = u.mem) ∧
    (∀ r, updOf s d = some r → r.job = j → r.item = i → r.shards = [] → exec (.updItemEnd d) s = .next (endUpd s d r it))

/-- Versions travel: a wanted version starts its fetch, a fetch whose bytes have come ends, a scrub pass compares digests and counts itself, an export
record is written and its object arrives (R309 to R312, R330). -/
def Sys2Proof.Claim.VersionTransfers : Prop :=
  ∀ (s : State) (d j : Nat), storeOk d = true → jobOk j = true → jobLive s j = true →
    (∀ i sh v rest, stackUp s d = true → (getJob s j).image.shards[i]? = some sh →
      (getStore s d).fetch.any (fun f => decide (f.job = j ∧ f.shard = i)) = false → wantedVersions s (getJob s j) d i sh = v :: rest →
        exec (.paramFetchStart d j i) s = .next (startFetch s d j i v sh 0)) ∧
    (∀ l f sh b, (getStore s d).fetch.find? (fun f => jobLive s f.job && (fetchedBytes f l).isSome) = some f → f.job = j → stackUp s d = true →
      (getJob s j).image.shards[f.shard]? = some sh → fetchedBytes f l = some b → fetchRoute s d sh = true →
        exec (.paramFetchComplete d l) s = .next (endFetch s d f sh b)) ∧
    (stackUp s d = true → scrubDue (getJob s j) d = true → (getJob s j).caches = [] → (getJob s j).versions = [] →
      exec (.digestScrub d j) s = .next (sweepCaches (modStore
        (modJob s j (fun jb => { jb with scrubbed := mput d (stepReached jb) jb.scrubbed })) d (fun x => { x with scrubPasses := wrap32 (x.scrubPasses + 1) })) j)) ∧
    (∀ e sh v u, s.exportRuns.find? (fun e => decide (e.job = j)) = some e → (getJob s j).image.shards[e.shard]? = some sh →
      mfind (getJob s j).versions (verKey e.shard e.version) = some v → stackUp s sh.ownerDie = true →
      let gone := { s with exportRuns := dropFirst (fun x => decide (x = e)) s.exportRuns }
      engineWrite gone sh.ownerDie j e.buf (exportRecord s sh v) = .inl u →
        let arrived := match objAt (getJob s j) e.obj with
          | some o => setPort u o (getPort u o ++ [.arrive 1 none])
          | none => u
        exec (.exportRecordWritten j) s = .next (sweepVersions (setOutcome arrived e.queue e.k (0, 0, (exportRecord gone sh v).length, 0)) j))

/-- LDF and STF complete: LDF leaves the block's values in uD, STF the encoded block in the frame of the staged page that holds it, and the engine goes to
the next word (R319, R323). An UPD item that ends is DONE and its engine idle; a fetch within the package is on its list, and when its bytes match the
published digest it has left the list, counted; a scrub pass counts itself and the step that it was made at; a written export record leaves its list
with its entry's outcome (R310 to R312, R317, R330). -/
def Sys2Proof.Claim.UpdateCommandsComplete : Prop :=
  (∀ (s : State) (d : Nat) (f : UFields) (r : UpdRun) (k : Nat) (sh : ShardDecl) (p : UpdDecl) (b : List Byte × List Byte),
    let sl := slotField p (f.x.toNat % 8)
    let vals := fieldValues sl.2.1 b.1 b.2
    r.pc + 1 < p.words.length → fieldBytes s d r k sh (f.x.toNat % 8) sl.1 sl.2.1 = .inl b →
      (UpdAt s d (encU 0x01 f) r k sh p → (sl.1 ≠ 1 ∨ bitAt f.x.toNat 3 = false) →
        ∃ u q, exec (.uLdf d f) s = .next u ∧ (getStore u d).updRun = some q ∧ q.pc = r.pc + 1 ∧ u.mem = s.mem ∧
          ∀ n, n < 1024 → uReg q f.d.toNat n = if isLogical sh r.block n then vals.getD n 0 else 0) ∧
      (∀ hot a, (hot = true ∧ sl.1 = 2 ∨ hot = false ∧ sl.1 = 0 ∧ isSb sl.2.1 = false) → UpdAt s d (encU 0x02 f) r k sh p →
        let va := fieldBase (getJob s r.job) sh (stepOfRun s r).toNat (f.x.toNat % 8) sl.1 + partOffset sl.2.1 r.block
        let l := (storeBlock s r sh sl.2.1 f.a.toNat (f.x.toNat / 16) sl.2.2 b).1
        (mfind (newPages s r k hot) (va / 65536)).map (·.target) = some (.phys a) → va % 65536 + l.length ≤ 65536 →
          ∃ u q, exec (.uStf d f) s = .next u ∧ (getStore u d).updRun = some q ∧ q.pc = r.pc + 1 ∧ memRead u.mem (a + va % 65536) l.length = l ∧
            ∀ n, n < a + va % 65536 ∨ a + va % 65536 + l.length ≤ n → memByte u.mem n = memByte s.mem n)) ∧
  (∀ (s : State) (d j : Nat), storeOk d = true → jobOk j = true → jobLive s j = true → stackUp s d = true →
    (∀ r it, updOf s d = some r → r.job = j → mfind (getJob s j).items r.item = some it → r.shards = [] →
      ∃ u m, exec (.updItemEnd d) s = .next u ∧ (getStore u d).updRun = none ∧ mfind (getJob u j).items r.item = some m ∧ m.state = .done ∧
        m.staging = []) ∧
    (∀ i sh v rest, (getJob s j).image.shards[i]? = some sh → ownsShard s sh = true →
      (getStore s d).fetch.any (fun f => decide (f.job = j ∧ f.shard = i)) = false → wantedVersions s (getJob s j) d i sh = v :: rest →
        ∃ u, exec (.paramFetchStart d j i) s = .next u ∧ u.mem = s.mem ∧ (getStore u d).fetch = (getStore s d).fetch ++
          [{ job := j, shard := i, version := v, tries := 0, remote := false, raw := [], need := versionSize sh }]) ∧
    (∀ l f sh b t, (getStore s d).fetch.find? (fun f => jobLive s f.job && (fetchedBytes f l).isSome) = some f → f.job = j →
      (getJob s j).image.shards[f.shard]? = some sh → fetchedBytes f l = some b → fetchRoute s d sh = true → sh.fetchDone = [] →
      digestOf sh f.version b = publishedDigest s (getJob s j) f.shard f.version sh →
      let rest := (getStore s d).fetch.filter (fun g => decide (g.job ≠ j ∨ g.shard ≠ f.shard))
      publishCopy (modStore s d (fun x => { x with fetch := rest })) d j f.shard f.version sh
        (publishedDigest s (getJob s j) f.shard f.version sh) b = some t →
          ∃ u, exec (.paramFetchComplete d l) s = .next u ∧ (getStore u d).fetch = rest ∧
            (getStore u d).fetches = wrap32 ((getStore s d).fetches + 1)) ∧
    (scrubDue (getJob s j) d = true → (getJob s j).caches = [] → (getJob s j).versions = [] →
      ∃ u, exec (.digestScrub d j) s = .next u ∧ (getStore u d).scrubPasses = wrap32 ((getStore s d).scrubPasses + 1) ∧
        mfind (getJob u j).scrubbed d = some (stepReached (getJob s j)) ∧ u.mem = s.mem) ∧
    (∀ e sh v t, s.exportRuns.find? (fun e => decide (e.job = j)) = some e → (getJob s j).image.shards[e.shard]? = some sh →
      mfind (getJob s j).versions (verKey e.shard e.version) = some v → stackUp s sh.ownerDie = true →
      engineWrite { s with exportRuns := dropFirst (fun x => decide (x = e)) s.exportRuns } sh.ownerDie j e.buf (exportRecord s sh v) = .inl t →
        ∃ u, exec (.exportRecordWritten j) s = .next u ∧ u.exportRuns = dropFirst (fun x => decide (x = e)) s.exportRuns ∧
          u.host = t.host ∧ ∀ n ∈ (getQueue u e.queue).entries, n.k = e.k → n.outcome.isSome = true))

/-! ### Re-sharding and epochs -/

/-- A transition that is due starts its descriptors; a descriptor whose bytes have come is performed; the epoch of a job closes, is announced by the
package of rank 0, and is activated (R381, R385, R389 to R391). -/
def Sys2Proof.Claim.ReshardAndEpochsGoOn : Prop :=
  (∀ (s : State) (d j k : Nat) (t : TransDecl), storeOk d = true → nextTransition s d = some (j, k, t) → (getStore s d).transBusy = none →
    stackUp s d = true →
      ∃ v, exec (.transitionStart d) s = .next (t.descrs.foldl (fun s y => startDescr s d j y t.step (some k) none) v) ∧
        (getStore v d).transLast = k ∧ (getStore v d).transCtx = j ∧ (getStore v d).transBusy = (if t.descrs.isEmpty then none else some (j, k)) ∧
        ∃ m, v = { s with stores := m }) ∧
  (∀ (s : State) (d k : Nat) (r : RunDescr), storeOk d = true → k < 4 → (getStore s d).descrs[k]? = some r → jobLive s r.job = true →
    stackUp s d = true →
      (r.started = true → r.failed = none → r.sent = true → r.acks = 0 → exec (.reshardDescriptorComplete d k) s = .next (endDescr s d r)) ∧
      (r.started = true → r.failed = none → r.sent = false → r.need ≤ r.raw.length → exec (.reshardDescriptorComplete d k) s = .next (runDescr s d r))) ∧
  (∀ (s : State) (j : Nat), jobOk j = true → jobLive s j = true →
    let jb := getJob s j
    let m := jb.image.mapping
    (∀ e, m.epochLast.find? (fun e => decide (e.1 = jb.epoch)) = some e → jb.epochState = 1 → epochQuiet s jb e.2 = true →
      exec (.epochArrived j) s = .next (lodgeArrive (modJob s j (fun jb => { jb with epochState := 2 })) j m.closeObj)) ∧
    (jb.image.rank = 0 → m.closeObj.1 = s.pkgId → objOk m.closeObj.2 = true → satisfied (getObj s m.closeObj.2) = true →
      getPort s m.closeObj.2 = [] → jb.epochState = 2 →
      exec (.epochActivationSend j) s = .next (m.activations.foldl (fun s a => lodgeArrive s j a) (armNext s m.closeObj.2 jb.image.nrank))) ∧
    (∀ o, m.activation = some o → jb.epochState = 2 → objOk o = true → satisfied (getObj s o) = true →
      exec (.epochActivate j) s = .next (armNext (openEpoch s j) o 1)))

/-- A transition that starts is the engine's last, with its descriptors at the end of the list; a descriptor that is complete leaves the list and arrives
on its object; an epoch that has arrived is ARRIVED here and counted at rank 0, rank 0 tells every package, and the next epoch opens (R381, R385, R387,
R389). -/
def Sys2Proof.Claim.ReshardCommandsComplete : Prop :=
  (∀ (s : State) (d j k : Nat) (t : TransDecl), storeOk d = true → nextTransition s d = some (j, k, t) → (getStore s d).transBusy = none →
    stackUp s d = true → t.descrs.all (fun y => sourceHere (getJob s j) y t.step) = true →
    (getStore s d).descrs.all (fun r => r.started) = true →
      ∃ u, exec (.transitionStart d) s = .next u ∧ (getStore u d).transLast = k ∧ (getStore u d).transCtx = j ∧ u.mem = s.mem ∧
        (getStore u d).descrs.map (fun r => (r.job, r.d, r.step)) =
          (getStore s d).descrs.map (fun r => (r.job, r.d, r.step)) ++ t.descrs.map (fun y => (j, y, t.step)) ∧
        (getStore u d).transBusy = (if t.descrs.isEmpty then none else some (j, k))) ∧
  (∀ (s : State) (d k : Nat) (r : RunDescr), storeOk d = true → k < 4 → (getStore s d).descrs = [r] → k = 0 → jobLive s r.job = true →
    stackUp s d = true → r.started = true → r.failed = none → r.sent = true → r.acks = 0 →
      ∃ u, exec (.reshardDescriptorComplete d k) s = .next u ∧ (getStore u d).descrs = [] ∧
        (∀ o, r.d.obj ≠ 0 → walk (getJob s r.job) none r.d.obj.toNat = .sync o →
          let i := o + r.d.obj.toNat % 65536 / 16
          getPort u i = getPort s i ++ [.arrive r.d.v none]) ∧
        (∀ q n, r.entry = some (q, n) → ∀ e ∈ (getQueue u q).entries, e.k = n → e.outcome.isSome = true) ∧ (r.d.obj = 0 → u.mem = s.mem)) ∧
  (∀ (s : State) (j : Nat), jobOk j = true → jobLive s j = true → s.pkgSet = true →
    let jb := getJob s j
    let m := jb.image.mapping
    (∀ e, m.epochLast.find? (fun e => decide (e.1 = jb.epoch)) = some e → jb.epochState = 1 → epochQuiet s jb e.2 = true →
      ∃ u, exec (.epochArrived j) s = .next u ∧ (getJob u j).epochState = 2 ∧
        (m.closeObj.1 = s.pkgId → objOk m.closeObj.2 = true → getPort u m.closeObj.2 = getPort s m.closeObj.2 ++ [.arrive 1 none])) ∧
    (∀ o, jb.image.rank = 0 → m.closeObj.1 = s.pkgId → objOk m.closeObj.2 = true → satisfied (getObj s m.closeObj.2) = true →
      getPort s m.closeObj.2 = [] → jb.epochState = 2 → m.activations = [(s.pkgId, o)] → objOk o = true → o ≠ m.closeObj.2 →
        ∃ u, exec (.epochActivationSend j) s = .next u ∧ getPort u o = getPort s o ++ [.arrive 1 none] ∧
          getPort u m.closeObj.2 = [.arm ((getObj s m.closeObj.2).target + BitVec.ofNat 32 jb.image.nrank) none]) ∧
    (∀ o, m.activation = some o → jb.epochState = 2 → objOk o = true → satisfied (getObj s o) = true →
      ∃ u, exec (.epochActivate j) s = .next u ∧ (getJob u j).epoch = nextEpoch jb.epoch ∧ (getJob u j).epochState = 1 ∧
        getPort u o = getPort s o ++ [.arm ((getObj s o).target + 1) none]))

/-- Re-sharding and layout epochs. -/
def Obligations.ReshardAndEpochs : Prop := ReshardAndEpochsGoOn ∧ ReshardCommandsComplete

/-- What becomes of a wait: registered, answered, or timed out. -/
def Obligations.WaitsAreReleasedOrTimeOut : Prop := WaitRegistration ∧ TimeoutsAndMessages

/-- The Hearth and the arithmetic of its atomics. -/
def Obligations.HearthAtomics : Prop := HearthAppliesAtomic ∧ AtomicArithmetic

/-- The instructions of update programs. -/
def Obligations.UpdateProgramsRun : Prop := UpdateArithmetic ∧ UpdateLoadsAndStores

/-- UPD items, what their programs load and store, and the versions that they publish. -/
def Obligations.VersionsAreMadeAndTravel : Prop := UpdateItems ∧ VersionTransfers ∧ UpdateCommandsComplete

/-! ### Links -/

/-- The training of a link: DOWN to DETECT 25,000 ticks after it went down, DETECT to TRAIN, TRAIN to ALIGN, ALIGN to NEGOTIATE, NEGOTIATE to UP with a
peer that agrees and to DOWN with one that does not; a state that times out and a link that is lost go DOWN; a lane that fails TRAIN or ALIGN for the
third time is retired; each change of state sets the link's event pending (R343, R344, R371, R437). -/
def Sys2Proof.Claim.LinkTraining : Prop :=
  ∀ (s : State) (l : Nat), linkOk l = true →
    let x := getLink s l
    let enters := fun (i : Instr) (st : Nat) (more : State → Prop) =>
      ∃ u, exec i s = .next u ∧ (getLink u l).state = st ∧ (getLink u l).since = u.ember ∧ (getEv u (160 + l)).pend = true ∧
        (∀ k, k ≠ l → getLink u k = getLink s k) ∧ (st ≠ 5 → (getLink u l).peer = 0xFFFF) ∧ more u
    let still := fun (u : State) => u.mem = s.mem ∧ u.host = s.host ∧ u.cells = s.cells ∧ u.jobs = s.jobs
    (x.state = 0 → mayTrain s l = true → enters (.linkRetryDelayExpiry l) 1 (fun u =>
      u.ember = max s.ember (x.since + 25000) ∧ (getLink u l).retrain = false ∧ still u)) ∧
    (x.state = 1 → mayTrain s l = true → (x.trainTimes.filter (fun t => decide (s.ember < t + 25000000))).length < 7 →
      enters (.linkDetectComplete l) 2 (fun u => (getLink u l).trains = satAdd 0xFFFF x.trains 1 ∧ still u)) ∧
    (x.state = 1 → mayTrain s l = true → 7 ≤ (x.trainTimes.filter (fun t => decide (s.ember < t + 25000000))).length →
      enters (.linkDetectComplete l) 6 (fun u => (eLinkRetired, l) ∈ u.events ∧ still u)) ∧
    (x.state = 2 → mayTrain s l = true → enters (.linkTrainComplete l) 3 still) ∧
    (x.state = 3 → mayTrain s l = true → enters (.linkAlignComplete l) 4 (fun u => (getLink u l).laneFails = [] ∧ still u)) ∧
    (∀ peer pl rev lanes, x.state = 4 → mayTrain s l = true → s.pkgSet = true → peer ≠ s.pkgId → lanes = laneWidth x → rev = 1 →
      ∃ u, exec (.linkNegotiateComplete l peer pl rev lanes true) s = .next u ∧ (getLink u l).state = 5 ∧ (getLink u l).since = u.ember ∧
        (getEv u (160 + l)).pend = true ∧ (getLink u l).peer = peer ∧ (getLink u l).lanes = lanesUsable x ∧ (getLink u l).rxNext = 0 ∧ still u ∧
        ((∀ d, d < 4 → (getFab s d).held = []) → (getLink u l).credits = [512, 512, 512, 512] ∧ (getLink u l).txNext = 0 ∧ (getLink u l).replay = [] ∧
          ∀ k, k ≠ l → getLink u k = getLink s k)) ∧
    (∀ peer pl rev lanes b, x.state = 4 → mayTrain s l = true →
      (s.pkgSet = false ∨ b = false ∨ peer = s.pkgId ∨ lanes ≠ laneWidth x ∨ rev ≠ 1) →
      enters (.linkNegotiateComplete l peer pl rev lanes b) 0 still) ∧
    (1 ≤ x.state → x.state ≤ 4 → mayTrain s l = true → x.laneFails = [] →
      enters (.linkStateTimeout l []) 0 (fun u => u.ember = max s.ember (x.since + trainLimit x.state) ∧ still u)) ∧
    (∀ i, (x.state = 2 ∨ x.state = 3) → mayTrain s l = true → i < 4 → mget 0 x.laneFails i = 2 →
      ∃ u, exec (.linkStateTimeout l [i]) s = .next u ∧ i ∈ (getLink u l).lanesRetired ∧ ((getLink u l).state = 0 ∨ (getLink u l).state = 6)) ∧
    (x.state = 5 → ∃ u, exec (.linkLoss l) s = .next u ∧ (getLink u l).state = 0 ∧ (getLink u l).since = u.ember ∧ (getLink u l).peer = 0xFFFF ∧
      (getEv u (160 + l)).pend = true ∧
      ((∀ d, d < 4 → (getFab s d).send = [] ∧ (getFab s d).chanWait = []) → ∀ k, k ≠ l → getLink u k = getLink s k))

/-- Registers of a block take writes: VAON is up, the firmware runs, and no reset and no fail-safe state keeps the block's die from it (R17, R444,
R449, R462). -/
def Sys2Proof.Claim.TakesWrites (s : State) (base : Nat) : Prop := powered s = true ∧ booted s = true ∧ blockServed s base = true

/-- LINK[l].CTRL: ENABLE and RETRAIN are taken, either takes the link DOWN where ENABLE is 0 or RETRAIN 1, a reserved bit is refused with E_ARG_RESERVED
and RETRAIN of a retired link with E_BAD_STATE (R371). Flits of a link that is UP: one in its turn advances the sequence, its credits are taken and its
packets go on in their order, one out of turn or with a bad FCRC is answered by NAK, and a NAK has the flits not yet acknowledged sent again (R341, R342). -/
def Sys2Proof.Claim.LinkControlAndFlits : Prop :=
  ∀ (s : State) (l : Nat), linkOk l = true →
    let x := getLink s l
    (∀ v : Word, TakesWrites s (linkBase l) → bits v.toNat 63 2 = 0 →
      (bitAt v.toNat 1 = false → bitAt v.toNat 0 = true →
        exec (.linkEnable l v) s = .next (setLink s l { x with enable := true, retrain := x.retrain })) ∧
      (bitAt v.toNat 1 = false → bitAt v.toNat 0 = false → ∃ u, exec (.linkEnable l v) s = .next u ∧ (getLink u l).enable = false ∧
        (getLink u l).state = (if x.state = 6 then 6 else 0)) ∧
      (bitAt v.toNat 1 = true → x.state ≠ 6 → ∃ u, exec (.linkRetrain l v) s = .next u ∧ (getLink u l).retrain = true ∧ (getLink u l).state = 0 ∧
        (getLink u l).enable = bitAt v.toNat 0) ∧
      (bitAt v.toNat 1 = true → x.state = 6 → exec (.linkRetrain l v) s = .next (recordErr s (linkBase l) 8 eBadState))) ∧
    (∀ v : Word, TakesWrites s (linkBase l) → bits v.toNat 63 2 ≠ 0 →
      (bitAt v.toNat 1 = false → exec (.linkEnable l v) s = .next (recordErr s (linkBase l) 8 eArgReserved)) ∧
      (bitAt v.toNat 1 = true → exec (.linkRetrain l v) s = .next (recordErr s (linkBase l) 8 eArgReserved))) ∧
    (∀ f : Flit, linkUp s l = true → f.badLanes = [] → f.bytes.length = 640 →
      let takes := fun (more : State → Prop) =>
        ∃ u, exec (.flitReceive l f) s = .next u ∧ (getLink u l).state = 5 ∧ (getLink u l).fecSym = (x.fecSym + f.corrected) % 2 ^ 64 ∧ more u ∧
          u.mem = s.mem ∧ u.cells = s.cells ∧ (∀ k, k ≠ l → getLink u k = getLink s k)
      let packets := takePackets 64 (x.rx ++ flitSlots f)
      (f.uncorr = false → flitBad f = false → flitNak f = false → flitSeq f = x.rxNext →
        (∃ v, exec (.flitReceive l f) s = .next (packets.1.foldl (fun s p => routePacket s (dieOfLink l) p) v) ∧
          (getLink v l).rxNext = x.rxNext + 1 ∧ (getLink v l).rx = packets.2 ∧ v.mem = s.mem ∧ v.cells = s.cells) ∧
        ((∀ d, d < 4 → (getFab s d).held = []) → packets.1 = [] → takes (fun u =>
          (getLink u l).rxNext = x.rxNext + 1 ∧ (getLink u l).nakSent = false ∧ (getLink u l).rx = packets.2 ∧
          (getLink u l).credits = x.credits.mapIdx (fun i v => min 512 (v + flitCredit f i)) ∧ u.events = s.events))) ∧
      (f.uncorr = false → flitBad f = false → flitNak f = false → flitSeq f ≠ x.rxNext → takes (fun u =>
        (getLink u l).rxNext = x.rxNext ∧ (getLink u l).nakSent = true ∧ u.events = s.events)) ∧
      (f.uncorr = false → flitBad f = false → flitNak f = true → flitSeq f ≠ x.rxNext → takes (fun u =>
        ∃ n, (getLink u l).llretry = wrap32 (x.llretry + n) ∧ u.events = List.replicate n (iLinkRetry, l) ++ s.events)) ∧
      (f.uncorr = false → flitBad f = true → takes (fun u =>
        (getLink u l).rxNext = x.rxNext ∧ (getLink u l).nakSent = true ∧ (getLink u l).crcFail = satAdd 0xFFFF x.crcFail 1)) ∧
      (f.uncorr = true → (x.uncorrTimes.filter (fun t => decide (s.ember < t + 25000))).length < 15 → takes (fun u =>
        (getLink u l).rxNext = x.rxNext ∧ (getLink u l).nakSent = true ∧ (getLink u l).uncorr = satAdd 0xFFFF x.uncorr 1)))

/-! ### Packets of the fabric -/

/-- A packet that has come to its target die: one of class 2 is performed as it comes; one of class 0 or 3 that its channel expects is performed, the
channel's NEXT rises and successors that were held follow; one that runs ahead of NEXT is held; one of no channel is counted in DUPSEQ (R351). -/
def Sys2Proof.Claim.PacketsAreReceivedInOrder : Prop :=
  ∀ k ∈ ([(.zfpRd, .rd), (.zfpWr, .wr), (.zfpAtom, .atom), (.zfpArrive, .arrive), (.zfpMark, .mark), (.zfpXfer, .xfer), (.zfpCrd, .crd),
      (.zfpCrdx, .crdx), (.zfpCdata, .cdata), (.zfpCrecall, .crecall), (.zfpCrack, .crack), (.zfpCwb, .cwb)] : List ((Nat → Packet → Instr) × PType)),
    ∀ (s : State) (d : Nat) (p : Packet), storeOk d = true → inboundOk s d p k.2 = true →
    (p.cls ≠ 0 → p.cls ≠ 3 → ∀ t, deliver1 s d p = some t → exec (k.1 d p) s = .next t) ∧
    (p.cls = 0 ∨ p.cls = 3 →
      (∀ e, recvEntry (getFab s d) p s.ember = some e → recvFull (getFab s d) p = false →
        let e := { e with usedAt := s.ember }
        let v := modFab s d (fun f => putRecv f e)
        (∀ t, p.cseq = e.next → deliver1 v d p = some t →
          exec (k.1 d p) s = .next (deliverHeld 4096
            (modFab t d (fun f => putRecv f { e with next := e.next + 1, pendObjs := e.pendObjs ++ arrivesOn p })) d p)) ∧
        (0 < (p.cseq - e.next).toNat → (p.cseq - e.next).toNat < 4096 → e.held.any (fun q => decide (q.cseq = p.cseq)) = false →
          ((getFab v d).recv.map (fun x => x.held.length)).sum < 2048 →
          exec (k.1 d p) s = .next (modFab v d (fun f => putRecv f { e with held := e.held ++ [p] })))) ∧
      (recvEntry (getFab s d) p s.ember = none →
        exec (k.1 d p) s = .next (modFab s d (fun f => { f with dupseq := satAdd 0xFFFF f.dupseq 1 }))))

/-- Packets that are in their turn, or of class 2, complete: an RD is answered by an RDRSP with the bytes of memory; an ATOM is applied by the Hearth next,
its result kept; a WR has written its bytes; an ARRIVE stands at its object's port; a MARK in the queue; an XFER has changed the owner; a CRD or CRDX
of a free line makes its sender the line's holder; a CDATA fills the line; a CRECALL takes it away; a CRACK ends the recall of its sender; a CWB has
written the line and its sender holds it no longer (R348, R350, R361, R367 to R369). -/
def Sys2Proof.Claim.PacketsComplete : Prop :=
  ∀ (s : State) (d : Nat) (p : Packet), storeOk d = true → s.upsets = [] →
    let n := pktBytes p
    let line := dirLine s p.region (lineNo p)
    (∀ j va ps, inboundOk s d p .rd = true → p.cls = 2 → checkInbound s d p n .rd = .ok j va ps →
      ∃ u, exec (.zfpRd d p) s = .next u ∧ u.mem = s.mem ∧
        (let q := { Packet.blank .rdrsp p.src with
            src := s.pkgId, sstk := d, dstk := p.sstk, cls := 1, tag := p.tag, gen := p.gen, w3 := 0, payload := padded (readPieces s ps) }
         ∀ m l, Leaves s d q m l → mget [] u.sent l = { q with path := m } :: mget [] s.sent l)) ∧
    (∀ j va q op m, inboundOk s d p .atom = true → p.cls = 2 → p.retry = false → atomAop p = some op → op ≠ .xs →
      checkInbound s d p (atomWidth p) .atom = .ok j va [q] → q.target = .phys m → q.len = atomWidth p → m + atomWidth p ≤ hostBase →
      (getFab s d).kept.find? (keptKey p) = none → (atomsOf s d).any (sameReq p) = false → noneWaits s d → entriesUsed s d < keptMax →
      let h := dieOfAddr s m
      let old := memRead s.mem m (atomWidth p)
      storeOk h = true → stackUp s h = true → (getStore s h).hearthQ = [] →
        ∃ u w, exec (.zfpAtom d p) s = .next u ∧ exec (.hearthAtomicApply h) u = .next w ∧
          memRead w.mem m (atomWidth p) = atomBytes op (atomWidth p) (BitVec.ofNat 64 (leNat (p.payload.take 8)))
            (BitVec.ofNat 64 (leNat ((p.payload.drop 8).take 8))) old ∧
          (∀ a, a < m ∨ m + atomWidth p ≤ a → memByte w.mem a = memByte s.mem a) ∧
          ∃ k ∈ (getFab w d).kept, keptKey p k = true ∧ k.old = BitVec.ofNat 64 (leNat old)) ∧
    (∀ e, InTurn s d p e →
      let v := entered s d e
      (∀ j va m, inboundOk s d p .wr = true → p.cls = 0 → checkInbound v d p n .wr = .ok j va [⟨va, n, .phys m⟩] → m + n ≤ hostBase →
        n ≤ p.payload.length → ∃ u, exec (.zfpWr d p) s = .next u ∧ memRead u.mem m n = p.payload.take n ∧
          (∀ a, a < m ∨ m + n ≤ a → memByte u.mem a = memByte s.mem a)) ∧
      (inboundOk s d p .arrive = true → p.cls = 0 → arriveCode v p = none → ∃ u, exec (.zfpArrive d p) s = .next u ∧
        getPort u (p.w3.toNat % 262144) = getPort s (p.w3.toNat % 262144) ++ [.arrive (BitVec.ofNat 32 (p.w3.toNat / 4294967296)) none]) ∧
      (inboundOk s d p .mark = true → p.cls = 0 → (getFab s d).marks.length < 64 → ∃ u, exec (.zfpMark d p) s = .next u ∧
        (getFab u d).marks = (getFab s d).marks ++ [(p.src, p.w3.setWidth 32, s.ember)]) ∧
      (inboundOk s d p .xfer = true → p.cls = 0 → p.region ≠ 255 → (getRegion s p.region).valid = true → (getRegion s p.region).mode ≠ 3 →
        p.src = (getRegion s p.region).owner → ∃ u, exec (.zfpXfer d p) s = .next u ∧ (getRegion u p.region).owner = p.w3.setWidth 16) ∧
      (∀ ps, p.cls = 3 → coherentCode v p 64 = none → line = DLine.reset →
        let joined := setDirLine v p.region (lineNo p) { DLine.reset with pend := [p] }
        (inboundOk s d p .crd = true → lineCheck joined p .rd = .ok ps → ∃ u, exec (.zfpCrd d p) s = .next u ∧
          dirLine u p.region (lineNo p) = { state := 1, holders := [p.src], recalls := [], pend := [] }) ∧
        (inboundOk s d p .crdx = true → lineCheck joined p .wr = .ok ps → ∃ u, exec (.zfpCrdx d p) s = .next u ∧
          dirLine u p.region (lineNo p) = { state := 2, holders := [p.src], recalls := [], pend := [] })) ∧
      (inboundOk s d p .cdata = true → p.cls = 3 → p.hops = 0 → pktCode p = 0 → (lineAt s (homeAddr p)).waits = [] →
        ∃ u, exec (.zfpCdata d p) s = .next u ∧
          lineAt u (homeAddr p) = { state := if (lineAt s (homeAddr p)).asked = 2 then 2 else 1, data := p.payload, asked := 0, waits := [] }) ∧
      (inboundOk s d p .crecall = true → p.cls = 3 → p.hops = 0 → p.offset % 2 = 0 → (lineAt s (homeAddr p)).state ≠ 0 →
        ∃ u, exec (.zfpCrecall d p) s = .next u ∧ (lineAt u (homeAddr p)).state = 0 ∧ (lineAt u (homeAddr p)).data = []) ∧
      (inboundOk s d p .crack = true → p.cls = 3 → coherentCode v p 0 = none → p.payload = [] → p.offset % 2 = 0 → line.pend = [] →
        ∃ u, exec (.zfpCrack d p) s = .next u ∧ (dirLine u p.region (lineNo p)).holders = line.holders.filter (fun m => decide (m ≠ p.src)) ∧
          (dirLine u p.region (lineNo p)).recalls = line.recalls.filter (fun m => decide (m ≠ p.src))) ∧
      (∀ va m, inboundOk s d p .cwb = true → p.cls = 3 → coherentCode v p 0 = none → p.payload.length = 64 → m + 64 ≤ hostBase →
        let free := setDirLine v p.region (lineNo p) { line with state := 0, holders := [] }
        checkAccess free (getJob s (getRegion s p.region).ctx) none (p.region % 4) .wr
          [((getRegion s p.region).vbase + lineNo p * 64, 64)] = .ok [⟨va, 64, .phys m⟩] →
            ∃ u, exec (.zfpCwb d p) s = .next u ∧ memRead u.mem m 64 = p.payload ∧
              (dirLine u p.region (lineNo p)).holders = line.holders.filter (fun m => decide (m ≠ p.src))))

/-- Packets are taken in the order of their channels, and complete. -/
def Obligations.PacketsAreTakenInOrder : Prop := PacketsAreReceivedInOrder ∧ PacketsComplete

/-- What a packet does: RD is answered with the bytes of its range, WR writes them and arrives where it says so, an access that fails a check is answered
with its code, ARRIVE takes its place at the object's port, MARK joins the queue of 64, XFER from the owner names the region's next owner, a kept result
answers a copy of its ATOM (R346, R348, R350, R361, R367). -/
def Obligations.PacketEffects : Prop :=
  ∀ (s : State) (d : Nat) (p : Packet),
    (p.typ = .rd →
      (∀ j va ps, checkInbound s d p (pktBytes p) .rd = .ok j va ps →
        deliver1 s d p = some (answer (touchInbound s d j va (pktBytes p) .rd ps) d p .rdrsp 0 (readPieces s ps))) ∧
      (∀ c, checkInbound s d p (pktBytes p) .rd = .bad c → deliver1 s d p = some (answer (noteReject s d p (pktBytes p) c) d p .rdrsp c []))) ∧
    (p.typ = .wr →
      (∀ j va ps, checkInbound s d p (pktBytes p) .wr = .ok j va ps → p.w3.toNat / 4294967296 = 0 →
        deliver1 s d p = some (writePieces (touchInbound s d j va (pktBytes p) .wr ps) ps (p.payload.take (pktBytes p)))) ∧
      (∀ c, checkInbound s d p (pktBytes p) .wr = .bad c → deliver1 s d p = some (answerStatus (noteReject s d p (pktBytes p) c) d p c))) ∧
    (p.typ = .arrive → arriveCode s p = none → ∃ u, deliver1 s d p = some u ∧
      getPort u (p.w3.toNat % 262144) = getPort s (p.w3.toNat % 262144) ++ [.arrive (BitVec.ofNat 32 (p.w3.toNat / 4294967296)) none] ∧
      (∀ o, o ≠ p.w3.toNat % 262144 → getPort u o = getPort s o) ∧ u.mem = s.mem ∧ u.cells = s.cells) ∧
    (p.typ = .mark → (getFab s d).marks.length < 64 → ∃ u, deliver1 s d p = some u ∧
      (getFab u d).marks = (getFab s d).marks ++ [(p.src, p.w3.setWidth 32, s.ember)] ∧ u.mem = s.mem) ∧
    (p.typ = .mark → (getFab s d).marks.length = 64 → ∃ u, deliver1 s d p = some u ∧
      (getFab u d).marks = (getFab s d).marks.drop 1 ++ [(p.src, p.w3.setWidth 32, s.ember)] ∧ u.mem = s.mem) ∧
    (p.typ = .xfer → p.region ≠ 255 → (getRegion s p.region).valid = true → (getRegion s p.region).mode ≠ 3 → p.src = (getRegion s p.region).owner →
      ∃ u, deliver1 s d p = some u ∧ getRegion u p.region = { getRegion s p.region with owner := p.w3.setWidth 16 } ∧ u.mem = s.mem) ∧
    (p.typ = .xfer → p.region ≠ 255 → (getRegion s p.region).valid = true → p.src ≠ (getRegion s p.region).owner →
      deliver1 s d p = some (answerStatus s d p eNotOwner)) ∧
    (∀ k, p.typ = .atom → p.cls ≠ 3 → (getFab s d).kept.find? (keptKey p) = some k → ∃ u, deliver1 s d p = some u ∧ u.mem = s.mem ∧
      u.stores = s.stores ∧ (getFab u d).dupatom = wrap32 ((getFab s d).dupatom + 1))

/-- Responses: RACK deletes the kept result of its key, ACK frees what it covers, STATUS ends the packet that it names, RDRSP and ATOMRSP complete the
request of their tag and generation; one that matches none is counted in STALEGEN (R352, R353, R358, R361). -/
def Sys2Proof.Claim.FabricResponses : Prop :=
  ∀ (s : State) (d : Nat) (p : Packet), storeOk d = true →
    (inboundOk s d p .rack = true → (getFab s d).waiting = [] → (∀ e ∈ (getFab s d).dir, e.2.pend = []) → ∃ u, exec (.zfpRack d p) s = .next u ∧
      (getFab u d).kept = (getFab s d).kept.filter (fun k => !keptKey p k) ∧ u.mem = s.mem ∧ u.cells = s.cells) ∧
    (∀ e, inboundOk s d p .ack = true → (getFab s d).send.find? (fun e => decide (e.dst = p.src ∧ e.dstk = p.sstk ∧ e.cls = p.region)) = some e →
      exec (.zfpAck d p) s = .next (applyAck s d e p.cseq)) ∧
    (inboundOk s d p .status = true → exec (.zfpStatus d p) s = .next (takeStatus s d p)) ∧
    (inboundOk s d p .rdrsp = true →
      (∀ o, matchOut s d p = some o → findComb s d o.forWho = none → exec (.zfpRdrsp d p) s = .next (completeRead (endLed s d p o) d p o)) ∧
      (matchOut s d p = none →
        exec (.zfpRdrsp d p) s = .next (modFab s d (fun f => { f with stalegen := satAdd 0xFFFF f.stalegen 1 })))) ∧
    (inboundOk s d p .atomrsp = true →
      (∀ o, matchOut s d p = some o → findComb s d o.forWho = none → pktCode p = 0 →
        exec (.zfpAtomrsp d p) s =
          .next (answerFlight (sendRack (endRequest s d o) d p) o.forWho (BitVec.ofNat 64 (leNat (p.payload.take 8))))) ∧
      (matchOut s d p = none →
        exec (.zfpAtomrsp d p) s = .next (modFab s d (fun f => { f with stalegen := satAdd 0xFFFF f.stalegen 1 }))))

/-- Routers: a packet of class 0 or 1 for another package goes out on the lowest-indexed usable path with HOPS one higher; one that has made 48 hops, or
whose type is reserved, is discarded and counted; one held for 625 ticks is discarded and counted (R349, R354, R355); a window of one request lets it
go on as it is (R364). -/
def Sys2Proof.Claim.Routers : Prop :=
  ∀ (s : State) (d : Nat), storeOk d = true → forwards s d = true →
    (∀ (p : Packet) (n l : Nat), running s = true → wireOk p = true → (∀ c, p.typ ≠ .reserved c) → ownDst s p = false → p.hops < 48 → (p.cls = 0 ∨ p.cls = 1) →
      p.retry = false → bestPath s d p.dst p.cls.toNat = some n → routePath s d p.dst n = some l → linkRoom s l p = true →
      (getFab s d).held.any (waitsFor s d l p) = false →
        ∃ u, exec (.packetForward d p) s = .next u ∧ mget [] u.sent l = { p with hops := p.hops + 1, path := n } :: mget [] s.sent l ∧
          (∀ k, k ≠ l → mget [] u.sent k = mget [] s.sent k) ∧ u.mem = s.mem ∧ u.fabs = s.fabs) ∧
    (∀ p : Packet, running s = true → wireOk p = true → ((∃ c, p.typ = .reserved c) ∨ (ownDst s p = false ∧ 48 ≤ p.hops)) →
      ∃ u, exec (.packetForward d p) s = .next u ∧ (getFab u d).hoplimit = satAdd 0xFFFF (getFab s d).hoplimit 1 ∧ u.sent = s.sent ∧ u.mem = s.mem) ∧
    (∀ id h, (getFab s d).held.find? (fun h => decide (h.1 = id)) = some h →
      ∃ u, exec (.packetResidencyDrop d id) s = .next u ∧ (getFab u d).held = (getFab s d).held.filter (fun g => decide (g.1 ≠ id)) ∧
        (getFab u d).residency = satAdd 0xFFFF (getFab s d).residency 1 ∧ u.ember = max s.ember (h.2.2 + 625) ∧ u.sent = s.sent ∧ u.mem = s.mem) ∧
    (∀ id c p, (getFab s d).combs.find? (fun c => decide (c.id = id) && !c.sent) = some c → c.members = [p] →
      exec (.combineWindowClose d id) s = .next (emit (dropComb s d c.id) d p)) ∧
    (∀ id c p q rest, (getFab s d).combs.find? (fun c => decide (c.id = id) && !c.sent) = some c → c.members = p :: q :: rest →
      exec (.combineWindowClose d id) s = .next (sendRequest
        (modFab (modComb s d c.id (fun c => { c with sent := true })) d (fun f => { f with combAtoms := wrap32 (f.combAtoms + (rest.length + 2)) }))
        d (combinedAtom c.members) 2 8 (.comb c.id)))

/-- The timers of the fabric (R351, R352, R358, R359, R361). -/
def Sys2Proof.Claim.FabricTimers : Prop :=
  ∀ (s : State) (d n : Nat), storeOk d = true →
    (∀ e, (getFab s d).recv.find? (fun e => decide (e.id = n)) = some e → e.next ≠ e.acked → channelQuiet s d e = true → stackUp s d = true →
      exec (.ackPeriodic d n) s = .next (sendAck s d e)) ∧
    (∀ e m, (getFab s d).send.find? (fun e => decide (e.id = n)) = some e → e.unacked ≠ [] → stackUp s d = true →
      e.unacked.any (fun p => decide (8 ≤ p.resent)) = false → e.dst ≠ s.pkgId → channelPath (advanceTo s (e.progressAt + 2500)) d e = some m →
      exec (.channelResendTimeout d n) s = .next (resendAll (advanceTo s (e.progressAt + 2500)) d e (some m) true)) ∧
    (∀ e, (getFab s d).send.find? (fun e => decide (e.id = n)) = some e → e.unacked.any (fun p => decide (8 ≤ p.resent)) = true → stackUp s d = true →
      exec (.channelResendTimeout d n) s = .next (serveChannels (endChannel (advanceTo s (e.progressAt + 2500)) d e.id) d)) ∧
    (∀ e, (getFab s d).send.find? (fun e => decide (e.id = n)) = some e → e.unacked = [] → e.waitQ = [] →
      (getFab s d).chanWait = [] → ∃ u, exec (.channelEntryIdleFree d n true) s = .next u ∧ (getFab u d).send = (getFab s d).send.filter (fun x => decide (x.id ≠ n)) ∧
        u.ember = max s.ember (e.idleAt + 60000) ∧ u.mem = s.mem) ∧
    (∀ e, (getFab s d).recv.find? (fun e => decide (e.id = n)) = some e →
      ∃ u, exec (.channelEntryIdleFree d n false) s = .next u ∧ (getFab u d).recv = (getFab s d).recv.filter (fun x => decide (x.id ≠ n)) ∧
        u.ember = max s.ember (e.usedAt + 120000) ∧ u.mem = s.mem) ∧
    (∀ o, findOut s d n = some o → o.retries < 4 → s.ember < o.sentAt + 31250 → stackUp s d = true →
      let v := advanceTo s (o.lastAt + 6250)
      let p := uncombined o.pkt
      exec (.remoteRequestRetry d n) s = .next (sendSeq
        (modFab v d (fun f => { f with outs := f.outs.map (fun x => if x.tag = n then { o with retries := o.retries + 1, lastAt := v.ember, pkt := p } else x) }))
        d p (some o.job) none)) ∧
    (∀ o, findOut s d n = some o → exec (.remoteRequestTimeout d n) s = .next (timeOut s d o)) ∧
    (∀ t, mfind (getFab s d).quar n = some t → (getFab s d).tagWait = [] →
      ∃ u, exec (.tagQuarantineEnd d n) s = .next u ∧ mfind (getFab u d).quar n = none ∧ u.ember = max s.ember t ∧ u.mem = s.mem) ∧
    (∀ k, (getFab s d).kept.find? (fun k => decide (k.id = n)) = some k → (getFab s d).waiting = [] →
      (∀ e ∈ (getFab s d).dir, e.2.pend = []) → ∃ u, exec (.keptResultExpiry d n) s = .next u ∧ (getFab u d).kept = (getFab s d).kept.filter (fun x => decide (x.id ≠ n)) ∧
        u.ember = max s.ember (k.time + 60000) ∧ u.mem = s.mem)

/-- Responses, timers and windows of the fabric complete: an ACK takes the packets below its number from its channel, a STATUS the packet that it names; the
bytes of an RDRSP end the load that waits for them, the old value of an ATOMRSP the atomic; an ACK goes out, a packet is sent again, a request is tried
again in class 0, or its tag is quarantined and its job faults; a window of several atomics closes as one request (R352, R353, R358 to R361, R364). -/
def Sys2Proof.Claim.FabricCommandsComplete : Prop :=
  ∀ (s : State) (d n : Nat) (p : Packet), storeOk d = true →
    let f := getFab s d
    (∀ e, inboundOk s d p .ack = true → f.send.find? (fun e => decide (e.dst = p.src ∧ e.dstk = p.sstk ∧ e.cls = p.region)) = some e →
      e.unacked.any (fun q => below q.pkt.cseq p.cseq) = true → e.waitQ = [] → (∀ k, k < 4 → (getFab s k).xfer = none) →
      f.send = [e] →
        ∃ u, exec (.zfpAck d p) s = .next u ∧ (getFab u d).send =
          [{ e with unacked := e.unacked.filter (fun q => !below q.pkt.cseq p.cseq), progressAt := s.ember, idleAt := s.ember }] ∧ u.mem = s.mem) ∧
    (∀ e q, inboundOk s d p .status = true → f.send = [e] → e.dst = p.src → e.dstk = p.sstk → e.cls = 0 → e.waitQ = [] → pktCode p = 0 →
      e.unacked.find? (fun q => decide (q.pkt.cseq = BitVec.ofNat 32 (p.w3.toNat / 4294967296))) = some q → q.job = none →
      (∀ k, k < 4 → (getFab s k).xfer = none) →
        ∃ u, exec (.zfpStatus d p) s = .next u ∧ u.mem = s.mem ∧ (getFab u d).send =
          [{ e with unacked := e.unacked.filter (fun r => decide (r.pkt.cseq ≠ q.pkt.cseq)), progressAt := s.ember, idleAt := s.ember }]) ∧
    (∀ o c stamp g, inboundOk s d p .rdrsp = true → matchOut s d p = some o → o.forWho = .cell c stamp 0 → ledBy s d o = none → f.tagWait = [] →
      pktCode p = 0 → pktBytes o.pkt ≤ p.payload.length → (getCell s c).flights = [g] → g.stamp = stamp → g.kind = .load → g.raw = [] →
      g.need = pktBytes o.pkt →
        ∃ u h, exec (.zfpRdrsp d p) s = .next u ∧ (∀ x ∈ (getFab u d).outs, x.tag ≠ o.tag) ∧ (getCell u c).flights = [h] ∧ h.stamp = stamp ∧
          h.arrived = true ∧ h.data = finishLoad g (p.payload.take (pktBytes o.pkt))) ∧
    (∀ o c stamp off g, inboundOk s d p .atomrsp = true → matchOut s d p = some o → o.forWho = .cell c stamp off → f.tagWait = [] → pktCode p = 0 →
      (getCell s c).flights = [g] → g.stamp = stamp → g.dest.isSome = true →
        ∃ u h, exec (.zfpAtomrsp d p) s = .next u ∧ (∀ x ∈ (getFab u d).outs, x.tag ≠ o.tag) ∧ (getCell u c).flights = [h] ∧ h.stamp = stamp ∧
          h.arrived = true ∧ h.data = leBytes 8 (BitVec.ofNat 64 (leNat (p.payload.take 8))).toNat) ∧
    (∀ e m l, f.recv = [e] → e.id = n → e.next ≠ e.acked → channelQuiet s d e = true → stackUp s d = true →
      let q := { Packet.blank .ack e.src with src := s.pkgId, sstk := d, dstk := e.sstk, cls := 1, cseq := e.next, region := e.cls }
      Leaves s d q m l → ∃ u, exec (.ackPeriodic d n) s = .next u ∧ mget [] u.sent l = { q with path := m } :: mget [] s.sent l ∧
        (getFab u d).recv = [{ e with acked := e.next, pendObjs := [] }] ∧ u.mem = s.mem) ∧
    (∀ e q m l, f.send = [e] → e.id = n → e.unacked = [q] → q.resent < 8 → stackUp s d = true → s.pkgSet = true → e.dst ≠ s.pkgId →
      q.pkt.dst = e.dst → channelPath (advanceTo s (e.progressAt + 2500)) d e = some m → routePath s d e.dst m = some l → linkRoom s l q.pkt = true →
      f.held = [] →
        ∃ u, exec (.channelResendTimeout d n) s = .next u ∧ mget [] u.sent l = { q.pkt with path := m } :: mget [] s.sent l ∧
          (getFab u d).send = [{ e with path := some m, progressAt := u.ember, unacked := [{ q with resent := q.resent + 1 }] }] ∧
          u.ember = max s.ember (e.progressAt + 2500)) ∧
    (∀ o m l, f.outs = [o] → o.tag = n → o.retries < 4 → s.ember < o.sentAt + 31250 → o.lastAt + 6250 < o.sentAt + 31250 → stackUp s d = true →
      f.send = [] → f.held = [] → ownDst s o.pkt = false → bestPath s d o.pkt.dst 0 = some m → routePath s d o.pkt.dst m = some l →
      linkRoom s l { o.pkt with cls := 0 } = true →
        ∃ u q, exec (.remoteRequestRetry d n) s = .next u ∧ (getFab u d).outs = [{ o with retries := o.retries + 1, lastAt := u.ember, pkt := uncombined o.pkt }] ∧
          mget [] u.sent l = q :: mget [] s.sent l ∧ q.cls = 0 ∧ q.retry = true ∧ q.tag = o.pkt.tag ∧ q.gen = o.pkt.gen ∧ q.typ = o.pkt.typ ∧
          u.ember = max s.ember (o.lastAt + 6250)) ∧
    (∀ o, findOut s d n = some o → (getJob s o.job).loaded = true → (getJob s o.job).faulted = false →
      ∃ u, exec (.remoteRequestTimeout d n) s = .next u ∧ findOut u d n = none ∧ u.ember = max s.ember (o.sentAt + 31250) ∧
        mfind (getFab u d).quar n = some (u.ember + 60000) ∧ (getJob u o.job).faulted = true ∧
        (getCtx u o.job).code = (if o.pkt.typ = .rd then eLinkNoPath else eAtomicIndeterminate)) ∧
    (∀ id c q m l, forwards s d = true → f.combs.find? (fun c => decide (c.id = id) && !c.sent) = some c → c.members = [q] → Leaves s d q m l →
      ∃ u, exec (.combineWindowClose d id) s = .next u ∧ mget [] u.sent l = { q with path := m } :: mget [] s.sent l ∧
        (∀ x ∈ (getFab u d).combs, x.id ≠ id) ∧ u.mem = s.mem) ∧
    (∀ id c a b rest tag, forwards s d = true → f.combs.find? (fun c => decide (c.id = id) && !c.sent) = some c → c.members = a :: b :: rest →
      findTag f 16384 f.tagNext = some tag →
        ∃ u, exec (.combineWindowClose d id) s = .next u ∧ (getFab u d).combAtoms = wrap32 (f.combAtoms + (rest.length + 2)) ∧
          (∃ o, (getFab u d).outs = f.outs ++ [o] ∧ o.tag = tag ∧ o.forWho = .comb id ∧ o.pkt.cls = 2 ∧ o.pkt.w3 = (combinedAtom c.members).w3 ∧
            o.pkt.payload = (combinedAtom c.members).payload) ∧ u.mem = s.mem)

/-- The registers of the fabric that act: FAB[0].ID takes a package identity while every link is DOWN or retired, MARKTX sends a MARK, MARKRX takes the
oldest mark, XFER starts a transfer; values that the spec refuses are refused with its codes (R348, R367, R373). -/
def Obligations.FabricRegisterWrites : Prop :=
  ∀ (s : State) (d : Nat) (v : Word), storeOk d = true → TakesWrites s (fabBase d) →
    (d = 0 → bits v.toNat 63 17 = 0 → bits v.toNat 15 0 ≠ 0xFFFF → (∀ l, l < 48 → (getLink s l).state = 0 ∨ (getLink s l).state = 6) →
      exec (.pkgidWrite v) s = .next { s with pkgId := v.setWidth 16, pkgSet := true }) ∧
    (d = 0 → bits v.toNat 63 17 ≠ 0 → exec (.pkgidWrite v) s = .next (recordErr s (fabBase 0) 0 eArgReserved)) ∧
    (d = 0 → bits v.toNat 63 17 = 0 → bits v.toNat 15 0 = 0xFFFF → exec (.pkgidWrite v) s = .next (recordErr s (fabBase 0) 0 eArgRange)) ∧
    (bits v.toNat 47 32 = 0 →
      exec (.markSend d v) s =
        .next (sendSeq s d { Packet.blank .mark (BitVec.ofNat 16 (v.toNat / 2 ^ 48)) with w3 := BitVec.ofNat 64 (v.toNat % 2 ^ 32) } none none)) ∧
    (∀ src val t rest, (getFab s d).marks = (src, val, t) :: rest →
      ∃ u, exec (.markReceiveRead d) s = .next u ∧ u.rdata = BitVec.ofNat 64 (fieldAt 48 src.toNat + fieldAt 32 1 + val.toNat) ∧
        (getFab u d).marks = rest ∧ (getFab u d).markTime = t ∧ u.mem = s.mem) ∧
    (∀ m l, bits v.toNat 47 32 = 0 → (getFab s d).send = [] →
      let q := { Packet.blank .mark (BitVec.ofNat 16 (v.toNat / 2 ^ 48)) with
        w3 := BitVec.ofNat 64 (v.toNat % 2 ^ 32), src := s.pkgId, sstk := d, openp := true }
      Leaves s d q m l → ∃ u, exec (.markSend d v) s = .next u ∧ mget [] u.sent l = { q with path := m } :: mget [] s.sent l ∧ u.mem = s.mem) ∧
    (∀ m l, bits v.toNat 23 0 = 0 → bits v.toNat 47 40 ≠ 255 → (getFab s d).xferBusy = false → (∀ k, k < 4 → (getFab s k).send = []) →
      let q := { Packet.blank .xfer (BitVec.ofNat 16 (v.toNat / 2 ^ 48)) with
        region := bits v.toNat 47 40, dstk := bits v.toNat 47 40 % 4, w3 := BitVec.ofNat 64 (bits v.toNat 39 24), src := s.pkgId, sstk := d, openp := true }
      Leaves s d q m l → ∃ u, exec (.regionTransfer d v) s = .next u ∧ mget [] u.sent l = { q with path := m } :: mget [] s.sent l ∧
        (getFab u d).xferBusy = true ∧ (getFab u d).xferSent = true ∧ u.mem = s.mem) ∧
    ((getFab s d).marks = [] → exec (.markReceiveRead d) s = .next { s with rdata := 0 }) ∧
    (bits v.toNat 23 0 = 0 → bits v.toNat 47 40 ≠ 255 → (getFab s d).xferBusy = false →
      exec (.regionTransfer d v) s = .next (tryXfer (modFab s d (fun f =>
        { f with xfer := some (BitVec.ofNat 16 (v.toNat / 2 ^ 48), bits v.toNat 47 40, BitVec.ofNat 16 (bits v.toNat 39 24)), xferBusy := true
                 xferSent := false, xferWait := channelsTo s (BitVec.ofNat 16 (v.toNat / 2 ^ 48)) })) d)) ∧
    (bits v.toNat 23 0 = 0 → bits v.toNat 47 40 ≠ 255 → (getFab s d).xferBusy = true →
      exec (.regionTransfer d v) s = .next (recordErr s (fabBase d) 0x40 eBadState))

/-- Links: their training, their control register, their flits. -/
def Obligations.LinksTrainAndCarry : Prop := LinkTraining ∧ LinkControlAndFlits

/-- The fabric's responses, routers and timers. -/
def Obligations.FabricGoesOn : Prop := FabricResponses ∧ Routers ∧ FabricTimers ∧ FabricCommandsComplete


/-! ### The host: memory, objects, queues -/

/-- HDM accesses of the host to memory that serves them: a read gives the 64 bytes, a write to a persistent frame whose page is not immutable stores them
and no others; in the fail-safe state a read gives zeros, and a write, as one to another frame, is rejected and counted (R401, R402). -/
def Sys2Proof.Claim.HdmAccesses : Prop :=
  ∀ (s : State) (a u : Nat), s.pwr.pstate ≠ 3 →
    let rejected := fun (l : List Byte) => ∃ v, exec (.hdmWrite a l) s = .next v ∧ (getUcie v u).hdmRej = satAdd 0xFFFFFFFF (getUcie s u).hdmRej 1 ∧
      v.mem = s.mem ∧ v.host = s.host
    (hdmAt s a = .mem u → retiredFrame s a = false → s.upsets = [] →
      ∃ v, exec (.hdmRead a) s = .next v ∧ v.hdmData = memRead s.mem a 64 ∧ v.mem = s.mem ∧ v.host = s.host ∧ v.cells = s.cells) ∧
    (hdmAt s a = .mem u → retiredFrame s a = true → ∃ v, exec (.hdmRead a) s = .next v ∧ v.hdmData = List.replicate 64 0 ∧ v.mem = s.mem) ∧
    (∀ l : List Byte, hdmAt s a = .mem u → l.length = 64 → hdmWritable s a = true →
      ∃ v, exec (.hdmWrite a l) s = .next v ∧ memRead v.mem a 64 = l ∧ (∀ k, k < a ∨ a + 64 ≤ k → memByte v.mem k = memByte s.mem k) ∧
        v.host = s.host ∧ v.cells = s.cells) ∧
    (∀ l : List Byte, hdmAt s a = .mem u → l.length = 64 → hdmWritable s a = false → rejected l) ∧
    (hdmAt s a = .failSafe u → ∃ v, exec (.hdmRead a) s = .next v ∧ v.hdmData = List.replicate 64 0 ∧ v.mem = s.mem) ∧
    (∀ l : List Byte, hdmAt s a = .failSafe u → l.length = 64 → rejected l)

/-- The host's window on objects: an aligned read of word 0 gives TARGET and COUNT after every update that came before it, a misaligned one 0 with E_ARG_ALIGN, every write is refused with
E_ARG_RESERVED (R279). A UCIe module counts a CRC error; modules that train come up (R397, R460). -/
def Sys2Proof.Claim.HostWindowAndModules : Prop :=
  ∀ s : State,
    (∀ off : Nat, off / 0x100000 < 4 → windowUp s (off / 0x100000) = true →
      (off % 16 = 0 →
        let w := drainPort (getPort s (off / 16)).length s (off / 16)
        (∃ v, exec (.hostSyncRead off 8) s = .next v ∧
          v.rdata = BitVec.ofNat 64 ((getObj w (off / 16)).target.toNat * 4294967296 + (getObj w (off / 16)).count.toNat) ∧ v.objs = w.objs ∧ v.mem = w.mem) ∧
        (getPort s (off / 16) = [] → w = s)) ∧
      (∀ size, size ≠ 8 ∨ off % 8 ≠ 0 →
        exec (.hostSyncRead off size) s = .next (recordErr { s with rdata := 0 } (hearthBase (off / 0x100000)) (off % 0x100000) eArgAlign)) ∧
      (∀ size v, exec (.syncWindowWrite off size v) s = .next (recordErr s (hearthBase (off / 0x100000)) (off % 0x100000) eArgReserved))) ∧
    (∀ u lane, ucieOk u = true → lane < 128 → (getUcie s u).state = 1 → (getUcie s u).crcTimes.length < 1023 → (getUcie s u).retrainTimes.length < 8 →
      ∃ v, exec (.ucieCrcError u lane false) s = .next v ∧ (getUcie v u).crcErr = satAdd 0xFFFFFFFF (getUcie s u).crcErr 1 ∧
        (getUcie v u).state = 1 ∧ v.mem = s.mem ∧ (∀ k, k ≠ u → getUcie v k = getUcie s k)) ∧
    (∀ trained, s.sec.bootState = 1 → (∀ u, u < 4 → (getUcie s u).state ≠ 1) →
      ∃ v, exec (.ucieTrainingRetry trained) s = .next v ∧ v.ember = s.ember + 25000 ∧
        ∀ u, u < 4 → (getUcie v u).state = if u ∈ trained ∧ (getUcie s u).state = 0 then 1 else (getUcie s u).state)

/-- A write of HEARTH[d].SYNCOP that R302 accepts puts its operation at the port of its object, one that it refuses is recorded with its code and
reaches no port; SYNCSTAT takes INDEX and CODE either way (R302, R303). -/
def Sys2Proof.Claim.SyncopsReachThePort : Prop :=
  ∀ (s : State) (d : Nat) (v : Word) (hw : List HostWrite), storeOk d = true → TakesWrites s (hearthBase d) → hostReaches s d = true →
    let o := syncopObj d v
    let value := v.setWidth 32
    let does := fun (i : Instr) (op : Nat) (p : PortOp) =>
      bits v.toNat 63 60 = op →
        (syncopCode s d v = 0 → ∃ u, exec i s = .next u ∧ getPort u o = getPort s o ++ [p] ∧ (∀ k, k ≠ o → getPort u k = getPort s k) ∧
          (getStore u d).syncCode = 0 ∧ (getStore u d).syncIndex = bits v.toNat 47 32 ∧ u.objs = s.objs ∧ u.mem = s.mem ∧ u.host = (hostStores s hw).host) ∧
        (syncopCode s d v ≠ 0 → ∃ u, exec i s = .next u ∧ u.ports = s.ports ∧ u.objs = s.objs ∧ (getStore u d).syncCode = syncopCode s d v ∧
          (getStore u d).syncIndex = bits v.toNat 47 32 ∧ u.errs = (recordErr s (hearthBase d) 0 (syncopCode s d v)).errs)
    does (.syncopArrive d v hw) 1 (.arrive value none) ∧ does (.syncopArm d v hw) 2 (.arm value none) ∧ does (.syncopReset d v hw) 3 (.reset none) ∧
    does (.syncopSetevt d v hw) 4 (.setevt (value.toNat % 16)) ∧ does (.syncopClrevt d v hw) 5 .clrevt

/-- The queues of the host: TAIL and CQHEAD within their limits are taken and beyond them refused; QCTRL enables a queue with empty rings and disables it
when all is read; the device takes the next entry and writes the acceptance word; a finished entry's completion of 32 bytes is written to its slot
(R404 to R406, R413, R420). -/
def Sys2Proof.Claim.QueueRegistersAndRings : Prop :=
  ∀ (s : State) (q : QueueId), queueOk q = true →
    let x := getQueue s (qIndex q)
    let gets := fun (i : Instr) (y : Queue) => ∃ u, exec i s = .next u ∧ getQueue u (qIndex q) = y ∧ (∀ k, k ≠ qIndex q → getQueue u k = getQueue s k) ∧
      u.mem = s.mem ∧ u.cells = s.cells ∧ u.jobs = s.jobs
    (∀ (v : Word) (hw : List HostWrite), TakesWrites s lodgeBase →
      (x.enable = true → x.tail ≤ v.toNat → v.toNat ≤ x.cqhead + 2 ^ x.sqlog → gets (.tailWrite q v hw) { x with tail := v.toNat }) ∧
      (x.enable = true → (v.toNat < x.tail ∨ x.cqhead + 2 ^ x.sqlog < v.toNat) →
        exec (.tailWrite q v hw) s = .next (recordErr (hostStores s hw) lodgeBase (qOffset q + 0x20) eQueueFull)) ∧
      (x.enable = false → exec (.tailWrite q v hw) s = .next (recordErr (hostStores s hw) lodgeBase (qOffset q + 0x20) eBadState)) ∧
      (x.cqhead ≤ v.toNat → v.toNat ≤ x.written → gets (.cqheadWrite q v) { x with cqhead := v.toNat }) ∧
      ((v.toNat < x.cqhead ∨ x.written < v.toNat) →
        exec (.cqheadWrite q v) s = .next (recordErr s lodgeBase (qOffset q + 0x30) eArgRange)) ∧
      (let sl := bits v.toNat 20 16
       let cl := bits v.toNat 12 8
       bits v.toNat 63 21 = 0 → bits v.toNat 15 13 = 0 → bits v.toNat 7 1 = 0 → 4 ≤ cl → cl ≤ 16 → 4 ≤ sl → sl ≤ 16 → sl ≤ cl →
        (bitAt v.toNat 0 = true → x.enable = false → (∀ j, qJob q = some j → (getCtx s j).state = 1) →
          gets (.queueEnable q v) { x with enable := true, sqlog := sl, cqlog := cl, tail := 0, accept := 0, cqhead := 0, written := 0, entries := [] }) ∧
        (bitAt v.toNat 0 = true → x.enable = false → (∃ j, qJob q = some j ∧ (getCtx s j).state ≠ 1) →
          exec (.queueEnable q v) s = .next (recordErr s lodgeBase (qOffset q + 0x18) eBadState)) ∧
        (bitAt v.toNat 0 = false → x.enable = true → sl = x.sqlog → cl = x.cqlog → x.accept = x.cqhead →
          gets (.queueDisable q v) { x with enable := false }) ∧
        (bitAt v.toNat 0 = false → x.enable = true → x.accept ≠ x.cqhead →
          exec (.queueDisable q v) s = .next (recordErr s lodgeBase (qOffset q + 0x18) eBadState)))) ∧
    (running s = true → x.enable = true → x.accept < x.tail → x.sqSet = true → x.awSet = true → (∀ j, qJob q = some j → (getCtx s j).state = 1) →
      ∃ u, exec (.queueEntryAccept q) s = .next u ∧ u.mem = s.mem ∧
        getQueue u (qIndex q) = { x with
          accept := x.accept + 1
          entries := x.entries ++ [⟨x.accept + 1, memRead s.host (x.sqBase + x.accept % 2 ^ x.sqlog * 128) 128, false, none⟩] } ∧
        memRead u.host x.awBase 8 = leBytes 8 (x.accept + 1) ∧
        (∀ k, k < x.awBase ∨ x.awBase + 8 ≤ k → memByte u.host k = memByte s.host k)) ∧
    (∀ e rest o, x.entries = e :: rest → outcomeOf s q e = some o → booted s = true → s.failTrigger = 0 → e.k ≤ x.cqhead + 2 ^ x.cqlog → x.cqSet = true →
      let a := x.cqBase + (e.k - 1) % 2 ^ x.cqlog * 32
      ∃ u, exec (.completionWrite q) s = .next u ∧ u.mem = s.mem ∧ getQueue u (qIndex q) = { x with written := e.k, entries := rest } ∧
        memRead u.host a 32 = completionBytes q e o ∧ (getEv u (completionEvent (qIndex q))).pend = true ∧ (∀ k, k < a ∨ a + 32 ≤ k → memByte u.host k = memByte s.host k))

/-- The entries of the queues: NOP ends, LOAD commits an image that passes every check and reports, or reports the check that fails, UNLOAD begins and
ends with the context FREE, STEP submits its items, EXPORT and IMPORT begin; an entry that fails its checks is NOT_EXECUTED (R403, R410, R411, R412). -/
def Sys2Proof.Claim.QueueEntries : Prop :=
  ∀ (s : State) (q : QueueId) (e : QEntry), queueOk q = true → running s = true → nextEntry (getQueue s (qIndex q)) = some e →
    (entryOp e = 0 → exec (.queueNop q) s = .next (setOutcome s (qIndex q) e.k (if entryClean e.data [] then (0, 0, 0, 0xFF) else (eArgReserved, 1, 0, 0xFF)))) ∧
    (∀ sects, q = .admin → entryOp e = 1 → anyZeroing s = false →
      let im := loadedImage s e.data sects
      loadEntryCode im e.data = none →
      (∀ j u beds, loadChecks s im (leField e.data 0x18 8) = .inl (j, u, beds) →
        exec (.loadImage sects) s = .next (setOutcome
          (toHost (commitLoad u j im beds) (leField e.data 0x20 8) (loadReport s u j im beds)) adminQ e.k (0, 0, reportSize im, j))) ∧
      (∀ r, loadChecks s im (leField e.data 0x18 8) = .inr r →
        ∃ u, exec (.loadImage sects) s = .next u ∧ u.jobs = s.jobs ∧ u.mem = s.mem ∧ u.cells = s.cells ∧ u.events = (r.code, 0) :: s.events)) ∧
    (q = .admin → entryOp e = 2 → entryClean e.data [(0x10, 1)] = true → leField e.data 0x10 1 < 8 →
      ((getCtx s (leField e.data 0x10 1)).state = 1 ∨ (getCtx s (leField e.data 0x10 1)).state = 2) →
        ∃ u, exec .unloadEntry s = .next u ∧ (getCtx u (leField e.data 0x10 1)).state = 3 ∧ u.jobs = s.jobs ∧ u.mem = s.mem) ∧
    (∀ j batches, qJob q = some j → entryOp e = 0x10 →
      readTable s (leField e.data 0x18 8) (leField e.data 0x14 4) 0 = .inl batches →
      (stepCode s (getJob s j) e.data = none → exec (.stepEntry q) s = .next (submitStep s j (qIndex q) e batches)) ∧
      (∀ c, stepCode s (getJob s j) e.data = some c → exec (.stepEntry q) s = .next (setOutcome s (qIndex q) e.k (c, 1, 0, 0xFF)))) ∧
    (∀ j, qJob q = some j → entryOp e = 0x11 →
      (∀ i sh, exportEntryCode s j e.data = .inr (i, sh) → ∃ u, exec (.exportEntry q) s = .next u ∧ u.mem = s.mem ∧ u.jobs = s.jobs ∧
        u.exportRuns = s.exportRuns ++ [{ job := j, queue := qIndex q, k := e.k, shard := i, version := leField e.data 0x18 4
                                          buf := leField e.data 0x20 8, obj := leField e.data 0x30 8 }]) ∧
      (∀ c, exportEntryCode s j e.data = .inl c → exec (.exportEntry q) s = .next (setOutcome s (qIndex q) e.k (c, 1, 0, 0xFF)))) ∧
    (∀ j, qJob q = some j → entryOp e = 0x12 →
      let d := parseDescr (memRead s.host (leField e.data 0x10 8) 256)
      (importCode d e.data = none → exec (.importEntry q) s = .next (startDescr (beginEntry s (qIndex q) e.k) (dieHolding s (getJob s j) d.dbase.toNat)
        j d (BitVec.ofNat 32 (leField e.data 0x18 4)) none (some (qIndex q, e.k)))) ∧
      (∀ c, importCode d e.data = some c → exec (.importEntry q) s = .next (setOutcome s (qIndex q) e.k (c, 1, 0, 0xFF))))

/-- LOAD, STEP and IMPORT complete: a loaded image has its job in a context that is LOADED, its report in host memory and its entry's outcome; a step's
record and items stand in its job, its entry begun; an import's descriptor is the last of the engine of the die that holds its destination (R403, R410, R411, R413,
R416). -/
def Sys2Proof.Claim.EntriesComplete : Prop :=
  ∀ (s : State) (q : QueueId) (e : QEntry), queueOk q = true → running s = true → nextEntry (getQueue s (qIndex q)) = some e →
    (∀ sects j u beds, q = .admin → entryOp e = 1 → anyZeroing s = false →
      let im := loadedImage s e.data sects
      loadEntryCode im e.data = none → loadChecks s im (leField e.data 0x18 8) = .inl (j, u, beds) →
        ∃ v, exec (.loadImage sects) s = .next v ∧ (getCtx v j).state = 1 ∧ (getJob v j).loaded = true ∧ (getJob v j).epoch = 1 ∧
          (let l := loadReport s u j im beds
           memRead v.host (leField e.data 0x20 8) l.length = l) ∧
          (∀ n ∈ (getQueue v adminQ).entries, n.k = e.k → n.outcome.isSome = true)) ∧
    (∀ j batches, qJob q = some j → entryOp e = 0x10 → readTable s (leField e.data 0x18 8) (leField e.data 0x14 4) 0 = .inl batches →
      stepCode s (getJob s j) e.data = none →
        ∃ v r, exec (.stepEntry q) s = .next v ∧ (getJob v j).steps = (getJob s j).steps ++ [r] ∧ r.number = BitVec.ofNat 32 (leField e.data 0x10 4) ∧
          r.batches = batches ∧ r.queue = some (qIndex q, e.k) ∧ (∀ n ∈ (getQueue v (qIndex q)).entries, n.k = e.k → n.begun = true) ∧ v.mem = s.mem) ∧
    (∀ j, qJob q = some j → entryOp e = 0x12 →
      let x := parseDescr (memRead s.host (leField e.data 0x10 8) 256)
      let step := BitVec.ofNat 32 (leField e.data 0x18 4)
      let d := dieHolding s (getJob s j) x.dbase.toNat
      importCode x e.data = none → sourceHere (getJob s j) x step = true → (getStore s d).descrs.all (fun r => r.started) = true →
        ∃ v r l, exec (.importEntry q) s = .next v ∧ (getStore v d).descrs = l ++ [r] ∧ l.length = (getStore s d).descrs.length ∧ r.job = j ∧ r.d = x ∧
          r.step = step ∧ r.entry = some (qIndex q, e.k) ∧ (∀ n ∈ (getQueue v (qIndex q)).entries, n.k = e.k → n.begun = true) ∧ v.mem = s.mem)

/-- A context that is UNLOADING and whose entries all have their outcome becomes FREE with no job (R160, R403). -/
def Sys2Proof.Claim.UnloadEnds : Prop :=
  ∀ (s : State) (j : Nat), jobOk j = true → (getCtx s j).state = 3 → contextQuiet s j = true → running s = true →
    ∃ u, exec (.unloadComplete j) s = .next u ∧ (getCtx u j).state = 0 ∧ getJob u j = Job.none ∧ (∀ k, k ≠ j → getJob u k = getJob s k)

/-- What the host reaches beside its queues. -/
def Obligations.HostReachesMemoryAndObjects : Prop := HdmAccesses ∧ HostWindowAndModules ∧ SyncopsReachThePort

/-- The host's queues. -/
def Obligations.QueuesOfTheHost : Prop := QueueRegistersAndRings ∧ QueueEntries ∧ EntriesComplete ∧ UnloadEnds

/-! ### Events -/

/-- The event controller: SETP sets pending bits, a write of ones to PEND clears them with DELIV, a routed source goes to an eligible target of lowest
RUNPRI, whose stack takes the old priority; SETP of a reserved source and EOI on an empty stack are refused (R428, R430 to R432). -/
def Obligations.EventControllerEffects : Prop :=
  ∀ s : State, powered s = true →
    (∀ i v, i < 32 → namesReserved i v = false → ∃ u, exec (.eventSetp i v) s = .next u ∧
      (∀ b, b < 64 → (getEv u (64 * i + b)).pend = ((getEv s (64 * i + b)).pend || v.getLsbD b)) ∧
      (∀ n, n / 64 ≠ i → getEv u n = getEv s n) ∧ (v ≠ 0 → u.lodgeClk = true) ∧ u.mem = s.mem) ∧
    (∀ i v, i < 32 → namesReserved i v = true → exec (.eventSetp i v) s = .next (recordErr s evcBase (0x200 + 8 * i) eArgReserved)) ∧
    (∀ i v, i < 32 → ∃ u, exec (.eventPendClear i v) s = .next u ∧
      (∀ b, b < 64 → v.getLsbD b = true → (getEv u (64 * i + b)).pend = false ∧ (getEv u (64 * i + b)).deliv = false) ∧
      (∀ b, b < 64 → v.getLsbD b = false → getEv u (64 * i + b) = getEv s (64 * i + b)) ∧ (∀ n, n / 64 ≠ i → getEv u n = getEv s n) ∧ u.mem = s.mem) ∧
    (∀ n t, s.lodgeClk = true → routeOrder s = [n] → chooseTarget s (getEv s n) = some t → ∃ u, exec .eventRoute s = .next u ∧
      getEv u n = { getEv s n with deliv := true, last := t } ∧
      getEvCpu u t = { runpri := (getEv s n).prio, stack := (getEvCpu s t).runpri :: (getEvCpu s t).stack } ∧
      (∀ k, k ≠ t → getEvCpu u k = getEvCpu s k) ∧ u.rotate = (t + 1) % 52 ∧
      (if t < 4 then u.wires = t :: s.wires
       else ∀ m, msiModule s = some m → u.msiOut = (m, (getMsix s (t - 4)).addr, (getMsix s (t - 4)).data) :: s.msiOut)) ∧
    (∀ n t, chooseTarget s (getEv s n) = some t → t < 52 ∧ eligible s (getEv s n) t = true ∧
      ∀ k, k < 52 → eligible s (getEv s n) k = true → (getEvCpu s t).runpri ≤ (getEvCpu s k).runpri) ∧
    (∀ t, targetOk t = true → (getEvCpu s t).stack = [] → exec (.eventEoi t 1) s = .next (recordErr s evcBase (0x1008 + 0x10 * t) eBadState))

/-- EOI of target t pops its stack into RUNPRI; every level source last delivered to t and no longer pending is sampled again, its pending bit set where its
input is 1, its LAST 0x3F; other sources and targets stay (R433). -/
def Obligations.EndOfInterruptPopsTheStack : Prop :=
  ∀ (s : State) (t p : Nat) (rest : List Nat), powered s = true → targetOk t = true → (getEvCpu s t).stack = p :: rest →
    ∃ u, exec (.eventEoi t 1) s = .next u ∧ getEvCpu u t = { runpri := p, stack := rest } ∧ (∀ k, k ≠ t → getEvCpu u k = getEvCpu s k) ∧
      (∀ n, evIsLevel n = true → (getEv s n).last = t → (getEv s n).pend = false →
        getEv u n = { getEv s n with pend := evInput s n, last := 0x3F }) ∧
      (∀ n, (∀ e ∈ s.evs, e.1 = n → evIsLevel n = true → e.2.last = t → e.2.pend = true) → getEv u n = getEv s n) ∧
      u.mem = s.mem ∧ u.cells = s.cells ∧ u.jobs = s.jobs

/-! ### Faults, resets, the fail-safe state -/

/-- A job fault: the job and its context are FAULTED with the code, every entry of its queues completes NOT_EXECUTED with it, no item of it goes on; other
contexts are not touched (R408). -/
def Obligations.JobFaultEndsItsContext : Prop :=
  ∀ (s : State) (j code : Nat), (getJob s j).loaded = true → (getJob s j).faulted = false →
    let u := jobFault s j code
    (getJob u j).faulted = true ∧ (getCtx u j).state = 2 ∧ (getCtx u j).code = code ∧ u.events = (code, j) :: s.events ∧
    (∀ q, q < 64 → ∀ e ∈ (getQueue u (64 * j + q)).entries, e.outcome = some (code, 1, 0, 0)) ∧
    (∀ i it, mfind (getJob u j).items i = some it → it.state = .done ∨ it.state = .committed ∨ it.state = .notExecuted) ∧
    (∀ k, k ≠ j → getCtx u k = getCtx s k) ∧ (∀ c, getCell u c = { getCell s c with tlb := (getCell u c).tlb }) ∧ u.host = s.host

/-- The fail-safe state: every trigger of it records itself if it is the first, LOADED contexts fault with E_FAIL_SAFE, the compute rails go off (R448
to R450). -/
def Sys2Proof.Claim.FailSafeIsEntered : Prop :=
  ∀ s : State, s.failTrigger = 0 → s.pwr.pstate ≠ 0 →
    let enters := fun (i : Instr) (trigger : Nat) => ∃ u, exec i s = .next u ∧ u.failTrigger = trigger ∧ u.pwr.pstate = 4 ∧ u.pwr.faultN = false ∧
      (∀ r ∈ u.pwr.en, isCmp r = false) ∧
      (∀ j, j < 8 → (getCtx s j).state = 1 → (getJob s j).loaded = true → (getJob s j).faulted = false →
        (getCtx u j).state = 2 ∧ (getCtx u j).code = eFailSafe)
    enters .lodgeStateUncorrectable 3 ∧
    (booted s = true → (∃ j, j < 8 ∧ (getCtx s j).state = 1) → enters .lodgeWatchdogExpiry 2) ∧
    (∀ v : Word, TakesWrites s lodgeBase → bits v.toNat 62 56 = 0 → bits v.toNat 47 1 = 0 → bitAt v.toNat 0 = true → enters (.failsafeEnter v) 5) ∧
    (∀ d, storeOk d = true → (getRst s d).phase = 1 → enters (.stackHoldTimeout d) 4) ∧
    (∀ t : State, t.failTrigger ≠ 0 → exec .lodgeStateUncorrectable t = .next t)

/-- Resets: RESETCTL starts the hold of a stack or compute die, the halt of a pavilion, takes a link DOWN; a die's own fault starts its hold; the drain
ends with the jobs of the stack faulted; a stack is up again after its reinitialisation (R442 to R446). -/
def Sys2Proof.Claim.ResetsHappen : Prop :=
  ∀ (s : State) (d : Nat), storeOk d = true → s.failTrigger = 0 →
    let held := fun (i : Instr) (only : Bool) => ∃ u, exec i s = .next u ∧ (getRst u d).phase = 1 ∧ (getRst u d).computeOnly = only ∧
      (getRst u d).since = s.ember ∧ (∀ k, k ≠ d → getRst u k = getRst s k) ∧ u.mem = s.mem ∧ u.jobs = s.jobs
    (s.pwr.pstate = 2 → mayReset s d = true →
      (TakesWrites s lodgeBase → held (.resetStack (BitVec.ofNat 64 (2 * 2 ^ 60 + d))) false ∧ held (.resetComputeDie (BitVec.ofNat 64 (3 * 2 ^ 60 + d))) true) ∧
      (booted s = true → held (.storeDieSelfFault d) false ∧ held (.computeDieSelfFault d) true)) ∧
    (TakesWrites s lodgeBase → mayReset s d = false →
      exec (.resetStack (BitVec.ofNat 64 (2 * 2 ^ 60 + d))) s = .next (recordErr s lodgeBase 0x4000 eBadState)) ∧
    (∀ p, TakesWrites s lodgeBase → p < 64 → (getPav s p).retired = false → mget 0 s.pavRsts p = 0 → mayReset s (dieOfPav p) = true → (getPav s p).held = false →
      ∃ u, exec (.resetPavilion (BitVec.ofNat 64 (4 * 2 ^ 60 + p))) s = .next u ∧ mget 0 u.pavRsts p = s.ember + 1 ∧ (getPav u p).reserved = none ∧
        (getPav u p).dstate = 0 ∧ u.cells = s.cells ∧ (∀ k, k ≠ p → getPav u k = getPav s k)) ∧
    (∀ l, TakesWrites s lodgeBase → linkOk l = true → (getLink s l).state ≠ 6 →
      ∃ u, exec (.resetLink (BitVec.ofNat 64 (5 * 2 ^ 60 + l))) s = .next u ∧ (getLink u l).state = 0) ∧
    (powered s = true → booted s = false → s.pwr.pstate ≠ 2 → exec (.resetPackage 0x1000000000000000) s = .next (packageReset s)) ∧
    (TakesWrites s lodgeBase → s.pwr.pstate = 2 → s.rstPkg = false → (getRst s d).phase = 0 →
      ∃ u, exec (.resetPackage 0x1000000000000000) s = .next u ∧ u.rstPkg = true ∧ (getRst u d).phase = 1 ∧ u.mem = s.mem ∧ u.cells = s.cells) ∧
    (∀ n, (getRst s d).phase = 1 → s.rstPkg = false →
      ∃ u, exec (.stackDrainEnd d n) s = .next u ∧ (getRst u d).phase = 3 ∧ u.rstAborted = n % 65536 ∧ u.rstCause = eStackReset ∧ u.distGen = s.distGen + 1 ∧
        u.ember = max s.ember ((getRst s d).since + 46) ∧ (∀ j, j < 8 → jobOnStack s d j = true → (getJob u j).faulted = true)) ∧
    (running s = true → (getRst s d).phase = 3 → (getRst s d).computeOnly = true → (getHbm s (2 * d)).state ≠ 3 →
      ∃ u, exec (.stackReinitComplete d true []) s = .next u ∧ getRst u d = StackRst.reset ∧ u.ember = max s.ember (getRst s d).since) ∧
    (running s = true → (getRst s d).phase = 3 → (getRst s d).computeOnly = false → s.pwr.pg.contains (.cmp d) = true →
      (getHbm s (2 * d)).state ≠ 3 → (getHbm s (2 * d + 1)).state ≠ 3 →
      ∃ u, exec (.stackReinitComplete d true [true, true]) s = .next u ∧ getRst u d = StackRst.reset ∧ (getHbm u (2 * d)).state = 1 ∧
        (getHbm u (2 * d + 1)).state = 1) ∧
    (∀ h, hbmOk h = true → (getHbm s h).reinitWanted = true → jobsWithFrames s (h / 2) (hbmFrames s h).1 (hbmFrames s h).2 = [] → running s = true →
      stackUp s (h / 2) = true → (getHbm s h).state ≠ 3 →
      ∃ u, exec (.hbmReinitComplete h true) s = .next u ∧ (getHbm u h).state = 1 ∧ (getHbm u h).reinitWanted = false ∧
        (getHbm u h).usable = (List.range 64).filter (fun i => !(getHbm s h).pcRet.getLsbD i) ∧ u.mem = s.mem)

/-- What a package reset leaves: memory and cells zero, no job, the flash, the ember counter and the host's memory as they were (R446, R504). -/
def Sys2Proof.Claim.PackageResetLeaves : Prop :=
  ∀ s : State, (packageReset s).mem = [] ∧ (packageReset s).cells = [] ∧ (packageReset s).jobs = [] ∧ (packageReset s).objs = [] ∧
    (packageReset s).flash = s.flash ∧ (packageReset s).ember = s.ember ∧ (packageReset s).host = s.host ∧ (packageReset s).sec.bootState = 0 ∧
    (packageReset s).sec.debug = s.sec.debug ∧ (packageReset s).failTrigger = 0 ∧ (packageReset s).evs = []

/-- A margin pass reads every pavilion that is not retired and starts the next period; a step lowers the pavilion's margin by one voltage or clock step,
the first that R452 allows (R451 to R454). -/
def Obligations.MarginPasses : Prop :=
  (∀ (s : State) (reads : List TemperRead), booted s = true → s.failTrigger = 0 → reads.length = 64 →
    ∃ u, exec (.temperPass reads) s = .next u ∧ u.temperAt = u.ember ∧ u.ember = max s.ember (s.temperAt + s.period * 2 ^ 25)) ∧
  (∀ (s : State) (p : Nat) (r : TemperRead), (getPav s p).retired = false →
    let x := getPav s p
    let y := getPav (temperOne s p r) p
    ((r.slack < s.guard ∨ s.driftPlan < r.drift) → x.voffPend < 12 →
      y.voffPend = x.voffPend + 1 ∧ y.aclkPend = x.aclkPend ∧ y.slack = min 255 r.slack ∧ y.drift = min 255 r.drift) ∧
    (s.guard ≤ r.slack → r.drift ≤ s.driftPlan → y.voffPend = x.voffPend ∧ y.aclkPend = x.aclkPend ∧ y.slack = min 255 r.slack))

/-- Resets and the fail-safe state. -/
def Obligations.ResetsAndFailSafe : Prop := FailSafeIsEntered ∧ ResetsHappen ∧ PackageResetLeaves


/-! ### Boot, keys, attestation -/

/-- The boot: the ROM brings a package whose birth record and PUF are sound to AWAITING with measurement 1 taken, BOOTCTL copies the image, and verification
either starts the firmware with the stacks coming up and the queue registers at reset, or refuses the image with the code of the check that fails, erases
it and raises the event (R460 to R464, R471, R478, R483). -/
def Sys2Proof.Claim.BootSequence : Prop :=
  ∀ s : State, powered s = true →
    (∀ trained, s.pwr.row = 5 → s.sec.bootState = 0 → s.failTrigger = 0 → s.pwr.refLost.contains .sys = false →
      (s.flash.birthOk = true → s.flash.pufOk = true → s.sec.pufLocked = false → ∃ u, exec (.coldBoot trained) s = .next u ∧ u.sec.bootState = 1 ∧
        u.sec.bootCode = 0 ∧ u.sec.identOk = true ∧ u.pwr.row = 6 ∧ mget [] u.sec.meas 1 = Config.romDigest ∧
        u.flash.boots = (if s.sec.coldDone then s.flash.boots else s.flash.boots + 1) ∧ u.mem = s.mem) ∧
      (s.flash.birthOk = false → ∃ u, exec (.coldBoot trained) s = .next u ∧ u.sec.bootState = 4 ∧ u.sec.bootCode = eSigInvalid ∧ u.mem = s.mem)) ∧
    (s.sec.bootState = 1 → s.sec.imgAddrSet = true → s.sec.imgLenSet = true → s.sec.imgAddr + s.sec.imgLen ≤ s.ddr5 →
      ∃ u, exec (.bootGo 1) s = .next u ∧ u.sec.bootState = 2 ∧ u.imageMem = memRead s.host s.sec.imgAddr s.sec.imgLen ∧ u.mem = s.mem ∧ u.host = s.host) ∧
    (s.sec.bootState ≠ 1 → exec (.bootGo 1) s = .next (recordErr s secBase 0x18 eBadState)) ∧
    (∀ r v, s.sec.bootState = 2 → s.failTrigger = 0 →
      (imageCode s r v ≠ 0 → ∃ u, exec (.imageVerifyComplete r v) s = .next u ∧ u.sec.bootState = 1 ∧ u.sec.bootCode = imageCode s r v ∧ u.imageMem = [] ∧
        bitAt u.sec.event 0 = true ∧ (getEv u 242).pend = true ∧ u.mem = s.mem ∧ u.host = s.host) ∧
      (imageCode s r v = 0 → ∃ u, exec (.imageVerifyComplete r v) s = .next u ∧ u.sec.bootState = 3 ∧ u.sec.bootCode = 0 ∧ u.pwr.pstate = 2 ∧
        u.queues = [] ∧ u.sec.pufLocked = true ∧ (∀ d, d < 4 → (getRst u d).phase = 3) ∧ u.mem = s.mem))

/-- SEC's other commands: a nonce is drawn and read back; an enrolment record that passes every check of R468 occupies or empties a slot or releases all
four, and one that does not changes no slot; a token that is right opens debug, which ends attestation, and one that is not is refused (R467 to R470,
R474 to R476). -/
def Sys2Proof.Claim.NoncesKeysAndTokens : Prop :=
  ∀ s : State,
    (powered s = true → ∃ u, exec .nonceDraw s = .next u ∧ u.sec.nonceValid = true ∧ u.rdata = u.sec.nonce.setWidth 64 ∧ u.mem = s.mem) ∧
    (∀ verifies, firmwareRuns s = true → s.sec.cmdOp = 1 →
      let l := memRead s.host (cmdAddr s) 208
      let op := leField l 0 1
      let slot := leField l 1 1
      let key := (l.drop 0x18).take 57
      let runs := fun (i : Instr) (slots : List (Nat × List Byte)) =>
        (enrolEarly s (cmdAddr s) l = 0 → enrolLate s l verifies = 0 → ∃ u, exec i s = .next u ∧ u.flash.slots = slots ∧ u.sec.cmdOp = 0 ∧
          u.sec.cmdCode = 0 ∧ u.sec.nonceValid = false ∧ bitAt u.sec.event 1 = true ∧ u.mem = s.mem ∧ u.host = s.host) ∧
        (enrolEarly s (cmdAddr s) l = 0 → enrolLate s l verifies ≠ 0 → ∃ u, exec i s = .next u ∧ u.flash = s.flash ∧ u.sec.cmdOp = 0 ∧
          u.sec.cmdCode = enrolLate s l verifies ∧ u.sec.nonceValid = false) ∧
        (enrolEarly s (cmdAddr s) l ≠ 0 → ∃ u, exec i s = .next u ∧ u.flash = s.flash ∧ u.sec.cmdOp = 0 ∧
          u.sec.cmdCode = enrolEarly s (cmdAddr s) l ∧ u.sec.nonceValid = s.sec.nonceValid)
      (op = 1 → runs (.enrollAdd verifies) (mset [] slot key s.flash.slots)) ∧
      (op = 2 → runs (.enrollRemove verifies) (mset [] slot [] s.flash.slots)) ∧ (op = 3 → runs (.enrollRelease verifies) [])) ∧
    (∀ verifies, firmwareRuns s = true → s.sec.cmdOp = 2 →
      let l := memRead s.host (cmdAddr s) 192
      (tokenEarly s (cmdAddr s) l = 0 → tokenRight s l verifies = true → ∃ u, exec (.debugUnlock verifies) s = .next u ∧ u.sec.debug = true ∧
        u.sec.debugScope = BitVec.ofNat 32 (leField l 4 4) ∧ u.sec.attestOk = false ∧ u.sec.aliasSeed = [] ∧ u.sec.cmdCode = 0 ∧ u.sec.cmdOp = 0 ∧
        u.sec.nonceValid = false ∧ u.mem = s.mem) ∧
      (tokenEarly s (cmdAddr s) l = 0 → tokenRight s l verifies = false → ∃ u, exec (.debugUnlock verifies) s = .next u ∧ u.sec.debug = s.sec.debug ∧
        u.sec.cmdCode = eTokenInvalid ∧ u.sec.nonceValid = false ∧ u.sec.aliasSeed = s.sec.aliasSeed) ∧
      (tokenEarly s (cmdAddr s) l ≠ 0 → ∃ u, exec (.debugUnlock verifies) s = .next u ∧ u.sec.debug = s.sec.debug ∧
        u.sec.cmdCode = tokenEarly s (cmdAddr s) l ∧ u.sec.nonceValid = s.sec.nonceValid))

/-- SPDM: each request is answered in its stage of the negotiation and with ERROR before it; a signed answer is refused without attestation, counted and
reported (R472, R473; the codes of messages are the family's, log 48). -/
def Sys2Proof.Claim.Attestation : Prop :=
  ∀ s : State, responds s = true →
    let replies := fun (i : Instr) (stage next : Nat) (code : BitVec 8) (body : List Byte) =>
      (stage ≤ s.sec.spdm → ∃ u, exec i s = .next u ∧ u.spdmOut = ⟨code, body⟩ :: s.spdmOut ∧ u.sec.spdm = next ∧ u.sec.attRefused = s.sec.attRefused ∧
        u.mem = s.mem ∧ u.host = s.host) ∧
      (s.sec.spdm < stage → ∃ u, exec i s = .next u ∧ u.spdmOut = ⟨spdmError, [errUnexpected, 0]⟩ :: s.spdmOut ∧ u.sec = s.sec)
    replies .spdmGetVersion 0 1 spdmVersion ([0, 1] ++ leBytes 2 0x1200) ∧
    replies .spdmGetCapabilities 1 2 spdmCapabilities (leBytes 4 0x16) ∧
    (∀ a h, replies (.spdmNegotiateAlgorithms a h) 2 3 spdmAlgorithms
      (leBytes 4 1 ++ leBytes 4 (a &&& 0x800#32).toNat ++ leBytes 4 (h &&& 0x20#32).toNat)) ∧
    replies .spdmGetDigests 3 s.sec.spdm spdmDigests ([0x01] ++ sha3_512 (certChain s)) ∧
    (∀ off len, off ≤ (certChain s).length → replies (.spdmGetCertificate 0 off len) 3 s.sec.spdm spdmCertificate (chainPortion (certChain s) off len)) ∧
    (∀ index nonce body, measBody s index = some body → replies (.spdmGetMeasurements index false nonce) 3 s.sec.spdm spdmMeasurements body) ∧
    (∀ code, replies (.spdmUnsupportedRequest code) 0 s.sec.spdm spdmError [errUnsupported, code]) ∧
    (∀ nonce, 3 ≤ s.sec.spdm → s.sec.attestOk = true → ∃ u sig, exec (.spdmChallenge 0 nonce) s = .next u ∧
      u.spdmOut = ⟨spdmChallengeAuth, sha3_512 (certChain s) ++ sig⟩ :: s.spdmOut ∧ u.sec = s.sec) ∧
    (∀ nonce, 3 ≤ s.sec.spdm → s.sec.attestOk = false → ∃ u, exec (.spdmChallenge 0 nonce) s = .next u ∧
      u.spdmOut = ⟨spdmError, [errUnspecified, 0]⟩ :: s.spdmOut ∧ u.sec.attRefused = wrap32 (s.sec.attRefused + 1) ∧
      u.sec.attCode = (if s.sec.debug then eDebugOpen else eMeasureMismatch) ∧ bitAt u.sec.event 3 = true ∧ (getEv u 242).pend = true)

/-! ### Power -/

/-- Rails: a power-good that rises is recorded and the next row of R483 begins when its row is complete; a power-good that falls under its enable, one that
does not rise in time and a rail outside tolerance are fail-safe trigger 1 with FAULT 1, as the loss of the always-on or system clock is with FAULT 2; the
loss of a link clock takes its links DOWN (R483 to R485, R488). -/
def Sys2Proof.Claim.RailsAndClocks : Prop :=
  ∀ s : State, powered s = true →
    let fault := fun (i : Instr) (n : Nat) (more : State → Prop) => s.failTrigger = 0 → ∃ u, exec i s = .next u ∧ u.failTrigger = 1 ∧ u.pwr.fault = n ∧
      u.pwr.faultN = false ∧ (s.pwr.row < 5 → u.pwr.row = 0 ∧ ∀ r ∈ u.pwr.en, r = .aux) ∧ more u
    (∀ r, railOk r = true → ∃ u, exec (.powerGoodRise r) s = .next u ∧ r ∈ u.pwr.pg ∧ u.mem = s.mem ∧ u.cells = s.cells) ∧
    (s.pwr.row = 2 → s.pwr.pg.contains .sto = false → ∃ u, exec (.powerGoodRise .aux) s = .next u ∧ u.pwr.row = 3 ∧ Rail.sto ∈ u.pwr.en ∧ Rail.hbm ∈ u.pwr.en) ∧
    (s.pwr.row = 3 → s.pwr.pg.contains .sto = true → s.pwr.pg.contains .ser = false →
      ∃ u, exec (.powerGoodRise .hbm) s = .next u ∧ u.pwr.row = 4 ∧ Rail.ser ∈ u.pwr.en) ∧
    (s.pwr.row = 4 → ∃ u, exec (.powerGoodRise .ser) s = .next u ∧ u.pwr.row = 5) ∧
    (∀ r, railOk r = true → r ∈ s.pwr.pg → r ∈ s.pwr.en → fault (.powerGoodFall r) 1 (fun u => r ∉ u.pwr.pg)) ∧
    (∀ r, railOk r = true → r ∈ s.pwr.pg → r ∉ s.pwr.en → s.pwr.row ≠ 7 →
      exec (.powerGoodFall r) s = .next { s with pwr := { s.pwr with pg := s.pwr.pg.filter (fun k => decide (k ≠ r)) } }) ∧
    (∀ r, railOk r = true → r ∈ s.pwr.en → r ∉ s.pwr.pg → s.pwr.row ≠ 7 →
      fault (.powerGoodTimeout r) 1 (fun u => u.ember = max s.ember (s.pwr.rowSince + 25000))) ∧
    (s.pwr.row ≠ 7 → fault .railOutOfTolerance 1 (fun u => u.ember = s.ember + 250)) ∧
    (∀ k, (k = .aon ∨ k = .sys) → k ∉ s.pwr.refLost → fault (.refclkLoss k) 2 (fun u => k ∈ u.pwr.refLost ∧ u.ember = s.ember + 50)) ∧
    (∀ d, d < 4 → RefClk.ser d ∉ s.pwr.refLost → ∃ u, exec (.refclkLoss (.ser d)) s = .next u ∧ u.failTrigger = s.failTrigger ∧
      ∀ l, 12 * d ≤ l → l < 12 * d + 12 → (getLink u l).state = 0 ∨ (getLink u l).state = 6) ∧
    (∀ k, clkOk k = true → ∃ u, exec (.refclkReturn k) s = .next u ∧ k ∉ u.pwr.refLost ∧ u.cells = s.cells ∧ u.mem = s.mem)

/-- Power-down deasserts the compute rails first and the next group 2,500 ticks later; power-up begins with row 2; a loss of VAON leaves nothing but the
record flash and host memory (R483, R484). -/
def Sys2Proof.Claim.PowerUpAndDown : Prop :=
  ∀ s : State,
    (powered s = true → s.pwr.row ≠ 7 → (∃ d, d < 4 ∧ Rail.cmp d ∈ s.pwr.en) → ∃ u, exec .powerDownRequest s = .next u ∧ u.pwr.row = 7 ∧
      u.pwr.pkgRstN = false ∧ u.pwr.en = s.pwr.en.filter (fun r => !allCmp.contains r) ∧ u.mem = [] ∧ u.host = s.host ∧ u.flash = s.flash) ∧
    (s.pwr.row = 7 → s.pwr.en ≠ [] → ∃ u, exec .powerDownStepTimer s = .next u ∧ u.ember = max s.ember (s.pwr.rowSince + 2500) ∧
      (s.pwr.en = [.aux] → u.pwr.en = [])) ∧
    (s.pwr.pstate = 0 → s.pwr.pg = [] → ∃ u, exec .powerUpRequest s = .next u ∧ u.pwr.pkgRstN = true ∧ u.pwr.row = 2 ∧ u.pwr.en = [.aux] ∧
      u.pwr.pstate = 1 ∧ u.ember = s.ember + 2500 ∧ u.flash = s.flash) ∧
    (∃ u, exec .powerLoss s = .next u ∧ u.pwr.pstate = 0 ∧ u.pwr.en = [] ∧ u.ember = 0 ∧ u.mem = [] ∧ u.sec = Sec.reset ∧ u.flash = s.flash ∧
      u.host = s.host)

/-- SLEEP: the package enters it SLEEP_TICKS after it became idle and 2,500 more, its pavilions OFF; a wake condition starts the exit with the compute
rails, which ends ACTIVE when their power-goods are high (R490, R491). -/
def Sys2Proof.Claim.SleepStates : Prop :=
  ∀ s : State,
    (running s = true → s.pwr.sleepEn = true → idle s = true → stacksUp s = true → ∃ u, exec .sleepEntry s = .next u ∧ u.pwr.pstate = 3 ∧
      u.ember = max s.ember (max s.pwr.idleSince s.hdmAt + s.pwr.sleepTicks) + 2500 ∧ (∀ p, p < 64 → (getPav u p).power = .off) ∧
      (∀ r ∈ u.pwr.en, isCmp r = false) ∧ u.mem = s.mem) ∧
    (wakeWanted s = true → s.pwr.pstate = 3 → s.pwr.sleeping ≠ 2 → ∃ u, exec .sleepExit s = .next u ∧ u.pwr.sleeping = 2 ∧ u.ember = s.ember + 250 ∧
      (∀ d, d < 4 → Rail.cmp d ∈ u.pwr.en) ∧ (∀ h, h < 8 → (getHbm s h).state = 2 → (getHbm u h).state = 1) ∧ u.mem = s.mem) ∧
    (s.pwr.pstate = 3 → s.pwr.sleeping = 2 → (∀ d, d < 4 → Rail.cmp d ∈ s.pwr.pg) → ∃ u, exec .sleepExitComplete s = .next u ∧ u.pwr.pstate = 2 ∧
      u.pwr.sleeping = 0 ∧ u.mem = s.mem ∧ u.cells = s.cells)

/-- The throttle: in each period DUTY rises by one, to 7 at most, where power, a temperature or PROCHOT_N asks for it, falls by one where all allow it, and
else stays; an over-current takes it to 7; a junction that is too hot for good trips (R493, R494). -/
def Sys2Proof.Claim.Throttle : Prop :=
  ∀ s : State,
    (∀ m, s.pwr.pstate = 2 → ∃ u, exec (.throttlePeriod m) s = .next u ∧ u.ember = max s.ember (s.pwr.throttleAt + 25) ∧
      u.pwr.duty = (if s.pwr.plimit < m.watts ∨ s.pwr.tj ≤ max (maxOf m.cmp) m.store ∨ 90 ≤ maxOf m.hbm ∨ s.pwr.prochotN = false then min 7 (s.pwr.duty + 1)
        else if m.watts * 100 < 95 * s.pwr.plimit ∧ max (maxOf m.cmp) m.store + 2 < s.pwr.tj ∧ maxOf m.hbm < 88 then s.pwr.duty - 1 else s.pwr.duty) ∧
      u.pwr.active = decide (u.pwr.duty ≠ 0) ∧ u.cells = s.cells ∧ u.mem = s.mem) ∧
    (∀ d, d < 4 → s.pwr.pstate = 2 → ∃ u, exec (.overCurrent d) s = .next u ∧ u.pwr.duty = 7 ∧ u.pwr.active = true ∧ u.pwr.power = true ∧ u.mem = s.mem) ∧
    (∀ high, powered s = true → exec (.prochotChange high) s = .next { s with pwr := { s.pwr with prochotN := high } }) ∧
    (∀ hbm i t, powered s = true → s.failTrigger = 0 → (if hbm then i < 8 ∧ 100 ≤ t else i < 5 ∧ 105 ≤ t) →
      ∃ u, exec (.thermalTrip hbm i t) s = .next u ∧ u.failTrigger = 1 ∧ u.pwr.fault = 3 ∧ u.pwr.thermtripN = false)

/-! ### The register window -/

/-- A write of a register takes effect only as 8 bytes at a multiple of 8 that sets no reserved field: a misaligned or narrow one is refused with
E_ARG_ALIGN, one to no register or with a reserved field set with E_ARG_RESERVED, and no register changes; so a read of such an offset returns 0. TEMPER.CFG
and CLKPWR's limits take their values within range (R8, R10, R11, R455, R501). -/
def Sys2Proof.Claim.RegisterWindow : Prop :=
  ∀ (s : State) (off size : Nat) (v : Word) (b : Blk) (o : Nat), off < 0x10000000 → findBlock off = some (b, o) → TakesWrites s b.base →
    ((size ≠ 8 ∨ o % 8 ≠ 0) → exec (.registerWrite off size v) s = .next (recordErr s b.base o eArgAlign)) ∧
    (size = 8 → o % 8 = 0 → reservedAt b o = none → exec (.registerWrite off size v) s = .next (recordErr s b.base o eArgReserved)) ∧
    (∀ l, size = 8 → o % 8 = 0 → reservedAt b o = some l → leavesReserved l v.toNat = false → (b ≠ .lodge ∨ o ≠ 0x4000) → ownReserved b o = false →
      exec (.registerWrite off size v) s = .next (recordErr s b.base o eArgReserved)) ∧
    ((size ≠ 8 ∨ o % 8 ≠ 0) → exec (.registerRead off size) s = .next (recordErr { s with rdata := 0 } b.base o eArgAlign)) ∧
    (size = 8 → o % 8 = 0 → reservedAt b o = none → exec (.registerRead off size) s = .next { s with rdata := 0 }) ∧
    (off = 0x0C000000 → size = 8 → bits v.toNat 63 48 = 0 → bits v.toNat 31 16 = 0 → bits v.toNat 15 0 ≠ 0 → 16 ≤ bits v.toNat 47 40 →
      exec (.registerWrite off size v) s = .next { s with guard := bits v.toNat 47 40, driftPlan := bits v.toNat 39 32, period := bits v.toNat 15 0 }) ∧
    (off = 0x0E000010 → size = 8 → bits v.toNat 63 48 = 0 → bits v.toNat 39 16 = 0 → 500 ≤ bits v.toNat 15 0 → bits v.toNat 15 0 ≤ 2900 →
      70 ≤ bits v.toNat 47 40 → bits v.toNat 47 40 ≤ 95 →
      exec (.registerWrite off size v) s = .next { s with pwr := { s.pwr with plimit := bits v.toNat 15 0, tj := bits v.toNat 47 40 } })

/-- A read of a register whose word is there returns the word (R9): of TEMPER.CFG, GUARD, DRIFT_PLAN and PERIOD in their places. -/
def Sys2Proof.Claim.RegisterReads : Prop :=
  ∀ s : State, powered s = true → booted s = true →
    ∃ u, exec (.registerRead 0x0C000000 8) s = .next u ∧
      u.rdata = BitVec.ofNat 64 (fieldAt 40 s.guard + fieldAt 32 s.driftPlan + s.period) ∧ u.mem = s.mem ∧ u.cells = s.cells ∧ u.guard = s.guard

/-- A rejected register access: the block's ERR keeps the first offset and code and counts, up to 255; other blocks' records stay (R11). -/
def Sys2Proof.Claim.RejectionsAreRecorded : Prop :=
  ∀ (s : State) (b off code : Nat),
    let e := mget ErrReg.reset s.errs b
    let f := mget ErrReg.reset (recordErr s b off code).errs b
    (e.count = 0 → f = ⟨1, off, code⟩) ∧ (e.count ≠ 0 → f = ⟨if 255 < e.count + 1 then 255 else e.count + 1, e.offset, e.code⟩) ∧
    (∀ k, k ≠ b → mget ErrReg.reset (recordErr s b off code).errs k = mget ErrReg.reset s.errs k)

/-- An access of the register window that is not of 8 bytes at a multiple of 8 reads 0, writes nothing, and is recorded with E_ARG_ALIGN in the error register
of its block, or, where it lies in no block, of LODGE (R8, R503). -/
def Sys2Proof.Claim.MisalignedAccessesAreRejected : Prop :=
  ∀ (s : State) (off size : Nat) (v : Word), off < 0x10000000 →
    (∀ b o, findBlock off = some (b, o) → TakesWrites s b.base → (size ≠ 8 ∨ o % 8 ≠ 0) →
      exec (.registerRead off size) s = .next (recordErr { s with rdata := 0 } b.base o eArgAlign) ∧
      exec (.registerWrite off size v) s = .next (recordErr s b.base o eArgAlign)) ∧
    (findBlock off = none → TakesWrites s lodgeBase → (size ≠ 8 ∨ off % 8 ≠ 0) →
      exec (.registerRead off size) s = .next (recordErr { s with rdata := 0 } lodgeBase off eArgAlign) ∧
      exec (.registerWrite off size v) s = .next (recordErr s lodgeBase off eArgAlign))

/-- A read of BLOCK.ERR gives VALID, COUNT, OFFSET and CODE, and clears the record (R11). -/
def Sys2Proof.Claim.ErrorRegisterReads : Prop :=
  ∀ (s : State) (off : Nat) (b : Blk), off < 0x10000000 → findBlock off = some (b, 0xFF8) → powered s = true → booted s = true → blockReached s b.base = true →
    let e := mget ErrReg.reset s.errs b.base
    ∃ u, exec (.registerRead off 8) s = .next u ∧
      u.rdata = BitVec.ofNat 64 ((if e.count = 0 then 0 else 2 ^ 63) + e.count * 2 ^ 48 + e.offset * 2 ^ 16 + e.code) ∧
      mget ErrReg.reset u.errs b.base = ErrReg.reset ∧ (∀ k, k ≠ b.base → mget ErrReg.reset u.errs k = mget ErrReg.reset s.errs k) ∧
      u.mem = s.mem ∧ u.cells = s.cells

/-- Accesses that a block rejects, and the register that says so (R8, R11). -/
def Obligations.RejectedRegisterAccesses : Prop := RejectionsAreRecorded ∧ MisalignedAccessesAreRejected ∧ ErrorRegisterReads

/-- The boot, the keys and the attestation of the package. -/
def Obligations.BootKeysAndAttestation : Prop := BootSequence ∧ NoncesKeysAndTokens ∧ Attestation

/-- Rails, clocks, power states and the throttle. -/
def Obligations.PowerStates : Prop := RailsAndClocks ∧ PowerUpAndDown ∧ SleepStates ∧ Throttle

/-- The register window. -/
def Obligations.RegisterWindowAccesses : Prop := RegisterWindow ∧ RegisterReads

end Statements
end

