-- ==== Sys2Proof/Laws/Bytes.lean ====
section
/-!
SUPPORT. Laws/Bytes.lean: numbers and their little-endian bytes, and what stands in a flit whose FCRC is right.
-/
namespace Sys2Proof.Machine

@[simp] theorem leBytes_length (n v : Nat) : (leBytes n v).length = n := by
  induction n generalizing v with
  | zero => rfl
  | succ n ih => simp [leBytes, ih]

/-- A number is read back from its n bytes modulo 256^n. -/
theorem leNat_leBytes (n v : Nat) : leNat (leBytes n v) = v % 256 ^ n := by
  induction n generalizing v with
  | zero => simp [leBytes, leNat, Nat.mod_one]
  | succ n ih => simp [leBytes, leNat, ih, Nat.pow_succ', Nat.mod_mul]

/-- A flit is bad where its last eight bytes are not the CRC-64 of the 632 before them (R310, R341). -/
theorem flitBad_append (l : List Byte) (v : Nat) (u : Bool) (n : Nat) (k : List Nat) (h : l.length = 632) :
    flitBad ⟨l ++ leBytes 8 v, u, n, k⟩ = decide (v % 256 ^ 8 ≠ (crc64 l).toNat) := by
  simp [flitBad, h, List.take_of_length_le, leNat_leBytes]

theorem flitBad_sealed (l : List Byte) (u : Bool) (n : Nat) (k : List Nat) (h : l.length = 632) :
    flitBad ⟨l ++ leBytes 8 (crc64 l).toNat, u, n, k⟩ = false := by
  have := (crc64 l).isLt
  simp [flitBad_append _ _ _ _ _ h]
  omega

end Sys2Proof.Machine
end

