-- ==== Sys2Proof/Laws/Maps.lean ====
section
/-!
SUPPORT. Laws/Maps.lean: the sparse maps: what is read after a write, and the canonical form that every operation keeps.
-/
namespace Sys2Proof.Machine
variable {α : Type}

/-! ### Reading after a write -/

theorem mget_mput_same (d : α) (k : Nat) (v : α) (m : List (Nat × α)) : mget d (mput k v m) k = v := by
  induction m with
  | nil => simp [mput, mget]
  | cons e rest ih =>
    obtain ⟨i, w⟩ := e
    simp only [mput]
    split
    · simp [mget]
    · split
      · simp [mget]
      · simp_all [mget]

theorem mget_mput_ne (d : α) {j k : Nat} (v : α) (m : List (Nat × α)) (h : j ≠ k) : mget d (mput k v m) j = mget d m j := by
  induction m with
  | nil => simp [mput, mget, Ne.symm h]
  | cons e rest ih =>
    obtain ⟨i, w⟩ := e
    simp only [mput]
    split
    · simp [mget, Ne.symm h]
    · split
      · subst_vars
        simp [mget, Ne.symm h]
      · simp [mget, ih]

theorem mget_mdel_same (d : α) (k : Nat) (m : List (Nat × α)) : mget d (mdel k m) k = d := by
  induction m with
  | nil => rfl
  | cons e rest ih =>
    obtain ⟨i, w⟩ := e
    simp only [mdel]
    split
    · exact ih
    · simp_all [mget]

theorem mget_mdel_ne (d : α) {j k : Nat} (m : List (Nat × α)) (h : j ≠ k) : mget d (mdel k m) j = mget d m j := by
  induction m with
  | nil => rfl
  | cons e rest ih =>
    obtain ⟨i, w⟩ := e
    simp only [mdel]
    split
    · subst_vars
      simp [mget, Ne.symm h, ih]
    · simp [mget, ih]

@[simp] theorem mget_mset_same [DecidableEq α] (d : α) (k : Nat) (v : α) (m : List (Nat × α)) : mget d (mset d k v m) k = v := by
  unfold mset
  split
  · subst_vars
    exact mget_mdel_same ..
  · exact mget_mput_same ..

theorem mget_mset_ne [DecidableEq α] (d : α) {j k : Nat} (v : α) {m : List (Nat × α)} (h : j ≠ k) : mget d (mset d k v m) j = mget d m j := by
  unfold mset
  split
  · exact mget_mdel_ne _ _ h
  · exact mget_mput_ne _ _ _ h

theorem mfind_mput_same (k : Nat) (v : α) (m : List (Nat × α)) : mfind (mput k v m) k = some v := by
  induction m with
  | nil => simp [mput, mfind]
  | cons e rest ih =>
    obtain ⟨i, w⟩ := e
    simp only [mput]
    split
    · simp [mfind]
    · split
      · simp [mfind]
      · simp_all [mfind]

theorem mfind_mput_ne {j k : Nat} (v : α) (m : List (Nat × α)) (h : j ≠ k) : mfind (mput k v m) j = mfind m j := by
  induction m with
  | nil => simp [mput, mfind, Ne.symm h]
  | cons e rest ih =>
    obtain ⟨i, w⟩ := e
    simp only [mput]
    split
    · simp [mfind, Ne.symm h]
    · split
      · subst_vars
        simp [mfind, Ne.symm h]
      · simp [mfind, ih]

/-! ### The canonical form -/

theorem risingFrom_mono {lo hi : Nat} {m : List (Nat × α)} (h : lo ≤ hi) (r : risingFrom hi m = true) : risingFrom lo m = true := by
  cases m with
  | nil => rfl
  | cons e rest =>
    obtain ⟨i, w⟩ := e
    simp only [risingFrom, Bool.and_eq_true, decide_eq_true_eq] at r ⊢
    exact ⟨Nat.le_trans h r.1, r.2⟩

theorem risingFrom_filter {p : Nat × α → Bool} {lo : Nat} {m : List (Nat × α)} (r : risingFrom lo m = true) :
    risingFrom lo (m.filter p) = true := by
  induction m generalizing lo with
  | nil => rfl
  | cons e rest ih =>
    obtain ⟨i, w⟩ := e
    simp only [risingFrom, Bool.and_eq_true, decide_eq_true_eq] at r
    simp only [List.filter_cons]
    split
    · simp only [risingFrom, Bool.and_eq_true, decide_eq_true_eq]
      exact ⟨r.1, ih r.2⟩
    · exact risingFrom_mono (by omega) (ih r.2)

theorem mdel_eq_filter (k : Nat) (m : List (Nat × α)) : mdel k m = m.filter (fun e => decide (e.1 ≠ k)) := by
  induction m with
  | nil => rfl
  | cons e rest ih =>
    obtain ⟨i, w⟩ := e
    by_cases h : i = k <;> simp [mdel, h, ih]

theorem risingFrom_mput {lo k : Nat} {v : α} {m : List (Nat × α)} (h : lo ≤ k) (r : risingFrom lo m = true) :
    risingFrom lo (mput k v m) = true := by
  induction m generalizing lo with
  | nil => simpa [mput, risingFrom] using h
  | cons e rest ih =>
    obtain ⟨i, w⟩ := e
    simp only [risingFrom, Bool.and_eq_true, decide_eq_true_eq] at r
    simp only [mput]
    split
    · simp only [risingFrom, Bool.and_eq_true, decide_eq_true_eq]
      exact ⟨h, by omega, r.2⟩
    · split
      · subst_vars
        simp only [risingFrom, Bool.and_eq_true, decide_eq_true_eq]
        exact r
      · simp only [risingFrom, Bool.and_eq_true, decide_eq_true_eq]
        exact ⟨r.1, ih (by omega) r.2⟩

theorem mem_mput {k : Nat} {v : α} {m : List (Nat × α)} {e : Nat × α} (h : e ∈ mput k v m) : e = (k, v) ∨ e ∈ m := by
  induction m with
  | nil => exact .inl (by simpa [mput] using h)
  | cons a rest ih =>
    obtain ⟨i, w⟩ := a
    simp only [mput] at h
    split at h
    · simpa using h
    · split at h
      · rcases List.mem_cons.1 h with h | h
        · exact .inl h
        · exact .inr (List.mem_cons_of_mem _ h)
      · rcases List.mem_cons.1 h with h | h
        · exact .inr (h ▸ List.mem_cons_self ..)
        · exact (ih h).imp_right (List.mem_cons_of_mem _)

theorem canonical_filter [DecidableEq α] {d : α} {p : Nat × α → Bool} {m : List (Nat × α)} (h : canonical d m = true) :
    canonical d (m.filter p) = true := by
  simp only [canonical, Bool.and_eq_true, List.all_eq_true] at h ⊢
  exact ⟨risingFrom_filter h.1, fun e he => h.2 e (List.mem_filter.1 he).1⟩

/-- A write keeps the canonical form, whatever is written. -/
theorem canonical_mset [DecidableEq α] {d : α} (k : Nat) (v : α) {m : List (Nat × α)} (h : canonical d m = true) :
    canonical d (mset d k v m) = true := by
  unfold mset
  split
  · rw [mdel_eq_filter]
    exact canonical_filter h
  · rename_i hv
    simp only [canonical, Bool.and_eq_true, List.all_eq_true, decide_eq_true_eq] at h ⊢
    refine ⟨risingFrom_mput (Nat.zero_le _) h.1, fun e he => ?_⟩
    rcases mem_mput he with rfl | he
    · exact hv
    · exact h.2 e he

/-! ### Byte memories -/

@[simp] theorem Memory.wf_nil : Memory.wf [] = true := rfl

/-- Writing bytes keeps the canonical form of a memory. -/
theorem Memory.wf_memWrite (m : Mem) (a : Nat) (l : List Byte) (h : Memory.wf m = true) : Memory.wf (memWrite m a l) = true := by
  induction l generalizing m a with
  | nil => exact h
  | cons b rest ih => exact ih _ _ (canonical_mset a b h)

/-- Zeroing bytes keeps it. -/
theorem Memory.wf_memZero (m : Mem) (a n : Nat) (h : Memory.wf m = true) : Memory.wf (memZero m a n) = true := canonical_filter h

/-- Writing one byte keeps it. -/
theorem Memory.wf_mset (m : Mem) (a : Nat) (b : Byte) (h : Memory.wf m = true) : Memory.wf (mset 0 a b m) = true := canonical_mset a b h

theorem memByte_mset (m : Mem) (a k : Nat) (b : Byte) : memByte (mset 0 a b m) k = if k = a then b else memByte m k := by
  unfold memByte
  split
  · subst_vars
    exact mget_mset_same ..
  · exact mget_mset_ne _ _ ‹_›

end Sys2Proof.Machine
end

