-- ==== Sys2Proof/Laws/State.lean ====
section
/-!
SUPPORT. Laws/State.lean: what each write of one unit of the state leaves, field by field, and that a unit reads as it was last written.
-/
namespace Sys2Proof.Machine
variable (s : State) (i j : Nat)

/-! ### setCell -/

section
variable (x : Cell)

@[simp] theorem setCell_pending : (setCell s i x).pending = s.pending := rfl
@[simp] theorem setCell_free : (setCell s i x).free = s.free := rfl
@[simp] theorem setCell_rdata : (setCell s i x).rdata = s.rdata := rfl
@[simp] theorem setCell_hdmData : (setCell s i x).hdmData = s.hdmData := rfl
@[simp] theorem setCell_ember : (setCell s i x).ember = s.ember := rfl
@[simp] theorem setCell_mem : (setCell s i x).mem = s.mem := rfl
@[simp] theorem setCell_host : (setCell s i x).host = s.host := rfl
@[simp] theorem setCell_ddr5 : (setCell s i x).ddr5 = s.ddr5 := rfl
@[simp] theorem setCell_upsets : (setCell s i x).upsets = s.upsets := rfl
@[simp] theorem setCell_pavs : (setCell s i x).pavs = s.pavs := rfl
@[simp] theorem setCell_stores : (setCell s i x).stores = s.stores := rfl
@[simp] theorem setCell_hbms : (setCell s i x).hbms = s.hbms := rfl
@[simp] theorem setCell_links : (setCell s i x).links = s.links := rfl
@[simp] theorem setCell_fabs : (setCell s i x).fabs = s.fabs := rfl
@[simp] theorem setCell_ucies : (setCell s i x).ucies = s.ucies := rfl
@[simp] theorem setCell_objs : (setCell s i x).objs = s.objs := rfl
@[simp] theorem setCell_objPages : (setCell s i x).objPages = s.objPages := rfl
@[simp] theorem setCell_ports : (setCell s i x).ports = s.ports := rfl
@[simp] theorem setCell_waitMsgs : (setCell s i x).waitMsgs = s.waitMsgs := rfl
@[simp] theorem setCell_jobs : (setCell s i x).jobs = s.jobs := rfl
@[simp] theorem setCell_loads : (setCell s i x).loads = s.loads := rfl
@[simp] theorem setCell_migs : (setCell s i x).migs = s.migs := rfl
@[simp] theorem setCell_exportRuns : (setCell s i x).exportRuns = s.exportRuns := rfl
@[simp] theorem setCell_regions : (setCell s i x).regions = s.regions := rfl
@[simp] theorem setCell_pkgId : (setCell s i x).pkgId = s.pkgId := rfl
@[simp] theorem setCell_pkgSet : (setCell s i x).pkgSet = s.pkgSet := rfl
@[simp] theorem setCell_ctxs : (setCell s i x).ctxs = s.ctxs := rfl
@[simp] theorem setCell_queues : (setCell s i x).queues = s.queues := rfl
@[simp] theorem setCell_errs : (setCell s i x).errs = s.errs := rfl
@[simp] theorem setCell_distGen : (setCell s i x).distGen = s.distGen := rfl
@[simp] theorem setCell_rsts : (setCell s i x).rsts = s.rsts := rfl
@[simp] theorem setCell_pavRsts : (setCell s i x).pavRsts = s.pavRsts := rfl
@[simp] theorem setCell_rstCause : (setCell s i x).rstCause = s.rstCause := rfl
@[simp] theorem setCell_rstAborted : (setCell s i x).rstAborted = s.rstAborted := rfl
@[simp] theorem setCell_rstPkg : (setCell s i x).rstPkg = s.rstPkg := rfl
@[simp] theorem setCell_failTrigger : (setCell s i x).failTrigger = s.failTrigger := rfl
@[simp] theorem setCell_lodgeClk : (setCell s i x).lodgeClk = s.lodgeClk := rfl
@[simp] theorem setCell_imageMem : (setCell s i x).imageMem = s.imageMem := rfl
@[simp] theorem setCell_evs : (setCell s i x).evs = s.evs := rfl
@[simp] theorem setCell_evCpus : (setCell s i x).evCpus = s.evCpus := rfl
@[simp] theorem setCell_rotate : (setCell s i x).rotate = s.rotate := rfl
@[simp] theorem setCell_msix : (setCell s i x).msix = s.msix := rfl
@[simp] theorem setCell_msixMask : (setCell s i x).msixMask = s.msixMask := rfl
@[simp] theorem setCell_msiOut : (setCell s i x).msiOut = s.msiOut := rfl
@[simp] theorem setCell_wires : (setCell s i x).wires = s.wires := rfl
@[simp] theorem setCell_spdmOut : (setCell s i x).spdmOut = s.spdmOut := rfl
@[simp] theorem setCell_sent : (setCell s i x).sent = s.sent := rfl
@[simp] theorem setCell_events : (setCell s i x).events = s.events := rfl
@[simp] theorem setCell_guard : (setCell s i x).guard = s.guard := rfl
@[simp] theorem setCell_driftPlan : (setCell s i x).driftPlan = s.driftPlan := rfl
@[simp] theorem setCell_period : (setCell s i x).period = s.period := rfl
@[simp] theorem setCell_temperAt : (setCell s i x).temperAt = s.temperAt := rfl
@[simp] theorem setCell_flash : (setCell s i x).flash = s.flash := rfl
@[simp] theorem setCell_sec : (setCell s i x).sec = s.sec := rfl
@[simp] theorem setCell_pwr : (setCell s i x).pwr = s.pwr := rfl
@[simp] theorem setCell_hdmAt : (setCell s i x).hdmAt = s.hdmAt := rfl
@[simp] theorem getCell_setCell : getCell (setCell s i x) i = x := mget_mset_same ..
theorem getCell_setCell_ne (h : j ≠ i) : getCell (setCell s i x) j = getCell s j := mget_mset_ne _ _ h
@[simp] theorem getPav_setCell : getPav (setCell s i x) j = getPav s j := rfl
@[simp] theorem getStore_setCell : getStore (setCell s i x) j = getStore s j := rfl
@[simp] theorem getHbm_setCell : getHbm (setCell s i x) j = getHbm s j := rfl
@[simp] theorem getLink_setCell : getLink (setCell s i x) j = getLink s j := rfl
@[simp] theorem getFab_setCell : getFab (setCell s i x) j = getFab s j := rfl
@[simp] theorem getUcie_setCell : getUcie (setCell s i x) j = getUcie s j := rfl
@[simp] theorem getJob_setCell : getJob (setCell s i x) j = getJob s j := rfl
@[simp] theorem getObj_setCell : getObj (setCell s i x) j = getObj s j := rfl
@[simp] theorem getQueue_setCell : getQueue (setCell s i x) j = getQueue s j := rfl
@[simp] theorem getCtx_setCell : getCtx (setCell s i x) j = getCtx s j := rfl
@[simp] theorem getEv_setCell : getEv (setCell s i x) j = getEv s j := rfl
@[simp] theorem getEvCpu_setCell : getEvCpu (setCell s i x) j = getEvCpu s j := rfl
@[simp] theorem getRst_setCell : getRst (setCell s i x) j = getRst s j := rfl
@[simp] theorem getRegion_setCell : getRegion (setCell s i x) j = getRegion s j := rfl
@[simp] theorem getPort_setCell : getPort (setCell s i x) j = getPort s j := rfl

end

/-! ### setPav -/

section
variable (x : Pav)

@[simp] theorem setPav_pending : (setPav s i x).pending = s.pending := rfl
@[simp] theorem setPav_free : (setPav s i x).free = s.free := rfl
@[simp] theorem setPav_rdata : (setPav s i x).rdata = s.rdata := rfl
@[simp] theorem setPav_hdmData : (setPav s i x).hdmData = s.hdmData := rfl
@[simp] theorem setPav_ember : (setPav s i x).ember = s.ember := rfl
@[simp] theorem setPav_mem : (setPav s i x).mem = s.mem := rfl
@[simp] theorem setPav_host : (setPav s i x).host = s.host := rfl
@[simp] theorem setPav_ddr5 : (setPav s i x).ddr5 = s.ddr5 := rfl
@[simp] theorem setPav_upsets : (setPav s i x).upsets = s.upsets := rfl
@[simp] theorem setPav_cells : (setPav s i x).cells = s.cells := rfl
@[simp] theorem setPav_stores : (setPav s i x).stores = s.stores := rfl
@[simp] theorem setPav_hbms : (setPav s i x).hbms = s.hbms := rfl
@[simp] theorem setPav_links : (setPav s i x).links = s.links := rfl
@[simp] theorem setPav_fabs : (setPav s i x).fabs = s.fabs := rfl
@[simp] theorem setPav_ucies : (setPav s i x).ucies = s.ucies := rfl
@[simp] theorem setPav_objs : (setPav s i x).objs = s.objs := rfl
@[simp] theorem setPav_objPages : (setPav s i x).objPages = s.objPages := rfl
@[simp] theorem setPav_ports : (setPav s i x).ports = s.ports := rfl
@[simp] theorem setPav_waitMsgs : (setPav s i x).waitMsgs = s.waitMsgs := rfl
@[simp] theorem setPav_jobs : (setPav s i x).jobs = s.jobs := rfl
@[simp] theorem setPav_loads : (setPav s i x).loads = s.loads := rfl
@[simp] theorem setPav_migs : (setPav s i x).migs = s.migs := rfl
@[simp] theorem setPav_exportRuns : (setPav s i x).exportRuns = s.exportRuns := rfl
@[simp] theorem setPav_regions : (setPav s i x).regions = s.regions := rfl
@[simp] theorem setPav_pkgId : (setPav s i x).pkgId = s.pkgId := rfl
@[simp] theorem setPav_pkgSet : (setPav s i x).pkgSet = s.pkgSet := rfl
@[simp] theorem setPav_ctxs : (setPav s i x).ctxs = s.ctxs := rfl
@[simp] theorem setPav_queues : (setPav s i x).queues = s.queues := rfl
@[simp] theorem setPav_errs : (setPav s i x).errs = s.errs := rfl
@[simp] theorem setPav_distGen : (setPav s i x).distGen = s.distGen := rfl
@[simp] theorem setPav_rsts : (setPav s i x).rsts = s.rsts := rfl
@[simp] theorem setPav_pavRsts : (setPav s i x).pavRsts = s.pavRsts := rfl
@[simp] theorem setPav_rstCause : (setPav s i x).rstCause = s.rstCause := rfl
@[simp] theorem setPav_rstAborted : (setPav s i x).rstAborted = s.rstAborted := rfl
@[simp] theorem setPav_rstPkg : (setPav s i x).rstPkg = s.rstPkg := rfl
@[simp] theorem setPav_failTrigger : (setPav s i x).failTrigger = s.failTrigger := rfl
@[simp] theorem setPav_lodgeClk : (setPav s i x).lodgeClk = s.lodgeClk := rfl
@[simp] theorem setPav_imageMem : (setPav s i x).imageMem = s.imageMem := rfl
@[simp] theorem setPav_evs : (setPav s i x).evs = s.evs := rfl
@[simp] theorem setPav_evCpus : (setPav s i x).evCpus = s.evCpus := rfl
@[simp] theorem setPav_rotate : (setPav s i x).rotate = s.rotate := rfl
@[simp] theorem setPav_msix : (setPav s i x).msix = s.msix := rfl
@[simp] theorem setPav_msixMask : (setPav s i x).msixMask = s.msixMask := rfl
@[simp] theorem setPav_msiOut : (setPav s i x).msiOut = s.msiOut := rfl
@[simp] theorem setPav_wires : (setPav s i x).wires = s.wires := rfl
@[simp] theorem setPav_spdmOut : (setPav s i x).spdmOut = s.spdmOut := rfl
@[simp] theorem setPav_sent : (setPav s i x).sent = s.sent := rfl
@[simp] theorem setPav_events : (setPav s i x).events = s.events := rfl
@[simp] theorem setPav_guard : (setPav s i x).guard = s.guard := rfl
@[simp] theorem setPav_driftPlan : (setPav s i x).driftPlan = s.driftPlan := rfl
@[simp] theorem setPav_period : (setPav s i x).period = s.period := rfl
@[simp] theorem setPav_temperAt : (setPav s i x).temperAt = s.temperAt := rfl
@[simp] theorem setPav_flash : (setPav s i x).flash = s.flash := rfl
@[simp] theorem setPav_sec : (setPav s i x).sec = s.sec := rfl
@[simp] theorem setPav_pwr : (setPav s i x).pwr = s.pwr := rfl
@[simp] theorem setPav_hdmAt : (setPav s i x).hdmAt = s.hdmAt := rfl
@[simp] theorem getPav_setPav : getPav (setPav s i x) i = x := mget_mset_same ..
theorem getPav_setPav_ne (h : j ≠ i) : getPav (setPav s i x) j = getPav s j := mget_mset_ne _ _ h
@[simp] theorem getCell_setPav : getCell (setPav s i x) j = getCell s j := rfl
@[simp] theorem getStore_setPav : getStore (setPav s i x) j = getStore s j := rfl
@[simp] theorem getHbm_setPav : getHbm (setPav s i x) j = getHbm s j := rfl
@[simp] theorem getLink_setPav : getLink (setPav s i x) j = getLink s j := rfl
@[simp] theorem getFab_setPav : getFab (setPav s i x) j = getFab s j := rfl
@[simp] theorem getUcie_setPav : getUcie (setPav s i x) j = getUcie s j := rfl
@[simp] theorem getJob_setPav : getJob (setPav s i x) j = getJob s j := rfl
@[simp] theorem getObj_setPav : getObj (setPav s i x) j = getObj s j := rfl
@[simp] theorem getQueue_setPav : getQueue (setPav s i x) j = getQueue s j := rfl
@[simp] theorem getCtx_setPav : getCtx (setPav s i x) j = getCtx s j := rfl
@[simp] theorem getEv_setPav : getEv (setPav s i x) j = getEv s j := rfl
@[simp] theorem getEvCpu_setPav : getEvCpu (setPav s i x) j = getEvCpu s j := rfl
@[simp] theorem getRst_setPav : getRst (setPav s i x) j = getRst s j := rfl
@[simp] theorem getRegion_setPav : getRegion (setPav s i x) j = getRegion s j := rfl
@[simp] theorem getPort_setPav : getPort (setPav s i x) j = getPort s j := rfl

end

/-! ### setStore -/

section
variable (x : StoreDie)

@[simp] theorem setStore_pending : (setStore s i x).pending = s.pending := rfl
@[simp] theorem setStore_free : (setStore s i x).free = s.free := rfl
@[simp] theorem setStore_rdata : (setStore s i x).rdata = s.rdata := rfl
@[simp] theorem setStore_hdmData : (setStore s i x).hdmData = s.hdmData := rfl
@[simp] theorem setStore_ember : (setStore s i x).ember = s.ember := rfl
@[simp] theorem setStore_mem : (setStore s i x).mem = s.mem := rfl
@[simp] theorem setStore_host : (setStore s i x).host = s.host := rfl
@[simp] theorem setStore_ddr5 : (setStore s i x).ddr5 = s.ddr5 := rfl
@[simp] theorem setStore_upsets : (setStore s i x).upsets = s.upsets := rfl
@[simp] theorem setStore_cells : (setStore s i x).cells = s.cells := rfl
@[simp] theorem setStore_pavs : (setStore s i x).pavs = s.pavs := rfl
@[simp] theorem setStore_hbms : (setStore s i x).hbms = s.hbms := rfl
@[simp] theorem setStore_links : (setStore s i x).links = s.links := rfl
@[simp] theorem setStore_fabs : (setStore s i x).fabs = s.fabs := rfl
@[simp] theorem setStore_ucies : (setStore s i x).ucies = s.ucies := rfl
@[simp] theorem setStore_objs : (setStore s i x).objs = s.objs := rfl
@[simp] theorem setStore_objPages : (setStore s i x).objPages = s.objPages := rfl
@[simp] theorem setStore_ports : (setStore s i x).ports = s.ports := rfl
@[simp] theorem setStore_waitMsgs : (setStore s i x).waitMsgs = s.waitMsgs := rfl
@[simp] theorem setStore_jobs : (setStore s i x).jobs = s.jobs := rfl
@[simp] theorem setStore_loads : (setStore s i x).loads = s.loads := rfl
@[simp] theorem setStore_migs : (setStore s i x).migs = s.migs := rfl
@[simp] theorem setStore_exportRuns : (setStore s i x).exportRuns = s.exportRuns := rfl
@[simp] theorem setStore_regions : (setStore s i x).regions = s.regions := rfl
@[simp] theorem setStore_pkgId : (setStore s i x).pkgId = s.pkgId := rfl
@[simp] theorem setStore_pkgSet : (setStore s i x).pkgSet = s.pkgSet := rfl
@[simp] theorem setStore_ctxs : (setStore s i x).ctxs = s.ctxs := rfl
@[simp] theorem setStore_queues : (setStore s i x).queues = s.queues := rfl
@[simp] theorem setStore_errs : (setStore s i x).errs = s.errs := rfl
@[simp] theorem setStore_distGen : (setStore s i x).distGen = s.distGen := rfl
@[simp] theorem setStore_rsts : (setStore s i x).rsts = s.rsts := rfl
@[simp] theorem setStore_pavRsts : (setStore s i x).pavRsts = s.pavRsts := rfl
@[simp] theorem setStore_rstCause : (setStore s i x).rstCause = s.rstCause := rfl
@[simp] theorem setStore_rstAborted : (setStore s i x).rstAborted = s.rstAborted := rfl
@[simp] theorem setStore_rstPkg : (setStore s i x).rstPkg = s.rstPkg := rfl
@[simp] theorem setStore_failTrigger : (setStore s i x).failTrigger = s.failTrigger := rfl
@[simp] theorem setStore_lodgeClk : (setStore s i x).lodgeClk = s.lodgeClk := rfl
@[simp] theorem setStore_imageMem : (setStore s i x).imageMem = s.imageMem := rfl
@[simp] theorem setStore_evs : (setStore s i x).evs = s.evs := rfl
@[simp] theorem setStore_evCpus : (setStore s i x).evCpus = s.evCpus := rfl
@[simp] theorem setStore_rotate : (setStore s i x).rotate = s.rotate := rfl
@[simp] theorem setStore_msix : (setStore s i x).msix = s.msix := rfl
@[simp] theorem setStore_msixMask : (setStore s i x).msixMask = s.msixMask := rfl
@[simp] theorem setStore_msiOut : (setStore s i x).msiOut = s.msiOut := rfl
@[simp] theorem setStore_wires : (setStore s i x).wires = s.wires := rfl
@[simp] theorem setStore_spdmOut : (setStore s i x).spdmOut = s.spdmOut := rfl
@[simp] theorem setStore_sent : (setStore s i x).sent = s.sent := rfl
@[simp] theorem setStore_events : (setStore s i x).events = s.events := rfl
@[simp] theorem setStore_guard : (setStore s i x).guard = s.guard := rfl
@[simp] theorem setStore_driftPlan : (setStore s i x).driftPlan = s.driftPlan := rfl
@[simp] theorem setStore_period : (setStore s i x).period = s.period := rfl
@[simp] theorem setStore_temperAt : (setStore s i x).temperAt = s.temperAt := rfl
@[simp] theorem setStore_flash : (setStore s i x).flash = s.flash := rfl
@[simp] theorem setStore_sec : (setStore s i x).sec = s.sec := rfl
@[simp] theorem setStore_pwr : (setStore s i x).pwr = s.pwr := rfl
@[simp] theorem setStore_hdmAt : (setStore s i x).hdmAt = s.hdmAt := rfl
@[simp] theorem getStore_setStore : getStore (setStore s i x) i = x := mget_mset_same ..
theorem getStore_setStore_ne (h : j ≠ i) : getStore (setStore s i x) j = getStore s j := mget_mset_ne _ _ h
@[simp] theorem getCell_setStore : getCell (setStore s i x) j = getCell s j := rfl
@[simp] theorem getPav_setStore : getPav (setStore s i x) j = getPav s j := rfl
@[simp] theorem getHbm_setStore : getHbm (setStore s i x) j = getHbm s j := rfl
@[simp] theorem getLink_setStore : getLink (setStore s i x) j = getLink s j := rfl
@[simp] theorem getFab_setStore : getFab (setStore s i x) j = getFab s j := rfl
@[simp] theorem getUcie_setStore : getUcie (setStore s i x) j = getUcie s j := rfl
@[simp] theorem getJob_setStore : getJob (setStore s i x) j = getJob s j := rfl
@[simp] theorem getObj_setStore : getObj (setStore s i x) j = getObj s j := rfl
@[simp] theorem getQueue_setStore : getQueue (setStore s i x) j = getQueue s j := rfl
@[simp] theorem getCtx_setStore : getCtx (setStore s i x) j = getCtx s j := rfl
@[simp] theorem getEv_setStore : getEv (setStore s i x) j = getEv s j := rfl
@[simp] theorem getEvCpu_setStore : getEvCpu (setStore s i x) j = getEvCpu s j := rfl
@[simp] theorem getRst_setStore : getRst (setStore s i x) j = getRst s j := rfl
@[simp] theorem getRegion_setStore : getRegion (setStore s i x) j = getRegion s j := rfl
@[simp] theorem getPort_setStore : getPort (setStore s i x) j = getPort s j := rfl

end

/-! ### setHbm -/

section
variable (x : Hbm)

@[simp] theorem setHbm_pending : (setHbm s i x).pending = s.pending := rfl
@[simp] theorem setHbm_free : (setHbm s i x).free = s.free := rfl
@[simp] theorem setHbm_rdata : (setHbm s i x).rdata = s.rdata := rfl
@[simp] theorem setHbm_hdmData : (setHbm s i x).hdmData = s.hdmData := rfl
@[simp] theorem setHbm_ember : (setHbm s i x).ember = s.ember := rfl
@[simp] theorem setHbm_mem : (setHbm s i x).mem = s.mem := rfl
@[simp] theorem setHbm_host : (setHbm s i x).host = s.host := rfl
@[simp] theorem setHbm_ddr5 : (setHbm s i x).ddr5 = s.ddr5 := rfl
@[simp] theorem setHbm_upsets : (setHbm s i x).upsets = s.upsets := rfl
@[simp] theorem setHbm_cells : (setHbm s i x).cells = s.cells := rfl
@[simp] theorem setHbm_pavs : (setHbm s i x).pavs = s.pavs := rfl
@[simp] theorem setHbm_stores : (setHbm s i x).stores = s.stores := rfl
@[simp] theorem setHbm_links : (setHbm s i x).links = s.links := rfl
@[simp] theorem setHbm_fabs : (setHbm s i x).fabs = s.fabs := rfl
@[simp] theorem setHbm_ucies : (setHbm s i x).ucies = s.ucies := rfl
@[simp] theorem setHbm_objs : (setHbm s i x).objs = s.objs := rfl
@[simp] theorem setHbm_objPages : (setHbm s i x).objPages = s.objPages := rfl
@[simp] theorem setHbm_ports : (setHbm s i x).ports = s.ports := rfl
@[simp] theorem setHbm_waitMsgs : (setHbm s i x).waitMsgs = s.waitMsgs := rfl
@[simp] theorem setHbm_jobs : (setHbm s i x).jobs = s.jobs := rfl
@[simp] theorem setHbm_loads : (setHbm s i x).loads = s.loads := rfl
@[simp] theorem setHbm_migs : (setHbm s i x).migs = s.migs := rfl
@[simp] theorem setHbm_exportRuns : (setHbm s i x).exportRuns = s.exportRuns := rfl
@[simp] theorem setHbm_regions : (setHbm s i x).regions = s.regions := rfl
@[simp] theorem setHbm_pkgId : (setHbm s i x).pkgId = s.pkgId := rfl
@[simp] theorem setHbm_pkgSet : (setHbm s i x).pkgSet = s.pkgSet := rfl
@[simp] theorem setHbm_ctxs : (setHbm s i x).ctxs = s.ctxs := rfl
@[simp] theorem setHbm_queues : (setHbm s i x).queues = s.queues := rfl
@[simp] theorem setHbm_errs : (setHbm s i x).errs = s.errs := rfl
@[simp] theorem setHbm_distGen : (setHbm s i x).distGen = s.distGen := rfl
@[simp] theorem setHbm_rsts : (setHbm s i x).rsts = s.rsts := rfl
@[simp] theorem setHbm_pavRsts : (setHbm s i x).pavRsts = s.pavRsts := rfl
@[simp] theorem setHbm_rstCause : (setHbm s i x).rstCause = s.rstCause := rfl
@[simp] theorem setHbm_rstAborted : (setHbm s i x).rstAborted = s.rstAborted := rfl
@[simp] theorem setHbm_rstPkg : (setHbm s i x).rstPkg = s.rstPkg := rfl
@[simp] theorem setHbm_failTrigger : (setHbm s i x).failTrigger = s.failTrigger := rfl
@[simp] theorem setHbm_lodgeClk : (setHbm s i x).lodgeClk = s.lodgeClk := rfl
@[simp] theorem setHbm_imageMem : (setHbm s i x).imageMem = s.imageMem := rfl
@[simp] theorem setHbm_evs : (setHbm s i x).evs = s.evs := rfl
@[simp] theorem setHbm_evCpus : (setHbm s i x).evCpus = s.evCpus := rfl
@[simp] theorem setHbm_rotate : (setHbm s i x).rotate = s.rotate := rfl
@[simp] theorem setHbm_msix : (setHbm s i x).msix = s.msix := rfl
@[simp] theorem setHbm_msixMask : (setHbm s i x).msixMask = s.msixMask := rfl
@[simp] theorem setHbm_msiOut : (setHbm s i x).msiOut = s.msiOut := rfl
@[simp] theorem setHbm_wires : (setHbm s i x).wires = s.wires := rfl
@[simp] theorem setHbm_spdmOut : (setHbm s i x).spdmOut = s.spdmOut := rfl
@[simp] theorem setHbm_sent : (setHbm s i x).sent = s.sent := rfl
@[simp] theorem setHbm_events : (setHbm s i x).events = s.events := rfl
@[simp] theorem setHbm_guard : (setHbm s i x).guard = s.guard := rfl
@[simp] theorem setHbm_driftPlan : (setHbm s i x).driftPlan = s.driftPlan := rfl
@[simp] theorem setHbm_period : (setHbm s i x).period = s.period := rfl
@[simp] theorem setHbm_temperAt : (setHbm s i x).temperAt = s.temperAt := rfl
@[simp] theorem setHbm_flash : (setHbm s i x).flash = s.flash := rfl
@[simp] theorem setHbm_sec : (setHbm s i x).sec = s.sec := rfl
@[simp] theorem setHbm_pwr : (setHbm s i x).pwr = s.pwr := rfl
@[simp] theorem setHbm_hdmAt : (setHbm s i x).hdmAt = s.hdmAt := rfl
@[simp] theorem getHbm_setHbm : getHbm (setHbm s i x) i = x := mget_mset_same ..
theorem getHbm_setHbm_ne (h : j ≠ i) : getHbm (setHbm s i x) j = getHbm s j := mget_mset_ne _ _ h
@[simp] theorem getCell_setHbm : getCell (setHbm s i x) j = getCell s j := rfl
@[simp] theorem getPav_setHbm : getPav (setHbm s i x) j = getPav s j := rfl
@[simp] theorem getStore_setHbm : getStore (setHbm s i x) j = getStore s j := rfl
@[simp] theorem getLink_setHbm : getLink (setHbm s i x) j = getLink s j := rfl
@[simp] theorem getFab_setHbm : getFab (setHbm s i x) j = getFab s j := rfl
@[simp] theorem getUcie_setHbm : getUcie (setHbm s i x) j = getUcie s j := rfl
@[simp] theorem getJob_setHbm : getJob (setHbm s i x) j = getJob s j := rfl
@[simp] theorem getObj_setHbm : getObj (setHbm s i x) j = getObj s j := rfl
@[simp] theorem getQueue_setHbm : getQueue (setHbm s i x) j = getQueue s j := rfl
@[simp] theorem getCtx_setHbm : getCtx (setHbm s i x) j = getCtx s j := rfl
@[simp] theorem getEv_setHbm : getEv (setHbm s i x) j = getEv s j := rfl
@[simp] theorem getEvCpu_setHbm : getEvCpu (setHbm s i x) j = getEvCpu s j := rfl
@[simp] theorem getRst_setHbm : getRst (setHbm s i x) j = getRst s j := rfl
@[simp] theorem getRegion_setHbm : getRegion (setHbm s i x) j = getRegion s j := rfl
@[simp] theorem getPort_setHbm : getPort (setHbm s i x) j = getPort s j := rfl

end

/-! ### setLink -/

section
variable (x : Link)

@[simp] theorem setLink_pending : (setLink s i x).pending = s.pending := rfl
@[simp] theorem setLink_free : (setLink s i x).free = s.free := rfl
@[simp] theorem setLink_rdata : (setLink s i x).rdata = s.rdata := rfl
@[simp] theorem setLink_hdmData : (setLink s i x).hdmData = s.hdmData := rfl
@[simp] theorem setLink_ember : (setLink s i x).ember = s.ember := rfl
@[simp] theorem setLink_mem : (setLink s i x).mem = s.mem := rfl
@[simp] theorem setLink_host : (setLink s i x).host = s.host := rfl
@[simp] theorem setLink_ddr5 : (setLink s i x).ddr5 = s.ddr5 := rfl
@[simp] theorem setLink_upsets : (setLink s i x).upsets = s.upsets := rfl
@[simp] theorem setLink_cells : (setLink s i x).cells = s.cells := rfl
@[simp] theorem setLink_pavs : (setLink s i x).pavs = s.pavs := rfl
@[simp] theorem setLink_stores : (setLink s i x).stores = s.stores := rfl
@[simp] theorem setLink_hbms : (setLink s i x).hbms = s.hbms := rfl
@[simp] theorem setLink_fabs : (setLink s i x).fabs = s.fabs := rfl
@[simp] theorem setLink_ucies : (setLink s i x).ucies = s.ucies := rfl
@[simp] theorem setLink_objs : (setLink s i x).objs = s.objs := rfl
@[simp] theorem setLink_objPages : (setLink s i x).objPages = s.objPages := rfl
@[simp] theorem setLink_ports : (setLink s i x).ports = s.ports := rfl
@[simp] theorem setLink_waitMsgs : (setLink s i x).waitMsgs = s.waitMsgs := rfl
@[simp] theorem setLink_jobs : (setLink s i x).jobs = s.jobs := rfl
@[simp] theorem setLink_loads : (setLink s i x).loads = s.loads := rfl
@[simp] theorem setLink_migs : (setLink s i x).migs = s.migs := rfl
@[simp] theorem setLink_exportRuns : (setLink s i x).exportRuns = s.exportRuns := rfl
@[simp] theorem setLink_regions : (setLink s i x).regions = s.regions := rfl
@[simp] theorem setLink_pkgId : (setLink s i x).pkgId = s.pkgId := rfl
@[simp] theorem setLink_pkgSet : (setLink s i x).pkgSet = s.pkgSet := rfl
@[simp] theorem setLink_ctxs : (setLink s i x).ctxs = s.ctxs := rfl
@[simp] theorem setLink_queues : (setLink s i x).queues = s.queues := rfl
@[simp] theorem setLink_errs : (setLink s i x).errs = s.errs := rfl
@[simp] theorem setLink_distGen : (setLink s i x).distGen = s.distGen := rfl
@[simp] theorem setLink_rsts : (setLink s i x).rsts = s.rsts := rfl
@[simp] theorem setLink_pavRsts : (setLink s i x).pavRsts = s.pavRsts := rfl
@[simp] theorem setLink_rstCause : (setLink s i x).rstCause = s.rstCause := rfl
@[simp] theorem setLink_rstAborted : (setLink s i x).rstAborted = s.rstAborted := rfl
@[simp] theorem setLink_rstPkg : (setLink s i x).rstPkg = s.rstPkg := rfl
@[simp] theorem setLink_failTrigger : (setLink s i x).failTrigger = s.failTrigger := rfl
@[simp] theorem setLink_lodgeClk : (setLink s i x).lodgeClk = s.lodgeClk := rfl
@[simp] theorem setLink_imageMem : (setLink s i x).imageMem = s.imageMem := rfl
@[simp] theorem setLink_evs : (setLink s i x).evs = s.evs := rfl
@[simp] theorem setLink_evCpus : (setLink s i x).evCpus = s.evCpus := rfl
@[simp] theorem setLink_rotate : (setLink s i x).rotate = s.rotate := rfl
@[simp] theorem setLink_msix : (setLink s i x).msix = s.msix := rfl
@[simp] theorem setLink_msixMask : (setLink s i x).msixMask = s.msixMask := rfl
@[simp] theorem setLink_msiOut : (setLink s i x).msiOut = s.msiOut := rfl
@[simp] theorem setLink_wires : (setLink s i x).wires = s.wires := rfl
@[simp] theorem setLink_spdmOut : (setLink s i x).spdmOut = s.spdmOut := rfl
@[simp] theorem setLink_sent : (setLink s i x).sent = s.sent := rfl
@[simp] theorem setLink_events : (setLink s i x).events = s.events := rfl
@[simp] theorem setLink_guard : (setLink s i x).guard = s.guard := rfl
@[simp] theorem setLink_driftPlan : (setLink s i x).driftPlan = s.driftPlan := rfl
@[simp] theorem setLink_period : (setLink s i x).period = s.period := rfl
@[simp] theorem setLink_temperAt : (setLink s i x).temperAt = s.temperAt := rfl
@[simp] theorem setLink_flash : (setLink s i x).flash = s.flash := rfl
@[simp] theorem setLink_sec : (setLink s i x).sec = s.sec := rfl
@[simp] theorem setLink_pwr : (setLink s i x).pwr = s.pwr := rfl
@[simp] theorem setLink_hdmAt : (setLink s i x).hdmAt = s.hdmAt := rfl
@[simp] theorem getLink_setLink : getLink (setLink s i x) i = x := mget_mset_same ..
theorem getLink_setLink_ne (h : j ≠ i) : getLink (setLink s i x) j = getLink s j := mget_mset_ne _ _ h
@[simp] theorem getCell_setLink : getCell (setLink s i x) j = getCell s j := rfl
@[simp] theorem getPav_setLink : getPav (setLink s i x) j = getPav s j := rfl
@[simp] theorem getStore_setLink : getStore (setLink s i x) j = getStore s j := rfl
@[simp] theorem getHbm_setLink : getHbm (setLink s i x) j = getHbm s j := rfl
@[simp] theorem getFab_setLink : getFab (setLink s i x) j = getFab s j := rfl
@[simp] theorem getUcie_setLink : getUcie (setLink s i x) j = getUcie s j := rfl
@[simp] theorem getJob_setLink : getJob (setLink s i x) j = getJob s j := rfl
@[simp] theorem getObj_setLink : getObj (setLink s i x) j = getObj s j := rfl
@[simp] theorem getQueue_setLink : getQueue (setLink s i x) j = getQueue s j := rfl
@[simp] theorem getCtx_setLink : getCtx (setLink s i x) j = getCtx s j := rfl
@[simp] theorem getEv_setLink : getEv (setLink s i x) j = getEv s j := rfl
@[simp] theorem getEvCpu_setLink : getEvCpu (setLink s i x) j = getEvCpu s j := rfl
@[simp] theorem getRst_setLink : getRst (setLink s i x) j = getRst s j := rfl
@[simp] theorem getRegion_setLink : getRegion (setLink s i x) j = getRegion s j := rfl
@[simp] theorem getPort_setLink : getPort (setLink s i x) j = getPort s j := rfl

end

/-! ### setFab -/

section
variable (x : Fab)

@[simp] theorem setFab_pending : (setFab s i x).pending = s.pending := rfl
@[simp] theorem setFab_free : (setFab s i x).free = s.free := rfl
@[simp] theorem setFab_rdata : (setFab s i x).rdata = s.rdata := rfl
@[simp] theorem setFab_hdmData : (setFab s i x).hdmData = s.hdmData := rfl
@[simp] theorem setFab_ember : (setFab s i x).ember = s.ember := rfl
@[simp] theorem setFab_mem : (setFab s i x).mem = s.mem := rfl
@[simp] theorem setFab_host : (setFab s i x).host = s.host := rfl
@[simp] theorem setFab_ddr5 : (setFab s i x).ddr5 = s.ddr5 := rfl
@[simp] theorem setFab_upsets : (setFab s i x).upsets = s.upsets := rfl
@[simp] theorem setFab_cells : (setFab s i x).cells = s.cells := rfl
@[simp] theorem setFab_pavs : (setFab s i x).pavs = s.pavs := rfl
@[simp] theorem setFab_stores : (setFab s i x).stores = s.stores := rfl
@[simp] theorem setFab_hbms : (setFab s i x).hbms = s.hbms := rfl
@[simp] theorem setFab_links : (setFab s i x).links = s.links := rfl
@[simp] theorem setFab_ucies : (setFab s i x).ucies = s.ucies := rfl
@[simp] theorem setFab_objs : (setFab s i x).objs = s.objs := rfl
@[simp] theorem setFab_objPages : (setFab s i x).objPages = s.objPages := rfl
@[simp] theorem setFab_ports : (setFab s i x).ports = s.ports := rfl
@[simp] theorem setFab_waitMsgs : (setFab s i x).waitMsgs = s.waitMsgs := rfl
@[simp] theorem setFab_jobs : (setFab s i x).jobs = s.jobs := rfl
@[simp] theorem setFab_loads : (setFab s i x).loads = s.loads := rfl
@[simp] theorem setFab_migs : (setFab s i x).migs = s.migs := rfl
@[simp] theorem setFab_exportRuns : (setFab s i x).exportRuns = s.exportRuns := rfl
@[simp] theorem setFab_regions : (setFab s i x).regions = s.regions := rfl
@[simp] theorem setFab_pkgId : (setFab s i x).pkgId = s.pkgId := rfl
@[simp] theorem setFab_pkgSet : (setFab s i x).pkgSet = s.pkgSet := rfl
@[simp] theorem setFab_ctxs : (setFab s i x).ctxs = s.ctxs := rfl
@[simp] theorem setFab_queues : (setFab s i x).queues = s.queues := rfl
@[simp] theorem setFab_errs : (setFab s i x).errs = s.errs := rfl
@[simp] theorem setFab_distGen : (setFab s i x).distGen = s.distGen := rfl
@[simp] theorem setFab_rsts : (setFab s i x).rsts = s.rsts := rfl
@[simp] theorem setFab_pavRsts : (setFab s i x).pavRsts = s.pavRsts := rfl
@[simp] theorem setFab_rstCause : (setFab s i x).rstCause = s.rstCause := rfl
@[simp] theorem setFab_rstAborted : (setFab s i x).rstAborted = s.rstAborted := rfl
@[simp] theorem setFab_rstPkg : (setFab s i x).rstPkg = s.rstPkg := rfl
@[simp] theorem setFab_failTrigger : (setFab s i x).failTrigger = s.failTrigger := rfl
@[simp] theorem setFab_lodgeClk : (setFab s i x).lodgeClk = s.lodgeClk := rfl
@[simp] theorem setFab_imageMem : (setFab s i x).imageMem = s.imageMem := rfl
@[simp] theorem setFab_evs : (setFab s i x).evs = s.evs := rfl
@[simp] theorem setFab_evCpus : (setFab s i x).evCpus = s.evCpus := rfl
@[simp] theorem setFab_rotate : (setFab s i x).rotate = s.rotate := rfl
@[simp] theorem setFab_msix : (setFab s i x).msix = s.msix := rfl
@[simp] theorem setFab_msixMask : (setFab s i x).msixMask = s.msixMask := rfl
@[simp] theorem setFab_msiOut : (setFab s i x).msiOut = s.msiOut := rfl
@[simp] theorem setFab_wires : (setFab s i x).wires = s.wires := rfl
@[simp] theorem setFab_spdmOut : (setFab s i x).spdmOut = s.spdmOut := rfl
@[simp] theorem setFab_sent : (setFab s i x).sent = s.sent := rfl
@[simp] theorem setFab_events : (setFab s i x).events = s.events := rfl
@[simp] theorem setFab_guard : (setFab s i x).guard = s.guard := rfl
@[simp] theorem setFab_driftPlan : (setFab s i x).driftPlan = s.driftPlan := rfl
@[simp] theorem setFab_period : (setFab s i x).period = s.period := rfl
@[simp] theorem setFab_temperAt : (setFab s i x).temperAt = s.temperAt := rfl
@[simp] theorem setFab_flash : (setFab s i x).flash = s.flash := rfl
@[simp] theorem setFab_sec : (setFab s i x).sec = s.sec := rfl
@[simp] theorem setFab_pwr : (setFab s i x).pwr = s.pwr := rfl
@[simp] theorem setFab_hdmAt : (setFab s i x).hdmAt = s.hdmAt := rfl
@[simp] theorem getFab_setFab : getFab (setFab s i x) i = x := mget_mset_same ..
theorem getFab_setFab_ne (h : j ≠ i) : getFab (setFab s i x) j = getFab s j := mget_mset_ne _ _ h
@[simp] theorem getCell_setFab : getCell (setFab s i x) j = getCell s j := rfl
@[simp] theorem getPav_setFab : getPav (setFab s i x) j = getPav s j := rfl
@[simp] theorem getStore_setFab : getStore (setFab s i x) j = getStore s j := rfl
@[simp] theorem getHbm_setFab : getHbm (setFab s i x) j = getHbm s j := rfl
@[simp] theorem getLink_setFab : getLink (setFab s i x) j = getLink s j := rfl
@[simp] theorem getUcie_setFab : getUcie (setFab s i x) j = getUcie s j := rfl
@[simp] theorem getJob_setFab : getJob (setFab s i x) j = getJob s j := rfl
@[simp] theorem getObj_setFab : getObj (setFab s i x) j = getObj s j := rfl
@[simp] theorem getQueue_setFab : getQueue (setFab s i x) j = getQueue s j := rfl
@[simp] theorem getCtx_setFab : getCtx (setFab s i x) j = getCtx s j := rfl
@[simp] theorem getEv_setFab : getEv (setFab s i x) j = getEv s j := rfl
@[simp] theorem getEvCpu_setFab : getEvCpu (setFab s i x) j = getEvCpu s j := rfl
@[simp] theorem getRst_setFab : getRst (setFab s i x) j = getRst s j := rfl
@[simp] theorem getRegion_setFab : getRegion (setFab s i x) j = getRegion s j := rfl
@[simp] theorem getPort_setFab : getPort (setFab s i x) j = getPort s j := rfl

end

/-! ### setUcie -/

section
variable (x : Ucie)

@[simp] theorem setUcie_pending : (setUcie s i x).pending = s.pending := rfl
@[simp] theorem setUcie_free : (setUcie s i x).free = s.free := rfl
@[simp] theorem setUcie_rdata : (setUcie s i x).rdata = s.rdata := rfl
@[simp] theorem setUcie_hdmData : (setUcie s i x).hdmData = s.hdmData := rfl
@[simp] theorem setUcie_ember : (setUcie s i x).ember = s.ember := rfl
@[simp] theorem setUcie_mem : (setUcie s i x).mem = s.mem := rfl
@[simp] theorem setUcie_host : (setUcie s i x).host = s.host := rfl
@[simp] theorem setUcie_ddr5 : (setUcie s i x).ddr5 = s.ddr5 := rfl
@[simp] theorem setUcie_upsets : (setUcie s i x).upsets = s.upsets := rfl
@[simp] theorem setUcie_cells : (setUcie s i x).cells = s.cells := rfl
@[simp] theorem setUcie_pavs : (setUcie s i x).pavs = s.pavs := rfl
@[simp] theorem setUcie_stores : (setUcie s i x).stores = s.stores := rfl
@[simp] theorem setUcie_hbms : (setUcie s i x).hbms = s.hbms := rfl
@[simp] theorem setUcie_links : (setUcie s i x).links = s.links := rfl
@[simp] theorem setUcie_fabs : (setUcie s i x).fabs = s.fabs := rfl
@[simp] theorem setUcie_objs : (setUcie s i x).objs = s.objs := rfl
@[simp] theorem setUcie_objPages : (setUcie s i x).objPages = s.objPages := rfl
@[simp] theorem setUcie_ports : (setUcie s i x).ports = s.ports := rfl
@[simp] theorem setUcie_waitMsgs : (setUcie s i x).waitMsgs = s.waitMsgs := rfl
@[simp] theorem setUcie_jobs : (setUcie s i x).jobs = s.jobs := rfl
@[simp] theorem setUcie_loads : (setUcie s i x).loads = s.loads := rfl
@[simp] theorem setUcie_migs : (setUcie s i x).migs = s.migs := rfl
@[simp] theorem setUcie_exportRuns : (setUcie s i x).exportRuns = s.exportRuns := rfl
@[simp] theorem setUcie_regions : (setUcie s i x).regions = s.regions := rfl
@[simp] theorem setUcie_pkgId : (setUcie s i x).pkgId = s.pkgId := rfl
@[simp] theorem setUcie_pkgSet : (setUcie s i x).pkgSet = s.pkgSet := rfl
@[simp] theorem setUcie_ctxs : (setUcie s i x).ctxs = s.ctxs := rfl
@[simp] theorem setUcie_queues : (setUcie s i x).queues = s.queues := rfl
@[simp] theorem setUcie_errs : (setUcie s i x).errs = s.errs := rfl
@[simp] theorem setUcie_distGen : (setUcie s i x).distGen = s.distGen := rfl
@[simp] theorem setUcie_rsts : (setUcie s i x).rsts = s.rsts := rfl
@[simp] theorem setUcie_pavRsts : (setUcie s i x).pavRsts = s.pavRsts := rfl
@[simp] theorem setUcie_rstCause : (setUcie s i x).rstCause = s.rstCause := rfl
@[simp] theorem setUcie_rstAborted : (setUcie s i x).rstAborted = s.rstAborted := rfl
@[simp] theorem setUcie_rstPkg : (setUcie s i x).rstPkg = s.rstPkg := rfl
@[simp] theorem setUcie_failTrigger : (setUcie s i x).failTrigger = s.failTrigger := rfl
@[simp] theorem setUcie_lodgeClk : (setUcie s i x).lodgeClk = s.lodgeClk := rfl
@[simp] theorem setUcie_imageMem : (setUcie s i x).imageMem = s.imageMem := rfl
@[simp] theorem setUcie_evs : (setUcie s i x).evs = s.evs := rfl
@[simp] theorem setUcie_evCpus : (setUcie s i x).evCpus = s.evCpus := rfl
@[simp] theorem setUcie_rotate : (setUcie s i x).rotate = s.rotate := rfl
@[simp] theorem setUcie_msix : (setUcie s i x).msix = s.msix := rfl
@[simp] theorem setUcie_msixMask : (setUcie s i x).msixMask = s.msixMask := rfl
@[simp] theorem setUcie_msiOut : (setUcie s i x).msiOut = s.msiOut := rfl
@[simp] theorem setUcie_wires : (setUcie s i x).wires = s.wires := rfl
@[simp] theorem setUcie_spdmOut : (setUcie s i x).spdmOut = s.spdmOut := rfl
@[simp] theorem setUcie_sent : (setUcie s i x).sent = s.sent := rfl
@[simp] theorem setUcie_events : (setUcie s i x).events = s.events := rfl
@[simp] theorem setUcie_guard : (setUcie s i x).guard = s.guard := rfl
@[simp] theorem setUcie_driftPlan : (setUcie s i x).driftPlan = s.driftPlan := rfl
@[simp] theorem setUcie_period : (setUcie s i x).period = s.period := rfl
@[simp] theorem setUcie_temperAt : (setUcie s i x).temperAt = s.temperAt := rfl
@[simp] theorem setUcie_flash : (setUcie s i x).flash = s.flash := rfl
@[simp] theorem setUcie_sec : (setUcie s i x).sec = s.sec := rfl
@[simp] theorem setUcie_pwr : (setUcie s i x).pwr = s.pwr := rfl
@[simp] theorem setUcie_hdmAt : (setUcie s i x).hdmAt = s.hdmAt := rfl
@[simp] theorem getUcie_setUcie : getUcie (setUcie s i x) i = x := mget_mset_same ..
theorem getUcie_setUcie_ne (h : j ≠ i) : getUcie (setUcie s i x) j = getUcie s j := mget_mset_ne _ _ h
@[simp] theorem getCell_setUcie : getCell (setUcie s i x) j = getCell s j := rfl
@[simp] theorem getPav_setUcie : getPav (setUcie s i x) j = getPav s j := rfl
@[simp] theorem getStore_setUcie : getStore (setUcie s i x) j = getStore s j := rfl
@[simp] theorem getHbm_setUcie : getHbm (setUcie s i x) j = getHbm s j := rfl
@[simp] theorem getLink_setUcie : getLink (setUcie s i x) j = getLink s j := rfl
@[simp] theorem getFab_setUcie : getFab (setUcie s i x) j = getFab s j := rfl
@[simp] theorem getJob_setUcie : getJob (setUcie s i x) j = getJob s j := rfl
@[simp] theorem getObj_setUcie : getObj (setUcie s i x) j = getObj s j := rfl
@[simp] theorem getQueue_setUcie : getQueue (setUcie s i x) j = getQueue s j := rfl
@[simp] theorem getCtx_setUcie : getCtx (setUcie s i x) j = getCtx s j := rfl
@[simp] theorem getEv_setUcie : getEv (setUcie s i x) j = getEv s j := rfl
@[simp] theorem getEvCpu_setUcie : getEvCpu (setUcie s i x) j = getEvCpu s j := rfl
@[simp] theorem getRst_setUcie : getRst (setUcie s i x) j = getRst s j := rfl
@[simp] theorem getRegion_setUcie : getRegion (setUcie s i x) j = getRegion s j := rfl
@[simp] theorem getPort_setUcie : getPort (setUcie s i x) j = getPort s j := rfl

end

/-! ### setJob -/

section
variable (x : Job)

@[simp] theorem setJob_pending : (setJob s i x).pending = s.pending := rfl
@[simp] theorem setJob_free : (setJob s i x).free = s.free := rfl
@[simp] theorem setJob_rdata : (setJob s i x).rdata = s.rdata := rfl
@[simp] theorem setJob_hdmData : (setJob s i x).hdmData = s.hdmData := rfl
@[simp] theorem setJob_ember : (setJob s i x).ember = s.ember := rfl
@[simp] theorem setJob_mem : (setJob s i x).mem = s.mem := rfl
@[simp] theorem setJob_host : (setJob s i x).host = s.host := rfl
@[simp] theorem setJob_ddr5 : (setJob s i x).ddr5 = s.ddr5 := rfl
@[simp] theorem setJob_upsets : (setJob s i x).upsets = s.upsets := rfl
@[simp] theorem setJob_cells : (setJob s i x).cells = s.cells := rfl
@[simp] theorem setJob_pavs : (setJob s i x).pavs = s.pavs := rfl
@[simp] theorem setJob_stores : (setJob s i x).stores = s.stores := rfl
@[simp] theorem setJob_hbms : (setJob s i x).hbms = s.hbms := rfl
@[simp] theorem setJob_links : (setJob s i x).links = s.links := rfl
@[simp] theorem setJob_fabs : (setJob s i x).fabs = s.fabs := rfl
@[simp] theorem setJob_ucies : (setJob s i x).ucies = s.ucies := rfl
@[simp] theorem setJob_objs : (setJob s i x).objs = s.objs := rfl
@[simp] theorem setJob_objPages : (setJob s i x).objPages = s.objPages := rfl
@[simp] theorem setJob_ports : (setJob s i x).ports = s.ports := rfl
@[simp] theorem setJob_waitMsgs : (setJob s i x).waitMsgs = s.waitMsgs := rfl
@[simp] theorem setJob_loads : (setJob s i x).loads = s.loads := rfl
@[simp] theorem setJob_migs : (setJob s i x).migs = s.migs := rfl
@[simp] theorem setJob_exportRuns : (setJob s i x).exportRuns = s.exportRuns := rfl
@[simp] theorem setJob_regions : (setJob s i x).regions = s.regions := rfl
@[simp] theorem setJob_pkgId : (setJob s i x).pkgId = s.pkgId := rfl
@[simp] theorem setJob_pkgSet : (setJob s i x).pkgSet = s.pkgSet := rfl
@[simp] theorem setJob_ctxs : (setJob s i x).ctxs = s.ctxs := rfl
@[simp] theorem setJob_queues : (setJob s i x).queues = s.queues := rfl
@[simp] theorem setJob_errs : (setJob s i x).errs = s.errs := rfl
@[simp] theorem setJob_distGen : (setJob s i x).distGen = s.distGen := rfl
@[simp] theorem setJob_rsts : (setJob s i x).rsts = s.rsts := rfl
@[simp] theorem setJob_pavRsts : (setJob s i x).pavRsts = s.pavRsts := rfl
@[simp] theorem setJob_rstCause : (setJob s i x).rstCause = s.rstCause := rfl
@[simp] theorem setJob_rstAborted : (setJob s i x).rstAborted = s.rstAborted := rfl
@[simp] theorem setJob_rstPkg : (setJob s i x).rstPkg = s.rstPkg := rfl
@[simp] theorem setJob_failTrigger : (setJob s i x).failTrigger = s.failTrigger := rfl
@[simp] theorem setJob_lodgeClk : (setJob s i x).lodgeClk = s.lodgeClk := rfl
@[simp] theorem setJob_imageMem : (setJob s i x).imageMem = s.imageMem := rfl
@[simp] theorem setJob_evs : (setJob s i x).evs = s.evs := rfl
@[simp] theorem setJob_evCpus : (setJob s i x).evCpus = s.evCpus := rfl
@[simp] theorem setJob_rotate : (setJob s i x).rotate = s.rotate := rfl
@[simp] theorem setJob_msix : (setJob s i x).msix = s.msix := rfl
@[simp] theorem setJob_msixMask : (setJob s i x).msixMask = s.msixMask := rfl
@[simp] theorem setJob_msiOut : (setJob s i x).msiOut = s.msiOut := rfl
@[simp] theorem setJob_wires : (setJob s i x).wires = s.wires := rfl
@[simp] theorem setJob_spdmOut : (setJob s i x).spdmOut = s.spdmOut := rfl
@[simp] theorem setJob_sent : (setJob s i x).sent = s.sent := rfl
@[simp] theorem setJob_events : (setJob s i x).events = s.events := rfl
@[simp] theorem setJob_guard : (setJob s i x).guard = s.guard := rfl
@[simp] theorem setJob_driftPlan : (setJob s i x).driftPlan = s.driftPlan := rfl
@[simp] theorem setJob_period : (setJob s i x).period = s.period := rfl
@[simp] theorem setJob_temperAt : (setJob s i x).temperAt = s.temperAt := rfl
@[simp] theorem setJob_flash : (setJob s i x).flash = s.flash := rfl
@[simp] theorem setJob_sec : (setJob s i x).sec = s.sec := rfl
@[simp] theorem setJob_pwr : (setJob s i x).pwr = s.pwr := rfl
@[simp] theorem setJob_hdmAt : (setJob s i x).hdmAt = s.hdmAt := rfl
@[simp] theorem getJob_setJob : getJob (setJob s i x) i = x := mget_mset_same ..
theorem getJob_setJob_ne (h : j ≠ i) : getJob (setJob s i x) j = getJob s j := mget_mset_ne _ _ h
@[simp] theorem getCell_setJob : getCell (setJob s i x) j = getCell s j := rfl
@[simp] theorem getPav_setJob : getPav (setJob s i x) j = getPav s j := rfl
@[simp] theorem getStore_setJob : getStore (setJob s i x) j = getStore s j := rfl
@[simp] theorem getHbm_setJob : getHbm (setJob s i x) j = getHbm s j := rfl
@[simp] theorem getLink_setJob : getLink (setJob s i x) j = getLink s j := rfl
@[simp] theorem getFab_setJob : getFab (setJob s i x) j = getFab s j := rfl
@[simp] theorem getUcie_setJob : getUcie (setJob s i x) j = getUcie s j := rfl
@[simp] theorem getObj_setJob : getObj (setJob s i x) j = getObj s j := rfl
@[simp] theorem getQueue_setJob : getQueue (setJob s i x) j = getQueue s j := rfl
@[simp] theorem getCtx_setJob : getCtx (setJob s i x) j = getCtx s j := rfl
@[simp] theorem getEv_setJob : getEv (setJob s i x) j = getEv s j := rfl
@[simp] theorem getEvCpu_setJob : getEvCpu (setJob s i x) j = getEvCpu s j := rfl
@[simp] theorem getRst_setJob : getRst (setJob s i x) j = getRst s j := rfl
@[simp] theorem getRegion_setJob : getRegion (setJob s i x) j = getRegion s j := rfl
@[simp] theorem getPort_setJob : getPort (setJob s i x) j = getPort s j := rfl

end

/-! ### setObj -/

section
variable (x : SyncObj)

@[simp] theorem setObj_pending : (setObj s i x).pending = s.pending := rfl
@[simp] theorem setObj_free : (setObj s i x).free = s.free := rfl
@[simp] theorem setObj_rdata : (setObj s i x).rdata = s.rdata := rfl
@[simp] theorem setObj_hdmData : (setObj s i x).hdmData = s.hdmData := rfl
@[simp] theorem setObj_ember : (setObj s i x).ember = s.ember := rfl
@[simp] theorem setObj_mem : (setObj s i x).mem = s.mem := rfl
@[simp] theorem setObj_host : (setObj s i x).host = s.host := rfl
@[simp] theorem setObj_ddr5 : (setObj s i x).ddr5 = s.ddr5 := rfl
@[simp] theorem setObj_upsets : (setObj s i x).upsets = s.upsets := rfl
@[simp] theorem setObj_cells : (setObj s i x).cells = s.cells := rfl
@[simp] theorem setObj_pavs : (setObj s i x).pavs = s.pavs := rfl
@[simp] theorem setObj_stores : (setObj s i x).stores = s.stores := rfl
@[simp] theorem setObj_hbms : (setObj s i x).hbms = s.hbms := rfl
@[simp] theorem setObj_links : (setObj s i x).links = s.links := rfl
@[simp] theorem setObj_fabs : (setObj s i x).fabs = s.fabs := rfl
@[simp] theorem setObj_ucies : (setObj s i x).ucies = s.ucies := rfl
@[simp] theorem setObj_objPages : (setObj s i x).objPages = s.objPages := rfl
@[simp] theorem setObj_ports : (setObj s i x).ports = s.ports := rfl
@[simp] theorem setObj_waitMsgs : (setObj s i x).waitMsgs = s.waitMsgs := rfl
@[simp] theorem setObj_jobs : (setObj s i x).jobs = s.jobs := rfl
@[simp] theorem setObj_loads : (setObj s i x).loads = s.loads := rfl
@[simp] theorem setObj_migs : (setObj s i x).migs = s.migs := rfl
@[simp] theorem setObj_exportRuns : (setObj s i x).exportRuns = s.exportRuns := rfl
@[simp] theorem setObj_regions : (setObj s i x).regions = s.regions := rfl
@[simp] theorem setObj_pkgId : (setObj s i x).pkgId = s.pkgId := rfl
@[simp] theorem setObj_pkgSet : (setObj s i x).pkgSet = s.pkgSet := rfl
@[simp] theorem setObj_ctxs : (setObj s i x).ctxs = s.ctxs := rfl
@[simp] theorem setObj_queues : (setObj s i x).queues = s.queues := rfl
@[simp] theorem setObj_errs : (setObj s i x).errs = s.errs := rfl
@[simp] theorem setObj_distGen : (setObj s i x).distGen = s.distGen := rfl
@[simp] theorem setObj_rsts : (setObj s i x).rsts = s.rsts := rfl
@[simp] theorem setObj_pavRsts : (setObj s i x).pavRsts = s.pavRsts := rfl
@[simp] theorem setObj_rstCause : (setObj s i x).rstCause = s.rstCause := rfl
@[simp] theorem setObj_rstAborted : (setObj s i x).rstAborted = s.rstAborted := rfl
@[simp] theorem setObj_rstPkg : (setObj s i x).rstPkg = s.rstPkg := rfl
@[simp] theorem setObj_failTrigger : (setObj s i x).failTrigger = s.failTrigger := rfl
@[simp] theorem setObj_lodgeClk : (setObj s i x).lodgeClk = s.lodgeClk := rfl
@[simp] theorem setObj_imageMem : (setObj s i x).imageMem = s.imageMem := rfl
@[simp] theorem setObj_evs : (setObj s i x).evs = s.evs := rfl
@[simp] theorem setObj_evCpus : (setObj s i x).evCpus = s.evCpus := rfl
@[simp] theorem setObj_rotate : (setObj s i x).rotate = s.rotate := rfl
@[simp] theorem setObj_msix : (setObj s i x).msix = s.msix := rfl
@[simp] theorem setObj_msixMask : (setObj s i x).msixMask = s.msixMask := rfl
@[simp] theorem setObj_msiOut : (setObj s i x).msiOut = s.msiOut := rfl
@[simp] theorem setObj_wires : (setObj s i x).wires = s.wires := rfl
@[simp] theorem setObj_spdmOut : (setObj s i x).spdmOut = s.spdmOut := rfl
@[simp] theorem setObj_sent : (setObj s i x).sent = s.sent := rfl
@[simp] theorem setObj_events : (setObj s i x).events = s.events := rfl
@[simp] theorem setObj_guard : (setObj s i x).guard = s.guard := rfl
@[simp] theorem setObj_driftPlan : (setObj s i x).driftPlan = s.driftPlan := rfl
@[simp] theorem setObj_period : (setObj s i x).period = s.period := rfl
@[simp] theorem setObj_temperAt : (setObj s i x).temperAt = s.temperAt := rfl
@[simp] theorem setObj_flash : (setObj s i x).flash = s.flash := rfl
@[simp] theorem setObj_sec : (setObj s i x).sec = s.sec := rfl
@[simp] theorem setObj_pwr : (setObj s i x).pwr = s.pwr := rfl
@[simp] theorem setObj_hdmAt : (setObj s i x).hdmAt = s.hdmAt := rfl
@[simp] theorem getObj_setObj : getObj (setObj s i x) i = x := mget_mset_same ..
theorem getObj_setObj_ne (h : j ≠ i) : getObj (setObj s i x) j = getObj s j := mget_mset_ne _ _ h
@[simp] theorem getCell_setObj : getCell (setObj s i x) j = getCell s j := rfl
@[simp] theorem getPav_setObj : getPav (setObj s i x) j = getPav s j := rfl
@[simp] theorem getStore_setObj : getStore (setObj s i x) j = getStore s j := rfl
@[simp] theorem getHbm_setObj : getHbm (setObj s i x) j = getHbm s j := rfl
@[simp] theorem getLink_setObj : getLink (setObj s i x) j = getLink s j := rfl
@[simp] theorem getFab_setObj : getFab (setObj s i x) j = getFab s j := rfl
@[simp] theorem getUcie_setObj : getUcie (setObj s i x) j = getUcie s j := rfl
@[simp] theorem getJob_setObj : getJob (setObj s i x) j = getJob s j := rfl
@[simp] theorem getQueue_setObj : getQueue (setObj s i x) j = getQueue s j := rfl
@[simp] theorem getCtx_setObj : getCtx (setObj s i x) j = getCtx s j := rfl
@[simp] theorem getEv_setObj : getEv (setObj s i x) j = getEv s j := rfl
@[simp] theorem getEvCpu_setObj : getEvCpu (setObj s i x) j = getEvCpu s j := rfl
@[simp] theorem getRst_setObj : getRst (setObj s i x) j = getRst s j := rfl
@[simp] theorem getRegion_setObj : getRegion (setObj s i x) j = getRegion s j := rfl
@[simp] theorem getPort_setObj : getPort (setObj s i x) j = getPort s j := rfl

end

/-! ### setQueue -/

section
variable (x : Queue)

@[simp] theorem setQueue_pending : (setQueue s i x).pending = s.pending := rfl
@[simp] theorem setQueue_free : (setQueue s i x).free = s.free := rfl
@[simp] theorem setQueue_rdata : (setQueue s i x).rdata = s.rdata := rfl
@[simp] theorem setQueue_hdmData : (setQueue s i x).hdmData = s.hdmData := rfl
@[simp] theorem setQueue_ember : (setQueue s i x).ember = s.ember := rfl
@[simp] theorem setQueue_mem : (setQueue s i x).mem = s.mem := rfl
@[simp] theorem setQueue_host : (setQueue s i x).host = s.host := rfl
@[simp] theorem setQueue_ddr5 : (setQueue s i x).ddr5 = s.ddr5 := rfl
@[simp] theorem setQueue_upsets : (setQueue s i x).upsets = s.upsets := rfl
@[simp] theorem setQueue_cells : (setQueue s i x).cells = s.cells := rfl
@[simp] theorem setQueue_pavs : (setQueue s i x).pavs = s.pavs := rfl
@[simp] theorem setQueue_stores : (setQueue s i x).stores = s.stores := rfl
@[simp] theorem setQueue_hbms : (setQueue s i x).hbms = s.hbms := rfl
@[simp] theorem setQueue_links : (setQueue s i x).links = s.links := rfl
@[simp] theorem setQueue_fabs : (setQueue s i x).fabs = s.fabs := rfl
@[simp] theorem setQueue_ucies : (setQueue s i x).ucies = s.ucies := rfl
@[simp] theorem setQueue_objs : (setQueue s i x).objs = s.objs := rfl
@[simp] theorem setQueue_objPages : (setQueue s i x).objPages = s.objPages := rfl
@[simp] theorem setQueue_ports : (setQueue s i x).ports = s.ports := rfl
@[simp] theorem setQueue_waitMsgs : (setQueue s i x).waitMsgs = s.waitMsgs := rfl
@[simp] theorem setQueue_jobs : (setQueue s i x).jobs = s.jobs := rfl
@[simp] theorem setQueue_loads : (setQueue s i x).loads = s.loads := rfl
@[simp] theorem setQueue_migs : (setQueue s i x).migs = s.migs := rfl
@[simp] theorem setQueue_exportRuns : (setQueue s i x).exportRuns = s.exportRuns := rfl
@[simp] theorem setQueue_regions : (setQueue s i x).regions = s.regions := rfl
@[simp] theorem setQueue_pkgId : (setQueue s i x).pkgId = s.pkgId := rfl
@[simp] theorem setQueue_pkgSet : (setQueue s i x).pkgSet = s.pkgSet := rfl
@[simp] theorem setQueue_ctxs : (setQueue s i x).ctxs = s.ctxs := rfl
@[simp] theorem setQueue_errs : (setQueue s i x).errs = s.errs := rfl
@[simp] theorem setQueue_distGen : (setQueue s i x).distGen = s.distGen := rfl
@[simp] theorem setQueue_rsts : (setQueue s i x).rsts = s.rsts := rfl
@[simp] theorem setQueue_pavRsts : (setQueue s i x).pavRsts = s.pavRsts := rfl
@[simp] theorem setQueue_rstCause : (setQueue s i x).rstCause = s.rstCause := rfl
@[simp] theorem setQueue_rstAborted : (setQueue s i x).rstAborted = s.rstAborted := rfl
@[simp] theorem setQueue_rstPkg : (setQueue s i x).rstPkg = s.rstPkg := rfl
@[simp] theorem setQueue_failTrigger : (setQueue s i x).failTrigger = s.failTrigger := rfl
@[simp] theorem setQueue_lodgeClk : (setQueue s i x).lodgeClk = s.lodgeClk := rfl
@[simp] theorem setQueue_imageMem : (setQueue s i x).imageMem = s.imageMem := rfl
@[simp] theorem setQueue_evs : (setQueue s i x).evs = s.evs := rfl
@[simp] theorem setQueue_evCpus : (setQueue s i x).evCpus = s.evCpus := rfl
@[simp] theorem setQueue_rotate : (setQueue s i x).rotate = s.rotate := rfl
@[simp] theorem setQueue_msix : (setQueue s i x).msix = s.msix := rfl
@[simp] theorem setQueue_msixMask : (setQueue s i x).msixMask = s.msixMask := rfl
@[simp] theorem setQueue_msiOut : (setQueue s i x).msiOut = s.msiOut := rfl
@[simp] theorem setQueue_wires : (setQueue s i x).wires = s.wires := rfl
@[simp] theorem setQueue_spdmOut : (setQueue s i x).spdmOut = s.spdmOut := rfl
@[simp] theorem setQueue_sent : (setQueue s i x).sent = s.sent := rfl
@[simp] theorem setQueue_events : (setQueue s i x).events = s.events := rfl
@[simp] theorem setQueue_guard : (setQueue s i x).guard = s.guard := rfl
@[simp] theorem setQueue_driftPlan : (setQueue s i x).driftPlan = s.driftPlan := rfl
@[simp] theorem setQueue_period : (setQueue s i x).period = s.period := rfl
@[simp] theorem setQueue_temperAt : (setQueue s i x).temperAt = s.temperAt := rfl
@[simp] theorem setQueue_flash : (setQueue s i x).flash = s.flash := rfl
@[simp] theorem setQueue_sec : (setQueue s i x).sec = s.sec := rfl
@[simp] theorem setQueue_pwr : (setQueue s i x).pwr = s.pwr := rfl
@[simp] theorem setQueue_hdmAt : (setQueue s i x).hdmAt = s.hdmAt := rfl
@[simp] theorem getQueue_setQueue : getQueue (setQueue s i x) i = x := mget_mset_same ..
theorem getQueue_setQueue_ne (h : j ≠ i) : getQueue (setQueue s i x) j = getQueue s j := mget_mset_ne _ _ h
@[simp] theorem getCell_setQueue : getCell (setQueue s i x) j = getCell s j := rfl
@[simp] theorem getPav_setQueue : getPav (setQueue s i x) j = getPav s j := rfl
@[simp] theorem getStore_setQueue : getStore (setQueue s i x) j = getStore s j := rfl
@[simp] theorem getHbm_setQueue : getHbm (setQueue s i x) j = getHbm s j := rfl
@[simp] theorem getLink_setQueue : getLink (setQueue s i x) j = getLink s j := rfl
@[simp] theorem getFab_setQueue : getFab (setQueue s i x) j = getFab s j := rfl
@[simp] theorem getUcie_setQueue : getUcie (setQueue s i x) j = getUcie s j := rfl
@[simp] theorem getJob_setQueue : getJob (setQueue s i x) j = getJob s j := rfl
@[simp] theorem getObj_setQueue : getObj (setQueue s i x) j = getObj s j := rfl
@[simp] theorem getCtx_setQueue : getCtx (setQueue s i x) j = getCtx s j := rfl
@[simp] theorem getEv_setQueue : getEv (setQueue s i x) j = getEv s j := rfl
@[simp] theorem getEvCpu_setQueue : getEvCpu (setQueue s i x) j = getEvCpu s j := rfl
@[simp] theorem getRst_setQueue : getRst (setQueue s i x) j = getRst s j := rfl
@[simp] theorem getRegion_setQueue : getRegion (setQueue s i x) j = getRegion s j := rfl
@[simp] theorem getPort_setQueue : getPort (setQueue s i x) j = getPort s j := rfl

end

/-! ### setCtx -/

section
variable (x : Ctx)

@[simp] theorem setCtx_pending : (setCtx s i x).pending = s.pending := rfl
@[simp] theorem setCtx_free : (setCtx s i x).free = s.free := rfl
@[simp] theorem setCtx_rdata : (setCtx s i x).rdata = s.rdata := rfl
@[simp] theorem setCtx_hdmData : (setCtx s i x).hdmData = s.hdmData := rfl
@[simp] theorem setCtx_ember : (setCtx s i x).ember = s.ember := rfl
@[simp] theorem setCtx_mem : (setCtx s i x).mem = s.mem := rfl
@[simp] theorem setCtx_host : (setCtx s i x).host = s.host := rfl
@[simp] theorem setCtx_ddr5 : (setCtx s i x).ddr5 = s.ddr5 := rfl
@[simp] theorem setCtx_upsets : (setCtx s i x).upsets = s.upsets := rfl
@[simp] theorem setCtx_cells : (setCtx s i x).cells = s.cells := rfl
@[simp] theorem setCtx_pavs : (setCtx s i x).pavs = s.pavs := rfl
@[simp] theorem setCtx_stores : (setCtx s i x).stores = s.stores := rfl
@[simp] theorem setCtx_hbms : (setCtx s i x).hbms = s.hbms := rfl
@[simp] theorem setCtx_links : (setCtx s i x).links = s.links := rfl
@[simp] theorem setCtx_fabs : (setCtx s i x).fabs = s.fabs := rfl
@[simp] theorem setCtx_ucies : (setCtx s i x).ucies = s.ucies := rfl
@[simp] theorem setCtx_objs : (setCtx s i x).objs = s.objs := rfl
@[simp] theorem setCtx_objPages : (setCtx s i x).objPages = s.objPages := rfl
@[simp] theorem setCtx_ports : (setCtx s i x).ports = s.ports := rfl
@[simp] theorem setCtx_waitMsgs : (setCtx s i x).waitMsgs = s.waitMsgs := rfl
@[simp] theorem setCtx_jobs : (setCtx s i x).jobs = s.jobs := rfl
@[simp] theorem setCtx_loads : (setCtx s i x).loads = s.loads := rfl
@[simp] theorem setCtx_migs : (setCtx s i x).migs = s.migs := rfl
@[simp] theorem setCtx_exportRuns : (setCtx s i x).exportRuns = s.exportRuns := rfl
@[simp] theorem setCtx_regions : (setCtx s i x).regions = s.regions := rfl
@[simp] theorem setCtx_pkgId : (setCtx s i x).pkgId = s.pkgId := rfl
@[simp] theorem setCtx_pkgSet : (setCtx s i x).pkgSet = s.pkgSet := rfl
@[simp] theorem setCtx_queues : (setCtx s i x).queues = s.queues := rfl
@[simp] theorem setCtx_errs : (setCtx s i x).errs = s.errs := rfl
@[simp] theorem setCtx_distGen : (setCtx s i x).distGen = s.distGen := rfl
@[simp] theorem setCtx_rsts : (setCtx s i x).rsts = s.rsts := rfl
@[simp] theorem setCtx_pavRsts : (setCtx s i x).pavRsts = s.pavRsts := rfl
@[simp] theorem setCtx_rstCause : (setCtx s i x).rstCause = s.rstCause := rfl
@[simp] theorem setCtx_rstAborted : (setCtx s i x).rstAborted = s.rstAborted := rfl
@[simp] theorem setCtx_rstPkg : (setCtx s i x).rstPkg = s.rstPkg := rfl
@[simp] theorem setCtx_failTrigger : (setCtx s i x).failTrigger = s.failTrigger := rfl
@[simp] theorem setCtx_lodgeClk : (setCtx s i x).lodgeClk = s.lodgeClk := rfl
@[simp] theorem setCtx_imageMem : (setCtx s i x).imageMem = s.imageMem := rfl
@[simp] theorem setCtx_evs : (setCtx s i x).evs = s.evs := rfl
@[simp] theorem setCtx_evCpus : (setCtx s i x).evCpus = s.evCpus := rfl
@[simp] theorem setCtx_rotate : (setCtx s i x).rotate = s.rotate := rfl
@[simp] theorem setCtx_msix : (setCtx s i x).msix = s.msix := rfl
@[simp] theorem setCtx_msixMask : (setCtx s i x).msixMask = s.msixMask := rfl
@[simp] theorem setCtx_msiOut : (setCtx s i x).msiOut = s.msiOut := rfl
@[simp] theorem setCtx_wires : (setCtx s i x).wires = s.wires := rfl
@[simp] theorem setCtx_spdmOut : (setCtx s i x).spdmOut = s.spdmOut := rfl
@[simp] theorem setCtx_sent : (setCtx s i x).sent = s.sent := rfl
@[simp] theorem setCtx_events : (setCtx s i x).events = s.events := rfl
@[simp] theorem setCtx_guard : (setCtx s i x).guard = s.guard := rfl
@[simp] theorem setCtx_driftPlan : (setCtx s i x).driftPlan = s.driftPlan := rfl
@[simp] theorem setCtx_period : (setCtx s i x).period = s.period := rfl
@[simp] theorem setCtx_temperAt : (setCtx s i x).temperAt = s.temperAt := rfl
@[simp] theorem setCtx_flash : (setCtx s i x).flash = s.flash := rfl
@[simp] theorem setCtx_sec : (setCtx s i x).sec = s.sec := rfl
@[simp] theorem setCtx_pwr : (setCtx s i x).pwr = s.pwr := rfl
@[simp] theorem setCtx_hdmAt : (setCtx s i x).hdmAt = s.hdmAt := rfl
@[simp] theorem getCtx_setCtx : getCtx (setCtx s i x) i = x := mget_mset_same ..
theorem getCtx_setCtx_ne (h : j ≠ i) : getCtx (setCtx s i x) j = getCtx s j := mget_mset_ne _ _ h
@[simp] theorem getCell_setCtx : getCell (setCtx s i x) j = getCell s j := rfl
@[simp] theorem getPav_setCtx : getPav (setCtx s i x) j = getPav s j := rfl
@[simp] theorem getStore_setCtx : getStore (setCtx s i x) j = getStore s j := rfl
@[simp] theorem getHbm_setCtx : getHbm (setCtx s i x) j = getHbm s j := rfl
@[simp] theorem getLink_setCtx : getLink (setCtx s i x) j = getLink s j := rfl
@[simp] theorem getFab_setCtx : getFab (setCtx s i x) j = getFab s j := rfl
@[simp] theorem getUcie_setCtx : getUcie (setCtx s i x) j = getUcie s j := rfl
@[simp] theorem getJob_setCtx : getJob (setCtx s i x) j = getJob s j := rfl
@[simp] theorem getObj_setCtx : getObj (setCtx s i x) j = getObj s j := rfl
@[simp] theorem getQueue_setCtx : getQueue (setCtx s i x) j = getQueue s j := rfl
@[simp] theorem getEv_setCtx : getEv (setCtx s i x) j = getEv s j := rfl
@[simp] theorem getEvCpu_setCtx : getEvCpu (setCtx s i x) j = getEvCpu s j := rfl
@[simp] theorem getRst_setCtx : getRst (setCtx s i x) j = getRst s j := rfl
@[simp] theorem getRegion_setCtx : getRegion (setCtx s i x) j = getRegion s j := rfl
@[simp] theorem getPort_setCtx : getPort (setCtx s i x) j = getPort s j := rfl

end

/-! ### setEv -/

section
variable (x : EvSrc)

@[simp] theorem setEv_pending : (setEv s i x).pending = s.pending := rfl
@[simp] theorem setEv_free : (setEv s i x).free = s.free := rfl
@[simp] theorem setEv_rdata : (setEv s i x).rdata = s.rdata := rfl
@[simp] theorem setEv_hdmData : (setEv s i x).hdmData = s.hdmData := rfl
@[simp] theorem setEv_ember : (setEv s i x).ember = s.ember := rfl
@[simp] theorem setEv_mem : (setEv s i x).mem = s.mem := rfl
@[simp] theorem setEv_host : (setEv s i x).host = s.host := rfl
@[simp] theorem setEv_ddr5 : (setEv s i x).ddr5 = s.ddr5 := rfl
@[simp] theorem setEv_upsets : (setEv s i x).upsets = s.upsets := rfl
@[simp] theorem setEv_cells : (setEv s i x).cells = s.cells := rfl
@[simp] theorem setEv_pavs : (setEv s i x).pavs = s.pavs := rfl
@[simp] theorem setEv_stores : (setEv s i x).stores = s.stores := rfl
@[simp] theorem setEv_hbms : (setEv s i x).hbms = s.hbms := rfl
@[simp] theorem setEv_links : (setEv s i x).links = s.links := rfl
@[simp] theorem setEv_fabs : (setEv s i x).fabs = s.fabs := rfl
@[simp] theorem setEv_ucies : (setEv s i x).ucies = s.ucies := rfl
@[simp] theorem setEv_objs : (setEv s i x).objs = s.objs := rfl
@[simp] theorem setEv_objPages : (setEv s i x).objPages = s.objPages := rfl
@[simp] theorem setEv_ports : (setEv s i x).ports = s.ports := rfl
@[simp] theorem setEv_waitMsgs : (setEv s i x).waitMsgs = s.waitMsgs := rfl
@[simp] theorem setEv_jobs : (setEv s i x).jobs = s.jobs := rfl
@[simp] theorem setEv_loads : (setEv s i x).loads = s.loads := rfl
@[simp] theorem setEv_migs : (setEv s i x).migs = s.migs := rfl
@[simp] theorem setEv_exportRuns : (setEv s i x).exportRuns = s.exportRuns := rfl
@[simp] theorem setEv_regions : (setEv s i x).regions = s.regions := rfl
@[simp] theorem setEv_pkgId : (setEv s i x).pkgId = s.pkgId := rfl
@[simp] theorem setEv_pkgSet : (setEv s i x).pkgSet = s.pkgSet := rfl
@[simp] theorem setEv_ctxs : (setEv s i x).ctxs = s.ctxs := rfl
@[simp] theorem setEv_queues : (setEv s i x).queues = s.queues := rfl
@[simp] theorem setEv_errs : (setEv s i x).errs = s.errs := rfl
@[simp] theorem setEv_distGen : (setEv s i x).distGen = s.distGen := rfl
@[simp] theorem setEv_rsts : (setEv s i x).rsts = s.rsts := rfl
@[simp] theorem setEv_pavRsts : (setEv s i x).pavRsts = s.pavRsts := rfl
@[simp] theorem setEv_rstCause : (setEv s i x).rstCause = s.rstCause := rfl
@[simp] theorem setEv_rstAborted : (setEv s i x).rstAborted = s.rstAborted := rfl
@[simp] theorem setEv_rstPkg : (setEv s i x).rstPkg = s.rstPkg := rfl
@[simp] theorem setEv_failTrigger : (setEv s i x).failTrigger = s.failTrigger := rfl
@[simp] theorem setEv_lodgeClk : (setEv s i x).lodgeClk = s.lodgeClk := rfl
@[simp] theorem setEv_imageMem : (setEv s i x).imageMem = s.imageMem := rfl
@[simp] theorem setEv_evCpus : (setEv s i x).evCpus = s.evCpus := rfl
@[simp] theorem setEv_rotate : (setEv s i x).rotate = s.rotate := rfl
@[simp] theorem setEv_msix : (setEv s i x).msix = s.msix := rfl
@[simp] theorem setEv_msixMask : (setEv s i x).msixMask = s.msixMask := rfl
@[simp] theorem setEv_msiOut : (setEv s i x).msiOut = s.msiOut := rfl
@[simp] theorem setEv_wires : (setEv s i x).wires = s.wires := rfl
@[simp] theorem setEv_spdmOut : (setEv s i x).spdmOut = s.spdmOut := rfl
@[simp] theorem setEv_sent : (setEv s i x).sent = s.sent := rfl
@[simp] theorem setEv_events : (setEv s i x).events = s.events := rfl
@[simp] theorem setEv_guard : (setEv s i x).guard = s.guard := rfl
@[simp] theorem setEv_driftPlan : (setEv s i x).driftPlan = s.driftPlan := rfl
@[simp] theorem setEv_period : (setEv s i x).period = s.period := rfl
@[simp] theorem setEv_temperAt : (setEv s i x).temperAt = s.temperAt := rfl
@[simp] theorem setEv_flash : (setEv s i x).flash = s.flash := rfl
@[simp] theorem setEv_sec : (setEv s i x).sec = s.sec := rfl
@[simp] theorem setEv_pwr : (setEv s i x).pwr = s.pwr := rfl
@[simp] theorem setEv_hdmAt : (setEv s i x).hdmAt = s.hdmAt := rfl
@[simp] theorem getEv_setEv : getEv (setEv s i x) i = x := mget_mset_same ..
theorem getEv_setEv_ne (h : j ≠ i) : getEv (setEv s i x) j = getEv s j := mget_mset_ne _ _ h
@[simp] theorem getCell_setEv : getCell (setEv s i x) j = getCell s j := rfl
@[simp] theorem getPav_setEv : getPav (setEv s i x) j = getPav s j := rfl
@[simp] theorem getStore_setEv : getStore (setEv s i x) j = getStore s j := rfl
@[simp] theorem getHbm_setEv : getHbm (setEv s i x) j = getHbm s j := rfl
@[simp] theorem getLink_setEv : getLink (setEv s i x) j = getLink s j := rfl
@[simp] theorem getFab_setEv : getFab (setEv s i x) j = getFab s j := rfl
@[simp] theorem getUcie_setEv : getUcie (setEv s i x) j = getUcie s j := rfl
@[simp] theorem getJob_setEv : getJob (setEv s i x) j = getJob s j := rfl
@[simp] theorem getObj_setEv : getObj (setEv s i x) j = getObj s j := rfl
@[simp] theorem getQueue_setEv : getQueue (setEv s i x) j = getQueue s j := rfl
@[simp] theorem getCtx_setEv : getCtx (setEv s i x) j = getCtx s j := rfl
@[simp] theorem getEvCpu_setEv : getEvCpu (setEv s i x) j = getEvCpu s j := rfl
@[simp] theorem getRst_setEv : getRst (setEv s i x) j = getRst s j := rfl
@[simp] theorem getRegion_setEv : getRegion (setEv s i x) j = getRegion s j := rfl
@[simp] theorem getPort_setEv : getPort (setEv s i x) j = getPort s j := rfl

end

/-! ### setEvCpu -/

section
variable (x : EvCpu)

@[simp] theorem setEvCpu_pending : (setEvCpu s i x).pending = s.pending := rfl
@[simp] theorem setEvCpu_free : (setEvCpu s i x).free = s.free := rfl
@[simp] theorem setEvCpu_rdata : (setEvCpu s i x).rdata = s.rdata := rfl
@[simp] theorem setEvCpu_hdmData : (setEvCpu s i x).hdmData = s.hdmData := rfl
@[simp] theorem setEvCpu_ember : (setEvCpu s i x).ember = s.ember := rfl
@[simp] theorem setEvCpu_mem : (setEvCpu s i x).mem = s.mem := rfl
@[simp] theorem setEvCpu_host : (setEvCpu s i x).host = s.host := rfl
@[simp] theorem setEvCpu_ddr5 : (setEvCpu s i x).ddr5 = s.ddr5 := rfl
@[simp] theorem setEvCpu_upsets : (setEvCpu s i x).upsets = s.upsets := rfl
@[simp] theorem setEvCpu_cells : (setEvCpu s i x).cells = s.cells := rfl
@[simp] theorem setEvCpu_pavs : (setEvCpu s i x).pavs = s.pavs := rfl
@[simp] theorem setEvCpu_stores : (setEvCpu s i x).stores = s.stores := rfl
@[simp] theorem setEvCpu_hbms : (setEvCpu s i x).hbms = s.hbms := rfl
@[simp] theorem setEvCpu_links : (setEvCpu s i x).links = s.links := rfl
@[simp] theorem setEvCpu_fabs : (setEvCpu s i x).fabs = s.fabs := rfl
@[simp] theorem setEvCpu_ucies : (setEvCpu s i x).ucies = s.ucies := rfl
@[simp] theorem setEvCpu_objs : (setEvCpu s i x).objs = s.objs := rfl
@[simp] theorem setEvCpu_objPages : (setEvCpu s i x).objPages = s.objPages := rfl
@[simp] theorem setEvCpu_ports : (setEvCpu s i x).ports = s.ports := rfl
@[simp] theorem setEvCpu_waitMsgs : (setEvCpu s i x).waitMsgs = s.waitMsgs := rfl
@[simp] theorem setEvCpu_jobs : (setEvCpu s i x).jobs = s.jobs := rfl
@[simp] theorem setEvCpu_loads : (setEvCpu s i x).loads = s.loads := rfl
@[simp] theorem setEvCpu_migs : (setEvCpu s i x).migs = s.migs := rfl
@[simp] theorem setEvCpu_exportRuns : (setEvCpu s i x).exportRuns = s.exportRuns := rfl
@[simp] theorem setEvCpu_regions : (setEvCpu s i x).regions = s.regions := rfl
@[simp] theorem setEvCpu_pkgId : (setEvCpu s i x).pkgId = s.pkgId := rfl
@[simp] theorem setEvCpu_pkgSet : (setEvCpu s i x).pkgSet = s.pkgSet := rfl
@[simp] theorem setEvCpu_ctxs : (setEvCpu s i x).ctxs = s.ctxs := rfl
@[simp] theorem setEvCpu_queues : (setEvCpu s i x).queues = s.queues := rfl
@[simp] theorem setEvCpu_errs : (setEvCpu s i x).errs = s.errs := rfl
@[simp] theorem setEvCpu_distGen : (setEvCpu s i x).distGen = s.distGen := rfl
@[simp] theorem setEvCpu_rsts : (setEvCpu s i x).rsts = s.rsts := rfl
@[simp] theorem setEvCpu_pavRsts : (setEvCpu s i x).pavRsts = s.pavRsts := rfl
@[simp] theorem setEvCpu_rstCause : (setEvCpu s i x).rstCause = s.rstCause := rfl
@[simp] theorem setEvCpu_rstAborted : (setEvCpu s i x).rstAborted = s.rstAborted := rfl
@[simp] theorem setEvCpu_rstPkg : (setEvCpu s i x).rstPkg = s.rstPkg := rfl
@[simp] theorem setEvCpu_failTrigger : (setEvCpu s i x).failTrigger = s.failTrigger := rfl
@[simp] theorem setEvCpu_lodgeClk : (setEvCpu s i x).lodgeClk = s.lodgeClk := rfl
@[simp] theorem setEvCpu_imageMem : (setEvCpu s i x).imageMem = s.imageMem := rfl
@[simp] theorem setEvCpu_evs : (setEvCpu s i x).evs = s.evs := rfl
@[simp] theorem setEvCpu_rotate : (setEvCpu s i x).rotate = s.rotate := rfl
@[simp] theorem setEvCpu_msix : (setEvCpu s i x).msix = s.msix := rfl
@[simp] theorem setEvCpu_msixMask : (setEvCpu s i x).msixMask = s.msixMask := rfl
@[simp] theorem setEvCpu_msiOut : (setEvCpu s i x).msiOut = s.msiOut := rfl
@[simp] theorem setEvCpu_wires : (setEvCpu s i x).wires = s.wires := rfl
@[simp] theorem setEvCpu_spdmOut : (setEvCpu s i x).spdmOut = s.spdmOut := rfl
@[simp] theorem setEvCpu_sent : (setEvCpu s i x).sent = s.sent := rfl
@[simp] theorem setEvCpu_events : (setEvCpu s i x).events = s.events := rfl
@[simp] theorem setEvCpu_guard : (setEvCpu s i x).guard = s.guard := rfl
@[simp] theorem setEvCpu_driftPlan : (setEvCpu s i x).driftPlan = s.driftPlan := rfl
@[simp] theorem setEvCpu_period : (setEvCpu s i x).period = s.period := rfl
@[simp] theorem setEvCpu_temperAt : (setEvCpu s i x).temperAt = s.temperAt := rfl
@[simp] theorem setEvCpu_flash : (setEvCpu s i x).flash = s.flash := rfl
@[simp] theorem setEvCpu_sec : (setEvCpu s i x).sec = s.sec := rfl
@[simp] theorem setEvCpu_pwr : (setEvCpu s i x).pwr = s.pwr := rfl
@[simp] theorem setEvCpu_hdmAt : (setEvCpu s i x).hdmAt = s.hdmAt := rfl
@[simp] theorem getEvCpu_setEvCpu : getEvCpu (setEvCpu s i x) i = x := mget_mset_same ..
theorem getEvCpu_setEvCpu_ne (h : j ≠ i) : getEvCpu (setEvCpu s i x) j = getEvCpu s j := mget_mset_ne _ _ h
@[simp] theorem getCell_setEvCpu : getCell (setEvCpu s i x) j = getCell s j := rfl
@[simp] theorem getPav_setEvCpu : getPav (setEvCpu s i x) j = getPav s j := rfl
@[simp] theorem getStore_setEvCpu : getStore (setEvCpu s i x) j = getStore s j := rfl
@[simp] theorem getHbm_setEvCpu : getHbm (setEvCpu s i x) j = getHbm s j := rfl
@[simp] theorem getLink_setEvCpu : getLink (setEvCpu s i x) j = getLink s j := rfl
@[simp] theorem getFab_setEvCpu : getFab (setEvCpu s i x) j = getFab s j := rfl
@[simp] theorem getUcie_setEvCpu : getUcie (setEvCpu s i x) j = getUcie s j := rfl
@[simp] theorem getJob_setEvCpu : getJob (setEvCpu s i x) j = getJob s j := rfl
@[simp] theorem getObj_setEvCpu : getObj (setEvCpu s i x) j = getObj s j := rfl
@[simp] theorem getQueue_setEvCpu : getQueue (setEvCpu s i x) j = getQueue s j := rfl
@[simp] theorem getCtx_setEvCpu : getCtx (setEvCpu s i x) j = getCtx s j := rfl
@[simp] theorem getEv_setEvCpu : getEv (setEvCpu s i x) j = getEv s j := rfl
@[simp] theorem getRst_setEvCpu : getRst (setEvCpu s i x) j = getRst s j := rfl
@[simp] theorem getRegion_setEvCpu : getRegion (setEvCpu s i x) j = getRegion s j := rfl
@[simp] theorem getPort_setEvCpu : getPort (setEvCpu s i x) j = getPort s j := rfl

end

/-! ### setRst -/

section
variable (x : StackRst)

@[simp] theorem setRst_pending : (setRst s i x).pending = s.pending := rfl
@[simp] theorem setRst_free : (setRst s i x).free = s.free := rfl
@[simp] theorem setRst_rdata : (setRst s i x).rdata = s.rdata := rfl
@[simp] theorem setRst_hdmData : (setRst s i x).hdmData = s.hdmData := rfl
@[simp] theorem setRst_ember : (setRst s i x).ember = s.ember := rfl
@[simp] theorem setRst_mem : (setRst s i x).mem = s.mem := rfl
@[simp] theorem setRst_host : (setRst s i x).host = s.host := rfl
@[simp] theorem setRst_ddr5 : (setRst s i x).ddr5 = s.ddr5 := rfl
@[simp] theorem setRst_upsets : (setRst s i x).upsets = s.upsets := rfl
@[simp] theorem setRst_cells : (setRst s i x).cells = s.cells := rfl
@[simp] theorem setRst_pavs : (setRst s i x).pavs = s.pavs := rfl
@[simp] theorem setRst_stores : (setRst s i x).stores = s.stores := rfl
@[simp] theorem setRst_hbms : (setRst s i x).hbms = s.hbms := rfl
@[simp] theorem setRst_links : (setRst s i x).links = s.links := rfl
@[simp] theorem setRst_fabs : (setRst s i x).fabs = s.fabs := rfl
@[simp] theorem setRst_ucies : (setRst s i x).ucies = s.ucies := rfl
@[simp] theorem setRst_objs : (setRst s i x).objs = s.objs := rfl
@[simp] theorem setRst_objPages : (setRst s i x).objPages = s.objPages := rfl
@[simp] theorem setRst_ports : (setRst s i x).ports = s.ports := rfl
@[simp] theorem setRst_waitMsgs : (setRst s i x).waitMsgs = s.waitMsgs := rfl
@[simp] theorem setRst_jobs : (setRst s i x).jobs = s.jobs := rfl
@[simp] theorem setRst_loads : (setRst s i x).loads = s.loads := rfl
@[simp] theorem setRst_migs : (setRst s i x).migs = s.migs := rfl
@[simp] theorem setRst_exportRuns : (setRst s i x).exportRuns = s.exportRuns := rfl
@[simp] theorem setRst_regions : (setRst s i x).regions = s.regions := rfl
@[simp] theorem setRst_pkgId : (setRst s i x).pkgId = s.pkgId := rfl
@[simp] theorem setRst_pkgSet : (setRst s i x).pkgSet = s.pkgSet := rfl
@[simp] theorem setRst_ctxs : (setRst s i x).ctxs = s.ctxs := rfl
@[simp] theorem setRst_queues : (setRst s i x).queues = s.queues := rfl
@[simp] theorem setRst_errs : (setRst s i x).errs = s.errs := rfl
@[simp] theorem setRst_distGen : (setRst s i x).distGen = s.distGen := rfl
@[simp] theorem setRst_pavRsts : (setRst s i x).pavRsts = s.pavRsts := rfl
@[simp] theorem setRst_rstCause : (setRst s i x).rstCause = s.rstCause := rfl
@[simp] theorem setRst_rstAborted : (setRst s i x).rstAborted = s.rstAborted := rfl
@[simp] theorem setRst_rstPkg : (setRst s i x).rstPkg = s.rstPkg := rfl
@[simp] theorem setRst_failTrigger : (setRst s i x).failTrigger = s.failTrigger := rfl
@[simp] theorem setRst_lodgeClk : (setRst s i x).lodgeClk = s.lodgeClk := rfl
@[simp] theorem setRst_imageMem : (setRst s i x).imageMem = s.imageMem := rfl
@[simp] theorem setRst_evs : (setRst s i x).evs = s.evs := rfl
@[simp] theorem setRst_evCpus : (setRst s i x).evCpus = s.evCpus := rfl
@[simp] theorem setRst_rotate : (setRst s i x).rotate = s.rotate := rfl
@[simp] theorem setRst_msix : (setRst s i x).msix = s.msix := rfl
@[simp] theorem setRst_msixMask : (setRst s i x).msixMask = s.msixMask := rfl
@[simp] theorem setRst_msiOut : (setRst s i x).msiOut = s.msiOut := rfl
@[simp] theorem setRst_wires : (setRst s i x).wires = s.wires := rfl
@[simp] theorem setRst_spdmOut : (setRst s i x).spdmOut = s.spdmOut := rfl
@[simp] theorem setRst_sent : (setRst s i x).sent = s.sent := rfl
@[simp] theorem setRst_events : (setRst s i x).events = s.events := rfl
@[simp] theorem setRst_guard : (setRst s i x).guard = s.guard := rfl
@[simp] theorem setRst_driftPlan : (setRst s i x).driftPlan = s.driftPlan := rfl
@[simp] theorem setRst_period : (setRst s i x).period = s.period := rfl
@[simp] theorem setRst_temperAt : (setRst s i x).temperAt = s.temperAt := rfl
@[simp] theorem setRst_flash : (setRst s i x).flash = s.flash := rfl
@[simp] theorem setRst_sec : (setRst s i x).sec = s.sec := rfl
@[simp] theorem setRst_pwr : (setRst s i x).pwr = s.pwr := rfl
@[simp] theorem setRst_hdmAt : (setRst s i x).hdmAt = s.hdmAt := rfl
@[simp] theorem getRst_setRst : getRst (setRst s i x) i = x := mget_mset_same ..
theorem getRst_setRst_ne (h : j ≠ i) : getRst (setRst s i x) j = getRst s j := mget_mset_ne _ _ h
@[simp] theorem getCell_setRst : getCell (setRst s i x) j = getCell s j := rfl
@[simp] theorem getPav_setRst : getPav (setRst s i x) j = getPav s j := rfl
@[simp] theorem getStore_setRst : getStore (setRst s i x) j = getStore s j := rfl
@[simp] theorem getHbm_setRst : getHbm (setRst s i x) j = getHbm s j := rfl
@[simp] theorem getLink_setRst : getLink (setRst s i x) j = getLink s j := rfl
@[simp] theorem getFab_setRst : getFab (setRst s i x) j = getFab s j := rfl
@[simp] theorem getUcie_setRst : getUcie (setRst s i x) j = getUcie s j := rfl
@[simp] theorem getJob_setRst : getJob (setRst s i x) j = getJob s j := rfl
@[simp] theorem getObj_setRst : getObj (setRst s i x) j = getObj s j := rfl
@[simp] theorem getQueue_setRst : getQueue (setRst s i x) j = getQueue s j := rfl
@[simp] theorem getCtx_setRst : getCtx (setRst s i x) j = getCtx s j := rfl
@[simp] theorem getEv_setRst : getEv (setRst s i x) j = getEv s j := rfl
@[simp] theorem getEvCpu_setRst : getEvCpu (setRst s i x) j = getEvCpu s j := rfl
@[simp] theorem getRegion_setRst : getRegion (setRst s i x) j = getRegion s j := rfl
@[simp] theorem getPort_setRst : getPort (setRst s i x) j = getPort s j := rfl

end

/-! ### setRegion -/

section
variable (x : Region)

@[simp] theorem setRegion_pending : (setRegion s i x).pending = s.pending := rfl
@[simp] theorem setRegion_free : (setRegion s i x).free = s.free := rfl
@[simp] theorem setRegion_rdata : (setRegion s i x).rdata = s.rdata := rfl
@[simp] theorem setRegion_hdmData : (setRegion s i x).hdmData = s.hdmData := rfl
@[simp] theorem setRegion_ember : (setRegion s i x).ember = s.ember := rfl
@[simp] theorem setRegion_mem : (setRegion s i x).mem = s.mem := rfl
@[simp] theorem setRegion_host : (setRegion s i x).host = s.host := rfl
@[simp] theorem setRegion_ddr5 : (setRegion s i x).ddr5 = s.ddr5 := rfl
@[simp] theorem setRegion_upsets : (setRegion s i x).upsets = s.upsets := rfl
@[simp] theorem setRegion_cells : (setRegion s i x).cells = s.cells := rfl
@[simp] theorem setRegion_pavs : (setRegion s i x).pavs = s.pavs := rfl
@[simp] theorem setRegion_stores : (setRegion s i x).stores = s.stores := rfl
@[simp] theorem setRegion_hbms : (setRegion s i x).hbms = s.hbms := rfl
@[simp] theorem setRegion_links : (setRegion s i x).links = s.links := rfl
@[simp] theorem setRegion_fabs : (setRegion s i x).fabs = s.fabs := rfl
@[simp] theorem setRegion_ucies : (setRegion s i x).ucies = s.ucies := rfl
@[simp] theorem setRegion_objs : (setRegion s i x).objs = s.objs := rfl
@[simp] theorem setRegion_objPages : (setRegion s i x).objPages = s.objPages := rfl
@[simp] theorem setRegion_ports : (setRegion s i x).ports = s.ports := rfl
@[simp] theorem setRegion_waitMsgs : (setRegion s i x).waitMsgs = s.waitMsgs := rfl
@[simp] theorem setRegion_jobs : (setRegion s i x).jobs = s.jobs := rfl
@[simp] theorem setRegion_loads : (setRegion s i x).loads = s.loads := rfl
@[simp] theorem setRegion_migs : (setRegion s i x).migs = s.migs := rfl
@[simp] theorem setRegion_exportRuns : (setRegion s i x).exportRuns = s.exportRuns := rfl
@[simp] theorem setRegion_pkgId : (setRegion s i x).pkgId = s.pkgId := rfl
@[simp] theorem setRegion_pkgSet : (setRegion s i x).pkgSet = s.pkgSet := rfl
@[simp] theorem setRegion_ctxs : (setRegion s i x).ctxs = s.ctxs := rfl
@[simp] theorem setRegion_queues : (setRegion s i x).queues = s.queues := rfl
@[simp] theorem setRegion_errs : (setRegion s i x).errs = s.errs := rfl
@[simp] theorem setRegion_distGen : (setRegion s i x).distGen = s.distGen := rfl
@[simp] theorem setRegion_rsts : (setRegion s i x).rsts = s.rsts := rfl
@[simp] theorem setRegion_pavRsts : (setRegion s i x).pavRsts = s.pavRsts := rfl
@[simp] theorem setRegion_rstCause : (setRegion s i x).rstCause = s.rstCause := rfl
@[simp] theorem setRegion_rstAborted : (setRegion s i x).rstAborted = s.rstAborted := rfl
@[simp] theorem setRegion_rstPkg : (setRegion s i x).rstPkg = s.rstPkg := rfl
@[simp] theorem setRegion_failTrigger : (setRegion s i x).failTrigger = s.failTrigger := rfl
@[simp] theorem setRegion_lodgeClk : (setRegion s i x).lodgeClk = s.lodgeClk := rfl
@[simp] theorem setRegion_imageMem : (setRegion s i x).imageMem = s.imageMem := rfl
@[simp] theorem setRegion_evs : (setRegion s i x).evs = s.evs := rfl
@[simp] theorem setRegion_evCpus : (setRegion s i x).evCpus = s.evCpus := rfl
@[simp] theorem setRegion_rotate : (setRegion s i x).rotate = s.rotate := rfl
@[simp] theorem setRegion_msix : (setRegion s i x).msix = s.msix := rfl
@[simp] theorem setRegion_msixMask : (setRegion s i x).msixMask = s.msixMask := rfl
@[simp] theorem setRegion_msiOut : (setRegion s i x).msiOut = s.msiOut := rfl
@[simp] theorem setRegion_wires : (setRegion s i x).wires = s.wires := rfl
@[simp] theorem setRegion_spdmOut : (setRegion s i x).spdmOut = s.spdmOut := rfl
@[simp] theorem setRegion_sent : (setRegion s i x).sent = s.sent := rfl
@[simp] theorem setRegion_events : (setRegion s i x).events = s.events := rfl
@[simp] theorem setRegion_guard : (setRegion s i x).guard = s.guard := rfl
@[simp] theorem setRegion_driftPlan : (setRegion s i x).driftPlan = s.driftPlan := rfl
@[simp] theorem setRegion_period : (setRegion s i x).period = s.period := rfl
@[simp] theorem setRegion_temperAt : (setRegion s i x).temperAt = s.temperAt := rfl
@[simp] theorem setRegion_flash : (setRegion s i x).flash = s.flash := rfl
@[simp] theorem setRegion_sec : (setRegion s i x).sec = s.sec := rfl
@[simp] theorem setRegion_pwr : (setRegion s i x).pwr = s.pwr := rfl
@[simp] theorem setRegion_hdmAt : (setRegion s i x).hdmAt = s.hdmAt := rfl
@[simp] theorem getRegion_setRegion : getRegion (setRegion s i x) i = x := mget_mset_same ..
theorem getRegion_setRegion_ne (h : j ≠ i) : getRegion (setRegion s i x) j = getRegion s j := mget_mset_ne _ _ h
@[simp] theorem getCell_setRegion : getCell (setRegion s i x) j = getCell s j := rfl
@[simp] theorem getPav_setRegion : getPav (setRegion s i x) j = getPav s j := rfl
@[simp] theorem getStore_setRegion : getStore (setRegion s i x) j = getStore s j := rfl
@[simp] theorem getHbm_setRegion : getHbm (setRegion s i x) j = getHbm s j := rfl
@[simp] theorem getLink_setRegion : getLink (setRegion s i x) j = getLink s j := rfl
@[simp] theorem getFab_setRegion : getFab (setRegion s i x) j = getFab s j := rfl
@[simp] theorem getUcie_setRegion : getUcie (setRegion s i x) j = getUcie s j := rfl
@[simp] theorem getJob_setRegion : getJob (setRegion s i x) j = getJob s j := rfl
@[simp] theorem getObj_setRegion : getObj (setRegion s i x) j = getObj s j := rfl
@[simp] theorem getQueue_setRegion : getQueue (setRegion s i x) j = getQueue s j := rfl
@[simp] theorem getCtx_setRegion : getCtx (setRegion s i x) j = getCtx s j := rfl
@[simp] theorem getEv_setRegion : getEv (setRegion s i x) j = getEv s j := rfl
@[simp] theorem getEvCpu_setRegion : getEvCpu (setRegion s i x) j = getEvCpu s j := rfl
@[simp] theorem getRst_setRegion : getRst (setRegion s i x) j = getRst s j := rfl
@[simp] theorem getPort_setRegion : getPort (setRegion s i x) j = getPort s j := rfl

end

/-! ### setPort -/

section
variable (x : List PortOp)

@[simp] theorem setPort_pending : (setPort s i x).pending = s.pending := rfl
@[simp] theorem setPort_free : (setPort s i x).free = s.free := rfl
@[simp] theorem setPort_rdata : (setPort s i x).rdata = s.rdata := rfl
@[simp] theorem setPort_hdmData : (setPort s i x).hdmData = s.hdmData := rfl
@[simp] theorem setPort_ember : (setPort s i x).ember = s.ember := rfl
@[simp] theorem setPort_mem : (setPort s i x).mem = s.mem := rfl
@[simp] theorem setPort_host : (setPort s i x).host = s.host := rfl
@[simp] theorem setPort_ddr5 : (setPort s i x).ddr5 = s.ddr5 := rfl
@[simp] theorem setPort_upsets : (setPort s i x).upsets = s.upsets := rfl
@[simp] theorem setPort_cells : (setPort s i x).cells = s.cells := rfl
@[simp] theorem setPort_pavs : (setPort s i x).pavs = s.pavs := rfl
@[simp] theorem setPort_stores : (setPort s i x).stores = s.stores := rfl
@[simp] theorem setPort_hbms : (setPort s i x).hbms = s.hbms := rfl
@[simp] theorem setPort_links : (setPort s i x).links = s.links := rfl
@[simp] theorem setPort_fabs : (setPort s i x).fabs = s.fabs := rfl
@[simp] theorem setPort_ucies : (setPort s i x).ucies = s.ucies := rfl
@[simp] theorem setPort_objs : (setPort s i x).objs = s.objs := rfl
@[simp] theorem setPort_objPages : (setPort s i x).objPages = s.objPages := rfl
@[simp] theorem setPort_waitMsgs : (setPort s i x).waitMsgs = s.waitMsgs := rfl
@[simp] theorem setPort_jobs : (setPort s i x).jobs = s.jobs := rfl
@[simp] theorem setPort_loads : (setPort s i x).loads = s.loads := rfl
@[simp] theorem setPort_migs : (setPort s i x).migs = s.migs := rfl
@[simp] theorem setPort_exportRuns : (setPort s i x).exportRuns = s.exportRuns := rfl
@[simp] theorem setPort_regions : (setPort s i x).regions = s.regions := rfl
@[simp] theorem setPort_pkgId : (setPort s i x).pkgId = s.pkgId := rfl
@[simp] theorem setPort_pkgSet : (setPort s i x).pkgSet = s.pkgSet := rfl
@[simp] theorem setPort_ctxs : (setPort s i x).ctxs = s.ctxs := rfl
@[simp] theorem setPort_queues : (setPort s i x).queues = s.queues := rfl
@[simp] theorem setPort_errs : (setPort s i x).errs = s.errs := rfl
@[simp] theorem setPort_distGen : (setPort s i x).distGen = s.distGen := rfl
@[simp] theorem setPort_rsts : (setPort s i x).rsts = s.rsts := rfl
@[simp] theorem setPort_pavRsts : (setPort s i x).pavRsts = s.pavRsts := rfl
@[simp] theorem setPort_rstCause : (setPort s i x).rstCause = s.rstCause := rfl
@[simp] theorem setPort_rstAborted : (setPort s i x).rstAborted = s.rstAborted := rfl
@[simp] theorem setPort_rstPkg : (setPort s i x).rstPkg = s.rstPkg := rfl
@[simp] theorem setPort_failTrigger : (setPort s i x).failTrigger = s.failTrigger := rfl
@[simp] theorem setPort_lodgeClk : (setPort s i x).lodgeClk = s.lodgeClk := rfl
@[simp] theorem setPort_imageMem : (setPort s i x).imageMem = s.imageMem := rfl
@[simp] theorem setPort_evs : (setPort s i x).evs = s.evs := rfl
@[simp] theorem setPort_evCpus : (setPort s i x).evCpus = s.evCpus := rfl
@[simp] theorem setPort_rotate : (setPort s i x).rotate = s.rotate := rfl
@[simp] theorem setPort_msix : (setPort s i x).msix = s.msix := rfl
@[simp] theorem setPort_msixMask : (setPort s i x).msixMask = s.msixMask := rfl
@[simp] theorem setPort_msiOut : (setPort s i x).msiOut = s.msiOut := rfl
@[simp] theorem setPort_wires : (setPort s i x).wires = s.wires := rfl
@[simp] theorem setPort_spdmOut : (setPort s i x).spdmOut = s.spdmOut := rfl
@[simp] theorem setPort_sent : (setPort s i x).sent = s.sent := rfl
@[simp] theorem setPort_events : (setPort s i x).events = s.events := rfl
@[simp] theorem setPort_guard : (setPort s i x).guard = s.guard := rfl
@[simp] theorem setPort_driftPlan : (setPort s i x).driftPlan = s.driftPlan := rfl
@[simp] theorem setPort_period : (setPort s i x).period = s.period := rfl
@[simp] theorem setPort_temperAt : (setPort s i x).temperAt = s.temperAt := rfl
@[simp] theorem setPort_flash : (setPort s i x).flash = s.flash := rfl
@[simp] theorem setPort_sec : (setPort s i x).sec = s.sec := rfl
@[simp] theorem setPort_pwr : (setPort s i x).pwr = s.pwr := rfl
@[simp] theorem setPort_hdmAt : (setPort s i x).hdmAt = s.hdmAt := rfl
@[simp] theorem getPort_setPort : getPort (setPort s i x) i = x := mget_mset_same ..
theorem getPort_setPort_ne (h : j ≠ i) : getPort (setPort s i x) j = getPort s j := mget_mset_ne _ _ h
@[simp] theorem getCell_setPort : getCell (setPort s i x) j = getCell s j := rfl
@[simp] theorem getPav_setPort : getPav (setPort s i x) j = getPav s j := rfl
@[simp] theorem getStore_setPort : getStore (setPort s i x) j = getStore s j := rfl
@[simp] theorem getHbm_setPort : getHbm (setPort s i x) j = getHbm s j := rfl
@[simp] theorem getLink_setPort : getLink (setPort s i x) j = getLink s j := rfl
@[simp] theorem getFab_setPort : getFab (setPort s i x) j = getFab s j := rfl
@[simp] theorem getUcie_setPort : getUcie (setPort s i x) j = getUcie s j := rfl
@[simp] theorem getJob_setPort : getJob (setPort s i x) j = getJob s j := rfl
@[simp] theorem getObj_setPort : getObj (setPort s i x) j = getObj s j := rfl
@[simp] theorem getQueue_setPort : getQueue (setPort s i x) j = getQueue s j := rfl
@[simp] theorem getCtx_setPort : getCtx (setPort s i x) j = getCtx s j := rfl
@[simp] theorem getEv_setPort : getEv (setPort s i x) j = getEv s j := rfl
@[simp] theorem getEvCpu_setPort : getEvCpu (setPort s i x) j = getEvCpu s j := rfl
@[simp] theorem getRst_setPort : getRst (setPort s i x) j = getRst s j := rfl
@[simp] theorem getRegion_setPort : getRegion (setPort s i x) j = getRegion s j := rfl

end

/-! ### Slots, ports and beds -/

section
variable (y : Cell) (x : Slot)

@[simp] theorem setSlot_sreg : (setSlot y i x).sreg = y.sreg := rfl
@[simp] theorem setSlot_pc : (setSlot y i x).pc = y.pc := rfl
@[simp] theorem setSlot_streamId : (setSlot y i x).streamId = y.streamId := rfl
@[simp] theorem setSlot_tstate : (setSlot y i x).tstate = y.tstate := rfl
@[simp] theorem setSlot_waits : (setSlot y i x).waits = y.waits := rfl
@[simp] theorem setSlot_tile : (setSlot y i x).tile = y.tile := rfl
@[simp] theorem setSlot_acc : (setSlot y i x).acc = y.acc := rfl
@[simp] theorem setSlot_mask : (setSlot y i x).mask = y.mask := rfl
@[simp] theorem setSlot_written : (setSlot y i x).written = y.written := rfl
@[simp] theorem setSlot_progWords : (setSlot y i x).progWords = y.progWords := rfl
@[simp] theorem setSlot_prog : (setSlot y i x).prog = y.prog := rfl
@[simp] theorem setSlot_store : (setSlot y i x).store = y.store := rfl
@[simp] theorem setSlot_nextStamp : (setSlot y i x).nextStamp = y.nextStamp := rfl
@[simp] theorem setSlot_fetchPtr : (setSlot y i x).fetchPtr = y.fetchPtr := rfl
@[simp] theorem setSlot_skip : (setSlot y i x).skip = y.skip := rfl
@[simp] theorem setSlot_pastEnd : (setSlot y i x).pastEnd = y.pastEnd := rfl
@[simp] theorem setSlot_ctl : (setSlot y i x).ctl = y.ctl := rfl
@[simp] theorem setSlot_vec : (setSlot y i x).vec = y.vec := rfl
@[simp] theorem setSlot_mat : (setSlot y i x).mat = y.mat := rfl
@[simp] theorem setSlot_flights : (setSlot y i x).flights = y.flights := rfl
@[simp] theorem setSlot_missWaiters : (setSlot y i x).missWaiters = y.missWaiters := rfl
@[simp] theorem setSlot_missGranted : (setSlot y i x).missGranted = y.missGranted := rfl
@[simp] theorem setSlot_runs : (setSlot y i x).runs = y.runs := rfl
@[simp] theorem setSlot_quench : (setSlot y i x).quench = y.quench := rfl
@[simp] theorem setSlot_bellows : (setSlot y i x).bellows = y.bellows := rfl
@[simp] theorem setSlot_nextReq : (setSlot y i x).nextReq = y.nextReq := rfl
@[simp] theorem setSlot_bellowsPtr : (setSlot y i x).bellowsPtr = y.bellowsPtr := rfl
@[simp] theorem setSlot_allocs : (setSlot y i x).allocs = y.allocs := rfl
@[simp] theorem setSlot_mode : (setSlot y i x).mode = y.mode := rfl
@[simp] theorem setSlot_ctxv : (setSlot y i x).ctxv = y.ctxv := rfl
@[simp] theorem setSlot_ctx : (setSlot y i x).ctx = y.ctx := rfl
@[simp] theorem setSlot_stage : (setSlot y i x).stage = y.stage := rfl
@[simp] theorem setSlot_job : (setSlot y i x).job = y.job := rfl
@[simp] theorem setSlot_item : (setSlot y i x).item = y.item := rfl
@[simp] theorem setSlot_rank : (setSlot y i x).rank = y.rank := rfl
@[simp] theorem setSlot_bedW : (setSlot y i x).bedW = y.bedW := rfl
@[simp] theorem setSlot_bedH : (setSlot y i x).bedH = y.bedH := rfl
@[simp] theorem setSlot_step : (setSlot y i x).step = y.step := rfl
@[simp] theorem setSlot_itemWord : (setSlot y i x).itemWord = y.itemWord := rfl
@[simp] theorem setSlot_reported : (setSlot y i x).reported = y.reported := rfl
@[simp] theorem setSlot_issue : (setSlot y i x).issue = y.issue := rfl
@[simp] theorem setSlot_missWait : (setSlot y i x).missWait = y.missWait := rfl
@[simp] theorem setSlot_faultCode : (setSlot y i x).faultCode = y.faultCode := rfl
@[simp] theorem setSlot_faultAddr : (setSlot y i x).faultAddr = y.faultAddr := rfl
@[simp] theorem setSlot_faultSpace : (setSlot y i x).faultSpace = y.faultSpace := rfl
@[simp] theorem setSlot_faultThread : (setSlot y i x).faultThread = y.faultThread := rfl
@[simp] theorem setSlot_faultPc : (setSlot y i x).faultPc = y.faultPc := rfl
@[simp] theorem setSlot_retries : (setSlot y i x).retries = y.retries := rfl
@[simp] theorem setSlot_sparesUsed : (setSlot y i x).sparesUsed = y.sparesUsed := rfl
@[simp] theorem setSlot_beatFails : (setSlot y i x).beatFails = y.beatFails := rfl
@[simp] theorem setSlot_beatTick : (setSlot y i x).beatTick = y.beatTick := rfl
@[simp] theorem setSlot_retryTimes : (setSlot y i x).retryTimes = y.retryTimes := rfl
@[simp] theorem setSlot_testOwed : (setSlot y i x).testOwed = y.testOwed := rfl
@[simp] theorem setSlot_laneSound : (setSlot y i x).laneSound = y.laneSound := rfl
@[simp] theorem setSlot_spared : (setSlot y i x).spared = y.spared := rfl
@[simp] theorem setSlot_unlogged : (setSlot y i x).unlogged = y.unlogged := rfl
@[simp] theorem setSlot_qdrop : (setSlot y i x).qdrop = y.qdrop := rfl
@[simp] theorem setSlot_qinval : (setSlot y i x).qinval = y.qinval := rfl
@[simp] theorem setSlot_qdefer : (setSlot y i x).qdefer = y.qdefer := rfl
@[simp] theorem setSlot_tx : (setSlot y i x).tx = y.tx := rfl
@[simp] theorem setSlot_rx : (setSlot y i x).rx = y.rx := rfl
@[simp] theorem getSlot_setSlot : getSlot (setSlot y i x) i = x := mget_mset_same ..
theorem getSlot_setSlot_ne (h : j ≠ i) : getSlot (setSlot y i x) j = getSlot y j := mget_mset_ne _ _ h

end

section
variable (y : Cell) (x : Port)

@[simp] theorem setTx_sreg : (setTx y i x).sreg = y.sreg := rfl
@[simp] theorem setTx_pc : (setTx y i x).pc = y.pc := rfl
@[simp] theorem setTx_streamId : (setTx y i x).streamId = y.streamId := rfl
@[simp] theorem setTx_tstate : (setTx y i x).tstate = y.tstate := rfl
@[simp] theorem setTx_waits : (setTx y i x).waits = y.waits := rfl
@[simp] theorem setTx_tile : (setTx y i x).tile = y.tile := rfl
@[simp] theorem setTx_acc : (setTx y i x).acc = y.acc := rfl
@[simp] theorem setTx_mask : (setTx y i x).mask = y.mask := rfl
@[simp] theorem setTx_written : (setTx y i x).written = y.written := rfl
@[simp] theorem setTx_progWords : (setTx y i x).progWords = y.progWords := rfl
@[simp] theorem setTx_prog : (setTx y i x).prog = y.prog := rfl
@[simp] theorem setTx_store : (setTx y i x).store = y.store := rfl
@[simp] theorem setTx_slots : (setTx y i x).slots = y.slots := rfl
@[simp] theorem setTx_nextStamp : (setTx y i x).nextStamp = y.nextStamp := rfl
@[simp] theorem setTx_fetchPtr : (setTx y i x).fetchPtr = y.fetchPtr := rfl
@[simp] theorem setTx_skip : (setTx y i x).skip = y.skip := rfl
@[simp] theorem setTx_pastEnd : (setTx y i x).pastEnd = y.pastEnd := rfl
@[simp] theorem setTx_ctl : (setTx y i x).ctl = y.ctl := rfl
@[simp] theorem setTx_vec : (setTx y i x).vec = y.vec := rfl
@[simp] theorem setTx_mat : (setTx y i x).mat = y.mat := rfl
@[simp] theorem setTx_flights : (setTx y i x).flights = y.flights := rfl
@[simp] theorem setTx_missWaiters : (setTx y i x).missWaiters = y.missWaiters := rfl
@[simp] theorem setTx_missGranted : (setTx y i x).missGranted = y.missGranted := rfl
@[simp] theorem setTx_runs : (setTx y i x).runs = y.runs := rfl
@[simp] theorem setTx_quench : (setTx y i x).quench = y.quench := rfl
@[simp] theorem setTx_bellows : (setTx y i x).bellows = y.bellows := rfl
@[simp] theorem setTx_nextReq : (setTx y i x).nextReq = y.nextReq := rfl
@[simp] theorem setTx_bellowsPtr : (setTx y i x).bellowsPtr = y.bellowsPtr := rfl
@[simp] theorem setTx_allocs : (setTx y i x).allocs = y.allocs := rfl
@[simp] theorem setTx_mode : (setTx y i x).mode = y.mode := rfl
@[simp] theorem setTx_ctxv : (setTx y i x).ctxv = y.ctxv := rfl
@[simp] theorem setTx_ctx : (setTx y i x).ctx = y.ctx := rfl
@[simp] theorem setTx_stage : (setTx y i x).stage = y.stage := rfl
@[simp] theorem setTx_job : (setTx y i x).job = y.job := rfl
@[simp] theorem setTx_item : (setTx y i x).item = y.item := rfl
@[simp] theorem setTx_rank : (setTx y i x).rank = y.rank := rfl
@[simp] theorem setTx_bedW : (setTx y i x).bedW = y.bedW := rfl
@[simp] theorem setTx_bedH : (setTx y i x).bedH = y.bedH := rfl
@[simp] theorem setTx_step : (setTx y i x).step = y.step := rfl
@[simp] theorem setTx_itemWord : (setTx y i x).itemWord = y.itemWord := rfl
@[simp] theorem setTx_reported : (setTx y i x).reported = y.reported := rfl
@[simp] theorem setTx_issue : (setTx y i x).issue = y.issue := rfl
@[simp] theorem setTx_missWait : (setTx y i x).missWait = y.missWait := rfl
@[simp] theorem setTx_faultCode : (setTx y i x).faultCode = y.faultCode := rfl
@[simp] theorem setTx_faultAddr : (setTx y i x).faultAddr = y.faultAddr := rfl
@[simp] theorem setTx_faultSpace : (setTx y i x).faultSpace = y.faultSpace := rfl
@[simp] theorem setTx_faultThread : (setTx y i x).faultThread = y.faultThread := rfl
@[simp] theorem setTx_faultPc : (setTx y i x).faultPc = y.faultPc := rfl
@[simp] theorem setTx_retries : (setTx y i x).retries = y.retries := rfl
@[simp] theorem setTx_sparesUsed : (setTx y i x).sparesUsed = y.sparesUsed := rfl
@[simp] theorem setTx_beatFails : (setTx y i x).beatFails = y.beatFails := rfl
@[simp] theorem setTx_beatTick : (setTx y i x).beatTick = y.beatTick := rfl
@[simp] theorem setTx_retryTimes : (setTx y i x).retryTimes = y.retryTimes := rfl
@[simp] theorem setTx_testOwed : (setTx y i x).testOwed = y.testOwed := rfl
@[simp] theorem setTx_laneSound : (setTx y i x).laneSound = y.laneSound := rfl
@[simp] theorem setTx_spared : (setTx y i x).spared = y.spared := rfl
@[simp] theorem setTx_unlogged : (setTx y i x).unlogged = y.unlogged := rfl
@[simp] theorem setTx_qdrop : (setTx y i x).qdrop = y.qdrop := rfl
@[simp] theorem setTx_qinval : (setTx y i x).qinval = y.qinval := rfl
@[simp] theorem setTx_qdefer : (setTx y i x).qdefer = y.qdefer := rfl
@[simp] theorem setTx_rx : (setTx y i x).rx = y.rx := rfl
@[simp] theorem getTx_setTx : getTx (setTx y i x) i = x := mget_mset_same ..
theorem getTx_setTx_ne (h : j ≠ i) : getTx (setTx y i x) j = getTx y j := mget_mset_ne _ _ h

end

section
variable (y : Cell) (x : Port)

@[simp] theorem setRx_sreg : (setRx y i x).sreg = y.sreg := rfl
@[simp] theorem setRx_pc : (setRx y i x).pc = y.pc := rfl
@[simp] theorem setRx_streamId : (setRx y i x).streamId = y.streamId := rfl
@[simp] theorem setRx_tstate : (setRx y i x).tstate = y.tstate := rfl
@[simp] theorem setRx_waits : (setRx y i x).waits = y.waits := rfl
@[simp] theorem setRx_tile : (setRx y i x).tile = y.tile := rfl
@[simp] theorem setRx_acc : (setRx y i x).acc = y.acc := rfl
@[simp] theorem setRx_mask : (setRx y i x).mask = y.mask := rfl
@[simp] theorem setRx_written : (setRx y i x).written = y.written := rfl
@[simp] theorem setRx_progWords : (setRx y i x).progWords = y.progWords := rfl
@[simp] theorem setRx_prog : (setRx y i x).prog = y.prog := rfl
@[simp] theorem setRx_store : (setRx y i x).store = y.store := rfl
@[simp] theorem setRx_slots : (setRx y i x).slots = y.slots := rfl
@[simp] theorem setRx_nextStamp : (setRx y i x).nextStamp = y.nextStamp := rfl
@[simp] theorem setRx_fetchPtr : (setRx y i x).fetchPtr = y.fetchPtr := rfl
@[simp] theorem setRx_skip : (setRx y i x).skip = y.skip := rfl
@[simp] theorem setRx_pastEnd : (setRx y i x).pastEnd = y.pastEnd := rfl
@[simp] theorem setRx_ctl : (setRx y i x).ctl = y.ctl := rfl
@[simp] theorem setRx_vec : (setRx y i x).vec = y.vec := rfl
@[simp] theorem setRx_mat : (setRx y i x).mat = y.mat := rfl
@[simp] theorem setRx_flights : (setRx y i x).flights = y.flights := rfl
@[simp] theorem setRx_missWaiters : (setRx y i x).missWaiters = y.missWaiters := rfl
@[simp] theorem setRx_missGranted : (setRx y i x).missGranted = y.missGranted := rfl
@[simp] theorem setRx_runs : (setRx y i x).runs = y.runs := rfl
@[simp] theorem setRx_quench : (setRx y i x).quench = y.quench := rfl
@[simp] theorem setRx_bellows : (setRx y i x).bellows = y.bellows := rfl
@[simp] theorem setRx_nextReq : (setRx y i x).nextReq = y.nextReq := rfl
@[simp] theorem setRx_bellowsPtr : (setRx y i x).bellowsPtr = y.bellowsPtr := rfl
@[simp] theorem setRx_allocs : (setRx y i x).allocs = y.allocs := rfl
@[simp] theorem setRx_mode : (setRx y i x).mode = y.mode := rfl
@[simp] theorem setRx_ctxv : (setRx y i x).ctxv = y.ctxv := rfl
@[simp] theorem setRx_ctx : (setRx y i x).ctx = y.ctx := rfl
@[simp] theorem setRx_stage : (setRx y i x).stage = y.stage := rfl
@[simp] theorem setRx_job : (setRx y i x).job = y.job := rfl
@[simp] theorem setRx_item : (setRx y i x).item = y.item := rfl
@[simp] theorem setRx_rank : (setRx y i x).rank = y.rank := rfl
@[simp] theorem setRx_bedW : (setRx y i x).bedW = y.bedW := rfl
@[simp] theorem setRx_bedH : (setRx y i x).bedH = y.bedH := rfl
@[simp] theorem setRx_step : (setRx y i x).step = y.step := rfl
@[simp] theorem setRx_itemWord : (setRx y i x).itemWord = y.itemWord := rfl
@[simp] theorem setRx_reported : (setRx y i x).reported = y.reported := rfl
@[simp] theorem setRx_issue : (setRx y i x).issue = y.issue := rfl
@[simp] theorem setRx_missWait : (setRx y i x).missWait = y.missWait := rfl
@[simp] theorem setRx_faultCode : (setRx y i x).faultCode = y.faultCode := rfl
@[simp] theorem setRx_faultAddr : (setRx y i x).faultAddr = y.faultAddr := rfl
@[simp] theorem setRx_faultSpace : (setRx y i x).faultSpace = y.faultSpace := rfl
@[simp] theorem setRx_faultThread : (setRx y i x).faultThread = y.faultThread := rfl
@[simp] theorem setRx_faultPc : (setRx y i x).faultPc = y.faultPc := rfl
@[simp] theorem setRx_retries : (setRx y i x).retries = y.retries := rfl
@[simp] theorem setRx_sparesUsed : (setRx y i x).sparesUsed = y.sparesUsed := rfl
@[simp] theorem setRx_beatFails : (setRx y i x).beatFails = y.beatFails := rfl
@[simp] theorem setRx_beatTick : (setRx y i x).beatTick = y.beatTick := rfl
@[simp] theorem setRx_retryTimes : (setRx y i x).retryTimes = y.retryTimes := rfl
@[simp] theorem setRx_testOwed : (setRx y i x).testOwed = y.testOwed := rfl
@[simp] theorem setRx_laneSound : (setRx y i x).laneSound = y.laneSound := rfl
@[simp] theorem setRx_spared : (setRx y i x).spared = y.spared := rfl
@[simp] theorem setRx_unlogged : (setRx y i x).unlogged = y.unlogged := rfl
@[simp] theorem setRx_qdrop : (setRx y i x).qdrop = y.qdrop := rfl
@[simp] theorem setRx_qinval : (setRx y i x).qinval = y.qinval := rfl
@[simp] theorem setRx_qdefer : (setRx y i x).qdefer = y.qdefer := rfl
@[simp] theorem setRx_tx : (setRx y i x).tx = y.tx := rfl
@[simp] theorem getRx_setRx : getRx (setRx y i x) i = x := mget_mset_same ..
theorem getRx_setRx_ne (h : j ≠ i) : getRx (setRx y i x) j = getRx y j := mget_mset_ne _ _ h

end

section
variable (y : Pav) (x : Bed)

@[simp] theorem setBed_power : (setBed y i x).power = y.power := rfl
@[simp] theorem setBed_held : (setBed y i x).held = y.held := rfl
@[simp] theorem setBed_ctx : (setBed y i x).ctx = y.ctx := rfl
@[simp] theorem setBed_retired : (setBed y i x).retired = y.retired := rfl
@[simp] theorem setBed_retirePend : (setBed y i x).retirePend = y.retirePend := rfl
@[simp] theorem setBed_offTicks : (setBed y i x).offTicks = y.offTicks := rfl
@[simp] theorem setBed_gateCycles : (setBed y i x).gateCycles = y.gateCycles := rfl
@[simp] theorem setBed_offNow : (setBed y i x).offNow = y.offNow := rfl
@[simp] theorem setBed_gateNow : (setBed y i x).gateNow = y.gateNow := rfl
@[simp] theorem setBed_idleSince : (setBed y i x).idleSince = y.idleSince := rfl
@[simp] theorem setBed_aclkDown : (setBed y i x).aclkDown = y.aclkDown := rfl
@[simp] theorem setBed_aclkPend : (setBed y i x).aclkPend = y.aclkPend := rfl
@[simp] theorem setBed_voff : (setBed y i x).voff = y.voff := rfl
@[simp] theorem setBed_voffPend : (setBed y i x).voffPend = y.voffPend := rfl
@[simp] theorem setBed_slack : (setBed y i x).slack = y.slack := rfl
@[simp] theorem setBed_drift : (setBed y i x).drift = y.drift := rfl
@[simp] theorem setBed_code : (setBed y i x).code = y.code := rfl
@[simp] theorem setBed_dstate : (setBed y i x).dstate = y.dstate := rfl
@[simp] theorem setBed_dpc : (setBed y i x).dpc = y.dpc := rfl
@[simp] theorem setBed_dreg : (setBed y i x).dreg = y.dreg := rfl
@[simp] theorem setBed_prog : (setBed y i x).prog = y.prog := rfl
@[simp] theorem setBed_table : (setBed y i x).table = y.table := rfl
@[simp] theorem setBed_scratch : (setBed y i x).scratch = y.scratch := rfl
@[simp] theorem setBed_args : (setBed y i x).args = y.args := rfl
@[simp] theorem setBed_reserved : (setBed y i x).reserved = y.reserved := rfl
@[simp] theorem setBed_dwait : (setBed y i x).dwait = y.dwait := rfl
@[simp] theorem setBed_starts : (setBed y i x).starts = y.starts := rfl
@[simp] theorem setBed_late : (setBed y i x).late = y.late := rfl
@[simp] theorem setBed_kindles : (setBed y i x).kindles = y.kindles := rfl
@[simp] theorem setBed_belv : (setBed y i x).belv = y.belv := rfl
@[simp] theorem getBed_setBed : getBed (setBed y i x) i = x := mget_mset_same ..
theorem getBed_setBed_ne (h : j ≠ i) : getBed (setBed y i x) j = getBed y j := mget_mset_ne _ _ h

end

section
variable (y : Job) (x : Ice)

@[simp] theorem setIce_loaded : (setIce y i x).loaded = y.loaded := rfl
@[simp] theorem setIce_faulted : (setIce y i x).faulted = y.faulted := rfl
@[simp] theorem setIce_gen : (setIce y i x).gen = y.gen := rfl
@[simp] theorem setIce_image : (setIce y i x).image = y.image := rfl
@[simp] theorem setIce_epoch : (setIce y i x).epoch = y.epoch := rfl
@[simp] theorem setIce_epochState : (setIce y i x).epochState = y.epochState := rfl
@[simp] theorem setIce_pages : (setIce y i x).pages = y.pages := rfl
@[simp] theorem setIce_syncPages : (setIce y i x).syncPages = y.syncPages := rfl
@[simp] theorem setIce_insts : (setIce y i x).insts = y.insts := rfl
@[simp] theorem setIce_windowNext : (setIce y i x).windowNext = y.windowNext := rfl
@[simp] theorem setIce_items : (setIce y i x).items = y.items := rfl
@[simp] theorem setIce_nextItem : (setIce y i x).nextItem = y.nextItem := rfl
@[simp] theorem setIce_steps : (setIce y i x).steps = y.steps := rfl
@[simp] theorem setIce_begun : (setIce y i x).begun = y.begun := rfl
@[simp] theorem setIce_usedStore : (setIce y i x).usedStore = y.usedStore := rfl
@[simp] theorem setIce_usedHbm : (setIce y i x).usedHbm = y.usedHbm := rfl
@[simp] theorem setIce_moves : (setIce y i x).moves = y.moves := rfl
@[simp] theorem setIce_clock : (setIce y i x).clock = y.clock := rfl
@[simp] theorem setIce_stuckSince : (setIce y i x).stuckSince = y.stuckSince := rfl
@[simp] theorem setIce_versions : (setIce y i x).versions = y.versions := rfl
@[simp] theorem setIce_shardVer : (setIce y i x).shardVer = y.shardVer := rfl
@[simp] theorem setIce_caches : (setIce y i x).caches = y.caches := rfl
@[simp] theorem setIce_fixed : (setIce y i x).fixed = y.fixed := rfl
@[simp] theorem getIce_setIce : getIce (setIce y i x) i = x := mget_mset_same ..
theorem getIce_setIce_ne (h : j ≠ i) : getIce (setIce y i x) j = getIce y j := mget_mset_ne _ _ h

end

end Sys2Proof.Machine
end

