-- ==== Sys2Proof/Laws/Ops.lean ====
section
/-!
SUPPORT. Laws/Ops.lean: the shared operations, each with one lemma that says what it can do: the outcome of a command on a unit, a step, the
updates of one unit, a rejected access, an event, a register write, the issue of an entry, register reads after writes.
-/
namespace Sys2Proof.Machine

/-! ### Outcomes and steps -/

theorem onUnit_cases (ok : Bool) (t : State) : (ok = true ∧ onUnit ok t = .next t) ∨ (ok = false ∧ onUnit ok t = .fault .noSuchUnit) := by
  cases ok <;> simp [onUnit]

@[simp] theorem onUnit_true (t : State) : onUnit true t = .next t := rfl
@[simp] theorem onUnit_false (t : State) : onUnit false t = .fault .noSuchUnit := rfl

theorem onUnit_next {ok : Bool} {t u : State} (h : onUnit ok t = .next u) : ok = true ∧ u = t := by
  cases ok <;> simp_all [onUnit]

@[simp] theorem whenOk_true (s t : State) : whenOk true s t = t := rfl
@[simp] theorem whenOk_false (s t : State) : whenOk false s t = s := rfl

theorem step_cons {s : State} {c : Instr} {rest : List Instr} (h : s.pending = c :: rest) : step s = exec c { s with pending := rest } := by
  simp [step, h]

theorem step_nil {s : State} (h : s.pending = []) : step s = .next (idleTick s) := by simp [step, h]

/-! ### Updates of one unit -/

@[simp] theorem modCell_eq (s : State) (c : Nat) (f : Cell → Cell) : modCell s c f = setCell s c (f (getCell s c)) := rfl
@[simp] theorem modPav_eq (s : State) (p : Nat) (f : Pav → Pav) : modPav s p f = setPav s p (f (getPav s p)) := rfl
@[simp] theorem modStore_eq (s : State) (d : Nat) (f : StoreDie → StoreDie) : modStore s d f = setStore s d (f (getStore s d)) := rfl
@[simp] theorem modHbm_eq (s : State) (h : Nat) (f : Hbm → Hbm) : modHbm s h f = setHbm s h (f (getHbm s h)) := rfl
@[simp] theorem modLink_eq (s : State) (l : Nat) (f : Link → Link) : modLink s l f = setLink s l (f (getLink s l)) := rfl
@[simp] theorem modFab_eq (s : State) (d : Nat) (f : Fab → Fab) : modFab s d f = setFab s d (f (getFab s d)) := rfl
@[simp] theorem modJob_eq (s : State) (j : Nat) (f : Job → Job) : modJob s j f = setJob s j (f (getJob s j)) := rfl
@[simp] theorem modQueue_eq (s : State) (q : Nat) (f : Queue → Queue) : modQueue s q f = setQueue s q (f (getQueue s q)) := rfl
@[simp] theorem modUcie_eq (s : State) (u : Nat) (f : Ucie → Ucie) : modUcie s u f = setUcie s u (f (getUcie s u)) := rfl

/-- Two writes of one unit are the second. -/
theorem getCell_setCell_if (s : State) (c k : Nat) (x : Cell) : getCell (setCell s c x) k = if k = c then x else getCell s k := by
  split
  · subst_vars
    exact getCell_setCell ..
  · exact getCell_setCell_ne _ _ _ _ ‹_›

/-! ### Rejected accesses, events, register writes -/

/-- A rejected access changes the error records only, and of those its own block's. -/
theorem recordErr_frame (s : State) (b off code : Nat) :
    ∃ m, recordErr s b off code = { s with errs := m } ∧ ∀ k, k ≠ b → mget ErrReg.reset m k = mget ErrReg.reset s.errs k :=
  ⟨_, rfl, fun _ h => mget_mset_ne _ _ h⟩

/-- An event that fires sets one pending bit and wakes the Lodge clock. -/
theorem raiseEvent_frame (s : State) (n : Nat) :
    (getEv (raiseEvent s n) n) = { getEv s n with pend := true } ∧ (∀ k, k ≠ n → getEv (raiseEvent s n) k = getEv s k) ∧
      ∃ m, raiseEvent s n = { s with evs := m, lodgeClk := true } := by
  refine ⟨?_, fun k h => ?_, _, rfl⟩
  · exact getEv_setEv s n { getEv s n with pend := true }
  · exact getEv_setEv_ne s n k { getEv s n with pend := true } h

/-- What a write to a register can come to: nothing, E_LINK_NO_PATH reported, a record in SEC.ERR, or its effect. -/
theorem regWrite_cases (s : State) (base off : Nat) (f : State → State) :
    regWrite s base off f = s ∨ regWrite s base off f = report s eLinkNoPath ∨
      regWrite s base off f = recordErr s secBase (base + off) eBadState ∨ regWrite s base off f = f s := by
  unfold regWrite
  repeat' split
  all_goals simp

/-- A block that takes a write has been reached. -/
theorem blockReached_of_served {s : State} {base : Nat} (v : blockServed s base = true) : blockReached s base = true := by
  unfold blockServed at v
  exact (Bool.and_eq_true _ _ ▸ v).1

theorem regWrite_taken {s : State} {base off : Nat} {f : State → State} (p : powered s = true) (b : booted s = true)
    (v : blockServed s base = true) : regWrite s base off f = f s := by
  simp [regWrite, p, b, v, blockReached_of_served v]

theorem checkWrite_taken {s : State} {base off : Nat} {l : List (Bool × Nat)} {f : State → State} (p : powered s = true) (b : booted s = true)
    (v : blockServed s base = true) (ok : l.find? (·.1) = none) : checkWrite s base off l f = f s := by
  simp [checkWrite, regWrite_taken p b v, ok]

theorem checkWrite_rejected {s : State} {base off code : Nat} {l : List (Bool × Nat)} {f : State → State} (p : powered s = true)
    (b : booted s = true) (v : blockServed s base = true) (bad : l.find? (·.1) = some (true, code)) :
    checkWrite s base off l f = recordErr s base off code := by
  simp [checkWrite, regWrite_taken p b v, bad]

/-! ### Issue -/

/-- An entry that may issue has its effect, on the state from which it has gone. -/
theorem issue_of_canIssue {s : State} {c t : Nat} {w : Word} {e : Entry} (f : State → Entry → State) (h : canIssue s c t w = some e) :
    issue s c t w f = f (issued s c e) e := by
  unfold canIssue at h
  unfold issue
  dsimp only at h ⊢
  cases hf : frontOf (getIQ (getCell s c) (queueOf w)) t with
  | none => simp [hf] at h
  | some a =>
    simp only [hf] at h ⊢
    split at h
    · cases h
      rename_i hc
      simp only [Bool.and_eq_true, decide_eq_true_eq, Bool.not_eq_true', Bool.and_eq_false_imp] at hc
      obtain ⟨⟨⟨⟨⟨h1, h2⟩, h3⟩, h4⟩, h5⟩, h6⟩ := hc
      have h7 : (isRelease w && !e.relDone && openAccess (getCell s c) t e.stamp) = false := by
        cases hr : isRelease w <;> cases hd : e.relDone <;> simp_all
      simp [h1, h2, h3, h4, h5, h7]
    · cases h

/-- The word of an entry that may issue, and its place in its queue. -/
theorem canIssue_entry {s : State} {c t : Nat} {w : Word} {e : Entry} (h : canIssue s c t w = some e) :
    e.word = w ∧ e.thread = t ∧ e ∈ getIQ (getCell s c) (queueOf w) := by
  unfold canIssue at h
  dsimp only at h
  cases hf : frontOf (getIQ (getCell s c) (queueOf w)) t with
  | none => simp [hf] at h
  | some a =>
    simp only [hf] at h
    split at h
    · cases h
      rename_i hc
      simp only [Bool.and_eq_true, decide_eq_true_eq] at hc
      refine ⟨hc.1.1.1.1.1, ?_, List.mem_of_find?_eq_some hf⟩
      simpa using List.find?_some hf
    · cases h

/-- Issuing writes one cell and the counter of free values. -/
theorem issued_frame (s : State) (c : Nat) (e : Entry) : ∃ x, issued s c e = draw (setCell s c x) := ⟨_, rfl⟩

/-! ### Registers of a cell -/

@[simp] theorem sReg_zero (n : Nat) (x : Cell) (t : Nat) : sReg n x t 0 = 0 := rfl
@[simp] theorem setS_zero (x : Cell) (t : Nat) (v : Word) : setS x t 0 v = x := rfl

/-- A scalar register reads as it was written (R55). -/
theorem sReg_setS (n : Nat) (x : Cell) (t r : Nat) (v : Word) : sReg n (setS x t r v) t r = if r = 0 then 0 else v := by
  by_cases h : r = 0 <;> simp [h, sReg, setS, markWritten, isWritten, mget_mset_same]

/-- Writing a scalar register leaves everything of the cell but the register file and its marks. -/
theorem setS_frame (x : Cell) (t r : Nat) (v : Word) : ∃ m k, setS x t r v = { x with sreg := m, written := k } := by
  unfold setS
  split
  · exact ⟨_, _, rfl⟩
  · exact ⟨_, _, rfl⟩

theorem maskReg_setMask (n : Nat) (x : Cell) (m : Nat) (v : BitVec 1024) : maskReg n (setMask x m v) m = v := by
  simp [maskReg, setMask, markWritten, isWritten, mget_mset_same]

theorem tstateOf_setTState (x : Cell) (t : Nat) (v : TState) : tstateOf (setTState x t v) t = v := mget_mset_same ..
theorem waitsOf_setWaits (x : Cell) (t : Nat) (v : Waits) : waitsOf (setWaits x t v) t = v := mget_mset_same ..
theorem streamOf_setStream (x : Cell) (t : Nat) (v : BitVec 32) : streamOf (setStream x t v) t = v := mget_mset_same ..

end Sys2Proof.Machine
end

