-- ==== Sys2Proof/Machine/Tables.lean ====
section
/-!
DEFINITION. Machine/Tables.lean: the page tables of a job context as they lie in the system area: entry words (R159), publication words and commit
words (R170), entry headers of the Icehouse (R251), and the walk of four levels from CTXROOT over them (R158, R171). Translate.lean's `walk` answers
the same for what every cell translates, without the words (Laws/Tables.lean); what only the cells of one item translate (staging, scratch, stash
slots) it adds, since R170 does not say how a table holds it (log 87).
-/
namespace Sys2Proof.Machine

/-! ### Entry words (R159) -/

/-- The 64-bit word of a leaf entry with V = 1. -/
def leafEntry (l : Leaf) : Nat :=
  let t := match l.target with
    | .phys a => a / 65536 % 2 ^ 28 * 65536
    | .fabric f => f / 65536 % 2 ^ 48 * 65536 + fieldAt 2 1
  t + fieldAt 10 l.loc + fieldAt 9 (b2n l.a) + fieldAt 8 (b2n l.imm) + fieldAt 7 (b2n l.ns) + fieldAt 6 (b2n l.rm) + fieldAt 5 (b2n l.w) +
    fieldAt 4 (b2n l.r) + 3

/-- A non-leaf entry: a table (TYPE 0), or a publication word (TYPE 2). -/
def tableEntry (a : Nat) : Nat := a / 64 % 2 ^ 38 * 64 + 1
def pubEntry (a : Nat) : Nat := a / 64 % 2 ^ 38 * 64 + fieldAt 2 2 + 1

/-- What the walker makes of an entry: a reserved TYPE leads nowhere. -/
inductive TEntry where
  | absent
  | table (a : Nat)
  | publication (a : Nat)
  | leaf (l : Leaf)
  deriving DecidableEq, Repr

/-- The leaf that a leaf entry's word maps to `t`. -/
def leafOf (w : Nat) (t : Target) : Leaf :=
  { target := t, r := bitAt w 4, w := bitAt w 5, rm := bitAt w 6, ns := bitAt w 7, imm := bitAt w 8, a := bitAt w 9, loc := w / 1024 % 4 }

def readEntry (w : Nat) : TEntry :=
  if w % 2 = 0 then .absent
  else if w / 2 % 2 = 1 then
    if w / 4 % 4 = 0 then .leaf (leafOf w (.phys (w / 65536 * 65536)))
    else if w / 4 % 4 = 1 then .leaf (leafOf w (.fabric (w / 65536 * 65536)))
    else .absent
  else if w / 4 % 4 = 0 then .table (w / 64 * 64)
  else if w / 4 % 4 = 2 then .publication (w / 64 * 64)
  else .absent

/-! ### Publication words and commit words (R170) -/

/-- The addresses that the allocator and the Lodge chose in the system area: of the table of `level` at `index` for a job, of the subtrees and words
of an instance. The spec leaves them open (log 87). -/
def systemAddr (s : State) (jb : Job) (kind n align : Nat) : Nat :=
  let x := Config.freeAddr (1000 + 8 * (2 ^ 40 * jb.gen + n) + kind)
  systemBase s (x % 4) + align * (x / 4 % (0x40000000 / align))

def tableAddr (s : State) (jb : Job) (level index : Nat) : Nat := systemAddr s jb level index (if level = 4 then 256 else 4096)
def curAddr (s : State) (jb : Job) (k : Nat) : Nat := systemAddr s jb 5 (2 * k) 256
def nextAddr (s : State) (jb : Job) (k : Nat) : Nat := systemAddr s jb 5 (2 * k + 1) 256
def pubAddr (s : State) (jb : Job) (k : Nat) : Nat := systemAddr s jb 6 k 64
def commitAddr (s : State) (jb : Job) (i : Nat) : Nat := systemAddr s jb 7 i 8

/-- The eight words of the publication word of instance k. -/
def pubWords (s : State) (jb : Job) (k : Nat) (n : Inst) : List Word :=
  let sub := fun (a : Nat) (v : Bool) => BitVec.ofNat 64 (if v then a / 64 % 2 ^ 38 * 64 + 1 else 0)
  [sub (curAddr s jb k) n.curV, sub (nextAddr s jb k) n.nextV,
   BitVec.ofNat 64 (if n.nextV then commitAddr s jb n.commitItem / 8 % 2 ^ 41 * 8 else 0), BitVec.ofNat 64 (n.version % 2 ^ 32), 0, 0, 0, 0]

/-- The commit word of an item: DONE in bit 0. -/
def commitWord (jb : Job) (i : Nat) : Word := BitVec.ofNat 64 (b2n (itemDone jb i))

/-- `resolve` of R171 over the words: true for NEXT, false for CUR. -/
def resolveWords (pw : List Word) (commit : Word) : Option Bool :=
  if (pw.getD 1 0).getLsbD 0 && commit.getLsbD 0 then some true
  else if (pw.getD 0 0).getLsbD 0 then some false
  else none

/-! ### Entry headers of the Icehouse (R251) -/

def estateCode (e : EState) : Nat :=
  match e with
  | .instore => 1
  | .spilling => 2
  | .spilled => 3
  | .refilling => 4
  | .dropped => 5

/-- The address of an entry's frame list in the system area of its store die (chosen by the allocator, log 87). -/
def framesAddr (s : State) (jb : Job) (d : Nat) (e : StashEntry) : Nat :=
  systemBase s d + 64 * (Config.freeAddr (1000 + 8 * (2 ^ 40 * jb.gen + 4 * e.seq + d)) % (0x40000000 / 64))

/-- The 32-byte header of an entry, in four words. -/
def entryHeader (s : State) (jb : Job) (d : Nat) (e : StashEntry) : List Word :=
  [BitVec.ofNat 64 (fieldAt 52 (e.stage % 2 ^ 12) + fieldAt 44 (e.replica % 2 ^ 8) + fieldAt 24 (e.mb % 2 ^ 20) + fieldAt 12 (e.chunk % 2 ^ 12) +
     fieldAt 4 (e.slot % 2 ^ 8)),
   BitVec.ofNat 64 (fieldAt 32 e.step.toNat + e.version % 2 ^ 32),
   BitVec.ofNat 64 (fieldAt 60 (estateCode e.state) + fieldAt 59 (b2n e.recomp) + fieldAt 48 e.fmt.toNat + fieldAt 32 (e.tensor % 2 ^ 16) + e.size % 2 ^ 32),
   BitVec.ofNat 64 (framesAddr s jb d e / 64 % 2 ^ 38 * 64 + e.seq % 64)]

/-- The frame list of an entry: one address for each page, the full sequence after them; a marker holds none. -/
def frameList (e : StashEntry) : List Word := e.pages.map (BitVec.ofNat 64) ++ [BitVec.ofNat 64 e.seq]

/-! ### The tables of a context (R158) -/

/-- The lowest address bit that an entry of a level covers. -/
def levelShift (level : Nat) : Nat := if level = 1 then 39 else if level = 2 then 30 else if level = 3 then 21 else 16

/-- The index of an address in the table of a level: 512 entries, at level 4 32. -/
def levelIndex (level va : Nat) : Nat := va / 2 ^ levelShift level % (if level = 4 then 32 else 512)

/-- The level of the entry that covers an instance (R170). -/
def spanLevel (size : Nat) : Nat := if size ≤ 2 ^ 21 then 3 else if size ≤ 2 ^ 30 then 2 else 1

/-- The instance that the entry of `level` for address `va` names, with its number. -/
def instEntry (jb : Job) (level va : Nat) : Option (Nat × Inst) :=
  ((List.range jb.insts.length).zip jb.insts).find? (fun e =>
    decide (spanLevel e.2.size = level ∧ e.2.va / 2 ^ levelShift level = va / 2 ^ levelShift level))

/-- A page of synchronisation objects as a leaf: neither R nor W, so that only SYN operations pass (R157, R161). -/
def syncLeaf (g : Nat) : Leaf := ⟨.phys (0xFF100000000 + 65536 * g), false, false, false, false, false, false, 0⟩

/-- A table below the entry of a level is needed: some page or instance lies under it. -/
def neededBelow (jb : Job) (level va : Nat) : Bool :=
  let sh := levelShift level
  jb.pages.any (fun e => decide (e.1 * 65536 / 2 ^ sh = va / 2 ^ sh)) || jb.syncPages.any (fun e => decide (e.1 * 65536 / 2 ^ sh = va / 2 ^ sh)) ||
    jb.insts.any (fun n => decide (n.va / 2 ^ sh = va / 2 ^ sh))

/-- The entry of a level for an address. -/
def entryWordAt (s : State) (jb : Job) (level va : Nat) : Nat :=
  if level = 4 then
    match mfind jb.syncPages (va / 65536) with
    | some g => leafEntry (syncLeaf g)
    | none => match mfind jb.pages (va / 65536) with | some l => leafEntry l | none => 0
  else
    match instEntry jb level va with
    | some (k, _) => pubEntry (pubAddr s jb k)
    | none => if neededBelow jb level va then tableEntry (tableAddr s jb (level + 1) (va / 2 ^ levelShift level)) else 0

/-- What a leaf of a level maps at an address, as a leaf of its 64 KiB page. -/
def leafAt (level va : Nat) (l : Leaf) : Leaf :=
  let off := va % 2 ^ levelShift level / 65536 * 65536
  { l with target := match l.target with | .phys a => .phys (a + off) | .fabric f => .fabric (f + off) }

/-- A page of the subtree that a publication word names. -/
def walkInst (s : State) (jb : Job) (va k : Nat) (n : Inst) : TEntry :=
  match resolveWords (pubWords s jb k n) (commitWord jb n.commitItem) with
  | none => .absent
  | some next => match mfind (if next then n.next else n.cur) ((va - n.va) / 65536) with | some l => readEntry (leafEntry l) | none => .absent

/-- The walk through the levels: from the entry of each to the next table, to a publication word, or to a leaf. -/
def walkLevels (s : State) (jb : Job) (va : Nat) : List Nat → TEntry
  | [] => .absent
  | level :: rest =>
    match readEntry (entryWordAt s jb level va) with
    | .absent => .absent
    | .leaf l => .leaf (leafAt level va l)
    | .table _ => walkLevels s jb va rest
    | .publication _ => match instEntry jb level va with | some (k, n) => walkInst s jb va k n | none => .absent

/-- The walk from CTXROOT[j], whose VALID it needs (R158, R184). -/
def walkTables (s : State) (d j va : Nat) : TEntry :=
  if 2 ^ 48 ≤ va ∨ !(mget (0, false) (getStore s d).ctxRoot j).2 then .absent else walkLevels s (getJob s j) va [1, 2, 3, 4]

end Sys2Proof.Machine
end

