-- ==== Sys2Proof/Laws/Tables.lean ====
section
/-!
SUPPORT. Laws/Tables.lean: the words of page tables lose nothing (R159), and the walk of four levels finds the page that `walk` finds.
-/
namespace Sys2Proof.Machine

/-- What the layout of R159 can hold. -/
def Leaf.wf (l : Leaf) : Prop :=
  l.loc < 4 ∧ match l.target with | .phys a => a % 65536 = 0 ∧ a < 2 ^ 44 | .fabric f => f % 65536 = 0 ∧ f < 2 ^ 64

theorem b2n_le (b : Bool) : b2n b ≤ 1 := by cases b <;> decide
theorem b2n_one (b : Bool) : decide (b2n b = 1) = b := by cases b <;> rfl

/-- Bit k of a sum in which `b` is its place. -/
theorem bitAt_of (x hi lo k : Nat) (b : Bool) (h : x = hi * (2 * 2 ^ k) + b2n b * 2 ^ k + lo) (hl : lo < 2 ^ k) : bitAt x k = b := by
  have e : x / 2 ^ k = 2 * hi + b2n b := by
    rw [h, show hi * (2 * 2 ^ k) + b2n b * 2 ^ k + lo = lo + 2 ^ k * (2 * hi + b2n b) by ring, Nat.add_mul_div_left _ _ (Nat.two_pow_pos k),
      Nat.div_eq_of_lt hl, Nat.zero_add]
  have := b2n_le b
  rw [bitAt, e, show (2 * hi + b2n b) % 2 = b2n b by omega]
  exact b2n_one b

/-- The flag bits of a leaf entry read back, whatever frame stands above them. -/
theorem leafOf_bits (q loc typ x : Nat) (r w rm ns imm a : Bool) (t : Target) (hl : loc < 4) (ht : typ < 2)
    (hx : x = q * 65536 + (loc * 1024 + b2n a * 512 + b2n imm * 256 + b2n ns * 128 + b2n rm * 64 + b2n w * 32 + b2n r * 16 + typ * 4 + 3)) :
    leafOf x t = ⟨t, r, w, rm, ns, imm, a, loc⟩ := by
  have h1 := b2n_le r; have h2 := b2n_le w; have h3 := b2n_le rm; have h4 := b2n_le ns; have h5 := b2n_le imm; have h6 := b2n_le a
  have e4 : bitAt x 4 = r :=
    bitAt_of x (q * 2048 + loc * 32 + b2n a * 16 + b2n imm * 8 + b2n ns * 4 + b2n rm * 2 + b2n w) (typ * 4 + 3) 4 r (by rw [hx]; ring) (by omega)
  have e5 : bitAt x 5 = w :=
    bitAt_of x (q * 1024 + loc * 16 + b2n a * 8 + b2n imm * 4 + b2n ns * 2 + b2n rm) (b2n r * 16 + typ * 4 + 3) 5 w (by rw [hx]; ring) (by omega)
  have e6 : bitAt x 6 = rm :=
    bitAt_of x (q * 512 + loc * 8 + b2n a * 4 + b2n imm * 2 + b2n ns) (b2n w * 32 + b2n r * 16 + typ * 4 + 3) 6 rm (by rw [hx]; ring) (by omega)
  have e7 : bitAt x 7 = ns :=
    bitAt_of x (q * 256 + loc * 4 + b2n a * 2 + b2n imm) (b2n rm * 64 + b2n w * 32 + b2n r * 16 + typ * 4 + 3) 7 ns (by rw [hx]; ring) (by omega)
  have e8 : bitAt x 8 = imm :=
    bitAt_of x (q * 128 + loc * 2 + b2n a) (b2n ns * 128 + b2n rm * 64 + b2n w * 32 + b2n r * 16 + typ * 4 + 3) 8 imm (by rw [hx]; ring) (by omega)
  have e9 : bitAt x 9 = a :=
    bitAt_of x (q * 64 + loc) (b2n imm * 256 + b2n ns * 128 + b2n rm * 64 + b2n w * 32 + b2n r * 16 + typ * 4 + 3) 9 a (by rw [hx]; ring) (by omega)
  have e10 : x / 1024 % 4 = loc := by omega
  rw [leafOf, e4, e5, e6, e7, e8, e9, e10]

theorem readEntry_leafEntry (l : Leaf) (h : l.wf) : readEntry (leafEntry l) = .leaf l := by
  obtain ⟨t, r, w, rm, ns, imm, a, loc⟩ := l
  obtain ⟨hl, h2⟩ := h
  have h1 := b2n_le r; have h3 := b2n_le w; have h4 := b2n_le rm; have h5 := b2n_le ns; have h6 := b2n_le imm; have h7 := b2n_le a
  cases t with
  | phys p =>
    obtain ⟨ha, hb⟩ := h2
    obtain ⟨q, rfl⟩ : ∃ q, p = q * 65536 := ⟨p / 65536, by omega⟩
    have e : leafEntry ⟨.phys (q * 65536), r, w, rm, ns, imm, a, loc⟩ =
        q * 65536 + (loc * 1024 + b2n a * 512 + b2n imm * 256 + b2n ns * 128 + b2n rm * 64 + b2n w * 32 + b2n r * 16 + 0 * 4 + 3) := by
      simp only [leafEntry, fieldAt]; simp only [] at hl; omega
    rw [e]
    generalize hx : q * 65536 + (loc * 1024 + b2n a * 512 + b2n imm * 256 + b2n ns * 128 + b2n rm * 64 + b2n w * 32 + b2n r * 16 + 0 * 4 + 3) = x
    have a1 : x % 2 = 1 := by omega
    have a2 : x / 2 % 2 = 1 := by omega
    have a3 : x / 4 % 4 = 0 := by omega
    have a4 : x / 65536 = q := by simp only [] at hl; omega
    simp only [readEntry, a1, a2, a3, a4, Nat.one_ne_zero, if_false, if_true]
    rw [leafOf_bits q loc 0 x r w rm ns imm a _ hl (by omega) hx.symm]
  | fabric p =>
    obtain ⟨ha, hb⟩ := h2
    obtain ⟨q, rfl⟩ : ∃ q, p = q * 65536 := ⟨p / 65536, by omega⟩
    have e : leafEntry ⟨.fabric (q * 65536), r, w, rm, ns, imm, a, loc⟩ =
        q * 65536 + (loc * 1024 + b2n a * 512 + b2n imm * 256 + b2n ns * 128 + b2n rm * 64 + b2n w * 32 + b2n r * 16 + 1 * 4 + 3) := by
      simp only [leafEntry, fieldAt]; simp only [] at hl; omega
    rw [e]
    generalize hx : q * 65536 + (loc * 1024 + b2n a * 512 + b2n imm * 256 + b2n ns * 128 + b2n rm * 64 + b2n w * 32 + b2n r * 16 + 1 * 4 + 3) = x
    have a1 : x % 2 = 1 := by omega
    have a2 : x / 2 % 2 = 1 := by omega
    have a3 : x / 4 % 4 = 1 := by omega
    have a4 : x / 65536 = q := by simp only [] at hl; omega
    simp only [readEntry, a1, a2, a3, a4, Nat.one_ne_zero, if_false, if_true]
    rw [leafOf_bits q loc 1 x r w rm ns imm a _ hl (by omega) hx.symm]

theorem readEntry_tableEntry (a : Nat) : ∃ b, readEntry (tableEntry a) = .table b := by
  refine ⟨tableEntry a / 64 * 64, ?_⟩
  have e1 : tableEntry a % 2 = 1 := by simp only [tableEntry]; omega
  have e2 : tableEntry a / 2 % 2 = 0 := by simp only [tableEntry]; omega
  have e3 : tableEntry a / 4 % 4 = 0 := by simp only [tableEntry]; omega
  simp [readEntry, e1, e2, e3]

theorem mem_of_mfind {α : Type} {m : List (Nat × α)} {k : Nat} {v : α} (h : mfind m k = some v) : (k, v) ∈ m := by
  induction m with
  | nil => cases h
  | cons e rest ih =>
    obtain ⟨i, w⟩ := e
    simp only [mfind] at h
    split at h
    · rename_i he; cases h; subst he; exact List.mem_cons_self ..
    · exact List.mem_cons_of_mem _ (ih h)

/-- A page of a region is found through the four levels as `walk` finds it, where no instance covers it (R158, R164). -/
theorem walkTables_page (s : State) (d j va : Nat) (item : Option Nat) (l : Leaf) (hw : l.wf) (hv : va < 2 ^ 48)
    (hr : (mget (0, false) (getStore s d).ctxRoot j).2 = true) (hs : mfind (getJob s j).syncPages (va / 65536) = none)
    (hp : mfind (getJob s j).pages (va / 65536) = some l) (hi : ∀ level, instEntry (getJob s j) level va = none) :
    walkTables s d j va = .leaf l ∧ walk (getJob s j) item va = .leaf l := by
  have hn : ∀ level, levelShift level ≥ 16 → neededBelow (getJob s j) level va = true := by
    intro level hl
    simp only [neededBelow, Bool.or_eq_true, List.any_eq_true, decide_eq_true_eq]
    refine Or.inl (Or.inl ⟨_, mem_of_mfind hp, ?_⟩)
    obtain ⟨k, hk⟩ := Nat.exists_eq_add_of_le hl
    rw [hk, Nat.pow_add, ← Nat.div_div_eq_div_mul, ← Nat.div_div_eq_div_mul]
    congr 1
    omega
  have up : ∀ level rest, level ≠ 4 → walkLevels s (getJob s j) va (level :: rest) = walkLevels s (getJob s j) va rest := by
    intro level rest h4
    have h16 : levelShift level ≥ 16 := by simp only [levelShift]; split <;> (try split) <;> (try split) <;> omega
    obtain ⟨b, hb⟩ := readEntry_tableEntry (tableAddr s (getJob s j) (level + 1) (va / 2 ^ levelShift level))
    simp only [walkLevels, entryWordAt, if_neg h4, hi level, hn level h16, if_true, hb]
  refine ⟨?_, ?_⟩
  · have hz : va % 2 ^ levelShift 4 / 65536 * 65536 = 0 := by
      rw [show levelShift 4 = 16 from rfl]; omega
    simp only [walkTables, hr, Nat.not_le.mpr hv, Bool.not_true, Bool.false_eq_true, or_self, if_false]
    rw [up 1 _ (by decide), up 2 _ (by decide), up 3 _ (by decide)]
    simp only [walkLevels, entryWordAt, if_true, hs, hp, readEntry_leafEntry l hw, leafAt, hz, Nat.add_zero]
    obtain ⟨t, _⟩ := l
    cases t <;> rfl
  · simp only [walk, Nat.not_le.mpr hv, if_false, hs, hp]

end Sys2Proof.Machine
end

