-- ==== Sys2Proof/Safety.lean ====
section
/-!
DEFINITION. Safety.lean: what a safe run is: every step answers a next state.
-/
namespace Sys2Proof

/-- A step that goes on. -/
def Machine.safeStep (s : Machine.State) : Prop := ∃ t, Machine.step s = .next t

/-- `n` steps, each of which goes on. -/
def Machine.safeRun : Nat → Machine.State → Prop
  | 0, _ => True
  | n + 1, s => ∃ t, Machine.step s = .next t ∧ Machine.safeRun n t

end Sys2Proof
end

