-- ==== Sys2Proof/Tests/Slice0.lean ====
section
/-!
SUPPORT. Tests/Slice0.lean: the author's own tests: an ill-formed command for every check of WellFormed.lean, words and results worked out by hand
from the spec, and for every statement with hypotheses a state and operands that meet them.
-/
namespace Sys2Proof.Tests
set_option Elab.async false
open Sys2Proof.Machine Sys2Proof.Claim

/-! ### Ill-formed commands are refused -/

theorem test_wf_cell : (Instr.kNop 4096 0 ⟨0, 0, 0, 0⟩).wellFormed = false ∧ (Instr.kNop 4095 0 ⟨0, 0, 0, 0⟩).wellFormed = true := by decide
theorem test_wf_thread : (Instr.kNop 0 8 ⟨0, 0, 0, 0⟩).wellFormed = false ∧ (Instr.kNop 0 7 ⟨0, 0, 0, 0⟩).wellFormed = true := by decide
theorem test_wf_pavilion : (Instr.pavilionGate 64).wellFormed = false ∧ (Instr.pavilionGate 63).wellFormed = true := by decide
theorem test_wf_bed : (Instr.thread0Start 0 16).wellFormed = false ∧ (Instr.thread0Start 0 15).wellFormed = true := by decide
theorem test_wf_store_die : (Instr.stackHoldTimeout 4).wellFormed = false ∧ (Instr.stackHoldTimeout 3).wellFormed = true := by decide
theorem test_wf_hbm : (Instr.hbmReinitComplete 8 true).wellFormed = false ∧ (Instr.hbmReinitComplete 7 true).wellFormed = true := by decide
theorem test_wf_link : (Instr.linkLoss 48).wellFormed = false ∧ (Instr.linkLoss 47).wellFormed = true := by decide
theorem test_wf_ucie : (Instr.ucieCrcError 4 0 false).wellFormed = false ∧ (Instr.ucieCrcError 3 0 false).wellFormed = true := by decide
theorem test_wf_context : (Instr.unloadComplete 8).wellFormed = false ∧ (Instr.unloadComplete 7).wellFormed = true := by decide
theorem test_wf_object : (Instr.syncPortUpdate 262144).wellFormed = false ∧ (Instr.syncPortUpdate 262143).wellFormed = true := by decide
theorem test_wf_target : (Instr.eventEoi 52 1).wellFormed = false ∧ (Instr.eventEoi 51 1).wellFormed = true := by decide
theorem test_wf_event_word : (Instr.eventSetp 32 0).wellFormed = false ∧ (Instr.eventSetp 31 0).wellFormed = true := by decide
theorem test_wf_queue : (Instr.queueNop (.ctx 0 64)).wellFormed = false ∧ (Instr.queueNop (.ctx 7 63)).wellFormed = true := by decide
theorem test_wf_rail : (Instr.powerGoodRise (.cmp 4)).wellFormed = false ∧ (Instr.powerGoodRise (.cmp 3)).wellFormed = true := by decide
theorem test_wf_clock : (Instr.refclkLoss (.ser 4)).wellFormed = false ∧ (Instr.refclkLoss (.ser 3)).wellFormed = true := by decide
theorem test_wf_sensor : (Instr.thermalTrip false 5 200).wellFormed = false ∧ (Instr.thermalTrip true 7 200).wellFormed = true := by decide

/-! ### Small states -/

/-- The firmware runs and the package is ACTIVE. -/
def up : State := { State.reset with pwr := { State.reset.pwr with pstate := 2 }, sec := { Sec.reset with bootState := 3 } }

/-- A persistent page of 64 KiB that a job may read and write. -/
def leaf (a : Nat) : Leaf := ⟨.phys a, true, true, false, false, false, false, 0⟩

/-- A job that goes on, with a page at 0x10000 and a page of objects at 0x20000. -/
def job0 : Job := { Job.none with loaded := true, gen := 1, pages := [(1, leaf 0x10000)], syncPages := [(2, 0)], image := { JobImage.none with nrank := 1 } }

def ctx0 : Ctx := { Ctx.reset with state := 1 }

/-- Pavilion 0 runs for it. -/
def pav0 : Pav := { Pav.reset with power := .run, held := true }

def entry (w : Word) : Entry := ⟨0, 0, 0, w, some [], none, none, false⟩

/-- Cell 0 in a launch of the job, with a program of two words. -/
def base : Cell := { Cell.reset with mode := 2, ctxv := true, job := 1, nextStamp := 1, progWords := 2, prog := [0, 0], tstate := [(0, .ready)] }

def cellOf (x : Cell) (w : Word) : Cell := setIQ x (queueOf w) [entry w]

def sys (x : Cell) : State := { up with cells := [(0, x)], pavs := [(0, pav0)], jobs := [(0, job0)], ctxs := [(0, ctx0)] }

/-- The word stands oldest in its queue in cell x, and may issue. -/
abbrev goes (x : Cell) (w : Word) : Prop := Issues (sys (cellOf x w)) 0 0 w (entry w)

def r0 : RFields := ⟨1, 2, 3, 4⟩
def i0 : IFields := ⟨1, 2, 5⟩
def b0 : BFields := ⟨1, 2, 3, 1⟩
def m0 : MFields := ⟨1, 0, 3, false, 3, 0, 0x10⟩
def g0 : MFields := ⟨1, 0, 3, true, 3, 0, 0x10000⟩
def v0 : VFields := ⟨1, 2, 3, 4, 0, 0, false, 0, 0⟩

/-! ### Results by hand -/

/-- R61: bit 63 and the code. -/
theorem test_status_word : statusWord eBadState = 0x8000000000001005 := by decide

/-- R76: −7 / 2 and its remainder, division by zero, the greatest quotient. -/
theorem test_div : divS (-7) 2 = -3 ∧ remS (-7) 2 = -1 ∧ divS 5 0 = -1 ∧ remS 5 0 = 5 ∧ divS (BitVec.intMin 64) (-1) = BitVec.intMin 64 := by decide

/-- R274: reached, passed, not reached, passed by 2^31 − 1 and by 2^31. -/
theorem test_satisfied : satisfied ⟨5, 5, 0, false, [], false⟩ = true ∧ satisfied ⟨6, 5, 0, false, [], false⟩ = true ∧ satisfied ⟨4, 5, 0, false, [], false⟩ = false ∧
    satisfied ⟨0x7FFFFFFF, 0, 0, false, [], false⟩ = true ∧ satisfied ⟨0x80000000, 0, 0, false, [], false⟩ = false := by decide

/-- R71, R73: ADDI s1, s2, 5 is class 2, opcode 0. -/
theorem test_word_addi : encI 2 0 i0 = 0x2000880000000005 := by decide

/-- R71, R73: LD s1, 0x10 of 8 bytes, local: SIZE 3 in bits [35:34]. -/
theorem test_word_ld : encM 3 0 m0 = 0x3000806C00000010 := by decide

/-- R229: the words of the example, whose last is HALT. -/
theorem test_word_halt : encD 0x3F ⟨0, 0, 0, 0⟩ = 0xFC000000 := by decide

/-- R8, R11: a misaligned write leaves ERR.CODE = E_ARG_ALIGN in LODGE. -/
theorem test_misaligned_write : mget ErrReg.reset (writeWindow up 0x2004 8 1).errs 0 = ⟨1, 0x2004, 0x1003⟩ := by decide +kernel

/-- R33, R34: 1.5 + 2.25 = 3.75. -/
theorem test_fadd : addF32 0x3FC00000 0x40100000 = 0x40700000 := by decide +kernel

/-- R44: 1 + 2^−24 rounds to even. -/
theorem test_fadd_tie : addF32 0x3F800000 0x33800000 = 0x3F800000 := by decide +kernel

/-! ### States that meet the hypotheses of the statements: general -/

theorem witness_step_runs_front : ∃ u, step { up with pending := [.powerLoss] } = .next u := ⟨_, rfl⟩
theorem witness_idle : State.reset.pending = [] ∧ State.reset.pwr.pstate ≠ 0 ∧ { State.reset with pwr := { Pwr.reset with pstate := 0 } }.pwr.pstate = 0 := by decide
theorem witness_memory : Memory.wf [(3, 7), (4, 1)] = true ∧ (0 : Nat) < ([1, 0] : List Byte).length := by decide
theorem witness_every_step_memory : Memory.wf State.reset.mem = true ∧ Memory.wf State.reset.host = true ∧ ∃ u, step State.reset = .next u := ⟨rfl, rfl, _, rfl⟩
theorem witness_ember : (∃ u, step State.reset = .next u) ∧ State.reset.pending.head? ≠ some .powerLoss := ⟨⟨_, rfl⟩, by decide⟩
theorem witness_birth : ∃ u, step State.reset = .next u := ⟨_, rfl⟩

/-! ### Scalar and control instructions -/

/-- Cell 0 with s2 = v. -/
def s2 (v : Word) : Cell := setS base 0 2 v

theorem witness_scalar_integer : ∀ k ∈ scalarOps, goes base (encR 1 k.2.1 r0) := by delta goes Issues; decide +kernel
theorem witness_scalar_float : ∀ k ∈ scalarFloatOps, goes base (encR 1 k.2.1 r0) := by delta goes Issues; decide +kernel
theorem witness_scalar_immediate : ∀ k ∈ immediateOps, goes base (encI 2 k.2.1 i0) := by delta goes Issues; decide +kernel

/-- A word's fields: the greatest class and opcode. -/
theorem witness_word_fields : (15 : Nat) < 16 ∧ (255 : Nat) < 256 := by decide

theorem witness_jumps : goes base (encB 0 1 b0) ∧ goes base (encB 0 2 b0) ∧ goes (s2 1) (encB 0 3 b0) ∧ goes (s2 1) (encB 0 4 b0) ∧
    (sReg 0 (s2 1) 0 2).toNat % 8192 < (s2 1).progWords := by delta goes Issues; decide +kernel

theorem witness_indirect_jump_fault : goes (s2 2) (encB 0 3 b0) ∧ (s2 2).progWords ≤ (sReg 0 (s2 2) 0 2).toNat % 8192 ∧ (s2 2).faultCode = 0 := by
  delta goes Issues; decide +kernel

theorem witness_branches : ∀ k ∈ branchOps, goes base (encB 0 k.2.1 b0) := by delta goes Issues; decide +kernel

/-- Cell 0 with s2 = 1 and thread 1 READY. -/
def twoThreads : Cell := { s2 1 with tstate := [(0, .ready), (1, .ready)] }

theorem witness_thread_control : goes base (encB 0 0 b0) ∧ goes base (encB 0 0x12 b0) ∧ goes base (encB 0 0x14 b0) ∧ goes base (encB 0 0x15 b0) ∧
    (goes (s2 1) (encB 0 0x10 b0) ∧ tstateOf (s2 1) 1 = .idle) ∧ (goes twoThreads (encB 0 0x11 b0) ∧ tstateOf twoThreads 1 = .ready) ∧
    (goes base (encB 0 0x13 b0) ∧ waitsOf base 0 ≠ .join 0) := by delta goes Issues; decide +kernel

/-- HALT by thread 7. -/
theorem witness_halt_thread : Issues (sys { cellOf base (encB 0 0x13 b0) with ctl := [{ entry (encB 0 0x13 b0) with thread := 7 }] }) 0 7 (encB 0 0x13 b0)
    { entry (encB 0 0x13 b0) with thread := 7 } := by unfold Issues; decide +kernel

/-! ### Memory instructions -/

/-- The last doubleword of the cell store, and the first above the program. -/
theorem witness_local_loads :
    let f := { m0 with off := 0x3FFF8 }
    let t := { m0 with b := 0, off := 0x3FFF8 }
    goes base (encM 3 0 f) ∧ goes base (encM 3 1 f) ∧ goes base (encM 3 3 t) ∧ accessAddr (sys (cellOf base (encM 3 0 f))) 0 0 f false = 0x3FFF8 ∧
      accessAddr (sys (cellOf base (encM 3 3 t))) 0 0 t true = 0x3FFF8 := by delta goes Issues; decide +kernel

theorem witness_local_stores :
    let f := { m0 with b := 0 }
    goes base (encM 3 2 f) ∧ goes base (encM 3 4 f) ∧ accessAddr (sys (cellOf base (encM 3 2 f))) 0 0 f false = 8 * base.progWords ∧
      accessAddr (sys (cellOf base (encM 3 4 f))) 0 0 f true = 0x10 := by delta goes Issues; decide +kernel

theorem witness_misaligned :
    let f := { m0 with b := 0, off := 0x11 }
    (∀ op ∈ [0, 1, 2], goes base (encM 3 op f) ∧ accessAddr (sys (cellOf base (encM 3 op f))) 0 0 f false % 8 ≠ 0) ∧
      (∀ op ∈ [3, 4], goes base (encM 3 op f) ∧ accessAddr (sys (cellOf base (encM 3 op f))) 0 0 f true % 8 ≠ 0) ∧ base.faultCode = 0 := by
  delta goes Issues; decide +kernel

/-- The piece of an access to the page at 0x10000. -/
def piece (n : Nat) : Piece := ⟨0x10000, n, .phys 0x10000⟩

theorem witness_atomics : ∀ k ∈ atomicOps, goes base (encM 3 k.2.1 g0) ∧ hasFabric [piece 8] = false ∧
    accessAddr (sys (cellOf base (encM 3 k.2.1 g0))) 0 0 g0 false = 0x10000 ∧
    checkAccess (issued (sys (cellOf base (encM 3 k.2.1 g0))) 0 (entry (encM 3 k.2.1 g0))) job0 none 0 .atom
      [(0x10000, if k.2.2 = .xs then 24 else 8)] = .ok [piece (if k.2.2 = .xs then 24 else 8)] := by delta goes Issues; decide +kernel

theorem witness_global_accesses :
    (∀ op ∈ [0, 1, 2, 3, 4], let f := { g0 with b := 0 }
      goes base (encM 3 op f) ∧ accessAddr (sys (cellOf base (encM 3 op f))) 0 0 f (op == 3 || op == 4) = 0x10000) ∧
    checkAccess (issued (sys (cellOf base (encM 3 0 g0))) 0 (entry (encM 3 0 g0))) job0 none 0 .rd [(0x10000, 8)] = .ok [piece 8] ∧
    checkAccess (issued (sys (cellOf base (encM 3 2 g0))) 0 (entry (encM 3 2 g0))) job0 none 0 .wr [(0x10000, 8)] = .ok [piece 8] := by
  delta goes Issues; decide +kernel

/-- VLD of F32 and VLDM at 0x10000, the address in s2. -/
def vm0 : VMFields := ⟨1, 2, 0, true, 0, 0, 0, false, 0, 0⟩

theorem witness_global_tiles :
    let c := s2 0x10000
    let w := encVM 9 0 vm0
    let rs := tileRanges 0 (cellOf c w) 0 w
    goes c w ∧ tileMisaligned 0 rs = none ∧
      checkAccess (issued (sys (cellOf c w)) 0 (entry w)) job0 none 0 .rd rs =
        .ok ((List.range 16).map (fun i => ⟨0x10000 + 64 * i, 64, .phys (0x10000 + 64 * i)⟩)) ∧
      goes c (encVM 9 4 vm0) ∧ (tileAddr 0 c 0 (encVM 9 4 vm0)).toNat % 64 = 0 ∧
      checkAccess (issued (sys (cellOf c (encVM 9 4 vm0))) 0 (entry (encVM 9 4 vm0))) job0 none 0 .rd [(0x10000, 128)] = .ok [piece 128] := by
  delta goes Issues; decide +kernel

theorem witness_local_tiles :
    let f := { vm0 with space := false }
    let c := s2 0x10000
    goes c (encVM 9 0 f) ∧ goes c (encVM 9 1 f) ∧ goes c (encVM 9 4 f) ∧ goes c (encVM 9 5 f) ∧
      (∀ op ∈ [0, 1], let w := encVM 9 op f
        let x := getCell (issued (sys (cellOf c w)) 0 (entry w)) 0
        tileMisaligned 0 (tileRanges 0 x 0 w) = none ∧ localBad x (op == 1) (tileRanges 0 x 0 w) = none) ∧
      (tileAddr 0 c 0 (encVM 9 4 f)).toNat = 0x10000 := by delta goes Issues; decide +kernel

/-! ### Synchronisation, allocation, streams -/

/-- At an object of the job. -/
def o0 : MFields := ⟨1, 0, 3, true, 3, 0, 0x20010⟩

theorem witness_sync : goes base (encM 4 0 { o0 with off := 0 }) ∧ goes base (encM 4 0 { o0 with off := 1 }) ∧
    (∀ op ∈ [0x10, 0x11, 0x12, 0x13, 0x14, 0x15], let w := encM 4 op o0
      goes base w ∧ accessAddr (sys (cellOf base w)) 0 0 o0 false % 16 = 0 ∧
        syncAt (issued (sys (cellOf base w)) 0 (entry w)) 0 (op == 0x10) 0x20010 = .obj 1) := by delta goes Issues; decide +kernel

theorem witness_allocation : (∀ op ∈ [0, 1, 2, 8], goes base (encR 5 op r0)) ∧
    Issues (sys { cellOf base (encR 5 8 r0) with ctl := [{ entry (encR 5 8 r0) with thread := 1 }] }) 0 1 (encR 5 8 r0)
      { entry (encR 5 8 r0) with thread := 1 } := by delta goes Issues; decide +kernel

/-- A LINEAR stream of 16 units of 64 bytes from 0x10000 (R191). -/
def desc0 : List Word := [0x10000, 0, 0, 64, 0x0001001000000000, 0x0000010001100001, 0x10000, 0x10400]

/-- The 64 bytes of a unit, all 7. -/
def unit0 : Map Byte :=
  [(0, 7), (1, 7), (2, 7), (3, 7), (4, 7), (5, 7), (6, 7), (7, 7), (8, 7), (9, 7), (10, 7), (11, 7), (12, 7), (13, 7), (14, 7), (15, 7), (16, 7), (17, 7), (18, 7), (19, 7), (20, 7), (21, 7), (22, 7), (23, 7), (24, 7), (25, 7), (26, 7), (27, 7), (28, 7), (29, 7), (30, 7), (31, 7)] ++
  [(32, 7), (33, 7), (34, 7), (35, 7), (36, 7), (37, 7), (38, 7), (39, 7), (40, 7), (41, 7), (42, 7), (43, 7), (44, 7), (45, 7), (46, 7), (47, 7), (48, 7), (49, 7), (50, 7), (51, 7), (52, 7), (53, 7), (54, 7), (55, 7), (56, 7), (57, 7), (58, 7), (59, 7), (60, 7), (61, 7), (62, 7), (63, 7)]

/-- Slot 3 runs, and the first n units have come. -/
def streamCell (n : Nat) : Cell :=
  let u := fun k => ({ k := k, got := unit0, want := [], drop := [], counted := true, poisoned := false, faults := [] } : SUnit)
  { base with slots := [(3, { Slot.reset with state := .running, desc := desc0, units := (List.range n).map u, nextUnit := n, pos := 8 })] }

theorem test_descriptor : descFault desc0 = none ∧ dTotal desc0 = 16 ∧ dBytes desc0 = 64 ∧ unitIn desc0 15 = some (0x103C0, none) := by decide +kernel

/-- The state of a cell and one entry with its claims made. -/
def claimed (x : Cell) (w : Word) (cs : List Claim) : State := sys (setIQ x (queueOf w) [{ entry w with claims := some cs }])

theorem witness_q_pop : Issues (claimed (streamCell 1) (encR 6 3 r0) [.bytes 3 0 8]) 0 0 (encR 6 3 r0) { entry (encR 6 3 r0) with claims := some [.bytes 3 0 8] } ∧
    claimsGot (streamCell 1) [.bytes 3 0 8] = .inl [(List.replicate 8 7, [])] := by delta Issues; decide +kernel

/-- VLD.Q of slot 3; its claims are taken as a list, here the empty one (the 1,024 bytes of a real claim make the test slow). -/
def vq : VMFields := ⟨1, 3, 0, false, 0, 0, 0, false, 0, 0⟩

theorem witness_vld_q : goes (streamCell 16) (encVM 9 2 vq) ∧ claimsGot (streamCell 16) ((entry (encVM 9 2 vq)).claims.getD []) = .inl [] := by
  delta goes Issues; decide +kernel

/-- A sound descriptor in the cell store at 0x100, whose address s2 holds. -/
def loadCell : Cell := localWrite (s2 0x100) 0x100 (desc0.flatMap (fun w => leBytes 8 w.toNat))

theorem witness_q_load : goes loadCell (encR 6 0 r0) ∧ (getSlot loadCell 3).state = .empty ∧
    descFault (wordsOf (localRead 0 (getCell (issued (sys (cellOf loadCell (encR 6 0 r0))) 0 (entry (encR 6 0 r0))) 0) 0x100 64)) = none := by
  delta goes Issues; decide +kernel

def slotIn (st : SlotState) : Cell := { base with slots := [(3, { Slot.reset with state := st, desc := desc0 })] }

theorem witness_q_others : goes (slotIn .running) (encR 6 0 r0) ∧ goes (slotIn .loaded) (encR 6 1 r0) ∧
    bufferUsed (slotIn .loaded) + dDepth desc0 * unitFootprint desc0 ≤ 65536 ∧ goes (slotIn .running) (encR 6 2 r0) ∧ goes (slotIn .ended) (encR 6 4 r0) := by
  delta goes Issues; decide +kernel

/-! ### Vector and matrix instructions -/

theorem witness_vector_elements : (∀ k ∈ elementOps2, goes base (encV 8 k.2.1 v0)) ∧ (∀ k ∈ elementOps1, goes base (encV 8 k.2.1 v0)) ∧
    (∀ k ∈ scaleOps, goes base (encV 8 k.2.1 v0)) ∧ goes base (encV 8 3 v0) := by delta goes Issues; decide +kernel

theorem witness_vector_movement : (∀ op ∈ [0x92, 0x93, 0x91, 0x95, 0x94, 0x96, 0x46, 0x80], goes base (encV 8 op v0)) ∧
    ∀ k ∈ reduceOps, goes base (encV 8 k.2.1 v0) := by delta goes Issues; decide +kernel

theorem witness_masks : (∀ k ∈ compareOps, goes base (encV 8 k.2.1 v0)) ∧ (∀ k ∈ testOps, goes base (encV 8 k.2.1 v0)) ∧
    (∀ k ∈ maskOps, goes base (encV 8 k.2.1 v0)) ∧ goes base (encV 8 0x64 v0) := by delta goes Issues; decide +kernel

theorem witness_vector_frames : goes base (encV 8 0 v0) ∧ ∃ u, exec (.kVadd 0 0 v0) (sys (cellOf base (encV 8 0 v0))) = .next u := by
  refine ⟨?_, _, onUnit_true _⟩
  delta goes Issues; decide +kernel

/-- BF16 blocks at addresses; both operands are held. -/
def x0 : XFields := ⟨1, 2, 3, 4, 1, 1, false, false, false, false, false, false, 2⟩

/-- The entry of an MMA whose operands are held, and the block mask in s4. -/
def heldEntry (w : Word) : Entry := { entry w with opA := some [], opB := some [] }
def maskCell (v : Word) : Cell := setS base 0 4 v

theorem witness_mma : ∀ op ∈ [0, 1], let w := encX 0xC op x0
    Issues (sys { maskCell 1 with mat := [heldEntry w] }) 0 0 w (heldEntry w) ∧ suppressed 0 (maskCell 1) 0 w = false := by delta Issues; decide +kernel

theorem witness_mma_suppressed : ∀ op ∈ [0, 1], let w := encX 0xC op x0
    Issues (sys { maskCell 0 with mat := [heldEntry w] }) 0 0 w (heldEntry w) ∧ suppressed 0 (maskCell 0) 0 w = true := by delta Issues; decide +kernel

/-- An MMA by addresses has claimed nothing. -/
theorem witness_mma_claims : claimsGot base [] = .inl [] := rfl

/-- A Quench to tile registers, and one to the cell store whose address is s2 = 0x1000. -/
def q0 : QFields := ⟨4, 2, 3, 0, 0, 0, 0, 1, 8⟩

theorem witness_quench : (∀ op ∈ [8, 9, 0, 1, 2], goes base (encQ 0xD op q0)) ∧ goes (s2 0x1000) (encQ 0xD 0 { q0 with dest := 1 }) ∧
    misaligned 64 [(0x1000, 4096)] = none := by delta goes Issues; decide +kernel

/-! ### Cells that go on -/

def flight0 : Flight :=
  { stamp := 0, thread := 1, pc := 0, word := encM 3 0 g0, kind := .load, dest := some 33, miss := true, switches := true, acquire := false
    arrived := true, data := [1, 2, 3, 4, 5, 6, 7, 8], raw := [], need := 0, old := [], mask := 0, ranges := [] }

theorem witness_load_return :
    let x := { base with flights := [flight0], tstate := [(0, .ready), (1, .miss)] }
    cellLive (sys x) 0 = true ∧ x.flights.find? (fun f => decide (f.stamp = flight0.stamp)) = some flight0 ∧ flight0.dest = some 33 ∧ 33 % 32 ≠ 0 ∧
      flight0.kind ≠ .opA ∧ flight0.kind ≠ .opB ∧ tstateOf x 1 = .miss := by decide +kernel

theorem witness_fetch : cellLive (sys base) 0 = true ∧ pickThread base 8 base.fetchPtr = (some 0, base) ∧ base.pastEnd.contains 0 = false ∧
    pickThread { base with pastEnd := [0] } 8 0 = (some 0, { base with pastEnd := [0] }) := by decide +kernel

theorem witness_fetched_word : base.pastEnd.contains 0 = false ∧ (getIQ base (queueOf (base.prog.getD (pcOf base 0) 0))).length < queueDepth .ctl := by
  decide +kernel

def alloc0 : AllocReq := ⟨0, 0, 0, 1, 2, 0, 0, false, false⟩

/-- The allocator has an answer. -/
def isDone : AllocAns → Bool
  | .done _ _ => true
  | _ => false

theorem witness_cell_waits :
    let x := { base with missWaiters := [0], tstate := [(0, .missfull)] }
    let y := { base with waits := [(0, .fence false 0)] }
    let z := { base with allocs := [alloc0] }
    let w := { base with allocs := [{ alloc0 with waiting := true }] }
    (missUsed x < 48 ∧ cellLive (sys x) 0 = true) ∧ (fenceOver y 0 = true ∧ waitsOf y 0 = .fence false 0) ∧
      (z.allocs.find? (fun a => !a.waiting) = some alloc0 ∧ isDone (performAlloc (sys z) 0 alloc0) = true) ∧
      (w.allocs.find? (·.waiting) = some { alloc0 with waiting := true } ∧ isDone (performAlloc (sys w) 0 { alloc0 with waiting := true }) = true) ∧
      drained { base with waits := [(0, .publish)] } = true := by decide +kernel

def req0 : BellowsReq := ⟨0, 3, 0, 0, [0], [(0, [])], false, false, false, true, []⟩
def run0 : MatRun := ⟨0, encX 0xC 0 x0, 0x3F800000, 0xFFFFFFFF, [], [], 0⟩
def quench0 : QuenchRun := ⟨0, 0, 0, encQ 0xD 0 q0, 0, 0, 0x3F800000, 0, 0, [], false, []⟩
def opFlight : Flight := { flight0 with stamp := 0, kind := .opA, word := encX 0xC 0 x0 }

theorem witness_cell_engines :
    let s := { streamCell 0 with bellows := [req0] }
    let m := { base with mat := [entry (encX 0xC 0 x0)], flights := [opFlight] }
    cellLive (sys base) 0 = true ∧ (s.bellows.length < 96 ∧ ((demandWant s).or (aheadWant s)).isSome = true) ∧
      (s.bellows.find? (fun r => decide (r.id = 0)) = some req0 ∧ req0.remote = false) ∧ ({ base with runs := [run0] }.runs = run0 :: []) ∧
      (tongsEntry m = some (entry (encX 0xC 0 x0)) ∧ m.flights.find? (fun f => decide (f.stamp = 0 ∧ f.kind = opKind false)) = some opFlight) ∧
      (runsInto { base with quench := some quench0 } (qAcc quench0.word) = false ∧ quench0.started = false) ∧
      quenchWaits (sys { base with quench := some { quench0 with started := true } }) 0 { quench0 with started := true } = false := by decide +kernel

/-- The atomics: nothing waits at the Hearth of the operand's die. -/
theorem witness_atomics_complete : ∀ k ∈ atomicOps, let s := sys (cellOf base (encM 3 k.2.1 g0))
    0x10000 + 24 ≤ hostBase ∧ dieOfAddr s 0x10000 = 0 ∧ stackUp s 0 = true ∧ (getStore s 0).hearthQ = [] ∧ (getCell s 0).flights = [] ∧ s.upsets = [] := by
  decide +kernel

theorem witness_matrix_completes : (∀ op ∈ [0, 1], let w := encX 0xC op x0
      (getCell (issued (sys { maskCell 1 with mat := [heldEntry w] }) 0 (heldEntry w)) 0).runs = []) ∧ q0.dest = 0 ∧ q0.fmt = 0 ∧
    ∀ op ∈ [0, 1, 2], let w := encQ 0xD op q0
      runsInto (getCell (issued (sys (cellOf base w)) 0 (entry w)) 0) q0.acc.toNat = false := by decide +kernel

theorem witness_chunk : 1023 < (List.replicate 1024 (0 : F32)).length ∧ xFmtA (encX 0xC 0 x0) ≠ 0 ∧ xFmtB (encX 0xC 0 x0) ≠ 0 ∧ wOp (encX 0xC 0 x0) = 0 := by
  decide +kernel

theorem witness_vertical_port : (getCell (sys base) 0).mode ≠ 3 ∧ running (sys base) = true ∧ base.beatFails = 0 ∧
    { base with testOwed := true }.testOwed = true ∧ (∀ e ∈ [(31, 64)], e.1 < 32 ∧ e.2 ≤ 64) ∧ { base with unlogged := [65] }.unlogged = 65 :: [] := by
  decide +kernel

def chan0 : ChanDecl := ⟨0, 0, 1, 0, 64, 2, 0x1000, 0x2000, 0x20000, 1⟩
def chanJob : Job := { job0 with image := { job0.image with chans := [chan0] } }
def port0 : Port := { Port.reset with valid := true, peerCell := 1, credits := 1, creditsBack := 1, sealed := [0], wire := [(0, List.replicate 64 1)] }

theorem witness_channels :
    let s := { sys { base with tx := [(0, port0)], rx := [(0, port0)] } with jobs := [(0, chanJob)] }
    portLive s 0 = true ∧ (portJob s 0).image.chans[0]? = some chan0 ∧ port0.sealed.contains port0.turn = true ∧ 0 < port0.credits ∧
      port0.peerCell ≠ 0 ∧ port0.wire = (0, List.replicate 64 1) :: [] ∧ port0.forwarding = false ∧ 0 < port0.creditsBack := by decide +kernel

/-- A channel whose FILL object is object 0. -/
theorem witness_slot_land : fillObject chanJob chan0 0 = some 0 := by decide +kernel

/-! ### Store dies, publication, the Icehouse -/

def move0 : PageMove := ⟨1, 0x10000, 0x1000000000, false, true⟩

theorem witness_store_events :
    let s := { up with stores := [(0, { StoreDie.reset with frames := [(3, ⟨.zeroing, 0⟩)] })] }
    stackUp up 0 = true ∧ running up = true ∧ up.upsets = [] ∧
      (∀ g ∈ [({ addr := 0x10008, bad := true } : Upset)], wordAt up 0 g.addr = true) ∧
      ({ job0 with moves := [move0] }.moves.find? (fun n => n.started && decide (n.vpn = move0.vpn))) = some move0 ∧ job0.loaded = true ∧
      (mget ⟨.free, 0⟩ (getStore s 0).frames 3).state = .zeroing ∧ ∀ j, j < 8 → (getJob s j).moves = [] := by decide +kernel

def stage0 : StageDecl :=
  { h := 1, w := 1, replicas := 1, progWords := 2, words := [0, 0], entFwd := some 0, entBwd := none, entRed := none, dataBytes := 0, data := []
    slots := [], reads := [] }
def item0 : Item :=
  { stage := 0, replica := 0, phase := 0, mb := 0, chunk := 0, step := 0, die := 0, state := .running, pav := 0, bed := 0, toReport := [], reported := true
    staging := [], scratch := [], scratchPages := [], version := 0 }
def itemJob (st : IState) : Job :=
  { job0 with image := { job0.image with stages := [stage0], window := 1 }, items := [(0, { item0 with state := st })], ices := [(0, { Ice.reset with hwm := 1 })] }
def jobSys (j : Job) : State := { sys base with jobs := [(0, j)] }

/-- Cell 0 in the launch of the running item, with two temporary pages to free. -/
def freeReq : AllocReq := { alloc0 with kind := 2, a := 0x50000 }
def tmpSys : State :=
  { jobSys { itemJob .running with items := [(0, { item0 with scratch := [(0x50000, 1)] })] } with cells := [(0, { base with item := some 0, allocs := [freeReq] })] }

/-- An entry that claims 8 bytes of the first unit, which has not been asked for. -/
def claimCell : Cell :=
  let x := streamCell 0
  { setIQ x (queueOf (encR 6 3 r0)) [{ entry (encR 6 3 r0) with claims := some [.bytes 3 0 8] }] with slots := [(3, { getSlot x 3 with pos := 0 })] }

theorem witness_cell_events :
    let s := tmpSys
    let x := getCell s 0
    let y := { streamCell 1 with bellows := [req0] }
    (cellLive s 0 = true ∧ x.allocs.find? (fun a => !a.waiting) = some freeReq ∧ writesBefore x freeReq.stamp = false ∧ x.item = some 0 ∧
      ((mfind (getJob s 0).items 0).bind (fun it => mfind it.scratch freeReq.a.toNat)) = some 1) ∧
    (demandWant claimCell = some ⟨3, 0, [0], true⟩ ∧ unitIn (getSlot claimCell 3).desc 0 = some (0x10000, none) ∧
      checkAccess (sys claimCell) (getJob (sys claimCell) 0) none 0 .rd [(0x10000, 64)] = .ok [⟨0x10000, 64, .phys 0x10000⟩]) ∧
    (y.bellows.find? (fun r => decide (r.id = 0)) = some req0 ∧ (getSlot y 3).state = .running ∧ (getSlot y 3).gen = req0.gen ∧
      ((getSlot y 3).units.find? (fun u => decide (u.k = req0.k))).isSome = true) := by decide +kernel

theorem witness_publication :
    let jb := itemJob .running
    (jobLive (jobSys jb) 0 = true ∧ mfind jb.items 0 = some item0 ∧ groupReported jb (groupOf jb item0) = true ∧
      groupWhole jb item0 (groupOf jb item0) = true ∧
      ∀ m ∈ (groupOf jb item0).filterMap (fun k => mfind jb.items k), stagedMoves jb m = false ∧ stackUp (jobSys jb) m.die = true) ∧
    (mfind (itemJob .committed).items 0 = some { item0 with state := .committed }) ∧
    (let k := { itemJob .done with insts := [⟨0x30000, 65536, [], false, [(0, leaf 0x30000)], true, 0, 0⟩] }
     (k.insts[0]?).map (·.nextV) = some true ∧ mfind k.items 0 = some { item0 with state := .done }) := by decide +kernel

def stash0 : StashEntry := ⟨0, 0, 0, 0, 0, 0, 0, .instore, false, 0, 0, 1024, 1, [0x50000], [0], []⟩
def ice0 (st : EState) (frames : List Nat) : Ice := { Ice.reset with store := 8, spill := 1, entries := [{ stash0 with state := st }], storeFrames := frames, spillFrames := [0x10000] }

theorem witness_icehouse :
    let a := { job0 with ices := [(0, ice0 .instore [5])] }
    let b := { job0 with ices := [(0, { ice0 .spilled [6, 7, 8, 9] with entries := [{ stash0 with state := .spilled, pages := [0x100000000] }] })] }
    (jobLive (jobSys a) 0 = true ∧ stackUp (jobSys a) 0 = true ∧ spillReady a 0 = some stash0) ∧
      (refillReady b 0).isSome = true ∧ ({ ice0 .spilling [5] with moves := [(0x50000, 0x100000000)] }.moves = (0x50000, 0x100000000) :: []) := by
  decide +kernel

/-- The one running item waits for a stash frame. -/
theorem witness_deadlock :
    let s := { jobSys (itemJob .running) with cells := [(0, { base with item := some 0, allocs := [{ alloc0 with waiting := true }] })] }
    (getJob (noteStuck s 0) 0).stuckSince = some 0 ∧ jobLive (noteStuck s 0) 0 = true := by decide +kernel

theorem witness_moves_end :
    let s := jobSys { job0 with moves := [move0] }
    move0.fromAddr % 65536 = 0 ∧ move0.toAddr % 65536 = 0 ∧ move0.fromAddr ≠ move0.toAddr ∧
      ∀ k, k < 4 → (getFab s k).waiting = [] ∧ (getFab s k).dir = [] := by decide +kernel

theorem witness_icehouse_completes :
    let a := jobSys { job0 with ices := [(0, ice0 .instore [5])] }
    let b := jobSys { job0 with ices := [(0, { ice0 .spilled [6, 7, 8, 9] with entries := [{ stash0 with state := .spilled, pages := [0x100000000] }] })] }
    let m := jobSys { job0 with ices := [(0, { ice0 .spilling [5] with moves := [(0x50000, 0x100000000)] })] }
    let t := noteStuck { jobSys (itemJob .running) with cells := [(0, { base with item := some 0, allocs := [{ alloc0 with waiting := true }] })] } 0
    (moverFree a 0 0 = true ∧ moverFree b 0 0 = true ∧ spillNeeded b 0 = false ∧ (refillReady (getJob b 0) 0).isSome = true) ∧
      ((moverJobs m 0).head? = some 0 ∧ (0x50000 : Nat) + 65536 ≤ 0x100000000) ∧
      (waitingCells (advanceTo t 2500000) 0 = [0] ∧ (getCell (advanceTo t 2500000) 0).ctx = 0) := by decide +kernel

/-! ### Dispatch units and pavilions -/

/-- An argument region of a page at 0x10000. -/
def argsRegion : RegionDecl :=
  ⟨.args, 0x10000, 0x10000, 0, false, true, true, false, false, false, [], 0, none, 0, none, false⟩

def d0 : DFields := ⟨1, 2, 3, 1⟩

/-- The unit of pavilion 0 stands at a word, with d2 = v, a table of two words, and one more word after it. -/
def unitAt (op : Nat) (v : Word) : Pav :=
  { pav0 with dstate := 1, prog := [encD op d0, encD 0 ⟨0, 0, 0, 0⟩, encD 0x3F ⟨0, 0, 0, 0⟩], table := [7, 8], dreg := [(2, v)] }
def pavSys (x : Pav) : State := { sys base with pavs := [(0, x)] }

theorem witness_dispatch_words : (63 : Nat) < 64 ∧ dEnabled (pavSys (unitAt 2 0)) 0 0x02 d0 = true ∧ dEnabled (pavSys (unitAt 0x13 0)) 0 0x13 d0 = true ∧
    ((1 : Nat) : Int) = (unitAt 0x13 0).dpc + d0.imm.toInt ∧ 1 < (unitAt 0x13 0).prog.length := by decide +kernel

theorem witness_dispatch_arithmetic : (∀ op ∈ [0x00, 0x01, 0x02, 0x03, 0x04, 0x05, 0x06, 0x07, 0x08, 0x09, 0x0A, 0x0B, 0x21, 0x25], dEnabled (pavSys (unitAt op 0)) 0 op d0 = true) ∧
    (unitAt 0 0).dpc + 1 < (unitAt 0 0).prog.length ∧ (unitAt 9 0).table[((0 : Word) + d0.imm.signExtend 64).toNat]? = some 8 ∧
    (dReg (unitAt 0x0A 254) 2 + d0.imm.signExtend 64).toNat = 255 ∧ d0.imm.toNat < 5 := by decide +kernel

theorem witness_dispatch_branches : (∀ op ∈ [0x10, 0x11, 0x12, 0x13, 0x3F], dEnabled (pavSys (unitAt op 0)) 0 op d0 = true) ∧
    ((0 : Int) + d0.imm.toInt).toNat < (unitAt 0x10 0).prog.length := by decide +kernel

theorem witness_dispatch_faults : (∀ op ∈ [0x09, 0x0A, 0x0B], dEnabled (pavSys (unitAt op 255)) 0 op d0 = true) ∧
    (unitAt 9 1).table.length ≤ (dReg (unitAt 9 1) 2 + d0.imm.signExtend 64).toNat ∧ 256 ≤ (dReg (unitAt 0x0A 255) 2 + d0.imm.signExtend 64).toNat ∧
    (let x := { pav0 with dstate := 1, prog := [encD 0 d0] }
     dEnabled (pavSys x) 0 0x00 d0 = true ∧ x.dpc + 1 = x.prog.length) := by decide +kernel

def bedPav (x : Pav) : Pav := { x with beds := [(0, { Bed.reset with valid := true })] }
def itemSys (x : Pav) (st : IState) : State := { pavSys (bedPav x) with jobs := [(0, itemJob st)] }

theorem witness_dispatch_next : dEnabled (itemSys (unitAt 0x20 0) .waiting) 0 0x20 d0 = true ∧ (unitAt 0x20 0).reserved = none ∧
    offered (itemSys (unitAt 0x20 0) .waiting) 0 = some (0, { item0 with state := .waiting }) ∧
    dEnabled (pavSys (unitAt 0x20 0)) 0 0x20 d0 = true ∧ offered (pavSys (unitAt 0x20 0)) 0 = none := by decide +kernel

/-- LAUNCH of the reserved item, whose word is in d2. -/
def launchPav (pw : PPower) : Pav :=
  { unitAt 0x22 (itemWordOf { item0 with state := .reserved }) with reserved := some 0, power := pw }

theorem witness_dispatch_launch : ∀ pw ∈ [PPower.run, PPower.gated], dEnabled (itemSys (launchPav pw) .reserved) 0 0x22 d0 = true ∧
    launchNamed (itemSys (launchPav pw) .reserved) 0 (dReg (launchPav pw) 2) = some (0, { item0 with state := .reserved }) ∧
    (launchPav pw).power = pw := by decide +kernel

theorem witness_next_resume : (let x := { unitAt 0x20 0 with dwait := .next 1, dstate := 2 }
      pavLive (itemSys x .waiting) 0 = true ∧ offered (itemSys x .waiting) 0 = some (0, { item0 with state := .waiting })) ∧
    (let x := { launchPav .run with dwait := .launch 1 0, dstate := 2 }
     pavLive (itemSys x .reserved) 0 = true ∧ mfind (itemJob .reserved).items 0 = some { item0 with state := .reserved }) := by decide +kernel

/-- MIGRATE of stage 0, replica 0, to bed 1 of the same pavilion. -/
theorem witness_kindle_migrate :
    let x := { unitAt 0x24 0 with dreg := [(3, 1)] }
    dEnabled (pavSys (unitAt 0x23 0)) 0 0x23 d0 = true ∧ (unitAt 0x23 0).held = true ∧ (unitAt 0x23 0).ctx = 0 ∧
      dEnabled (itemSys x .waiting) 0 0x24 d0 = true ∧ (dReg x 3).toNat < 2 ^ 10 ∧ (requestMigration (itemSys x .waiting) 0 0 0 0 1).isLeft = true := by
  decide +kernel

theorem witness_pavilion_power :
    (running (pavSys { pav0 with power := .kindling }) = true ∧ stackUp (pavSys pav0) 0 = true ∧ pav0.dwait = .none) ∧
    (launchRuns (pavSys pav0) 0 = false ∧ pav0.power = .run) ∧
    (temperPending { pav0 with power := .gated } = false ∧ pav0.offNow ≠ 0xFFFFFFFF ∧ temperPending { pav0 with power := .gated, voffPend := 1 } = true) ∧
    ({ pav0 with starts := [(0, 0)] }.starts.find? (fun e => decide (e.1 = 0)) = some (0, 0) ∧ pavLive (pavSys { pav0 with starts := [(0, 0)] }) 0 = true) ∧
    (mget 0 { up with pavRsts := [(0, 1)] }.pavRsts 0 = 0 + 1 ∧ booted up = true) := by decide +kernel

def mig0 : Mig := ⟨0, 0, 0, 0, 0, 1, [], [], false⟩

theorem witness_migration : jobLive (sys base) 0 = true ∧ (getMigs { sys base with migs := [(0, [mig0])] } 0)[0]? = some mig0 ∧ mig0.done = false ∧
    migOver { sys base with migs := [(0, [mig0])] } 0 mig0 = true ∧
    (let s := { sys { base with rx := [(0, port0)] } with jobs := [(0, chanJob)] }
     (moveInput s { mig0 with stage := 1, toB := 0 } 0 chan0).isSome = true ∧ (getJob s 0).image.chans[0]? = some chan0 ∧ chan0.cStage = 1) := by decide +kernel

/-- The job with its argument region at 0x10000. -/
def argJob (st : IState) : Job := { itemJob st with image := { (itemJob st).image with regions := [argsRegion] } }
def argSys (x : Pav) (st : IState) : State := { itemSys x st with jobs := [(0, argJob st)] }

theorem witness_launch_completes : (launchPav .run).dpc + 1 < (launchPav .run).prog.length ∧
    (∀ x ∈ [launchPav .run, { launchPav .run with dwait := .launch 1 0, dstate := 2 }], let s := argSys x .reserved
      versionOf s (argJob .reserved) { item0 with state := .reserved } = some 0 ∧
        checkAccess s (argJob .reserved) none 0 .wr [(argAddr (argJob .reserved) 0 0, 64)] = .ok [⟨0x10000, 64, .phys 0x10000⟩]) ∧
    (dEnabled (argSys (launchPav .run) .reserved) 0 0x22 d0 = true ∧
      launchNamed (argSys (launchPav .run) .reserved) 0 (dReg (launchPav .run) 2) = some (0, { item0 with state := .reserved })) := by decide +kernel

/-- Pavilion 1 is held by the job and OFF; KINDLE by pavilion 0 names it. -/
theorem witness_kindle_completes :
    let s := { itemSys (unitAt 0x23 1) .waiting with pavs := [(0, bedPav (unitAt 0x23 1)), (1, { pav0 with power := .off })] }
    dEnabled s 0 0x23 d0 = true ∧ (dReg (getPav s 0) 2).toNat = 1 ∧ (getPav s 1).power = .off ∧ (getPav s 1).held = true ∧ (getPav s 1).ctx = 0 ∧
      (getPav s 1).retired = false ∧ (getPav s 1).retirePend = false ∧ (getPav s 0).dpc + 1 < (getPav s 0).prog.length := by decide +kernel

theorem witness_thread0_starts : let x := { bedPav pav0 with starts := [(0, 0)] }
    x.starts.find? (fun e => decide (e.1 = 0)) = some (0, 0) ∧ mfind (itemJob .running).items 0 = some item0 ∧
      (stageOf (itemJob .running) 0).bind (fun st => entryWord st item0.phase) = some 0 ∧ pavLive (itemSys x .running) 0 = true := by decide +kernel

/-- A consumer cell with nothing on the wire; a migration whose input of channel 0 has moved. -/
def migSys : State := { sys { base with rx := [(0, { port0 with wire := [] })] } with jobs := [(0, chanJob)] }

theorem witness_migration_completes :
    let m := { mig0 with stage := 1, moves := [0] }
    let s := migSys
    m.moves.contains 0 = true ∧ m.ends.contains 0 = false ∧ oldIdle s m = true ∧ chan0.cStage = m.stage ∧
      (forwardAll s m 0 chan0).isSome = true ∧ (getPav s m.fromP).retirePend = false := by decide +kernel

/-! ### Synchronisation objects, the Hearth, update engines -/

/-- Object 0 with some operations at its port. -/
def portSys (o : SyncObj) (l : List PortOp) : State := { sys base with objs := [(0, o)], ports := [(0, l)], objPages := [(0, 1)] }
def obj0 : SyncObj := ⟨0, 0x80000000, 3, true, [⟨1, none⟩], false⟩

theorem witness_port : objOk 0 = true ∧ stackUp (sys base) (dieOfObj 0) = true ∧ up.failTrigger = 0 ∧
    (∀ l ∈ [[PortOp.arrive 0xFFFFFFFF none], [.arm 1 none], [.reset none], [.wait 1 (some 0)], [.read 0 0], [.setevt 15], [.clrevt]],
      getPort (portSys obj0 l) 0 = l ∧ getObj (portSys obj0 l) 0 = obj0) ∧ satisfied { obj0 with target := 1 } = false := by decide +kernel

theorem witness_satisfied_object : satisfied (getObj (portSys { obj0 with target := 0 } []) 0) = true ∧ obj0.evt = true ∧
    satisfied (getObj (portSys { obj0 with target := 0, evt := false } []) 0) = true ∧ satisfied (getObj (portSys { obj0 with target := 1 } []) 0) = false := by
  decide +kernel

theorem witness_timeouts :
    let o := { obj0 with waiters := [⟨8 * 0 + 1, some 5⟩] }
    let x := { base with waits := [(0, .object 1 true 0)] }
    ((getObj (portSys o []) 0).waiters.find? (fun w => decide (w.agent = 8 * 0 + 1)) = some ⟨8 * 0 + 1, some 5⟩ ∧ stackUp (portSys o []) 0 = true) ∧
      (cellLive (sys x) 0 = true ∧ waitsOf x 0 = .object 1 true 0 ∧ [(⟨0, false⟩ : WaitMsg)].find? (fun m => decide (m.agent = 8 * 0 + 0)) = some ⟨0, false⟩ ∧
        [(⟨0, true⟩ : WaitMsg)].find? (fun m => decide (m.agent = 8 * 0 + 0)) = some ⟨0, true⟩) := by decide +kernel

def hreq : HearthReq := ⟨.add, [(0x10000, 4)], 1, 0, 4, some (0, 0), none⟩

theorem witness_hearth :
    let s := { sys { base with flights := [{ flight0 with arrived := false }] } with stores := [(0, { StoreDie.reset with hearthQ := [hreq] })] }
    stackUp s 0 = true ∧ s.failTrigger = 0 ∧ (getStore s 0).hearthQ = hreq :: [] ∧ hreq.fabric = none ∧ hreq.cell = some (0, 0) ∧
      hreq.parts = [(0x10000, hreq.width)] ∧ hreq.width = 4 ∧ 0x10000 + hreq.width ≤ hostBase ∧ hreq.op ≠ .xs ∧
      ((getCell s 0).flights.find? (fun f => decide (f.stamp = 0))).isSome = true := by decide +kernel

theorem witness_atomic_arithmetic : 0 < 32 ∧ 0xFFFFFFFF < 2 ^ 32 := by decide

def u0 : UFields := ⟨3, 1, 2, 4, 0⟩
def shard0 : ShardDecl :=
  { identity := 1, shard := 0, tensor := 0, first := [0, 0], count := [32, 32], ownerPkg := 0, ownerDie := 0, stage := 0, fmt := 0, workVa := 0x100000
    workScaleVa := 0, bases := [], slowBufs := [], snapBufs := [], prog := 0, slowProg := none, fetchDone := [], closeObj := none, slowDone := none
    notices := [], initial := none }
def tensor0 : TensorDecl :=
  { shape := [32, 32], fmt := 0, scale := 0x3F800000, identity := some 1, places := 1, accXs := false, emax := 0, contribs := 1, train := 0, trainBits := [] }
def run1 : UpdRun := ⟨0, 0, [0], 0, 0, []⟩
def prog0 (w : BitVec 32) (kind : Nat) : UpdDecl := ⟨0, 1, false, [(kind, 0, 0, 0)], [], [w, w]⟩

/-- The update engine of store die 0 stands at a word; slot 0 of its program is of a kind. -/
def updSys (w : BitVec 32) (kind : Nat) : State :=
  let jb := { itemJob .running with
    image := { (itemJob .running).image with shards := [shard0], updates := [prog0 w kind], tensors := [tensor0] }
    items := [(0, { item0 with phase := 4 })] }
  { jobSys jb with stores := [(0, { StoreDie.reset with updRun := some run1 })] }

theorem witness_update_words : (∀ op ∈ [0x08, 0x09, 0x0A, 0x0B, 0x0C, 0x0D, 0x0E, 0x0F, 0x10, 0x11, 0x12, 0x13, 0x14, 0x15, 0x03, 0x04, 0x18, 0x19],
      UpdAt (updSys (encU op u0) 0) 0 (encU op u0) run1 0 shard0 (prog0 (encU op u0) 0)) ∧ run1.pc + 1 < (prog0 0 0).words.length := by
  delta UpdAt; decide +kernel

theorem witness_update_loads : UpdAt (updSys (encU 1 u0) 0) 0 (encU 1 u0) run1 0 shard0 (prog0 (encU 1 u0) 0) ∧
    UpdAt (updSys (encU 2 u0) 2) 0 (encU 2 u0) run1 0 shard0 (prog0 (encU 2 u0) 2) ∧
    UpdAt (updSys (encU 2 u0) 0) 0 (encU 2 u0) run1 0 shard0 (prog0 (encU 2 u0) 0) ∧ isSb 0 = false ∧
    (fieldBytes (updSys (encU 1 u0) 0) 0 run1 0 shard0 0 0 0).isLeft = true ∧ (fieldBytes (updSys (encU 2 u0) 2) 0 run1 0 shard0 0 2 0).isLeft = true := by
  delta UpdAt; decide +kernel

/-- An UPD item of a stage that owns no shard, waiting; and one that has ended its shards. -/
theorem witness_upd_items :
    let it := { item0 with phase := 4, state := .waiting }
    let s := jobSys { itemJob .running with items := [(0, it)] }
    (jobLive s 0 = true ∧ stackUp s 0 = true ∧ updOf s 0 = none ∧ updReady s (getJob s 0) it = true ∧
      (stageShards 0 0 0 s (ownedShards s (getJob s 0) 0 0)).isSome = true ∧ mfind (getJob s 0).items 0 = some it) ∧
    updOf { updSys 0 0 with stores := [(0, { StoreDie.reset with updRun := some { run1 with shards := [] } })] } 0 = some { run1 with shards := [] } := by
  decide +kernel

/-- A shard of another package's making that a stage of this one reads. -/
def readJob : Job :=
  { itemJob .waiting with
    image := { (itemJob .waiting).image with
               stages := [{ stage0 with reads := [(1, 0)] }], shards := [{ shard0 with ownerDie := 1 }], tensors := [tensor0] } }
def ver0 : VerRec := ⟨0, 0, 0, [], [], 0⟩
def fetch0 : FetchRec := ⟨0, 0, 1, 0, false, [], 2⟩

def shard1 : ShardDecl := { shard0 with ownerDie := 1 }
def readSys (j : Job) : State := { jobSys j with pkgSet := true, pavs := [(0, bedPav pav0)] }

theorem witness_fetch_start : jobLive (readSys readJob) 0 = true ∧ stackUp (readSys readJob) 0 = true ∧
    readJob.items.any (fun e => decide (e.2.die = 0) && (readsShards readJob e.2.stage).contains 0) = true ∧
    wantedVersions (readSys readJob) readJob 0 0 shard1 = 0 :: [] ∧ (getJob (readSys readJob) 0).caches = [] ∧ (getJob (readSys readJob) 0).versions = [] := by
  decide +kernel

theorem witness_fetch_end :
    let f := { readSys readJob with stores := [(0, { StoreDie.reset with fetch := [fetch0] })] }
    (getStore f 0).fetch.find? (fun g => jobLive f g.job && (fetchedBytes g [1, 2]).isSome) = some fetch0 ∧ fetchedBytes fetch0 [1, 2] = some [1, 2] ∧
      (getJob f 0).image.shards[0]? = some shard1 := by decide +kernel

theorem witness_export :
    let e := { readSys { readJob with versions := [(verKey 0 0, ver0)] } with exportRuns := [⟨0, 0, 1, 0, 0, 0x10000, 0x20010⟩] }
    e.exportRuns.find? (fun r => decide (r.job = 0)) = some ⟨0, 0, 1, 0, 0, 0x10000, 0x20010⟩ ∧ mfind (getJob e 0).versions (verKey 0 0) = some ver0 ∧
      stackUp e 1 = true ∧ (checkAccess e (getJob e 0) none 1 .wr [(0x10000, 4352)] = .ok [⟨0x10000, 4352, .phys 0x10000⟩]) := by decide +kernel

/-- The update engine's item with a staged working copy at frame 0x200000, and a staged hot-tier field at frame 0x210000. -/
def stageSys (w : BitVec 32) (kind : Nat) : State :=
  let s := updSys w kind
  let g := fun (hot : Bool) (m : Map Leaf) => ({ slot := updSlot 0 hot, base := 0, used := [], pages := m } : Staging)
  { s with jobs := [(0, { getJob s 0 with items := [(0, { item0 with phase := 4, staging := [g false [(16, leaf 0x200000)], g true [(0, leaf 0x210000)]] })] })] }

theorem witness_update_completes :
    let work := stageSys (encU 2 u0) 0
    let hot := stageSys (encU 2 u0) 2
    UpdAt work 0 (encU 2 u0) run1 0 shard0 (prog0 (encU 2 u0) 0) ∧ UpdAt hot 0 (encU 2 u0) run1 0 shard0 (prog0 (encU 2 u0) 2) ∧
    run1.pc + 1 < (prog0 0 0).words.length ∧ (fieldBytes work 0 run1 0 shard0 0 0 0).isLeft = true ∧ (fieldBytes hot 0 run1 0 shard0 0 2 0).isLeft = true ∧
    fieldBase (getJob work 0) shard0 (stepOfRun work run1).toNat 0 0 / 65536 = 16 ∧ (mfind (newPages work run1 0 false) 16).map (·.target) = some (.phys 0x200000) ∧
    fieldBase (getJob hot 0) shard0 (stepOfRun hot run1).toNat 0 2 / 65536 = 0 ∧ (mfind (newPages hot run1 0 true) 0).map (·.target) = some (.phys 0x210000) ∧
    jobLive work 0 = true ∧ stackUp work 0 = true := by delta UpdAt; decide +kernel

def doneJob : Job := { itemJob .done with items := [(0, { item0 with state := .done, step := 16 })] }
theorem witness_scrub : scrubDue doneJob 0 = true ∧ doneJob.caches = [] ∧ doneJob.versions = [] ∧ jobLive (jobSys doneJob) 0 = true ∧
    stackUp (jobSys doneJob) 0 = true := by decide +kernel

def fetchJob : Job := { readJob with image := { readJob.image with dies := [⟨2, 0, 0, 0, 0, 0⟩] }, versions := [(verKey 0 0, { ver0 with digest := digestOf shard1 0 [1, 2] })] }
theorem witness_fetch_completes :
    let s := { readSys fetchJob with stores := [(0, { StoreDie.reset with fetch := [fetch0] })] }
    fetchRoute s 0 shard1 = true ∧ ownsShard s shard1 = true ∧ shard1.fetchDone = [] ∧
      digestOf shard1 0 [1, 2] = publishedDigest s fetchJob 0 0 shard1 ∧
      (publishCopy (modStore s 0 (fun x => { x with fetch := [] })) 0 0 0 0 shard1 (publishedDigest s fetchJob 0 0 shard1) [1, 2]).isSome = true := by
  decide +kernel

def descr0 : Descr := { kind := 0, ndim := 1, sfmt := 0, dfmt := 0, rnd := 0, rsv := false, stream := 0, v := 0, obj := 0, sbase := 0, sscale := 0, dbase := 0, dscale := 0, first := [0], count := [1], sorg := [0], sext := [1], dorg := [0], dext := [1], tensor := 0 }
def rdescr0 : RunDescr := ⟨0, descr0, 0, none, none, 0, false, [], 0, false, 0, none⟩
def trans0 : TransDecl := ⟨0, 0, 0, 0, []⟩

/-- One element of an MX format into its element format. -/
def descr1 : Descr := { descr0 with kind := 2, sfmt := 0x12, dfmt := 0xA }
def rdescr1 : RunDescr := { rdescr0 with started := true }
def epochMap : MappingDecl :=
  { MappingDecl.none with
    trans := [{ trans0 with descrs := [descr1] }], closeObj := (1, 0), activations := [(1, 1)], activation := some 0, epochLast := [(0, 0)] }
/-- The job of the only package, whose epoch is in a state. -/
def epochJob (n : Nat) : Job := { job0 with image := { job0.image with mapping := epochMap }, epochState := n, steps := [⟨0, [], [], none, 0⟩] }
def epochSys (n : Nat) : State :=
  { jobSys (epochJob n) with stores := [(0, { StoreDie.reset with transQueue := [(0, 0)], descrs := [rdescr1] })], pkgId := 1, pkgSet := true }

/-- A job with the pages of job0 walks to no page but its own. -/
theorem walk_job0 (jb : Job) (a : Nat) (l : Leaf) (h : (jb.pages, jb.syncPages, jb.insts, jb.versions) = (job0.pages, job0.syncPages, [], []))
    (w : walk jb none a = .leaf l) : l = leaf 0x10000 := by
  simp only [Prod.mk.injEq] at h
  obtain ⟨hp, hs, hi, hv⟩ := h
  rw [walk, hp, hs, hi, ownedPage, hv] at w
  case x_3 =>
    intro _ _ h
    cases h
  split at w
  · cases w
  · split at w
    · cases w
    · split at w
      · rename_i m hm
        simp only [job0, mfind] at hm
        split at hm <;> simp_all
      · cases w

/-- No descriptor of such a job reads in another package. -/
theorem source_here (jb : Job) (x : Descr) (n : BitVec 32) (h : (jb.pages, jb.syncPages, jb.insts, jb.versions) = (job0.pages, job0.syncPages, [], [])) :
    sourceHere jb x n = true := by
  rw [sourceHere, List.all_eq_true]
  intro r _
  rw [List.all_eq_true]
  intro q _
  cases w : walk jb none q.1 with
  | leaf l => rw [walk_job0 jb q.1 l h w]; rfl
  | _ => rfl

theorem witness_source_here : sourceHere (epochJob 1) descr1 0 = true ∧ sourceHere job0 descr1 0 = true := ⟨source_here _ _ _ rfl, source_here _ _ _ rfl⟩

theorem witness_reshard : nextTransition (epochSys 1) 0 = some (0, 0, { trans0 with descrs := [descr1] }) ∧ (getStore (epochSys 1) 0).transBusy = none ∧
    stackUp (epochSys 1) 0 = true ∧ (getStore (epochSys 1) 0).descrs.all (fun r => r.started) = true ∧
    (getStore (epochSys 1) 0).descrs = [rdescr1] ∧ jobLive (epochSys 1) rdescr1.job = true := by decide +kernel

theorem witness_descriptor_ends : rdescr1.started = true ∧ rdescr1.failed = none ∧ rdescr1.sent = false ∧ rdescr1.need ≤ rdescr1.raw.length ∧
    { rdescr1 with sent := true }.acks = 0 := by decide +kernel

theorem witness_epochs : jobLive (epochSys 1) 0 = true ∧ (epochSys 1).pkgSet = true ∧ epochMap.epochLast.find? (fun e => decide (e.1 = (epochJob 1).epoch)) = some (0, 0) ∧
    epochQuiet (epochSys 1) (epochJob 1) 0 = true ∧ (epochJob 2).image.rank = 0 ∧ epochMap.closeObj.1 = (epochSys 2).pkgId ∧
    satisfied (getObj (epochSys 2) 0) = true ∧ getPort (epochSys 2) 0 = [] ∧ objOk epochMap.closeObj.2 = true ∧
    epochMap.activations = [((epochSys 2).pkgId, 1)] ∧ (1 : Nat) ≠ epochMap.closeObj.2 ∧ epochMap.activation = some 0 := by decide +kernel

/-! ### Links and the fabric -/

/-- Link 0 in a state. -/
def linkIn (st : Nat) : Link := { Link.reset with state := st }
def linkSys (x : Link) : State := { up with links := [(0, x)], pkgId := 1, pkgSet := true }

theorem witness_link_training : (∀ st ∈ [0, 1, 2, 3, 4], mayTrain (linkSys (linkIn st)) 0 = true ∧ (getLink (linkSys (linkIn st)) 0).state = st) ∧
    (linkIn 1).trainTimes.length < 7 ∧ 7 ≤ ((List.replicate 7 0).filter (fun t => decide ((linkSys (linkIn 1)).ember < t + 25000000))).length ∧
    (linkSys (linkIn 4)).pkgSet = true ∧ (2 : BitVec 16) ≠ (linkSys (linkIn 4)).pkgId ∧ laneWidth (linkIn 4) = 4 ∧
    mget 0 { linkIn 2 with laneFails := [(3, 2)] }.laneFails 3 = 2 ∧ (linkIn 2).laneFails = [] := by decide +kernel

theorem witness_link_up : (∀ d, d < 4 → (getFab (linkSys (linkIn 4)) d).held = []) ∧
    (∀ d, d < 4 → (getFab (linkSys (linkIn 5)) d).send = [] ∧ (getFab (linkSys (linkIn 5)) d).chanWait = []) := by decide +kernel

theorem witness_takes_writes : TakesWrites up (linkBase 47) ∧ TakesWrites up (fabBase 3) ∧ TakesWrites up (hearthBase 0) ∧ TakesWrites up lodgeBase := by
  delta TakesWrites; decide +kernel

theorem witness_link_control : bits (1 : Word).toNat 63 2 = 0 ∧ bitAt (1 : Word).toNat 0 = true ∧ bitAt (1 : Word).toNat 1 = false ∧
    bitAt (3 : Word).toNat 1 = true ∧ bits (4 : Word).toNat 63 2 ≠ 0 ∧ (linkIn 6).state = 6 := by decide +kernel

/-- Slots and first word of an idle flit, number 0, and of one with NAK and number 1; a flit with the FCRC of its bytes. -/
def idle0 : List Byte := List.replicate 632 0
def nak1 : List Byte := leBytes 8 (2 ^ 52 + 2 ^ 39) ++ List.replicate 624 0
def flitOf (l : List Byte) : Flit := ⟨l ++ leBytes 8 (crc64 l).toNat, false, 2, []⟩

theorem witness_flits : linkUp (linkSys (linkIn 5)) 0 = true ∧ (flitOf idle0).badLanes = [] ∧ flitNak (flitOf idle0) = false ∧
    flitSeq (flitOf idle0) = (linkIn 5).rxNext ∧ flitSeq (flitOf idle0) ≠ { linkIn 5 with rxNext := 1 }.rxNext ∧
    (∀ d, d < 4 → (getFab (linkSys (linkIn 5)) d).held = []) ∧ (takePackets 64 ((linkIn 5).rx ++ flitSlots (flitOf idle0))).1 = [] ∧
    flitNak (flitOf nak1) = true ∧ flitSeq (flitOf nak1) ≠ (linkIn 5).rxNext ∧
    (List.filter (fun t => decide (0 < t + 25000)) (linkIn 5).uncorrTimes).length < 15 := by decide +kernel

theorem idle0_length : idle0.length = 632 := List.length_replicate ..
theorem nak1_length : nak1.length = 632 := by rw [nak1, List.length_append, leBytes_length, List.length_replicate]

theorem witness_good_and_bad_flits : flitBad (flitOf idle0) = false ∧ flitBad (flitOf nak1) = false ∧ (flitOf idle0).bytes.length = 640 ∧
    flitBad ⟨idle0 ++ leBytes 8 ((crc64 idle0).toNat + 1), false, 2, []⟩ = true := by
  refine ⟨flitBad_sealed _ _ _ _ idle0_length, flitBad_sealed _ _ _ _ nak1_length, ?_, ?_⟩
  · rw [flitOf, List.length_append, idle0_length, leBytes_length]
  · rw [flitBad_append _ _ _ _ _ idle0_length]
    generalize crc64 idle0 = c
    have := c.isLt
    simp only [decide_eq_true_eq]
    omega

/-- A packet of a type for this package, whose identity is 1, from package 2. -/
def pkt0 (t : PType) : Packet := { Packet.blank t 1 with src := 2 }
def recv0 : RecvCh := ⟨0, 2, 0, 0, 0, [], 0, 0, []⟩
def fabSys (f : Fab) : State := { sys base with pkgId := 1, pkgSet := true, fabs := [(0, f)] }
def region0 : Region := ⟨true, 0, 0, 0x10000, 2, 0x10000, [0xFFFF, 0xFFFF, 0xFFFF]⟩

theorem witness_inbound : ∀ t ∈ [PType.rd, .wr, .atom, .arrive, .mark, .xfer, .crd, .crdx, .cdata, .crecall, .crack, .cwb, .rack, .ack, .status, .rdrsp, .atomrsp],
    inboundOk (fabSys Fab.reset) 0 (pkt0 t) t = true := by decide +kernel

theorem witness_packet_order :
    let s := fabSys { Fab.reset with recv := [recv0] }
    recvEntry (getFab s 0) (pkt0 .mark) s.ember = some recv0 ∧ (pkt0 .mark).cseq = recv0.next ∧ (deliver1 s 0 (pkt0 .mark)).isSome = true ∧
      0 < (({ pkt0 .mark with cseq := 4095 }).cseq - recv0.next).toNat ∧ (({ pkt0 .mark with cseq := 4095 }).cseq - recv0.next).toNat < 4096 ∧
      recv0.held.any (fun q => decide (q.cseq = 4095)) = false ∧ recvEntry (getFab (fabSys Fab.reset) 0) (pkt0 .mark) 0 = none ∧
      (deliver1 s 0 { pkt0 .mark with cls := 2 }).isSome = true := by decide +kernel

theorem witness_packet_effects :
    let s := { fabSys Fab.reset with regions := [(3, region0)], objPages := [(0, 1)] }
    let p := fun t => { pkt0 t with region := 3, offset := 0, w3 := 7 }
    checkInbound s 0 (p .rd) 8 .rd = .ok 0 0x10000 [⟨0x10000, 8, .phys 0x10000⟩] ∧ checkInbound s 0 { p .rd with region := 255 } 8 .rd = .bad eArgRange ∧
      checkInbound s 0 (p .wr) 8 .wr = .ok 0 0x10000 [⟨0x10000, 8, .phys 0x10000⟩] ∧ arriveCode s { p .arrive with region := 255 } = none ∧
      (getRegion s 3).valid = true ∧ (getRegion s 3).mode ≠ 3 ∧ (p .xfer).src = (getRegion s 3).owner ∧ ({ p .xfer with src := 9 }).src ≠ (getRegion s 3).owner ∧
      ({ Fab.reset with kept := [⟨0, 2, 0, 0, 0, 5, 0, 0⟩] }.kept.find? (keptKey (p .atom))).isSome = true ∧
      (List.replicate 64 ((2 : BitVec 16), (0 : BitVec 32), 0)).length = 64 := by decide +kernel

def out0 : OutReq := ⟨0, 0, 0, 0, 0, .cell 0 0 0, false, 0, { Packet.blank .rd 2 with w3 := 7 }⟩
def send0 : SendCh := ⟨0, 2, 0, 0, 1, true, [⟨{ Packet.blank .mark 2 with cseq := 0 }, 0, none, none⟩], [], 0, 0, none⟩

theorem witness_fabric_responses :
    let s := fabSys { Fab.reset with outs := [out0], send := [send0] }
    (getFab s 0).waiting = [] ∧ (getFab s 0).send.find? (fun e => decide (e.dst = (pkt0 .ack).src ∧ e.dstk = 0 ∧ e.cls = (pkt0 .ack).region)) = some send0 ∧
      matchOut s 0 (pkt0 .rdrsp) = some out0 ∧ findComb s 0 out0.forWho = none ∧ matchOut (fabSys Fab.reset) 0 (pkt0 .rdrsp) = none ∧
      pktCode (pkt0 .atomrsp) = 0 := by decide +kernel

/-- Package 3 is reached by path 0, over link 0, which is UP. -/
def routerSys : State := { fabSys { Fab.reset with route := [(3, 0x80)], held := [(0, pkt0 .wr, 0)] } with links := [(0, { linkIn 5 with peer := 3 })] }
def comb0 (l : List Packet) : Comb := ⟨0, l, false⟩

theorem witness_routers :
    let p := { pkt0 .wr with dst := 3, hops := 47 }
    forwards routerSys 0 = true ∧ running routerSys = true ∧ ownDst routerSys p = false ∧ p.hops < 48 ∧ bestPath routerSys 0 3 0 = some 0 ∧
      routePath routerSys 0 3 0 = some 0 ∧ ownDst routerSys { p with hops := 48 } = false ∧
      (getFab routerSys 0).held.find? (fun h => decide (h.1 = 0)) = some (0, pkt0 .wr, 0) ∧
      [comb0 [p]].find? (fun c => decide (c.id = 0) && !c.sent) = some (comb0 [p]) ∧ (comb0 [p, p]).members = p :: p :: [] := by decide +kernel

theorem witness_routers_room :
    let p := { pkt0 .wr with dst := 3, hops := 47 }
    wireOk p = true ∧ linkRoom routerSys 0 p = true ∧ (getFab routerSys 0).held.any (waitsFor routerSys 0 0 p) = false ∧ p.cls = 0 ∧ p.retry = false := by
  decide +kernel

theorem witness_fabric_timers :
    let e := { recv0 with next := 1 }
    let s := { fabSys { Fab.reset with recv := [e], send := [{ send0 with dst := 3 }], outs := [out0], quar := [(5, 100)], kept := [⟨0, 2, 0, 0, 0, 5, 0, 0⟩], route := [(3, 0x80)] } with
      links := [(0, { linkIn 5 with peer := 3 })] }
    (e.next ≠ e.acked ∧ channelQuiet s 0 e = true ∧ stackUp s 0 = true ∧ (getFab s 0).recv.find? (fun e => decide (e.id = 0)) = some e) ∧
      (send0.unacked ≠ [] ∧ send0.unacked.any (fun p => decide (8 ≤ p.resent)) = false ∧ (3 : BitVec 16) ≠ s.pkgId ∧
        channelPath (advanceTo s 2500) 0 { send0 with dst := 3 } = some 0) ∧ (send0.unacked.map (fun p => { p with resent := 8 })).any (fun p => decide (8 ≤ p.resent)) = true ∧
      ({ send0 with unacked := [] }.waitQ = []) ∧ (findOut s 0 0 = some out0 ∧ out0.retries < 4 ∧ s.ember < out0.sentAt + 31250) ∧
      (mfind (getFab s 0).quar 5 = some 100 ∧ (getFab s 0).tagWait = []) ∧ ((getFab s 0).kept.find? (fun k => decide (k.id = 0))).isSome = true := by
  decide +kernel

/-- A die whose fabric holds no packet; package 3 is reached by path 0, over link 0, which is UP. -/
def outSys (f : Fab) : State := { fabSys { f with route := [(3, 0x80)] } with links := [(0, { linkIn 5 with peer := 3 })] }

theorem witness_leaves : ∀ t ∈ [PType.rdrsp, .ack, .mark, .xfer, .wr], Leaves (outSys Fab.reset) 0 { Packet.blank t 3 with src := 1 } 0 0 := by
  delta Leaves; decide +kernel

/-- A packet from package 3 about the start of region 4, which this die is home of; class 0 or 2 in an ordinary region, class 3 in a coherent one. -/
def regPkt (t : PType) (c : BitVec 2) (w : Word) (l : List Byte) : Packet :=
  { Packet.blank t 1 with src := 3, cls := c, region := 4, w3 := w, payload := l }
def regSys (mode : Nat) (f : Fab) : State := { outSys f with regions := [(4, { region0 with mode := mode, owner := 3, dom := [3] })], objPages := [(0, 1)] }
def recv3 (c : Nat) : RecvCh := { recv0 with src := 3, cls := c }

theorem witness_rd_completes : let p := regPkt .rd 2 7 []
    inboundOk (regSys 2 Fab.reset) 0 p .rd = true ∧ checkInbound (regSys 2 Fab.reset) 0 p 8 .rd = .ok 0 0x10000 [⟨0x10000, 8, .phys 0x10000⟩] ∧
      Leaves (regSys 2 Fab.reset) 0 { Packet.blank .rdrsp 3 with src := 1, cls := 1, payload := List.replicate 16 0 } 0 0 := by
  delta Leaves; decide +kernel

/-- An ATOM that adds to 8 bytes. -/
theorem witness_atom_completes : let s := regSys 2 Fab.reset
    let p := regPkt .atom 2 (BitVec.ofNat 64 (2 ^ 60 + 3 * 2 ^ 58)) (List.replicate 16 1)
    inboundOk s 0 p .atom = true ∧ atomAop p = some .add ∧ atomWidth p = 8 ∧ checkInbound s 0 p 8 .atom = .ok 0 0x10000 [⟨0x10000, 8, .phys 0x10000⟩] ∧
      (getFab s 0).kept = [] ∧ (atomsOf s 0).any (sameReq p) = false ∧ ((getFab s 0).waiting = [] ∧ (getFab s 0).dir = []) ∧ entriesUsed s 0 < keptMax ∧
      dieOfAddr s 0x10000 = 0 ∧ (getStore s 0).hearthQ = [] ∧ s.upsets = [] := by decide +kernel

theorem witness_packets_in_turn :
    let s := fun (mode : Nat) (c : Nat) => regSys mode { Fab.reset with recv := [recv3 c] }
    (∀ t ∈ [PType.wr, .arrive, .mark, .xfer], inboundOk (s 2 0) 0 (regPkt t 0 7 (List.replicate 16 1)) t = true ∧ InTurn (s 2 0) 0 (regPkt t 0 7 []) (recv3 0)) ∧
    (∀ t ∈ [PType.crd, .crdx, .cdata, .crecall, .crack, .cwb], inboundOk (s 3 3) 0 (regPkt t 3 0 []) t = true ∧ InTurn (s 3 3) 0 (regPkt t 3 0 []) (recv3 3)) ∧
    checkInbound (entered (s 2 0) 0 (recv3 0)) 0 (regPkt .wr 0 7 (List.replicate 16 1)) 8 .wr = .ok 0 0x10000 [⟨0x10000, 8, .phys 0x10000⟩] ∧
    arriveCode (entered (s 2 0) 0 (recv3 0)) { regPkt .arrive 0 7 [] with region := 255 } = none ∧ (getRegion (s 2 0) 4).owner = 3 ∧
    (getFab (s 2 0) 0).marks.length < 64 := by delta InTurn; decide +kernel

theorem witness_coherent_packets :
    let s := regSys 3 { Fab.reset with recv := [recv3 3], lines := [(homeAddr (regPkt .crecall 3 0 []) / 64, { MLine.reset with state := 1, data := [7] })] }
    let v := entered s 0 (recv3 3)
    let p := regPkt .crd 3 0 []
    let joined := setDirLine v 4 (lineNo p) { DLine.reset with pend := [p] }
    coherentCode v p 64 = none ∧ dirLine s 4 (lineNo p) = DLine.reset ∧
      lineCheck joined p .rd = .ok [⟨0x10000, 64, .phys 0x10000⟩] ∧ lineCheck joined p .wr = .ok [⟨0x10000, 64, .phys 0x10000⟩] ∧
      pktCode (regPkt .cdata 3 0 []) = 0 ∧ (lineAt s (homeAddr (regPkt .cdata 3 0 []))).waits = [] ∧
      (lineAt s (homeAddr (regPkt .crecall 3 0 []))).state ≠ 0 ∧ coherentCode v (regPkt .crack 3 0 []) 0 = none ∧ (dirLine s 4 (lineNo p)).pend = [] := by
  decide +kernel

theorem witness_cwb :
    let s := regSys 3 { Fab.reset with recv := [recv3 3] }
    let p := regPkt .cwb 3 0 (List.replicate 64 9)
    let v := entered s 0 (recv3 3)
    p.payload.length = 64 ∧ coherentCode v p 0 = none ∧
      checkAccess (setDirLine v 4 (lineNo p) { dirLine s 4 (lineNo p) with state := 0, holders := [] }) (getJob s (getRegion s 4).ctx) none 0 .wr
        [((getRegion s 4).vbase + lineNo p * 64, 64)] = .ok [⟨0x10000, 64, .phys 0x10000⟩] := by decide +kernel

def send3 : SendCh := { send0 with dst := 3, opened := false, unacked := [⟨{ Packet.blank .mark 3 with cseq := 0 }, 0, none, none⟩] }
/-- A load of 8 bytes, and an atomic, of cell 0 that wait for package 3. -/
def farLoad : Flight := { flight0 with arrived := false, data := [], need := 8 }
def out3 (t : PType) : OutReq := { out0 with pkt := { Packet.blank t 3 with w3 := 7 } }
def farSys (t : PType) : State := { outSys { Fab.reset with outs := [out3 t] } with cells := [(0, { base with flights := [farLoad] })] }

theorem witness_ack_status : let s := outSys { Fab.reset with send := [send3] }
    let a := { Packet.blank .ack 1 with src := 3, cls := 1, cseq := 1 }
    let t := { Packet.blank .status 1 with src := 3, cls := 1 }
    inboundOk s 0 a .ack = true ∧ (getFab s 0).send = [send3] ∧ send3.unacked.any (fun q => below q.pkt.cseq a.cseq) = true ∧ send3.waitQ = [] ∧
      (∀ k, k < 4 → (getFab s k).xfer = none) ∧ inboundOk s 0 t .status = true ∧ send3.dst = t.src ∧ send3.dstk = t.sstk ∧ send3.cls = 0 ∧ pktCode t = 0 ∧
      (send3.unacked.find? (fun q => decide (q.pkt.cseq = BitVec.ofNat 32 (t.w3.toNat / 4294967296)))).isSome = true := by decide +kernel

theorem witness_answers : let r := { Packet.blank .rdrsp 1 with src := 3, cls := 1, payload := List.replicate 16 5 }
    let a := { Packet.blank .atomrsp 1 with src := 3, cls := 1, payload := List.replicate 16 5 }
    (inboundOk (farSys .rd) 0 r .rdrsp = true ∧ matchOut (farSys .rd) 0 r = some (out3 .rd) ∧ ledBy (farSys .rd) 0 (out3 .rd) = none ∧
      pktBytes (out3 .rd).pkt ≤ r.payload.length ∧ pktCode r = 0 ∧ farLoad.need = pktBytes (out3 .rd).pkt ∧ farLoad.raw = []) ∧
    (inboundOk (farSys .atom) 0 a .atomrsp = true ∧ matchOut (farSys .atom) 0 a = some (out3 .atom) ∧ (out3 .atom).forWho = .cell 0 farLoad.stamp 0 ∧
      (getFab (farSys .atom) 0).tagWait = [] ∧ farLoad.dest.isSome = true ∧ pktCode a = 0) := by decide +kernel

theorem witness_fabric_timers_complete :
    let e := { recv3 0 with next := 1 }
    let s := outSys { Fab.reset with recv := [e], send := [send3] }
    (e.id = 0 ∧ e.next ≠ e.acked ∧ channelQuiet s 0 e = true ∧ stackUp s 0 = true) ∧
    (channelPath (advanceTo s 2500) 0 send3 = some 0 ∧ routePath s 0 3 0 = some 0 ∧ s.pkgSet = true ∧ send3.dst ≠ s.pkgId ∧
      linkRoom s 0 (Packet.blank .mark 3) = true ∧ (getFab s 0).held = []) ∧
    (findOut (farSys .rd) 0 0 = some (out3 .rd) ∧ (out3 .rd).retries < 4 ∧ (farSys .rd).ember < 31250 ∧ ownDst (farSys .rd) (out3 .rd).pkt = false ∧
      bestPath (farSys .rd) 0 3 0 = some 0 ∧ linkRoom (farSys .rd) 0 { (out3 .rd).pkt with cls := 0 } = true ∧ (getFab (farSys .rd) 0).send = []) ∧
    (getJob (farSys .rd) 0).loaded = true ∧ (getJob (farSys .rd) 0).faulted = false := by decide +kernel

theorem witness_ack_leaves : Leaves (outSys { Fab.reset with recv := [{ recv3 0 with next := 1 }] }) 0
    { Packet.blank .ack 3 with src := 1, cls := 1, cseq := 1 } 0 0 := by delta Leaves; decide +kernel

/-- A window of one RD, and one of two atomics, for package 3. -/
theorem witness_windows : let q := { Packet.blank .rd 3 with src := 2, cls := 2, w3 := 7 }
    let a := { Packet.blank .atom 3 with src := 2, cls := 2, w3 := BitVec.ofNat 64 (2 ^ 60 + 3 * 2 ^ 58), payload := List.replicate 16 1 }
    forwards (outSys { Fab.reset with combs := [comb0 [q]] }) 0 = true ∧ [comb0 [q]].find? (fun c => decide (c.id = 0) && !c.sent) = some (comb0 [q]) ∧
      Leaves (outSys { Fab.reset with combs := [comb0 [q]] }) 0 q 0 0 ∧ (comb0 [a, a]).members = a :: a :: [] ∧
      findTag { Fab.reset with combs := [comb0 [a, a]] } 16384 0 = some 0 := by delta Leaves; decide +kernel

theorem witness_marks_leave : let v : Word := 0x0003000000000007
    let x : Word := 0x0003040005000000
    bits v.toNat 47 32 = 0 ∧ Leaves (outSys Fab.reset) 0 { Packet.blank .mark 3 with w3 := 7, src := 1, openp := true } 0 0 ∧
      bits x.toNat 23 0 = 0 ∧ bits x.toNat 47 40 = 4 ∧
      Leaves (outSys Fab.reset) 0 { Packet.blank .xfer 3 with region := 4, w3 := 5, src := 1, openp := true } 0 0 ∧
      (∀ k, k < 4 → (getFab (outSys Fab.reset) k).send = []) ∧ TakesWrites (outSys Fab.reset) (fabBase 0) := by delta Leaves TakesWrites; decide +kernel

theorem witness_fabric_registers : bits (5 : Word).toNat 63 17 = 0 ∧ bits (5 : Word).toNat 15 0 ≠ 0xFFFF ∧ (∀ l, l < 48 → (getLink up l).state = 0) ∧
    bits (0x20000 : Word).toNat 63 17 ≠ 0 ∧ bits (0xFFFF : Word).toNat 15 0 = 0xFFFF ∧ bits (0x0003000000000007 : Word).toNat 47 32 = 0 ∧
    bits (0x000200FE05000000 : Word).toNat 23 0 = 0 ∧ bits (0x0002FE0005000000 : Word).toNat 47 40 = 254 ∧ (getFab up 0).xferBusy = false ∧
    { Fab.reset with xferBusy := true }.xferBusy = true ∧ (getFab up 0).marks = [] ∧ ({ Fab.reset with marks := [(2, 3, 4)] }.marks = (2, 3, 4) :: []) := by
  decide +kernel

/-! ### The host, events, faults, resets, boot, power, registers -/

def module0 : Ucie := { Ucie.reset with state := 1 }
def hostSys : State := { sys base with ucies := [(0, module0)] }
/-- Frame 1 of store die 0 in a state. -/
def frameSys (st : FState) : State := { hostSys with stores := [(0, { StoreDie.reset with frames := [(1, ⟨st, 0⟩)] })] }
def line0 : List Byte := List.replicate 64 7

theorem witness_hdm : hostSys.pwr.pstate ≠ 3 ∧ hdmAt (frameSys .persistent) 0x10040 = .mem 0 ∧ retiredFrame (frameSys .persistent) 0x10040 = false ∧
    (frameSys .persistent).upsets = [] ∧ hdmAt (frameSys .retired) 0x10040 = .mem 0 ∧ retiredFrame (frameSys .retired) 0x10040 = true ∧
    line0.length = 64 ∧ hdmWritable (frameSys .persistent) 0x10040 = true ∧ hdmWritable (frameSys .retired) 0x10040 = false ∧
    hdmAt { hostSys with failTrigger := 5 } 0x10040 = .failSafe 0 := by decide +kernel

theorem witness_object_window : (48 : Nat) / 0x100000 < 4 ∧ windowUp hostSys 0 = true ∧ (3 : Nat) * 0x100000 / 0x100000 < 4 ∧ windowUp hostSys 3 = true ∧
    (48 : Nat) % 16 = 0 ∧ (4 : Nat) ≠ 8 := by decide +kernel

theorem witness_modules : ucieOk 0 = true ∧ (getUcie hostSys 0).state = 1 ∧ (getUcie hostSys 0).crcTimes.length < 1023 ∧
    (getUcie hostSys 0).retrainTimes.length < 8 ∧ ({ up with sec := { Sec.reset with bootState := 1 } }).sec.bootState = 1 ∧
    (∀ u, u < 4 → (getUcie { up with sec := { Sec.reset with bootState := 1 } } u).state ≠ 1) := by decide +kernel

theorem witness_syncop :
    let s := { hostSys with objPages := [(0, 1)] }
    (∀ op ∈ [1, 2, 3, 4, 5], bits (BitVec.ofNat 64 (op * 2 ^ 60 + 5 * 2 ^ 32)).toNat 63 60 = op ∧ syncopCode s 0 (BitVec.ofNat 64 (op * 2 ^ 60 + 5 * 2 ^ 32)) = 0 ∧
      syncopCode hostSys 0 (BitVec.ofNat 64 (op * 2 ^ 60 + 5 * 2 ^ 32)) = eBadState) := by decide +kernel

/-- A queue that is enabled, with rings of 16 entries. -/
def queue0 : Queue := { Queue.reset with enable := true, sqlog := 4, cqlog := 4, sqSet := true, cqSet := true, awSet := true }
def nop1 : QEntry := ⟨1, List.replicate 128 0, false, none⟩
def queueSys (x : Queue) : State := { hostSys with queues := [(adminQ, x)] }

theorem witness_queue_registers :
    let x := getQueue (queueSys { queue0 with tail := 3, cqhead := 1, written := 2, accept := 1 }) (qIndex .admin)
    queueOk .admin = true ∧ queueOk (.ctx 7 63) = true ∧ x.enable = true ∧ x.tail ≤ 17 ∧ 17 ≤ x.cqhead + 2 ^ x.sqlog ∧ x.cqhead + 2 ^ x.sqlog < 18 ∧
      (2 : Nat) < x.tail ∧ (getQueue hostSys adminQ).enable = false ∧ x.cqhead ≤ 2 ∧ 2 ≤ x.written ∧ x.written < 3 ∧ (0 : Nat) < x.cqhead ∧
      x.accept = x.cqhead ∧ (getQueue (queueSys { queue0 with accept := 1 }) adminQ).accept ≠ 0 ∧ running hostSys = true ∧ x.accept < x.tail := by
  decide +kernel

theorem witness_queue_control :
    let v : Word := 0x00040401
    bits v.toNat 63 21 = 0 ∧ bits v.toNat 15 13 = 0 ∧ bits v.toNat 7 1 = 0 ∧ bits v.toNat 12 8 = 4 ∧ bits v.toNat 20 16 = 4 ∧ bitAt v.toNat 0 = true ∧
      bitAt (v - 1).toNat 0 = false ∧ (getCtx hostSys 0).state = 1 ∧ qJob (.ctx 0 5) = some 0 ∧ (getCtx hostSys 1).state ≠ 1 ∧ qJob (.ctx 1 5) = some 1 := by
  decide +kernel

theorem witness_completion : outcomeOf hostSys .admin { nop1 with outcome := some (0, 0, 0, 0xFF) } = some (0, 0, 0, 0xFF) ∧ booted hostSys = true ∧
    hostSys.failTrigger = 0 ∧ nop1.k ≤ queue0.cqhead + 2 ^ queue0.cqlog ∧ queue0.cqSet = true := by decide +kernel

/-- An entry whose bytes from 0 and from 0x10 are these, k its number. -/
def entryOf (op : Nat) (l : List Byte) : QEntry := ⟨1, BitVec.ofNat 8 op :: List.replicate 15 0 ++ l ++ List.replicate (112 - l.length) 0, false, none⟩

theorem witness_next_entry : nextEntry (getQueue (queueSys { queue0 with entries := [nop1] }) (qIndex .admin)) = some nop1 ∧ entryOp nop1 = 0 ∧
    entryClean nop1.data [] = true := by decide +kernel

/-- The least image: an argument region, a dispatch program that halts, nothing else. -/
def image0 : JobImage :=
  { JobImage.none with
    verifies := true, progs := [(0, [0xFC000000])], regions := [argsRegion], dies := [⟨1, 0, 0, 0, 0, 0⟩]
    mapping := { MappingDecl.none with ranks := [[]] } }
/-- Its header, its eight sections, and zeros for their contents and the signature block. -/
def imageBytes0 : List Byte :=
  leBytes 4 0x3947495A ++ leBytes 2 128 ++ leBytes 2 1 ++ leBytes 8 1024 ++ leBytes 8 0 ++ leBytes 4 8 ++ List.replicate 20 0 ++ leBytes 4 1 ++
    List.replicate 76 0 ++
    [(1, 320, 64), (2, 384, 64), (3, 448, 64), (4, 512, 64), (5, 576, 64), (6, 640, 64), (7, 704, 64), (255, 896, 128)].flatMap
      (fun e => leBytes 8 e.1 ++ leBytes 8 e.2.1 ++ leBytes 8 e.2.2) ++ List.replicate 704 0
def loadEntry0 : QEntry := entryOf 1 (leBytes 8 0 ++ leBytes 8 1024 ++ leBytes 8 0x1000 ++ leBytes 8 256)
def loadSys : State :=
  { queueSys { queue0 with entries := [loadEntry0] } with flash := { Flash.reset with slots := [(0, [1])] }, host := memWrite [] 0 imageBytes0 }
def image1 : JobImage := loadedImage loadSys loadEntry0.data image0

theorem witness_load : nextEntry (getQueue loadSys (qIndex .admin)) = some loadEntry0 ∧ entryOp loadEntry0 = 1 ∧ anyZeroing loadSys = false ∧
    loadEntryCode image1 loadEntry0.data = none ∧ (loadChecks loadSys image1 (leField loadEntry0.data 0x18 8)).isLeft = true ∧
    loadChecks hostSys image1 (leField loadEntry0.data 0x18 8) = .inr ⟨1, eSigInvalid⟩ := by decide +kernel

theorem witness_unload : entryOp (entryOf 2 [0]) = 2 ∧ entryClean (entryOf 2 [0]).data [(0x10, 1)] = true ∧ leField (entryOf 2 [0]).data 0x10 1 < 8 ∧
    (getCtx hostSys (leField (entryOf 2 [0]).data 0x10 1)).state = 1 := by decide +kernel

def stepData : QEntry := entryOf 0x10 (leBytes 4 1 ++ leBytes 4 1 ++ leBytes 8 0)
/-- A table of one micro-batch of 1,024 tokens lies at address 0 of the host. -/
def stepSys : State := { hostSys with host := [(1, 4)] }

theorem witness_step_entry : qJob (.ctx 0 1) = some 0 ∧ entryOp stepData = 0x10 ∧
    readTable stepSys (leField stepData.data 0x18 8) (leField stepData.data 0x14 4) 0 = .inl [⟨1024, 0, 0⟩] ∧ stepCode stepSys (getJob stepSys 0) stepData.data = none ∧
    stepCode stepSys (getJob stepSys 0) (entryOf 0x10 (leBytes 4 2 ++ leBytes 4 1)).data = some eBadState ∧
    readTable stepSys (leField (entryOf 0x10 (leBytes 4 2 ++ leBytes 4 1)).data 0x18 8) 1 0 = .inl [⟨1024, 0, 0⟩] := by decide +kernel

/-- A job with one shard of this package, of which version 1 is there, and a host buffer. -/
def exportSys : State :=
  { hostSys with jobs := [(0, { job0 with
      versions := [(verKey 0 1, ⟨1, 0, 0, [], [], 1⟩)]
      image := { job0.image with shards := [shard0], regions := [{ argsRegion with kind := .hostBuf, va := 0x40000 }] } })] }
def exportData : QEntry := entryOf 0x11 (leBytes 4 1 ++ leBytes 4 0 ++ leBytes 4 1 ++ leBytes 4 0 ++ leBytes 8 0x40000 ++ leBytes 8 0x10000 ++ leBytes 8 0)

theorem witness_export_entry : entryOp exportData = 0x11 ∧ exportEntryCode exportSys 0 exportData.data = .inr (0, shard0) ∧
    exportEntryCode hostSys 0 exportData.data = .inl eArgRange := by decide +kernel

/-- A descriptor of kind 2 at host address 0: one dimension, 32 elements of an MX format into its element format. -/
def mxDescr0 : List Byte :=
  [2, 1, 0x12, 0xA] ++ List.replicate 12 0 ++ leBytes 8 0 ++ List.replicate 40 0 ++ leBytes 24 0 ++ leBytes 24 32 ++ leBytes 24 0 ++ leBytes 24 32 ++
    leBytes 24 0 ++ leBytes 24 32 ++ List.replicate 48 0

theorem witness_import_entry : mxDescr0.length = 256 ∧ importCode (parseDescr mxDescr0) (entryOf 0x12 (leBytes 8 0)).data = none ∧
    importCode (parseDescr mxDescr0) (entryOf 0x12 (leBytes 8 1)).data = some eArgAlign ∧ entryOp (entryOf 0x12 (leBytes 8 1)) = 0x12 := by decide +kernel

theorem witness_import_completes : parseDescr (memRead { hostSys with host := memWrite [] 0 mxDescr0 }.host 0 256) = parseDescr mxDescr0 ∧
    (getStore hostSys (dieHolding hostSys job0 0)).descrs = [] := by decide +kernel

theorem witness_unload_ends :
    let s := { hostSys with ctxs := [(0, { ctx0 with state := 3 })] }
    jobOk 0 = true ∧ (getCtx s 0).state = 3 ∧ contextQuiet s 0 = true ∧ running s = true := by decide +kernel

/-- Source 128 pends at priority 5 for Lodge core 1 and MSI-X vector 2. -/
def src0 : EvSrc := { EvSrc.reset with pend := true, enable := true, prio := 5, targets := 0x42 }
def evSys : State := { hostSys with evs := [(128, src0)], lodgeClk := true }

theorem witness_events : powered evSys = true ∧ namesReserved 2 1 = false ∧ namesReserved 2 4 = true ∧ routeOrder evSys = [128] ∧
    chooseTarget evSys (getEv evSys 128) = some 1 ∧ chooseTarget { evSys with rotate := 2 } (getEv evSys 128) = some 6 ∧
    targetOk 51 = true ∧ (getEvCpu evSys 51).stack = [] ∧ (getEvCpu { evSys with evCpus := [(51, ⟨5, [3]⟩)] } 51).stack = 3 :: [] ∧
    evIsLevel 64 = true := by decide +kernel

theorem witness_host_reaches : hostReaches hostSys 0 = true ∧ hostReaches hostSys 3 = true ∧ TakesWrites hostSys (hearthBase 0) ∧ msiModule evSys = some 0 ∧
    blockReached hostSys (hearthBase 3) = true ∧ findBlock (hearthBase 3 + 0xFF8) = some (.hearth 3, 0xFF8) := by delta TakesWrites; decide +kernel

theorem witness_job_fault : (getJob hostSys 0).loaded = true ∧ (getJob hostSys 0).faulted = false := by decide +kernel

theorem witness_fail_safe : hostSys.failTrigger = 0 ∧ hostSys.pwr.pstate ≠ 0 ∧ booted hostSys = true ∧ (getCtx hostSys 0).state = 1 ∧
    bits (1 : Word).toNat 62 56 = 0 ∧ bits (1 : Word).toNat 47 1 = 0 ∧ bitAt (1 : Word).toNat 0 = true ∧
    (getRst { hostSys with rsts := [(3, { StackRst.reset with phase := 1 })] } 3).phase = 1 ∧ storeOk 3 = true := by decide +kernel

theorem witness_resets :
    let s := { hostSys with pavs := [] }
    let in3 := fun (only : Bool) => { hostSys with rsts := [(1, { StackRst.reset with phase := 3, computeOnly := only })], pwr := { hostSys.pwr with pg := [.cmp 1] } }
    mayReset s 1 = true ∧ mayReset (in3 false) 1 = false ∧ (getPav s 63).retired = false ∧ mget 0 s.pavRsts 63 = 0 ∧ mayReset s (dieOfPav 63) = true ∧
      (getPav s 63).held = false ∧ (getLink s 47).state ≠ 6 ∧ s.rstPkg = false ∧ s.pwr.pstate = 2 ∧
      (getRst { s with rsts := [(1, { StackRst.reset with phase := 1 })] } 1).phase = 1 ∧ running (in3 true) = true ∧ (getHbm (in3 true) 2).state ≠ 3 ∧
      (in3 false).pwr.pg.contains (.cmp 1) = true ∧ (getHbm (in3 false) 3).state ≠ 3 ∧ powered State.reset = true ∧ booted State.reset = false ∧
      State.reset.pwr.pstate ≠ 2 := by decide +kernel

theorem witness_hbm_reinit :
    let s := { hostSys with hbms := [(7, { Hbm.reset with reinitWanted := true })] }
    hbmOk 7 = true ∧ (getHbm s 7).reinitWanted = true ∧ jobsWithFrames s (7 / 2) (hbmFrames s 7).1 (hbmFrames s 7).2 = [] ∧ running s = true ∧
      stackUp s (7 / 2) = true ∧ (getHbm s 7).state ≠ 3 := by decide +kernel

theorem witness_margins :
    let r : List TemperRead := List.replicate 64 ⟨0, 0⟩
    booted hostSys = true ∧ hostSys.failTrigger = 0 ∧ r.length = 64 ∧ (getPav hostSys 5).retired = false ∧ (0 : Nat) < hostSys.guard ∧
      (getPav hostSys 5).voffPend < 12 ∧ hostSys.guard ≤ 255 ∧ (0 : Nat) ≤ hostSys.driftPlan := by decide +kernel

def bootSys : State := { State.reset with pwr := { Pwr.reset with row := 5 } }
def awaitSys : State := { State.reset with sec := { Sec.reset with bootState := 1, imgAddrSet := true, imgLenSet := true, imgLen := 64 } }
def verifySys (l : List Byte) : State := { State.reset with sec := { Sec.reset with bootState := 2 }, imageMem := l }
/-- A manifest alone: MAGIC and LENGTH. -/
def manifest0 : List Byte :=
  leBytes 4 0x574D395A ++ leBytes 4 0 ++ leBytes 8 256 ++ List.replicate 16 0 ++ shake256 [] 64 ++ List.replicate 160 0

theorem witness_boot : powered bootSys = true ∧ bootSys.pwr.row = 5 ∧ bootSys.sec.bootState = 0 ∧ bootSys.failTrigger = 0 ∧
    bootSys.pwr.refLost.contains .sys = false ∧ bootSys.flash.birthOk = true ∧ bootSys.flash.pufOk = true ∧ bootSys.sec.pufLocked = false ∧
    awaitSys.sec.imgAddr + awaitSys.sec.imgLen ≤ awaitSys.ddr5 ∧ bootSys.sec.bootState ≠ 1 ∧ imageCode (verifySys []) true true = eArgRange ∧
    imageCode (verifySys [1]) true true = eSigInvalid ∧ imageCode (verifySys [1]) false true = eUncorrectable := by decide +kernel

theorem witness_boot_image : imageCode (verifySys manifest0) true true = 0 := by decide +kernel

/-- An ADD of slot 0 by the key itself with the nonce 0, at host address 0; the key is 57 bytes of 0 but for the first. -/
def enrolSys (op : Nat) (slots : List (Nat × List Byte)) : State :=
  let auth : Byte := if slots.isEmpty then 0xFF else 0
  { hostSys with
    ctxs := [], flash := { Flash.reset with slots := slots }
    host := if slots.isEmpty then [(0, BitVec.ofNat 8 op), (2, auth), (0x18, 1)] else [(0, BitVec.ofNat 8 op)]
    sec := { hostSys.sec with cmdOp := 1, cmdAddrSet := true, nonceValid := true } }

theorem witness_enrol :
    let early := fun (s : State) => enrolEarly s (cmdAddr s) (memRead s.host (cmdAddr s) 208)
    let late := fun (s : State) => enrolLate s (memRead s.host (cmdAddr s) 208) true
    let s1 := enrolSys 1 []
    firmwareRuns s1 = true ∧ (leField (memRead s1.host (cmdAddr s1) 208) 0 1 = 1 ∧ early s1 = 0 ∧ late s1 = 0) ∧
      (∀ op ∈ [2, 3], leField (memRead (enrolSys op [(0, [1])]).host (cmdAddr (enrolSys op [(0, [1])])) 208) 0 1 = op ∧ early (enrolSys op [(0, [1])]) = 0 ∧
        late (enrolSys op [(0, [1])]) = 0) ∧ enrolLate s1 (memRead s1.host 0 208) false = eSigInvalid ∧ early { s1 with ctxs := [(0, ctx0)] } = eBadState := by
  decide +kernel

/-- A token for scope 1 by the vendor's key. -/
def token0 : List Byte := leBytes 4 0x4B55395A ++ leBytes 4 1 ++ List.replicate 16 0 ++ shake256 Flash.reset.devicePub 32 ++ [0xF0] ++ List.replicate 135 0
def tokenSys : State := { hostSys with ctxs := [], sec := { hostSys.sec with cmdOp := 2, cmdAddrSet := true, nonceValid := true, identOk := true } }

theorem witness_token : tokenEarly tokenSys 0 token0 = 0 ∧ tokenRight tokenSys token0 true = true ∧ tokenRight tokenSys token0 false = false ∧
    tokenEarly hostSys 0 token0 = eBadState ∧ token0.length = 192 := by decide +kernel

theorem witness_attestation : responds hostSys = true ∧ hostSys.sec.spdm < 1 ∧ hostSys.sec.attestOk = false ∧
    responds { hostSys with sec := { hostSys.sec with spdm := 3, attestOk := true } } = true ∧ (measBody hostSys 0).isSome = true := by decide +kernel

theorem witness_rails :
    let p := State.reset.pwr
    powered State.reset = true ∧ p.row = 2 ∧ p.pg.contains .sto = false ∧ p.row < 5 ∧ railOk .aux = true ∧ Rail.aux ∈ p.en ∧ Rail.aux ∉ p.pg ∧ p.row ≠ 7 ∧
      Rail.aux ∈ { p with pg := [Rail.aux] }.pg ∧ Rail.sto ∉ p.en ∧ RefClk.aon ∉ p.refLost ∧ RefClk.ser 3 ∉ p.refLost ∧ clkOk (.ser 3) = true := by
  decide +kernel

theorem witness_power :
    let down := fun (en : List Rail) => { State.reset with pwr := { Pwr.reset with row := 7, en := en } }
    (powered up = true ∧ up.pwr.row ≠ 7 ∧ Rail.cmp 3 ∈ { up.pwr with en := [Rail.aux, .cmp 3] }.en) ∧ (down [.aux]).pwr.row = 7 ∧ (down [.aux]).pwr.en ≠ [] ∧
      ({ State.reset with pwr := { Pwr.reset with pstate := 0, pg := [] } }).pwr.pg = [] := by decide +kernel

theorem witness_sleep :
    let s := { up with pwr := { up.pwr with sleepEn := true } }
    let t := fun (n : Nat) => { up with pwr := { up.pwr with pstate := 3, sleeping := n, sleepEn := false, pg := [.cmp 0, .cmp 1, .cmp 2, .cmp 3] } }
    running s = true ∧ idle s = true ∧ stacksUp s = true ∧ wakeWanted (t 1) = true ∧ (t 1).pwr.sleeping ≠ 2 ∧ (t 2).pwr.sleeping = 2 ∧
      (∀ d, d < 4 → Rail.cmp d ∈ (t 2).pwr.pg) := by decide +kernel

theorem witness_throttle : up.pwr.pstate = 2 ∧ powered up = true ∧ up.failTrigger = 0 ∧ (4 : Nat) < 5 ∧ (105 : Nat) ≤ 105 ∧ (7 : Nat) < 8 ∧ (100 : Nat) ≤ 100 := by
  decide +kernel

theorem witness_register_window : findBlock 0x0C000000 = some (.temper, 0) ∧ findBlock 0x0E000010 = some (.clk, 0x10) ∧ reservedAt .temper 8 = none ∧
    (reservedAt .temper 0).isSome = true ∧ (∀ l, reservedAt .temper 0 = some l → leavesReserved l (0xFFFF000000000000 : Word).toNat = false) ∧
    ownReserved .temper 0 = false ∧ bits (0x0000100500000001 : Word).toNat 47 40 = 16 ∧ bits (0x0000100500000001 : Word).toNat 15 0 ≠ 0 ∧
    bits (0x00005F00000001F4 : Word).toNat 47 40 = 95 ∧ bits (0x00005F00000001F4 : Word).toNat 15 0 = 500 := by decide +kernel

theorem witness_rejected_accesses : findBlock 0x0FFFFFF0 = none ∧ findBlock 0x02000FF8 = some (.pav 0, 0xFF8) ∧
    (mget ErrReg.reset up.errs 0).count = 0 ∧ (mget ErrReg.reset [(0, (⟨255, 8, 1⟩ : ErrReg))] 0).count ≠ 0 := by decide +kernel

/-! ### Worked examples of the spec -/

/-- R50: the test vectors V1, V2, V3 of the spark generator. -/
theorem test_spark_vectors : spark 1 7 3 0 = 0xBEA57E6D ∧ spark 1 7 3 1 = 0x660F24C5 ∧ spark 1 7 3 0x100000000 = 0x94DF1F48 := by decide

/-- The example after R46: 0x3F80_8000 to BF16 by SR, up with V1 and down with V2. -/
theorem test_stochastic_bf16 : convertF fBF16 (.sr (spark 1 7 3 0).toNat) (.val (f32 0x3F808000)) = 0x3F81 ∧
    convertF fBF16 (.sr (spark 1 7 3 1).toNat) (.val (f32 0x3F808000)) = 0x3F80 := by decide +kernel

/-- The example after R28: the cost from pavilion 5 to pavilion 58 is 0x85, byte 2 of DIST[47]. -/
theorem test_distance : cost up 5 58 = 0x85 ∧ distWord up 47 / 2 ^ 16 % 256 = 0x85 := by decide +kernel

/-- The example after R54: five contributions of W = 152 sum to 2^114 + 2 units of 2^−113, in any order; COUNT is 5. -/
theorem test_exact_sum :
    let x0 := xsOfBytes (List.replicate 20 0 ++ [152, 0, 0, 0])
    let sum := fun (l : List F32) => xsBytes (l.foldl xsAdd x0)
    let bytes := leBytes 20 (2 ^ 114 + 2) ++ leBytes 4 (152 + 5 * 2 ^ 12)
    sum [0x4B800000, 0x3F800000, 0xCB800000, 0x3F800000, 0x07400000] = bytes ∧
      sum [0x07400000, 0x3F800000, 0xCB800000, 0x3F800000, 0x4B800000] = bytes := by decide +kernel

/-- The example after R454: pavilion 37 at VOFF 12 with slack 36 gets ACLK_PEND 1. -/
theorem test_margin_step :
    let s := { up with pavs := [(37, { Pav.reset with voff := 12, voffPend := 12 })] }
    (getPav (temperOne s 37 ⟨36, 0⟩) 37).aclkPend = 1 ∧ (getPav (temperOne s 37 ⟨36, 0⟩) 37).voffPend = 12 := by decide +kernel

/-- The example after R379: 86 heads and 43 experts over 8 members. -/
theorem test_uneven_division : (divide 86 8).map (·.2) = [11, 11, 11, 11, 11, 11, 10, 10] ∧ (divide 43 8).map (·.2) = [6, 6, 6, 5, 5, 5, 5, 5] := by decide

/-- The same: 118 layers, 10 for a dense layer and 14 for a mixture layer, over 8 stages, which 182 fills and 178 does not. -/
def costs0 : List Nat := (List.range 118).map (fun i => 10 + 4 * (i % 2))
theorem test_fill_stages : fillStages 182 8 0 costs0 = some [(0, 15), (15, 15), (30, 15), (45, 15), (60, 15), (75, 15), (90, 15), (105, 13)] ∧
    fillStages 178 8 0 costs0 = none := by decide +kernel

/-- R349: DST 3, SRC 1, TYPE 1, CLS 2, PATH 1 in word 0 and DSTK 3, TAG 5 in word 1. -/
theorem test_packet_header : (packetBytes { Packet.blank .rd 3 with src := 1, cls := 2, path := 1, tag := 5, dstk := 3 }).take 16 =
    [0x00, 0x04, 0x08, 0x04, 0x01, 0x00, 0x03, 0x00, 0x00, 0x40, 0x01, 0x30, 0, 0, 0, 0] := by decide +kernel

end Sys2Proof.Tests
end

section
/-!
PROOF. Reads of byte memories after writes and zeroing (O4), and the values after reset (O3).
-/
namespace Sys2Proof.Machine
open Sys2Proof.Claim

/-! ### Byte memories: reads after a write, and after zeroing -/

/-- A byte below the range of a write is as it was: every later byte of the write lies above it too. -/
theorem memByte_memWrite_below (m : Mem) {a k : Nat} (l : List Byte) (h : k < a) : memByte (memWrite m a l) k = memByte m k := by
  induction l generalizing m a with
  | nil => rfl
  | cons b rest ih => rw [memWrite, ih _ (by omega), memByte_mset, if_neg (by omega)]

theorem memByte_memWrite_above (m : Mem) {a k : Nat} (l : List Byte) (h : a + l.length ≤ k) : memByte (memWrite m a l) k = memByte m k := by
  induction l generalizing m a with
  | nil => rfl
  | cons b rest ih =>
    rw [List.length_cons] at h
    rw [memWrite, ih _ (by omega), memByte_mset, if_neg (by omega)]

/-- Of the bytes written, the one at an address is what is read there. -/
theorem memByte_memWrite (m : Mem) (a i : Nat) (l : List Byte) (h : i < l.length) : memByte (memWrite m a l) (a + i) = l.getD i 0 := by
  induction l generalizing m a i with
  | nil => exact absurd h (by simp)
  | cons b rest ih =>
    cases i with
    | zero => rw [memWrite, memByte_memWrite_below _ _ (by omega), memByte_mset, if_pos (by omega), List.getD_cons_zero]
    | succ i => rw [memWrite, show a + (i + 1) = a + 1 + i by omega, ih _ _ _ (by simpa using h), List.getD_cons_succ]

/-- Filtering by the index keeps what is read at the indexes kept, and unlists the others. -/
theorem mget_filter_key {α : Type} (d : α) (p : Nat → Bool) (m : List (Nat × α)) (k : Nat) :
    mget d (m.filter (fun e => p e.1)) k = if p k then mget d m k else d := by
  induction m with
  | nil => simp [mget]
  | cons e rest ih =>
    obtain ⟨i, v⟩ := e
    by_cases hi : i = k <;> cases hp : p i <;> simp_all [mget]

theorem memByte_memZero (m : Mem) (a n k : Nat) : memByte (memZero m a n) k = if a ≤ k ∧ k < a + n then 0 else memByte m k := by
  have kept : (decide (k < a) || decide (a + n ≤ k)) = !decide (a ≤ k ∧ k < a + n) := by
    rw [Bool.eq_iff_iff]
    simp
  rw [memByte, memZero, mget_filter_key 0 (fun i => decide (i < a) || decide (a + n ≤ i)), kept]
  by_cases h : a ≤ k ∧ k < a + n <;> simp [h, memByte]

/-- Settles O4: by induction on the bytes written; zeroing filters the map by address. -/
theorem memoryReadsWhatWasWritten : Obligations.MemoryReadsWhatWasWritten := by
  intro m a l wf
  refine ⟨fun i hi => memByte_memWrite m a i l hi, fun k hk => ?_, Memory.wf_memWrite m a l wf, memByte_memZero m a, fun n => Memory.wf_memZero m a n wf⟩
  rcases hk with below | above
  · exact memByte_memWrite_below m l below
  · exact memByte_memWrite_above m l above

/-! ### The state after reset -/

/-- Settles O3: at reset no unit is listed, so each reads its default. -/
theorem resetValues : Obligations.ResetValues :=
  ⟨rfl, rfl, rfl, rfl, rfl, rfl, rfl, rfl, rfl, rfl, rfl, fun _ => ⟨rfl, rfl, rfl⟩, fun _ => ⟨rfl, rfl, rfl⟩, fun _ => ⟨rfl, rfl, rfl⟩,
    fun _ => ⟨rfl, rfl⟩, fun _ => rfl, fun _ => ⟨rfl, rfl, rfl⟩, fun _ => rfl⟩

end Sys2Proof.Machine
end

section
/-!
PROOF. Accesses of the register window: how each goes at a block offset, what BLOCK.ERR keeps, TEMPER.CFG and CLKPWR.LIMIT (O56, O59).
-/
namespace Sys2Proof.Machine
open Sys2Proof.Claim

/-! ### Accesses of the register window -/

theorem exec_registerRead (s : State) (off size : Nat) : exec (.registerRead off size) s = .next (readWindow s off size) := rfl

theorem exec_registerWrite (s : State) (off size : Nat) (v : Word) : exec (.registerWrite off size v) s = .next (writeWindow s off size v) := rfl

/-- Below BAR4 a powered package answers an access at a block offset in the block. -/
theorem exec_registerRead_block {s : State} {off o : Nat} {b : Blk} (size : Nat) (p : powered s = true) (lo : off < bar4)
    (at_b : findBlock off = some (b, o)) : exec (.registerRead off size) s = .next (readBlock s b o size) := by
  simp [exec_registerRead, readWindow, p, Nat.not_le.mpr lo, at_b]

theorem exec_registerWrite_block {s : State} {off o : Nat} {b : Blk} (size : Nat) (v : Word) (p : powered s = true) (lo : off < bar4)
    (at_b : findBlock off = some (b, o)) : exec (.registerWrite off size v) s = .next (writeBlock s b o size v) := by
  simp [exec_registerWrite, writeWindow, p, Nat.not_le.mpr lo, at_b]

/-- An offset in no block is answered by LODGE (R503). -/
theorem exec_registerRead_nowhere {s : State} {off : Nat} (size : Nat) (p : powered s = true) (lo : off < bar4) (no : findBlock off = none) :
    exec (.registerRead off size) s = .next (readNowhere s off size) := by
  simp [exec_registerRead, readWindow, p, Nat.not_le.mpr lo, no]

theorem exec_registerWrite_nowhere {s : State} {off : Nat} (size : Nat) (v : Word) (p : powered s = true) (lo : off < bar4)
    (no : findBlock off = none) : exec (.registerWrite off size v) s = .next (writeNowhere s off size) := by
  simp [exec_registerWrite, writeWindow, p, Nat.not_le.mpr lo, no]

/-! ### Reads at a block offset -/

theorem readBlock_misaligned {s : State} {b : Blk} {o size : Nat} (bt : booted s = true) (r : blockReached s b.base = true)
    (bad : size ≠ 8 ∨ o % 8 ≠ 0) : readBlock s b o size = recordErr { s with rdata := 0 } b.base o eArgAlign := by
  simp [readBlock, bt, r, bad]

theorem readBlock_noRegister {s : State} {b : Blk} {o : Nat} (bt : booted s = true) (r : blockReached s b.base = true) (al : o % 8 = 0)
    (no : reservedAt b o = none) : readBlock s b o 8 = { s with rdata := 0 } := by
  simp [readBlock, bt, r, al, no]

theorem readBlock_register {s : State} {b : Blk} {o : Nat} {l : List (Nat × Nat)} (bt : booted s = true) (r : blockReached s b.base = true)
    (al : o % 8 = 0) (reg : reservedAt b o = some l) : readBlock s b o 8 = readReg s b o := by
  simp [readBlock, bt, r, al, reg]

/-! ### Writes at a block offset -/

/-- A write with a cause of rejection is recorded with its code where the block takes writes. -/
theorem checkWrite_refused {s : State} {base : Nat} (off code : Nat) (f : State → State) (t : TakesWrites s base) :
    checkWrite s base off [(true, code)] f = recordErr s base off code :=
  let ⟨p, bt, served⟩ := t
  checkWrite_rejected p bt served rfl

theorem writeBlock_misaligned {s : State} {b : Blk} {o size : Nat} (v : Word) (t : TakesWrites s b.base) (bad : size ≠ 8 ∨ o % 8 ≠ 0) :
    writeBlock s b o size v = recordErr s b.base o eArgAlign := by
  rw [writeBlock, if_pos bad, checkWrite_refused _ _ _ t]

theorem writeBlock_noRegister {s : State} {b : Blk} {o : Nat} (v : Word) (t : TakesWrites s b.base) (al : o % 8 = 0)
    (no : reservedAt b o = none) : writeBlock s b o 8 v = recordErr s b.base o eArgReserved := by
  simp [writeBlock, al, no, checkWrite_refused _ _ _ t]

/-- RESETCTL and SYNCOP report their reserved fields themselves; in any other register one that is set refuses the write (R10). -/
theorem writeBlock_reserved {s : State} {b : Blk} {o : Nat} {v : Word} {l : List (Nat × Nat)} (t : TakesWrites s b.base) (al : o % 8 = 0)
    (reg : reservedAt b o = some l) (set : leavesReserved l v.toNat = false) (other : b ≠ .lodge ∨ o ≠ 0x4000) (own : ownReserved b o = false) :
    writeBlock s b o 8 v = recordErr s b.base o eArgReserved := by
  have other' : ¬(b = .lodge ∧ o = 0x4000) := by tauto
  simp [writeBlock, al, reg, set, other', own, checkWrite_refused _ _ _ t]

theorem writeBlock_register {s : State} {b : Blk} {o : Nat} {v : Word} {l : List (Nat × Nat)} (bt : booted s = true) (al : o % 8 = 0)
    (reg : reservedAt b o = some l) (clear : leavesReserved l v.toNat = true) (other : b ≠ .lodge ∨ o ≠ 0x4000) :
    writeBlock s b o 8 v = writeReg s b o v := by
  have other' : ¬(b = .lodge ∧ o = 0x4000) := by tauto
  simp [writeBlock, al, reg, clear, other', bt]

/-! ### BLOCK.ERR -/

@[simp] theorem draw_errs (s : State) : (draw s).errs = s.errs := rfl

@[simp] theorem mget_recordErr (s : State) (b off code : Nat) :
    mget ErrReg.reset (recordErr s b off code).errs b =
      if (mget ErrReg.reset s.errs b).count = 0 then ⟨1, off, code⟩
      else { mget ErrReg.reset s.errs b with count := satAdd 255 (mget ErrReg.reset s.errs b).count 1 } :=
  mget_mset_same ..

theorem rejectionsAreRecorded : RejectionsAreRecorded := by
  intro s b off code
  refine ⟨fun first => ?_, fun later => ?_, ?_⟩
  · rw [mget_recordErr, if_pos first]
  · rw [mget_recordErr, if_neg later, satAdd]
  · obtain ⟨m, eq, others⟩ := recordErr_frame s b off code
    rw [eq]
    exact others

theorem misalignedAccessesAreRejected : MisalignedAccessesAreRejected := by
  intro s off size v lo
  refine ⟨fun b o at_b t bad => ?_, fun no t bad => ?_⟩
  · obtain ⟨p, bt, served⟩ := t
    exact ⟨by rw [exec_registerRead_block size p lo at_b, readBlock_misaligned bt (blockReached_of_served served) bad],
      by rw [exec_registerWrite_block size v p lo at_b, writeBlock_misaligned v ⟨p, bt, served⟩ bad]⟩
  · obtain ⟨p, bt, -⟩ := t
    exact ⟨by rw [exec_registerRead_nowhere size p lo no, readNowhere, if_pos ⟨bt, bad⟩],
      by rw [exec_registerWrite_nowhere size v p lo no, writeNowhere, if_pos bt, if_pos bad]⟩

/-- A read other than of SEC.NONCE[0] and FAB[d].MARKRX gives the register's word, and clears what a read clears. -/
theorem readReg_plain (s : State) (b : Blk) {o : Nat} (h : o ≠ 0x20) (h' : o ≠ 0x58) :
    readReg s b o = draw (clearReg { s with rdata := BitVec.ofNat 64 (regWord s b o) } b o) := by
  unfold readReg
  split
  · exact absurd rfl h
  · exact absurd rfl h'
  · simp [freshen, h]

theorem regWord_errOff (s : State) (b : Blk) : regWord s b errOff = errWord (mget ErrReg.reset s.errs b.base) := if_pos rfl

theorem clearReg_errOff (s : State) (b : Blk) : clearReg s b errOff = { s with errs := mset ErrReg.reset b.base ErrReg.reset s.errs } := if_pos rfl

/-- A read of BLOCK.ERR gives the record and clears it, and draws no more than a fresh number (R11). -/
theorem readReg_errOff (s : State) (b : Blk) :
    readReg s b errOff = draw { s with rdata := BitVec.ofNat 64 (errWord (mget ErrReg.reset s.errs b.base))
                                       errs := mset ErrReg.reset b.base ErrReg.reset s.errs } := by
  rw [readReg_plain s b (by decide) (by decide), regWord_errOff, clearReg_errOff]

theorem errWord_eq (e : ErrReg) : errWord e = (if e.count = 0 then 0 else 2 ^ 63) + e.count * 2 ^ 48 + e.offset * 2 ^ 16 + e.code := by
  by_cases h : e.count = 0 <;> simp [errWord, fieldAt, b2n, h]

theorem errorRegisterReads : ErrorRegisterReads := by
  intro s off b lo at_b p bt r
  have read : exec (.registerRead off 8) s = .next (readReg s b errOff) := by
    rw [exec_registerRead_block 8 p lo at_b]
    exact congrArg _ (readBlock_register bt r rfl rfl)
  refine ⟨_, read, ?_⟩
  rw [readReg_errOff, errWord_eq]
  refine ⟨rfl, ?_, fun k hk => ?_, rfl, rfl⟩
  · rw [draw_errs, mget_mset_same]
  · rw [draw_errs, mget_mset_ne _ _ hk]

/-- Settles O56: a rejection is recorded by its block, a misaligned access is one, and a read of ERR gives the record. -/
theorem rejectedRegisterAccesses : Obligations.RejectedRegisterAccesses :=
  ⟨rejectionsAreRecorded, misalignedAccessesAreRejected, errorRegisterReads⟩

/-! ### TEMPER.CFG and CLKPWR.LIMIT -/

theorem findBlock_temperCfg : findBlock 0x0C000000 = some (.temper, 0) := by decide
theorem findBlock_clkLimit : findBlock 0x0E000010 = some (.clk, 0x10) := by decide

/-- TEMPER lies in the Lodge region, which an access always reaches (R24). -/
theorem blockReached_temper (s : State) : blockReached s temperBase = true := rfl

theorem writeTemper_inRange {s : State} {v : Word} (t : TakesWrites s temperBase) (r1 : bits v.toNat 63 48 = 0) (r2 : bits v.toNat 31 16 = 0)
    (period : bits v.toNat 15 0 ≠ 0) (guard : 16 ≤ bits v.toNat 47 40) :
    writeTemper s v = { s with guard := bits v.toNat 47 40, driftPlan := bits v.toNat 39 32, period := bits v.toNat 15 0 } := by
  obtain ⟨p, bt, served⟩ := t
  exact checkWrite_taken p bt served (by simp [r1, r2, period, Nat.not_lt.mpr guard])

theorem writeLimit_inRange {s : State} {v : Word} (t : TakesWrites s clkBase) (pl : 500 ≤ bits v.toNat 15 0) (pl' : bits v.toNat 15 0 ≤ 2900)
    (tj : 70 ≤ bits v.toNat 47 40) (tj' : bits v.toNat 47 40 ≤ 95) :
    writeLimit s v = { s with pwr := { s.pwr with plimit := bits v.toNat 15 0, tj := bits v.toNat 47 40 } } := by
  obtain ⟨p, bt, served⟩ := t
  exact checkWrite_taken p bt served (by simp [Nat.not_lt.mpr pl, Nat.not_lt.mpr pl', Nat.not_lt.mpr tj, Nat.not_lt.mpr tj'])

/-- A write of TEMPER.CFG whose reserved fields are 0 is TEMPER's own. -/
theorem writeBlock_temperCfg {s : State} {v : Word} (bt : booted s = true) (r1 : bits v.toNat 63 48 = 0) (r2 : bits v.toNat 31 16 = 0) :
    writeBlock s .temper 0 8 v = writeTemper s v :=
  writeBlock_register (l := [(63, 48), (31, 16)]) bt rfl rfl (by simp [leavesReserved, r1, r2]) (.inl nofun)

theorem writeBlock_clkLimit {s : State} {v : Word} (bt : booted s = true) (r1 : bits v.toNat 63 48 = 0) (r2 : bits v.toNat 39 16 = 0) :
    writeBlock s .clk 0x10 8 v = writeLimit s v :=
  writeBlock_register (l := [(63, 48), (39, 16)]) bt rfl rfl (by simp [leavesReserved, r1, r2]) (.inl nofun)

theorem registerWindow : RegisterWindow := by
  intro s off size v b o lo at_b t
  obtain ⟨p, bt, served⟩ := id t
  have reached := blockReached_of_served served
  refine ⟨fun bad => ?_, fun sz al no => ?_, fun l sz al reg set other own => ?_, fun bad => ?_, fun sz al no => ?_, fun eo sz r1 r2 period guard => ?_,
    fun eo sz r1 r2 pl pl' tj tj' => ?_⟩
  · rw [exec_registerWrite_block size v p lo at_b, writeBlock_misaligned v t bad]
  · rw [exec_registerWrite_block size v p lo at_b, sz, writeBlock_noRegister v t al no]
  · rw [exec_registerWrite_block size v p lo at_b, sz, writeBlock_reserved t al reg set other own]
  · rw [exec_registerRead_block size p lo at_b, readBlock_misaligned bt reached bad]
  · rw [exec_registerRead_block size p lo at_b, sz, readBlock_noRegister bt reached al no]
  · subst eo
    obtain ⟨rfl, rfl⟩ : Blk.temper = b ∧ 0 = o := by simpa [findBlock_temperCfg] using at_b
    rw [exec_registerWrite_block size v p lo at_b, sz, writeBlock_temperCfg bt r1 r2, writeTemper_inRange t r1 r2 period guard]
  · subst eo
    obtain ⟨rfl, rfl⟩ : Blk.clk = b ∧ 0x10 = o := by simpa [findBlock_clkLimit] using at_b
    rw [exec_registerWrite_block size v p lo at_b, sz, writeBlock_clkLimit bt r1 r2, writeLimit_inRange t pl pl' tj tj']

theorem readReg_temperCfg (s : State) :
    readReg s .temper 0 = draw { s with rdata := BitVec.ofNat 64 (fieldAt 40 s.guard + fieldAt 32 s.driftPlan + s.period) } :=
  readReg_plain s .temper (by decide) (by decide)

theorem registerReads : RegisterReads := by
  intro s p bt
  have read : exec (.registerRead 0x0C000000 8) s = .next (readReg s .temper 0) := by
    rw [exec_registerRead_block 8 p (by decide) findBlock_temperCfg]
    exact congrArg _ (readBlock_register bt (blockReached_temper s) rfl rfl)
  rw [readReg_temperCfg] at read
  exact ⟨_, read, rfl, rfl, rfl, rfl⟩

/-- Settles O59: each clause is one way an access at a block offset goes. -/
theorem registerWindowAccesses : Obligations.RegisterWindowAccesses := ⟨registerWindow, registerReads⟩

end Sys2Proof.Machine
end

section
/-!
PROOF. The job fault: what the end of items, engines and holds leaves of the other units, then the marking of the job and its context (O53).
-/
namespace Sys2Proof.Machine
open Sys2Proof.Claim

/-! ### What the end of a job leaves of the other units -/

/-- The host memory, the codes reported and the contexts are the same, and of every cell all but its translations: so a fault leaves them until its
own context is marked (R408, R162). -/
structure FaultFrame (s u : State) : Prop where
  host : u.host = s.host
  events : u.events = s.events
  ctxs : u.ctxs = s.ctxs
  cells : ∀ c, getCell u c = { getCell s c with tlb := (getCell u c).tlb }

/-- No item of any job changes either. -/
structure ItemFrame (s u : State) : Prop extends FaultFrame s u where
  items : ∀ k, (getJob u k).items = (getJob s k).items

theorem FaultFrame.refl (s : State) : FaultFrame s s := ⟨rfl, rfl, rfl, fun _ => rfl⟩

theorem FaultFrame.trans {s t u : State} (h : FaultFrame s t) (h' : FaultFrame t u) : FaultFrame s u where
  host := h'.host.trans h.host
  events := h'.events.trans h.events
  ctxs := h'.ctxs.trans h.ctxs
  cells c := by rw [h'.cells c, h.cells c]

theorem ItemFrame.refl (s : State) : ItemFrame s s := ⟨.refl s, fun _ => rfl⟩

theorem ItemFrame.trans {s t u : State} (h : ItemFrame s t) (h' : ItemFrame t u) : ItemFrame s u :=
  ⟨h.toFaultFrame.trans h'.toFaultFrame, fun k => (h'.items k).trans (h.items k)⟩

theorem ItemFrame.foldl {α : Type} {f : State → α → State} (step : ∀ s a, ItemFrame s (f s a)) (l : List α) (s : State) :
    ItemFrame s (l.foldl f s) :=
  List.foldlRecOn l f (.refl s) fun _ h a _ => h.trans (step _ a)

theorem FaultFrame.of_eq {s u : State} (host : u.host = s.host) (events : u.events = s.events) (ctxs : u.ctxs = s.ctxs)
    (cells : u.cells = s.cells) : FaultFrame s u :=
  ⟨host, events, ctxs, fun c => by rw [getCell, cells, getCell]⟩

theorem ItemFrame.of_eq {s u : State} (host : u.host = s.host) (events : u.events = s.events) (ctxs : u.ctxs = s.ctxs)
    (cells : u.cells = s.cells) (jobs : u.jobs = s.jobs) : ItemFrame s u :=
  ⟨.of_eq host events ctxs cells, fun k => by rw [getJob, jobs, getJob]⟩

theorem FaultFrame.setJob (s : State) (j : Nat) (x : Job) : FaultFrame s (setJob s j x) := .of_eq rfl rfl rfl rfl

theorem getJob_modJob_if (s : State) (j k : Nat) (f : Job → Job) :
    getJob (modJob s j f) k = if k = j then f (getJob s k) else getJob s k := by
  split
  · subst_vars
    exact getJob_setJob ..
  · exact getJob_setJob_ne _ _ _ _ ‹_›

/-- A job changed in anything but its items. -/
theorem ItemFrame.modJob (s : State) (j : Nat) {f : Job → Job} (keeps : ∀ jb, (f jb).items = jb.items) : ItemFrame s (modJob s j f) where
  toFaultFrame := .setJob ..
  items k := by rw [getJob_modJob_if]; split <;> simp [keeps]

/-! ### Frames and translations -/

theorem countFrame_frame (s : State) (j d f : Nat) (add : Bool) : ItemFrame s (countFrame s j d f add) := by
  rw [countFrame]
  refine .modJob s j fun jb => ?_
  dsimp only
  split <;> rfl

theorem putFrame_frame (s : State) (f : Nat) (x : Frame) : ItemFrame s (putFrame s f x) := .of_eq rfl rfl rfl rfl rfl

/-- A frame that is freed leaves no trace outside device memory, the frame tables and the job's counts (R173, R504). -/
theorem releaseFrame_frame (s : State) (f : Nat) : ItemFrame s (releaseFrame s f) := by
  unfold releaseFrame
  dsimp only
  split
  · exact .of_eq rfl rfl rfl rfl rfl
  · split
    · exact .refl s
    · split
      · exact (putFrame_frame s f _).trans (countFrame_frame ..)
      · exact putFrame_frame s f _

theorem releaseFrames_frame (s : State) (l : List Nat) : ItemFrame s (releaseFrames s l) := .foldl releaseFrame_frame l s

/-- Translations dropped in the cells that satisfy a test change nothing else of any cell. -/
theorem mget_map_tlb (p : Cell → Bool) (f : Cell → List (Nat × Nat)) (m : List (Nat × Cell)) (c : Nat) :
    ∃ t, mget Cell.reset (m.map (fun e => if p e.2 then (e.1, { e.2 with tlb := f e.2 }) else e)) c = { mget Cell.reset m c with tlb := t } := by
  induction m with
  | nil => exact ⟨_, rfl⟩
  | cons e rest ih =>
    obtain ⟨i, x⟩ := e
    by_cases hi : i = c <;> cases hp : p x
    · exact ⟨x.tlb, by simp [mget, hi, hp]⟩
    · exact ⟨f x, by simp [mget, hi, hp]⟩
    all_goals simpa [mget, hi, hp] using ih

theorem invalidate_frame (s : State) (j d : Nat) (vpns : List Nat) : ItemFrame s (invalidate s j d vpns) where
  host := rfl
  events := rfl
  ctxs := rfl
  items _ := rfl
  cells c := by
    obtain ⟨t, ht⟩ := mget_map_tlb (fun x => decide (x.ctx = j)) (fun x => x.tlb.filter (fun t => !vpns.contains t.1)) s.cells c
    have eq : getCell (invalidate s j d vpns) c = { getCell s c with tlb := t } := by simpa [invalidate, getCell] using ht
    rw [eq]

/-! ### Items, holds, engines -/

/-- An item on which nothing more is done (R16, R172). -/
def Item.ended (it : Item) : Prop := it.state = .done ∨ it.state = .committed ∨ it.state = .notExecuted

/-- An item that is abandoned has ended, and every other item of the job is as it was (R172). -/
theorem abandonItem_spec (s : State) (j i : Nat) :
    FaultFrame s (abandonItem s j i) ∧
      (∀ it, mfind (getJob (abandonItem s j i) j).items i = some it → it.ended) ∧
      ∀ k, k ≠ i → mfind (getJob (abandonItem s j i) j).items k = mfind (getJob s j).items k := by
  unfold abandonItem
  dsimp only
  split
  next none => exact ⟨.refl s, fun it h => absurd (none.symm.trans h) (by simp), fun _ _ => rfl⟩
  next it found =>
    split
    next ended => exact ⟨.refl s, fun x h => (Option.some.inj (found.symm.trans h)) ▸ ended, fun _ _ => rfl⟩
    next =>
      have freed := (releaseFrames_frame s (itemFrames it)).trans (invalidate_frame _ j it.die (privateVpns it))
      refine ⟨freed.toFaultFrame.trans (.setJob ..), fun x h => ?_, fun k hk => ?_⟩
      · rw [getJob_modJob_if, if_pos rfl, mfind_mput_same] at h
        exact Option.some.inj h ▸ Or.inr (Or.inr rfl)
      · rw [getJob_modJob_if, if_pos rfl, mfind_mput_ne _ _ hk, freed.items j]

/-- After items are abandoned one by one, an item is as it was or has ended, and each of those has. -/
theorem abandonItems_spec (j : Nat) (l : List (Nat × Item)) (s : State) :
    FaultFrame s (l.foldl (fun s e => abandonItem s j e.1) s) ∧
      ∀ k it, mfind (getJob (l.foldl (fun s e => abandonItem s j e.1) s) j).items k = some it →
        it.ended ∨ (k ∉ l.map (·.1) ∧ mfind (getJob s j).items k = some it) := by
  induction l generalizing s with
  | nil => exact ⟨.refl s, fun k it h => .inr ⟨List.not_mem_nil, h⟩⟩
  | cons e rest ih =>
    obtain ⟨frame, ended, others⟩ := abandonItem_spec s j e.1
    obtain ⟨frame', ih⟩ := ih (abandonItem s j e.1)
    refine ⟨frame.trans frame', fun k it h => ?_⟩
    rcases ih k it h with done | ⟨notIn, before⟩
    · exact .inl done
    · by_cases hk : k = e.1
      · exact .inl (ended it (hk ▸ before))
      · exact .inr ⟨by simpa [hk] using notIn, others k hk ▸ before⟩

/-- Dropped holds free frames and leave every item (R315). -/
theorem dropHolds_frame (s : State) (j : Nat) : ItemFrame s (dropHolds s j) := by
  have freed : ItemFrame s ((heldPages (getJob s j)).foldl (fun s e => releaseFrames (invalidate s j e.1 (e.2.map (·.1))) (mapFrames e.2)) s) :=
    .foldl (fun t _ => (invalidate_frame t ..).trans (releaseFrames_frame ..)) _ s
  have runs : ∀ t : State, ItemFrame t { t with exportRuns := t.exportRuns.filter (fun e => decide (e.job ≠ j)) } :=
    fun _ => .of_eq rfl rfl rfl rfl rfl
  rw [dropHolds]
  refine (freed.trans (runs _)).trans (.modJob _ j ?_)
  exact fun _ => rfl

theorem stopEngines_frame (s : State) (j : Nat) : ItemFrame s (stopEngines s j) := .of_eq rfl rfl rfl rfl rfl

/-! ### Queues and level events -/

theorem failEntries_idem (code : Nat) (q : Queue) : failEntries code (failEntries code q) = failEntries code q := by
  simp [failEntries]

/-- The entries of every queue listed fail, those of the others do not. -/
theorem getQueue_failQueues (code : Nat) (l : List Nat) (s : State) (q : Nat) :
    getQueue (l.foldl (fun s q => modQueue s q (failEntries code)) s) q = if q ∈ l then failEntries code (getQueue s q) else getQueue s q := by
  induction l generalizing s with
  | nil => rfl
  | cons a rest ih =>
    rw [List.foldl_cons, ih]
    by_cases ha : q = a
    · subst ha
      simp [failEntries_idem]
    · simp [ha, getQueue_setQueue_ne _ _ _ _ ha]

theorem failQueues_frame (code : Nat) (l : List Nat) (s : State) :
    ∃ m, l.foldl (fun s q => modQueue s q (failEntries code)) s = { s with queues := m } := by
  induction l generalizing s with
  | nil => exact ⟨_, rfl⟩
  | cons a rest ih => exact ih (modQueue s a (failEntries code))

/-- A level source that is sampled changes itself and the Lodge clock only (R426). -/
theorem sampleLevel_frame (s : State) (n : Nat) : ∃ m b, sampleLevel s n = { s with evs := m, lodgeClk := b } := by
  unfold sampleLevel
  dsimp only
  split
  · exact ⟨_, _, rfl⟩
  · split
    · exact ⟨_, _, rfl⟩
    · exact ⟨_, _, rfl⟩

@[simp] theorem getQueue_sampleLevel (s : State) (n q : Nat) : getQueue (sampleLevel s n) q = getQueue s q := by
  obtain ⟨_, _, h⟩ := sampleLevel_frame s n
  rw [h]; rfl

@[simp] theorem getQueue_reportOf (s : State) (code i q : Nat) : getQueue (reportOf s code i) q = getQueue s q := rfl

/-! ### The job fault -/

/-- The state in which a faulting job's items have ended, its engines have stopped and its holds are dropped. -/
def jobCleared (s : State) (j : Nat) : State := dropHolds (stopEngines ((getJob s j).items.foldl (fun s e => abandonItem s j e.1) s) j) j

/-- Job j and its context are FAULTED. -/
def markFaulted (s : State) (j code : Nat) : State :=
  let t := modJob s j (fun jb => { jb with faulted := true, stuckSince := none })
  restartIdle (setCtx t j { getCtx t j with state := 2, code := code })

/-- The entries of the job's queues fail, and the code is reported. -/
def failContext (s : State) (j code : Nat) : State :=
  sampleLevel (reportOf ((ctxQueues j).foldl (fun s q => modQueue s q (failEntries code)) s) code j) (128 + 4 * j + 1)

theorem jobFault_of_loaded {s : State} {j : Nat} (code : Nat) (loaded : (getJob s j).loaded = true) (sound : (getJob s j).faulted = false) :
    jobFault s j code = failContext (markFaulted (jobCleared s j) j code) j code := by
  simp only [jobFault, loaded, sound, Bool.not_true, Bool.or_self, Bool.false_eq_true, if_false, failContext, markFaulted, jobCleared]

theorem jobCleared_frame (s : State) (j : Nat) : FaultFrame s (jobCleared s j) :=
  (abandonItems_spec j _ s).1.trans ((stopEngines_frame _ j).trans (dropHolds_frame _ j)).toFaultFrame

/-- Every item of a cleared job has ended: each was listed, and so abandoned. -/
theorem jobCleared_items {s : State} {j i : Nat} {it : Item} (h : mfind (getJob (jobCleared s j) j).items i = some it) : it.ended := by
  rw [jobCleared, ((stopEngines_frame _ j).trans (dropHolds_frame _ j)).items j] at h
  rcases (abandonItems_spec j _ s).2 i it h with ended | ⟨notIn, before⟩
  · exact ended
  · exact absurd (List.mem_map_of_mem (mem_of_mfind before)) notIn

section
variable (s : State) (j code : Nat)

@[simp] theorem markFaulted_job : getJob (markFaulted s j code) j = { getJob s j with faulted := true, stuckSince := none } := getJob_setJob ..
@[simp] theorem markFaulted_ctx : getCtx (markFaulted s j code) j = { getCtx s j with state := 2, code := code } := getCtx_setCtx ..
theorem markFaulted_ctx_ne {k : Nat} (hk : k ≠ j) : getCtx (markFaulted s j code) k = getCtx s k := getCtx_setCtx_ne _ _ k _ hk
@[simp] theorem markFaulted_cell (c : Nat) : getCell (markFaulted s j code) c = getCell s c := by
  simp [markFaulted, restartIdle, getCell]
@[simp] theorem markFaulted_host : (markFaulted s j code).host = s.host := by simp [markFaulted, restartIdle]
@[simp] theorem markFaulted_events : (markFaulted s j code).events = s.events := by simp [markFaulted, restartIdle]

/-- Only queues, event sources, the Lodge clock and the codes reported change when a context fails. -/
theorem failContext_frame : ∃ evs clk queues,
    failContext s j code = { s with evs := evs, lodgeClk := clk, queues := queues, events := (code, j) :: s.events } := by
  obtain ⟨queues, hq⟩ := failQueues_frame code (ctxQueues j) s
  rw [failContext, hq]
  obtain ⟨evs, clk, he⟩ := sampleLevel_frame (reportOf { s with queues := queues } code j) (128 + 4 * j + 1)
  exact ⟨evs, clk, queues, he⟩

@[simp] theorem failContext_job (k : Nat) : getJob (failContext s j code) k = getJob s k := by
  obtain ⟨_, _, _, h⟩ := failContext_frame s j code
  rw [h]; rfl

@[simp] theorem failContext_ctx (k : Nat) : getCtx (failContext s j code) k = getCtx s k := by
  obtain ⟨_, _, _, h⟩ := failContext_frame s j code
  rw [h]; rfl

@[simp] theorem failContext_cell (c : Nat) : getCell (failContext s j code) c = getCell s c := by
  obtain ⟨_, _, _, h⟩ := failContext_frame s j code
  rw [h]; rfl

@[simp] theorem failContext_host : (failContext s j code).host = s.host := by
  obtain ⟨_, _, _, h⟩ := failContext_frame s j code
  rw [h]

@[simp] theorem failContext_events : (failContext s j code).events = (code, j) :: s.events := by
  obtain ⟨_, _, _, h⟩ := failContext_frame s j code
  rw [h]

theorem failContext_queue {q : Nat} (hq : q < 64) :
    getQueue (failContext s j code) (64 * j + q) = failEntries code (getQueue s (64 * j + q)) := by
  have listed : 64 * j + q ∈ ctxQueues j := List.mem_map.mpr ⟨q, List.mem_range.mpr hq, rfl⟩
  rw [failContext, getQueue_sampleLevel, getQueue_reportOf, getQueue_failQueues, if_pos listed]

end

theorem failEntries_outcome {code : Nat} {q : Queue} {e : QEntry} (h : e ∈ (failEntries code q).entries) : e.outcome = some (code, 1, 0, 0) := by
  obtain ⟨_, -, rfl⟩ := List.mem_map.mp h
  rfl

/-- Settles O53: a fault clears the job, marks it with its context, and fails its queues; none of the three reaches another context. -/
theorem jobFaultEndsItsContext : Obligations.JobFaultEndsItsContext := by
  intro s j code loaded sound
  obtain ⟨host, events, ctxs, cells⟩ := jobCleared_frame s j
  rw [jobFault_of_loaded code loaded sound]
  refine ⟨by simp, by simp, by simp, by simp [events], fun q hq e he => ?_, fun i it h => ?_, fun k hk => ?_, fun c => ?_, by simp [host]⟩
  · exact failEntries_outcome (failContext_queue _ _ _ hq ▸ he)
  · exact jobCleared_items (by simpa using h)
  · rw [failContext_ctx, markFaulted_ctx_ne _ _ _ hk, getCtx, ctxs, getCtx]
  · rw [failContext_cell, markFaulted_cell]
    exact cells c

end Sys2Proof.Machine
end

section
/-!
PROOF. Waits: registration at the port, expiry as time passes, the message that wakes a thread (O40).
-/
namespace Sys2Proof.Machine
open Sys2Proof.Claim

/-! ### Messages to waiters -/

/-- Messages set out in the order of their waiters (R282). -/
theorem foldl_sendWait (l : List Waiter) (ok : Bool) (s : State) :
    l.foldl (fun s w => sendWait s w.agent ok) s = { s with waitMsgs := s.waitMsgs ++ l.map (fun w => ⟨w.agent, ok⟩) } := by
  induction l generalizing s with
  | nil => simp
  | cons w rest ih =>
    rw [List.foldl_cons, ih]
    simp [sendWait]

/-! ### Registration -/

theorem waitRegistration : WaitRegistration := by
  intro s i agent n
  refine ⟨fun sat => ?_, fun unsat => ?_⟩
  · rw [registerWait, if_pos sat]
    exact ⟨rfl, rfl⟩
  · have unsat' : ¬ satisfied (getObj s i) = true := by simp [unsat]
    rw [registerWait, if_neg unsat']
    exact ⟨by simp, rfl⟩

/-! ### What the passing of ticks leaves of objects and their waits -/

/-- Objects, messages, resets and the ember counter stand still, and no die counts another wait that timed out. -/
structure WaitFrame (s u : State) : Prop where
  objs : u.objs = s.objs
  msgs : u.waitMsgs = s.waitMsgs
  rsts : u.rsts = s.rsts
  trigger : u.failTrigger = s.failTrigger
  ember : u.ember = s.ember
  waitsOut : ∀ d, (getStore u d).waitsOut = (getStore s d).waitsOut

theorem WaitFrame.refl (s : State) : WaitFrame s s := ⟨rfl, rfl, rfl, rfl, rfl, fun _ => rfl⟩

theorem WaitFrame.trans {s t u : State} (h : WaitFrame s t) (h' : WaitFrame t u) : WaitFrame s u :=
  ⟨h'.objs.trans h.objs, h'.msgs.trans h.msgs, h'.rsts.trans h.rsts, h'.trigger.trans h.trigger, h'.ember.trans h.ember,
    fun d => (h'.waitsOut d).trans (h.waitsOut d)⟩

theorem WaitFrame.foldl {α : Type} {f : State → α → State} (step : ∀ s a, WaitFrame s (f s a)) (l : List α) (s : State) :
    WaitFrame s (l.foldl f s) :=
  List.foldlRecOn l f (.refl s) fun _ h a _ => h.trans (step _ a)

theorem WaitFrame.setPav (s : State) (p : Nat) (x : Pav) : WaitFrame s (setPav s p x) := ⟨rfl, rfl, rfl, rfl, rfl, fun _ => rfl⟩

theorem WaitFrame.draw (s : State) : WaitFrame s (draw s) := ⟨rfl, rfl, rfl, rfl, rfl, fun _ => rfl⟩

theorem getStore_modStore_if (s : State) (d k : Nat) (f : StoreDie → StoreDie) :
    getStore (modStore s d f) k = if k = d then f (getStore s k) else getStore s k := by
  split
  · subst_vars
    exact getStore_setStore ..
  · exact getStore_setStore_ne _ _ _ _ ‹_›

/-- A store die changed in anything but its count of waits that timed out. -/
theorem WaitFrame.modStore (s : State) (d : Nat) {f : StoreDie → StoreDie} (keeps : ∀ x, (f x).waitsOut = x.waitsOut) :
    WaitFrame s (modStore s d f) where
  objs := rfl
  msgs := rfl
  rsts := rfl
  trigger := rfl
  ember := rfl
  waitsOut k := by rw [getStore_modStore_if]; split <;> simp [keeps]

theorem countBelv_frame (s : State) (n p : Nat) : WaitFrame s (countBelv s n p) := by
  unfold countBelv
  dsimp only
  split
  · exact .refl s
  · split
    · exact .setPav ..
    · exact (WaitFrame.setPav s p _).trans (.draw _)

theorem countHeld_frame (s : State) (d : Nat) : WaitFrame s (countHeld s d) := by
  unfold countHeld
  dsimp only
  split
  · exact .refl s
  · exact (WaitFrame.draw s).trans (.modStore _ d fun _ => rfl)

/-- The ember counter rises by n and the counters run; then the waits expire whose deadlines have come (R487, R283). -/
theorem passTicks_spec (s : State) (n : Nat) : ∃ v, passTicks s n = expireWaits v ∧ WaitFrame { s with ember := s.ember + n } v := by
  refine ⟨_, rfl, WaitFrame.trans ?_ (.foldl countHeld_frame _ _)⟩
  split
  · exact .foldl (countBelv_frame · n) _ _
  · exact .refl _

/-! ### Expiry at one object -/

/-- The waiters of object i whose deadlines have come. -/
def overdueAt (s : State) (i : Nat) : List Waiter := (getObj s i).waiters.filter (overdue s.ember)

/-- They have left the object, are counted, and are told TIMED_OUT (R283). -/
def expired (s : State) (i : Nat) : State :=
  modStore (setObj { s with waitMsgs := s.waitMsgs ++ (overdueAt s i).map (fun w => ⟨w.agent, false⟩) } i
    { getObj s i with waiters := (getObj s i).waiters.filter (fun w => !overdue s.ember w) }) (dieOfObj i)
    (fun x => { x with waitsOut := wrap32 (x.waitsOut + (overdueAt s i).length) })

/-- Nothing expires where no deadline has come or the Hearth does not run; else all that is due does. -/
theorem expireObj_cases (s : State) (i : Nat) :
    (expireObj s i = s ∧ (stackUp s (dieOfObj i) = true → s.failTrigger = 0 → overdueAt s i = [])) ∨
      (expireObj s i = expired s i ∧ overdueAt s i ≠ []) := by
  by_cases idle : (overdueAt s i).isEmpty ∨ !stackUp s (dieOfObj i) ∨ s.failTrigger ≠ 0
  · refine .inl ⟨if_pos idle, fun up ok => ?_⟩
    simpa [up, ok] using idle
  · have due : overdueAt s i ≠ [] := fun none => idle (.inl (by simp [none]))
    refine .inr ⟨(if_neg idle).trans ?_, due⟩
    rw [foldl_sendWait]
    rfl

section
variable (s : State) (i : Nat)

@[simp] theorem expired_rsts : (expired s i).rsts = s.rsts := by simp [expired]
@[simp] theorem expired_failTrigger : (expired s i).failTrigger = s.failTrigger := by simp [expired]
@[simp] theorem expired_ember : (expired s i).ember = s.ember := by simp [expired]
@[simp] theorem expired_waitMsgs : (expired s i).waitMsgs = s.waitMsgs ++ (overdueAt s i).map (fun w => ⟨w.agent, false⟩) := by
  simp [expired]
@[simp] theorem getObj_expired :
    getObj (expired s i) i = { getObj s i with waiters := (getObj s i).waiters.filter (fun w => !overdue s.ember w) } := by
  simp [expired]
theorem getObj_expired_ne {k : Nat} (h : k ≠ i) : getObj (expired s i) k = getObj s k := by
  rw [expired, modStore_eq, getObj_setStore]
  exact getObj_setObj_ne _ _ k _ h
@[simp] theorem getStore_expired :
    (getStore (expired s i) (dieOfObj i)).waitsOut = wrap32 ((getStore s (dieOfObj i)).waitsOut + (overdueAt s i).length) := by
  rw [expired, modStore_eq, getStore_setStore]
  rfl

@[simp] theorem expireObj_ember : (expireObj s i).ember = s.ember := by
  rcases expireObj_cases s i with ⟨h, -⟩ | ⟨h, -⟩ <;> simp [h]

end

theorem expireObj_of_noWaiter {s : State} {i : Nat} (none : (getObj s i).waiters = []) : expireObj s i = s :=
  if_pos (.inl (by simp [none]))

/-! ### One waiter while others expire -/

/-- From state `s` on, `w` waits at object i or has been told TIMED_OUT; COUNT, TARGET and what lets the Hearth run stay. -/
structure WaitsOrTold (s : State) (i : Nat) (w : Waiter) (t : State) : Prop where
  rsts : t.rsts = s.rsts
  trigger : t.failTrigger = s.failTrigger
  count : (getObj t i).count = (getObj s i).count
  target : (getObj t i).target = (getObj s i).target
  told : w ∈ (getObj t i).waiters ∨ ⟨w.agent, false⟩ ∈ t.waitMsgs

/-- A waiter that expires is told: so it goes on in one of the two ways, whichever object's waits expire. -/
theorem WaitsOrTold.expireObj {s t : State} {i : Nat} {w : Waiter} (h : WaitsOrTold s i w t) (k : Nat) :
    WaitsOrTold s i w (expireObj t k) := by
  rcases expireObj_cases t k with ⟨eq, -⟩ | ⟨eq, -⟩ <;> rw [eq]
  · exact h
  obtain ⟨rsts, trigger, count, target, told⟩ := h
  by_cases hk : i = k
  · subst hk
    refine ⟨by simp [rsts], by simp [trigger], by simp [count], by simp [target], ?_⟩
    rcases told with waits | told
    · cases due : overdue t.ember w
      · exact .inl (by simp [waits, due])
      · exact .inr (List.mem_append_right _ (List.mem_map.mpr ⟨w, List.mem_filter.mpr ⟨waits, due⟩, rfl⟩))
    · exact .inr (List.mem_append_left _ told)
  · have same := getObj_expired_ne t k hk
    refine ⟨by simp [rsts], by simp [trigger], by rw [same, count], by rw [same, target], ?_⟩
    rw [same, expired_waitMsgs]
    exact told.imp_right (List.mem_append_left _)

theorem WaitsOrTold.of_frame {s t u : State} {i : Nat} {w : Waiter} (h : WaitsOrTold s i w t) (f : WaitFrame t u) : WaitsOrTold s i w u := by
  obtain ⟨rsts, trigger, count, target, told⟩ := h
  have same : getObj u i = getObj t i := congrArg (mget SyncObj.reset · i) f.objs
  exact ⟨f.rsts.trans rsts, f.trigger.trans trigger, same ▸ count, same ▸ target, by rwa [same, f.msgs]⟩

/-! ### The only waiter of all -/

/-- No wait is registered at another object, and `w`, the only waiter of object i, waits still or has been told and counted once. -/
structure LoneWaiter (s : State) (i : Nat) (w : Waiter) (t : State) : Prop where
  others : ∀ k, k ≠ i → (getObj t k).waiters = []
  here : ((getObj t i).waiters = [w] ∧ t.waitMsgs = s.waitMsgs ∧ (getStore t (dieOfObj i)).waitsOut = (getStore s (dieOfObj i)).waitsOut) ∨
    ((getObj t i).waiters = [] ∧ t.waitMsgs = s.waitMsgs ++ [⟨w.agent, false⟩] ∧
      (getStore t (dieOfObj i)).waitsOut = wrap32 ((getStore s (dieOfObj i)).waitsOut + 1))

theorem LoneWaiter.expireObj {s t : State} {i : Nat} {w : Waiter} (h : LoneWaiter s i w t) (k : Nat) : LoneWaiter s i w (expireObj t k) := by
  by_cases hk : k = i
  · subst hk
    rcases h.here with ⟨waits, msgs, out⟩ | ⟨gone, -, -⟩
    · rcases expireObj_cases t k with ⟨eq, -⟩ | ⟨eq, some⟩ <;> rw [eq]
      · exact h
      have due : overdue t.ember w = true := by simpa [overdueAt, waits] using some
      have one : overdueAt t k = [w] := by simp [overdueAt, waits, due]
      exact ⟨fun j hj => getObj_expired_ne t k hj ▸ h.others j hj, .inr ⟨by simp [waits, due], by simp [one, msgs], by simp [one, out]⟩⟩
    · rwa [expireObj_of_noWaiter gone]
  · rwa [expireObj_of_noWaiter (h.others k hk)]

theorem LoneWaiter.of_frame {s t u : State} {i : Nat} {w : Waiter} (h : LoneWaiter s i w t) (f : WaitFrame t u) : LoneWaiter s i w u := by
  have same : ∀ k, getObj u k = getObj t k := fun k => congrArg (mget SyncObj.reset · k) f.objs
  exact ⟨fun k hk => same k ▸ h.others k hk, by simpa only [same, f.msgs, f.waitsOut] using h.here⟩

/-! ### Time up to a deadline -/

/-- What ticks, the counters' running and expiry at each object keep, the passing of time keeps. -/
theorem advanceTo_induct {P : State → Prop} {s : State} (e : Nat) (start : P s) (tick : ∀ t n, P t → P { t with ember := t.ember + n })
    (frame : ∀ t u, P t → WaitFrame t u → P u) (expire : ∀ t k, P t → P (expireObj t k)) : P (advanceTo s e) := by
  unfold advanceTo
  split
  · obtain ⟨v, eq, counted⟩ := passTicks_spec s (e - s.ember)
    rw [eq]
    exact List.foldlRecOn _ _ (frame _ v (tick s _ start) counted) fun t h k _ => expire t k h
  · exact start

theorem expireWaits_ember (s : State) : (expireWaits s).ember = s.ember :=
  List.foldlRecOn (motive := fun t => t.ember = s.ember) _ _ rfl fun t h k _ => (expireObj_ember t k).trans h

theorem advanceTo_ember (s : State) (e : Nat) : (advanceTo s e).ember = max s.ember e := by
  unfold advanceTo
  split
  · obtain ⟨v, eq, counted⟩ := passTicks_spec s (e - s.ember)
    rw [eq, expireWaits_ember, counted.ember]
    dsimp only
    omega
  · omega

theorem WaitsOrTold.advanceTo {s : State} {i : Nat} {w : Waiter} (waits : w ∈ (getObj s i).waiters) (e : Nat) :
    WaitsOrTold s i w (advanceTo s e) :=
  advanceTo_induct e ⟨rfl, rfl, rfl, rfl, .inl waits⟩ (fun _ _ h => ⟨h.rsts, h.trigger, h.count, h.target, h.told⟩)
    (fun _ _ h f => h.of_frame f) fun _ k h => h.expireObj k

theorem LoneWaiter.advanceTo {s : State} {i : Nat} {w : Waiter} (waits : (getObj s i).waiters = [w])
    (others : ∀ k, k ≠ i → (getObj s k).waiters = []) (e : Nat) : LoneWaiter s i w (advanceTo s e) :=
  advanceTo_induct e ⟨others, .inl ⟨waits, rfl, rfl⟩⟩ (fun _ _ h => ⟨h.others, h.here⟩) (fun _ _ h f => h.of_frame f) fun _ k h => h.expireObj k

/-! ### The command WAITT_EXPIRY -/

theorem exec_waittExpiry {s : State} {i c t e : Nat} (obj : objOk i = true) (cell : cellOk c = true) (thread : threadOk t = true)
    (up : stackUp s (dieOfObj i) = true) (ok : s.failTrigger = 0)
    (found : (getObj s i).waiters.find? (fun w => decide (w.agent = 8 * c + t)) = some ⟨8 * c + t, some e⟩) :
    exec (.waittExpiry i c t) s = .next (expireObj (advanceTo s e) i) := by
  change execWaittExpiry i c t s = _
  simp [execWaittExpiry, obj, cell, thread, found, up, ok]

/-- At a running Hearth no waiter whose deadline has come is left. -/
theorem not_mem_expireObj {s : State} {i : Nat} {w : Waiter} (up : stackUp s (dieOfObj i) = true) (ok : s.failTrigger = 0)
    (due : overdue s.ember w = true) : w ∉ (getObj (expireObj s i) i).waiters := by
  rcases expireObj_cases s i with ⟨eq, none⟩ | ⟨eq, -⟩ <;> rw [eq]
  · exact fun waits => List.filter_eq_nil_iff.mp (none up ok) w waits due
  · simp [due]

/-! ### The command WAIT_RELEASE_MESSAGE -/

/-- Of a cell only the stream slots, the Bellows and the count of invalidations differ. -/
def StreamFrame (x y : Cell) : Prop := ∃ m b n, y = { x with slots := m, bellows := b, qinval := n }

theorem StreamFrame.refl (x : Cell) : StreamFrame x x := ⟨_, _, _, rfl⟩

theorem StreamFrame.trans {x y z : Cell} (h : StreamFrame x y) (h' : StreamFrame y z) : StreamFrame x z := by
  obtain ⟨_, _, _, rfl⟩ := h
  obtain ⟨_, _, _, rfl⟩ := h'
  exact ⟨_, _, _, rfl⟩

theorem StreamFrame.foldl {α : Type} {f : Cell → α → Cell} (step : ∀ x a, StreamFrame x (f x a)) (l : List α) (x : Cell) :
    StreamFrame x (l.foldl f x) :=
  List.foldlRecOn l f (.refl x) fun _ h a _ => h.trans (step _ a)

/-- An acquire fetches granules of streams again (R204). -/
theorem acquireSlot_frame (t stamp : Nat) (x : Cell) (q : Nat) : StreamFrame x (acquireSlot t stamp x q) :=
  iteInduction (fun _ => .refl x) fun _ => .foldl (fun y _ => iteInduction (fun _ => .refl y) fun _ => ⟨_, _, _, rfl⟩) _ x

theorem acquireStreams_frame (x : Cell) (t stamp : Nat) : StreamFrame x (acquireStreams x t stamp) := .foldl (acquireSlot_frame t stamp) _ x

section
variable (x : Cell) (t : Nat)

@[simp] theorem tstateOf_acquireStreams (stamp : Nat) : tstateOf (acquireStreams x t stamp) t = tstateOf x t := by
  obtain ⟨_, _, _, h⟩ := acquireStreams_frame x t stamp
  rw [h]; rfl

@[simp] theorem sReg_acquireStreams (stamp n r : Nat) : sReg n (acquireStreams x t stamp) t r = sReg n x t r := by
  obtain ⟨_, _, _, h⟩ := acquireStreams_frame x t stamp
  rw [h]; rfl

@[simp] theorem tstateOf_setS (r : Nat) (v : Word) : tstateOf (setS x t r v) t = tstateOf x t := by
  obtain ⟨_, _, h⟩ := setS_frame x t r v
  rw [h]; rfl

@[simp] theorem waitsOf_setS (r : Nat) (v : Word) : waitsOf (setS x t r v) t = waitsOf x t := by
  obtain ⟨_, _, h⟩ := setS_frame x t r v
  rw [h]; rfl

/-- The wait has ended and the thread goes on, before any register is written. -/
def woken : Cell := setWaits (setTState x t .ready) t .none

@[simp] theorem tstateOf_woken : tstateOf (woken x t) t = .ready := tstateOf_setTState x t .ready
@[simp] theorem waitsOf_woken : waitsOf (woken x t) t = .none := waitsOf_setWaits (setTState x t .ready) t .none

end

/-- TIMED_OUT is no acquire: only sD is written (R79, R277). -/
theorem endWait_timedOut {x : Cell} {t d stamp : Nat} (h : waitsOf x t = .object d true stamp) : endWait x t false = setS (woken x t) t d 1 := by
  simp [endWait, h, woken]

theorem endWait_satisfied {x : Cell} {t d stamp : Nat} {timed : Bool} (h : waitsOf x t = .object d timed stamp) :
    endWait x t true = acquireStreams (if timed then setS (woken x t) t d 0 else woken x t) t stamp := by
  simp [endWait, h, woken]

/-- The message of a live thread reaches it, and no other cell. -/
theorem exec_waitReleaseMessage {s : State} {c t : Nat} {m : WaitMsg} (cell : cellOk c = true) (thread : threadOk t = true)
    (live : cellLive s c = true) (found : s.waitMsgs.find? (fun m => decide (m.agent = 8 * c + t)) = some m) :
    exec (.waitReleaseMessage c t) s =
      .next (setCell { s with waitMsgs := dropFirst (fun n => decide (n = m)) s.waitMsgs } c (endWait (getCell s c) t m.satisfied)) := by
  change execWaitReleaseMessage c t s = _
  simp [execWaitReleaseMessage, onThread, cell, thread, found, live, getCell]

theorem timeoutsAndMessages : TimeoutsAndMessages := by
  refine ⟨fun s i c t e obj cell thread up ok found => ?_, fun s c t m d st cell thread live found waits timedOut => ?_,
    fun s c t m d st timed cell thread live found waits sat => ?_⟩
  · have before := WaitsOrTold.advanceTo (List.mem_of_find?_eq_some found) e
    have up' : stackUp (advanceTo s e) (dieOfObj i) = true := by rw [stackUp, getRst, before.rsts]; exact up
    have due : overdue (advanceTo s e).ember ⟨8 * c + t, some e⟩ = true := by simp [overdue, advanceTo_ember]
    have gone := not_mem_expireObj up' (before.trigger.trans ok) due
    have after := before.expireObj i
    refine ⟨_, exec_waittExpiry obj cell thread up ok found, gone, after.count, after.target, after.told.resolve_left gone, ?_, fun lone others => ?_⟩
    · rw [expireObj_ember, advanceTo_ember]
    · obtain ⟨-, told⟩ := ((LoneWaiter.advanceTo lone others e).expireObj i).here.resolve_left (fun ⟨waits, _⟩ => gone (by simp [waits]))
      exact told
  · refine ⟨_, exec_waitReleaseMessage cell thread live found, ?_⟩
    rw [timedOut, getCell_setCell, endWait_timedOut waits]
    exact ⟨by simp, by simp, fun n => sReg_setS .., rfl, fun k hk => getCell_setCell_ne _ _ k _ hk⟩
  · refine ⟨_, exec_waitReleaseMessage cell thread live found, ?_⟩
    rw [sat, getCell_setCell, endWait_satisfied waits]
    exact ⟨by cases timed <;> simp, fun isTimed n => by simp [isTimed, sReg_setS]⟩

/-- Settles O40: a wait is answered or registered at its port; by its deadline it has been told, whether in the ticks that pass until then or by
the command itself; the message wakes its thread. -/
theorem waitsAreReleasedOrTimeOut : Obligations.WaitsAreReleasedOrTimeOut := ⟨waitRegistration, timeoutsAndMessages⟩

end Sys2Proof.Machine
end

section

/-! PROOF. The ember counter never goes back (O6).

Ticks move the counter: `passTicks` and `advanceTo` add to it and `execPowerLoss` sets it to zero. No other function of the model writes
it. Each function `f` that answers with a state has the equation `f_ember : (f … s …).ember = s.ember`, tagged `simp`, in the order of the
model's files; a function that answers with more, or with a refusal, has one about the state it hands on, and a function that takes a
continuation asks the same of the continuation. On them stand the handlers: `KeepsEmber s o` says of an outcome `o` what the obligation
says of a step.

An equation that holds by computation is proved by `(rfl)` in parentheses, so that it is a rewrite rule like the others: as a definitional
one it would leave the kernel to compare whole states. Where a unit is changed inside a fold or a continuation, `-modCell_eq` (or that of
another unit) keeps the change folded, for `modCell_ember` to meet it. -/

namespace Sys2Proof.Machine

/-! ### What moves the counter, and folds -/

theorem passTicks_ember_le (s : State) (n : Nat) : s.ember ≤ (passTicks s n).ember := by
  obtain ⟨v, eq, counted⟩ := passTicks_spec s n
  rw [eq, expireWaits_ember, counted.ember]
  exact Nat.le_add_right ..

theorem advanceTo_ember_le (s : State) (t : Nat) : s.ember ≤ (advanceTo s t).ember := by
  rw [advanceTo_ember]
  exact Nat.le_max_left ..

theorem le_ember_of_eq {s t u : State} (h : s.ember ≤ t.ember) (e : u.ember = t.ember) : s.ember ≤ u.ember := h.trans (Nat.le_of_eq e.symm)

@[simp] theorem State.ember_ite (c : Prop) [Decidable c] (s t : State) :
    (if c then s else t).ember = if c then s.ember else t.ember :=
  apply_ite State.ember c s t

@[simp] theorem foldl_ember {α : Type} {f : State → α → State} (h : ∀ s a, (f s a).ember = s.ember) (l : List α) (s : State) :
    (l.foldl f s).ember = s.ember :=
  List.foldlRecOn (motive := fun t => t.ember = s.ember) l f rfl fun _ ih a _ => (h _ a).trans ih

theorem foldl_fst_ember {α β : Type} {f : State × β → α → State × β} (h : ∀ t a, (f t a).1.ember = t.1.ember) (l : List α)
    (t : State × β) : (l.foldl f t).1.ember = t.1.ember :=
  List.foldlRecOn (motive := fun u => u.1.ember = t.1.ember) l f rfl fun _ ih a _ => (h _ a).trans ih

/-! ### Units, counters, reports, job faults -/

@[simp] theorem modCell_ember (s : State) (c : Nat) (f : Cell → Cell) : (modCell s c f).ember = s.ember := (rfl)
@[simp] theorem modPav_ember (s : State) (p : Nat) (f : Pav → Pav) : (modPav s p f).ember = s.ember := (rfl)
@[simp] theorem modStore_ember (s : State) (d : Nat) (f : StoreDie → StoreDie) : (modStore s d f).ember = s.ember := (rfl)
@[simp] theorem modHbm_ember (s : State) (h : Nat) (f : Hbm → Hbm) : (modHbm s h f).ember = s.ember := (rfl)
@[simp] theorem modLink_ember (s : State) (l : Nat) (f : Link → Link) : (modLink s l f).ember = s.ember := (rfl)
@[simp] theorem modFab_ember (s : State) (d : Nat) (f : Fab → Fab) : (modFab s d f).ember = s.ember := (rfl)
@[simp] theorem modJob_ember (s : State) (j : Nat) (f : Job → Job) : (modJob s j f).ember = s.ember := (rfl)
@[simp] theorem modQueue_ember (s : State) (q : Nat) (f : Queue → Queue) : (modQueue s q f).ember = s.ember := (rfl)
@[simp] theorem modUcie_ember (s : State) (u : Nat) (f : Ucie → Ucie) : (modUcie s u f).ember = s.ember := (rfl)
@[simp] theorem restartIdle_ember (s : State) : (restartIdle s).ember = s.ember := (rfl)
@[simp] theorem draw_ember (s : State) : (draw s).ember = s.ember := (rfl)
@[simp] theorem reportOf_ember (s : State) (code i : Nat) : (reportOf s code i).ember = s.ember := (rfl)
@[simp] theorem report_ember (s : State) (code : Nat) : (report s code).ember = s.ember := (rfl)
@[simp] theorem recordErr_ember (s : State) (block offset code : Nat) : (recordErr s block offset code).ember = s.ember := (rfl)
@[simp] theorem raiseEvent_ember (s : State) (n : Nat) : (raiseEvent s n).ember = s.ember := (rfl)
@[simp] theorem sampleLevel_ember (s : State) (n : Nat) : (sampleLevel s n).ember = s.ember := by simp [sampleLevel]
@[simp] theorem countFrame_ember (s : State) (j d f : Nat) (add : Bool) : (countFrame s j d f add).ember = s.ember := (rfl)
@[simp] theorem putFrame_ember (s : State) (f : Nat) (x : Frame) : (putFrame s f x).ember = s.ember := (rfl)
@[simp] theorem releaseFrame_ember (s : State) (f : Nat) : (releaseFrame s f).ember = s.ember := by simp [releaseFrame]
@[simp] theorem releaseFrames_ember (s : State) (l : List Nat) : (releaseFrames s l).ember = s.ember := by simp [releaseFrames]
@[simp] theorem invalidate_ember (s : State) (j d : Nat) (vpns : List Nat) : (invalidate s j d vpns).ember = s.ember := (rfl)

@[simp] theorem abandonItem_ember (s : State) (j i : Nat) : (abandonItem s j i).ember = s.ember := by
  fun_cases abandonItem s j i <;> simp +zetaDelta

@[simp] theorem dropHolds_ember (s : State) (j : Nat) : (dropHolds s j).ember = s.ember := by simp [dropHolds]
@[simp] theorem stopEngines_ember (s : State) (j : Nat) : (stopEngines s j).ember = s.ember := (rfl)
@[simp] theorem jobFault_ember (s : State) (j code : Nat) : (jobFault s j code).ember = s.ember := by simp [jobFault, -modQueue_eq]

@[simp] theorem cellFault_ember (s : State) (c thread pc addr : Nat) (glob : Bool) (code : Nat) :
    (cellFault s c thread pc addr glob code).ember = s.ember := by
  simp [cellFault]

/-! ### Translation and physical memory -/

@[simp] theorem physWrite_ember (s : State) (a : Nat) (l : List Byte) : (physWrite s a l).ember = s.ember := by simp [physWrite]
@[simp] theorem clearErrors_ember (s : State) (a n : Nat) : (clearErrors s a n).ember = s.ember := (rfl)

@[simp] theorem writePieces_ember (s : State) (l : List Piece) (b : List Byte) : (writePieces s l b).ember = s.ember := by
  fun_induction writePieces s l b with
  | case1 => rfl
  | case2 s p rest b t ih =>
    rw [ih]
    simp only [t]
    split <;> simp

/-! ### Retirements and ECC errors -/

@[simp] theorem journalWrite_ember (s : State) (typ index value : Nat) : (journalWrite s typ index value).ember = s.ember := (rfl)
@[simp] theorem faultJobs_ember (s : State) (l : List Nat) (code : Nat) : (faultJobs s l code).ember = s.ember := by simp [faultJobs]

@[simp] theorem markCellRetired_ember (s : State) (c : Nat) : (markCellRetired s c).ember = s.ember := by
  fun_cases markCellRetired s c <;> simp +zetaDelta

@[simp] theorem retireCell_ember (s : State) (c : Nat) (unc : Bool) : (retireCell s c unc).ember = s.ember := by simp [retireCell]
@[simp] theorem retireBank_ember (s : State) (b : Nat) (unc : Bool) : (retireBank s b unc).ember = s.ember := by simp [retireBank]
@[simp] theorem startHold_ember (s : State) (d : Nat) (computeOnly : Bool) : (startHold s d computeOnly).ember = s.ember := by simp [startHold]
@[simp] theorem afterHbm_ember (s : State) (h : Nat) : (afterHbm s h).ember = s.ember := by simp [afterHbm]
@[simp] theorem retireHbm_ember (s : State) (h : Nat) : (retireHbm s h).ember = s.ember := by simp [retireHbm]
@[simp] theorem retirePc_ember (s : State) (h pc : Nat) : (retirePc s h pc).ember = s.ember := by simp [retirePc]
@[simp] theorem bumpDist_ember (s : State) : (bumpDist s).ember = s.ember := (rfl)
@[simp] theorem retirePav_ember (s : State) (p : Nat) : (retirePav s p).ember = s.ember := by simp [retirePav, -modPav_eq, -modCell_eq]

@[simp] theorem countEcc_ember (s : State) (a : Nat) (bad : Bool) : (countEcc s a bad).ember = s.ember := by
  fun_cases countEcc s a bad <;> simp +zetaDelta

@[simp] theorem systemError_ember (s : State) (a : Nat) : (systemError s a).ember = s.ember := by
  unfold systemError
  split
  · exact faultJobs_ember ..
  · rfl

@[simp] theorem meetErrors_ember (s : State) (a n : Nat) : (meetErrors s a n).ember = s.ember := by simp [meetErrors]

@[simp] theorem meetPieces_ember (s : State) (l : List Piece) : (meetPieces s l).ember = s.ember := by
  unfold meetPieces
  refine foldl_ember (fun s a => ?_) _ _
  repeat' split
  all_goals simp

@[simp] theorem meetRanges_ember (s : State) (jb : Job) (item : Option Nat) (rs : List (Nat × Nat)) : (meetRanges s jb item rs).ember = s.ember := by
  refine foldl_ember (fun s r => foldl_ember (fun s q => ?_) _ _) _ _
  repeat' split
  all_goals simp

/-! ### Pages -/

@[simp] theorem takeFrame_ember (s : State) (j f : Nat) (st : FState) : (takeFrame s j f st).ember = s.ember := by
  simp [takeFrame]

@[simp] theorem startMove_ember (s : State) (j vpn fromA f : Nat) (pageIn : Bool) : (startMove s j vpn fromA f pageIn).ember = s.ember := by
  simp [startMove]

@[simp] theorem evict_ember (s : State) (j d : Nat) : (evict s j d).1.ember = s.ember := by
  fun_cases evict s j d <;> simp +zetaDelta

@[simp] theorem requestPageIn_ember (s : State) (j vpn : Nat) (l : Leaf) : (requestPageIn s j vpn l).ember = s.ember := by
  fun_cases requestPageIn s j vpn l <;> simp +zetaDelta

@[simp] theorem startWaiting_ember (s : State) (j d : Nat) : (startWaiting s j d).ember = s.ember := by
  fun_cases startWaiting s j d <;> simp

@[simp] theorem installPage_ember (s : State) (who : Option Nat) (j : Nat) (item : Option Nat) (d va : Nat) :
    (installPage s who j item d va).ember = s.ember := by
  unfold installPage
  dsimp only
  repeat' split
  all_goals simp

@[simp] theorem touchPage_ember (s : State) (who : Option Nat) (j : Nat) (item : Option Nat) (d va : Nat) :
    (touchPage s who j item d va).ember = s.ember := by
  fun_cases touchPage s who j item d va <;> simp +zetaDelta

@[simp] theorem touchRanges_ember (s : State) (who : Option Nat) (j : Nat) (item : Option Nat) (d : Nat) (rs : List (Nat × Nat)) :
    (touchRanges s who j item d rs).ember = s.ember := by
  simp [touchRanges]

/-! ### Work items -/

@[simp] theorem oweRcp_ember (s : State) (j : Nat) (e : StashEntry) : (oweRcp s j e).ember = s.ember := by
  unfold oweRcp
  refine foldl_ember (fun s a => ?_) _ _
  dsimp only
  repeat' split
  all_goals simp

/-! ### Waits and held items -/

@[simp] theorem sendWait_ember (s : State) (agent : Nat) (ok : Bool) : (sendWait s agent ok).ember = s.ember := (rfl)

/-! ### Packets, channels, combining, requests -/

@[simp] theorem putSent_ember (s : State) (l : Nat) (p : Packet) : (putSent s l p).ember = s.ember := by simp [putSent]
@[simp] theorem holdPacket_ember (s : State) (d : Nat) (p : Packet) : (holdPacket s d p).ember = s.ember := (rfl)

@[simp] theorem emitOn_ember (s : State) (d n : Nat) (p : Packet) : (emitOn s d n p).ember = s.ember := by
  unfold emitOn
  split <;> simp

@[simp] theorem emit_ember (s : State) (d : Nat) (p : Packet) : (emit s d p).ember = s.ember := by
  fun_cases emit s d p <;> simp

@[simp] theorem releaseOne_ember (s : State) (d : Nat) (h : Nat × Packet × Nat) : (releaseOne s d h).ember = s.ember := by
  fun_cases releaseOne s d h <;> simp

@[simp] theorem releaseHeld_ember (s : State) (d : Nat) : (releaseHeld s d).ember = s.ember := by simp [releaseHeld]
@[simp] theorem returnTag_ember (s : State) (d tag gen : Nat) : (returnTag s d tag gen).ember = s.ember := (rfl)

@[simp] theorem endChannel_ember (s : State) (d id : Nat) : (endChannel s d id).ember = s.ember := by
  unfold endChannel
  split
  · rfl
  · refine foldl_ember (fun s p => ?_) _ _
    split <;> simp

@[simp] theorem sendNow_ember (s : State) (d : Nat) (e : SendCh) (p : SentPkt) : (sendNow s d e p).ember = s.ember := by
  fun_cases sendNow s d e p <;> simp +zetaDelta

@[simp] theorem joinChannel_ember (s : State) (d : Nat) (sp : SentPkt) : (joinChannel s d sp).ember = s.ember := by
  fun_cases joinChannel s d sp <;> simp

@[simp] theorem sendSeq_ember (s : State) (d : Nat) (p : Packet) (job : Option Nat) (who : Option (Nat × Nat)) :
    (sendSeq s d p job who).ember = s.ember := by
  simp [sendSeq]

@[simp] theorem serveChannels_ember (s : State) (d : Nat) : (serveChannels s d).ember = s.ember := by simp [serveChannels]

@[simp] theorem resendAll_ember (s : State) (d : Nat) (e : SendCh) (path : Option Nat) (count : Bool) :
    (resendAll s d e path count).ember = s.ember := by
  unfold resendAll
  dsimp only
  repeat' split
  all_goals simp

@[simp] theorem drainChannel_ember (fuel : Nat) (s : State) (d id : Nat) : (drainChannel fuel s d id).ember = s.ember := by
  fun_induction drainChannel fuel s d id <;> simp [*]

@[simp] theorem movePaths_ember (s : State) (d : Nat) : (movePaths s d).ember = s.ember := by
  refine (serveChannels_ember _ d).trans (foldl_ember (fun s e => ?_) _ s)
  repeat' split
  all_goals simp

@[simp] theorem modComb_ember (s : State) (d id : Nat) (f : Comb → Comb) : (modComb s d id f).ember = s.ember := (rfl)
@[simp] theorem dropComb_ember (s : State) (d id : Nat) : (dropComb s d id).ember = s.ember := (rfl)
@[simp] theorem openComb_ember (s : State) (d : Nat) (p : Packet) (sent : Bool) : (openComb s d p sent).1.ember = s.ember := (rfl)
@[simp] theorem joinComb_ember (s : State) (d : Nat) (c : Comb) (p : Packet) : (joinComb s d c p).ember = s.ember := by simp [joinComb]

@[simp] theorem combineAtom_ember (s : State) (d : Nat) (p : Packet) : (combineAtom s d p).ember = s.ember := by
  fun_cases combineAtom s d p <;> simp

@[simp] theorem combineOwnRd_ember (s : State) (d : Nat) (p : Packet) : (combineOwnRd s d p).ember = s.ember := by
  unfold combineOwnRd
  split <;> simp

@[simp] theorem launchReq_ember (s : State) (d : Nat) (o : OutReq) : (launchReq s d o).ember = s.ember := by
  fun_cases launchReq s d o <;> simp

@[simp] theorem sendReq_ember (s : State) (d : Nat) (o : OutReq) : (sendReq s d o).ember = s.ember := by
  fun_cases sendReq s d o <;> simp

@[simp] theorem sendRequest_ember (s : State) (d : Nat) (p : Packet) (cls : BitVec 2) (job : Nat) (who : ReqFor) :
    (sendRequest s d p cls job who).ember = s.ember := by
  simp [sendRequest]

@[simp] theorem serveTags_ember (s : State) (d : Nat) : (serveTags s d).ember = s.ember := by
  fun_cases serveTags s d <;> simp

@[simp] theorem sendReads_ember (s : State) (d : Nat) (epoch : BitVec 16) (comb : Bool) (job : Nat) (who : Nat → ReqFor) (fuel addr n k : Nat) :
    (sendReads s d epoch comb job who fuel addr n k).ember = s.ember := by
  fun_induction sendReads s d epoch comb job who fuel addr n k <;> simp [*]

@[simp] theorem sendWrites_ember (s : State) (d : Nat) (epoch : BitVec 16) (job : Nat) (who : Option (Nat × Nat)) (fuel addr : Nat) (l : List Byte) :
    (sendWrites s d epoch job who fuel addr l).ember = s.ember := by
  fun_induction sendWrites s d epoch job who fuel addr l <;> simp [*]

@[simp] theorem countReject_ember (s : State) (d : Nat) (code : Nat) (target : BitVec 16) : (countReject s d code target).ember = s.ember := (rfl)
@[simp] theorem setLine_ember (s : State) (f : Nat) (x : MLine) : (setLine s f x).ember = s.ember := (rfl)
@[simp] theorem askLine_ember (s : State) (f : Nat) (job : Nat) (excl : Bool) : (askLine s f job excl).ember = s.ember := by simp [askLine]
@[simp] theorem waitLine_ember (s : State) (f : Nat) (w : LineWait) : (waitLine s f w).ember = s.ember := by simp [waitLine]
@[simp] theorem setDirLine_ember (s : State) (r n : Nat) (x : DLine) : (setDirLine s r n x).ember = s.ember := (rfl)

@[simp] theorem recallFrom_ember (s : State) (r n : Nat) (down : Bool) (members : List (BitVec 16)) :
    (recallFrom s r n down members).ember = s.ember := by
  simp [recallFrom]

@[simp] theorem recallRange_ember (s : State) (jb : Job) (k : Acc) (va len : Nat) : (recallRange s jb k va len).ember = s.ember := by
  simp [recallRange]

/-! ### Issue -/

@[simp] theorem issued_ember (s : State) (c : Nat) (e : Entry) : (issued s c e).ember = s.ember := (draw_ember _).trans (setCell_ember ..)
@[simp] theorem waitMiss_ember (s : State) (c t : Nat) : (waitMiss s c t).ember = s.ember := (rfl)
@[simp] theorem releaseFence_ember (s : State) (c t stamp : Nat) : (releaseFence s c t stamp).ember = s.ember := (rfl)
@[simp] theorem recallFor_ember (s : State) (c : Nat) (e : Entry) : (recallFor s c e).ember = s.ember := by simp [recallFor]

@[simp] theorem issue_ember (s : State) (c t : Nat) (w : Word) (f : State → Entry → State) (hf : ∀ u x, (f u x).ember = u.ember) :
    (issue s c t w f).ember = s.ember := by
  fun_cases issue s c t w f <;> simp [hf]

/-! ### Accesses of a cell -/

@[simp] theorem faultAt_ember (s : State) (c : Nat) (e : Entry) (glob : Bool) (addr code : Nat) : (faultAt s c e glob addr code).ember = s.ember := by
  simp [faultAt]

@[simp] theorem faultSpots_ember (s : State) (c : Nat) (e : Entry) (glob : Bool) (k : Acc) (noHost : Bool) (l : List Extent) :
    (faultSpots s c e glob k noHost l).ember = s.ember := by
  unfold faultSpots
  split <;> simp

@[simp] theorem globalAccess_ember (s : State) (c : Nat) (e : Entry) (k : Acc) (rs : List (Nat × Nat)) (f : State → List Piece → State)
    (hf : ∀ u x, (f u x).ember = u.ember) : (globalAccess s c e k rs f).ember = s.ember := by
  fun_cases globalAccess s c e k rs f <;> simp [hf]

@[simp] theorem blockAccess_ember (s : State) (c : Nat) (e : Entry) (k : Acc) (rs : List (Nat × Nat)) (f : State → List Piece → State)
    (hf : ∀ u x, (f u x).ember = u.ember) : (blockAccess s c e k rs f).ember = s.ember := by
  simp [blockAccess, hf]

@[simp] theorem localAccess_ember (s : State) (c : Nat) (e : Entry) (write : Bool) (rs : List (Nat × Nat)) (f : Cell → Cell) :
    (localAccess s c e write rs f).ember = s.ember := by
  unfold localAccess
  split <;> simp

@[simp] theorem readLines_ember (s : State) (job : Nat) (who : Nat → ReqFor) (m : Map Byte) (f n k : Nat) :
    (readLines s job who m f n k).1.ember = s.ember :=
  foldl_fst_ember (fun t q => by dsimp only; split <;> simp) _ (s, m)

@[simp] theorem fetchPieces_ember (s : State) (c : Nat) (comb : Bool) (who : Nat → ReqFor) (l : List Piece) (k : Nat) (m : Map Byte) :
    (fetchPieces s c comb who l k m).1.ember = s.ember := by
  fun_induction fetchPieces s c comb who l k m <;> simp +zetaDelta [*] at *

@[simp] theorem startRead_ember (s : State) (c : Nat) (fl : Flight) (ps : List Piece) (fin : List Byte → List Byte) :
    (startRead s c fl ps fin).ember = s.ember := by
  simp [startRead]

@[simp] theorem writeLines_ember (s : State) (job c stamp f : Nat) (l : List Byte) : (writeLines s job c stamp f l).1.ember = s.ember :=
  foldl_fst_ember (fun t q => by dsimp only; split <;> simp) _ (s, 0)

@[simp] theorem pushPieces_ember (s : State) (c stamp : Nat) (l : List Piece) (b : List Byte) (n : Nat) :
    (pushPieces s c stamp l b n).1.ember = s.ember := by
  fun_induction pushPieces s c stamp l b n <;> simp +zetaDelta [*] at *

@[simp] theorem startWrite_ember (s : State) (c : Nat) (fl : Flight) (rs : List (Nat × Nat)) (ps : List Piece) (l : List Byte) :
    (startWrite s c fl rs ps l).ember = s.ember := by
  simp [startWrite, -modCell_eq]

/-! ### Reads, writes and jumps -/

@[simp] theorem issueB_ember (s : State) (c t op : Nat) (f : BFields) (g : State → Entry → State) (hg : ∀ u x, (g u x).ember = u.ember) :
    (issueB s c t op f g).ember = s.ember := by
  simp [issueB, hg]

@[simp] theorem jump_ember (s : State) (c t n : Nat) : (jump s c t n).ember = s.ember := (rfl)

@[simp] theorem jumpTo_ember (s : State) (c t pc : Nat) (a : Word) (g : State → State) (hg : ∀ u, (g u).ember = u.ember) :
    (jumpTo s c t pc a g).ember = s.ember := by
  simp [jumpTo, hg]

@[simp] theorem putS_ember (s : State) (c t d : Nat) (v : Word) : (putS s c t d v).ember = s.ember := (rfl)

@[simp] theorem branch_ember (s : State) (c t op : Nat) (f : BFields) (cmp : Word → Word → Bool) : (branch s c t op f cmp).ember = s.ember := by
  simp [branch]

/-! ### The Icehouse -/

@[simp] theorem modIce_ember (s : State) (j d : Nat) (f : Ice → Ice) : (modIce s j d f).ember = s.ember := (rfl)
@[simp] theorem startSpill_ember (s : State) (j d : Nat) (e : StashEntry) : (startSpill s j d e).ember = s.ember := (rfl)
@[simp] theorem startRefill_ember (s : State) (j d : Nat) (e : StashEntry) : (startRefill s j d e).ember = s.ember := (rfl)
@[simp] theorem storeFreed_ember (s : State) (j d : Nat) : (storeFreed s j d).ember = s.ember := (rfl)
@[simp] theorem freePages_ember (s : State) (j d : Nat) (l : List Nat) : (freePages s j d l).ember = s.ember := by simp [freePages]
@[simp] theorem sweepEntries_ember (s : State) (j d : Nat) : (sweepEntries s j d).ember = s.ember := by simp [sweepEntries]
@[simp] theorem dropEntry_ember (s : State) (j d : Nat) (e : StashEntry) : (dropEntry s j d e).ember = s.ember := by simp [dropEntry]
@[simp] theorem noteStuck_ember (s : State) (j : Nat) : (noteStuck s j).ember = s.ember := (rfl)

@[simp] theorem stashFrame_ember (phase j d fuel : Nat) (s : State) : (stashFrame phase j d fuel s).1.ember = s.ember := by
  fun_induction stashFrame phase j d fuel s <;> simp_all

@[simp] theorem endMove_ember (s : State) (j d fromA toA : Nat) : (endMove s j d fromA toA).ember = s.ember := by simp [endMove]

@[simp] theorem exhausted_ember (s : State) (j : Nat) : (exhausted s j).ember = s.ember := by
  unfold exhausted
  dsimp only
  rw [modJob_ember, foldl_ember (fun _ _ => freePages_ember ..)]
  repeat' split
  all_goals simp

/-! ### Vector instructions -/

@[simp] theorem vecOp_ember (s : State) (c t op : Nat) (f : VFields) (g : Nat → State → Entry → Cell → Cell) : (vecOp s c t op f g).ember = s.ember :=
  issue_ember _ _ _ _ _ fun _ _ => rfl

@[simp] theorem vec1_ember (s : State) (c t op : Nat) (f : VFields) (g : Nat → Nat) : (vec1 s c t op f g).ember = s.ember := by simp [vec1]
@[simp] theorem vec2_ember (s : State) (c t op : Nat) (f : VFields) (g : Nat → Nat → Nat) : (vec2 s c t op f g).ember = s.ember := by simp [vec2]
@[simp] theorem vecF1_ember (s : State) (c t op : Nat) (f : VFields) (g : FVal → FVal) : (vecF1 s c t op f g).ember = s.ember := by simp [vecF1]

@[simp] theorem vecF2_ember (s : State) (c t op : Nat) (f : VFields) (g : FVal → FVal → FVal) : (vecF2 s c t op f g).ember = s.ember := by
  simp [vecF2]

@[simp] theorem vecFS_ember (s : State) (c t op : Nat) (f : VFields) (g : FVal → FVal → FVal) : (vecFS s c t op f g).ember = s.ember := by
  simp [vecFS]

@[simp] theorem vecI2_ember (s : State) (c t op : Nat) (f : VFields) (g : Nat → Nat → Nat → Nat) : (vecI2 s c t op f g).ember = s.ember := by
  simp [vecI2]

@[simp] theorem vecSfu_ember (s : State) (c t op : Nat) (f : VFields) (fn : SfuFn) : (vecSfu s c t op f fn).ember = s.ember := by simp [vecSfu]

@[simp] theorem vecDeriv_ember (s : State) (c t op : Nat) (f : VFields) (g : FVal → FVal → FVal) : (vecDeriv s c t op f g).ember = s.ember := by
  simp [vecDeriv]

@[simp] theorem vecCmp_ember (s : State) (c t op : Nat) (f : VFields) (k : CmpOp) : (vecCmp s c t op f k).ember = s.ember := by simp [vecCmp]
@[simp] theorem vecTest_ember (s : State) (c t op : Nat) (f : VFields) (g : FVal → Bool) : (vecTest s c t op f g).ember = s.ember := by simp [vecTest]

@[simp] theorem maskOp_ember (s : State) (c t op : Nat) (f : VFields) (g : BitVec 1024 → BitVec 1024 → BitVec 1024) :
    (maskOp s c t op f g).ember = s.ember := by
  simp [maskOp]

@[simp] theorem vecReduce_ember (s : State) (c t op : Nat) (f : VFields) (row : Bool) (g : List FVal → FVal) :
    (vecReduce s c t op f row g).ember = s.ember := by
  simp [vecReduce]

/-! ### Pages of a shard -/

@[simp] theorem pageWrite_ember (s : State) (m : Map Leaf) (va : Nat) (l : List Byte) : (pageWrite s m va l).ember = s.ember :=
  foldl_fst_ember (fun r b => by dsimp only; split <;> rfl) l (s, va)

@[simp] theorem putVer_ember (s : State) (sh : ShardDecl) (m : Map Leaf) (l : List Byte) : (putVer s sh m l).ember = s.ember := by simp [putVer]

/-! ### Allocation -/

@[simp] theorem issueR_ember (s : State) (c t cls op : Nat) (f : RFields) (g : State → Entry → State) (hg : ∀ u x, (g u x).ember = u.ember) :
    (issueR s c t cls op f g).ember = s.ember := by
  simp [issueR, hg]

@[simp] theorem modItem_ember (s : State) (j i : Nat) (f : Item → Item) : (modItem s j i f).ember = s.ember := (rfl)

@[simp] theorem openStaging_ember (s : State) (j i k : Nat) (d : SlotDecl) (inst : Option Nat)  : (openStaging s j i k d inst).ember = s.ember := by
  fun_cases openStaging s j i k d inst <;> simp +zetaDelta

@[simp] theorem placePage_ember (s : State) (j i k p f loc : Nat) (rm : Bool) (inst : Option Nat) :
    (placePage s j i k p f loc rm inst).ember = s.ember := by
  unfold placePage
  split <;> simp

theorem placeAll_ember {j c i k : Nat} {it : Item} {d : SlotDecl} {inst : Option Nat} {s u : State} {l : List Nat}
    (h : placeAll j c i k it d inst s l = .inl (some u)) : u.ember = s.ember := by
  fun_induction placeAll j c i k it d inst s l with
  | case1 =>
    cases h
    rfl
  | case2 => cases h
  | case3 => cases h
  | case4 s p rest f loc eq ih => rw [ih h, placePage_ember, takeFrame_ember]

@[simp] theorem stashAll_ember (j i k phase d : Nat) (s : State) (l : List Nat) : (stashAll j i k phase d s l).1.ember = s.ember := by
  fun_induction stashAll j i k phase d s l with
  | case1 => rfl
  | case2 s p rest t forStore eq => simpa [eq] using stashFrame_ember phase j d 4096 s
  | case3 s p rest t f eq ih => simpa [eq, ih] using stashFrame_ember phase j d 4096 s

/-- The state with which an allocator answers. -/
def AllocAns.state : AllocAns → State
  | .done s _ => s
  | .wait s _ => s
theorem giveShare_ember (s : State) (j i k r off share : Nat) : (giveShare s j i k r off share).state.ember = s.ember := modItem_ember ..

theorem allocOut_ember (s : State) (c : Nat) (a b : Word) : (allocOut s c a b).state.ember = s.ember := by
  fun_cases allocOut s c a b with
  | case5 => exact draw_ember s
  | case7 x j jb i it _ _ d _ k share used off inst taken _ _ _ _ t g _ pages _ u stashed =>
    exact (giveShare_ember ..).trans ((congrArg (State.ember ·.1) stashed).symm.trans ((stashAll_ember ..).trans (openStaging_ember ..)))
  | case8 x j jb i it _ _ d _ k share used off inst taken _ _ _ _ t g _ pages _ u forStore stashed =>
    exact (congrArg (State.ember ·.1) stashed).symm.trans ((stashAll_ember ..).trans (openStaging_ember ..))
  | case11 x j jb i it _ _ d _ k share used off inst taken _ _ _ _ t g _ pages _ u placed =>
    exact (giveShare_ember ..).trans ((placeAll_ember placed).trans (openStaging_ember ..))
  | _ => exact rfl

theorem tmpPages_ember {j c i : Nat} {s u : State} {l : List Nat} (h : tmpPages j c i s l = .inl (some u)) : u.ember = s.ember := by
  fun_induction tmpPages j c i s l with
  | case1 =>
    cases h
    rfl
  | case2 => cases h
  | case3 => cases h
  | case4 s vpn rest f loc eq t ih => rw [ih h, modItem_ember, takeFrame_ember]

theorem allocTmp_ember (s : State) (c : Nat) (b : Word) : (allocTmp s c b).state.ember = s.ember := by
  fun_cases allocTmp s c b with
  | case6 x j i eq n pos fits va u pages => exact (modItem_ember ..).trans ((tmpPages_ember pages).trans (draw_ember s))
  | _ => rfl

theorem freeTmp_ember (s : State) (c : Nat) (a : Word) : (freeTmp s c a).state.ember = s.ember := by
  unfold freeTmp
  dsimp only
  repeat' split
  · rfl
  · exact (modItem_ember ..).trans ((releaseFrames_ember ..).trans ((invalidate_ember ..).trans (draw_ember s)))
  · rfl

@[simp] theorem requestAlloc_ember (s : State) (c : Nat) (e : Entry) (free kind : Nat) : (requestAlloc s c e free kind).ember = s.ember := (rfl)

theorem performAlloc_ember (s : State) (c : Nat) (a : AllocReq) : (performAlloc s c a).state.ember = s.ember := by
  unfold performAlloc
  repeat' split
  · exact allocOut_ember ..
  · exact allocTmp_ember ..
  · rfl
  · exact freeTmp_ember ..

@[simp] theorem answered_ember (s : State) (c : Nat) (a : AllocReq) (v : Word) : (answered s c a v).ember = s.ember := (rfl)
@[simp] theorem markWaiting_ember (s : State) (c : Nat) (a : AllocReq) (forStore : Bool) : (markWaiting s c a forStore).ember = s.ember := (rfl)

@[simp] theorem serveAlloc_ember (s : State) (c : Nat) (a : AllocReq) : (serveAlloc s c a).ember = s.ember := by
  have performed := performAlloc_ember s c a
  unfold serveAlloc
  split <;> rename_i eq <;> rw [eq] at performed
  · exact (answered_ember ..).trans performed
  · split
    · exact (markWaiting_ember ..).trans performed
    · exact performed

@[simp] theorem bedReported_ember (j i : Nat) (s : State) : (bedReported j i s).ember = s.ember := by
  unfold bedReported
  split <;> simp

@[simp] theorem reportCell_ember (s : State) (c : Nat) : (reportCell s c).ember = s.ember := by
  fun_cases reportCell s c <;> simp +zetaDelta

/-! ### Bellows -/

@[simp] theorem qLoad_ember (free : Nat) (s : State) (c t : Nat) (e : Entry) (f : RFields) : (qLoad free s c t e f).ember = s.ember := by
  fun_cases qLoad free s c t e f <;> simp

@[simp] theorem takeClaims_ember (s : State) (c : Nat) (e : Entry) (f : List (List Byte × List Byte) → Cell → Cell) :
    (takeClaims s c e f).ember = s.ember := by
  fun_cases takeClaims s c e f <;> simp

@[simp] theorem countPageIn_ember (s : State) (c va : Nat) : (countPageIn s c va).ember = s.ember := by
  fun_cases countPageIn s c va <;> simp

@[simp] theorem sendWant_ember (s : State) (c : Nat) (w : Want) (p : Nat × Option Nat) (offs : List Nat) (ps : List Piece) (bad : Bool) :
    (sendWant s c w p offs ps bad).ember = s.ember := by
  fun_cases sendWant s c w p offs ps bad <;> simp +zetaDelta

@[simp] theorem bellowsFetch_ember (s : State) (c : Nat) (w : Want) : (bellowsFetch s c w).ember = s.ember := by
  fun_cases bellowsFetch s c w <;> simp +zetaDelta

/-! ### Tiles and masks -/

@[simp] theorem issueVM_ember (s : State) (c t op : Nat) (f : VMFields) (g : State → Entry → State) (hg : ∀ u x, (g u x).ember = u.ember) :
    (issueVM s c t op f g).ember = s.ember := by
  simp [issueVM, hg]

@[simp] theorem loadTile_ember (s : State) (c : Nat) (e : Entry) (free : Nat) : (loadTile s c e free).ember = s.ember := by
  fun_cases loadTile s c e free <;> simp

@[simp] theorem storeRuns_ember (s : State) (c : Nat) (e : Entry) (glob : Bool) (rs : List (Nat × Nat)) (runs : List (Nat × List Byte)) :
    (storeRuns s c e glob rs runs).ember = s.ember := by
  unfold storeRuns
  split
  · refine globalAccess_ember _ _ _ _ _ _ fun t _ => ?_
    dsimp only
    split <;> simp
  · exact localAccess_ember ..

@[simp] theorem storeTile_ember (s : State) (c : Nat) (e : Entry) (free : Nat) : (storeTile s c e free).ember = s.ember := by
  fun_cases storeTile s c e free <;> simp

@[simp] theorem loadMask_ember (s : State) (c : Nat) (e : Entry) (free : Nat) : (loadMask s c e free).ember = s.ember := by simp [loadMask]
@[simp] theorem storeMask_ember (s : State) (c : Nat) (e : Entry) (free : Nat) : (storeMask s c e free).ember = s.ember := by simp [storeMask]

/-! ### Anvil and Tongs -/

@[simp] theorem startMma_ember (free : Nat) (s : State) (c : Nat) (e : Entry) : (startMma free s c e).ember = s.ember := by
  unfold startMma
  exact takeClaims_ember ..

@[simp] theorem issueX_ember (s : State) (c t op : Nat) (f : XFields) : (issueX s c t op f).ember = s.ember := by simp [issueX]

@[simp] theorem readOperand_ember (free : Nat) (s : State) (c : Nat) (e : Entry) (isB : Bool) (f : Foot) :
    (readOperand free s c e isB f).ember = s.ember := by
  unfold readOperand
  split <;> simp

/-! ### Memory instructions -/

@[simp] theorem issueM_ember (s : State) (c t cls op : Nat) (f : MFields) (g : State → Entry → State) (hg : ∀ u x, (g u x).ember = u.ember) :
    (issueM s c t cls op f g).ember = s.ember := by
  simp [issueM, hg]

@[simp] theorem loadScalar_ember (s : State) (c : Nat) (e : Entry) (free : Nat) : (loadScalar s c e free).ember = s.ember := by simp [loadScalar]
@[simp] theorem storeScalar_ember (s : State) (c : Nat) (e : Entry) (free : Nat) : (storeScalar s c e free).ember = s.ember := by simp [storeScalar]

@[simp] theorem startAtomic_ember (s : State) (c : Nat) (e : Entry) (op : AtomOp) (free : Nat) : (startAtomic s c e op free).ember = s.ember := by
  unfold startAtomic
  dsimp only
  split
  · exact faultAt_ember ..
  · refine globalAccess_ember _ _ _ _ _ _ fun t ps => ?_
    split <;> simp

/-! ### Operations on objects -/

@[simp] theorem startFence_ember (s : State) (c : Nat) (e : Entry) (cell : Bool) : (startFence s c e cell).ember = s.ember := (rfl)
@[simp] theorem enqueue_ember (s : State) (o : Nat) (op : PortOp) : (enqueue s o op).ember = s.ember := (rfl)

@[simp] theorem syncOp_ember (s : State) (c : Nat) (e : Entry) (free : Nat) (arrive : Bool) (g : State → Nat → State) (far : State → Nat → State)
    (hg : ∀ u x, (g u x).ember = u.ember) (hfar : ∀ u x, (far u x).ember = u.ember) : (syncOp s c e free arrive g far).ember = s.ember := by
  fun_cases syncOp s c e free arrive g far <;> simp [hg, hfar]

@[simp] theorem postOp_ember (s : State) (c : Nat) (e : Entry) (o : Nat) (op : PortOp) : (postOp s c e o op).ember = s.ember := (rfl)

@[simp] theorem farArrive_ember (s : State) (c : Nat) (e : Entry) (v : BitVec 32) (f : Nat) : (farArrive s c e v f).ember = s.ember := by
  simp [farArrive]

@[simp] theorem startWait_ember (s : State) (c : Nat) (e : Entry) (o : Nat) (ticks : Option Nat) : (startWait s c e o ticks).ember = s.ember := (rfl)

/-! ### The Hearth -/

@[simp] theorem evaluate_ember (s : State) (i : Nat) : (evaluate s i).ember = s.ember := by simp [evaluate]

@[simp] theorem noteTriggers_ember (s : State) (i : Nat) : (noteTriggers s i).ember = s.ember := by
  refine foldl_ember (fun s j => ?_) _ _
  dsimp only
  split
  · rfl
  · refine foldl_ember (fun s e => ?_) _ _
    split <;> simp

@[simp] theorem settle_ember (s : State) (i : Nat) (was : Bool) : (settle s i was).ember = s.ember := by simp [settle]

@[simp] theorem performed_ember (s : State) (who : Option (Nat × Nat)) : (performed s who).ember = s.ember := by
  unfold performed
  split <;> simp

@[simp] theorem applyUpdate_ember (s : State) (i : Nat) (op : PortOp) : (applyUpdate s i op).ember = s.ember := by
  unfold applyUpdate
  split <;> simp

@[simp] theorem answerRead_ember (s : State) (c stamp : Nat) (w : Word) : (answerRead s c stamp w).ember = s.ember := (rfl)

@[simp] theorem registerWait_ember (s : State) (i agent : Nat) (ticks : Option Nat) : (registerWait s i agent ticks).ember = s.ember := by
  simp [registerWait]

@[simp] theorem answerOps_ember (i : Nat) (s : State) (l : List PortOp) : (answerOps i s l).1.ember = s.ember := by
  fun_induction answerOps i s l <;> simp [*]

@[simp] theorem portCycle_ember (s : State) (i : Nat) : (portCycle s i).ember = s.ember := by
  unfold portCycle
  dsimp only
  repeat' split
  all_goals simp

@[simp] theorem countAtom_ember (s : State) (d : Nat) (op : AtomOp) (a : Word) (old : List Byte) : (countAtom s d op a old).ember = s.ember := by
  simp [countAtom]

@[simp] theorem partsWrite_ember (s : State) (l : List (Nat × Nat)) (b : List Byte) : (partsWrite s l b).ember = s.ember := by
  fun_induction partsWrite s l b <;> simp [*]

@[simp] theorem applyAtomic_ember (s : State) (d : Nat) (r : HearthReq) : (applyAtomic s d r).1.ember = s.ember := by
  simp [applyAtomic]

@[simp] theorem answerAtomic_ember (s : State) (c stamp : Nat) (op : AtomOp) (old : List Byte) : (answerAtomic s c stamp op old).ember = s.ember :=
  (rfl)

/-! ### Register writes -/

@[simp] theorem regWrite_ember (s : State) (base off : Nat) (f : State → State) (hf : ∀ u, (f u).ember = u.ember) :
    (regWrite s base off f).ember = s.ember := by
  simp [regWrite, hf]

@[simp] theorem checkWrite_ember (s : State) (base off : Nat) (rejections : List (Bool × Nat)) (f : State → State) (hf : ∀ u, (f u).ember = u.ember) :
    (checkWrite s base off rejections f).ember = s.ember := by
  unfold checkWrite
  split <;> simp [hf]

/-! ### Responses, acknowledgements and lines -/

@[simp] theorem modFlight_ember (s : State) (c stamp : Nat) (p : Flight → Bool) (f : Flight → Flight) : (modFlight s c stamp p f).ember = s.ember :=
  (rfl)

@[simp] theorem modDescr_ember (s : State) (d id : Nat) (f : RunDescr → RunDescr) : (modDescr s d id f).ember = s.ember := (rfl)

@[simp] theorem deliverPart_ember (s : State) (d : Nat) (who : ReqFor) (l : List Byte) : (deliverPart s d who l).ember = s.ember := by
  unfold deliverPart
  split <;> simp

@[simp] theorem ackOne_ember (s : State) (who : Option (Nat × Nat)) : (ackOne s who).ember = s.ember := by
  unfold ackOne
  split <;> simp

@[simp] theorem rejectJob_ember (s : State) (j code : Nat) : (rejectJob s j code).ember = s.ember := by simp [rejectJob]

@[simp] theorem rejectPart_ember (s : State) (d code : Nat) (who : ReqFor) (n : Nat) : (rejectPart s d code who n).ember = s.ember := by
  unfold rejectPart
  split <;> simp

@[simp] theorem countStale_ember (s : State) (d : Nat) : (countStale s d).ember = s.ember := (rfl)
@[simp] theorem endRequest_ember (s : State) (d : Nat) (o : OutReq) : (endRequest s d o).ember = s.ember := by simp [endRequest]

@[simp] theorem completeRead_ember (s : State) (d : Nat) (p : Packet) (o : OutReq) : (completeRead s d p o).ember = s.ember := by
  fun_cases completeRead s d p o <;> simp +zetaDelta

@[simp] theorem sendRack_ember (s : State) (d : Nat) (p : Packet) : (sendRack s d p).ember = s.ember := by simp [sendRack]

@[simp] theorem answerFlight_ember (s : State) (who : ReqFor) (old : Word) : (answerFlight s who old).ember = s.ember := by
  unfold answerFlight
  split <;> simp

@[simp] theorem rejectWrite_ember (s : State) (code : Nat) (who : Option (Nat × Nat)) : (rejectWrite s code who).ember = s.ember := by
  unfold rejectWrite
  split <;> simp

@[simp] theorem rejectAtomic_ember (s : State) (d code : Nat) (who : ReqFor) : (rejectAtomic s d code who).ember = s.ember := by
  unfold rejectAtomic
  split <;> simp

@[simp] theorem tryXfer_ember (s : State) (d : Nat) : (tryXfer s d).ember = s.ember := by
  fun_cases tryXfer s d <;> simp +zetaDelta

@[simp] theorem tryXfers_ember (s : State) : (tryXfers s).ember = s.ember := by simp [tryXfers]
@[simp] theorem endXfer_ember (s : State) (d code : Nat) : (endXfer s d code).ember = s.ember := (rfl)
@[simp] theorem covered_ember (s : State) (d : Nat) (p : SentPkt) : (covered s d p).ember = s.ember := by simp [covered]
@[simp] theorem applyAck_ember (s : State) (d : Nat) (e : SendCh) (next : BitVec 32) : (applyAck s d e next).ember = s.ember := by simp [applyAck]
@[simp] theorem writeBack_ember (s : State) (d key : Nat) (x : MLine) : (writeBack s d key x).ember = s.ember := by simp [writeBack]

@[simp] theorem makeRoom_ember (s : State) (d : Nat) : (makeRoom s d).ember = s.ember := by
  fun_cases makeRoom s d <;> simp +zetaDelta

@[simp] theorem serveLine_ember (f : Nat) (s : State) (l : List LineWait) : (serveLine f s l).ember = s.ember := by
  fun_induction serveLine f s l with
  | case1 => rfl
  | case2 s w rest x none ih => rw [ih, deliverPart_ember]
  | case3 s w rest x b some modified t ih =>
    rw [ih]
    split <;> simp [t]
  | case4 => simp

@[simp] theorem fillLine_ember (s : State) (f code : Nat) (src : BitVec 16) (data : List Byte) : (fillLine s f code src data).ember = s.ember := by
  unfold fillLine
  dsimp only
  split
  · refine (foldl_ember (fun t w => ?_) _ _).trans ((countReject_ember ..).trans (setLine_ember ..))
    rw [rejectJob_ember]
    split <;> simp
  · simp

/-! ### Packets that arrive -/

@[simp] theorem recordEpoch_ember (s : State) (d : Nat) (p : Packet) : (recordEpoch s d p).ember = s.ember := (rfl)

@[simp] theorem touchInbound_ember (s : State) (d j va n : Nat) (k : Acc) (ps : List Piece) : (touchInbound s d j va n k ps).ember = s.ember := by
  simp [touchInbound]

@[simp] theorem answer_ember (s : State) (d : Nat) (p : Packet) (typ : PType) (code : Nat) (data : List Byte) :
    (answer s d p typ code data).ember = s.ember := by
  simp [answer]

@[simp] theorem answerStatus_ember (s : State) (d : Nat) (p : Packet) (code : Nat) : (answerStatus s d p code).ember = s.ember := by
  simp [answerStatus]

@[simp] theorem noteReject_ember (s : State) (d : Nat) (p : Packet) (n code : Nat) : (noteReject s d p n code).ember = s.ember := by simp [noteReject]

theorem deliverRd_ember {s u : State} {d : Nat} {p : Packet} (h : deliverRd s d p = some u) : u.ember = s.ember := by
  unfold deliverRd at h
  split at h <;> cases h <;> simp

@[simp] theorem postArrive_ember (s : State) (i : Nat) (v : BitVec 32) : (postArrive s i v).ember = s.ember := (rfl)

theorem deliverWr_ember {s u : State} {d : Nat} {p : Packet} (h : deliverWr s d p = some u) : u.ember = s.ember := by
  unfold deliverWr at h
  split at h <;> cases h <;> simp

@[simp] theorem queueAtomic_ember (s : State) (p : Packet) (op : AtomOp) (ps : List Piece) : (queueAtomic s p op ps).ember = s.ember := (rfl)

theorem startRemote_ember {s u : State} {d : Nat} {p : Packet} (h : startRemote s d p = some u) : u.ember = s.ember := by
  unfold startRemote at h
  repeat' split at h
  all_goals cases h
  all_goals simp

theorem deliverAtom_ember {s u : State} {d : Nat} {p : Packet} (h : deliverAtom s d p = some u) : u.ember = s.ember := by
  unfold deliverAtom at h
  repeat' split at h
  · cases h
    simp
  · cases h
    rfl
  · exact startRemote_ember h

@[simp] theorem applyMany_ember (s : State) (d : Nat) (r : HearthReq) (n : Nat) (l : List Byte) : (applyMany s d r n l).ember = s.ember := by
  simp [applyMany]

@[simp] theorem applyRemote_ember (s : State) (d : Nat) (r : HearthReq) (p : Packet) : (applyRemote s d r p).ember = s.ember := by
  unfold applyRemote
  split <;> simp

@[simp] theorem deliverArrive_ember (s : State) (d : Nat) (p : Packet) : (deliverArrive s d p).ember = s.ember := by
  unfold deliverArrive
  split <;> simp

@[simp] theorem deliverMark_ember (s : State) (d : Nat) (p : Packet) : (deliverMark s d p).ember = s.ember := (rfl)
@[simp] theorem deliverXfer_ember (s : State) (d : Nat) (p : Packet) : (deliverXfer s d p).ember = s.ember := by simp [deliverXfer]

@[simp] theorem sendCdata_ember (s : State) (p : Packet) (code : Nat) (data : List Byte) : (sendCdata s p code data).ember = s.ember := by
  simp [sendCdata]

theorem servePending_ember {s u : State} {p : Packet} (h : servePending s p = some u) : u.ember = s.ember := by
  unfold servePending at h
  dsimp only at h
  repeat' split at h
  all_goals cases h
  all_goals simp

@[simp] theorem serveDir_ember (fuel : Nat) (s : State) (r n : Nat) : (serveDir fuel s r n).ember = s.ember := by
  fun_induction serveDir fuel s r n with
  | case4 fuel s r n p rest eq t h ih => exact ih.trans (servePending_ember h)
  | _ => rfl

@[simp] theorem joinLine_ember (s : State) (p : Packet) : (joinLine s p).ember = s.ember := (serveDir_ember ..).trans (setDirLine_ember ..)

theorem deliverCrd_ember (s : State) (d : Nat) (p : Packet) : (deliverCrd s d p).ember = s.ember := by
  unfold deliverCrd
  split <;> simp

@[simp] theorem deliverCoherentAtom_ember (s : State) (d : Nat) (p : Packet) : (deliverCoherentAtom s d p).ember = s.ember := by
  fun_cases deliverCoherentAtom s d p <;> simp

theorem storeLine_ember {s u : State} {p : Packet} (h : storeLine s p = some u) : u.ember = s.ember := by
  unfold storeLine at h
  dsimp only at h
  split at h <;> cases h <;> simp

@[simp] theorem dropHolder_ember (s : State) (p : Packet) : (dropHolder s p).ember = s.ember := (rfl)

theorem deliverCrack_ember {s u : State} {d : Nat} {p : Packet} (h : deliverCrack s d p = some u) : u.ember = s.ember := by
  unfold deliverCrack at h
  split at h
  · cases h
    simp
  · split at h
    · cases h
    · rename_i t stored
      have same : t.ember = s.ember := by
        split at stored
        · cases stored
          rfl
        · exact storeLine_ember stored
      cases h
      simp [same]

theorem deliverCwb_ember {s u : State} {d : Nat} {p : Packet} (h : deliverCwb s d p = some u) : u.ember = s.ember := by
  unfold deliverCwb at h
  split at h
  · cases h
    simp
  · obtain ⟨t, stored, rfl⟩ := Option.map_eq_some_iff.mp h
    exact (dropHolder_ember ..).trans (storeLine_ember stored)

@[simp] theorem deliverCrecall_ember (s : State) (d : Nat) (p : Packet) : (deliverCrecall s d p).ember = s.ember := by simp [deliverCrecall]
@[simp] theorem deliverCdata_ember (s : State) (d : Nat) (p : Packet) : (deliverCdata s d p).ember = s.ember := by simp [deliverCdata]

theorem deliver1_ember {s u : State} {d : Nat} {p : Packet} (h : deliver1 s d p = some u) : u.ember = s.ember := by
  unfold deliver1 at h
  split at h
  · exact deliverRd_ember h
  · exact deliverWr_ember h
  · split at h
    · cases h
      simp
    · exact deliverAtom_ember h
  case h_11 => exact deliverCrack_ember h
  case h_12 => exact deliverCwb_ember h
  all_goals
    cases h
    simp [deliverCrd_ember]

@[simp] theorem holdRequest_ember (s : State) (d : Nat) (p : Packet) : (holdRequest s d p).ember = s.ember := by simp [holdRequest]

theorem deliver1_getD_ember (s t : State) (d : Nat) (p : Packet) (same : t.ember = s.ember) : ((deliver1 s d p).getD t).ember = s.ember := by
  cases h : deliver1 s d p with
  | none => exact same
  | some u => exact deliver1_ember h
@[simp] theorem serveWaiting_ember (s : State) (d : Nat) : (serveWaiting s d).ember = s.ember := by
  refine (foldl_ember (fun _ _ => serveDir_ember ..) _ _).trans (foldl_ember (fun t p => ?_) _ _)
  exact deliver1_getD_ember _ _ _ _ rfl

@[simp] theorem sendAck_ember (s : State) (d : Nat) (e : RecvCh) : (sendAck s d e).ember = s.ember := by simp [sendAck]

@[simp] theorem deliverHeld_ember (fuel : Nat) (s : State) (d : Nat) (key : Packet) : (deliverHeld fuel s d key).ember = s.ember := by
  fun_induction deliverHeld fuel s d key with
  | case5 fuel s d key e _ p _ t h u ih => exact ih.trans ((modFab_ember ..).trans (deliver1_ember h))
  | _ => rfl

@[simp] theorem countDup_ember (s : State) (d : Nat) : (countDup s d).ember = s.ember := (rfl)

@[simp] theorem receiveSeq_ember (s : State) (d : Nat) (p : Packet) : (receiveSeq s d p).ember = s.ember := by
  fun_cases receiveSeq s d p with
  | case4 e found room e' k inTurn t h u =>
    exact (deliverHeld_ember ..).trans ((modFab_ember ..).trans ((deliver1_ember h).trans (modFab_ember ..)))
  | _ => simp +zetaDelta

@[simp] theorem takePacket_ember (s : State) (d : Nat) (p : Packet) (typ : PType) : (takePacket s d p typ).ember = s.ember := by
  unfold takePacket
  repeat' split
  · rfl
  · exact receiveSeq_ember ..
  · exact deliver1_getD_ember _ _ _ _ (holdRequest_ember ..)

@[simp] theorem takeResponse_ember (s : State) (d : Nat) (p : Packet) (typ : PType) (f : State → State) (hf : ∀ u, (f u).ember = u.ember) :
    (takeResponse s d p typ f).ember = s.ember := by
  simp [takeResponse, hf]

@[simp] theorem takeRack_ember (s : State) (d : Nat) (p : Packet) : (takeRack s d p).ember = s.ember := by simp [takeRack]

@[simp] theorem takeAck_ember (s : State) (d : Nat) (p : Packet) : (takeAck s d p).ember = s.ember := by
  unfold takeAck
  split <;> simp

@[simp] theorem takeStatus_ember (s : State) (d : Nat) (p : Packet) : (takeStatus s d p).ember = s.ember := by
  unfold takeStatus
  dsimp only
  repeat' split
  all_goals simp

/-! ### Routers and timers -/

@[simp] theorem endCombAtom_ember (s : State) (d : Nat) (c : Comb) (code : Nat) (old : Word) : (endCombAtom s d c code old).ember = s.ember := by
  simp [endCombAtom]

@[simp] theorem endCombRead_ember (s : State) (d : Nat) (c : Comb) (code : Nat) (data : List Byte) :
    (endCombRead s d c code data).ember = s.ember := by
  simp [endCombRead]

@[simp] theorem endLed_ember (s : State) (d : Nat) (p : Packet) (o : OutReq) : (endLed s d p o).ember = s.ember := by
  unfold endLed
  split <;> simp

@[simp] theorem takeRdrsp_ember (s : State) (d : Nat) (p : Packet) : (takeRdrsp s d p).ember = s.ember := by
  fun_cases takeRdrsp s d p <;> simp

@[simp] theorem takeAtomrsp_ember (s : State) (d : Nat) (p : Packet) : (takeAtomrsp s d p).ember = s.ember := by
  fun_cases takeAtomrsp s d p <;> simp +zetaDelta

@[simp] theorem countHop_ember (s : State) (d : Nat) : (countHop s d).ember = s.ember := (rfl)

@[simp] theorem forwardRd_ember (s : State) (d : Nat) (p : Packet) : (forwardRd s d p).ember = s.ember := by
  unfold forwardRd
  split <;> simp

@[simp] theorem answerRecord_ember (s : State) (d : Nat) (p : Packet) : (answerRecord s d p).ember = s.ember := by
  unfold answerRecord
  split <;> simp

@[simp] theorem forwardPacket_ember (s : State) (d : Nat) (p : Packet) : (forwardPacket s d p).ember = s.ember := by
  unfold forwardPacket
  split <;> simp

@[simp] theorem closeWindow_ember (s : State) (d : Nat) (c : Comb) : (closeWindow s d c).ember = s.ember := by
  unfold closeWindow
  split <;> simp

theorem timeOut_ember_le (s : State) (d : Nat) (o : OutReq) : s.ember ≤ (timeOut s d o).ember := by
  refine Nat.le_trans (advanceTo_ember_le s (o.sentAt + 31250)) (Nat.le_of_eq ?_)
  unfold timeOut
  dsimp only
  rw [jobFault_ember]
  split <;> simp

@[simp] theorem writeXfer_ember (s : State) (d : Nat) (v : Word) : (writeXfer s d v).ember = s.ember := by simp [writeXfer]
@[simp] theorem writeMarktx_ember (s : State) (d : Nat) (v : Word) : (writeMarktx s d v).ember = s.ember := by simp [writeMarktx]

@[simp] theorem readMark_ember (s : State) (d : Nat) : (readMark s d).ember = s.ember := by
  fun_cases readMark s d <;> simp +zetaDelta

@[simp] theorem writePkgid_ember (s : State) (v : Word) : (writePkgid s v).ember = s.ember := by simp [writePkgid]

/-! ### Links -/

@[simp] theorem loseMember_ember (s : State) (peer : BitVec 16) : (loseMember s peer).ember = s.ember := by simp [loseMember, -modFab_eq]
@[simp] theorem setLinkState_ember (s : State) (l st : Nat) : (setLinkState s l st).ember = s.ember := by simp [setLinkState]
@[simp] theorem linkDown_ember (s : State) (l : Nat) : (linkDown s l).ember = s.ember := by simp [linkDown]
@[simp] theorem retireLink_ember (s : State) (l : Nat) : (retireLink s l).ember = s.ember := by simp [retireLink]
@[simp] theorem retireLane_ember (s : State) (l lane : Nat) : (retireLane s l lane).ember = s.ember := by simp [retireLane]
@[simp] theorem linkFailSafe_ember (s : State) (l : Nat) : (linkFailSafe s l).ember = s.ember := by simp [linkFailSafe]
@[simp] theorem discardFlit_ember (s : State) (l : Nat) : (discardFlit s l).ember = s.ember := (rfl)
@[simp] theorem badCodeword_ember (s : State) (l : Nat) : (badCodeword s l).ember = s.ember := by simp [badCodeword, -modLink_eq]
@[simp] theorem idleFlits_ember (s : State) (l : Nat) : (idleFlits s l).ember = s.ember := (rfl)
@[simp] theorem replayFlits_ember (s : State) (l : Nat) : (replayFlits s l).ember = s.ember := by simp [replayFlits]

@[simp] theorem routePacket_ember (s : State) (d : Nat) (p : Packet) : (routePacket s d p).ember = s.ember := by
  fun_cases routePacket s d p <;> simp

@[simp] theorem flitPackets_ember (s : State) (l : Nat) (f : Flit) : (flitPackets s l f).ember = s.ember := by simp [flitPackets]

@[simp] theorem nextFlit_ember (s : State) (l : Nat) (f : Flit) : (nextFlit s l f).ember = s.ember :=
  (flitPackets_ember ..).trans ((foldl_ember releaseHeld_ember _ _).trans (modLink_ember ..))

@[simp] theorem goodFlit_ember (s : State) (l : Nat) (f : Flit) : (goodFlit s l f).ember = s.ember := by simp [goodFlit, -modLink_eq]
@[simp] theorem receiveFlit_ember (s : State) (l : Nat) (f : Flit) : (receiveFlit s l f).ember = s.ember := by simp [receiveFlit]
@[simp] theorem writeLinkCtrl_ember (s : State) (l : Nat) (v : Word) : (writeLinkCtrl s l v).ember = s.ember := by simp [writeLinkCtrl]

/-! ### Versions -/

@[simp] theorem sweepCaches_ember (s : State) (j : Nat) : (sweepCaches s j).ember = s.ember := by simp [sweepCaches]
@[simp] theorem sweepVersions_ember (s : State) (j : Nat) : (sweepVersions s j).ember = s.ember := by simp [sweepVersions]
@[simp] theorem modHolds_ember (s : State) (j d i v : Nat) (f : Nat → Nat) : (modHolds s j d i v f).ember = s.ember := (rfl)
@[simp] theorem fixVersion_ember (s : State) (j : Nat) (it : Item) (v : Nat) : (fixVersion s j it v).ember = s.ember := by simp [fixVersion]

@[simp] theorem endBatch_ember (s : State) (j : Nat) (it : Item) : (endBatch s j it).ember = s.ember := by
  unfold endBatch
  dsimp only
  repeat' split
  all_goals simp

/-! ### Commits -/

@[simp] theorem scrubOne_ember (s : State) (d : Nat) (u : Upset) : (scrubOne s d u).ember = s.ember := by simp [scrubOne]
@[simp] theorem endPageMove_ember (s : State) (j : Nat) (m : PageMove) : (endPageMove s j m).ember = s.ember := by simp [endPageMove]

@[simp] theorem commitStash_ember (s : State) (j : Nat) (it : Item) (g : Staging) : (commitStash s j it g).ember = s.ember := by
  fun_cases commitStash s j it g <;> simp +zetaDelta

@[simp] theorem commitRange_ember (s : State) (it : Item) (g : Staging) : (commitRange s it g).ember = s.ember := by simp [commitRange]
@[simp] theorem noteCommit_ember (s : State) (j : Nat) (step : BitVec 32) : (noteCommit s j step).ember = s.ember := (rfl)

@[simp] theorem commitItem_ember (j : Nat) (s : State) (i : Nat) : (commitItem j s i).ember = s.ember := by
  unfold commitItem
  split <;> simp

@[simp] theorem finishItem_ember (s : State) (j i : Nat) (it : Item) : (finishItem s j i it).ember = s.ember := by
  refine (foldl_ember (fun _ _ => sweepEntries_ember ..) _ _).trans ((modJob_ember ..).trans ((modItem_ember ..).trans ?_))
  rw [invalidate_ember, releaseFrames_ember]

@[simp] theorem foldInst_ember (s : State) (j k : Nat) (n : Inst) : (foldInst s j k n).ember = s.ember := by simp [foldInst]

/-! ### The update engine -/

@[simp] theorem nextBlock_ember (s : State) (d : Nat) (r : UpdRun) (sh : ShardDecl) : (nextBlock s d r sh).ember = s.ember := (rfl)

@[simp] theorem advanceUpd_ember (s : State) (d : Nat) (r : UpdRun) : (advanceUpd s d r).ember = s.ember := by
  unfold advanceUpd
  split <;> simp

@[simp] theorem engineFault_ember (s : State) (d j : Nat) (code : Option Nat) : (engineFault s d j code).1.ember = s.ember := by
  unfold engineFault
  split <;> simp

theorem engineWrite_ember {s u : State} {d j va : Nat} {l : List Byte} (h : engineWrite s d j va l = .inl u) : u.ember = s.ember := by
  unfold engineWrite at h
  repeat' split at h
  all_goals cases h
  exact (touchRanges_ember ..).trans (writePieces_ember ..)

theorem allocPages_ember {j d : Nat} {st : FState} {s u : State} {l : List Nat} {m n : Map Leaf} (h : allocPages j d st s l m = some (u, n)) :
    u.ember = s.ember := by
  fun_induction allocPages j d st s l m with
  | case1 =>
    cases h
    rfl
  | case2 => cases h
  | case3 s v rest m f eq ih => exact (ih h).trans (takeFrame_ember ..)

@[simp] theorem copyPages_ember (s : State) (old new : Map Leaf) : (copyPages s old new).ember = s.ember := by
  unfold copyPages
  refine foldl_ember (fun s a => ?_) _ _
  repeat' split
  all_goals simp

theorem stageShards_ember {j d i : Nat} {s u : State} {l : List Nat} (h : stageShards j d i s l = some u) : u.ember = s.ember := by
  fun_induction stageShards j d i s l with
  | case1 =>
    cases h
    rfl
  | case2 s k rest jb eq ih => exact ih h
  | case3 => cases h
  | case4 => cases h
  | case5 s k rest jb sh eq old t mw work v mh hot w g ih =>
    rw [ih h, modItem_ember, copyPages_ember, copyPages_ember, allocPages_ember hot, allocPages_ember work]

@[simp] theorem publishShard_ember (j i n : Nat) (it : Item) (s : State) (k : Nat) : (publishShard j i n it s k).ember = s.ember := by
  fun_cases publishShard j i n it s k <;> simp +zetaDelta

@[simp] theorem holdOld_ember (j k old : Nat) (s : State) : (holdOld j k old s).ember = s.ember := by
  unfold holdOld
  split <;> simp

@[simp] theorem rearm_ember (s : State) (j : Nat) (sh : ShardDecl) : (rearm s j sh).ember = s.ember := by
  fun_cases rearm s j sh <;> simp

@[simp] theorem arriveAt_ember (s : State) (d j addr : Nat) (epoch : BitVec 16) : (arriveAt s d j addr epoch).ember = s.ember := by simp [arriveAt]

@[simp] theorem endUpd_ember (s : State) (d : Nat) (r : UpdRun) (it : Item) : (endUpd s d r it).ember = s.ember := by
  refine (sweepVersions_ember ..).trans ((foldl_ember (fun t k => ?_) _ _).trans ((modStore_ember ..).trans ((noteCommit_ember ..).trans
    ((modItem_ember ..).trans ((invalidate_ember ..).trans ((foldl_ember (fun _ _ => holdOld_ember ..) _ _).trans
      (foldl_ember (fun _ _ => publishShard_ember ..) _ _)))))))
  split
  · exact (foldl_ember (fun _ _ => arriveAt_ember ..) _ _).trans (rearm_ember ..)
  · rfl

/-! ### Fetches and scrubs -/

@[simp] theorem sendFetch_ember (s : State) (d j i : Nat) (sh : ShardDecl) : (sendFetch s d j i sh).ember = s.ember := by
  refine foldl_ember (fun s r => foldl_ember (fun s q => ?_) _ _) _ _
  split <;> simp

@[simp] theorem startFetch_ember (s : State) (d j i v : Nat) (sh : ShardDecl) (tries : Nat) : (startFetch s d j i v sh tries).ember = s.ember := by
  simp [startFetch]

@[simp] theorem arriveVa_ember (s : State) (d j va : Nat) (v : BitVec 32) : (arriveVa s d j va v).ember = s.ember := by
  unfold arriveVa
  split <;> simp

@[simp] theorem arriveFetch_ember (s : State) (d j : Nat) (sh : ShardDecl) : (arriveFetch s d j sh).ember = s.ember := by
  unfold arriveFetch
  split <;> simp

theorem publishCopy_ember {s u : State} {d j i v : Nat} {sh : ShardDecl} {digest : Word} {l : List Byte}
    (h : publishCopy s d j i v sh digest l = some u) :
    u.ember = s.ember := by
  unfold publishCopy at h
  split at h <;> cases h
  rename_i t m alloc
  exact (modJob_ember ..).trans ((putVer_ember ..).trans (allocPages_ember alloc))

@[simp] theorem failFetch_ember (s : State) (d j i v : Nat) (sh : ShardDecl) : (failFetch s d j i v sh).ember = s.ember := by
  unfold failFetch
  dsimp only
  repeat' split
  all_goals simp

@[simp] theorem endFetch_ember (s : State) (d : Nat) (f : FetchRec) (sh : ShardDecl) (l : List Byte) : (endFetch s d f sh l).ember = s.ember := by
  fun_cases endFetch s d f sh l with
  | case2 jb want gone right t copy u =>
    exact (sweepVersions_ember ..).trans ((arriveFetch_ember ..).trans ((modStore_ember ..).trans
      ((publishCopy_ember copy).trans (modStore_ember ..))))
  | _ => simp +zetaDelta

@[simp] theorem scrubCopy_ember (s : State) (j d : Nat) (c : CacheRec) : (scrubCopy s j d c).ember = s.ember := by
  unfold scrubCopy
  split <;> simp

@[simp] theorem scrubOwner_ember (s : State) (j d : Nat) (e : Nat × VerRec) : (scrubOwner s j d e).ember = s.ember := by
  unfold scrubOwner
  split <;> simp

@[simp] theorem setOutcome_ember (s : State) (q k : Nat) (o : Nat × Nat × Nat × Nat) : (setOutcome s q k o).ember = s.ember := (rfl)

/-! ### Resharding and transitions -/

@[simp] theorem fetchSource_ember (s : State) (d j id : Nat) (rs : List (Nat × Nat)) : (fetchSource s d j id rs).1.ember = s.ember := by
  refine foldl_fst_ember (fun t r => foldl_fst_ember (fun t q => ?_) _ t) _ (s, 0)
  split
  · dsimp only
    split <;> simp
  · rfl

@[simp] theorem takeUp_ember (s : State) (d : Nat) (r : RunDescr) : (takeUp s d r).ember = s.ember :=
  (modDescr_ember ..).trans ((fetchSource_ember ..).trans (modDescr_ember ..))

@[simp] theorem pumpDescrs_ember (s : State) (d : Nat) : (pumpDescrs s d).ember = s.ember := by simp [pumpDescrs]

@[simp] theorem startDescr_ember (s : State) (d j : Nat) (x : Descr) (step : BitVec 32) (trans : Option Nat) (entry : Option (Nat × Nat)) :
    (startDescr s d j x step trans entry).ember = s.ember := by
  simp [startDescr]

theorem writeRuns_ember {d j id : Nat} {s u : State} {n k : Nat} {l : List (Nat × List Byte)} (h : writeRuns d j id s n l = .inl (u, k)) :
    u.ember = s.ember := by
  fun_induction writeRuns d j id s n l with
  | case1 =>
    cases h
    rfl
  | case2 => cases h
  | case3 => cases h
  | case4 s n r rest t va m f tail checked fuel ih => exact (ih h).trans ((sendWrites_ember ..).trans (writePieces_ember ..))
  | case5 s n r rest ps checked t other ih => exact (ih h).trans (writePieces_ember ..)

@[simp] theorem arriveDescr_ember (s : State) (d : Nat) (r : RunDescr) : (arriveDescr s d r).ember = s.ember := by simp [arriveDescr]
@[simp] theorem leaveEngine_ember (s : State) (d : Nat) (r : RunDescr) : (leaveEngine s d r).ember = s.ember := by simp [leaveEngine]

@[simp] theorem endDescr_ember (s : State) (d : Nat) (r : RunDescr) : (endDescr s d r).ember = s.ember := by
  unfold endDescr
  split <;> simp

@[simp] theorem rejectDescr_ember (s : State) (d : Nat) (r : RunDescr) (code : Nat) : (rejectDescr s d r code).ember = s.ember := by
  unfold rejectDescr
  split <;> simp

@[simp] theorem failDescr_ember (s : State) (d : Nat) (r : RunDescr) (code : Nat) : (failDescr s d r code).ember = s.ember := by simp [failDescr]

@[simp] theorem runDescr_ember (s : State) (d : Nat) (r : RunDescr) : (runDescr s d r).ember = s.ember := by
  fun_cases runDescr s d r with
  | case5 src got t runs u wrote v w none =>
    exact (endDescr_ember ..).trans ((modDescr_ember ..).trans ((modStore_ember ..).trans ((writeRuns_ember wrote).trans
      ((draw_ember _).trans (touchRanges_ember ..)))))
  | case6 src got t runs u wrote v w some =>
    exact (modDescr_ember ..).trans ((modStore_ember ..).trans ((writeRuns_ember wrote).trans ((draw_ember _).trans (touchRanges_ember ..))))
  | _ => simp +zetaDelta

@[simp] theorem lodgeArrive_ember (s : State) (j : Nat) (a : BitVec 16 × Nat) : (lodgeArrive s j a).ember = s.ember := by simp [lodgeArrive]
@[simp] theorem armNext_ember (s : State) (o n : Nat) : (armNext s o n).ember = s.ember := (rfl)
@[simp] theorem giveShardUp_ember (s : State) (j k d : Nat) : (giveShardUp s j k d).ember = s.ember := by simp [giveShardUp]

@[simp] theorem takeShard_ember (s : State) (j k d : Nat) (sh : ShardDecl) : (takeShard s j k d sh).ember = s.ember := by
  unfold takeShard
  dsimp only
  rw [modJob_ember]
  refine (foldl_ember (fun t f => ?_) _ _).trans ?_
  · rw [draw_ember]
  · cases h : allocPages j d .published s (hotPages (getJob s j) sh) [] with
    | none => rfl
    | some t => exact allocPages_ember h

@[simp] theorem moveOwner_ember (j : Nat) (old new : JobImage) (s : State) (k : Nat) : (moveOwner j old new s k).ember = s.ember := by
  unfold moveOwner
  split <;> simp

@[simp] theorem openEpoch_ember (s : State) (j : Nat) : (openEpoch s j).ember = s.ember := by simp [openEpoch]

/-! ### Slots of a channel -/

@[simp] theorem sendSlot_ember (s : State) (c p : Nat) (ch : ChanDecl) : (sendSlot s c p ch).ember = s.ember := (rfl)

@[simp] theorem postTo_ember (s : State) (o : Option Nat) (op : PortOp) : (postTo s o op).ember = s.ember := by
  unfold postTo
  split <;> simp

@[simp] theorem landSlot_ember (s : State) (c p : Nat) (ch : ChanDecl) (data : List Byte) (rest : List (Nat × List Byte)) :
    (landSlot s c p ch data rest).ember = s.ember := by
  simp [landSlot]

/-! ### The vertical port -/

@[simp] theorem beatFail_ember (s : State) (c : Nat) : (beatFail s c).ember = s.ember := (rfl)

@[simp] theorem spareBonds_ember (s : State) (c : Nat) (l : List (Nat × Nat)) : (spareBonds s c l).1.ember = s.ember := by
  fun_induction spareBonds s c l with
  | case1 => rfl
  | case2 => rfl
  | case3 s c g bond rest fate ih =>
    rw [ih]
    rfl

@[simp] theorem laneTested_ember (s : State) (c : Nat) (failing : List (Nat × Nat)) : (laneTested s c failing).ember = s.ember := by
  have spared := spareBonds_ember
    (modCell s c (fun x => { x with testOwed := false, beatFails := 0, retryTimes := [], laneSound := failing.isEmpty })) c failing
  unfold laneTested
  dsimp only
  split <;> rename_i eq <;> rw [eq] at spared
  · exact (retireCell_ember ..).trans spared
  · exact spared

/-! ### Dispatch -/

@[simp] theorem dispatchFault_ember (s : State) (p pc code : Nat) : (dispatchFault s p pc code).ember = s.ember := by simp [dispatchFault]
@[simp] theorem dGoto_ember (s : State) (p n : Nat) : (dGoto s p n).ember = s.ember := by simp [dGoto]
@[simp] theorem dNextWord_ember (s : State) (p : Nat) : (dNextWord s p).ember = s.ember := by simp [dNextWord]
@[simp] theorem dWrite_ember (s : State) (p : Nat) (f : DFields) (v : Word) : (dWrite s p f v).ember = s.ember := by simp [dWrite]
@[simp] theorem startKindle_ember (s : State) (p : Nat) : (startKindle s p).ember = s.ember := by simp [startKindle]
@[simp] theorem reserve_ember (s : State) (p : Nat) (d : Nat) (i : Nat) (it : Item) : (reserve s p d i it).ember = s.ember := (rfl)
@[simp] theorem pinEntries_ember (s : State) (j i : Nat) (it : Item) : (pinEntries s j i it).ember = s.ember := by simp [pinEntries]

@[simp] theorem startItem_ember (s : State) (p i : Nat) (it : Item) (v : Nat) : (startItem s p i it v).ember = s.ember := by
  unfold startItem
  dsimp only
  rw [modPav_ember]
  split <;> simp [-modCell_eq]

@[simp] theorem doLaunch_ember (s : State) (p d i : Nat) (it : Item) : (doLaunch s p d i it).ember = s.ember := by
  fun_cases doLaunch s p d i it <;> simp +zetaDelta

@[simp] theorem startThread0_ember (s : State) (p bed i : Nat) : (startThread0 s p bed i).ember = s.ember := by
  unfold startThread0
  dsimp only
  repeat' split
  · rfl
  · rfl
  · exact foldl_ember (fun _ _ => modCell_ember ..) _ _

/-! ### Migration -/

@[simp] theorem setMig_ember (s : State) (j k : Nat) (m : Mig) : (setMig s j k m).ember = s.ember := (rfl)

@[simp] theorem addRx_ember (s : State) (c k : Nat) (ch : ChanDecl) (pt : Port) : (addRx s c k ch pt).ember = s.ember := by
  unfold addRx
  split <;> simp

@[simp] theorem addTx_ember (s : State) (c k : Nat) (ch : ChanDecl) (pt : Port) : (addTx s c k ch pt).ember = s.ember := by
  unfold addTx
  split <;> simp

@[simp] theorem openPorts_ember (s : State) (j : Nat) (m : Mig) : (openPorts s j m).ember = s.ember := by
  refine (foldl_ember (fun t e => ?_) _ _).trans (foldl_ember (fun t e => ?_) _ _)
  all_goals
    dsimp only
    split <;> simp

@[simp] theorem moveItems_ember (s : State) (j : Nat) (m : Mig) : (moveItems s j m).ember = s.ember := by simp [moveItems]

@[simp] theorem startMigration_ember (s : State) (j st r fromP fromB toP toB row col : Nat) :
    (startMigration s j st r fromP fromB toP toB row col).ember = s.ember := by
  simp [startMigration]

theorem requestMigration_ember {s u : State} {j st r q b : Nat} (h : requestMigration s j st r q b = .inl u) : u.ember = s.ember := by
  unfold requestMigration at h
  dsimp only at h
  repeat' split at h
  all_goals cases h
  exact startMigration_ember ..

theorem moveInput_ember {s u : State} {m : Mig} {k : Nat} {ch : ChanDecl} (h : moveInput s m k ch = some u) : u.ember = s.ember := by
  unfold moveInput at h
  split at h <;> cases h
  exact modCell_ember ..

theorem moveOutput_ember {s u : State} {m : Mig} {k : Nat} {ch : ChanDecl} (h : moveOutput s m k ch = some u) : u.ember = s.ember := by
  unfold moveOutput at h
  split at h <;> cases h
  exact (modCell_ember ..).trans ((modCell_ember ..).trans (modCell_ember ..))

@[simp] theorem moveMarker_ember (s : State) (j n : Nat) (m : Mig) (k : Nat) : (moveMarker s j n m k).ember = s.ember := by
  fun_cases moveMarker s j n m k with
  | case3 ch _ _ _ u h => exact (setMig_ember ..).trans (moveInput_ember h)
  | case5 ch _ _ _ _ u h => exact (setMig_ember ..).trans (moveOutput_ember h)
  | _ => rfl

theorem forwardAll_ember {s u : State} {m : Mig} {k : Nat} {ch : ChanDecl} (h : forwardAll s m k ch = some u) : u.ember = s.ember := by
  unfold forwardAll at h
  dsimp only at h
  repeat' split at h
  all_goals cases h
  exact (modCell_ember ..).trans ((modCell_ember ..).trans (draw_ember _))

theorem endForward_ember {s u : State} {m : Mig} {k : Nat} {ch : ChanDecl} (h : endForward s m k ch = some u) : u.ember = s.ember := by
  unfold endForward at h
  dsimp only at h
  repeat' split at h
  all_goals cases h
  exact modCell_ember ..

@[simp] theorem endMarker_ember (s : State) (j n : Nat) (m : Mig) (e : Nat) : (endMarker s j n m e).ember = s.ember := by
  fun_cases endMarker s j n m e with
  | case3 k ch eq fresh consumer u h =>
    refine (setMig_ember ..).trans ?_
    repeat' split at h
    · exact forwardAll_ember h
    · cases h
    · exact endForward_ember h
    · cases h
  | _ => simp

@[simp] theorem completeMig_ember (s : State) (j n : Nat) (m : Mig) : (completeMig s j n m).ember = s.ember := by
  simp [completeMig, -modCell_eq, -modPav_eq]

/-! ### The loader -/

@[simp] theorem setDown_ember (s : State) (st r p b row col : Nat) (d : StageDecl) : (setDown s st r p b row col d).ember = s.ember := (rfl)

theorem placeOne_ember {im : JobImage} {t u : State × List Placed} {st r : Nat} (h : placeOne im t st r = some u) : u.1.ember = t.1.ember := by
  unfold placeOne at h
  dsimp only at h
  repeat' split at h
  all_goals cases h
  exact setDown_ember ..
theorem placeNamed_ember {im : JobImage} {l : List (Nat × Nat × Nat × Nat × Nat)} {t u : State × List Placed} {st r : Nat}
    (h : placeNamed im l t st r = some u) : u.1.ember = t.1.ember := by
  unfold placeNamed at h
  repeat' split at h
  all_goals cases h
  exact setDown_ember ..
/-- Steps that may fail, one after the other: what each keeps, they keep together. -/
theorem foldl_bind_keeps {α σ : Type} {measure : σ → Nat} {f : σ → α → Option σ} (keeps : ∀ t a u, f t a = some u → measure u = measure t)
    (l : List α) {t u : σ} (h : l.foldl (fun o a => o.bind (f · a)) (some t) = some u) : measure u = measure t := by
  induction l generalizing t with
  | nil =>
    cases h
    rfl
  | cons a rest ih =>
    rw [List.foldl_cons, Option.bind_some] at h
    cases first : f t a with
    | none =>
      rw [first, List.foldl_fixed' fun _ => rfl] at h
      cases h
    | some v => exact (ih (first ▸ h)).trans (keeps t a v first)
theorem placeEach_ember {im : JobImage} {f : State × List Placed → Nat → Nat → Option (State × List Placed)} {order : List Nat} {s : State}
    {u : State × List Placed} (keeps : ∀ t v st r, f t st r = some v → v.1.ember = t.1.ember) (h : placeEach im f order s = some u) :
    u.1.ember = s.ember :=
  foldl_bind_keeps (measure := fun t : State × List Placed => t.1.ember) (f := fun t (e : Nat × Nat) => f t e.1 e.2)
    (fun t e v => keeps t v e.1 e.2) _ h
theorem placeBeds_ember {s : State} {im : JobImage} {u : State × List Placed} (h : placeBeds s im = some u) : u.1.ember = s.ember := by
  unfold placeBeds at h
  split at h
  · exact placeEach_ember (fun _ _ _ _ => placeNamed_ember) h
  · exact placeEach_ember (fun _ _ _ _ => placeOne_ember) h
theorem openChannel_ember {s u : State} {beds : List Placed} {k : Nat} {ch : ChanDecl} {r : Nat} (h : openChannel s beds k ch r = some u) :
    u.ember = s.ember := by
  unfold openChannel at h
  dsimp only at h
  repeat' split at h
  all_goals cases h
  exact (addRx_ember ..).trans (addTx_ember ..)
theorem openChannels_ember {s u : State} {im : JobImage} {beds : List Placed} (h : openChannels s im beds = some u) : u.ember = s.ember :=
  foldl_bind_keeps (measure := State.ember) (f := fun s (e : Nat × ChanDecl × Nat) => openChannel s beds e.1 e.2.1 e.2.2)
    (fun _ _ _ => openChannel_ember) _ h
theorem placeChecks_ember {s u : State} {im : JobImage} {beds : List Placed} (h : placeChecks s im = .inl (u, beds)) : u.ember = s.ember := by
  unfold placeChecks at h
  repeat' split at h
  all_goals cases h
  rename_i placed _ opened
  exact (openChannels_ember opened).trans (placeBeds_ember placed)
theorem loadChecks_ember {s u : State} {im : JobImage} {len j : Nat} {beds : List Placed} (h : loadChecks s im len = .inl (j, u, beds)) :
    u.ember = s.ember := by
  unfold loadChecks at h
  repeat' split at h
  all_goals cases h
  rename_i checked
  exact placeChecks_ember checked

@[simp] theorem iceStoreFrames_ember (j : Nat) (banks : List Nat) (n : Nat) (t : State × List Nat) :
    (iceStoreFrames j banks n t).1.ember = t.1.ember := by
  fun_induction iceStoreFrames j banks n t <;> simp_all

@[simp] theorem iceSpillFrames_ember (j d n : Nat) (t : State × List Nat) : (iceSpillFrames j d n t).1.ember = t.1.ember := by
  fun_induction iceSpillFrames j d n t <;> simp_all

@[simp] theorem makeIce_ember (j : Nat) (beds : List Placed) (im : JobImage) (s : State) (d : Nat) : (makeIce j beds im s d).ember = s.ember :=
  (modIce_ember ..).trans ((iceSpillFrames_ember ..).trans (iceStoreFrames_ember ..))

@[simp] theorem mapPage_ember (j c : Nat) (r : RegionDecl) (s : State) (vpn : Nat) : (mapPage j c r s vpn).ember = s.ember := by
  fun_cases mapPage j c r s vpn <;> simp +zetaDelta

@[simp] theorem loaderWrite_ember (j : Nat) (s : State) (va : Nat) (l : List Byte) : (loaderWrite j s va l).ember = s.ember := by simp [loaderWrite]

@[simp] theorem fillRegion_ember (j : Nat) (s : State) (r : RegionDecl) : (fillRegion j s r).ember = s.ember := by
  unfold fillRegion
  split <;> simp

@[simp] theorem mapRegion_ember (j : Nat) (beds : List Placed) (s : State) (r : RegionDecl) : (mapRegion j beds s r).ember = s.ember := by
  simp [mapRegion]

@[simp] theorem mapSync_ember (j d : Nat) (s : State) (y : Nat × List (BitVec 32)) : (mapSync j d s y).ember = s.ember := by
  unfold mapSync
  split
  · rfl
  · exact (foldl_ember (fun _ _ => setObj_ember ..) _ _).trans (modJob_ember ..)

@[simp] theorem initShard_ember (j : Nat) (s : State) (k : Nat) : (initShard j s k).ember = s.ember := by
  fun_cases initShard j s k with
  | case1 => rfl
  | case2 => exact modJob_ember ..
  | case3 => rfl
  | case4 jb sh eq owned t mw work none => exact allocPages_ember work
  | case5 jb sh eq owned v t mw work u mh hot w r =>
    refine (modJob_ember ..).trans (Eq.trans ?_ ((allocPages_ember hot).trans (allocPages_ember work)))
    simp only [w]
    split <;> simp

@[simp] theorem holdPav_ember (j : Nat) (im : JobImage) (s : State) (p : Nat) : (holdPav j im s p).ember = s.ember := (rfl)

@[simp] theorem setLayout_ember (im : JobImage) (s : State) (b : Placed) : (setLayout im s b).ember = s.ember := by
  unfold setLayout
  split
  · exact foldl_ember (fun _ _ => modCell_ember ..) _ _
  · rfl

@[simp] theorem exportRegion_ember (j : Nat) (s : State) (e : ExportDecl) : (exportRegion j s e).ember = s.ember := (rfl)
@[simp] theorem setRoot_ember (j : Nat) (valid : Bool) (root : Nat) (s : State) (d : Nat) : (setRoot j valid root s d).ember = s.ember := (rfl)

@[simp] theorem firstTriggers_ember (j : Nat) (s : State) : (firstTriggers j s).ember = s.ember := by
  unfold firstTriggers
  refine foldl_ember (fun s a => ?_) _ _
  repeat' split
  all_goals simp

@[simp] theorem commitLoad_ember (u : State) (j : Nat) (im : JobImage) (beds : List Placed) : (commitLoad u j im beds).ember = u.ember := by
  unfold commitLoad
  dsimp only
  rw [firstTriggers_ember]
  dsimp only
  rw [setCtx_ember, foldl_ember fun _ _ => setRoot_ember .., modJob_ember, draw_ember, foldl_ember fun _ _ => exportRegion_ember ..,
    foldl_ember fun t d => foldl_ember (fun _ _ => mapSync_ember ..) _ t, foldl_ember fun _ _ => makeIce_ember ..,
    foldl_ember fun _ _ => initShard_ember .., foldl_ember fun _ _ => mapRegion_ember .., foldl_ember fun _ _ => setLayout_ember ..,
    foldl_ember fun _ _ => holdPav_ember .., setJob_ember]

/-! ### Queues -/

@[simp] theorem hostStores_ember (s : State) (l : List HostWrite) : (hostStores s l).ember = s.ember := (rfl)
@[simp] theorem toHost_ember (s : State) (a : Nat) (l : List Byte) : (toHost s a l).ember = s.ember := (rfl)
@[simp] theorem beginEntry_ember (s : State) (q k : Nat) : (beginEntry s q k).ember = s.ember := (rfl)
@[simp] theorem failEntry_ember (s : State) (q k code : Nat) : (failEntry s q k code).ember = s.ember := (rfl)
@[simp] theorem writeTail_ember (s : State) (q : QueueId) (v : Word) : (writeTail s q v).ember = s.ember := by simp [writeTail, -modQueue_eq]
@[simp] theorem writeCqhead_ember (s : State) (q : QueueId) (v : Word) : (writeCqhead s q v).ember = s.ember := by simp [writeCqhead, -modQueue_eq]
@[simp] theorem writeQctrl_ember (s : State) (q : QueueId) (v : Word) : (writeQctrl s q v).ember = s.ember := by simp [writeQctrl, -modQueue_eq]
@[simp] theorem acceptEntry_ember (s : State) (q : QueueId) : (acceptEntry s q).ember = s.ember := (rfl)

@[simp] theorem noteStep_ember (s : State) (q : QueueId) (e : QEntry) (o : Nat × Nat × Nat × Nat) : (noteStep s q e o).ember = s.ember := by
  unfold noteStep
  split <;> simp

@[simp] theorem dropPav_ember (s : State) (p : Nat) : (dropPav s p).ember = s.ember := by simp [dropPav, -modCell_eq]
@[simp] theorem dropOnDie_ember (j : Nat) (s : State) (d : Nat) : (dropOnDie j s d).ember = s.ember := (rfl)
@[simp] theorem dropObjects_ember (s : State) (j : Nat) : (dropObjects s j).ember = s.ember := (rfl)

@[simp] theorem dropRegions_ember (s : State) (j : Nat) : (dropRegions s j).ember = s.ember := by
  unfold dropRegions
  exact foldl_ember (fun _ _ => modFab_ember ..) _ _

@[simp] theorem dropTranslations_ember (s : State) (j : Nat) : (dropTranslations s j).ember = s.ember := by
  unfold dropTranslations
  dsimp only
  exact foldl_ember (fun _ _ => invalidate_ember ..) _ _

@[simp] theorem dropJob_ember (s : State) (j : Nat) : (dropJob s j).ember = s.ember := by simp [dropJob]

@[simp] theorem submitStep_ember (s : State) (j q : Nat) (e : QEntry) (batches : List Batch) : (submitStep s j q e batches).ember = s.ember :=
  (beginEntry_ember ..).trans ((noteStuck_ember ..).trans ((modJob_ember ..).trans (modJob_ember ..)))

/-! ### Resets -/

@[simp] theorem applyRecord_ember (s : State) (r : JRec) : (applyRecord s r).ember = s.ember := by simp [applyRecord, -modCell_eq]
@[simp] theorem applyRecords_ember (s : State) (p : JRec → Bool) : (applyRecords s p).ember = s.ember := by simp [applyRecords]
@[simp] theorem recoverQueues_ember (s : State) (live : Nat → Bool) : (recoverQueues s live).ember = s.ember := (rfl)

@[simp] theorem writeRecovered_ember (s : State) (q : Nat) (x : Queue) : (writeRecovered s q x).ember = s.ember := by
  unfold writeRecovered
  refine foldl_ember (fun s a => ?_) _ _
  repeat' split
  all_goals simp

@[simp] theorem setHbmState_ember (s : State) (h st : Nat) : (setHbmState s h st).ember = s.ember := by simp [setHbmState]
@[simp] theorem cutCompute_ember (s : State) : (cutCompute s).ember = s.ember := (rfl)
@[simp] theorem countSkipped_ember (s : State) : (countSkipped s).ember = s.ember := (rfl)
@[simp] theorem failSafe_ember (s : State) (trigger : Nat) : (failSafe s trigger).ember = s.ember := by simp [failSafe]
@[simp] theorem packageReset_ember (s : State) : (packageReset s).ember = s.ember := (rfl)
@[simp] theorem requestPackage_ember (s : State) : (requestPackage s).ember = s.ember := by simp [requestPackage]

@[simp] theorem requestStack_ember (s : State) (d : Nat) (computeOnly : Bool) : (requestStack s d computeOnly).ember = s.ember := by
  simp [requestStack]

@[simp] theorem startPavReset_ember (s : State) (p : Nat) : (startPavReset s p).ember = s.ember := by simp [startPavReset]
@[simp] theorem writeResetctl_ember (s : State) (v : Word) : (writeResetctl s v).ember = s.ember := by simp [writeResetctl]
@[simp] theorem resetCompute_ember (s : State) (d : Nat) : (resetCompute s d).ember = s.ember := by simp [resetCompute, -modPav_eq]
@[simp] theorem freeDie_ember (s : State) (d : Nat) : (freeDie s d).ember = s.ember := (rfl)

@[simp] theorem resetStoreDie_ember (s : State) (d : Nat) : (resetStoreDie s d).ember = s.ember := by
  unfold resetStoreDie
  dsimp only
  rw [applyRecords_ember, setUcie_ember]
  simp only [State.ember_ite, raiseEvent_ember, ite_self]
  refine (foldl_ember (fun _ _ => (modHbm_ember ..).trans (setHbmState_ember ..)) _ _).trans
    ((foldl_ember (fun _ _ => modLink_ember ..) _ _).trans ?_)
  dsimp only
  exact foldl_ember linkDown_ember _ _

@[simp] theorem faultStack_ember (s : State) (d : Nat) : (faultStack s d).ember = s.ember := by simp [faultStack]
@[simp] theorem cycleRail_ember (s : State) (d : Nat) : (cycleRail s d).ember = s.ember := (rfl)
@[simp] theorem resetDies_ember (s : State) (d : Nat) : (resetDies s d).ember = s.ember := by simp [resetDies]
@[simp] theorem trainHbm_ember (s : State) (h : Nat) (ok : Bool) : (trainHbm s h ok).ember = s.ember := by simp [trainHbm]
@[simp] theorem trainUcie_ember (s : State) (u : Nat) : (trainUcie s u).ember = s.ember := by simp [trainUcie]
@[simp] theorem failStack_ember (s : State) (d : Nat) : (failStack s d).ember = s.ember := (foldl_ember retirePav_ember _ _).trans (setRst_ember ..)

@[simp] theorem haltPav_ember (s : State) (p : Nat) : (haltPav s p).ember = s.ember := by
  refine (sampleLevel_ember ..).trans ((foldl_ember (fun _ _ => modCell_ember ..) _ _).trans
    ((dropPav_ember ..).trans (foldl_ember (fun t e => ?_) _ _)))
  split <;> simp

@[simp] theorem writeFailsafe_ember (s : State) (v : Word) : (writeFailsafe s v).ember = s.ember := by simp [writeFailsafe]

/-! ### Power -/

@[simp] theorem enterRow_ember (s : State) (row : Nat) : (enterRow s row).ember = s.ember := (rfl)

@[simp] theorem advanceRows_ember (n : Nat) (s : State) : (advanceRows n s).ember = s.ember := by
  fun_induction advanceRows n s <;> simp_all

@[simp] theorem addPg_ember (s : State) (r : Rail) : (addPg s r).ember = s.ember := by simp [addPg]
@[simp] theorem dropPg_ember (s : State) (r : Rail) : (dropPg s r).ember = s.ember := (rfl)
@[simp] theorem railFault_ember (s : State) (fault : Nat) : (railFault s fault).ember = s.ember := by simp [railFault]

@[simp] theorem deassertNext_ember (s : State) : (deassertNext s).ember = s.ember := by
  unfold deassertNext
  split <;> simp

theorem wake_ember_le (s : State) : s.ember ≤ (wake s).ember := by
  unfold wake
  split
  · exact Nat.le_refl _
  · dsimp only
    rw [foldl_ember fun t h => ?_]
    · refine (Nat.le_of_eq ?_).trans (passTicks_ember_le _ 250)
      rfl
    · split <;> simp

@[simp] theorem setDuty_ember (s : State) (n : Nat) : (setDuty s n).ember = s.ember := by simp [setDuty]

/-! ### Host memory and modules -/

@[simp] theorem retireUcie_ember (s : State) (u : Nat) : (retireUcie s u).ember = s.ember :=
  (reportOf_ember ..).trans ((raiseEvent_ember ..).trans ((modUcie_ember ..).trans (journalWrite_ember ..)))

@[simp] theorem failLane_ember (s : State) (u lane : Nat) : (failLane s u lane).ember = s.ember := by simp [failLane]
@[simp] theorem crcError_ember (s : State) (u lane : Nat) (retrain : Bool) : (crcError s u lane retrain).ember = s.ember := by simp [crcError]
@[simp] theorem trainModules_ember (s : State) (trained : List Nat) : (trainModules s trained).ember = s.ember := by simp [trainModules]
theorem hdmWake_ember_le (s : State) : s.ember ≤ (hdmWake s).ember := wake_ember_le s
@[simp] theorem readLine_ember (s : State) (a : Nat) : (readLine s a).ember = s.ember := by simp [readLine]
@[simp] theorem rejectHdm_ember (s : State) (u : Nat) : (rejectHdm s u).ember = s.ember := (rfl)
@[simp] theorem lostRequest_ember (s : State) (d : Nat) : (lostRequest s d).ember = s.ember := by simp [lostRequest]

@[simp] theorem drainPort_ember (fuel : Nat) (s : State) (i : Nat) : (drainPort fuel s i).ember = s.ember := by
  fun_induction drainPort fuel s i <;> simp_all

@[simp] theorem readObject_ember (s : State) (off : Nat) : (readObject s off).ember = s.ember := by simp [readObject]
@[simp] theorem writeSyncop_ember (s : State) (d : Nat) (v : Word) : (writeSyncop s d v).ember = s.ember := by simp [writeSyncop]

/-! ### Boot and enrolment -/

@[simp] theorem setMeas_ember (s : State) (i : Nat) (v : List Byte) : (setMeas s i v).ember = s.ember := (rfl)
@[simp] theorem measureOwners_ember (s : State) : (measureOwners s).ember = s.ember := (rfl)
@[simp] theorem measureDebug_ember (s : State) : (measureDebug s).ember = s.ember := (rfl)
@[simp] theorem secEvent_ember (s : State) (bit : Nat) : (secEvent s bit).ember = s.ember := (rfl)
@[simp] theorem countBoot_ember (s : State) : (countBoot s).ember = s.ember := by simp [countBoot]
@[simp] theorem deriveIdentity_ember (s : State) : (deriveIdentity s).ember = s.ember := (rfl)
@[simp] theorem presentModules_ember (s : State) (trained : List Nat) : (presentModules s trained).ember = s.ember := by simp [presentModules]
@[simp] theorem bootRom_ember (s : State) (trained : List Nat) : (bootRom s trained).ember = s.ember := by simp [bootRom]
@[simp] theorem copyImage_ember (s : State) : (copyImage s).ember = s.ember := (rfl)
@[simp] theorem writeBootctl_ember (s : State) (v : Word) : (writeBootctl s v).ember = s.ember := by simp [writeBootctl]
@[simp] theorem deriveKeys_ember (s : State) : (deriveKeys s).ember = s.ember := (rfl)
@[simp] theorem recoverAtBoot_ember (s : State) : (recoverAtBoot s).ember = s.ember := by simp [recoverAtBoot]

@[simp] theorem startFirmware_ember (s : State) : (startFirmware s).ember = s.ember :=
  (foldl_ember (fun _ _ => setRst_ember ..) _ _).trans ((recoverAtBoot_ember _).trans (applyRecords_ember ..))

@[simp] theorem refuseImage_ember (s : State) (code : Nat) : (refuseImage s code).ember = s.ember := (rfl)
@[simp] theorem drawNonce_ember (s : State) : (drawNonce s).ember = s.ember := (rfl)
@[simp] theorem endCommand_ember (s : State) (code : Nat) : (endCommand s code).ember = s.ember := (rfl)
@[simp] theorem spendNonce_ember (s : State) : (spendNonce s).ember = s.ember := (rfl)

@[simp] theorem acceptEnrol_ember (s : State) (l : List Byte) : (acceptEnrol s l).ember = s.ember :=
  (secEvent_ember ..).trans ((endCommand_ember ..).trans (measureOwners_ember _))

@[simp] theorem runEnrol_ember (s : State) (a : Nat) (l : List Byte) (verifies : Bool) : (runEnrol s a l verifies).ember = s.ember := by
  simp [runEnrol]

@[simp] theorem openDebug_ember (s : State) (l : List Byte) : (openDebug s l).ember = s.ember :=
  (endCommand_ember ..).trans ((secEvent_ember ..).trans (measureDebug_ember _))

@[simp] theorem runUnlock_ember (s : State) (a : Nat) (l : List Byte) (verifies : Bool) : (runUnlock s a l verifies).ember = s.ember := by
  simp [runUnlock]

/-! ### Attestation -/

@[simp] theorem reply_ember (s : State) (code : BitVec 8) (body : List Byte) : (reply s code body).ember = s.ember := (rfl)
@[simp] theorem replyError_ember (s : State) (e data : BitVec 8) : (replyError s e data).ember = s.ember := (rfl)
@[simp] theorem setStage_ember (s : State) (n : Nat) : (setStage s n).ember = s.ember := (rfl)
@[simp] theorem refuseAttest_ember (s : State) : (refuseAttest s).ember = s.ember := (rfl)

@[simp] theorem signedReply_ember (s : State) (code : BitVec 8) (nonce : BitVec 256) (body : List Byte) :
    (signedReply s code nonce body).ember = s.ember := (rfl)

/-! ### Events -/

@[simp] theorem signal_ember (s : State) (t : Nat) : (signal s t).ember = s.ember := by
  fun_cases signal s t <;> simp

@[simp] theorem deliverTo_ember (s : State) (n t : Nat) : (deliverTo s n t).ember = s.ember := by simp [deliverTo]

@[simp] theorem routeOne_ember (s : State) (n : Nat) : (routeOne s n).ember = s.ember := by
  unfold routeOne
  split <;> simp

@[simp] theorem routeCycle_ember (s : State) : (routeCycle s).ember = s.ember := by simp [routeCycle]

@[simp] theorem writePend_ember (s : State) (i : Nat) (v : Word) : (writePend s i v).ember = s.ember :=
  checkWrite_ember _ _ _ _ _ fun t => foldl_ember (fun _ _ => setEv_ember ..) _ t

@[simp] theorem writeSetp_ember (s : State) (i : Nat) (v : Word) : (writeSetp s i v).ember = s.ember := by simp [writeSetp]
@[simp] theorem writeEnable_ember (s : State) (i : Nat) (v : Word) : (writeEnable s i v).ember = s.ember := by simp [writeEnable]
@[simp] theorem writeSrc_ember (s : State) (n : Nat) (v : Word) : (writeSrc s n v).ember = s.ember := by simp [writeSrc]
@[simp] theorem resample_ember (s : State) (t : Nat) : (resample s t).ember = s.ember := by simp [resample]

@[simp] theorem popTarget_ember (s : State) (t : Nat) : (popTarget s t).ember = s.ember := by
  unfold popTarget
  split <;> simp

@[simp] theorem writeEoi_ember (s : State) (t : Nat) (v : Word) : (writeEoi s t v).ember = s.ember := by simp [writeEoi]

/-! ### Quench -/

@[simp] theorem issueQ_ember (s : State) (c t op : Nat) (f : QFields) (g : State → Entry → State) (hg : ∀ u x, (g u x).ember = u.ember) :
    (issueQ s c t op f g).ember = s.ember := by
  simp [issueQ, hg]

@[simp] theorem startQuench_ember (free : Nat) (s : State) (c : Nat) (e : Entry) : (startQuench free s c e).ember = s.ember := by
  fun_cases startQuench free s c e <;> simp

@[simp] theorem quenchWrite_ember (s : State) (c : Nat) (q : QuenchRun) (b : List Byte × List Byte) : (quenchWrite s c q b).ember = s.ember := by
  simp [quenchWrite]

/-! ### Temper -/

@[simp] theorem tryMigrate_ember (ok : Nat → Bool) (p : Nat) (s : State) (b : Bed) : (tryMigrate ok p s b).ember = s.ember := by
  unfold tryMigrate
  dsimp only
  split
  · rename_i u rest eq
    obtain ⟨q, -, found⟩ := List.mem_filterMap.mp (eq ▸ List.mem_cons_self : u ∈ _)
    obtain ⟨k, -, h⟩ := Option.bind_eq_some_iff.mp found
    split at h <;> cases h
    rename_i migrated
    exact requestMigration_ember migrated
  · rfl

@[simp] theorem migrateBeds_ember (s : State) (p : Nat) (ok : Nat → Bool) : (migrateBeds s p ok).ember = s.ember := by simp [migrateBeds]

@[simp] theorem applyPlan_ember (s : State) (p : Nat) (step : TemperStep) : (applyPlan s p step).ember = s.ember := by
  fun_cases applyPlan s p step <;> simp +zetaDelta

@[simp] theorem temperOne_ember (s : State) (p : Nat) (r : TemperRead) : (temperOne s p r).ember = s.ember := by simp [temperOne]
@[simp] theorem writeTemper_ember (s : State) (v : Word) : (writeTemper s v).ember = s.ember := by simp [writeTemper]

/-! ### Register blocks written -/

@[simp] theorem writeBase_ember (s : State) (q : QueueId) (r : Nat) (v : Word) : (writeBase s q r v).ember = s.ember := by
  simp [writeBase, -modQueue_eq]

@[simp] theorem writeQueue_ember (s : State) (q : QueueId) (r : Nat) (v : Word) : (writeQueue s q r v).ember = s.ember := by simp [writeQueue]

@[simp] theorem writeLodge_ember (s : State) (off : Nat) (v : Word) : (writeLodge s off v).ember = s.ember := by
  fun_cases writeLodge s off v <;> simp

@[simp] theorem writeEvc_ember (s : State) (off : Nat) (v : Word) : (writeEvc s off v).ember = s.ember := by simp [writeEvc]
@[simp] theorem writePower_ember (s : State) (p : Nat) (v : Word) : (writePower s p v).ember = s.ember := by simp [writePower, -modPav_eq]
@[simp] theorem writeScrub_ember (s : State) (d : Nat) (v : Word) : (writeScrub s d v).ember = s.ember := by simp [writeScrub, -modStore_eq]
@[simp] theorem writeRtsel_ember (s : State) (d : Nat) (v : Word) : (writeRtsel s d v).ember = s.ember := by simp [writeRtsel, -modFab_eq]
@[simp] theorem writeRtdata_ember (s : State) (d : Nat) (v : Word) : (writeRtdata s d v).ember = s.ember := by simp [writeRtdata]
@[simp] theorem writeFab_ember (s : State) (d off : Nat) (v : Word) : (writeFab s d off v).ember = s.ember := by simp [writeFab]
@[simp] theorem writeImgaddr_ember (s : State) (v : Word) : (writeImgaddr s v).ember = s.ember := by simp [writeImgaddr]
@[simp] theorem writeImglen_ember (s : State) (v : Word) : (writeImglen s v).ember = s.ember := by simp [writeImglen]
@[simp] theorem writeCmdaddr_ember (s : State) (v : Word) : (writeCmdaddr s v).ember = s.ember := by simp [writeCmdaddr]
@[simp] theorem writeCmd_ember (s : State) (v : Word) : (writeCmd s v).ember = s.ember := by simp [writeCmd]
@[simp] theorem writeEvent_ember (s : State) (v : Word) : (writeEvent s v).ember = s.ember := by simp [writeEvent]
@[simp] theorem writeSec_ember (s : State) (off : Nat) (v : Word) : (writeSec s off v).ember = s.ember := by simp [writeSec]
@[simp] theorem writeClkctrl_ember (s : State) (v : Word) : (writeClkctrl s v).ember = s.ember := by simp [writeClkctrl]
@[simp] theorem writeLimit_ember (s : State) (v : Word) : (writeLimit s v).ember = s.ember := by simp [writeLimit]

@[simp] theorem writeReg_ember (s : State) (b : Blk) (off : Nat) (v : Word) : (writeReg s b off v).ember = s.ember := by
  fun_cases writeReg s b off v <;> simp

@[simp] theorem writeBlock_ember (s : State) (b : Blk) (off size : Nat) (v : Word) : (writeBlock s b off size v).ember = s.ember := by
  fun_cases writeBlock s b off size v <;> simp

@[simp] theorem writeNowhere_ember (s : State) (off size : Nat) : (writeNowhere s off size).ember = s.ember := by simp [writeNowhere]
@[simp] theorem writeMsix32_ember (s : State) (x v : Nat) : (writeMsix32 s x v).ember = s.ember := (rfl)
@[simp] theorem writeBar4_ember (s : State) (x size : Nat) (v : Word) : (writeBar4 s x size v).ember = s.ember := by simp [writeBar4]

@[simp] theorem writeWindow_ember (s : State) (off size : Nat) (v : Word) : (writeWindow s off size v).ember = s.ember := by
  fun_cases writeWindow s off size v <;> simp

/-! ### Register blocks read -/

@[simp] theorem clearIce_ember (s : State) (d off : Nat) : (clearIce s d off).ember = s.ember := by simp [clearIce]
@[simp] theorem clearHearth_ember (s : State) (d off : Nat) : (clearHearth s d off).ember = s.ember := (rfl)

@[simp] theorem clearReg_ember (s : State) (b : Blk) (off : Nat) : (clearReg s b off).ember = s.ember := by
  fun_cases clearReg s b off <;> simp

@[simp] theorem freshen_ember (s : State) (b : Blk) (off : Nat) : (freshen s b off).ember = s.ember := by simp [freshen]

@[simp] theorem readReg_ember (s : State) (b : Blk) (off : Nat) : (readReg s b off).ember = s.ember := by
  unfold readReg
  split <;> simp

@[simp] theorem readBlock_ember (s : State) (b : Blk) (off size : Nat) : (readBlock s b off size).ember = s.ember := by simp [readBlock]
@[simp] theorem readNowhere_ember (s : State) (off size : Nat) : (readNowhere s off size).ember = s.ember := by simp [readNowhere]
@[simp] theorem readBar4_ember (s : State) (x size : Nat) : (readBar4 s x size).ember = s.ember := (rfl)

@[simp] theorem readWindow_ember (s : State) (off size : Nat) : (readWindow s off size).ember = s.ember := by
  fun_cases readWindow s off size <;> simp

/-! ### Scalar instructions -/

@[simp] theorem scalarR_ember (s : State) (c t op : Nat) (f : RFields) (g : Word → Word → Word → Word) : (scalarR s c t op f g).ember = s.ember := by
  simp [scalarR, -modCell_eq]

@[simp] theorem scalarI_ember (s : State) (c t op : Nat) (f : IFields) (g : Word → Word → Word) : (scalarI s c t op f g).ember = s.ember := by
  simp [scalarI, -modCell_eq]

/-! ### What a handler keeps -/

/-- The run goes on with an ember counter that is not below that of `s`. -/
def KeepsEmber (s : State) (o : Out) : Prop := ∀ u, o = .next u → s.ember ≤ u.ember

theorem KeepsEmber.next_le {s u : State} (h : s.ember ≤ u.ember) : KeepsEmber s (.next u) := by
  rintro _ ⟨⟩
  exact h

theorem KeepsEmber.onUnit_le {s t : State} {ok : Bool} (h : s.ember ≤ t.ember) : KeepsEmber s (onUnit ok t) := by
  intro u eq
  obtain ⟨-, rfl⟩ := onUnit_next eq
  exact h

theorem KeepsEmber.next {s u : State} (h : u.ember = s.ember) : KeepsEmber s (.next u) := .next_le (Nat.le_of_eq h.symm)

theorem KeepsEmber.onUnit {s t : State} {ok : Bool} (h : t.ember = s.ember) : KeepsEmber s (onUnit ok t) :=
  .onUnit_le (Nat.le_of_eq h.symm)

theorem KeepsEmber.onEntry {s : State} {f : State → QEntry → State} {q : QueueId} {op : Nat} (h : ∀ e, (f s e).ember = s.ember) :
    KeepsEmber s (onEntry q op s f) := by
  refine .onUnit ?_
  repeat' split
  · exact h _
  all_goals rfl

theorem KeepsEmber.onDispatch {s : State} {g : State → State} {p op : Nat} {f : DFields} (h : (g s).ember = s.ember) :
    KeepsEmber s (onDispatch p op f s g) := by
  refine .onUnit ?_
  split
  · exact h
  · rfl

@[simp] theorem onMig_ember (s : State) (j n : Nat) (f : Mig → State) (h : ∀ m, (f m).ember = s.ember) : (onMig s j n f).ember = s.ember := by
  unfold onMig
  repeat' split
  · exact h _
  all_goals rfl

theorem KeepsEmber.updInstr {s : State} {d : Nat} {w : BitVec 32} {f : State → UpdRun → Nat → ShardDecl → UpdDecl → State × Option UpdRun}
    (h : ∀ r i sh p, (f s r i sh p).1.ember = s.ember) : KeepsEmber s (updInstr s d w f) := by
  refine .onUnit ?_
  dsimp only
  repeat' split
  all_goals simp [h]

theorem KeepsEmber.updMap {s : State} {d op : Nat} {f : UFields} {g : UpdRun → Nat → F32} : KeepsEmber s (updMap s d op f g) :=
  .updInstr fun _ _ _ _ => rfl

/-- Apart from `foldl_ember`, at which the kernel would unfold `lodgeArrive` down to its numerals. -/
theorem foldl_lodgeArrive_ember (l : List (BitVec 16 × Nat)) (j : Nat) (s : State) :
    (l.foldl (fun s a => lodgeArrive s j a) s).ember = s.ember := by
  induction l generalizing s with
  | nil => rfl
  | cons a l ih => rw [List.foldl_cons, ih, lodgeArrive_ember]

/-! ### Handlers: accesses of a cell -/

@[simp] theorem execGlobalLoadReturn_keepsEmber (c stamp : Nat) (s : State) : KeepsEmber s (execGlobalLoadReturn c stamp s) := by
  refine .onUnit ?_
  split
  · rfl
  · simp [-modCell_eq]

/-! ### Handlers: reads, writes and jumps -/

@[simp] theorem execKNop_keepsEmber (c t : Nat) (f : BFields) (s : State) : KeepsEmber s (execKNop c t f s) := .onUnit (by simp)
@[simp] theorem execKJmp_keepsEmber (c t : Nat) (f : BFields) (s : State) : KeepsEmber s (execKJmp c t f s) := .onUnit (by simp)
@[simp] theorem execKJal_keepsEmber (c t : Nat) (f : BFields) (s : State) : KeepsEmber s (execKJal c t f s) := .onUnit (by simp)
@[simp] theorem execKJr_keepsEmber (c t : Nat) (f : BFields) (s : State) : KeepsEmber s (execKJr c t f s) := .onUnit (by simp)
@[simp] theorem execKJalr_keepsEmber (c t : Nat) (f : BFields) (s : State) : KeepsEmber s (execKJalr c t f s) := .onUnit (by simp)
@[simp] theorem execKBeq_keepsEmber (c t : Nat) (f : BFields) (s : State) : KeepsEmber s (execKBeq c t f s) := .onUnit (by simp)
@[simp] theorem execKBne_keepsEmber (c t : Nat) (f : BFields) (s : State) : KeepsEmber s (execKBne c t f s) := .onUnit (by simp)
@[simp] theorem execKBlt_keepsEmber (c t : Nat) (f : BFields) (s : State) : KeepsEmber s (execKBlt c t f s) := .onUnit (by simp)
@[simp] theorem execKBge_keepsEmber (c t : Nat) (f : BFields) (s : State) : KeepsEmber s (execKBge c t f s) := .onUnit (by simp)
@[simp] theorem execKBltu_keepsEmber (c t : Nat) (f : BFields) (s : State) : KeepsEmber s (execKBltu c t f s) := .onUnit (by simp)
@[simp] theorem execKBgeu_keepsEmber (c t : Nat) (f : BFields) (s : State) : KeepsEmber s (execKBgeu c t f s) := .onUnit (by simp)
@[simp] theorem execKTspawn_keepsEmber (c t : Nat) (f : BFields) (s : State) : KeepsEmber s (execKTspawn c t f s) := .onUnit (by simp [-modCell_eq])
@[simp] theorem execKTjoin_keepsEmber (c t : Nat) (f : BFields) (s : State) : KeepsEmber s (execKTjoin c t f s) := .onUnit (by simp [-modCell_eq])
@[simp] theorem execKYield_keepsEmber (c t : Nat) (f : BFields) (s : State) : KeepsEmber s (execKYield c t f s) := .onUnit (by simp [-modCell_eq])
@[simp] theorem execKHalt_keepsEmber (c t : Nat) (f : BFields) (s : State) : KeepsEmber s (execKHalt c t f s) := .onUnit (by simp [-modCell_eq])
@[simp] theorem execKRdsr_keepsEmber (c t : Nat) (f : BFields) (s : State) : KeepsEmber s (execKRdsr c t f s) := .onUnit (by simp)
@[simp] theorem execKSpark_keepsEmber (c t : Nat) (f : BFields) (s : State) : KeepsEmber s (execKSpark c t f s) := .onUnit (by simp [-modCell_eq])

@[simp] theorem execInstructionFetch_keepsEmber (c : Nat) (s : State) : KeepsEmber s (execInstructionFetch c s) := by
  refine .onUnit ?_
  dsimp only
  repeat' split
  all_goals simp

@[simp] theorem execMissRegisterGrant_keepsEmber (c : Nat) (s : State) : KeepsEmber s (execMissRegisterGrant c s) := by
  refine .onUnit ?_
  dsimp only
  repeat' split
  all_goals simp

@[simp] theorem execFenceComplete_keepsEmber (c t : Nat) (s : State) : KeepsEmber s (execFenceComplete c t s) := by
  refine .onUnit ?_
  dsimp only
  repeat' split
  all_goals simp

/-! ### Handlers: the Icehouse -/

@[simp] theorem execIcehouseSpillStart_keepsEmber (d j : Nat) (s : State) : KeepsEmber s (execIcehouseSpillStart d j s) := by
  refine .onUnit ?_
  split <;> simp

@[simp] theorem execIcehouseRefillStart_keepsEmber (d j : Nat) (s : State) : KeepsEmber s (execIcehouseRefillStart d j s) := by
  refine .onUnit ?_
  split
  · simp
  · rfl

@[simp] theorem execIcehouseMoveDone_keepsEmber (d j : Nat) (s : State) : KeepsEmber s (execIcehouseMoveDone d j s) := by
  refine .onUnit ?_
  split <;> simp

@[simp] theorem execIcehouseDeadlockTimeout_keepsEmber (j : Nat) (s : State) : KeepsEmber s (execIcehouseDeadlockTimeout j s) := by
  have le : ∀ t, s.ember ≤ (advanceTo (noteStuck s j) t).ember := fun t => by
    simpa using advanceTo_ember_le (noteStuck s j) t
  refine .onUnit_le ?_
  dsimp only
  repeat' split
  all_goals simp [le]

/-! ### Handlers: vector instructions -/

@[simp] theorem execKVadd_keepsEmber (c t : Nat) (f : VFields) (s : State) : KeepsEmber s (execKVadd c t f s) := .onUnit (by simp)
@[simp] theorem execKVsub_keepsEmber (c t : Nat) (f : VFields) (s : State) : KeepsEmber s (execKVsub c t f s) := .onUnit (by simp)
@[simp] theorem execKVmul_keepsEmber (c t : Nat) (f : VFields) (s : State) : KeepsEmber s (execKVmul c t f s) := .onUnit (by simp)
@[simp] theorem execKVfma_keepsEmber (c t : Nat) (f : VFields) (s : State) : KeepsEmber s (execKVfma c t f s) := .onUnit (by simp)
@[simp] theorem execKVmin_keepsEmber (c t : Nat) (f : VFields) (s : State) : KeepsEmber s (execKVmin c t f s) := .onUnit (by simp)
@[simp] theorem execKVmax_keepsEmber (c t : Nat) (f : VFields) (s : State) : KeepsEmber s (execKVmax c t f s) := .onUnit (by simp)
@[simp] theorem execKVabs_keepsEmber (c t : Nat) (f : VFields) (s : State) : KeepsEmber s (execKVabs c t f s) := .onUnit (by simp)
@[simp] theorem execKVneg_keepsEmber (c t : Nat) (f : VFields) (s : State) : KeepsEmber s (execKVneg c t f s) := .onUnit (by simp)
@[simp] theorem execKVdiv_keepsEmber (c t : Nat) (f : VFields) (s : State) : KeepsEmber s (execKVdiv c t f s) := .onUnit (by simp)
@[simp] theorem execKVsqrt_keepsEmber (c t : Nat) (f : VFields) (s : State) : KeepsEmber s (execKVsqrt c t f s) := .onUnit (by simp)
@[simp] theorem execKVadds_keepsEmber (c t : Nat) (f : VFields) (s : State) : KeepsEmber s (execKVadds c t f s) := .onUnit (by simp)
@[simp] theorem execKVmuls_keepsEmber (c t : Nat) (f : VFields) (s : State) : KeepsEmber s (execKVmuls c t f s) := .onUnit (by simp)
@[simp] theorem execKViadd_keepsEmber (c t : Nat) (f : VFields) (s : State) : KeepsEmber s (execKViadd c t f s) := .onUnit (by simp)
@[simp] theorem execKViaddSat_keepsEmber (c t : Nat) (f : VFields) (s : State) : KeepsEmber s (execKViaddSat c t f s) := .onUnit (by simp)
@[simp] theorem execKVisub_keepsEmber (c t : Nat) (f : VFields) (s : State) : KeepsEmber s (execKVisub c t f s) := .onUnit (by simp)
@[simp] theorem execKVisubSat_keepsEmber (c t : Nat) (f : VFields) (s : State) : KeepsEmber s (execKVisubSat c t f s) := .onUnit (by simp)
@[simp] theorem execKVand_keepsEmber (c t : Nat) (f : VFields) (s : State) : KeepsEmber s (execKVand c t f s) := .onUnit (by simp)
@[simp] theorem execKVor_keepsEmber (c t : Nat) (f : VFields) (s : State) : KeepsEmber s (execKVor c t f s) := .onUnit (by simp)
@[simp] theorem execKVxor_keepsEmber (c t : Nat) (f : VFields) (s : State) : KeepsEmber s (execKVxor c t f s) := .onUnit (by simp)
@[simp] theorem execKVshl_keepsEmber (c t : Nat) (f : VFields) (s : State) : KeepsEmber s (execKVshl c t f s) := .onUnit (by simp)
@[simp] theorem execKVshr_keepsEmber (c t : Nat) (f : VFields) (s : State) : KeepsEmber s (execKVshr c t f s) := .onUnit (by simp)
@[simp] theorem execKVsra_keepsEmber (c t : Nat) (f : VFields) (s : State) : KeepsEmber s (execKVsra c t f s) := .onUnit (by simp)
@[simp] theorem execKVexp_keepsEmber (c t : Nat) (f : VFields) (s : State) : KeepsEmber s (execKVexp c t f s) := .onUnit (by simp)
@[simp] theorem execKVlog_keepsEmber (c t : Nat) (f : VFields) (s : State) : KeepsEmber s (execKVlog c t f s) := .onUnit (by simp)
@[simp] theorem execKVrcp_keepsEmber (c t : Nat) (f : VFields) (s : State) : KeepsEmber s (execKVrcp c t f s) := .onUnit (by simp)
@[simp] theorem execKVrsqrt_keepsEmber (c t : Nat) (f : VFields) (s : State) : KeepsEmber s (execKVrsqrt c t f s) := .onUnit (by simp)
@[simp] theorem execKVtanh_keepsEmber (c t : Nat) (f : VFields) (s : State) : KeepsEmber s (execKVtanh c t f s) := .onUnit (by simp)
@[simp] theorem execKVsigm_keepsEmber (c t : Nat) (f : VFields) (s : State) : KeepsEmber s (execKVsigm c t f s) := .onUnit (by simp)
@[simp] theorem execKVdsigm_keepsEmber (c t : Nat) (f : VFields) (s : State) : KeepsEmber s (execKVdsigm c t f s) := .onUnit (by simp)
@[simp] theorem execKVdtanh_keepsEmber (c t : Nat) (f : VFields) (s : State) : KeepsEmber s (execKVdtanh c t f s) := .onUnit (by simp)
@[simp] theorem execKVdrelu_keepsEmber (c t : Nat) (f : VFields) (s : State) : KeepsEmber s (execKVdrelu c t f s) := .onUnit (by simp)
@[simp] theorem execKVdexp_keepsEmber (c t : Nat) (f : VFields) (s : State) : KeepsEmber s (execKVdexp c t f s) := .onUnit (by simp)
@[simp] theorem execKVdsqrt_keepsEmber (c t : Nat) (f : VFields) (s : State) : KeepsEmber s (execKVdsqrt c t f s) := .onUnit (by simp)
@[simp] theorem execKVdrcp_keepsEmber (c t : Nat) (f : VFields) (s : State) : KeepsEmber s (execKVdrcp c t f s) := .onUnit (by simp)
@[simp] theorem execKVdsoftmax_keepsEmber (c t : Nat) (f : VFields) (s : State) : KeepsEmber s (execKVdsoftmax c t f s) := .onUnit (by simp)
@[simp] theorem execKVcmpeq_keepsEmber (c t : Nat) (f : VFields) (s : State) : KeepsEmber s (execKVcmpeq c t f s) := .onUnit (by simp)
@[simp] theorem execKVcmplt_keepsEmber (c t : Nat) (f : VFields) (s : State) : KeepsEmber s (execKVcmplt c t f s) := .onUnit (by simp)
@[simp] theorem execKVcmple_keepsEmber (c t : Nat) (f : VFields) (s : State) : KeepsEmber s (execKVcmple c t f s) := .onUnit (by simp)
@[simp] theorem execKVtestnan_keepsEmber (c t : Nat) (f : VFields) (s : State) : KeepsEmber s (execKVtestnan c t f s) := .onUnit (by simp)
@[simp] theorem execKVtestinf_keepsEmber (c t : Nat) (f : VFields) (s : State) : KeepsEmber s (execKVtestinf c t f s) := .onUnit (by simp)
@[simp] theorem execKVtestfin_keepsEmber (c t : Nat) (f : VFields) (s : State) : KeepsEmber s (execKVtestfin c t f s) := .onUnit (by simp)
@[simp] theorem execKMand_keepsEmber (c t : Nat) (f : VFields) (s : State) : KeepsEmber s (execKMand c t f s) := .onUnit (by simp)
@[simp] theorem execKMor_keepsEmber (c t : Nat) (f : VFields) (s : State) : KeepsEmber s (execKMor c t f s) := .onUnit (by simp)
@[simp] theorem execKMxor_keepsEmber (c t : Nat) (f : VFields) (s : State) : KeepsEmber s (execKMxor c t f s) := .onUnit (by simp)
@[simp] theorem execKMnot_keepsEmber (c t : Nat) (f : VFields) (s : State) : KeepsEmber s (execKMnot c t f s) := .onUnit (by simp)
@[simp] theorem execKMfirst_keepsEmber (c t : Nat) (f : VFields) (s : State) : KeepsEmber s (execKMfirst c t f s) := .onUnit (by simp)
@[simp] theorem execKVrsumRow_keepsEmber (c t : Nat) (f : VFields) (s : State) : KeepsEmber s (execKVrsumRow c t f s) := .onUnit (by simp)
@[simp] theorem execKVrsumCol_keepsEmber (c t : Nat) (f : VFields) (s : State) : KeepsEmber s (execKVrsumCol c t f s) := .onUnit (by simp)
@[simp] theorem execKVrmaxRow_keepsEmber (c t : Nat) (f : VFields) (s : State) : KeepsEmber s (execKVrmaxRow c t f s) := .onUnit (by simp)
@[simp] theorem execKVrmaxCol_keepsEmber (c t : Nat) (f : VFields) (s : State) : KeepsEmber s (execKVrmaxCol c t f s) := .onUnit (by simp)
@[simp] theorem execKVrminRow_keepsEmber (c t : Nat) (f : VFields) (s : State) : KeepsEmber s (execKVrminRow c t f s) := .onUnit (by simp)
@[simp] theorem execKVrminCol_keepsEmber (c t : Nat) (f : VFields) (s : State) : KeepsEmber s (execKVrminCol c t f s) := .onUnit (by simp)
@[simp] theorem execKVcvt_keepsEmber (c t : Nat) (f : VFields) (s : State) : KeepsEmber s (execKVcvt c t f s) := .onUnit (by simp)
@[simp] theorem execKVmov_keepsEmber (c t : Nat) (f : VFields) (s : State) : KeepsEmber s (execKVmov c t f s) := .onUnit (by simp)
@[simp] theorem execKVsel_keepsEmber (c t : Nat) (f : VFields) (s : State) : KeepsEmber s (execKVsel c t f s) := .onUnit (by simp)
@[simp] theorem execKVbcast_keepsEmber (c t : Nat) (f : VFields) (s : State) : KeepsEmber s (execKVbcast c t f s) := .onUnit (by simp)
@[simp] theorem execKVtrans_keepsEmber (c t : Nat) (f : VFields) (s : State) : KeepsEmber s (execKVtrans c t f s) := .onUnit (by simp)
@[simp] theorem execKVextr_keepsEmber (c t : Nat) (f : VFields) (s : State) : KeepsEmber s (execKVextr c t f s) := .onUnit (by simp)
@[simp] theorem execKVins_keepsEmber (c t : Nat) (f : VFields) (s : State) : KeepsEmber s (execKVins c t f s) := .onUnit (by simp)
@[simp] theorem execKVspark_keepsEmber (c t : Nat) (f : VFields) (s : State) : KeepsEmber s (execKVspark c t f s) := .onUnit (by simp)

/-! ### Handlers: allocation -/

@[simp] theorem execKAllocOut_keepsEmber (c t : Nat) (f : RFields) (s : State) : KeepsEmber s (execKAllocOut c t f s) := .onUnit (by simp)
@[simp] theorem execKAllocTmp_keepsEmber (c t : Nat) (f : RFields) (s : State) : KeepsEmber s (execKAllocTmp c t f s) := .onUnit (by simp)
@[simp] theorem execKFreeTmp_keepsEmber (c t : Nat) (f : RFields) (s : State) : KeepsEmber s (execKFreeTmp c t f s) := .onUnit (by simp)

@[simp] theorem execAllocatorAnswer_keepsEmber (c : Nat) (s : State) : KeepsEmber s (execAllocatorAnswer c s) := by
  refine .onUnit ?_
  split <;> simp

@[simp] theorem execStashFrameRetry_keepsEmber (c : Nat) (s : State) : KeepsEmber s (execStashFrameRetry c s) := by
  refine .onUnit ?_
  split <;> simp

@[simp] theorem execKPublish_keepsEmber (c t : Nat) (f : RFields) (s : State) : KeepsEmber s (execKPublish c t f s) := .onUnit (by simp [-modCell_eq])
@[simp] theorem execCellReport_keepsEmber (c : Nat) (s : State) : KeepsEmber s (execCellReport c s) := .onUnit (by simp)

/-! ### Handlers: Bellows -/

@[simp] theorem execKQLoad_keepsEmber (c t : Nat) (f : RFields) (s : State) : KeepsEmber s (execKQLoad c t f s) := .onUnit (by simp)
@[simp] theorem execKQStart_keepsEmber (c t : Nat) (f : RFields) (s : State) : KeepsEmber s (execKQStart c t f s) := .onUnit (by simp [-modCell_eq])
@[simp] theorem execKQStop_keepsEmber (c t : Nat) (f : RFields) (s : State) : KeepsEmber s (execKQStop c t f s) := .onUnit (by simp [-modCell_eq])
@[simp] theorem execKQPopS_keepsEmber (c t : Nat) (f : RFields) (s : State) : KeepsEmber s (execKQPopS c t f s) := .onUnit (by simp)
@[simp] theorem execKQStatus_keepsEmber (c t : Nat) (f : RFields) (s : State) : KeepsEmber s (execKQStatus c t f s) := .onUnit (by simp [-modCell_eq])

@[simp] theorem execBellowsRequest_keepsEmber (c : Nat) (s : State) : KeepsEmber s (execBellowsRequest c s) := by
  refine .onUnit ?_
  dsimp only
  repeat' split
  all_goals simp

@[simp] theorem execBellowsDataReturn_keepsEmber (c id : Nat) (s : State) : KeepsEmber s (execBellowsDataReturn c id s) := by
  refine .onUnit ?_
  split
  · simp [-modCell_eq]
  · rfl

/-! ### Handlers: tiles and masks -/

@[simp] theorem execKVld_keepsEmber (c t : Nat) (f : VMFields) (s : State) : KeepsEmber s (execKVld c t f s) := .onUnit (by simp)
@[simp] theorem execKVldQ_keepsEmber (c t : Nat) (f : VMFields) (s : State) : KeepsEmber s (execKVldQ c t f s) := .onUnit (by simp)
@[simp] theorem execKVst_keepsEmber (c t : Nat) (f : VMFields) (s : State) : KeepsEmber s (execKVst c t f s) := .onUnit (by simp)
@[simp] theorem execKVldm_keepsEmber (c t : Nat) (f : VMFields) (s : State) : KeepsEmber s (execKVldm c t f s) := .onUnit (by simp)
@[simp] theorem execKVstm_keepsEmber (c t : Nat) (f : VMFields) (s : State) : KeepsEmber s (execKVstm c t f s) := .onUnit (by simp)

/-! ### Handlers: Anvil and Tongs -/

@[simp] theorem execKMma_keepsEmber (c t : Nat) (f : XFields) (s : State) : KeepsEmber s (execKMma c t f s) := .onUnit (by simp)
@[simp] theorem execKMmaZ_keepsEmber (c t : Nat) (f : XFields) (s : State) : KeepsEmber s (execKMmaZ c t f s) := .onUnit (by simp)
@[simp] theorem execAnvilChunkLand_keepsEmber (c : Nat) (s : State) : KeepsEmber s (execAnvilChunkLand c s) := .onUnit (by simp)

@[simp] theorem execTongsOperandArrival_keepsEmber (c : Nat) (isB : Bool) (s : State) : KeepsEmber s (execTongsOperandArrival c isB s) := by
  refine .onUnit ?_
  dsimp only
  repeat' split
  all_goals simp

/-! ### Handlers: memory instructions -/

@[simp] theorem execKLd_keepsEmber (c t : Nat) (f : MFields) (s : State) : KeepsEmber s (execKLd c t f s) := .onUnit (by simp)
@[simp] theorem execKLds_keepsEmber (c t : Nat) (f : MFields) (s : State) : KeepsEmber s (execKLds c t f s) := .onUnit (by simp)
@[simp] theorem execKSt_keepsEmber (c t : Nat) (f : MFields) (s : State) : KeepsEmber s (execKSt c t f s) := .onUnit (by simp)
@[simp] theorem execKLdx_keepsEmber (c t : Nat) (f : MFields) (s : State) : KeepsEmber s (execKLdx c t f s) := .onUnit (by simp)
@[simp] theorem execKStx_keepsEmber (c t : Nat) (f : MFields) (s : State) : KeepsEmber s (execKStx c t f s) := .onUnit (by simp)
@[simp] theorem execKAadd_keepsEmber (c t : Nat) (f : MFields) (s : State) : KeepsEmber s (execKAadd c t f s) := .onUnit (by simp)
@[simp] theorem execKAfaddF32_keepsEmber (c t : Nat) (f : MFields) (s : State) : KeepsEmber s (execKAfaddF32 c t f s) := .onUnit (by simp)
@[simp] theorem execKAxs_keepsEmber (c t : Nat) (f : MFields) (s : State) : KeepsEmber s (execKAxs c t f s) := .onUnit (by simp)
@[simp] theorem execKAmin_keepsEmber (c t : Nat) (f : MFields) (s : State) : KeepsEmber s (execKAmin c t f s) := .onUnit (by simp)
@[simp] theorem execKAmax_keepsEmber (c t : Nat) (f : MFields) (s : State) : KeepsEmber s (execKAmax c t f s) := .onUnit (by simp)
@[simp] theorem execKAxchg_keepsEmber (c t : Nat) (f : MFields) (s : State) : KeepsEmber s (execKAxchg c t f s) := .onUnit (by simp)
@[simp] theorem execKAcas_keepsEmber (c t : Nat) (f : MFields) (s : State) : KeepsEmber s (execKAcas c t f s) := .onUnit (by simp)

/-! ### Handlers: operations on objects -/

@[simp] theorem execKFenceThread_keepsEmber (c t : Nat) (f : MFields) (s : State) : KeepsEmber s (execKFenceThread c t f s) := .onUnit (by simp)
@[simp] theorem execKFenceCell_keepsEmber (c t : Nat) (f : MFields) (s : State) : KeepsEmber s (execKFenceCell c t f s) := .onUnit (by simp)
@[simp] theorem execKSyncArrive_keepsEmber (c t : Nat) (f : MFields) (s : State) : KeepsEmber s (execKSyncArrive c t f s) := .onUnit (by simp)
@[simp] theorem execKSyncArm_keepsEmber (c t : Nat) (f : MFields) (s : State) : KeepsEmber s (execKSyncArm c t f s) := .onUnit (by simp)
@[simp] theorem execKSyncReset_keepsEmber (c t : Nat) (f : MFields) (s : State) : KeepsEmber s (execKSyncReset c t f s) := .onUnit (by simp)
@[simp] theorem execKSyncWait_keepsEmber (c t : Nat) (f : MFields) (s : State) : KeepsEmber s (execKSyncWait c t f s) := .onUnit (by simp)
@[simp] theorem execKSyncWaitt_keepsEmber (c t : Nat) (f : MFields) (s : State) : KeepsEmber s (execKSyncWaitt c t f s) := .onUnit (by simp)
@[simp] theorem execKSyncRead_keepsEmber (c t : Nat) (f : MFields) (s : State) : KeepsEmber s (execKSyncRead c t f s) := .onUnit (by simp)

/-! ### Handlers: the Hearth -/

@[simp] theorem execSyncPortUpdate_keepsEmber (i : Nat) (s : State) : KeepsEmber s (execSyncPortUpdate i s) := .onUnit (by simp)

@[simp] theorem execWaittExpiry_keepsEmber (i c t : Nat) (s : State) : KeepsEmber s (execWaittExpiry i c t s) := by
  refine .onUnit_le ?_
  dsimp only
  split
  · split
    · rfl
    · exact le_ember_of_eq (advanceTo_ember_le _ _) (expireObj_ember _ _)
  · rfl

@[simp] theorem execWaitReleaseMessage_keepsEmber (c t : Nat) (s : State) : KeepsEmber s (execWaitReleaseMessage c t s) := by
  refine .onUnit ?_
  split
  · simp [-modCell_eq]
  · rfl

/-! ### Handlers: packets that arrive -/

@[simp] theorem execHearthAtomicApply_keepsEmber (d : Nat) (s : State) : KeepsEmber s (execHearthAtomicApply d s) := by
  refine .onUnit ?_
  dsimp only
  repeat' split
  all_goals simp

@[simp] theorem execZfpRd_keepsEmber (d : Nat) (p : Packet) (s : State) : KeepsEmber s (execZfpRd d p s) := .onUnit (by simp)
@[simp] theorem execZfpWr_keepsEmber (d : Nat) (p : Packet) (s : State) : KeepsEmber s (execZfpWr d p s) := .onUnit (by simp)
@[simp] theorem execZfpAtom_keepsEmber (d : Nat) (p : Packet) (s : State) : KeepsEmber s (execZfpAtom d p s) := .onUnit (by simp)
@[simp] theorem execZfpArrive_keepsEmber (d : Nat) (p : Packet) (s : State) : KeepsEmber s (execZfpArrive d p s) := .onUnit (by simp)
@[simp] theorem execZfpMark_keepsEmber (d : Nat) (p : Packet) (s : State) : KeepsEmber s (execZfpMark d p s) := .onUnit (by simp)
@[simp] theorem execZfpXfer_keepsEmber (d : Nat) (p : Packet) (s : State) : KeepsEmber s (execZfpXfer d p s) := .onUnit (by simp)
@[simp] theorem execZfpCrd_keepsEmber (d : Nat) (p : Packet) (s : State) : KeepsEmber s (execZfpCrd d p s) := .onUnit (by simp)
@[simp] theorem execZfpCrdx_keepsEmber (d : Nat) (p : Packet) (s : State) : KeepsEmber s (execZfpCrdx d p s) := .onUnit (by simp)
@[simp] theorem execZfpCdata_keepsEmber (d : Nat) (p : Packet) (s : State) : KeepsEmber s (execZfpCdata d p s) := .onUnit (by simp)
@[simp] theorem execZfpCrecall_keepsEmber (d : Nat) (p : Packet) (s : State) : KeepsEmber s (execZfpCrecall d p s) := .onUnit (by simp)
@[simp] theorem execZfpCrack_keepsEmber (d : Nat) (p : Packet) (s : State) : KeepsEmber s (execZfpCrack d p s) := .onUnit (by simp)
@[simp] theorem execZfpCwb_keepsEmber (d : Nat) (p : Packet) (s : State) : KeepsEmber s (execZfpCwb d p s) := .onUnit (by simp)
@[simp] theorem execZfpRack_keepsEmber (d : Nat) (p : Packet) (s : State) : KeepsEmber s (execZfpRack d p s) := .onUnit (by simp)
@[simp] theorem execZfpAck_keepsEmber (d : Nat) (p : Packet) (s : State) : KeepsEmber s (execZfpAck d p s) := .onUnit (by simp)
@[simp] theorem execZfpStatus_keepsEmber (d : Nat) (p : Packet) (s : State) : KeepsEmber s (execZfpStatus d p s) := .onUnit (by simp)

/-! ### Handlers: routers and timers -/

@[simp] theorem execZfpRdrsp_keepsEmber (d : Nat) (p : Packet) (s : State) : KeepsEmber s (execZfpRdrsp d p s) := .onUnit (by simp)
@[simp] theorem execZfpAtomrsp_keepsEmber (d : Nat) (p : Packet) (s : State) : KeepsEmber s (execZfpAtomrsp d p s) := .onUnit (by simp)
@[simp] theorem execPacketForward_keepsEmber (d : Nat) (p : Packet) (s : State) : KeepsEmber s (execPacketForward d p s) := .onUnit (by simp)

@[simp] theorem execCombineWindowClose_keepsEmber (d id : Nat) (s : State) : KeepsEmber s (execCombineWindowClose d id s) := by
  refine .onUnit ?_
  split <;> simp

@[simp] theorem execPacketResidencyDrop_keepsEmber (d id : Nat) (s : State) : KeepsEmber s (execPacketResidencyDrop d id s) := by
  refine .onUnit_le ?_
  split
  · exact le_ember_of_eq (advanceTo_ember_le _ _) (modFab_ember ..)
  · rfl

@[simp] theorem execAckPeriodic_keepsEmber (d ch : Nat) (s : State) : KeepsEmber s (execAckPeriodic d ch s) := by
  refine .onUnit ?_
  split
  · simp
  · rfl

@[simp] theorem execChannelResendTimeout_keepsEmber (d ch : Nat) (s : State) : KeepsEmber s (execChannelResendTimeout d ch s) := by
  refine .onUnit_le ?_
  dsimp only
  repeat' split
  all_goals simp [advanceTo_ember_le]

@[simp] theorem execChannelEntryIdleFree_keepsEmber (d ch : Nat) (sending : Bool) (s : State) :
    KeepsEmber s (execChannelEntryIdleFree d ch sending s) := by
  refine .onUnit_le ?_
  repeat' split
  all_goals simp [advanceTo_ember_le, -modFab_eq]

@[simp] theorem execRemoteRequestRetry_keepsEmber (d tag : Nat) (s : State) : KeepsEmber s (execRemoteRequestRetry d tag s) := by
  refine .onUnit_le ?_
  repeat' split
  all_goals simp [advanceTo_ember_le, -modFab_eq]

@[simp] theorem execRemoteRequestTimeout_keepsEmber (d tag : Nat) (s : State) : KeepsEmber s (execRemoteRequestTimeout d tag s) := by
  refine .onUnit_le ?_
  split
  · exact timeOut_ember_le ..
  · rfl

@[simp] theorem execTagQuarantineEnd_keepsEmber (d tag : Nat) (s : State) : KeepsEmber s (execTagQuarantineEnd d tag s) := by
  refine .onUnit_le ?_
  dsimp only
  split
  · rfl
  · simp [advanceTo_ember_le, -modFab_eq]

@[simp] theorem execKeptResultExpiry_keepsEmber (d id : Nat) (s : State) : KeepsEmber s (execKeptResultExpiry d id s) := by
  refine .onUnit_le ?_
  split
  · rfl
  · simp [advanceTo_ember_le, -modFab_eq]

@[simp] theorem execRegionTransfer_keepsEmber (d : Nat) (v : Word) (s : State) : KeepsEmber s (execRegionTransfer d v s) := .onUnit (by simp)
@[simp] theorem execMarkSend_keepsEmber (d : Nat) (v : Word) (s : State) : KeepsEmber s (execMarkSend d v s) := .onUnit (by simp)
@[simp] theorem execMarkReceiveRead_keepsEmber (d : Nat) (s : State) : KeepsEmber s (execMarkReceiveRead d s) := .onUnit (by simp)
@[simp] theorem execPkgidWrite_keepsEmber (v : Word) (s : State) : KeepsEmber s (execPkgidWrite v s) := .next (by simp)

/-! ### Handlers: links -/

@[simp] theorem execLinkRetryDelayExpiry_keepsEmber (l : Nat) (s : State) : KeepsEmber s (execLinkRetryDelayExpiry l s) := by
  refine .onUnit_le ?_
  split
  · simp [advanceTo_ember_le, -modLink_eq]
  · rfl

@[simp] theorem execLinkDetectComplete_keepsEmber (l : Nat) (s : State) : KeepsEmber s (execLinkDetectComplete l s) := by
  refine .onUnit ?_
  dsimp only
  repeat' split
  all_goals simp

@[simp] theorem execLinkTrainComplete_keepsEmber (l : Nat) (s : State) : KeepsEmber s (execLinkTrainComplete l s) := .onUnit (by simp)
@[simp] theorem execLinkAlignComplete_keepsEmber (l : Nat) (s : State) : KeepsEmber s (execLinkAlignComplete l s) := .onUnit (by simp)

@[simp] theorem execLinkNegotiateComplete_keepsEmber (l : Nat) (peer : BitVec 16) (peerLink peerRev peerLanes : Nat) (peerAssigned : Bool)
    (s : State) : KeepsEmber s (execLinkNegotiateComplete l peer peerLink peerRev peerLanes peerAssigned s) := .onUnit (by simp)

@[simp] theorem execLinkStateTimeout_keepsEmber (l : Nat) (lanes : List Nat) (s : State) : KeepsEmber s (execLinkStateTimeout l lanes s) := by
  refine .onUnit_le ?_
  dsimp only
  split
  · rfl
  · simp [advanceTo_ember_le, -modLink_eq]

@[simp] theorem execLinkLoss_keepsEmber (l : Nat) (s : State) : KeepsEmber s (execLinkLoss l s) := .onUnit (by simp)
@[simp] theorem execFlitReceive_keepsEmber (l : Nat) (f : Flit) (s : State) : KeepsEmber s (execFlitReceive l f s) := .onUnit (by simp)
@[simp] theorem execLinkRetrain_keepsEmber (l : Nat) (v : Word) (s : State) : KeepsEmber s (execLinkRetrain l v s) := .onUnit (by simp)
@[simp] theorem execLinkEnable_keepsEmber (l : Nat) (v : Word) (s : State) : KeepsEmber s (execLinkEnable l v s) := .onUnit (by simp)

/-! ### Handlers: commits -/

@[simp] theorem execScrubPatrol_keepsEmber (d : Nat) (found : List Upset) (s : State) : KeepsEmber s (execScrubPatrol d found s) := .onUnit (by simp)

@[simp] theorem execPageMoveDone_keepsEmber (j vpn : Nat) (s : State) : KeepsEmber s (execPageMoveDone j vpn s) := by
  refine .onUnit ?_
  split <;> simp

@[simp] theorem execFrameZeroComplete_keepsEmber (d frame : Nat) (s : State) : KeepsEmber s (execFrameZeroComplete d frame s) := .onUnit (by simp)

@[simp] theorem execItemCommit_keepsEmber (j i : Nat) (s : State) : KeepsEmber s (execItemCommit j i s) := by
  refine .onUnit ?_
  dsimp only
  repeat' split
  all_goals simp

@[simp] theorem execItemDone_keepsEmber (j i : Nat) (s : State) : KeepsEmber s (execItemDone j i s) := by
  refine .onUnit ?_
  split
  · rfl
  · simp

@[simp] theorem execPublicationFold_keepsEmber (j k : Nat) (s : State) : KeepsEmber s (execPublicationFold j k s) := by
  refine .onUnit ?_
  dsimp only
  repeat' split
  all_goals simp

/-! ### Handlers: the update engine -/

@[simp] theorem execULdf_keepsEmber (d : Nat) (f : UFields) (s : State) : KeepsEmber s (execULdf d f s) := by
  refine .updInstr fun r i sh p => ?_
  dsimp only
  split
  · exact engineFault_ember ..
  · split
    · split
      · exact engineWrite_ember ‹_›
      · exact engineFault_ember ..
    · rfl

@[simp] theorem execUStf_keepsEmber (d : Nat) (f : UFields) (s : State) : KeepsEmber s (execUStf d f s) := by
  refine .updInstr fun r i sh p => ?_
  dsimp only
  split
  · exact engineFault_ember ..
  · repeat' split
    · simp
    · simp
    · simp
    · exact engineWrite_ember ‹_›
    · exact engineFault_ember ..

@[simp] theorem execULdc_keepsEmber (d : Nat) (f : UFields) (s : State) : KeepsEmber s (execULdc d f s) := .updMap
@[simp] theorem execULdk_keepsEmber (d : Nat) (f : UFields) (s : State) : KeepsEmber s (execULdk d f s) := .updInstr fun _ _ _ _ => rfl
@[simp] theorem execUFadd_keepsEmber (d : Nat) (f : UFields) (s : State) : KeepsEmber s (execUFadd d f s) := .updMap
@[simp] theorem execUFsub_keepsEmber (d : Nat) (f : UFields) (s : State) : KeepsEmber s (execUFsub d f s) := .updMap
@[simp] theorem execUFmul_keepsEmber (d : Nat) (f : UFields) (s : State) : KeepsEmber s (execUFmul d f s) := .updMap
@[simp] theorem execUFma_keepsEmber (d : Nat) (f : UFields) (s : State) : KeepsEmber s (execUFma d f s) := .updMap
@[simp] theorem execUFdiv_keepsEmber (d : Nat) (f : UFields) (s : State) : KeepsEmber s (execUFdiv d f s) := .updMap
@[simp] theorem execUFsqrt_keepsEmber (d : Nat) (f : UFields) (s : State) : KeepsEmber s (execUFsqrt d f s) := .updMap
@[simp] theorem execUFmin_keepsEmber (d : Nat) (f : UFields) (s : State) : KeepsEmber s (execUFmin d f s) := .updMap
@[simp] theorem execUFmax_keepsEmber (d : Nat) (f : UFields) (s : State) : KeepsEmber s (execUFmax d f s) := .updMap
@[simp] theorem execUFabs_keepsEmber (d : Nat) (f : UFields) (s : State) : KeepsEmber s (execUFabs d f s) := .updMap
@[simp] theorem execUFneg_keepsEmber (d : Nat) (f : UFields) (s : State) : KeepsEmber s (execUFneg d f s) := .updMap
@[simp] theorem execUFcmplt_keepsEmber (d : Nat) (f : UFields) (s : State) : KeepsEmber s (execUFcmplt d f s) := .updMap
@[simp] theorem execUFcmpeq_keepsEmber (d : Nat) (f : UFields) (s : State) : KeepsEmber s (execUFcmpeq d f s) := .updMap
@[simp] theorem execUSel_keepsEmber (d : Nat) (f : UFields) (s : State) : KeepsEmber s (execUSel d f s) := .updMap
@[simp] theorem execUFtestfin_keepsEmber (d : Nat) (f : UFields) (s : State) : KeepsEmber s (execUFtestfin d f s) := .updMap
@[simp] theorem execUBsum_keepsEmber (d : Nat) (f : UFields) (s : State) : KeepsEmber s (execUBsum d f s) := .updInstr fun _ _ _ _ => rfl
@[simp] theorem execUBmax_keepsEmber (d : Nat) (f : UFields) (s : State) : KeepsEmber s (execUBmax d f s) := .updInstr fun _ _ _ _ => rfl

@[simp] theorem execUpdItemLaunch_keepsEmber (d j i : Nat) (s : State) : KeepsEmber s (execUpdItemLaunch d j i s) := by
  refine .onUnit ?_
  dsimp only
  repeat' split
  · rfl
  · rfl
  · rfl
  · next h => simpa using stageShards_ember h

@[simp] theorem execUpdItemEnd_keepsEmber (d : Nat) (s : State) : KeepsEmber s (execUpdItemEnd d s) := by
  refine .onUnit ?_
  repeat' split
  all_goals simp

/-! ### Handlers: fetches and scrubs -/

@[simp] theorem execParamFetchStart_keepsEmber (d j i : Nat) (s : State) : KeepsEmber s (execParamFetchStart d j i s) := by
  refine .onUnit ?_
  dsimp only
  repeat' split
  all_goals simp

@[simp] theorem execParamFetchComplete_keepsEmber (d : Nat) (received : List Byte) (s : State) :
    KeepsEmber s (execParamFetchComplete d received s) := by
  refine .onUnit ?_
  split
  · rfl
  · split
    · split
      · rfl
      · split
        · simp
        · simp
    · rfl

@[simp] theorem execDigestScrub_keepsEmber (d j : Nat) (s : State) : KeepsEmber s (execDigestScrub d j s) := .onUnit (by simp)

@[simp] theorem execExportRecordWritten_keepsEmber (j : Nat) (s : State) : KeepsEmber s (execExportRecordWritten j s) := by
  refine .onUnit ?_
  dsimp only
  split
  · rfl
  · split
    · split
      · rfl
      · split
        · simp
        · rfl
        · next h =>
          rw [sweepVersions_ember, setOutcome_ember]
          have := engineWrite_ember h
          split <;> simpa using this
    · rfl

/-! ### Handlers: resharding and transitions -/

@[simp] theorem execReshardDescriptorComplete_keepsEmber (d k : Nat) (s : State) : KeepsEmber s (execReshardDescriptorComplete d k s) := by
  refine .onUnit ?_
  split
  · rfl
  · split
    · rfl
    · split
      · simp
      · repeat' split
        all_goals simp

@[simp] theorem execTransitionStart_keepsEmber (d : Nat) (s : State) : KeepsEmber s (execTransitionStart d s) := by
  refine .onUnit ?_
  dsimp only
  repeat' split
  all_goals simp

@[simp] theorem execEpochArrived_keepsEmber (j : Nat) (s : State) : KeepsEmber s (execEpochArrived j s) := by
  refine .onUnit ?_
  dsimp only
  repeat' split
  all_goals simp

@[simp] theorem execEpochActivationSend_keepsEmber (j : Nat) (s : State) : KeepsEmber s (execEpochActivationSend j s) := by
  refine .onUnit ?_
  dsimp only
  split
  · rfl
  · rw [foldl_lodgeArrive_ember, armNext_ember]

@[simp] theorem execEpochActivate_keepsEmber (j : Nat) (s : State) : KeepsEmber s (execEpochActivate j s) := by
  refine .onUnit ?_
  dsimp only
  repeat' split
  all_goals simp

/-! ### Handlers: slots of a channel -/

@[simp] theorem execSlotSend_keepsEmber (c p : Nat) (s : State) : KeepsEmber s (execSlotSend c p s) := by
  refine .onUnit ?_
  dsimp only
  repeat' split
  all_goals simp

@[simp] theorem execSlotLand_keepsEmber (c p : Nat) (s : State) : KeepsEmber s (execSlotLand c p s) := by
  refine .onUnit ?_
  dsimp only
  repeat' split
  all_goals simp

@[simp] theorem execCreditReturn_keepsEmber (c p : Nat) (s : State) : KeepsEmber s (execCreditReturn c p s) := .onUnit (by simp)

/-! ### Handlers: the vertical port -/

@[simp] theorem execVerticalBeatCrcFail_keepsEmber (c : Nat) (s : State) : KeepsEmber s (execVerticalBeatCrcFail c s) := .onUnit (by simp)

@[simp] theorem execLaneTest_keepsEmber (c : Nat) (failing : List (Nat × Nat)) (s : State) : KeepsEmber s (execLaneTest c failing s) :=
  .onUnit (by simp)

@[simp] theorem execSpareJournalRecord_keepsEmber (c : Nat) (s : State) : KeepsEmber s (execSpareJournalRecord c s) := by
  refine .onUnit ?_
  split
  · rfl
  · simp [-modCell_eq]

/-! ### Handlers: dispatch -/

@[simp] theorem execDNop_keepsEmber (p : Nat) (f : DFields) (s : State) : KeepsEmber s (execDNop p f s) := .onUnit (by simp)
@[simp] theorem execDAdd_keepsEmber (p : Nat) (f : DFields) (s : State) : KeepsEmber s (execDAdd p f s) := .onUnit (by simp)
@[simp] theorem execDAddi_keepsEmber (p : Nat) (f : DFields) (s : State) : KeepsEmber s (execDAddi p f s) := .onUnit (by simp)
@[simp] theorem execDSub_keepsEmber (p : Nat) (f : DFields) (s : State) : KeepsEmber s (execDSub p f s) := .onUnit (by simp)
@[simp] theorem execDAndi_keepsEmber (p : Nat) (f : DFields) (s : State) : KeepsEmber s (execDAndi p f s) := .onUnit (by simp)
@[simp] theorem execDOr_keepsEmber (p : Nat) (f : DFields) (s : State) : KeepsEmber s (execDOr p f s) := .onUnit (by simp)
@[simp] theorem execDShli_keepsEmber (p : Nat) (f : DFields) (s : State) : KeepsEmber s (execDShli p f s) := .onUnit (by simp)
@[simp] theorem execDShri_keepsEmber (p : Nat) (f : DFields) (s : State) : KeepsEmber s (execDShri p f s) := .onUnit (by simp)
@[simp] theorem execDMuli_keepsEmber (p : Nat) (f : DFields) (s : State) : KeepsEmber s (execDMuli p f s) := .onUnit (by simp)

@[simp] theorem execDLdt_keepsEmber (p : Nat) (f : DFields) (s : State) : KeepsEmber s (execDLdt p f s) := by
  refine .onDispatch ?_
  dsimp only
  split
  all_goals simp

@[simp] theorem execDLds_keepsEmber (p : Nat) (f : DFields) (s : State) : KeepsEmber s (execDLds p f s) := .onUnit (by simp)
@[simp] theorem execDSts_keepsEmber (p : Nat) (f : DFields) (s : State) : KeepsEmber s (execDSts p f s) := .onUnit (by simp)
@[simp] theorem execDBeq_keepsEmber (p : Nat) (f : DFields) (s : State) : KeepsEmber s (execDBeq p f s) := .onUnit (by simp)
@[simp] theorem execDBne_keepsEmber (p : Nat) (f : DFields) (s : State) : KeepsEmber s (execDBne p f s) := .onUnit (by simp)
@[simp] theorem execDBltu_keepsEmber (p : Nat) (f : DFields) (s : State) : KeepsEmber s (execDBltu p f s) := .onUnit (by simp)
@[simp] theorem execDJmp_keepsEmber (p : Nat) (f : DFields) (s : State) : KeepsEmber s (execDJmp p f s) := .onUnit (by simp)
@[simp] theorem execDHalt_keepsEmber (p : Nat) (f : DFields) (s : State) : KeepsEmber s (execDHalt p f s) := .onUnit (by simp)
@[simp] theorem execDKindle_keepsEmber (p : Nat) (f : DFields) (s : State) : KeepsEmber s (execDKindle p f s) := .onUnit (by simp)

@[simp] theorem execDNext_keepsEmber (p : Nat) (f : DFields) (s : State) : KeepsEmber s (execDNext p f s) := by
  refine .onDispatch ?_
  repeat' split
  all_goals simp

@[simp] theorem execDArg_keepsEmber (p : Nat) (f : DFields) (s : State) : KeepsEmber s (execDArg p f s) := .onUnit (by simp)

@[simp] theorem execNextResume_keepsEmber (p : Nat) (s : State) : KeepsEmber s (execNextResume p s) := by
  refine .onUnit ?_
  split
  · split
    · rfl
    · split
      · simp
      · rfl
  · split
    · simp
    · rfl
  · rfl

@[simp] theorem execDLaunch_keepsEmber (p : Nat) (f : DFields) (s : State) : KeepsEmber s (execDLaunch p f s) := by
  refine .onDispatch ?_
  dsimp only
  repeat' split
  all_goals simp

@[simp] theorem execThread0Start_keepsEmber (p b : Nat) (s : State) : KeepsEmber s (execThread0Start p b s) := by
  refine .onUnit ?_
  dsimp only
  repeat' split
  all_goals simp

@[simp] theorem execKindleComplete_keepsEmber (p : Nat) (s : State) : KeepsEmber s (execKindleComplete p s) := by
  refine .onUnit ?_
  dsimp only
  repeat' split
  all_goals simp

@[simp] theorem execPavilionGate_keepsEmber (p : Nat) (s : State) : KeepsEmber s (execPavilionGate p s) := by
  refine .onUnit_le ?_
  dsimp only
  split
  · rfl
  · exact le_ember_of_eq (advanceTo_ember_le _ _) (modPav_ember ..)

@[simp] theorem execPavilionOff_keepsEmber (p : Nat) (s : State) : KeepsEmber s (execPavilionOff p s) := by
  refine .onUnit_le ?_
  dsimp only
  split
  · rfl
  · rw [modPav_ember]
    split
    · rfl
    · exact advanceTo_ember_le ..

@[simp] theorem execDStat_keepsEmber (p : Nat) (f : DFields) (s : State) : KeepsEmber s (execDStat p f s) := .onUnit (by simp)

/-! ### Handlers: migration -/

@[simp] theorem execDMigrate_keepsEmber (p : Nat) (f : DFields) (s : State) : KeepsEmber s (execDMigrate p f s) := by
  refine .onDispatch ?_
  dsimp only
  split
  · simp
  · split
    · next h => rw [dWrite_ember, requestMigration_ember h]
    · simp

@[simp] theorem execMigrationEndMarker_keepsEmber (j n port : Nat) (s : State) : KeepsEmber s (execMigrationEndMarker j n port s) :=
  .onUnit (onMig_ember _ _ _ _ fun _ => by simp)

@[simp] theorem execMigrationMoveMarker_keepsEmber (j n port : Nat) (s : State) : KeepsEmber s (execMigrationMoveMarker j n port s) :=
  .onUnit (onMig_ember _ _ _ _ fun _ => by simp)

@[simp] theorem execMigrationComplete_keepsEmber (j n : Nat) (s : State) : KeepsEmber s (execMigrationComplete j n s) :=
  .onUnit (onMig_ember _ _ _ _ fun _ => by simp)

/-! ### Handlers: queues -/

@[simp] theorem execTailWrite_keepsEmber (q : QueueId) (v : Word) (hw : List HostWrite) (s : State) : KeepsEmber s (execTailWrite q v hw s) :=
  .onUnit (by simp)

@[simp] theorem execCqheadWrite_keepsEmber (q : QueueId) (v : Word) (s : State) : KeepsEmber s (execCqheadWrite q v s) := .onUnit (by simp)
@[simp] theorem execQueueEnable_keepsEmber (q : QueueId) (v : Word) (s : State) : KeepsEmber s (execQueueEnable q v s) := .onUnit (by simp)
@[simp] theorem execQueueDisable_keepsEmber (q : QueueId) (v : Word) (s : State) : KeepsEmber s (execQueueDisable q v s) := .onUnit (by simp)
@[simp] theorem execQueueEntryAccept_keepsEmber (q : QueueId) (s : State) : KeepsEmber s (execQueueEntryAccept q s) := .onUnit (by simp)

@[simp] theorem execCompletionWrite_keepsEmber (q : QueueId) (s : State) : KeepsEmber s (execCompletionWrite q s) := by
  refine .onUnit ?_
  dsimp only
  repeat' split
  all_goals simp

@[simp] theorem execQueueNop_keepsEmber (q : QueueId) (s : State) : KeepsEmber s (execQueueNop q s) := .onEntry fun _ => setOutcome_ember ..

@[simp] theorem execLoadImage_keepsEmber (sects : JobImage) (s : State) : KeepsEmber s (execLoadImage sects s) := by
  refine .onEntry fun e => ?_
  dsimp only
  repeat' split
  · rfl
  · simp
  · simp [execLoadImage.report_]
  · next h => simp [loadChecks_ember h]

@[simp] theorem execUnloadEntry_keepsEmber (s : State) : KeepsEmber s (execUnloadEntry s) := by
  refine .onEntry fun e => ?_
  dsimp only
  repeat' split
  all_goals simp

@[simp] theorem execUnloadComplete_keepsEmber (j : Nat) (s : State) : KeepsEmber s (execUnloadComplete j s) := by
  refine .onUnit ?_
  dsimp only
  repeat' split
  all_goals simp

@[simp] theorem execStepEntry_keepsEmber (q : QueueId) (s : State) : KeepsEmber s (execStepEntry q s) := by
  refine .onEntry fun e => ?_
  repeat' split
  all_goals simp

@[simp] theorem execExportEntry_keepsEmber (q : QueueId) (s : State) : KeepsEmber s (execExportEntry q s) := by
  refine .onEntry fun e => ?_
  dsimp only
  repeat' split
  all_goals simp

@[simp] theorem execImportEntry_keepsEmber (q : QueueId) (s : State) : KeepsEmber s (execImportEntry q s) := by
  refine .onEntry fun e => ?_
  dsimp only
  repeat' split
  all_goals simp

/-! ### Handlers: resets -/

@[simp] theorem execResetPackage_keepsEmber (v : Word) (s : State) : KeepsEmber s (execResetPackage v s) := .next (by simp)
@[simp] theorem execResetStack_keepsEmber (v : Word) (s : State) : KeepsEmber s (execResetStack v s) := .next (by simp)
@[simp] theorem execResetComputeDie_keepsEmber (v : Word) (s : State) : KeepsEmber s (execResetComputeDie v s) := .next (by simp)
@[simp] theorem execResetPavilion_keepsEmber (v : Word) (s : State) : KeepsEmber s (execResetPavilion v s) := .next (by simp)
@[simp] theorem execResetLink_keepsEmber (v : Word) (s : State) : KeepsEmber s (execResetLink v s) := .next (by simp)
@[simp] theorem execStoreDieSelfFault_keepsEmber (d : Nat) (s : State) : KeepsEmber s (execStoreDieSelfFault d s) := .onUnit (by simp)
@[simp] theorem execComputeDieSelfFault_keepsEmber (d : Nat) (s : State) : KeepsEmber s (execComputeDieSelfFault d s) := .onUnit (by simp)

@[simp] theorem execStackDrainEnd_keepsEmber (d aborted : Nat) (s : State) : KeepsEmber s (execStackDrainEnd d aborted s) := by
  refine .onUnit_le ?_
  repeat' split
  all_goals simp [advanceTo_ember_le]

@[simp] theorem execStackHoldTimeout_keepsEmber (d : Nat) (s : State) : KeepsEmber s (execStackHoldTimeout d s) := by
  refine .onUnit_le ?_
  split
  · exact le_ember_of_eq (advanceTo_ember_le _ _) (failSafe_ember ..)
  · rfl

@[simp] theorem execStackReinitComplete_keepsEmber (d : Nat) (ok : Bool) (hbmOk : List Bool) (s : State) :
    KeepsEmber s (execStackReinitComplete d ok hbmOk s) := by
  refine .onUnit_le ?_
  dsimp only
  split
  · rfl
  · repeat' split
    all_goals simp [advanceTo_ember_le]

@[simp] theorem execHbmReinitComplete_keepsEmber (h : Nat) (ok : Bool) (s : State) : KeepsEmber s (execHbmReinitComplete h ok s) := .onUnit (by simp)

@[simp] theorem execPavilionResetHalt_keepsEmber (p : Nat) (s : State) : KeepsEmber s (execPavilionResetHalt p s) := by
  refine .onUnit_le ?_
  dsimp only
  split
  · rfl
  · simp [advanceTo_ember]

@[simp] theorem execFailsafeEnter_keepsEmber (v : Word) (s : State) : KeepsEmber s (execFailsafeEnter v s) := .next (by simp)
@[simp] theorem execLodgeWatchdogExpiry_keepsEmber (s : State) : KeepsEmber s (execLodgeWatchdogExpiry s) := .next (by simp)
@[simp] theorem execLodgeStateUncorrectable_keepsEmber (s : State) : KeepsEmber s (execLodgeStateUncorrectable s) := .next (by simp)

/-! ### Handlers: power -/

@[simp] theorem execPowerGoodRise_keepsEmber (r : Rail) (s : State) : KeepsEmber s (execPowerGoodRise r s) := .onUnit (by simp)
@[simp] theorem execPowerDownRequest_keepsEmber (s : State) : KeepsEmber s (execPowerDownRequest s) := .next (by simp)

@[simp] theorem execPowerDownStepTimer_keepsEmber (s : State) : KeepsEmber s (execPowerDownStepTimer s) := by
  refine .next_le ?_
  split
  · exact le_ember_of_eq (advanceTo_ember_le _ _) (deassertNext_ember ..)
  · rfl

@[simp] theorem execPowerGoodFall_keepsEmber (r : Rail) (s : State) : KeepsEmber s (execPowerGoodFall r s) := .onUnit (by simp)

@[simp] theorem execPowerGoodTimeout_keepsEmber (r : Rail) (s : State) : KeepsEmber s (execPowerGoodTimeout r s) := by
  refine .onUnit_le ?_
  split
  · exact le_ember_of_eq (advanceTo_ember_le _ _) (railFault_ember ..)
  · rfl

@[simp] theorem execRailOutOfTolerance_keepsEmber (s : State) : KeepsEmber s (execRailOutOfTolerance s) := by
  refine .next_le ?_
  split
  · exact le_ember_of_eq (passTicks_ember_le _ _) (railFault_ember ..)
  · rfl

@[simp] theorem execPowerUpRequest_keepsEmber (s : State) : KeepsEmber s (execPowerUpRequest s) := by
  refine .next_le ?_
  dsimp only
  split
  · rw [advanceRows_ember, enterRow_ember]
    refine (Nat.le_of_eq ?_).trans (passTicks_ember_le _ 2500)
    rfl
  · split
    · simp
    · rfl

@[simp] theorem execRefclkLoss_keepsEmber (k : RefClk) (s : State) : KeepsEmber s (execRefclkLoss k s) := by
  refine .onUnit_le ?_
  split
  · rfl
  · refine le_ember_of_eq (passTicks_ember_le _ 50) ?_
    dsimp only
    split <;> simp

@[simp] theorem execRefclkReturn_keepsEmber (k : RefClk) (s : State) : KeepsEmber s (execRefclkReturn k s) := .onUnit (by simp)

@[simp] theorem execSleepEntry_keepsEmber (s : State) : KeepsEmber s (execSleepEntry s) := by
  refine .next_le ?_
  split
  · refine ((advanceTo_ember_le s (max s.pwr.idleSince s.hdmAt + s.pwr.sleepTicks)).trans (passTicks_ember_le _ 2500)).trans (Nat.le_of_eq ?_)
    simp [-modPav_eq]
  · rfl

@[simp] theorem execSleepExit_keepsEmber (s : State) : KeepsEmber s (execSleepExit s) := by
  refine .next_le ?_
  split
  · exact wake_ember_le ..
  · rfl

@[simp] theorem execSleepExitComplete_keepsEmber (s : State) : KeepsEmber s (execSleepExitComplete s) := .next (by simp)

@[simp] theorem execThrottlePeriod_keepsEmber (m : PowerRead) (s : State) : KeepsEmber s (execThrottlePeriod m s) := by
  refine .next_le ?_
  split
  · refine le_ember_of_eq (advanceTo_ember_le _ (s.pwr.throttleAt + 25)) ?_
    simp [-modHbm_eq]
  · rfl

@[simp] theorem execOverCurrent_keepsEmber (d : Nat) (s : State) : KeepsEmber s (execOverCurrent d s) := .onUnit (by simp)
@[simp] theorem execProchotChange_keepsEmber (high : Bool) (s : State) : KeepsEmber s (execProchotChange high s) := .next (by simp)

@[simp] theorem execThermalTrip_keepsEmber (hbm : Bool) (idx temp : Nat) (s : State) : KeepsEmber s (execThermalTrip hbm idx temp s) :=
  .onUnit (by simp)

/-! ### Handlers: host memory and modules -/

@[simp] theorem execUcieCrcError_keepsEmber (u lane : Nat) (retrain : Bool) (s : State) : KeepsEmber s (execUcieCrcError u lane retrain s) :=
  .onUnit (by simp)

@[simp] theorem execUcieTrainingRetry_keepsEmber (trained : List Nat) (s : State) : KeepsEmber s (execUcieTrainingRetry trained s) := by
  refine .next_le ?_
  split
  · exact le_ember_of_eq (passTicks_ember_le _ _) (trainModules_ember ..)
  · rfl

@[simp] theorem execHdmRead_keepsEmber (a : Nat) (s : State) : KeepsEmber s (execHdmRead a s) := by
  refine .next_le ?_
  dsimp only
  repeat' split
  all_goals simp [hdmWake_ember_le]

@[simp] theorem execHdmWrite_keepsEmber (a : Nat) (l : List Byte) (s : State) : KeepsEmber s (execHdmWrite a l s) := by
  refine .next_le ?_
  dsimp only
  repeat' split
  all_goals simp [hdmWake_ember_le]

@[simp] theorem execHostSyncRead_keepsEmber (off size : Nat) (s : State) : KeepsEmber s (execHostSyncRead off size s) := .next (by simp)

@[simp] theorem execSyncWindowWrite_keepsEmber (off _size : Nat) (_v : Word) (s : State) : KeepsEmber s (execSyncWindowWrite off _size _v s) :=
  .next (by simp)

@[simp] theorem execSyncopArrive_keepsEmber (d : Nat) (v : Word) (hw : List HostWrite) (s : State) : KeepsEmber s (execSyncopArrive d v hw s) :=
  .onUnit (by simp)

@[simp] theorem execSyncopArm_keepsEmber (d : Nat) (v : Word) (hw : List HostWrite) (s : State) : KeepsEmber s (execSyncopArm d v hw s) :=
  .onUnit (by simp)

@[simp] theorem execSyncopReset_keepsEmber (d : Nat) (v : Word) (hw : List HostWrite) (s : State) : KeepsEmber s (execSyncopReset d v hw s) :=
  .onUnit (by simp)

@[simp] theorem execSyncopSetevt_keepsEmber (d : Nat) (v : Word) (hw : List HostWrite) (s : State) : KeepsEmber s (execSyncopSetevt d v hw s) :=
  .onUnit (by simp)

@[simp] theorem execSyncopClrevt_keepsEmber (d : Nat) (v : Word) (hw : List HostWrite) (s : State) : KeepsEmber s (execSyncopClrevt d v hw s) :=
  .onUnit (by simp)

/-! ### Handlers: boot and enrolment -/

@[simp] theorem execColdBoot_keepsEmber (trained : List Nat) (s : State) : KeepsEmber s (execColdBoot trained s) := .next (by simp)
@[simp] theorem execBootGo_keepsEmber (v : Word) (s : State) : KeepsEmber s (execBootGo v s) := .next (by simp)

@[simp] theorem execImageVerifyComplete_keepsEmber (readOk verifies : Bool) (s : State) : KeepsEmber s (execImageVerifyComplete readOk verifies s) :=
  .next (by simp)

@[simp] theorem execNonceDraw_keepsEmber (s : State) : KeepsEmber s (execNonceDraw s) := .next (by simp)
@[simp] theorem execEnrollAdd_keepsEmber (verifies : Bool) (s : State) : KeepsEmber s (execEnrollAdd verifies s) := .next (by simp)
@[simp] theorem execEnrollRemove_keepsEmber (verifies : Bool) (s : State) : KeepsEmber s (execEnrollRemove verifies s) := .next (by simp)
@[simp] theorem execEnrollRelease_keepsEmber (verifies : Bool) (s : State) : KeepsEmber s (execEnrollRelease verifies s) := .next (by simp)
@[simp] theorem execDebugUnlock_keepsEmber (verifies : Bool) (s : State) : KeepsEmber s (execDebugUnlock verifies s) := .next (by simp)

/-! ### Handlers: attestation -/

@[simp] theorem execSpdmGetVersion_keepsEmber (s : State) : KeepsEmber s (execSpdmGetVersion s) := .next (by simp)
@[simp] theorem execSpdmGetCapabilities_keepsEmber (s : State) : KeepsEmber s (execSpdmGetCapabilities s) := .next (by simp)

@[simp] theorem execSpdmNegotiateAlgorithms_keepsEmber (asym hash : BitVec 32) (s : State) : KeepsEmber s (execSpdmNegotiateAlgorithms asym hash s) :=
  .next (by simp)

@[simp] theorem execSpdmGetDigests_keepsEmber (s : State) : KeepsEmber s (execSpdmGetDigests s) := .next (by simp)

@[simp] theorem execSpdmGetCertificate_keepsEmber (slot off len : Nat) (s : State) : KeepsEmber s (execSpdmGetCertificate slot off len s) :=
  .next (by simp)

@[simp] theorem execSpdmChallenge_keepsEmber (slot : Nat) (nonce : BitVec 256) (s : State) : KeepsEmber s (execSpdmChallenge slot nonce s) :=
  .next (by simp)

@[simp] theorem execSpdmGetMeasurements_keepsEmber (index : Nat) (sign : Bool) (nonce : BitVec 256) (s : State) :
    KeepsEmber s (execSpdmGetMeasurements index sign nonce s) := by
  refine .next ?_
  dsimp only
  repeat' split
  all_goals simp

@[simp] theorem execSpdmUnsupportedRequest_keepsEmber (code : BitVec 8) (s : State) : KeepsEmber s (execSpdmUnsupportedRequest code s) :=
  .next (by simp)

/-! ### Handlers: events -/

@[simp] theorem execEventRoute_keepsEmber (s : State) : KeepsEmber s (execEventRoute s) := .next (by simp)
@[simp] theorem execEventPendClear_keepsEmber (i : Nat) (v : Word) (s : State) : KeepsEmber s (execEventPendClear i v s) := .onUnit (by simp)
@[simp] theorem execEventSetp_keepsEmber (i : Nat) (v : Word) (s : State) : KeepsEmber s (execEventSetp i v s) := .onUnit (by simp)
@[simp] theorem execEventEoi_keepsEmber (t : Nat) (v : Word) (s : State) : KeepsEmber s (execEventEoi t v s) := .onUnit (by simp)

/-! ### Handlers: Quench -/

@[simp] theorem execKAzero_keepsEmber (c t : Nat) (f : QFields) (s : State) : KeepsEmber s (execKAzero c t f s) :=
    .onUnit (issueQ_ember _ _ _ _ _ _ fun _ _ => modCell_ember ..)

@[simp] theorem execKApreload_keepsEmber (c t : Nat) (f : QFields) (s : State) : KeepsEmber s (execKApreload c t f s) :=
  .onUnit (by simp [-modCell_eq])

@[simp] theorem execKQuench_keepsEmber (c t : Nat) (f : QFields) (s : State) : KeepsEmber s (execKQuench c t f s) := .onUnit (by simp)
@[simp] theorem execKQuenchReset_keepsEmber (c t : Nat) (f : QFields) (s : State) : KeepsEmber s (execKQuenchReset c t f s) := .onUnit (by simp)
@[simp] theorem execKQuenchPreload_keepsEmber (c t : Nat) (f : QFields) (s : State) : KeepsEmber s (execKQuenchPreload c t f s) := .onUnit (by simp)

@[simp] theorem execQuenchReadStart_keepsEmber (c : Nat) (s : State) : KeepsEmber s (execQuenchReadStart c s) := by
  refine .onUnit ?_
  dsimp only
  repeat' split
  all_goals simp

@[simp] theorem execQuenchReadDone_keepsEmber (c : Nat) (s : State) : KeepsEmber s (execQuenchReadDone c s) := by
  refine .onUnit ?_
  dsimp only
  repeat' split
  all_goals simp

/-! ### Handlers: Temper -/

@[simp] theorem execTemperPass_keepsEmber (reads : List TemperRead) (s : State) : KeepsEmber s (execTemperPass reads s) := by
  refine .next_le ?_
  split
  · refine le_ember_of_eq (advanceTo_ember_le _ (s.temperAt + s.period * 2 ^ 25)) ?_
    simp
  · rfl

/-! ### Handlers: register blocks written -/

@[simp] theorem execRegisterWrite_keepsEmber (off size : Nat) (v : Word) (s : State) : KeepsEmber s (execRegisterWrite off size v s) :=
  .next (by simp)

/-! ### Handlers: register blocks read -/

@[simp] theorem execRegisterRead_keepsEmber (off size : Nat) (s : State) : KeepsEmber s (execRegisterRead off size s) := .next (by simp)

/-! ### Handlers: scalar instructions -/

@[simp] theorem execKAdd_keepsEmber (c t : Nat) (f : RFields) (s : State) : KeepsEmber s (execKAdd c t f s) := .onUnit (by simp)
@[simp] theorem execKSub_keepsEmber (c t : Nat) (f : RFields) (s : State) : KeepsEmber s (execKSub c t f s) := .onUnit (by simp)
@[simp] theorem execKMul_keepsEmber (c t : Nat) (f : RFields) (s : State) : KeepsEmber s (execKMul c t f s) := .onUnit (by simp)
@[simp] theorem execKMulh_keepsEmber (c t : Nat) (f : RFields) (s : State) : KeepsEmber s (execKMulh c t f s) := .onUnit (by simp)
@[simp] theorem execKMulhu_keepsEmber (c t : Nat) (f : RFields) (s : State) : KeepsEmber s (execKMulhu c t f s) := .onUnit (by simp)
@[simp] theorem execKDiv_keepsEmber (c t : Nat) (f : RFields) (s : State) : KeepsEmber s (execKDiv c t f s) := .onUnit (by simp)
@[simp] theorem execKDivu_keepsEmber (c t : Nat) (f : RFields) (s : State) : KeepsEmber s (execKDivu c t f s) := .onUnit (by simp)
@[simp] theorem execKRem_keepsEmber (c t : Nat) (f : RFields) (s : State) : KeepsEmber s (execKRem c t f s) := .onUnit (by simp)
@[simp] theorem execKRemu_keepsEmber (c t : Nat) (f : RFields) (s : State) : KeepsEmber s (execKRemu c t f s) := .onUnit (by simp)
@[simp] theorem execKAnd_keepsEmber (c t : Nat) (f : RFields) (s : State) : KeepsEmber s (execKAnd c t f s) := .onUnit (by simp)
@[simp] theorem execKOr_keepsEmber (c t : Nat) (f : RFields) (s : State) : KeepsEmber s (execKOr c t f s) := .onUnit (by simp)
@[simp] theorem execKXor_keepsEmber (c t : Nat) (f : RFields) (s : State) : KeepsEmber s (execKXor c t f s) := .onUnit (by simp)
@[simp] theorem execKShl_keepsEmber (c t : Nat) (f : RFields) (s : State) : KeepsEmber s (execKShl c t f s) := .onUnit (by simp)
@[simp] theorem execKShr_keepsEmber (c t : Nat) (f : RFields) (s : State) : KeepsEmber s (execKShr c t f s) := .onUnit (by simp)
@[simp] theorem execKSra_keepsEmber (c t : Nat) (f : RFields) (s : State) : KeepsEmber s (execKSra c t f s) := .onUnit (by simp)
@[simp] theorem execKSlt_keepsEmber (c t : Nat) (f : RFields) (s : State) : KeepsEmber s (execKSlt c t f s) := .onUnit (by simp)
@[simp] theorem execKSltu_keepsEmber (c t : Nat) (f : RFields) (s : State) : KeepsEmber s (execKSltu c t f s) := .onUnit (by simp)
@[simp] theorem execKMin_keepsEmber (c t : Nat) (f : RFields) (s : State) : KeepsEmber s (execKMin c t f s) := .onUnit (by simp)
@[simp] theorem execKMax_keepsEmber (c t : Nat) (f : RFields) (s : State) : KeepsEmber s (execKMax c t f s) := .onUnit (by simp)
@[simp] theorem execKMinu_keepsEmber (c t : Nat) (f : RFields) (s : State) : KeepsEmber s (execKMinu c t f s) := .onUnit (by simp)
@[simp] theorem execKMaxu_keepsEmber (c t : Nat) (f : RFields) (s : State) : KeepsEmber s (execKMaxu c t f s) := .onUnit (by simp)
@[simp] theorem execKSel_keepsEmber (c t : Nat) (f : RFields) (s : State) : KeepsEmber s (execKSel c t f s) := .onUnit (by simp)
@[simp] theorem execKFaddF32_keepsEmber (c t : Nat) (f : RFields) (s : State) : KeepsEmber s (execKFaddF32 c t f s) := .onUnit (by simp)
@[simp] theorem execKFsubF32_keepsEmber (c t : Nat) (f : RFields) (s : State) : KeepsEmber s (execKFsubF32 c t f s) := .onUnit (by simp)
@[simp] theorem execKFmulF32_keepsEmber (c t : Nat) (f : RFields) (s : State) : KeepsEmber s (execKFmulF32 c t f s) := .onUnit (by simp)
@[simp] theorem execKFmaF32_keepsEmber (c t : Nat) (f : RFields) (s : State) : KeepsEmber s (execKFmaF32 c t f s) := .onUnit (by simp)
@[simp] theorem execKFminF32_keepsEmber (c t : Nat) (f : RFields) (s : State) : KeepsEmber s (execKFminF32 c t f s) := .onUnit (by simp)
@[simp] theorem execKFmaxF32_keepsEmber (c t : Nat) (f : RFields) (s : State) : KeepsEmber s (execKFmaxF32 c t f s) := .onUnit (by simp)
@[simp] theorem execKFcmpltF32_keepsEmber (c t : Nat) (f : RFields) (s : State) : KeepsEmber s (execKFcmpltF32 c t f s) := .onUnit (by simp)
@[simp] theorem execKFcmpeqF32_keepsEmber (c t : Nat) (f : RFields) (s : State) : KeepsEmber s (execKFcmpeqF32 c t f s) := .onUnit (by simp)
@[simp] theorem execKFcvtF32I64_keepsEmber (c t : Nat) (f : RFields) (s : State) : KeepsEmber s (execKFcvtF32I64 c t f s) := .onUnit (by simp)
@[simp] theorem execKFcvtI64F32_keepsEmber (c t : Nat) (f : RFields) (s : State) : KeepsEmber s (execKFcvtI64F32 c t f s) := .onUnit (by simp)
@[simp] theorem execKAddi_keepsEmber (c t : Nat) (f : IFields) (s : State) : KeepsEmber s (execKAddi c t f s) := .onUnit (by simp)
@[simp] theorem execKAndi_keepsEmber (c t : Nat) (f : IFields) (s : State) : KeepsEmber s (execKAndi c t f s) := .onUnit (by simp)
@[simp] theorem execKOri_keepsEmber (c t : Nat) (f : IFields) (s : State) : KeepsEmber s (execKOri c t f s) := .onUnit (by simp)
@[simp] theorem execKXori_keepsEmber (c t : Nat) (f : IFields) (s : State) : KeepsEmber s (execKXori c t f s) := .onUnit (by simp)
@[simp] theorem execKShli_keepsEmber (c t : Nat) (f : IFields) (s : State) : KeepsEmber s (execKShli c t f s) := .onUnit (by simp)
@[simp] theorem execKShri_keepsEmber (c t : Nat) (f : IFields) (s : State) : KeepsEmber s (execKShri c t f s) := .onUnit (by simp)
@[simp] theorem execKSrai_keepsEmber (c t : Nat) (f : IFields) (s : State) : KeepsEmber s (execKSrai c t f s) := .onUnit (by simp)
@[simp] theorem execKSlti_keepsEmber (c t : Nat) (f : IFields) (s : State) : KeepsEmber s (execKSlti c t f s) := .onUnit (by simp)
@[simp] theorem execKSltiu_keepsEmber (c t : Nat) (f : IFields) (s : State) : KeepsEmber s (execKSltiu c t f s) := .onUnit (by simp)
@[simp] theorem execKLih_keepsEmber (c t : Nat) (f : IFields) (s : State) : KeepsEmber s (execKLih c t f s) := .onUnit (by simp)

/-! ### Every step -/

/-- The one command left out is the loss of VAON; every other arm of `exec` is a handler above. -/
theorem exec_keepsEmber {i : Instr} (notLoss : i ≠ .powerLoss) (s : State) : KeepsEmber s (exec i s) := by
  cases i
  case powerLoss => exact absurd rfl notLoss
  all_goals simp [exec]

theorem idleTick_ember_le (s : State) : s.ember ≤ (idleTick s).ember := by
  unfold idleTick
  split
  · rfl
  · exact passTicks_ember_le s 1

/-- Settles O6, by cases on the queue of commands: an idle tick, or the handler of the command in front. -/
theorem emberNeverGoesBack : Obligations.EmberNeverGoesBack := by
  intro s u next notLoss
  cases queue : s.pending with
  | nil =>
    rw [step_nil queue] at next
    obtain rfl := Host.Outcome.next.inj next
    exact idleTick_ember_le s
  | cons c rest =>
    rw [step_cons queue] at next
    refine exec_keepsEmber (fun loss => notLoss ?_) { s with pending := rest } u next
    rw [queue, loss, List.head?_cons]

end Sys2Proof.Machine

end

section
/-!
PROOF. Words of the cell's instructions: every field is read back from the word that R71 to R73 lay out (O9, O10).
-/
namespace Sys2Proof.Machine
open Sys2Proof.Claim

theorem b2n_lt_two (b : Bool) : b2n b < 2 := by cases b <;> decide

theorem decide_b2n (b : Bool) : decide (b2n b = 1) = b := by cases b <;> rfl

/-- A one-bit field reads as the flag it was made of. -/
theorem bitAt_eq {v i : Nat} {b : Bool} (h : v / 2 ^ i % 2 = b2n b) : bitAt v i = b := by
  rw [bitAt, h, decide_b2n]

section
variable {cls op : Nat} (hcls : cls < 16) (hop : op < 256)
include hcls hop

theorem encR_fields (f : RFields) :
    let w := encR cls op f
    wClass w = cls ∧ wOp w = op ∧ wD w = f.d.toNat ∧ wA w = f.a.toNat ∧ wB w = f.b.toNat ∧ wC w = f.c.toNat := by
  have := f.d.isLt; have := f.a.isLt; have := f.b.isLt; have := f.c.isLt
  simp only [wClass, wOp, wD, wA, wB, wC, bits, encR, encHead, fieldAt, BitVec.toNat_ofNat]
  omega

theorem encI_fields (f : IFields) :
    let w := encI cls op f
    wClass w = cls ∧ wOp w = op ∧ wD w = f.d.toNat ∧ wA w = f.a.toNat ∧ wImm w = f.imm.toNat := by
  have := f.d.isLt; have := f.a.isLt; have := f.imm.isLt
  simp only [wClass, wOp, wD, wA, wImm, bits, encI, encHead, fieldAt, BitVec.toNat_ofNat]
  omega

theorem encB_fields (f : BFields) :
    let w := encB cls op f
    wClass w = cls ∧ wOp w = op ∧ wD w = f.d.toNat ∧ wA w = f.a.toNat ∧ wB w = f.b.toNat ∧ wImm w = f.off.toNat := by
  have := f.d.isLt; have := f.a.isLt; have := f.b.isLt; have := f.off.isLt
  simp only [wClass, wOp, wD, wA, wB, wImm, bits, encB, encHead, fieldAt, BitVec.toNat_ofNat]
  omega

theorem encM_fields (f : MFields) :
    let w := encM cls op f
    wClass w = cls ∧ wOp w = op ∧ wD w = f.d.toNat ∧ wA w = f.a.toNat ∧ wB w = f.b.toNat ∧ wSpace w = f.space ∧ wSize w = f.size.toNat ∧
      wOrd w = f.ord.toNat ∧ wImm w = f.off.toNat := by
  have := f.d.isLt; have := f.a.isLt; have := f.b.isLt; have := b2n_lt_two f.space; have := f.size.isLt; have := f.ord.isLt; have := f.off.isLt
  refine ⟨?_, ?_, ?_, ?_, ?_, bitAt_eq ?_, ?_⟩ <;>
  · simp only [wClass, wOp, wD, wA, wB, wSize, wOrd, wImm, bits, encM, encHead, fieldAt, BitVec.toNat_ofNat]
    omega

theorem encV_fields (f : VFields) :
    let w := encV cls op f
    wClass w = cls ∧ wOp w = op ∧ wD w = f.d.toNat ∧ wA w = f.a.toNat ∧ wB w = f.b.toNat ∧ wC w = f.c.toNat ∧ wFmt w = f.fmt.toNat ∧
      wMask w = f.mask.toNat ∧ wMz w = f.mz ∧ wRnd w = f.rnd.toNat ∧ wImm16 w = f.imm.toNat := by
  have := f.d.isLt; have := f.a.isLt; have := f.b.isLt; have := f.c.isLt; have := f.fmt.isLt; have := f.mask.isLt; have := b2n_lt_two f.mz
  have := f.rnd.isLt; have := f.imm.isLt
  refine ⟨?_, ?_, ?_, ?_, ?_, ?_, ?_, ?_, bitAt_eq ?_, ?_⟩ <;>
  · simp only [wClass, wOp, wD, wA, wB, wC, wFmt, wMask, wRnd, wImm16, bits, encV, encHead, fieldAt, BitVec.toNat_ofNat]
    omega

theorem encVM_fields (f : VMFields) :
    let w := encVM cls op f
    wClass w = cls ∧ wOp w = op ∧ wD w = f.d.toNat ∧ wA w = f.a.toNat ∧ wB w = f.b.toNat ∧ wSpace w = f.space ∧ wC w % 16 = f.c.toNat ∧
      wFmt w = f.fmt.toNat ∧ wMask w = f.mask.toNat ∧ wMz w = f.mz ∧ wRnd w = f.rnd.toNat ∧ wImm16 w = f.off.toNat := by
  have := f.d.isLt; have := f.a.isLt; have := f.b.isLt; have := b2n_lt_two f.space; have := f.c.isLt; have := f.fmt.isLt
  have := f.mask.isLt; have := b2n_lt_two f.mz; have := f.rnd.isLt; have := f.off.isLt
  refine ⟨?_, ?_, ?_, ?_, ?_, bitAt_eq ?_, ?_, ?_, ?_, bitAt_eq ?_, ?_⟩ <;>
  · simp only [wClass, wOp, wD, wA, wB, wC, wFmt, wMask, wRnd, wImm16, bits, encVM, encHead, fieldAt, BitVec.toNat_ofNat]
    omega

theorem encX_fields (f : XFields) :
    let w := encX cls op f
    wClass w = cls ∧ wOp w = op ∧ xAcc w = f.acc.toNat ∧ wA w = f.a.toNat ∧ wB w = f.b.toNat ∧ wC w = f.c.toNat ∧ xFmtA w = f.fmta.toNat ∧
      xFmtB w = f.fmtb.toNat ∧ xSrcA w = f.srca ∧ xSrcB w = f.srcb ∧ xOrA w = f.ora ∧ xOrB w = f.orb ∧ xSpA w = f.spa ∧ xSpB w = f.spb ∧
      xMsk w = f.msk.toNat := by
  have := f.acc.isLt; have := f.a.isLt; have := f.b.isLt; have := f.c.isLt; have := f.fmta.isLt; have := f.fmtb.isLt
  have := b2n_lt_two f.srca; have := b2n_lt_two f.srcb; have := b2n_lt_two f.ora; have := b2n_lt_two f.orb; have := b2n_lt_two f.spa
  have := b2n_lt_two f.spb; have := f.msk.isLt
  refine ⟨?_, ?_, ?_, ?_, ?_, ?_, ?_, ?_, bitAt_eq ?_, bitAt_eq ?_, bitAt_eq ?_, bitAt_eq ?_, bitAt_eq ?_, bitAt_eq ?_, ?_⟩ <;>
  · simp only [wClass, wOp, xAcc, wA, wB, wC, xFmtA, xFmtB, xMsk, bits, encX, encHead, fieldAt, BitVec.toNat_ofNat]
    omega

theorem encQ_fields (f : QFields) :
    let w := encQ cls op f
    wClass w = cls ∧ wOp w = op ∧ wD w = f.d.toNat ∧ wA w = f.a.toNat ∧ wB w = f.b.toNat ∧ wC w = f.c.toNat ∧ wFmt w = f.fmt.toNat ∧
      qDest w = f.dest.toNat ∧ qRnd w = f.rnd.toNat ∧ qAcc w = f.acc.toNat ∧ qPre w = f.pre.toNat := by
  have := f.d.isLt; have := f.a.isLt; have := f.b.isLt; have := f.c.isLt; have := f.fmt.isLt; have := f.dest.isLt; have := f.rnd.isLt
  have := f.acc.isLt; have := f.pre.isLt
  simp only [wClass, wOp, wD, wA, wB, wC, wFmt, qDest, qRnd, qAcc, qPre, bits, encQ, encHead, fieldAt, BitVec.toNat_ofNat]
  omega

end

/-- Settles O9: in each format every field is a digit of the sum that makes the word, in the mixed radix of the widths. -/
theorem scalarWordFieldsReadBack : Obligations.ScalarWordFieldsReadBack := fun _ _ hcls hop =>
  ⟨encR_fields hcls hop, encI_fields hcls hop, encB_fields hcls hop, encM_fields hcls hop⟩

/-- Settles O10, the same of the formats with flags and formats of elements. -/
theorem vectorWordFieldsReadBack : Obligations.VectorWordFieldsReadBack := fun _ _ hcls hop =>
  ⟨encV_fields hcls hop, encVM_fields hcls hop, encX_fields hcls hop, encQ_fields hcls hop⟩

end Sys2Proof.Machine
end

section
/-!
PROOF. The cell after an issue and after a register write: which reads they leave, and the frames of instructions that go by them (O12, O13).
-/
namespace Sys2Proof.Machine
open Sys2Proof.Claim

/-! ### Resources that a write leaves -/

/-- A cell with the same register files holds the same in every resource. -/
theorem sameRes_of_eq {x y : Cell} (n : Nat) (written : y.written = x.written) (sreg : y.sreg = x.sreg) (tile : y.tile = x.tile)
    (acc : y.acc = x.acc) (mask : y.mask = x.mask) (stream : y.streamId = x.streamId) : sameRes x y n := by
  simp only [sameRes, isWritten, streamOf, written, sreg, tile, acc, mask, stream, implies_true, and_self]

theorem sameRes_trans {x y z : Cell} {n : Nat} (h : sameRes x y n) (h' : sameRes y z n) : sameRes x z n := by
  obtain ⟨w, s, t, a, m, r⟩ := h
  obtain ⟨w', s', t', a', m', r'⟩ := h'
  exact ⟨w'.trans w, fun h => (s' h).trans (s h), fun h k => (t' h k).trans (t h k), fun h k i hi => (a' h k i hi).trans (a h k i hi),
    fun h k => (m' h k).trans (m h k), fun h k => (r' h k).trans (r h k)⟩

theorem isWritten_markWritten (x : Cell) (r n : Nat) : isWritten (markWritten x r) n = if n = r then true else isWritten x n := by
  split
  · subst_vars
    exact mget_mset_same false n true x.written
  · exact mget_mset_ne false true ‹_›

theorem sameRes_setS (x : Cell) (t r : Nat) (v : Word) {n : Nat} (h : n ≠ resS t r) : sameRes x (setS x t r v) n := by
  unfold setS
  split
  · exact sameRes_of_eq n rfl rfl rfl rfl rfl rfl
  · refine ⟨(isWritten_markWritten ..).trans (if_neg h), fun _ => mget_mset_ne _ _ h, fun _ _ => rfl, fun _ _ _ _ => rfl, fun _ _ => rfl,
      fun _ _ => rfl⟩

/-- Bytes outside the range of a write are read as before. -/
theorem memRead_memWrite_apart (m : Mem) {a n b : Nat} {l : List Byte} (h : a + n ≤ b ∨ b + l.length ≤ a) :
    memRead (memWrite m b l) a n = memRead m a n := by
  refine List.map_congr_left fun i hi => ?_
  have := List.mem_range.mp hi
  rcases h with below | above
  · exact memByte_memWrite_below m l (by omega)
  · exact memByte_memWrite_above m l (by omega)

/-- What is written is what is read. -/
theorem memRead_memWrite_same (m : Mem) (a : Nat) (l : List Byte) : memRead (memWrite m a l) a l.length = l := by
  refine List.ext_getElem (by simp [memRead]) fun i h _ => ?_
  have hi : i < l.length := by simpa [memRead] using h
  simp [memRead, memByte_memWrite m a i l hi, hi]

theorem sameRes_setTile (x : Cell) (k : Nat) (l : List Byte) {n : Nat} (h : n ≠ resT k) : sameRes x (setTile x k l) n := by
  rw [resT] at h
  refine ⟨(isWritten_markWritten ..).trans (if_neg h), fun _ => rfl, fun lo hi => memRead_memWrite_apart _ ?_, fun _ _ _ _ => rfl, fun _ _ => rfl,
    fun _ _ => rfl⟩
  have := List.length_take_le 1024 l
  omega

theorem sameRes_setMask (x : Cell) (k : Nat) (v : BitVec 1024) {n : Nat} (h : n ≠ resM k) : sameRes x (setMask x k v) n := by
  rw [resM] at h
  exact ⟨(isWritten_markWritten ..).trans (if_neg h), fun _ => rfl, fun _ _ => rfl, fun _ _ _ _ => rfl,
    fun _ _ => mget_mset_ne _ _ (by omega), fun _ _ => rfl⟩

/-- Consecutive accumulator elements written from index i on: the others are as they were. -/
theorem mget_setAccFrom_apart (a : Nat) {k : Nat} (m : Map F32) (i : Nat) (l : List F32) (h : k < 1024 * a + i ∨ 1024 * a + i + l.length ≤ k) :
    mget 0 (setAccFrom a m i l) k = mget 0 m k := by
  induction l generalizing m i with
  | nil => rfl
  | cons v rest ih =>
    rw [List.length_cons] at h
    rw [setAccFrom, ih _ _ (by omega), mget_mset_ne _ _ (by omega)]

theorem mget_setAccFrom (a : Nat) (m : Map F32) (i j : Nat) (l : List F32) (h : j < l.length) :
    mget 0 (setAccFrom a m i l) (1024 * a + (i + j)) = l.getD j 0 := by
  induction l generalizing m i j with
  | nil => exact absurd h (by simp)
  | cons v rest ih =>
    cases j with
    | zero => rw [setAccFrom, mget_setAccFrom_apart _ _ _ _ (by omega), Nat.add_zero, mget_mset_same, List.getD_cons_zero]
    | succ j => rw [setAccFrom, show i + (j + 1) = i + 1 + j by omega, ih _ _ _ (by simpa using h), List.getD_cons_succ]

theorem sameRes_setAcc (x : Cell) (a : Nat) (l : List F32) (len : l.length ≤ 1024) {n : Nat} (h : n ≠ resAcc a) : sameRes x (setAcc x a l) n := by
  rw [resAcc] at h
  refine ⟨(isWritten_markWritten ..).trans (if_neg h), fun _ => rfl, fun _ _ => rfl, fun _ _ i hi => ?_, fun _ _ => rfl, fun _ _ => rfl⟩
  exact mget_setAccFrom_apart _ _ _ _ (by omega)

theorem sameRes_setStream (x : Cell) (t : Nat) (v : BitVec 32) {n : Nat} (h : n ≠ resStream t) : sameRes x (setStream x t v) n := by
  rw [resStream] at h
  exact ⟨rfl, fun _ => rfl, fun _ _ => rfl, fun _ _ _ _ => rfl, fun _ _ => rfl, fun _ _ => mget_mset_ne _ _ (by omega)⟩

/-- A scalar register that holds the same reads the same. -/
theorem sReg_of_sameRes {x y : Cell} {t r : Nat} (h : sameRes x y (resS t r)) (lt : resS t r < 256) (n : Nat) : sReg n y t r = sReg n x t r := by
  obtain ⟨written, sreg, -⟩ := h
  rw [sReg, sReg, written, sreg lt]

/-- Settles O13. -/
theorem scalarRegisterWrite : Obligations.ScalarRegisterWrite := fun x t r v _ _ =>
  ⟨fun n => sReg_setS n x t r v, fun h => h ▸ setS_zero x t v, fun _ h => sameRes_setS x t r v h⟩

/-! ### Frames of a cell -/

/-- What `StoreFrame` says of the cell itself: it holds the same but for the resources `dests` and the n bytes of its store from `lo`. -/
structure CellFrame (x y : Cell) (dests : List Nat) (lo n : Nat) : Prop where
  regs : ∀ r, r < 320 → r ∉ dests → sameRes x y r
  store : ∀ a, a < lo ∨ lo + n ≤ a → mfind y.store a = mfind x.store a
  prog : y.prog = x.prog
  progWords : y.progWords = x.progWords
  slots : y.slots = x.slots
  faultCode : y.faultCode = x.faultCode

/-- Of what a frame speaks of, a cell differs in nothing. -/
theorem CellFrame.of_eq {x y : Cell} {dests : List Nat} {lo n : Nat} (written : y.written = x.written) (sreg : y.sreg = x.sreg)
    (tile : y.tile = x.tile) (acc : y.acc = x.acc) (mask : y.mask = x.mask) (stream : y.streamId = x.streamId) (store : y.store = x.store)
    (prog : y.prog = x.prog) (progWords : y.progWords = x.progWords) (slots : y.slots = x.slots) (faultCode : y.faultCode = x.faultCode) :
    CellFrame x y dests lo n :=
  ⟨fun r _ _ => sameRes_of_eq r written sreg tile acc mask stream, fun _ _ => by rw [store], prog, progWords, slots, faultCode⟩

theorem CellFrame.refl (x : Cell) {dests : List Nat} {lo n : Nat} : CellFrame x x dests lo n :=
  .of_eq rfl rfl rfl rfl rfl rfl rfl rfl rfl rfl rfl

theorem CellFrame.trans {x y z : Cell} {dests : List Nat} {lo n : Nat} (h : CellFrame x y dests lo n) (h' : CellFrame y z dests lo n) :
    CellFrame x z dests lo n where
  regs r hr out := sameRes_trans (h.regs r hr out) (h'.regs r hr out)
  store a ha := (h'.store a ha).trans (h.store a ha)
  prog := h'.prog.trans h.prog
  progWords := h'.progWords.trans h.progWords
  slots := h'.slots.trans h.slots
  faultCode := h'.faultCode.trans h.faultCode

section
variable (x : Cell) {dests : List Nat} {lo n : Nat}

theorem CellFrame.setS (t r : Nat) (v : Word) (dest : resS t r ∈ dests) : CellFrame x (setS x t r v) dests lo n := by
  have regs : ∀ k, k < 320 → k ∉ dests → sameRes x (Machine.setS x t r v) k := fun k _ out =>
    sameRes_setS x t r v fun same => out (same ▸ dest)
  obtain ⟨_, _, eq⟩ := setS_frame x t r v
  rw [eq] at regs ⊢
  exact ⟨regs, fun _ _ => rfl, rfl, rfl, rfl, rfl⟩

theorem CellFrame.setTile (k : Nat) (l : List Byte) (dest : resT k ∈ dests) : CellFrame x (setTile x k l) dests lo n :=
  ⟨fun _ _ out => sameRes_setTile x k l fun same => out (same ▸ dest), fun _ _ => rfl, rfl, rfl, rfl, rfl⟩

theorem CellFrame.setMask (k : Nat) (v : BitVec 1024) (dest : resM k ∈ dests) : CellFrame x (setMask x k v) dests lo n :=
  ⟨fun _ _ out => sameRes_setMask x k v fun same => out (same ▸ dest), fun _ _ => rfl, rfl, rfl, rfl, rfl⟩

theorem CellFrame.setAcc (a : Nat) (l : List F32) (len : l.length ≤ 1024) (dest : resAcc a ∈ dests) : CellFrame x (setAcc x a l) dests lo n :=
  ⟨fun _ _ out => sameRes_setAcc x a l len fun same => out (same ▸ dest), fun _ _ => rfl, rfl, rfl, rfl, rfl⟩

theorem CellFrame.setStream (t : Nat) (v : BitVec 32) (dest : resStream t ∈ dests) : CellFrame x (setStream x t v) dests lo n :=
  ⟨fun _ _ out => sameRes_setStream x t v fun same => out (same ▸ dest), fun _ _ => rfl, rfl, rfl, rfl, rfl⟩

theorem CellFrame.setTState (t : Nat) (v : TState) : CellFrame x (setTState x t v) dests lo n := .of_eq rfl rfl rfl rfl rfl rfl rfl rfl rfl rfl rfl
theorem CellFrame.setWaits (t : Nat) (v : Waits) : CellFrame x (setWaits x t v) dests lo n := .of_eq rfl rfl rfl rfl rfl rfl rfl rfl rfl rfl rfl
theorem CellFrame.gotoPc (t k : Nat) : CellFrame x (gotoPc x t k) dests lo n := .of_eq rfl rfl rfl rfl rfl rfl rfl rfl rfl rfl rfl

end

/-- One cell and the counter of free values may change. -/
theorem storeFrame_of_cell {s : State} {c : Nat} {dests : List Nat} {lo n : Nat} (x : Cell) (k : Nat) (h : CellFrame (getCell s c) x dests lo n) :
    StoreFrame s { setCell s c x with free := k } c dests lo n := by
  have here : getCell { setCell s c x with free := k } c = x := getCell_setCell s c x
  obtain ⟨regs, store, prog, progWords, slots, faultCode⟩ := h
  unfold StoreFrame
  rw [here]
  exact ⟨regs, store, prog, progWords, slots, faultCode, fun _ => rfl, fun _ => rfl, fun j hj => getCell_setCell_ne s c j x hj, _, k, rfl⟩

/-- A frame goes on over a write of the same cell. -/
theorem storeFrame_setCell {s v : State} {c : Nat} {dests : List Nat} {lo n : Nat} {x : Cell} (h : StoreFrame s v c dests lo n)
    (hx : CellFrame (getCell v c) x dests lo n) : StoreFrame s (setCell v c x) c dests lo n := by
  obtain ⟨regs, store, prog, progWords, slots, faultCode, mem, host, others, m, k, rfl⟩ := h
  unfold StoreFrame
  rw [getCell_setCell]
  exact ⟨fun r hr out => sameRes_trans (regs r hr out) (hx.regs r hr out), fun a ha => (hx.store a ha).trans (store a ha), hx.prog.trans prog,
    hx.progWords.trans progWords, hx.slots.trans slots, hx.faultCode.trans faultCode, mem, host,
    fun j hj => (getCell_setCell_ne _ c j x hj).trans (others j hj), _, k, rfl⟩

/-- A frame that allows less is one that allows more. -/
theorem registerFrame_weaken {s u : State} {c : Nat} {dests dests' : List Nat} {lo n : Nat} (h : RegisterFrame s u c dests)
    (sub : ∀ r ∈ dests, r ∈ dests') : StoreFrame s u c dests' lo n := by
  obtain ⟨regs, store, rest⟩ := h
  exact ⟨fun r hr out => regs r hr fun mem => out (sub r mem), fun a _ => store a (by omega), rest⟩

/-! ### The cell from which an entry has gone -/

/-- Threads that leave QFULL change their state only. -/
theorem wakeFull_eq (x : Cell) : ∃ m, wakeFull x = { x with tstate := m } :=
  List.foldlRecOn (motive := fun y => ∃ m, y = { x with tstate := m }) _ _ ⟨_, rfl⟩ fun y ⟨m, hy⟩ t _ => by
    subst hy
    dsimp only
    split
    · exact ⟨_, rfl⟩
    · exact ⟨m, rfl⟩

@[simp] theorem getIQ_setIQ (x : Cell) (q : IQ) (l : List Entry) : getIQ (setIQ x q l) q = l := by cases q <;> rfl

theorem getIQ_setIQ_ne (x : Cell) {q r : IQ} (l : List Entry) (h : r ≠ q) : getIQ (setIQ x q l) r = getIQ x r := by
  cases q <;> cases r <;> simp_all [getIQ, setIQ]

/-- The cell without an entry, which ISSUE counts (R97), before threads in QFULL wake. -/
def withoutEntry (x : Cell) (e : Entry) : Cell :=
  let q := queueOf e.word
  { setIQ x q (dropFirst (fun f => decide (f.stamp = e.stamp)) (getIQ x q)) with
    issue := mset 0 (iqIndex q) ((mget 0 x.issue (iqIndex q) + 1) % 2 ^ 64) x.issue
    missGranted := if needsMiss e.word then dropFirst (fun t => decide (t = e.thread)) x.missGranted else x.missGranted }

theorem getCell_issued (s : State) (c : Nat) (e : Entry) : getCell (issued s c e) c = wakeFull (withoutEntry (getCell s c) e) := by
  have eq : ∀ x, getCell (draw (setCell s c x)) c = x := getCell_setCell s c
  simp only [issued, eq, withoutEntry]
  cases queueOf e.word <;> rfl

/-- Issuing leaves of a cell everything but its queues, its threads' states, ISSUE and the promised miss registers. -/
theorem issued_cell (s : State) (c : Nat) (e : Entry) : ∃ ctl vec mat ts n granted,
    getCell (issued s c e) c =
      { getCell s c with ctl := ctl, vec := vec, mat := mat, tstate := ts, issue := n, missGranted := granted } := by
  obtain ⟨m, h⟩ := wakeFull_eq (withoutEntry (getCell s c) e)
  rw [getCell_issued, h, withoutEntry]
  cases queueOf e.word <;> exact ⟨_, _, _, _, _, _, rfl⟩

theorem cellFrame_issued (s : State) (c : Nat) (e : Entry) {dests : List Nat} {lo n : Nat} :
    CellFrame (getCell s c) (getCell (issued s c e) c) dests lo n := by
  obtain ⟨_, _, _, _, _, _, h⟩ := issued_cell s c e
  rw [h]
  exact .of_eq rfl rfl rfl rfl rfl rfl rfl rfl rfl rfl rfl

theorem storeFrame_issued (s : State) (c : Nat) (e : Entry) {dests : List Nat} {lo n : Nat} : StoreFrame s (issued s c e) c dests lo n := by
  obtain ⟨x, h⟩ := issued_frame s c e
  have here : getCell (issued s c e) c = x := by rw [h]; exact getCell_setCell s c x
  rw [h]
  exact storeFrame_of_cell x _ (here ▸ cellFrame_issued s c e)

/-- An instruction that then writes only its own cell has the frame of that write. -/
theorem storeFrame_issued_setCell (s : State) (c : Nat) (e : Entry) {dests : List Nat} {lo n : Nat} {x : Cell}
    (h : CellFrame (getCell (issued s c e) c) x dests lo n) : StoreFrame s (setCell (issued s c e) c x) c dests lo n :=
  storeFrame_setCell (storeFrame_issued s c e) h

/-- Settles O12: threads in QFULL wake, and apart from that issuing writes the queue and its counter. -/
theorem issueTakesOneEntry : Obligations.IssueTakesOneEntry := by
  intro s c e
  obtain ⟨m, h⟩ := wakeFull_eq (withoutEntry (getCell s c) e)
  have cell := (getCell_issued s c e).trans h
  refine ⟨?_, fun r hr => ?_, ?_, storeFrame_issued s c e⟩
  · rw [cell]
    exact getIQ_setIQ ..
  · rw [cell]
    exact getIQ_setIQ_ne _ _ hr
  · rw [cell]
    exact mget_mset_same ..

end Sys2Proof.Machine
end

section
/-!
PROOF. An instruction that issues: what `exec` answers, and the registers that its effect reads (R69, R69, R89).
-/
namespace Sys2Proof.Machine
open Sys2Proof.Claim

/-! ### The rule of issue -/

section
variable {s : State} {c t : Nat} {w : Word} {e : Entry}

/-- An instruction that issues has its effect on the state from which its entry has gone. -/
theorem onThread_issue (h : Issues s c t w e) (g : State → Entry → State) : onThread c t (issue s c t w g) = .next (g (issued s c e) e) := by
  obtain ⟨cell, thread, can⟩ := h
  rw [issue_of_canIssue g can, onThread, cell, thread]
  rfl

theorem issues_word (h : Issues s c t w e) : e.word = w := (canIssue_entry h.2.2).1
theorem issues_thread (h : Issues s c t w e) : e.thread = t := (canIssue_entry h.2.2).2.1
theorem issues_thread_lt (h : Issues s c t w e) : t < 8 := of_decide_eq_true h.2.1

end

/-- An instruction whose effect is one write of its own cell: what the cell holds, and the frame of that write. -/
theorem next_modCell {s : State} {c : Nat} {e : Entry} {o : Out} {g : Cell → Cell} {dests : List Nat} {lo n : Nat}
    (h : o = .next (modCell (issued s c e) c g)) (frame : ∀ x, CellFrame x (g x) dests lo n) :
    ∃ u, o = .next u ∧ getCell u c = g (getCell (issued s c e) c) ∧ StoreFrame s u c dests lo n :=
  ⟨_, h, getCell_setCell .., storeFrame_issued_setCell s c e (frame _)⟩

/-! ### What is read after an issue -/

section
variable (s : State) (c : Nat) (e : Entry)

@[simp] theorem issued_free : (issued s c e).free = s.free + 1 := by
  obtain ⟨_, h⟩ := issued_frame s c e
  rw [h]; rfl

@[simp] theorem issued_mem : (issued s c e).mem = s.mem := by
  obtain ⟨_, h⟩ := issued_frame s c e
  rw [h]; rfl

@[simp] theorem issued_host : (issued s c e).host = s.host := by
  obtain ⟨_, h⟩ := issued_frame s c e
  rw [h]; rfl

@[simp] theorem getJob_issued (j : Nat) : getJob (issued s c e) j = getJob s j := by
  obtain ⟨_, h⟩ := issued_frame s c e
  rw [h]; rfl

@[simp] theorem sReg_issued (n t r : Nat) : sReg n (getCell (issued s c e) c) t r = sReg n (getCell s c) t r := by
  obtain ⟨_, _, _, _, _, _, h⟩ := issued_cell s c e
  rw [h]; rfl

@[simp] theorem tileBytes_issued (n k : Nat) : tileBytes n (getCell (issued s c e) c) k = tileBytes n (getCell s c) k := by
  obtain ⟨_, _, _, _, _, _, h⟩ := issued_cell s c e
  rw [h]; rfl

@[simp] theorem maskReg_issued (n k : Nat) : maskReg n (getCell (issued s c e) c) k = maskReg n (getCell s c) k := by
  obtain ⟨_, _, _, _, _, _, h⟩ := issued_cell s c e
  rw [h]; rfl

@[simp] theorem streamOf_issued (t : Nat) : streamOf (getCell (issued s c e) c) t = streamOf (getCell s c) t := by
  obtain ⟨_, _, _, _, _, _, h⟩ := issued_cell s c e
  rw [h]; rfl

@[simp] theorem waitsOf_issued (t : Nat) : waitsOf (getCell (issued s c e) c) t = waitsOf (getCell s c) t := by
  obtain ⟨_, _, _, _, _, _, h⟩ := issued_cell s c e
  rw [h]; rfl

@[simp] theorem pcOf_issued (t : Nat) : pcOf (getCell (issued s c e) c) t = pcOf (getCell s c) t := by
  obtain ⟨_, _, _, _, _, _, h⟩ := issued_cell s c e
  rw [h]; rfl

@[simp] theorem progWords_issued : (getCell (issued s c e) c).progWords = (getCell s c).progWords := by
  obtain ⟨_, _, _, _, _, _, h⟩ := issued_cell s c e
  rw [h]

@[simp] theorem faultCode_issued : (getCell (issued s c e) c).faultCode = (getCell s c).faultCode := by
  obtain ⟨_, _, _, _, _, _, h⟩ := issued_cell s c e
  rw [h]

@[simp] theorem localRead_issued (n a k : Nat) : localRead n (getCell (issued s c e) c) a k = localRead n (getCell s c) a k := by
  obtain ⟨_, _, _, _, _, _, h⟩ := issued_cell s c e
  rw [h]; rfl

end

end Sys2Proof.Machine
end

section
/-!
PROOF. The scalar instructions of the formats R and I give the values of R76 and R77 (O22).
-/
namespace Sys2Proof.Machine
open Sys2Proof.Claim

/-! ### The effect -/

/-- An instruction whose effect is one scalar register. -/
theorem next_setS {s : State} {c t : Nat} (e : Entry) {o : Out} (r : BitVec 5) (v : Word)
    (h : o = .next (modCell (issued s c e) c (fun x => setS x t r.toNat v))) :
    ∃ u, o = .next u ∧ (∀ n, sReg n (getCell u c) t r.toNat = if r = 0 then 0 else v) ∧ RegisterFrame s u c [resS t r.toNat] := by
  obtain ⟨u, next, cell, frame⟩ := next_modCell h fun x => .setS x t _ v (List.mem_singleton_self _)
  refine ⟨u, next, fun n => ?_, frame⟩
  rw [cell, sReg_setS]
  simp only [← BitVec.toNat_inj, BitVec.toNat_ofNat, Nat.zero_mod, BitVec.ofNat_eq_ofNat]

theorem scalarR_result {s : State} {c t op : Nat} {f : RFields} {e : Entry} (g : Word → Word → Word → Word)
    (h : Issues s c t (encR 1 op f) e) :
    ∃ u, onThread c t (scalarR s c t op f g) = .next u ∧
      (∀ n, sReg n (getCell u c) t f.d.toNat =
        if f.d = 0 then 0
        else g (sReg s.free (getCell s c) t f.a.toNat) (sReg s.free (getCell s c) t f.b.toNat) (sReg s.free (getCell s c) t f.c.toNat)) ∧
      RegisterFrame s u c [resS t f.d.toNat] :=
  next_setS e f.d _ ((onThread_issue h _).trans (by simp only [modCell_eq, sReg_issued]))

theorem scalarI_result {s : State} {c t op : Nat} {f : IFields} {e : Entry} (g : Word → Word → Word) (h : Issues s c t (encI 2 op f) e) :
    ∃ u, onThread c t (scalarI s c t op f g) = .next u ∧
      (∀ n, sReg n (getCell u c) t f.d.toNat = if f.d = 0 then 0 else g (sReg s.free (getCell s c) t f.a.toNat) (f.imm.signExtend 64)) ∧
      RegisterFrame s u c [resS t f.d.toNat] :=
  next_setS e f.d _ ((onThread_issue h _).trans (by simp only [modCell_eq, sReg_issued]))

/-! ### The values

R76 and R77 give them on the numbers of the words; the model computes them with operations on words. -/

theorem flag_decide (p : Prop) [Decidable p] : flag (decide p) = if p then 1 else 0 := by
  by_cases h : p <;> simp [flag, h]

theorem divS_eq (a b : Word) : divS a b = if b = 0 then BitVec.allOnes 64 else BitVec.ofInt 64 (a.toInt.tdiv b.toInt) := by
  refine if_congr Iff.rfl BitVec.neg_one_eq_allOnes (BitVec.eq_of_toInt_eq ?_)
  rw [BitVec.toInt_sdiv, BitVec.toInt_ofInt]

theorem remS_eq (a b : Word) : remS a b = if b = 0 then a else BitVec.ofInt 64 (a.toInt.tmod b.toInt) := by
  refine if_congr Iff.rfl rfl ?_
  rw [← BitVec.toInt_srem, BitVec.ofInt_toInt]

theorem divU_eq (a b : Word) : divU a b = if b = 0 then BitVec.allOnes 64 else BitVec.ofNat 64 (a.toNat / b.toNat) := by
  refine if_congr Iff.rfl BitVec.neg_one_eq_allOnes ?_
  rw [← BitVec.toNat_udiv, BitVec.ofNat_toNat, BitVec.setWidth_eq]

theorem remU_eq (a b : Word) : remU a b = if b = 0 then a else BitVec.ofNat 64 (a.toNat % b.toNat) := by
  refine if_congr Iff.rfl rfl ?_
  rw [← BitVec.toNat_umod, BitVec.ofNat_toNat, BitVec.setWidth_eq]

theorem shiftLeft_eq_mul (a : Word) (n : Nat) : a <<< n = BitVec.ofNat 64 (a.toNat * 2 ^ n) := by
  refine BitVec.eq_of_toNat_eq ?_
  rw [BitVec.toNat_shiftLeft, BitVec.toNat_ofNat, Nat.shiftLeft_eq]

theorem ushiftRight_eq_div (a : Word) (n : Nat) : a >>> n = BitVec.ofNat 64 (a.toNat / 2 ^ n) := by
  rw [← Nat.shiftRight_eq_div_pow, ← BitVec.toNat_ushiftRight, BitVec.ofNat_toNat, BitVec.setWidth_eq]

theorem sshiftRight_eq_div (a : Word) (n : Nat) : a.sshiftRight n = BitVec.ofInt 64 (a.toInt / 2 ^ n) := by
  rw [show a.toInt / 2 ^ n = a.toInt >>> n by rw [Int.shiftRight_eq_div_pow]; norm_cast, ← BitVec.toInt_sshiftRight, BitVec.ofInt_toInt]

theorem aluLih_eq (a i : Word) : aluLih a i = BitVec.ofNat 64 (a.toNat % 2 ^ 32 + 2 ^ 32 * (i.toNat % 2 ^ 32)) := by
  have low : a.toNat % 2 ^ 32 < 2 ^ 32 := Nat.mod_lt _ (by decide)
  refine BitVec.eq_of_toNat_eq ?_
  rw [aluLih, BitVec.toNat_or, BitVec.toNat_and, BitVec.toNat_shiftLeft, BitVec.toNat_ofNat, show 4294967295 % 2 ^ 64 = 2 ^ 32 - 1 from rfl,
    Nat.and_two_pow_sub_one_eq_mod, Nat.shiftLeft_eq, show 2 ^ 64 = 2 ^ 32 * 2 ^ 32 from rfl, Nat.mul_mod_mul_right, Nat.lor_comm,
    ← Nat.shiftLeft_eq, ← Nat.shiftLeft_add_eq_or_of_lt low, Nat.shiftLeft_eq, BitVec.toNat_ofNat]
  omega

theorem minS_eq (a b : Word) : (if a.slt b then a else b) = if a.toInt < b.toInt then a else b := if_congr BitVec.slt_iff_toInt_lt rfl rfl
theorem maxS_eq (a b : Word) : (if a.slt b then b else a) = if a.toInt < b.toInt then b else a := if_congr BitVec.slt_iff_toInt_lt rfl rfl
theorem minU_eq (a b : Word) : (if a.ult b then a else b) = if a.toNat < b.toNat then a else b := if_congr BitVec.ult_iff_lt rfl rfl
theorem maxU_eq (a b : Word) : (if a.ult b then b else a) = if a.toNat < b.toNat then b else a := if_congr BitVec.ult_iff_lt rfl rfl

theorem aluSel_eq (a b k : Word) : aluSel a b k = if k ≠ 0 then a else b := (ite_not ..).symm

/-! ### The tables -/

theorem scalarR_congr {s : State} {c t op : Nat} {f : RFields} {g h : Word → Word → Word → Word} (eq : ∀ a b k, g a b k = h a b k) :
    onThread c t (scalarR s c t op f g) = onThread c t (scalarR s c t op f h) := by
  rw [show g = h from funext fun a => funext fun b => funext fun k => eq a b k]

theorem scalarI_congr {s : State} {c t op : Nat} {f : IFields} {g h : Word → Word → Word} (eq : ∀ a i, g a i = h a i) :
    onThread c t (scalarI s c t op f g) = onThread c t (scalarI s c t op f h) := by
  rw [show g = h from funext fun a => funext fun i => eq a i]

theorem exec_scalarOps : ∀ k ∈ scalarOps, ∀ c t f s, exec (k.1 c t f) s = onThread c t (scalarR s c t k.2.1 f k.2.2) := by
  simp only [scalarOps, List.forall_mem_cons]
  exact ⟨fun _ _ _ _ => rfl, fun _ _ _ _ => rfl, fun _ _ _ _ => rfl, fun _ _ _ _ => rfl, fun _ _ _ _ => rfl,
    fun _ _ _ _ => scalarR_congr fun a b _ => divS_eq a b, fun _ _ _ _ => scalarR_congr fun a b _ => divU_eq a b,
    fun _ _ _ _ => scalarR_congr fun a b _ => remS_eq a b, fun _ _ _ _ => scalarR_congr fun a b _ => remU_eq a b,
    fun _ _ _ _ => rfl, fun _ _ _ _ => rfl, fun _ _ _ _ => rfl,
    fun _ _ _ _ => scalarR_congr fun a b _ => shiftLeft_eq_mul a _, fun _ _ _ _ => scalarR_congr fun a b _ => ushiftRight_eq_div a _,
    fun _ _ _ _ => scalarR_congr fun a b _ => sshiftRight_eq_div a _, fun _ _ _ _ => scalarR_congr fun a b _ => flag_decide _,
    fun _ _ _ _ => scalarR_congr fun a b _ => flag_decide _, fun _ _ _ _ => scalarR_congr fun a b _ => minS_eq a b,
    fun _ _ _ _ => scalarR_congr fun a b _ => maxS_eq a b, fun _ _ _ _ => scalarR_congr fun a b _ => minU_eq a b,
    fun _ _ _ _ => scalarR_congr fun a b _ => maxU_eq a b, fun _ _ _ _ => scalarR_congr aluSel_eq, fun _ h => absurd h List.not_mem_nil⟩

theorem exec_scalarFloatOps : ∀ k ∈ scalarFloatOps, ∀ c t f s, exec (k.1 c t f) s = onThread c t (scalarR s c t k.2.1 f k.2.2) := by
  simp only [scalarFloatOps, List.forall_mem_cons]
  exact ⟨fun _ _ _ _ => rfl, fun _ _ _ _ => rfl, fun _ _ _ _ => rfl, fun _ _ _ _ => rfl, fun _ _ _ _ => rfl, fun _ _ _ _ => rfl,
    fun _ _ _ _ => rfl, fun _ _ _ _ => rfl, fun _ _ _ _ => rfl, fun _ _ _ _ => rfl, fun _ h => absurd h List.not_mem_nil⟩

theorem exec_immediateOps : ∀ k ∈ immediateOps, ∀ c t f s, exec (k.1 c t f) s = onThread c t (scalarI s c t k.2.1 f k.2.2) := by
  simp only [immediateOps, List.forall_mem_cons]
  exact ⟨fun _ _ _ _ => rfl, fun _ _ _ _ => rfl, fun _ _ _ _ => rfl, fun _ _ _ _ => rfl,
    fun _ _ _ _ => scalarI_congr fun a _ => shiftLeft_eq_mul a _, fun _ _ _ _ => scalarI_congr fun a _ => ushiftRight_eq_div a _,
    fun _ _ _ _ => scalarI_congr fun a _ => sshiftRight_eq_div a _, fun _ _ _ _ => scalarI_congr fun _ _ => flag_decide _,
    fun _ _ _ _ => scalarI_congr fun _ _ => flag_decide _, fun _ _ _ _ => scalarI_congr aluLih_eq, fun _ h => absurd h List.not_mem_nil⟩

/-- Settles O22: each row of the tables is an instruction that writes the row's value of its sources to sD. -/
theorem scalarInstructionsGiveTheirResults : Obligations.ScalarInstructionsGiveTheirResults := by
  refine ⟨fun k hk s c t f e h => ?_, fun k hk s c t f e h => ?_, fun k hk s c t f e h => ?_⟩
  · rw [exec_scalarOps k hk]
    exact scalarR_result k.2.2 h
  · rw [exec_scalarFloatOps k hk]
    exact scalarR_result k.2.2 h
  · rw [exec_immediateOps k hk]
    exact scalarI_result k.2.2 h

end Sys2Proof.Machine
end

section
/-!
PROOF. Jumps, branches and their faults (O23); the instructions that act on threads (O14).
-/
namespace Sys2Proof.Machine
open Sys2Proof.Claim

/-! ### The fault of a cell -/

/-- A job fault changes nothing of a cell but its translations (R408). -/
theorem jobFault_cell (s : State) (j code c : Nat) : ∃ tlb, getCell (jobFault s j code) c = { getCell s c with tlb := tlb } := by
  cases loaded : (getJob s j).loaded with
  | false => exact ⟨_, by rw [jobFault, loaded]; rfl⟩
  | true =>
    cases sound : (getJob s j).faulted with
    | true => exact ⟨_, by rw [jobFault, loaded, sound]; rfl⟩
    | false =>
      rw [jobFault_of_loaded code loaded sound, failContext_cell, markFaulted_cell]
      exact ⟨_, (jobCleared_frame s j).cells c⟩

/-- A first fault of a cell with E_PAGE_FAULT is recorded there, and nothing else of the cell changes but its translations (R87, R98). -/
theorem cellFault_recorded {s : State} {c : Nat} (thread pc addr : Nat) (glob : Bool) (fresh : (getCell s c).faultCode = 0) :
    ∃ tlb, getCell (cellFault s c thread pc addr glob ePageFault) c =
      { getCell s c with
        faultCode := ePageFault, faultAddr := addr % 2 ^ 48, faultSpace := glob, faultThread := thread, faultPc := pc, tlb := tlb } := by
  have recorded := jobFault_cell (setCell s c { getCell s c with
    faultCode := ePageFault, faultAddr := addr % 2 ^ 48, faultSpace := glob, faultThread := thread, faultPc := pc }) (getCell s c).ctx ePageFault c
  simpa only [cellFault, fresh, true_and, if_true, getCell_setCell] using recorded

/-! ### Program counters -/

theorem pcOf_gotoPc (x : Cell) (t n : Nat) : pcOf (gotoPc x t n) t = n % 8192 := by
  rw [pcOf, gotoPc, setPc, mget_mset_same, BitVec.toNat_ofNat]

/-- PC + OFF is a word of the 2^13 (R75). -/
theorem pcPlus_cast (pc : Nat) (off : BitVec 32) : ((pcPlus pc off % 8192 : Nat) : Int) = ((pc : Int) + off.toInt) % 8192 := by
  rw [pcPlus, wrapTo]
  omega

@[simp] theorem pcOf_setS (x : Cell) (t r u : Nat) (v : Word) : pcOf (setS x t r v) u = pcOf x u := by
  obtain ⟨_, _, h⟩ := setS_frame x t r v
  rw [h]; rfl

/-- What a scalar write leaves of the threads, of whichever thread the register is. -/
theorem setS_threads (x : Cell) (t r u : Nat) (v : Word) :
    tstateOf (setS x t r v) u = tstateOf x u ∧ waitsOf (setS x t r v) u = waitsOf x u ∧ streamOf (setS x t r v) u = streamOf x u := by
  obtain ⟨_, _, h⟩ := setS_frame x t r v
  rw [h]
  exact ⟨rfl, rfl, rfl⟩

@[simp] theorem sReg_gotoPc (n : Nat) (x : Cell) (t k u r : Nat) : sReg n (gotoPc x t k) u r = sReg n x u r := rfl

/-! ### Jumps and branches -/

/-- An instruction that sends its thread to word n. -/
theorem next_jump {s : State} {c t : Nat} {e : Entry} {o : Out} (n : Nat) (h : o = .next (jump (issued s c e) c t n)) :
    ∃ u, o = .next u ∧ pcOf (getCell u c) t = n % 8192 ∧ RegisterFrame s u c [] :=
  ⟨_, h, by rw [jump, modCell_eq, getCell_setCell, pcOf_gotoPc], storeFrame_issued_setCell s c e (.gotoPc ..)⟩

/-- An instruction that writes the next word's number to sD and sends its thread to word n. -/
theorem next_link {s : State} {c t : Nat} {e : Entry} {o : Out} (r : BitVec 5) (v : Word) (n : Nat)
    (h : o = .next (jump (putS (issued s c e) c t r.toNat v) c t n)) :
    ∃ u, o = .next u ∧ pcOf (getCell u c) t = n % 8192 ∧ (∀ k, sReg k (getCell u c) t r.toNat = if r = 0 then 0 else v) ∧
      RegisterFrame s u c [resS t r.toNat] := by
  obtain ⟨u, hu, reg, frame⟩ := next_setS e r v (o := .next (putS (issued s c e) c t r.toNat v)) rfl
  obtain rfl := Host.Outcome.next.inj hu
  refine ⟨_, h, ?_, fun k => ?_, storeFrame_setCell frame (.gotoPc ..)⟩
  · rw [jump, modCell_eq, getCell_setCell, pcOf_gotoPc]
  · rw [jump, modCell_eq, getCell_setCell, sReg_gotoPc, reg]

theorem jumpTo_inside {s : State} {c t pc : Nat} {a : Word} (g : State → State) (inside : a.toNat % 8192 < (getCell s c).progWords) :
    jumpTo s c t pc a g = jump (g s) c t (a.toNat % 8192) := if_neg (by omega)

theorem jumpTo_outside {s : State} {c t pc : Nat} {a : Word} (g : State → State) (outside : (getCell s c).progWords ≤ a.toNat % 8192) :
    jumpTo s c t pc a g = cellFault s c t pc (8 * (a.toNat % 8192)) false ePageFault := if_pos outside

theorem jumpTargets : JumpTargets := by
  intro s c t f e
  refine ⟨fun h => ?_, fun h => ?_, fun h inside => ?_, fun h inside => ?_⟩
  · obtain ⟨u, next, pc, frame⟩ := next_jump _ (onThread_issue h fun s' e => jump s' c t (pcPlus e.pc f.off))
    exact ⟨u, next, by rw [pc]; exact pcPlus_cast .., frame⟩
  · obtain ⟨u, next, pc, link, frame⟩ := next_link f.d _ _
      (onThread_issue h fun s' e => jump (putS s' c t f.d.toNat (BitVec.ofNat 64 (e.pc + 1))) c t (pcPlus e.pc f.off))
    exact ⟨u, next, by rw [pc]; exact pcPlus_cast .., link, frame⟩
  · obtain ⟨u, next, pc, frame⟩ := next_jump _ ((onThread_issue h fun s' e =>
      jumpTo s' c t e.pc (sReg s.free (getCell s' c) t f.a.toNat) (fun u => u)).trans
        (congrArg _ (jumpTo_inside _ (by simpa using inside))))
    exact ⟨u, next, by rw [pc, sReg_issued, Nat.mod_mod], frame⟩
  · obtain ⟨u, next, pc, link, frame⟩ := next_link f.d (BitVec.ofNat 64 (e.pc + 1)) _ ((onThread_issue h fun s' e =>
      jumpTo s' c t e.pc (sReg s.free (getCell s' c) t f.a.toNat) (fun u => putS u c t f.d.toNat (BitVec.ofNat 64 (e.pc + 1)))).trans
        (congrArg _ (jumpTo_inside _ (by simpa using inside))))
    exact ⟨u, next, by rw [pc, sReg_issued, Nat.mod_mod], link, frame⟩

theorem indirectJumpFaultsOutsideProgram : IndirectJumpFaultsOutsideProgram := by
  intro s c t f e reg h outside fresh
  have next := (onThread_issue h fun s' e => jumpTo s' c t e.pc (sReg s.free (getCell s' c) t f.a.toNat) (fun u => u)).trans
    (congrArg _ (jumpTo_outside _ (by simpa using outside)))
  rw [sReg_issued] at next
  obtain ⟨tlb, cell⟩ := cellFault_recorded t e.pc (8 * reg) false ((faultCode_issued s c e).trans fresh)
  refine ⟨_, next, ?_⟩
  rw [cell]
  have small : 8 * reg < 2 ^ 48 := by omega
  exact ⟨rfl, Nat.mod_eq_of_lt small, rfl, rfl, rfl⟩

/-- The comparison of each branch. -/
theorem exec_branchOps : ∀ k ∈ branchOps, ∀ c t f s, exec (k.1 c t f) s = onThread c t (branch s c t k.2.1 f k.2.2) := by
  have eq : (fun a b : Word => a == b) = fun a b => decide (a = b) := by funext a b; exact beq_eq_decide a b
  have ne : (fun a b : Word => a != b) = fun a b => decide (a ≠ b) := by
    funext a b
    rw [bne, beq_eq_decide, decide_not]
  have ge : (fun a b : Word => !a.slt b) = fun a b => decide (b.toInt ≤ a.toInt) := by
    funext a b
    rw [BitVec.slt_eq_decide, ← decide_not, decide_eq_decide, Int.not_lt]
  have geu : (fun a b : Word => !a.ult b) = fun a b => decide (b.toNat ≤ a.toNat) := by
    funext a b
    rw [BitVec.ult_eq_decide, ← decide_not, decide_eq_decide, Nat.not_lt]
  simp only [branchOps, List.forall_mem_cons]
  exact ⟨fun c t f s => congrArg (fun g => onThread c t (branch s c t _ f g)) eq, fun c t f s => congrArg (fun g => onThread c t (branch s c t _ f g)) ne,
    fun _ _ _ _ => rfl, fun c t f s => congrArg (fun g => onThread c t (branch s c t _ f g)) ge, fun _ _ _ _ => rfl,
    fun c t f s => congrArg (fun g => onThread c t (branch s c t _ f g)) geu, fun _ h => absurd h List.not_mem_nil⟩

theorem branchTargets : BranchTargets := by
  intro k hk s c t f e h
  rw [exec_branchOps k hk, branch, issueB, onThread_issue h]
  simp only [sReg_issued]
  cases k.2.2 (sReg s.free (getCell s c) t f.a.toNat) (sReg s.free (getCell s c) t f.b.toNat) with
  | false => exact ⟨_, rfl, congrArg _ (pcOf_issued s c e t), storeFrame_issued s c e⟩
  | true =>
    obtain ⟨u, next, pc, frame⟩ := next_jump (s := s) (c := c) (t := t) (e := e) (pcPlus e.pc f.off) rfl
    exact ⟨u, next, by rw [pc]; exact pcPlus_cast .., frame⟩

/-- Settles O23: a jump moves the PC of its thread and nothing else; an indirect one outside the program is the cell's fault. -/
theorem controlTransfersGoToTheirTargets : Obligations.ControlTransfersGoToTheirTargets :=
  ⟨jumpTargets, indirectJumpFaultsOutsideProgram, branchTargets⟩

/-! ### Threads -/

theorem tstateOf_setTState_ne (x : Cell) {t u : Nat} (v : TState) (h : t ≠ u) : tstateOf (setTState x u v) t = tstateOf x t :=
  mget_mset_ne TState.idle v h

theorem waitsOf_setWaits_ne (x : Cell) {t u : Nat} (v : Waits) (h : t ≠ u) : waitsOf (setWaits x u v) t = waitsOf x t :=
  mget_mset_ne Waits.none v h

/-- Threads wake from QFULL only, to READY. -/
theorem tstateOf_wakeFull (x : Cell) (t : Nat) :
    tstateOf (wakeFull x) t = tstateOf x t ∨ tstateOf x t = .qfull ∧ tstateOf (wakeFull x) t = .ready :=
  List.foldlRecOn (motive := fun y => tstateOf y t = tstateOf x t ∨ tstateOf x t = .qfull ∧ tstateOf y t = .ready) _ _ (.inl rfl)
    fun y hy u _ => by
      dsimp only
      split
      next wakes =>
        by_cases h : t = u
        · subst h
          rcases hy with same | ⟨full, ready⟩
          · exact .inr ⟨same ▸ wakes.1, tstateOf_setTState ..⟩
          · exact .inr ⟨full, tstateOf_setTState ..⟩
        · rwa [tstateOf_setTState_ne _ _ h]
      · exact hy

/-- A thread is as it was before the issue, unless it wakes from QFULL. -/
theorem tstateOf_issued (s : State) (c t : Nat) (e : Entry) :
    tstateOf (getCell (issued s c e) c) t = tstateOf (getCell s c) t ∨
      tstateOf (getCell s c) t = .qfull ∧ tstateOf (getCell (issued s c e) c) t = .ready := by
  have same : tstateOf (withoutEntry (getCell s c) e) t = tstateOf (getCell s c) t := by
    rw [withoutEntry]
    cases queueOf e.word <;> rfl
  rw [getCell_issued, ← same]
  exact tstateOf_wakeFull _ t

/-- A thread that has not started, or has halted (R60, R62). -/
def stopped (x : Cell) (t : Nat) : Prop := tstateOf x t = .idle ∨ tstateOf x t = .halted

theorem stopped_issued (s : State) (c t : Nat) (e : Entry) : stopped (getCell (issued s c e) c) t ↔ stopped (getCell s c) t := by
  unfold stopped
  rcases tstateOf_issued s c t e with same | ⟨full, ready⟩
  · rw [same]
  · simp [full, ready]

/-- The special registers by the number in OFF (R75). -/
theorem specialReg_eq (s : State) (c t : Nat) (off : BitVec 32) :
    let x := getCell s c
    specialReg s c t off.toNat =
      if off = 0 then BitVec.ofNat 64 c else if off = 1 then BitVec.ofNat 64 t
      else if off = 2 then BitVec.ofNat 64 (x.rank + 65536 * x.bedW + 16777216 * x.bedH)
      else if off = 3 then x.step.setWidth 64 else if off = 4 then x.itemWord &&& 0xFFFFFFFFF else if off = 5 then BitVec.ofNat 64 s.ember
      else if off = 7 then BitVec.ofNat 64 x.ctx else Config.freeWord s.free off.toNat := by
  have val : ∀ k : BitVec 32, (off = k) = (off.toNat = k.toNat) := fun k => propext BitVec.toNat_inj.symm
  simp only [val]
  generalize off.toNat = n
  unfold specialReg
  split
  case h_8 h0 h1 h2 h3 h4 h5 h7 =>
    simp [show n ≠ 0 from h0, show n ≠ 1 from h1, show n ≠ 2 from h2, show n ≠ 3 from h3, show n ≠ 4 from h4, show n ≠ 5 from h5,
      show n ≠ 7 from h7]
  all_goals rfl

/-- A thread that joins thread t goes on. -/
def endJoin (t : Nat) (x : Cell) (u : Nat) : Cell := if waitsOf x u = .join t then setWaits (setTState x u .ready) u .none else x

theorem haltThread_eq (x : Cell) (t : Nat) : haltThread x t = (List.range 8).foldl (endJoin t) (setTState x t .halted) := rfl

/-- Of the threads listed, those that join t become READY; a thread that does not is left. -/
theorem tstateOf_endJoins (t k : Nat) (l : List Nat) (x : Cell) :
    (waitsOf x k ≠ .join t → tstateOf (l.foldl (endJoin t) x) k = tstateOf x k) ∧
      (waitsOf x k = .join t → k ∈ l → tstateOf (l.foldl (endJoin t) x) k = .ready) := by
  induction l generalizing x with
  | nil => exact ⟨fun _ => rfl, fun _ h => absurd h List.not_mem_nil⟩
  | cons u rest ih =>
    obtain ⟨left, woken⟩ := ih (endJoin t x u)
    by_cases joins : waitsOf x u = .join t
    · rw [List.foldl_cons, endJoin, if_pos joins] at *
      by_cases h : k = u
      · subst h
        have done := left (by simp [waitsOf_setWaits])
        exact ⟨fun no => absurd joins no, fun _ _ => done.trans (tstateOf_setTState x k .ready)⟩
      · rw [waitsOf_setWaits_ne _ _ h] at left woken
        refine ⟨fun no => (left no).trans (tstateOf_setTState_ne x .ready h), fun yes mem => woken yes ?_⟩
        exact (List.mem_cons.mp mem).resolve_left h
    · rw [List.foldl_cons, endJoin, if_neg joins] at *
      refine ⟨left, fun yes mem => woken yes ?_⟩
      exact (List.mem_cons.mp mem).resolve_left fun h => joins (h ▸ yes)

theorem haltThread_halts {x : Cell} {t : Nat} (h : waitsOf x t ≠ .join t) : tstateOf (haltThread x t) t = .halted :=
  ((tstateOf_endJoins t t (List.range 8) (setTState x t .halted)).1 h).trans (tstateOf_setTState ..)

theorem haltThread_wakes {x : Cell} {t k : Nat} (hk : k < 8) (h : waitsOf x k = .join t) : tstateOf (haltThread x t) k = .ready :=
  (tstateOf_endJoins t k (List.range 8) (setTState x t .halted)).2 h (List.mem_range.mpr hk)

theorem startPublish_spec (x : Cell) : tstateOf (startPublish x) 0 = .drain ∧ waitsOf (startPublish x) 0 = .publish :=
  ⟨tstateOf_setTState x 0 .drain, waitsOf_setWaits (setTState x 0 .drain) 0 .publish⟩

/-- The registers and the PC of another thread that starts (R60). -/
theorem spawn_spec (x : Cell) (u n : Nat) (arg : Word) (stream : BitVec 32) :
    tstateOf (spawn x u n arg stream) u = .ready ∧ pcOf (spawn x u n arg stream) u = n % 8192 ∧
      (∀ k, sReg k (spawn x u n arg stream) u 1 = arg) ∧ streamOf (spawn x u n arg stream) u = stream := by
  refine ⟨tstateOf_setTState .., pcOf_gotoPc _ u n, fun k => sReg_setS k (forgetRegs x u) u 1 arg, ?_⟩
  exact streamOf_setStream (setS (forgetRegs x u) u 1 arg) u stream

/-- TSPAWN of a stopped thread starts it at PC + OFF with sB in its s1 and its spawner's STREAMID (R60). -/
theorem tspawn_starts {s : State} {c t : Nat} {f : BFields} {e : Entry} (h : Issues s c t (encB 0 0x10 f) e) :
    let x := getCell s c
    let u := (sReg s.free x t f.a.toNat).toNat % 8
    u ≠ 0 → stopped x u → u ≠ t →
      ∃ v, exec (.kTspawn c t f) s = .next v ∧ tstateOf (getCell v c) u = .ready ∧
        (pcOf (getCell v c) u : Int) = ((e.pc : Int) + f.off.toInt) % 8192 ∧
        (∀ n, sReg n (getCell v c) u 1 = sReg s.free x t f.b.toNat) ∧ streamOf (getCell v c) u = streamOf x t ∧
        (∀ n, sReg n (getCell v c) t f.d.toNat = 0) := by
  intro x u notZero stop other
  have notRunning : ¬ (tstateOf (getCell (issued s c e) c) u ≠ .idle ∧ tstateOf (getCell (issued s c e) c) u ≠ .halted) :=
    fun ⟨notIdle, notHalted⟩ => ((stopped_issued s c u e).mpr stop).elim notIdle notHalted
  have apart : resS u 1 ≠ resS t f.d.toNat := by
    have := f.d.isLt
    rw [resS, resS]
    omega
  have reg : resS u 1 < 256 := by
    rw [resS]
    omega
  refine ⟨_, onThread_issue h _, ?_⟩
  simp only [modCell_eq, getCell_setCell, sReg_issued, streamOf_issued]
  rw [if_neg notZero, if_neg notRunning]
  generalize getCell (issued s c e) c = y
  obtain ⟨state, pc, arg, stream⟩ := spawn_spec y u (pcPlus e.pc f.off) (sReg s.free x t f.b.toNat) (streamOf x t)
  obtain ⟨state', -, stream'⟩ := setS_threads (spawn y u (pcPlus e.pc f.off) (sReg s.free x t f.b.toNat) (streamOf x t)) t f.d.toNat u 0
  refine ⟨state'.trans state, ?_, fun n => (sReg_of_sameRes (sameRes_setS _ t _ 0 apart) reg n).trans (arg n), stream'.trans stream, fun n => ?_⟩
  · rw [pcOf_setS, pc]
    exact pcPlus_cast ..
  · rw [sReg_setS, ite_self]

/-- TJOIN of another thread that has not stopped waits for its HALT (R62). -/
theorem tjoin_waits {s : State} {c t : Nat} {f : BFields} {e : Entry} (h : Issues s c t (encB 0 0x11 f) e) :
    let u := (sReg s.free (getCell s c) t f.a.toNat).toNat % 8
    u ≠ t → ¬ stopped (getCell s c) u →
      ∃ v, exec (.kTjoin c t f) s = .next v ∧ tstateOf (getCell v c) t = .sync ∧ waitsOf (getCell v c) t = .join u := by
  intro u other runs
  rw [← stopped_issued s c u e, stopped] at runs
  refine ⟨_, onThread_issue h _, ?_⟩
  simp only [modCell_eq, getCell_setCell, sReg_issued]
  rw [if_neg (not_or.mpr ⟨other, runs⟩)]
  generalize getCell (issued s c e) c = y
  exact ⟨tstateOf_setTState y t .sync, waitsOf_setWaits (setTState y t .sync) t (.join u)⟩

/-- HALT (R62). -/
theorem halt_ends {s : State} {c t : Nat} {f : BFields} {e : Entry} (h : Issues s c t (encB 0 0x13 f) e)
    (noSelf : waitsOf (getCell s c) t ≠ .join t) :
    ∃ v, exec (.kHalt c t f) s = .next v ∧
      (t ≠ 0 → tstateOf (getCell v c) t = .halted ∧
        ∀ k, k < 8 → k ≠ t → waitsOf (getCell s c) k = .join t → tstateOf (getCell v c) k = .ready) ∧
      (t = 0 → tstateOf (getCell v c) 0 = .drain ∧ waitsOf (getCell v c) 0 = .publish) := by
  refine ⟨_, onThread_issue h fun s' _ => modCell s' c (fun x => if t = 0 then startPublish x else haltThread x t), fun other => ?_, fun zero => ?_⟩
  · rw [modCell_eq, getCell_setCell, if_neg other]
    exact ⟨haltThread_halts (by rwa [waitsOf_issued]), fun k hk _ joins => haltThread_wakes hk (by rwa [waitsOf_issued])⟩
  · rw [modCell_eq, getCell_setCell, if_pos zero]
    exact startPublish_spec _

/-- Settles O14, instruction by instruction. -/
theorem threadControlEffects : Obligations.ThreadControlEffects := by
  intro s c t f e x u
  refine ⟨fun h => onThread_issue h fun s' _ => s', fun h => ?_, fun h => ?_, fun h => ?_, tspawn_starts,
    fun h other notIdle notHalted => tjoin_waits h other (not_or.mpr ⟨notIdle, notHalted⟩), halt_ends⟩
  · obtain ⟨v, next, cell, frame⟩ := next_modCell (onThread_issue h fun s' _ => modCell s' c (fun x => { x with skip := t :: x.skip.filter (· ≠ t) }))
      fun _ => .of_eq rfl rfl rfl rfl rfl rfl rfl rfl rfl rfl rfl
    exact ⟨v, next, by rw [cell]; exact List.mem_cons_self, frame⟩
  · obtain ⟨v, next, reg, frame⟩ := next_setS e f.d (specialReg s c t f.off.toNat)
      (onThread_issue h fun s' _ => putS s' c t f.d.toNat (specialReg s c t f.off.toNat))
    exact ⟨v, next, frame, fun notZero n => by rw [reg, if_neg notZero, specialReg_eq]⟩
  · obtain ⟨v, next, cell, frame⟩ := next_modCell (dests := [resStream t])
      (onThread_issue h fun s' _ => modCell s' c (fun x => setStream x t ((sReg s.free x t f.a.toNat).setWidth 32)))
      fun x => .setStream x t _ (List.mem_singleton_self _)
    exact ⟨v, next, frame, by rw [cell, streamOf_setStream, sReg_issued]⟩

end Sys2Proof.Machine
end

section
/-!
PROOF. Allocation and stream instructions (O17, O18); tile and mask accesses on the cell store (O15).
-/
namespace Sys2Proof.Machine
open Sys2Proof.Claim

/-! ### Allocation -/

@[simp] theorem allocs_issued (s : State) (c : Nat) (e : Entry) : (getCell (issued s c e) c).allocs = (getCell s c).allocs := by
  obtain ⟨_, _, _, _, _, _, h⟩ := issued_cell s c e
  rw [h]

/-- A request that issues stands with the allocator, with its operands and its destination (R80). -/
theorem requestAlloc_stands {s : State} {c t op : Nat} {f : RFields} {e : Entry} {o : Out} (kind : Nat) (hop : op < 256)
    (h : Issues s c t (encR 5 op f) e) (next : o = .next (requestAlloc (issued s c e) c e s.free kind)) :
    ∃ u q, o = .next u ∧ (getCell u c).allocs = (getCell s c).allocs ++ [q] ∧ q.kind = kind ∧ q.a = sReg s.free (getCell s c) t f.a.toNat ∧
      q.b = sReg s.free (getCell s c) t f.b.toNat ∧ q.dest = f.d.toNat ∧ q.thread = t ∧ q.stamp = e.stamp ∧ q.waiting = false ∧
      RegisterFrame s u c [] := by
  obtain ⟨-, -, hd, ha, hb, -⟩ := encR_fields (by decide : 5 < 16) hop f
  rw [← issues_word h] at hd ha hb
  obtain ⟨u, next, cell, frame⟩ := next_modCell next fun _ => .of_eq rfl rfl rfl rfl rfl rfl rfl rfl rfl rfl rfl
  refine ⟨u, _, next, by rw [cell, allocs_issued], rfl, ?_, ?_, hd, issues_thread h, rfl, rfl, frame⟩
  · simp only [sReg_issued, issues_thread h, ha]
  · simp only [sReg_issued, issues_thread h, hb]

/-- Settles O17. -/
theorem allocationInstructions : Obligations.AllocationInstructions := by
  intro s c t f e
  refine ⟨fun h => ?_, fun h => ?_, fun h => ?_, fun h zero => ?_, fun h other => ?_⟩
  · exact requestAlloc_stands 0 (by decide) h (onThread_issue h fun u e => requestAlloc u c e s.free 0)
  · exact requestAlloc_stands 1 (by decide) h (onThread_issue h fun u e => requestAlloc u c e s.free 1)
  · exact requestAlloc_stands 2 (by decide) h (onThread_issue h fun u e => requestAlloc u c e s.free 2)
  · have next : exec (.kPublish c t f) s = .next (modCell (issued s c e) c startPublish) := (onThread_issue h fun u _ =>
      modCell u c (fun x => if t = 0 then startPublish x else setS x t f.d.toNat (statusWord eBadState))).trans (by simp only [if_pos zero])
    obtain ⟨u, next, cell, frame⟩ := next_modCell next fun x => (CellFrame.setTState x 0 .drain).trans (.setWaits _ 0 .publish)
    obtain ⟨state, waits⟩ := startPublish_spec (getCell (issued s c e) c)
    exact ⟨u, next, by rw [cell, state], by rw [cell, waits], frame⟩
  · exact next_setS e f.d _ ((onThread_issue h fun u _ =>
      modCell u c (fun x => if t = 0 then startPublish x else setS x t f.d.toNat (statusWord eBadState))).trans (by simp only [if_neg other]))

/-! ### Streams -/

section
variable {free : Nat} {u : State} {c t : Nat} {e : Entry} {f : RFields} {x : Cell}

theorem qLoad_begun (h : (getSlot (getCell u c) (slotIndex f)).state = .running ∨ (getSlot (getCell u c) (slotIndex f)).state = .ended) :
    qLoad free u c t e f = setCell u c (qAnswer (getCell u c) t f.d.toNat (statusWord eBadState)) := if_pos h

/-- A sound descriptor at a 64-byte aligned address of the cell store is loaded (R190, R193). -/
theorem qLoad_sound
    (idle : ¬ ((getSlot (getCell u c) (slotIndex f)).state = .running ∨ (getSlot (getCell u c) (slotIndex f)).state = .ended))
    (place : ¬ ((sReg free (getCell u c) t f.a.toNat).toNat % 64 ≠ 0 ∨ 0x3FFC0 < (sReg free (getCell u c) t f.a.toNat).toNat))
    (sound : descFault (wordsOf (localRead free (getCell u c) (sReg free (getCell u c) t f.a.toNat).toNat 64)) = none) :
    qLoad free u c t e f = setCell u c (qAnswer (setSlot (getCell u c) (slotIndex f)
      { getSlot (getCell u c) (slotIndex f) with
        state := .loaded, desc := wordsOf (localRead free (getCell u c) (sReg free (getCell u c) t f.a.toNat).toNat 64), pos := 0 }) t f.d.toNat 0) := by
  simp only [qLoad, if_neg idle, if_neg place, sound]

theorem qStart_starts (stands : (getSlot x (slotIndex f)).state = .loaded ∨ (getSlot x (slotIndex f)).state = .ended)
    (room : bufferUsed x + dDepth (getSlot x (slotIndex f)).desc * unitFootprint (getSlot x (slotIndex f)).desc ≤ 65536) :
    qStart x t f = qAnswer (setSlot x (slotIndex f) { getSlot x (slotIndex f) with
      state := .running, starter := t, gen := (getSlot x (slotIndex f)).gen + 1, nextUnit := 0, pos := 0, units := [], drops := 0 }) t f.d.toNat 0 := by
  have loaded : ¬ ((getSlot x (slotIndex f)).state ≠ .loaded ∧ (getSlot x (slotIndex f)).state ≠ .ended) := fun ⟨a, b⟩ => stands.elim a b
  simp only [qStart, if_neg loaded, if_neg (Nat.not_lt.mpr room)]

theorem qStop_stops (begun : (getSlot x (slotIndex f)).state = .running ∨ (getSlot x (slotIndex f)).state = .ended) :
    qStop x t f = qAnswer (setSlot x (slotIndex f) { getSlot x (slotIndex f) with
      state := .loaded, gen := (getSlot x (slotIndex f)).gen + 1, units := [] }) t f.d.toNat 0 := by
  have runs : ¬ ((getSlot x (slotIndex f)).state ≠ .running ∧ (getSlot x (slotIndex f)).state ≠ .ended) := fun ⟨a, b⟩ => begun.elim a b
  simp only [qStop, if_neg runs]

/-- Claims that have come are taken, and streams go on (R197). -/
theorem takeClaims_taken {l : List (List Byte × List Byte)} (g : List (List Byte × List Byte) → Cell → Cell)
    (got : claimsGot (getCell u c) (e.claims.getD []) = .inl l) :
    takeClaims u c e g = setCell u c (assignClaims (settleSlots (g l (getCell u c)))) := by
  simp only [takeClaims, got]

end

/-- Settles O18: each clause is one branch of its instruction. -/
theorem streamInstructions : Obligations.StreamInstructions := by
  intro s c t f e v x q sl a d
  refine ⟨fun h notRunning notEnded aligned low sound => ?_, fun h begun => ?_, fun h stands room => ?_, fun h begun => ?_, fun l h got => ?_, fun h => ?_⟩
  · have place : ¬ (a % 64 ≠ 0 ∨ 0x3FFC0 < a) := not_or.mpr ⟨not_not.mpr aligned, Nat.not_lt.mpr low⟩
    exact (onThread_issue h fun u e => qLoad s.free u c t e f).trans
      (congrArg _ (qLoad_sound (not_or.mpr ⟨notRunning, notEnded⟩) place sound))
  · exact (onThread_issue h fun u e => qLoad s.free u c t e f).trans (congrArg _ (qLoad_begun begun))
  · exact (onThread_issue h fun u _ => modCell u c (fun x => qStart x t f)).trans
      (congrArg (fun y => Host.Outcome.next (setCell v c y)) (qStart_starts stands room))
  · exact (onThread_issue h fun u _ => modCell u c (fun x => qStop x t f)).trans
      (congrArg (fun y => Host.Outcome.next (setCell v c y)) (qStop_stops begun))
  · exact (onThread_issue h fun u e =>
      takeClaims u c e (fun l x => setS x t f.d.toNat (BitVec.ofNat 64 (leNat ((l.headD ([], [])).1))))).trans (congrArg _ (takeClaims_taken _ got))
  · exact onThread_issue h fun u _ => modCell u c (fun x => setS x t f.d.toNat (qStatus x (slotIndex f)))

/-! ### Accesses to the cell store -/

/-- A local access whose ranges stand acts on its cell. -/
theorem localAccess_sound {s : State} {c : Nat} {write : Bool} {rs : List (Nat × Nat)} (e : Entry) (g : Cell → Cell)
    (ok : localBad (getCell s c) write rs = none) : localAccess s c e write rs g = modCell s c g := by
  rw [localAccess, ok]

/-- One range below the end of the cell store may be read, and above the program region it may be written (R57, R87). -/
theorem localBad_read (x : Cell) {a n : Nat} (inside : a + n ≤ 0x40000) : localBad x false [(a, n)] = none := by
  simp [localBad, localOk, inside]

theorem localBad_write {x : Cell} {a n : Nat} (inside : a + n ≤ 0x40000) (above : 8 * x.progWords ≤ a) : localBad x true [(a, n)] = none := by
  simp [localBad, localWOk, localOk, inside, above]

/-! ### Tiles and masks -/

section
variable {free : Nat} {u : State} {c : Nat} {e : Entry}

theorem loadTile_local (space : wSpace e.word = false) (aligned : tileMisaligned (wFmt e.word) (tileRanges free (getCell u c) e.thread e.word) = none)
    (ok : localBad (getCell u c) false (tileRanges free (getCell u c) e.thread e.word) = none) :
    loadTile u c e free =
      let x := getCell u c
      let data := vldBytes e.word (maskReg free x (wMask e.word)) (tilesFrom free x (wD e.word) (tileCount (wFmt e.word)))
        (localReads free x (tileRanges free x e.thread e.word))
      modCell u c (fun x => setTiles x (wD e.word) (pieces 1024 (data.length / 1024) data)) := by
  simp only [loadTile, aligned, space, Bool.false_eq_true, if_false, localAccess_sound e _ ok, modCell_eq]

theorem storeTile_local (space : wSpace e.word = false) (aligned : tileMisaligned (wFmt e.word) (tileRanges free (getCell u c) e.thread e.word) = none)
    (ok : localBad (getCell u c) true (tileRanges free (getCell u c) e.thread e.word) = none) :
    storeTile u c e free =
      modCell u c (fun y => (runsOf (tileRanges free (getCell u c) e.thread e.word) (vstBytes u (getCell u c) e free)).foldl
        (fun y r => localWrite y r.1 r.2) y) := by
  simp only [storeTile, aligned, space, storeRuns, Bool.false_eq_true, if_false, localAccess_sound e _ ok]

theorem loadMask_local (space : wSpace e.word = false) (aligned : (tileAddr free (getCell u c) e.thread e.word).toNat % 64 = 0)
    (inside : (tileAddr free (getCell u c) e.thread e.word).toNat + 128 ≤ 0x40000) :
    loadMask u c e free = modCell u c (fun x => setMask x (wD e.word)
      (BitVec.ofNat 1024 (leNat (localRead free x (tileAddr free (getCell u c) e.thread e.word).toNat 128)))) := by
  simp only [loadMask, aligned, space, ne_eq, not_true_eq_false, Bool.false_eq_true, if_false, localAccess_sound e _ (localBad_read _ inside)]

theorem storeMask_local (space : wSpace e.word = false) (aligned : (tileAddr free (getCell u c) e.thread e.word).toNat % 64 = 0)
    (inside : (tileAddr free (getCell u c) e.thread e.word).toNat + 128 ≤ 0x40000)
    (above : 8 * (getCell u c).progWords ≤ (tileAddr free (getCell u c) e.thread e.word).toNat) :
    storeMask u c e free = modCell u c (fun y =>
      localWrite y (tileAddr free (getCell u c) e.thread e.word).toNat (leBytes 128 (maskReg free (getCell u c) (wD e.word)).toNat)) := by
  simp only [storeMask, aligned, space, storeRuns, ne_eq, not_true_eq_false, Bool.false_eq_true, if_false,
    localAccess_sound e _ (localBad_write inside above), List.foldl_cons, List.foldl_nil]

end

/-- Settles O15: each access passes its checks, and what it does is the branch of the cell store. -/
theorem localTileAccesses : Obligations.LocalTileAccesses := by
  intro s c t f e v x rs a m
  have fields : ∀ {op}, op < 256 → Issues s c t (encVM 9 op f) e →
      e.thread = t ∧ wSpace e.word = f.space ∧ wFmt e.word = f.fmt.toNat ∧ wD e.word = f.d.toNat ∧ wMask e.word = f.mask.toNat := by
    intro op hop h
    obtain ⟨-, -, hd, -, -, hspace, -, hfmt, hmask, -⟩ := encVM_fields (by decide : 9 < 16) hop f
    rw [issues_word h]
    exact ⟨issues_thread h, hspace, hfmt, hd, hmask⟩
  refine ⟨fun h space aligned ok => ?_, fun h space aligned ok => ?_, fun h space aligned inside => ?_, fun h space aligned inside above => ?_,
    fun l h got => ?_⟩
  · obtain ⟨ht, hspace, hfmt, hd, hmask⟩ := fields (by decide) h
    refine (onThread_issue h fun u e => loadTile u c e s.free).trans (congrArg _ ?_)
    rw [loadTile_local (hspace.trans space) (by rw [ht, hfmt]; exact aligned) (by rw [ht]; exact ok), ht, hfmt, hd, hmask]
  · obtain ⟨ht, hspace, hfmt, -⟩ := fields (by decide) h
    refine (onThread_issue h fun u e => storeTile u c e s.free).trans (congrArg _ ?_)
    rw [storeTile_local (hspace.trans space) (by rw [ht, hfmt]; exact aligned) (by rw [ht]; exact ok), ht]
  · obtain ⟨ht, hspace, -, hd, -⟩ := fields (by decide) h
    refine (onThread_issue h fun u e => loadMask u c e s.free).trans (congrArg _ ?_)
    rw [loadMask_local (hspace.trans space) (by rw [ht]; exact aligned) (by rw [ht]; exact inside), ht, hd]
  · obtain ⟨ht, hspace, -, hd, -⟩ := fields (by decide) h
    refine (onThread_issue h fun u e => storeMask u c e s.free).trans (congrArg _ ?_)
    rw [storeMask_local (hspace.trans space) (by rw [ht]; exact aligned) (by rw [ht]; exact inside) (by rw [ht]; exact above), ht, hd]
  · exact (onThread_issue h fun u e => takeClaims u c e (fun l x =>
      setTile x f.d.toNat (vldBytes e.word (maskReg s.free x f.mask.toNat) (tileBytes s.free x f.d.toNat) ((l.headD ([], [])).1)))).trans
        (congrArg _ (takeClaims_taken _ got))

end Sys2Proof.Machine
end

section
/-!
PROOF. The vector instructions that work element by element, and the frames of those that write one tile or one mask (O19, O20).
-/
namespace Sys2Proof.Machine
open Sys2Proof.Claim

/-! ### The tables -/

theorem exec_elementOps2 : ∀ k ∈ elementOps2, ∀ c t f s, exec (k.1 c t f) s = onThread c t (vec2 s c t k.2.1 f (k.2.2 f)) := by
  simp only [elementOps2, List.forall_mem_cons]
  exact ⟨fun _ _ _ _ => rfl, fun _ _ _ _ => rfl, fun _ _ _ _ => rfl, fun _ _ _ _ => rfl, fun _ _ _ _ => rfl, fun _ _ _ _ => rfl,
    fun _ _ _ _ => rfl, fun _ _ _ _ => rfl, fun _ _ _ _ => rfl, fun _ _ _ _ => rfl, fun _ _ _ _ => rfl, fun _ _ _ _ => rfl,
    fun _ _ _ _ => rfl, fun _ _ _ _ => rfl, fun _ _ _ _ => rfl, fun _ _ _ _ => rfl, fun _ _ _ _ => rfl, fun _ _ _ _ => rfl,
    fun _ _ _ _ => rfl, fun _ _ _ _ => rfl, fun _ _ _ _ => rfl, fun _ _ _ _ => rfl, fun _ h => absurd h List.not_mem_nil⟩

theorem exec_elementOps1 : ∀ k ∈ elementOps1, ∀ c t f s, exec (k.1 c t f) s = onThread c t (vec1 s c t k.2.1 f (k.2.2 f)) := by
  simp only [elementOps1, List.forall_mem_cons]
  exact ⟨fun _ _ _ _ => rfl, fun _ _ _ _ => rfl, fun _ _ _ _ => rfl, fun _ _ _ _ => rfl, fun _ _ _ _ => rfl, fun _ _ _ _ => rfl,
    fun _ _ _ _ => rfl, fun _ _ _ _ => rfl, fun _ _ _ _ => rfl, fun _ _ _ _ => rfl, fun _ h => absurd h List.not_mem_nil⟩

theorem exec_scaleOps : ∀ k ∈ scaleOps, ∀ c t f s, exec (k.1 c t f) s = onThread c t (vecFS s c t k.2.1 f k.2.2) := by
  simp only [scaleOps, List.forall_mem_cons]
  exact ⟨fun _ _ _ _ => rfl, fun _ _ _ _ => rfl, fun _ h => absurd h List.not_mem_nil⟩

theorem exec_reduceOps : ∀ k ∈ reduceOps, ∀ c t f s, exec (k.1 c t f) s = onThread c t (vecReduce s c t k.2.1 f k.2.2.1 k.2.2.2) := by
  simp only [reduceOps, List.forall_mem_cons]
  exact ⟨fun _ _ _ _ => rfl, fun _ _ _ _ => rfl, fun _ _ _ _ => rfl, fun _ _ _ _ => rfl, fun _ _ _ _ => rfl, fun _ _ _ _ => rfl,
    fun _ h => absurd h List.not_mem_nil⟩

theorem exec_compareOps : ∀ k ∈ compareOps, ∃ op, ∀ c t f s, exec (k.1 c t f) s = onThread c t (vecCmp s c t k.2.1 f op) := by
  simp only [compareOps, List.forall_mem_cons]
  exact ⟨⟨.eq, fun _ _ _ _ => rfl⟩, ⟨.lt, fun _ _ _ _ => rfl⟩, ⟨.le, fun _ _ _ _ => rfl⟩, fun _ h => absurd h List.not_mem_nil⟩

theorem exec_testOps : ∀ k ∈ testOps, ∀ c t f s, exec (k.1 c t f) s = onThread c t (vecTest s c t k.2.1 f k.2.2) := by
  simp only [testOps, List.forall_mem_cons]
  exact ⟨fun _ _ _ _ => rfl, fun _ _ _ _ => rfl, fun _ _ _ _ => rfl, fun _ h => absurd h List.not_mem_nil⟩

theorem exec_maskOps : ∀ k ∈ maskOps, ∀ c t f s, exec (k.1 c t f) s = onThread c t (maskOp s c t k.2.1 f k.2.2) := by
  simp only [maskOps, List.forall_mem_cons]
  exact ⟨fun _ _ _ _ => rfl, fun _ _ _ _ => rfl, fun _ _ _ _ => rfl, fun _ _ _ _ => rfl, fun _ h => absurd h List.not_mem_nil⟩

/-! ### Elements -/

section
variable {s : State} {c t op : Nat} {f : VFields} {e : Entry}

@[simp] theorem vElems_issued (n : BitVec 5) : vElems s.free (getCell (issued s c e) c) f n.toNat = codes s c f n := by
  rw [vElems, tileBytes_issued, codes]

/-- The elements under the mask that stand when the entry has gone are those before (R131). -/
theorem putTile_issued (l : List Nat) :
    setCell (issued s c e) c (putTile s.free (getCell (issued s c e) c) f l) =
      modCell (issued s c e) c (fun x => setTile x f.d.toNat (maskedTile s c f l)) := by
  rw [putTile, vElems_issued, vMask, maskReg_issued, modCell_eq, maskedTile, codes]

variable (h : Issues s c t (encV 8 op f) e)
include h

/-- A vector instruction that issues has its effect on its cell. -/
theorem onThread_vecOp (g : Nat → State → Entry → Cell → Cell) :
    onThread c t (vecOp s c t op f g) = .next (setCell (issued s c e) c (g s.free (issued s c e) e (getCell (issued s c e) c))) :=
  onThread_issue h fun u e => modCell u c (fun x => g s.free u e x)

theorem vec2_result (g : Nat → Nat → Nat) :
    onThread c t (vec2 s c t op f g) =
      .next (modCell (issued s c e) c (fun x => setTile x f.d.toNat (maskedTile s c f (List.zipWith g (codes s c f f.a) (codes s c f f.b))))) := by
  rw [vec2, onThread_vecOp h, putTile_issued, vElems_issued, vElems_issued]

theorem vec1_result (g : Nat → Nat) :
    onThread c t (vec1 s c t op f g) =
      .next (modCell (issued s c e) c (fun x => setTile x f.d.toNat (maskedTile s c f ((codes s c f f.a).map g)))) := by
  rw [vec1, onThread_vecOp h, putTile_issued, vElems_issued]

theorem vecFS_result (g : FVal → FVal → FVal) :
    onThread c t (vecFS s c t op f g) =
      .next (modCell (issued s c e) c (fun x => setTile x f.d.toNat (maskedTile s c f ((codes s c f f.a).map (fun a =>
        arith (viewFmt f.fmt.toNat) (g (fpVal f a) (f32 ((sReg s.free (getCell s c) t f.b.toNat).setWidth 32)))))))) := by
  rw [vecFS, onThread_vecOp h, putTile_issued, vElems_issued, sReg_issued]
  rfl

end

/-- Settles O19: the rows of the three tables, and VFMA. -/
theorem vectorElementResults : Obligations.VectorElementResults := by
  intro s c t f e
  refine ⟨fun k hk h => ?_, fun k hk h => ?_, fun k hk h => ?_, fun h => ?_⟩
  · exact (exec_elementOps2 k hk c t f s).trans (vec2_result h _)
  · exact (exec_elementOps1 k hk c t f s).trans (vec1_result h _)
  · exact (exec_scaleOps k hk c t f s).trans (vecFS_result h _)
  · refine (onThread_vecOp h fun free _ _ x => putTile free x f (zipThree (fun a b k => fpRes f (fvAdd (fvMul (fpVal f a) (fpVal f b)) (fpVal f k)))
      (vElems free x f f.a.toNat) (vElems free x f f.b.toNat) (vElems free x f f.c.toNat))).trans (congrArg _ ?_)
    rw [putTile_issued, vElems_issued, vElems_issued, vElems_issued]
    rfl

/-! ### Frames -/

/-- The frame of a vector instruction is that of its effect on the cell. -/
theorem vecOp_frame {s u : State} {c t op : Nat} {f : VFields} {e : Entry} {g : Nat → State → Entry → Cell → Cell} {r : Nat}
    (h : Issues s c t (encV 8 op f) e) (frame : ∀ free v e x, CellFrame x (g free v e x) [r] 0 0)
    (next : onThread c t (vecOp s c t op f g) = .next u) : RegisterFrame s u c [r] := by
  rw [onThread_vecOp h] at next
  obtain rfl := Host.Outcome.next.inj next
  exact storeFrame_issued_setCell s c e (frame _ _ _ _)

theorem cellFrame_tile (x : Cell) (n : Nat) (l : List Byte) : CellFrame x (setTile x n l) [resT n] 0 0 := .setTile x n l (List.mem_singleton_self _)
theorem cellFrame_mask (x : Cell) (n : Nat) (v : BitVec 1024) : CellFrame x (setMask x n v) [resM n] 0 0 := .setMask x n v (List.mem_singleton_self _)

/-- Settles O20: the effect of every row is one write of tD or mD. -/
theorem vectorFrames : Obligations.VectorFrames := by
  intro s u c t f e
  refine ⟨fun k hk h next => ?_, fun k hk h next => ?_, fun k hk h next => ?_, fun k hk h next => ?_, fun k hk h next => ?_,
    fun k hk h next => ?_, fun k hk h next => ?_⟩
  · rw [exec_elementOps2 k hk] at next
    exact vecOp_frame h (fun _ _ _ x => cellFrame_tile x _ _) next
  · rw [exec_elementOps1 k hk] at next
    exact vecOp_frame h (fun _ _ _ x => cellFrame_tile x _ _) next
  · rw [exec_scaleOps k hk] at next
    exact vecOp_frame h (fun _ _ _ x => cellFrame_tile x _ _) next
  · rw [exec_reduceOps k hk] at next
    exact vecOp_frame h (fun _ _ _ x => cellFrame_tile x _ _) next
  · obtain ⟨op, eq⟩ := exec_compareOps k hk
    rw [eq] at next
    exact vecOp_frame h (fun _ _ _ x => cellFrame_mask x _ _) next
  · rw [exec_testOps k hk] at next
    exact vecOp_frame h (fun _ _ _ x => cellFrame_mask x _ _) next
  · rw [exec_maskOps k hk] at next
    exact vecOp_frame h (fun _ _ _ x => cellFrame_mask x _ _) next

end Sys2Proof.Machine
end

section
/-!
PROOF. The vertical port of a cell (O28).
-/
namespace Sys2Proof.Machine
open Sys2Proof.Claim

@[simp] theorem getCell_reportOf (s : State) (code i c : Nat) : getCell (reportOf s code i) c = getCell s c := rfl

/-- A lane test of a port that is owed one, or whose pavilion is kindling, with bonds that the port has (R440). -/
theorem exec_laneTest {s : State} {c : Nat} {failing : List (Nat × Nat)} (cell : cellOk c = true) (notRetired : (getCell s c).mode ≠ 3)
    (due : (getCell s c).testOwed = true ∨ (getPav s (pavOfCell c)).power = .kindling) (bonds : ∀ e ∈ failing, e.1 < 32 ∧ e.2 ≤ 64) :
    exec (.laneTest c failing) s = .next (laneTested s c failing) := by
  have owed : ((getCell s c).testOwed || decide ((getPav s (pavOfCell c)).power = .kindling)) = true := by simpa using due
  have sound : failing.all (fun e => decide (e.1 < 32 ∧ e.2 ≤ 64)) = true := List.all_eq_true.mpr fun e mem => decide_eq_true (bonds e mem)
  change execLaneTest c failing s = _
  simp only [execLaneTest, cell, onUnit_true, notRetired, owed, sound, Bool.not_true, Bool.false_eq_true, or_self, if_false]

/-- A beat that fails, and is not the third in succession on sound bonds, is counted and reported (R177, R441). -/
theorem exec_verticalBeatCrcFail {s : State} {c : Nat} (cell : cellOk c = true) (notRetired : (getCell s c).mode ≠ 3) (runs : running s = true)
    (few : (getCell s c).laneSound = false ∨ (getCell s c).beatFails = 0 ∨ (getCell s c).beatTick ≠ s.ember) :
    exec (.verticalBeatCrcFail c) s = .next (beatFail s c) := by
  have stays : ¬ (3 ≤ (getCell (beatFail s c) c).beatFails ∧ (getCell (beatFail s c) c).laneSound = true) := by
    rw [beatFail, getCell_reportOf, getCell_setCell]
    rcases few with unsound | first | late
    · simp [unsound]
    · simp [first]
    · simp [late]
  change execVerticalBeatCrcFail c s = _
  rw [execVerticalBeatCrcFail, cell, onUnit_true, if_neg (by simp [notRetired, runs]), if_neg stays]

/-- Settles O28. -/
theorem verticalPortEffects : Obligations.VerticalPortEffects := by
  intro s c cell notRetired x
  refine ⟨fun runs few => ?_, fun due => ?_, fun failing due bonds => exec_laneTest cell notRetired due bonds, fun v rest unlogged => ?_⟩
  · refine ⟨_, exec_verticalBeatCrcFail cell notRetired runs few, ?_⟩
    rw [beatFail, getCell_reportOf, getCell_setCell]
    exact ⟨rfl, rfl, fun r _ => sameRes_of_eq r rfl rfl rfl rfl rfl rfl, fun k hk => getCell_setCell_ne _ c k _ hk, rfl⟩
  · refine ⟨_, exec_laneTest cell notRetired due (fun _ h => absurd h List.not_mem_nil), ?_⟩
    rw [laneTested, spareBonds, modCell_eq, getCell_setCell]
    exact ⟨rfl, rfl, rfl, rfl⟩
  · change execSpareJournalRecord c s = _
    rw [execSpareJournalRecord, cell, onUnit_true, unlogged]

end Sys2Proof.Machine
end

section
/-!
PROOF. Scalar loads and stores on the cell store, and the fault of a misaligned one (O24).
-/
namespace Sys2Proof.Machine
open Sys2Proof.Claim

/-! ### Bytes -/

theorem leBytes_getD (n v k : Nat) (h : k < n) : (leBytes n v).getD k 0 = BitVec.ofNat 8 (v / 256 ^ k) := by
  induction n generalizing v k with
  | zero => omega
  | succ n ih =>
    cases k with
    | zero => simp [leBytes]
    | succ k => rw [leBytes, List.getD_cons_succ, ih _ _ (by omega), Nat.div_div_eq_div_mul, ← Nat.pow_succ']

/-- Bytes put into the cell store outside of which everything is as it was. -/
theorem mfind_localPut_apart (m : Map Byte) {a k : Nat} (l : List Byte) (h : k < a ∨ a + l.length ≤ k) : mfind (localPut m a l) k = mfind m k := by
  induction l generalizing m a with
  | nil => rfl
  | cons b rest ih =>
    rw [List.length_cons] at h
    rw [localPut, ih _ (by omega), mfind_mput_ne _ _ (by omega)]

theorem mfind_localPut (m : Map Byte) (a k : Nat) (l : List Byte) (h : k < l.length) : mfind (localPut m a l) (a + k) = some (l.getD k 0) := by
  induction l generalizing m a k with
  | nil => exact absurd h (by simp)
  | cons b rest ih =>
    cases k with
    | zero => rw [localPut, mfind_localPut_apart _ _ (by omega), Nat.add_zero, mfind_mput_same, List.getD_cons_zero]
    | succ k => rw [localPut, show a + (k + 1) = a + 1 + k by omega, ih _ _ _ (by simpa using h), List.getD_cons_succ]

theorem CellFrame.localWrite (x : Cell) {dests : List Nat} (a : Nat) {n : Nat} {l : List Byte} (len : l.length = n) :
    CellFrame x (localWrite x a l) dests a n :=
  ⟨fun r _ _ => sameRes_of_eq r rfl rfl rfl rfl rfl rfl, fun _ h => mfind_localPut_apart _ l (len ▸ h), rfl, rfl, rfl, rfl⟩

@[simp] theorem ctx_localWrite (x : Cell) (a : Nat) (l : List Byte) : (localWrite x a l).ctx = x.ctx := rfl

theorem localRead_length (free : Nat) (x : Cell) (a n : Nat) : (localRead free x a n).length = n := by simp [localRead]

/-- A load widens its bytes to 64 bits: LDS with their sign, the others with zeros (R78). -/
theorem leNat_widen (w : Word) (l : List Byte) :
    BitVec.ofNat 64 (leNat (widen w l)) =
      BitVec.ofNat 64 (if wClass w = 3 ∧ wOp w = 1 then wrapTo 64 (signedOf (8 * l.length) (leNat l)) else leNat l) := by
  refine BitVec.eq_of_toNat_eq ?_
  rw [widen, leNat_leBytes, BitVec.toNat_ofNat, BitVec.toNat_ofNat]
  exact Nat.mod_mod _ _

/-! ### Addresses -/

/-- The address of a format M access is that of its fields (R78). -/
theorem memAddr_issued {s : State} {c t op : Nat} {f : MFields} (e : Entry) (hop : op < 256) :
    (memAddr s.free (getCell (issued s c e) c) t (encM 3 op f)).toNat = accessAddr s c t f (decide (op = 3 ∨ op = 4)) := by
  obtain ⟨hc, ho, -, ha, hb, -, hsize, -, himm⟩ := encM_fields (by decide : 3 < 16) hop f
  have off : sext32 f.off.toNat = f.off.signExtend 64 := by rw [sext32, BitVec.ofNat_toNat, BitVec.setWidth_eq]
  simp only [memAddr, hc, ho, ha, hb, hsize, himm, off, sReg_issued, accessAddr, true_and, decide_eq_true_eq]
  split
  · rfl
  · rw [show (0 : Word) = 0#64 from rfl, BitVec.add_zero]

theorem isAcquire_encM {op : Nat} (hop : op < 256) (f : MFields) : isAcquire (encM 3 op f) = decide (f.ord = 1) := by
  obtain ⟨hc, -, -, -, -, -, -, hord, -⟩ := encM_fields (by decide : 3 < 16) hop f
  simp [isAcquire, isWait, hc, hord, ← BitVec.toNat_inj]

/-! ### Loads and stores -/

/-- What a load from the cell store does to its cell. -/
def loadCell (free t stamp d a n : Nat) (w : Word) (x : Cell) : Cell :=
  let y := setS x t d (BitVec.ofNat 64 (leNat (widen w (localRead free x a n))))
  if isAcquire w then acquireStreams y t stamp else y

section
variable {s : State} {c t op : Nat} {f : MFields} {e : Entry} {o : Out} (hop : op < 256) (h : Issues s c t (encM 3 op f) e)
include hop h

theorem load_local (space : f.space = false) (next : o = .next (loadScalar (issued s c e) c e s.free))
    (aligned : accessAddr s c t f (decide (op = 3 ∨ op = 4)) % 2 ^ f.size.toNat = 0)
    (inside : accessAddr s c t f (decide (op = 3 ∨ op = 4)) + 2 ^ f.size.toNat ≤ 0x40000) :
    o = .next (modCell (issued s c e) c
      (loadCell s.free t e.stamp f.d.toNat (accessAddr s c t f (decide (op = 3 ∨ op = 4))) (2 ^ f.size.toNat) (encM 3 op f))) := by
  obtain ⟨-, -, hd, -, -, hspace, hsize, -, -⟩ := encM_fields (by decide : 3 < 16) hop f
  rw [next]
  simp only [loadScalar, issues_word h, issues_thread h, memAddr_issued e hop, hspace, space, hsize, hd, aligned, ne_eq, not_true_eq_false,
    Bool.false_eq_true, if_false, localAccess_sound e _ (localBad_read _ inside)]
  rfl

/-- An aligned load from the cell store (R78). -/
theorem load_reads (space : f.space = false) (next : o = .next (loadScalar (issued s c e) c e s.free))
    (aligned : accessAddr s c t f (decide (op = 3 ∨ op = 4)) % 2 ^ f.size.toNat = 0)
    (inside : accessAddr s c t f (decide (op = 3 ∨ op = 4)) + 2 ^ f.size.toNat ≤ 0x40000) :
    let n := 2 ^ f.size.toNat
    let v := leNat (localRead s.free (getCell s c) (accessAddr s c t f (decide (op = 3 ∨ op = 4))) n)
    ∃ u, o = .next u ∧
      (∀ k, sReg k (getCell u c) t f.d.toNat =
        if f.d = 0 then 0 else BitVec.ofNat 64 (if op = 1 then wrapTo 64 (signedOf (8 * n) v) else v)) ∧
      (f.ord ≠ 1 → RegisterFrame s u c [resS t f.d.toNat]) := by
  obtain ⟨hc, ho, -⟩ := encM_fields (by decide : 3 < 16) hop f
  have zero : f.d.toNat = 0 ↔ f.d = 0 := by rw [← BitVec.toNat_inj]; rfl
  refine ⟨_, load_local hop h space next aligned inside, fun k => ?_, fun notAcquire => ?_⟩
  · have reg : ∀ y : Cell, sReg k (if isAcquire (encM 3 op f) then acquireStreams y t e.stamp else y) t f.d.toNat = sReg k y t f.d.toNat := by
      intro y
      split
      · exact sReg_acquireStreams ..
      · rfl
    rw [modCell_eq, getCell_setCell, loadCell, reg, sReg_setS, leNat_widen, hc, ho, localRead_length, localRead_issued]
    simp only [true_and, zero]
  · refine storeFrame_issued_setCell s c e ?_
    simp only [loadCell, isAcquire_encM hop, decide_eq_false notAcquire, Bool.false_eq_true, if_false]
    exact .setS _ t _ _ (List.mem_singleton_self _)

/-- What a store to the cell store does to its cell (R218, R219). -/
def storeCell (jb : Job) (free t stamp a n : Nat) (v w : Word) (x : Cell) : Cell :=
  let y := localWrite x a (leBytes n v.toNat)
  let y := if n = 8 then sealStore jb y a v (bitAt (localByte free x a).toNat 0) else y
  if isAcquire w then acquireStreams y t stamp else y

theorem store_local (space : f.space = false) (next : o = .next (storeScalar (issued s c e) c e s.free))
    (aligned : accessAddr s c t f (decide (op = 3 ∨ op = 4)) % 2 ^ f.size.toNat = 0)
    (inside : accessAddr s c t f (decide (op = 3 ∨ op = 4)) + 2 ^ f.size.toNat ≤ 0x40000)
    (above : 8 * (getCell s c).progWords ≤ accessAddr s c t f (decide (op = 3 ∨ op = 4))) :
    ∃ jb, o = .next (modCell (issued s c e) c (storeCell jb s.free t e.stamp (accessAddr s c t f (decide (op = 3 ∨ op = 4))) (2 ^ f.size.toNat)
      (sReg s.free (getCell s c) t f.d.toNat) (encM 3 op f))) := by
  obtain ⟨-, -, hd, -, -, hspace, hsize, -, -⟩ := encM_fields (by decide : 3 < 16) hop f
  rw [← progWords_issued s c e] at above
  refine ⟨getJob s (getCell (issued s c e) c).ctx, ?_⟩
  rw [next]
  simp only [storeScalar, issues_word h, issues_thread h, memAddr_issued e hop, hspace, space, hsize, hd, sReg_issued, aligned, ne_eq,
    not_true_eq_false, Bool.false_eq_true, if_false, localAccess_sound e _ (localBad_write inside above), modCell_eq, getJob_issued, storeCell, ctx_localWrite]

end

/-- Of a cell only the channel ports differ. -/
def PortFrame (x y : Cell) : Prop := ∃ tx rx, y = { x with tx := tx, rx := rx }

/-- A store to a seal word changes the channel ports only (R218, R219). -/
theorem sealStore_frame (jb : Job) (x : Cell) (a : Nat) (v : Word) (full : Bool) : PortFrame x (sealStore jb x a v full) := by
  have step : ∀ {y z : Cell}, PortFrame x y → (z = y ∨ (∃ p q, z = setTx y p q) ∨ ∃ p q, z = setRx y p q) → PortFrame x z := by
    rintro y z ⟨tx, rx, rfl⟩ (rfl | ⟨p, q, rfl⟩ | ⟨p, q, rfl⟩)
    exacts [⟨_, _, rfl⟩, ⟨_, _, rfl⟩, ⟨_, _, rfl⟩]
  rw [sealStore]
  refine List.foldlRecOn _ _ (List.foldlRecOn _ _ ⟨_, _, rfl⟩ fun y hy p _ => step hy ?_) fun y hy p _ => step hy ?_
  · dsimp only
    split
    · exact .inl rfl
    · split
      · split
        · exact .inr (.inl ⟨_, _, rfl⟩)
        · exact .inl rfl
      · exact .inl rfl
  · dsimp only
    split
    · exact .inl rfl
    · split
      · exact .inr (.inr ⟨_, _, rfl⟩)
      · exact .inl rfl

theorem storeCell_spec (jb : Job) (free t stamp a n : Nat) (v w : Word) (x : Cell) :
    (storeCell jb free t stamp a n v w x).store = localPut x.store a (leBytes n v.toNat) ∧
      (isAcquire w = false → CellFrame x (storeCell jb free t stamp a n v w x) [] a n) := by
  have sealed : ∀ y, PortFrame y (if n = 8 then sealStore jb y a v (bitAt (localByte free x a).toNat 0) else y) := by
    intro y
    split
    · exact sealStore_frame ..
    · exact ⟨_, _, rfl⟩
  obtain ⟨tx, rx, eq⟩ := sealed (localWrite x a (leBytes n v.toNat))
  simp only [storeCell, eq]
  refine ⟨?_, fun notAcquire => ?_⟩
  · split
    · obtain ⟨_, _, _, frame⟩ := acquireStreams_frame { localWrite x a (leBytes n v.toNat) with tx := tx, rx := rx } t stamp
      rw [frame]
      rfl
    · rfl
  · rw [notAcquire]
    exact (CellFrame.localWrite x a (leBytes_length ..)).trans (.of_eq rfl rfl rfl rfl rfl rfl rfl rfl rfl rfl rfl)

section
variable {s : State} {c t op : Nat} {f : MFields} {e : Entry} {o : Out} (hop : op < 256) (h : Issues s c t (encM 3 op f) e)
include hop h

/-- An aligned store to the cell store (R78). -/
theorem store_writes (space : f.space = false) (next : o = .next (storeScalar (issued s c e) c e s.free))
    (aligned : accessAddr s c t f (decide (op = 3 ∨ op = 4)) % 2 ^ f.size.toNat = 0)
    (inside : accessAddr s c t f (decide (op = 3 ∨ op = 4)) + 2 ^ f.size.toNat ≤ 0x40000)
    (above : 8 * (getCell s c).progWords ≤ accessAddr s c t f (decide (op = 3 ∨ op = 4))) :
    ∃ u, o = .next u ∧
      (∀ k, k < 2 ^ f.size.toNat → mfind (getCell u c).store (accessAddr s c t f (decide (op = 3 ∨ op = 4)) + k) =
        some (BitVec.ofNat 8 ((sReg s.free (getCell s c) t f.d.toNat).toNat / 256 ^ k))) ∧
      (f.ord ≠ 1 → StoreFrame s u c [] (accessAddr s c t f (decide (op = 3 ∨ op = 4))) (2 ^ f.size.toNat)) := by
  obtain ⟨jb, next⟩ := store_local hop h space next aligned inside above
  obtain ⟨store, frame⟩ := storeCell_spec jb s.free t e.stamp (accessAddr s c t f (decide (op = 3 ∨ op = 4))) (2 ^ f.size.toNat)
    (sReg s.free (getCell s c) t f.d.toNat) (encM 3 op f) (getCell (issued s c e) c)
  refine ⟨_, next, fun k hk => ?_, fun notAcquire => ?_⟩
  · rw [modCell_eq, getCell_setCell, store, mfind_localPut _ _ _ _ (by rw [leBytes_length]; exact hk), leBytes_getD _ _ _ hk]
  · rw [modCell_eq]
    exact storeFrame_issued_setCell s c e (frame (by rw [isAcquire_encM hop]; exact decide_eq_false notAcquire))

end

/-- The cell records a first fault with E_PAGE_FAULT at a, and its registers and store keep what they held. -/
def RecordsFault (s u : State) (c t a : Nat) (e : Entry) : Prop :=
  (getCell u c).faultCode = ePageFault ∧ (getCell u c).faultAddr = a % 2 ^ 48 ∧ (getCell u c).faultPc = e.pc ∧ (getCell u c).faultThread = t ∧
    (∀ r, r < 320 → sameRes (getCell s c) (getCell u c) r) ∧ (getCell u c).store = (getCell s c).store

theorem recordsFault_faultAt {s : State} {c : Nat} (e : Entry) (a : Nat) (glob : Bool) (fresh : (getCell s c).faultCode = 0) :
    RecordsFault s (faultAt (issued s c e) c e glob a ePageFault) c e.thread a e := by
  obtain ⟨tlb, cell⟩ := cellFault_recorded e.thread e.pc a glob ((faultCode_issued s c e).trans fresh)
  obtain ⟨_, _, _, _, _, _, issuedCell⟩ := issued_cell s c e
  rw [RecordsFault, faultAt, cell, issuedCell]
  exact ⟨rfl, rfl, rfl, rfl, fun r _ => sameRes_of_eq r rfl rfl rfl rfl rfl rfl, rfl⟩

section
variable {s : State} {c t op : Nat} {f : MFields} {e : Entry} {o : Out} (hop : op < 256) (h : Issues s c t (encM 3 op f) e)
  (misaligned : accessAddr s c t f (decide (op = 3 ∨ op = 4)) % 2 ^ f.size.toNat ≠ 0) (fresh : (getCell s c).faultCode = 0)
include hop h misaligned fresh

theorem load_misaligned (next : o = .next (loadScalar (issued s c e) c e s.free)) :
    ∃ u, o = .next u ∧ RecordsFault s u c t (accessAddr s c t f (decide (op = 3 ∨ op = 4))) e := by
  obtain ⟨-, -, -, -, -, hspace, hsize, -⟩ := encM_fields (by decide : 3 < 16) hop f
  have records := recordsFault_faultAt e (accessAddr s c t f (decide (op = 3 ∨ op = 4))) f.space fresh
  simp only [loadScalar, issues_word h, issues_thread h, memAddr_issued e hop, hspace, hsize, if_pos misaligned] at next
  rw [issues_thread h] at records
  exact ⟨_, next, records⟩

theorem store_misaligned (next : o = .next (storeScalar (issued s c e) c e s.free)) :
    ∃ u, o = .next u ∧ RecordsFault s u c t (accessAddr s c t f (decide (op = 3 ∨ op = 4))) e := by
  obtain ⟨-, -, -, -, -, hspace, hsize, -⟩ := encM_fields (by decide : 3 < 16) hop f
  have records := recordsFault_faultAt e (accessAddr s c t f (decide (op = 3 ∨ op = 4))) f.space fresh
  simp only [storeScalar, issues_word h, issues_thread h, memAddr_issued e hop, hspace, hsize, if_pos misaligned] at next
  rw [issues_thread h] at records
  exact ⟨_, next, records⟩

end

theorem localLoads : LocalLoads := by
  intro s c t f e space
  refine ⟨fun h aligned inside => ?_, fun h aligned inside => ?_, fun h aligned inside => ?_⟩
  · exact load_reads (op := 0) (by decide) h space (onThread_issue h fun u e => loadScalar u c e s.free) aligned inside
  · exact load_reads (op := 1) (by decide) h space (onThread_issue h fun u e => loadScalar u c e s.free) aligned inside
  · exact load_reads (op := 3) (by decide) h space (onThread_issue h fun u e => loadScalar u c e s.free) aligned inside

theorem localStores : LocalStores := by
  intro s c t f e space
  refine ⟨fun h aligned inside above => ?_, fun h aligned inside above => ?_⟩
  · exact store_writes (op := 2) (by decide) h space (onThread_issue h fun u e => storeScalar u c e s.free) aligned inside above
  · exact store_writes (op := 4) (by decide) h space (onThread_issue h fun u e => storeScalar u c e s.free) aligned inside above

theorem misalignedAccessFaults : MisalignedAccessFaults := by
  intro s c t f e fresh
  refine ⟨fun h bad => ?_, fun h bad => ?_, fun h bad => ?_, fun h bad => ?_, fun h bad => ?_⟩
  · exact load_misaligned (op := 0) (by decide) h bad fresh (onThread_issue h fun u e => loadScalar u c e s.free)
  · exact load_misaligned (op := 1) (by decide) h bad fresh (onThread_issue h fun u e => loadScalar u c e s.free)
  · exact store_misaligned (op := 2) (by decide) h bad fresh (onThread_issue h fun u e => storeScalar u c e s.free)
  · exact load_misaligned (op := 3) (by decide) h bad fresh (onThread_issue h fun u e => loadScalar u c e s.free)
  · exact store_misaligned (op := 4) (by decide) h bad fresh (onThread_issue h fun u e => storeScalar u c e s.free)

/-- Settles O24. -/
theorem localAccessesReadAndWriteTheStore : Obligations.LocalAccessesReadAndWriteTheStore :=
  ⟨localLoads, localStores, misalignedAccessFaults⟩

end Sys2Proof.Machine
end

section
/-!
PROOF. Instruction fetch and the return of a global load (O30).
-/
namespace Sys2Proof.Machine
open Sys2Proof.Claim

/-- One that changes only its own cell has the frame of that change. -/
theorem storeFrame_setCell_self {s : State} {c : Nat} {dests : List Nat} {lo n : Nat} {x : Cell} (h : CellFrame (getCell s c) x dests lo n) :
    StoreFrame s (setCell s c x) c dests lo n := storeFrame_of_cell x s.free h

/-! ### Fetch -/

theorem instructionFetchEffect : InstructionFetchEffect := by
  intro s c t x ok live pick
  refine ⟨fun inside => ?_, fun past => ?_⟩
  · change onUnit _ _ = _
    simp only [ok, live, pick, inside, onUnit_true, Bool.not_true, Bool.false_eq_true, if_false]
  · change onUnit _ _ = _
    simp only [ok, live, pick, past, onUnit_true, Bool.not_true, Bool.false_eq_true, if_false, if_true]

/-- The cell after its thread has fetched the word at its PC (R66, R67). -/
def wordFetched (x : Cell) (t : Nat) : Cell :=
  let w := x.prog.getD (pcOf x t) 0
  let q := queueOf w
  let e : Entry := { stamp := x.nextStamp, thread := t, pc := pcOf x t, word := w, claims := none, opA := none, opB := none, relDone := false }
  gotoPc { setIQ x q (getIQ x q ++ [e]) with nextStamp := x.nextStamp + 1 } t (pcOf x t + 1)

/-- After a word has been fetched only the state of the thread may still change. -/
theorem fetchWords_one {x : Cell} {t : Nat} (inside : x.pastEnd.contains t = false)
    (room : (getIQ x (queueOf (x.prog.getD (pcOf x t) 0))).length < queueDepth (queueOf (x.prog.getD (pcOf x t) 0))) :
    fetchWords x t 1 = wordFetched x t ∨ fetchWords x t 1 = setTState (wordFetched x t) t .qfull := by
  have none_more : ∀ y, fetchWords y t 0 = y ∨ fetchWords y t 0 = setTState y t .qfull := by
    intro y
    rw [fetchWords]
    split
    · exact .inr rfl
    · exact .inl rfl
  rw [fetchWords, inside]
  simp only [Bool.false_eq_true, if_false, if_neg (Nat.not_le.mpr room)]
  split
  · exact .inl rfl
  · exact none_more _

theorem setIQ_frame (x : Cell) (q : IQ) (l : List Entry) : ∃ ctl vec mat, setIQ x q l = { x with ctl := ctl, vec := vec, mat := mat } := by
  cases q <;> exact ⟨_, _, _, rfl⟩

/-- What a word fetched leaves in the cell. -/
theorem wordFetched_spec (x : Cell) (t : Nat) :
    let w := x.prog.getD (pcOf x t) 0
    (∃ e, getIQ (wordFetched x t) (queueOf w) = getIQ x (queueOf w) ++ [e] ∧ e.word = w ∧ e.thread = t ∧ e.pc = pcOf x t ∧ e.stamp = x.nextStamp ∧
      e.claims = none) ∧
    (wordFetched x t).nextStamp = x.nextStamp + 1 ∧ pcOf (wordFetched x t) t = (pcOf x t + 1) % 8192 ∧ ∀ r, sameRes x (wordFetched x t) r := by
  refine ⟨⟨_, (getIQ_setIQ x (queueOf _) _ :), rfl, rfl, rfl, rfl, rfl⟩, rfl, pcOf_gotoPc .., fun r => ?_⟩
  rw [wordFetched]
  obtain ⟨_, _, _, eq⟩ := setIQ_frame x (queueOf (x.prog.getD (pcOf x t) 0)) (getIQ x (queueOf (x.prog.getD (pcOf x t) 0)) ++ [_])
  rw [eq]
  exact sameRes_of_eq r rfl rfl rfl rfl rfl rfl

theorem fetchedWordEntersItsQueue : FetchedWordEntersItsQueue := by
  intro x t inside w q y room
  obtain ⟨entry, stamp, pc, regs⟩ := wordFetched_spec x t
  have state : ∀ z : Cell, getIQ (setTState z t .qfull) q = getIQ z q := fun z => by cases q <;> rfl
  rcases fetchWords_one inside room with eq | eq
  · rw [show y = _ from eq]
    exact ⟨entry, stamp, pc, fun r _ => regs r⟩
  · rw [show y = _ from eq, state]
    exact ⟨entry, stamp, pc, fun r _ => regs r⟩

/-! ### Return -/

/-- The cell without the flight of the entry with a stamp. -/
def flightEnded (x : Cell) (stamp : Nat) : Cell := { x with flights := x.flights.filter (fun f => decide (f.stamp ≠ stamp)) }

theorem not_mem_flightEnded {x : Cell} {stamp : Nat} {f : Flight} (h : f ∈ (flightEnded x stamp).flights) : f.stamp ≠ stamp :=
  of_decide_eq_true (List.mem_filter.mp h).2

theorem CellFrame.flightEnded (x : Cell) (stamp : Nat) {dests : List Nat} {lo n : Nat} : CellFrame x (flightEnded x stamp) dests lo n :=
  .of_eq rfl rfl rfl rfl rfl rfl rfl rfl rfl rfl rfl

section
variable {g : Flight} {r : Nat} (dest : g.dest = some r) (scalar : r < 256) (x : Cell)
include dest scalar

/-- The cell after its flight has ended and its scalar destination has been written, before an acquire acts and the thread goes on. -/
def scalarReturned (x : Cell) (g : Flight) (r : Nat) : Cell :=
  setS (flightEnded x g.stamp) (r / 32) (r % 32) (BitVec.ofNat 64 (leNat (g.data.take 8)))

/-- The data of a load is delivered to its scalar register (R63). -/
theorem deliver_scalar :
    let z := if g.acquire then acquireStreams (scalarReturned x g r) g.thread g.stamp else scalarReturned x g r
    deliver x g = if g.switches ∧ tstateOf x g.thread = .miss then setTState z g.thread .ready else z := by
  have written : ∀ z : Cell, ∀ a b v, tstateOf (setS z a b v) g.thread = tstateOf z g.thread := fun z a b v => by
    obtain ⟨_, _, eq⟩ := setS_frame z a b v
    rw [eq]
    rfl
  simp only [deliver, writeDest, dest, scalar, if_true, apply_ite (tstateOf · g.thread), tstateOf_acquireStreams, written, ite_self]
  rfl

/-- The flight is gone, and the destination holds the data. -/
theorem deliver_writes :
    (∀ f ∈ (deliver x g).flights, f.stamp ≠ g.stamp) ∧
      (r % 32 ≠ 0 → ∀ n, sReg n (deliver x g) (r / 32) (r % 32) = BitVec.ofNat 64 (leNat (g.data.take 8))) := by
  have flights : (scalarReturned x g r).flights = (flightEnded x g.stamp).flights := by
    obtain ⟨_, _, eq⟩ := setS_frame (flightEnded x g.stamp) (r / 32) (r % 32) (BitVec.ofNat 64 (leNat (g.data.take 8)))
    rw [scalarReturned, eq]
  have written : ∀ n, sReg n (scalarReturned x g r) (r / 32) (r % 32) = _ := fun n => sReg_setS n (flightEnded x g.stamp) ..
  have acquired : ∀ y : Cell, ∃ m b n, (if g.acquire then acquireStreams y g.thread g.stamp else y) = { y with slots := m, bellows := b, qinval := n } := by
    intro y
    split
    · exact acquireStreams_frame ..
    · exact ⟨_, _, _, rfl⟩
  obtain ⟨m, b, n, eq⟩ := acquired (scalarReturned x g r)
  have all : ∃ ts, deliver x g = { scalarReturned x g r with slots := m, bellows := b, qinval := n, tstate := ts } := by
    rw [deliver_scalar dest scalar, eq]
    split
    · exact ⟨_, rfl⟩
    · exact ⟨_, rfl⟩
  obtain ⟨ts, all⟩ := all
  have kept : (deliver x g).flights = (flightEnded x g.stamp).flights := by rw [all]; exact flights
  refine ⟨fun f hf => not_mem_flightEnded (kept ▸ hf), fun nonzero k => ?_⟩
  rw [all]
  exact (written k).trans (if_neg nonzero)

/-- A thread that waited in MISS is READY; a load that is no acquire changes no register but its destination. -/
theorem deliver_frame :
    (g.switches = true → tstateOf x g.thread = .miss → tstateOf (deliver x g) g.thread = .ready) ∧
      (g.acquire = false → CellFrame x (deliver x g) [r] 0 0) := by
  have isDest : resS (r / 32) (r % 32) ∈ [r] := List.mem_singleton.mpr (by rw [resS]; omega)
  have frame : CellFrame x (scalarReturned x g r) [r] 0 0 := (CellFrame.flightEnded x g.stamp).trans (.setS _ _ _ _ isDest)
  rw [deliver_scalar dest scalar]
  refine ⟨fun switches miss => by rw [if_pos ⟨switches, miss⟩, tstateOf_setTState], fun plain => ?_⟩
  rw [plain]
  split
  · exact frame.trans (.setTState ..)
  · exact frame

end

/-- A flight whose data has come is delivered, unless it fetches an operand. -/
theorem exec_globalLoadReturn {s : State} {c : Nat} {g : Flight} (ok : cellOk c = true) (live : cellLive s c = true)
    (found : (getCell s c).flights.find? (fun f => decide (f.stamp = g.stamp)) = some g) (arrived : g.arrived = true) (notA : g.kind ≠ .opA)
    (notB : g.kind ≠ .opB) : exec (.globalLoadReturn c g.stamp) s = .next (setCell s c (deliver (getCell s c) g)) := by
  change onUnit _ _ = _
  simp only [ok, onUnit_true, found, live, arrived, notA, notB, Bool.not_true, Bool.false_eq_true, or_false, if_false, modCell_eq]

theorem loadReturnWritesItsDestination : LoadReturnWritesItsDestination := by
  intro s c r g ok live found arrived notA notB dest scalar nonzero plain
  obtain ⟨flights, written⟩ := deliver_writes dest scalar (getCell s c)
  obtain ⟨ready, frame⟩ := deliver_frame dest scalar (getCell s c)
  refine ⟨_, exec_globalLoadReturn ok live found arrived notA notB, ?_⟩
  rw [getCell_setCell]
  exact ⟨flights, written nonzero, ready, storeFrame_setCell_self (frame plain)⟩

/-- Settles O30. -/
theorem fetchAndLoadReturns : Obligations.FetchAndLoadReturns :=
  ⟨instructionFetchEffect, fetchedWordEntersItsQueue, loadReturnWritesItsDestination⟩

end Sys2Proof.Machine
end

section
/-!
PROOF. What a global access leaves before it acts: the errors that it meets take no atomic from a Hearth, and the pages that it touches change
translations, frames and leaves only (R162, R175, R181).
-/
namespace Sys2Proof.Machine

/-! ### Atomics that wait at a Hearth stay there -/

/-- Every Hearth holds the same atomics. -/
structure HearthKept (s u : State) : Prop where
  queue : ∀ d, (getStore u d).hearthQ = (getStore s d).hearthQ

theorem HearthKept.refl (s : State) : HearthKept s s := ⟨fun _ => rfl⟩

theorem HearthKept.trans {s t u : State} (h : HearthKept s t) (h' : HearthKept t u) : HearthKept s u := ⟨fun d => (h'.queue d).trans (h.queue d)⟩

theorem HearthKept.of_stores {s u : State} (h : u.stores = s.stores) : HearthKept s u := ⟨fun d => by rw [getStore, h, getStore]⟩

theorem HearthKept.modStore (s : State) (d : Nat) {f : StoreDie → StoreDie} (keeps : ∀ x, (f x).hearthQ = x.hearthQ) : HearthKept s (modStore s d f) := by
  refine ⟨fun k => ?_⟩
  rw [getStore_modStore_if]
  split
  · exact keeps _
  · rfl

theorem HearthKept.foldl {α : Type} {f : State → α → State} (step : ∀ s a, HearthKept s (f s a)) (l : List α) (s : State) :
    HearthKept s (l.foldl f s) :=
  List.foldlRecOn l f (.refl s) fun _ h a _ => h.trans (step _ a)

theorem hearthKept_countFrame (s : State) (j d f : Nat) (add : Bool) : HearthKept s (countFrame s j d f add) := .of_stores rfl

theorem hearthKept_releaseFrame (s : State) (f : Nat) : HearthKept s (releaseFrame s f) := by
  rw [releaseFrame]
  split
  · exact .of_stores rfl
  · split
    · exact .refl s
    · split
      · exact HearthKept.trans (t := putFrame s f ⟨.zeroing, 0⟩) (.modStore s _ fun _ => rfl) (hearthKept_countFrame ..)
      · exact .modStore s _ fun _ => rfl

theorem hearthKept_releaseFrames (s : State) (l : List Nat) : HearthKept s (releaseFrames s l) := .foldl hearthKept_releaseFrame l s

theorem hearthKept_invalidate (s : State) (j d : Nat) (vpns : List Nat) : HearthKept s (invalidate s j d vpns) :=
  HearthKept.trans (t := modStore s d fun x => { x with inval := wrap32 (x.inval + vpns.length) }) (.modStore s d fun _ => rfl) (.of_stores rfl)

theorem hearthKept_abandonItem (s : State) (j i : Nat) : HearthKept s (abandonItem s j i) := by
  rw [abandonItem]
  split
  · exact .refl s
  · split
    · exact .refl s
    · exact ((hearthKept_releaseFrames s _).trans (hearthKept_invalidate _ j ..)).trans (.of_stores rfl)

theorem hearthKept_stopEngines (s : State) (j : Nat) : HearthKept s (stopEngines s j) := by
  refine ⟨fun d => ?_⟩
  simp only [getStore, stopEngines]
  generalize s.stores = m
  induction m with
  | nil => rfl
  | cons e rest ih =>
    by_cases h : e.1 = d
    · simp [mget, h]
    · simpa [mget, h] using ih

theorem hearthKept_dropHolds (s : State) (j : Nat) : HearthKept s (dropHolds s j) :=
  HearthKept.trans (.foldl (fun t _ => (hearthKept_invalidate t ..).trans (hearthKept_releaseFrames ..)) (heldPages (getJob s j)) s) (.of_stores rfl)

theorem hearthKept_jobCleared (s : State) (j : Nat) : HearthKept s (jobCleared s j) := by
  refine HearthKept.trans ?_ (hearthKept_dropHolds ..)
  refine HearthKept.trans ?_ (hearthKept_stopEngines ..)
  exact .foldl (fun t (e : Nat × Item) => hearthKept_abandonItem t j e.1) _ s

theorem markFaulted_stores (s : State) (j code : Nat) : (markFaulted s j code).stores = s.stores := by simp [markFaulted, restartIdle]

theorem hearthKept_jobFault (s : State) (j code : Nat) : HearthKept s (jobFault s j code) := by
  by_cases sound : (getJob s j).loaded = true ∧ (getJob s j).faulted = false
  · obtain ⟨loaded, unfaulted⟩ := sound
    obtain ⟨_, _, _, failed⟩ := failContext_frame (markFaulted (jobCleared s j) j code) j code
    rw [jobFault_of_loaded code loaded unfaulted, failed]
    have marked : HearthKept (jobCleared s j) (markFaulted (jobCleared s j) j code) := .of_stores (markFaulted_stores ..)
    exact ((hearthKept_jobCleared s j).trans marked).trans (.of_stores rfl)
  · rw [jobFault]
    simp only [Bool.or_eq_true, Bool.not_eq_true', if_pos (by simpa [imp_iff_not_or] using sound)]
    exact .refl s

theorem hearthKept_faultJobs (s : State) (l : List Nat) (code : Nat) : HearthKept s (faultJobs s l code) :=
  .foldl (fun t j => hearthKept_jobFault t j code) l s

theorem hearthKept_modCell (s : State) (c : Nat) (f : Cell → Cell) : HearthKept s (modCell s c f) := .of_stores rfl
theorem hearthKept_modHbm (s : State) (h : Nat) (f : Hbm → Hbm) : HearthKept s (modHbm s h f) := .of_stores rfl
theorem hearthKept_reportOf (s : State) (code i : Nat) : HearthKept s (reportOf s code i) := .of_stores rfl
theorem hearthKept_raiseEvent (s : State) (n : Nat) : HearthKept s (raiseEvent s n) := .of_stores rfl
theorem hearthKept_journalWrite (s : State) (typ i v : Nat) : HearthKept s (journalWrite s typ i v) := .of_stores rfl

theorem hearthKept_markCellRetired (s : State) (c : Nat) : HearthKept s (markCellRetired s c) := by
  rw [markCellRetired]
  split
  · exact ((hearthKept_modCell ..).trans (hearthKept_reportOf ..)).trans (hearthKept_jobFault ..)
  · exact (hearthKept_modCell ..).trans (hearthKept_reportOf ..)

theorem hearthKept_retireBank (s : State) (b : Nat) (unc : Bool) : HearthKept s (retireBank s b unc) := by
  have raised : ∀ t n, HearthKept t (if unc then raiseEvent t n else t) := by
    intro t n
    split
    · exact hearthKept_raiseEvent ..
    · exact .refl t
  rw [retireBank]
  dsimp only
  split
  · exact .refl s
  · refine HearthKept.trans ?_ (hearthKept_faultJobs ..)
    refine HearthKept.trans ?_ (hearthKept_markCellRetired ..)
    refine HearthKept.trans ?_ (raised ..)
    refine HearthKept.trans ?_ (hearthKept_reportOf ..)
    refine (hearthKept_journalWrite s 3 b 0).trans ?_
    exact .modStore _ _ fun _ => rfl

theorem hearthKept_afterHbm (s : State) (h : Nat) : HearthKept s (afterHbm s h) := by
  have held : ∀ t : State, HearthKept t (startHold t (h / 2) false) := by
    intro t
    rw [startHold]
    split
    · exact .of_stores rfl
    · exact .refl t
  have reported : ∀ t : State, HearthKept t (raiseEvent (reportOf t eHbmChannelRetired h) (216 + h)) := fun t =>
    (hearthKept_reportOf ..).trans (hearthKept_raiseEvent ..)
  unfold afterHbm
  dsimp only
  split
  · exact ((hearthKept_faultJobs ..).trans (reported _)).trans (held _)
  · exact (hearthKept_faultJobs ..).trans (reported _)

theorem hearthKept_retireHbm (s : State) (h : Nat) : HearthKept s (retireHbm s h) := by
  rw [retireHbm]
  split
  · exact .refl s
  · exact ((hearthKept_journalWrite ..).trans (hearthKept_modHbm ..)).trans (hearthKept_afterHbm ..)

theorem hearthKept_retirePc (s : State) (h pc : Nat) : HearthKept s (retirePc s h pc) := by
  have marked : ∀ f, HearthKept s (modHbm (journalWrite s 4 h pc) h f) := fun f => (hearthKept_journalWrite ..).trans (hearthKept_modHbm ..)
  rw [retirePc]
  dsimp only
  split
  · exact .refl s
  · split
    · exact (marked _).trans (hearthKept_retireHbm ..)
    · exact (marked _).trans (hearthKept_afterHbm ..)

theorem hearthKept_countEcc (s : State) (a : Nat) (bad : Bool) : HearthKept s (countEcc s a bad) := by
  have reported : ∀ (t : State) (n code i : Nat), HearthKept t (if bad then raiseEvent t n else reportOf t code i) := by
    intro t n code i
    split
    · exact hearthKept_raiseEvent ..
    · exact hearthKept_reportOf ..
  have bank : ∀ (P : Prop) [Decidable P] t b, HearthKept s t → HearthKept s (if P then retireBank t b bad else t) := by
    intro P _ t b h
    split
    · exact h.trans (hearthKept_retireBank ..)
    · exact h
  have channel : ∀ (P : Prop) [Decidable P] t h pc, HearthKept s t → HearthKept s (if P then retirePc t h pc else t) := by
    intro P _ t h pc hk
    split
    · exact hk.trans (hearthKept_retirePc ..)
    · exact hk
  rw [countEcc]
  split
  · refine bank _ _ _ ?_
    refine HearthKept.trans ?_ (reported ..)
    exact .modStore _ _ fun _ => rfl
  · split
    · exact .refl s
    · refine channel _ _ _ _ ?_
      exact (hearthKept_modHbm ..).trans (reported ..)

theorem hearthKept_meetErrors (s : State) (a n : Nat) : HearthKept s (meetErrors s a n) := by
  refine .foldl (fun t e => (hearthKept_countEcc t e.1 e.2).trans ?_) _ s
  dsimp only
  split
  · rw [systemError]
    split
    · exact hearthKept_faultJobs ..
    · exact .refl _
  · exact .of_stores rfl

theorem hearthKept_meetPieces (s : State) (l : List Piece) : HearthKept s (meetPieces s l) := by
  refine .foldl (fun t p => ?_) l s
  split
  · exact hearthKept_meetErrors ..
  · exact .refl t

/-- An access meets no errors where no code word has any. -/
theorem meetPieces_of_sound {s : State} (l : List Piece) (sound : s.upsets = []) : meetPieces s l = s := by
  refine List.foldlRecOn (motive := fun t => t = s) l _ rfl fun t ht p _ => ?_
  subst ht
  split
  · rw [meetErrors, sound]
    rfl
  · rfl

/-! ### The pages that an access touches -/

/-- Only translations of cells, walk counts and frames of store dies, jobs' tables and the counter of free values differ. -/
structure TouchFrame (s u : State) : Prop where
  only : ∃ cells stores jobs free, u = { s with cells := cells, stores := stores, jobs := jobs, free := free }
  cells : ∀ c, ∃ tlb, getCell u c = { getCell s c with tlb := tlb }
  stores : ∀ d, ∃ walks frames, getStore u d = { getStore s d with walks := walks, frames := frames }
  jobs : ∀ j, (getJob u j).loaded = (getJob s j).loaded ∧ (getJob u j).faulted = (getJob s j).faulted ∧ (getJob u j).gen = (getJob s j).gen

theorem TouchFrame.refl (s : State) : TouchFrame s s := ⟨⟨_, _, _, _, rfl⟩, fun _ => ⟨_, rfl⟩, fun _ => ⟨_, _, rfl⟩, fun _ => ⟨rfl, rfl, rfl⟩⟩

theorem TouchFrame.trans {s t u : State} (h : TouchFrame s t) (h' : TouchFrame t u) : TouchFrame s u where
  only := by
    obtain ⟨_, _, _, _, eq⟩ := h.only
    obtain ⟨_, _, _, _, eq'⟩ := h'.only
    exact ⟨_, _, _, _, by rw [eq', eq]⟩
  cells c := by
    obtain ⟨_, eq⟩ := h.cells c
    obtain ⟨_, eq'⟩ := h'.cells c
    exact ⟨_, by rw [eq', eq]⟩
  stores d := by
    obtain ⟨_, _, eq⟩ := h.stores d
    obtain ⟨_, _, eq'⟩ := h'.stores d
    exact ⟨_, _, by rw [eq', eq]⟩
  jobs j := by
    obtain ⟨l, f, g⟩ := h.jobs j
    obtain ⟨l', f', g'⟩ := h'.jobs j
    exact ⟨l'.trans l, f'.trans f, g'.trans g⟩

theorem TouchFrame.foldl {α : Type} {f : State → α → State} (step : ∀ s a, TouchFrame s (f s a)) (l : List α) (s : State) :
    TouchFrame s (l.foldl f s) :=
  List.foldlRecOn l f (.refl s) fun _ h a _ => h.trans (step _ a)

theorem touchFrame_modStore (s : State) (d : Nat) {f : StoreDie → StoreDie}
    (keeps : ∀ x, ∃ walks frames, f x = { x with walks := walks, frames := frames }) : TouchFrame s (modStore s d f) where
  only := ⟨_, _, _, _, rfl⟩
  cells _ := ⟨_, rfl⟩
  stores k := by
    rw [getStore_modStore_if]
    split
    · exact keeps _
    · exact ⟨_, _, rfl⟩
  jobs _ := ⟨rfl, rfl, rfl⟩

theorem touchFrame_modJob (s : State) (j : Nat) {f : Job → Job}
    (keeps : ∀ x, (f x).loaded = x.loaded ∧ (f x).faulted = x.faulted ∧ (f x).gen = x.gen) : TouchFrame s (modJob s j f) where
  only := ⟨_, _, _, _, rfl⟩
  cells _ := ⟨_, rfl⟩
  stores _ := ⟨_, _, rfl⟩
  jobs k := by
    rw [getJob_modJob_if]
    split
    · exact keeps _
    · exact ⟨rfl, rfl, rfl⟩

theorem touchFrame_modCell (s : State) (c : Nat) {f : Cell → Cell} (keeps : ∀ x, ∃ tlb, f x = { x with tlb := tlb }) : TouchFrame s (modCell s c f) where
  only := ⟨_, _, _, _, rfl⟩
  cells k := by
    rw [modCell_eq, getCell_setCell_if]
    split
    · subst_vars
      exact keeps _
    · exact ⟨_, rfl⟩
  stores _ := ⟨_, _, rfl⟩
  jobs _ := ⟨rfl, rfl, rfl⟩

theorem touchFrame_draw (s : State) : TouchFrame s (draw s) := ⟨⟨_, _, _, _, rfl⟩, fun _ => ⟨_, rfl⟩, fun _ => ⟨_, _, rfl⟩, fun _ => ⟨rfl, rfl, rfl⟩⟩

theorem touchFrame_takeFrame (s : State) (j f : Nat) (st : FState) : TouchFrame s (takeFrame s j f st) := by
  have put : TouchFrame s (putFrame s f ⟨st, j⟩) := touchFrame_modStore s _ fun _ => ⟨_, _, rfl⟩
  rw [takeFrame]
  split
  · refine put.trans (touchFrame_modJob _ _ fun x => ?_)
    dsimp only
    split <;> exact ⟨rfl, rfl, rfl⟩
  · exact put

theorem touchFrame_startMove (s : State) (j vpn a f : Nat) (pageIn : Bool) : TouchFrame s (startMove s j vpn a f pageIn) := by
  rw [startMove]
  refine (touchFrame_takeFrame s j f (frameOf s (a / 65536)).state).trans ?_
  exact touchFrame_modJob _ _ fun _ => ⟨rfl, rfl, rfl⟩

theorem touchFrame_evict (s : State) (j d : Nat) : TouchFrame s (evict s j d).1 := by
  have leaves : ∀ (t : State) p g, TouchFrame t (modJob t j (fun jb => mapLeaves jb p g)) := fun t p g => touchFrame_modJob t j fun _ => ⟨rfl, rfl, rfl⟩
  have clock : ∀ (t : State) v, TouchFrame t (modJob t j (fun jb => { jb with clock := mset 0 d v jb.clock })) := fun t v =>
    touchFrame_modJob t j fun _ => ⟨rfl, rfl, rfl⟩
  unfold evict
  dsimp only
  split
  · exact leaves ..
  · split
    · exact (leaves ..).trans (clock ..)
    · split
      · exact (leaves ..).trans (clock ..)
      · exact ((leaves ..).trans (clock ..)).trans (touchFrame_startMove ..)

theorem touchFrame_requestPageIn (s : State) (j vpn : Nat) (l : Leaf) : TouchFrame s (requestPageIn s j vpn l) := by
  rw [requestPageIn]
  split
  · exact .refl s
  · dsimp only
    split
    · exact .refl s
    · split
      · exact touchFrame_startMove ..
      · split
        · exact (touchFrame_evict ..).trans (touchFrame_modJob _ _ fun _ => ⟨rfl, rfl, rfl⟩)
        · exact touchFrame_evict ..

/-- The walker counts a walk and, for a cell, installs the translation. -/
theorem touchFrame_walked (s : State) (who : Option Nat) (d n : Nat) (t : Nat × Nat) :
    TouchFrame s (match who with
      | some c => modCell (modStore s d (fun x => { x with walks := wrap32 (x.walks + n) })) c (installTlb s.free t)
      | none => modStore s d (fun x => { x with walks := wrap32 (x.walks + n) })) := by
  have counted : TouchFrame s (modStore s d (fun x => { x with walks := wrap32 (x.walks + n) })) := touchFrame_modStore s d fun _ => ⟨_, _, rfl⟩
  cases who with
  | none => exact counted
  | some c => exact counted.trans (touchFrame_modCell _ c fun _ => ⟨_, rfl⟩)

theorem touchFrame_installPage (s : State) (who : Option Nat) (j : Nat) (item : Option Nat) (d va : Nat) :
    TouchFrame s (installPage s who j item d va) := by
  have walked := touchFrame_walked s who d ((Config.freeWord s.free 9000).toNat % 2) (va / 65536, (walk (getJob s j) item va).number)
  have aged : ∀ (t : State) (l : Leaf), TouchFrame t (if l.a then t
      else modJob t j (fun jb => mapLeaves jb (fun m => decide (m.target = l.target)) (fun m => { m with a := true }))) := by
    intro t l
    split
    · exact .refl t
    · exact touchFrame_modJob _ _ fun _ => ⟨rfl, rfl, rfl⟩
  unfold installPage
  dsimp only
  split
  · refine TouchFrame.trans ?_ (touchFrame_draw _)
    exact walked.trans (aged ..)
  · exact walked.trans (touchFrame_draw _)

theorem touchFrame_touchPage (s : State) (who : Option Nat) (j : Nat) (item : Option Nat) (d va : Nat) : TouchFrame s (touchPage s who j item d va) := by
  have installed : TouchFrame s (if missesTlb s who (va / 65536, (walk (getJob s j) item va).number) then installPage s who j item d va else s) := by
    split
    · exact touchFrame_installPage ..
    · exact .refl s
  rw [touchPage]
  split
  · exact installed.trans (touchFrame_requestPageIn ..)
  · exact installed

theorem touchFrame_touchRanges (s : State) (who : Option Nat) (j : Nat) (item : Option Nat) (d : Nat) (rs : List (Nat × Nat)) :
    TouchFrame s (touchRanges s who j item d rs) := by
  refine .foldl (fun t r => ?_) rs s
  exact .foldl (fun t (q : Nat × Nat) => touchFrame_touchPage t who j item d q.1) _ t

theorem TouchFrame.hearthKept {s u : State} (h : TouchFrame s u) : HearthKept s u := by
  refine ⟨fun d => ?_⟩
  obtain ⟨_, _, eq⟩ := h.stores d
  rw [eq]

end Sys2Proof.Machine
end

section
/-!
PROOF. Accesses to global memory and atomics set out, and atomics complete (O25).
-/
namespace Sys2Proof.Machine
open Sys2Proof.Claim

/-! ### Accesses -/

theorem globalAccess_sound {u : State} {c : Nat} {k : Acc} {rs : List (Nat × Nat)} {ps : List Piece} (e : Entry) (g : State → List Piece → State)
    (ok : checkAccess u (getJob u (getCell u c).ctx) (getCell u c).item (dieOfCell c) k rs = .ok ps) :
    globalAccess u c e k rs g =
      g (touchRanges (if k = .wr then u else meetPieces u ps) (some c) (getCell u c).ctx (getCell u c).item (dieOfCell c) rs) ps := by
  simp only [globalAccess, ok]

section
variable {s : State} {c t op : Nat} {f : MFields} {e : Entry} {ps : List Piece} (hop : op < 256) (h : Issues s c t (encM 3 op f) e)
  (space : f.space = true) (aligned : accessAddr s c t f (decide (op = 3 ∨ op = 4)) % 2 ^ f.size.toNat = 0)
include hop h space aligned

theorem load_global (ok : checkAccess (issued s c e) (getJob (issued s c e) (getCell (issued s c e) c).ctx) (getCell (issued s c e) c).item (dieOfCell c)
      .rd [(accessAddr s c t f (decide (op = 3 ∨ op = 4)), 2 ^ f.size.toNat)] = .ok ps) :
    loadScalar (issued s c e) c e s.free =
      startRead (touchRanges (meetPieces (issued s c e) ps) (some c) (getCell (issued s c e) c).ctx (getCell (issued s c e) c).item (dieOfCell c)
        [(accessAddr s c t f (decide (op = 3 ∨ op = 4)), 2 ^ f.size.toNat)]) c (newFlight e .load (some (resS t f.d.toNat))) ps
        (widen (encM 3 op f)) := by
  obtain ⟨-, -, hd, -, -, hspace, hsize, -⟩ := encM_fields (by decide : 3 < 16) hop f
  simp only [loadScalar, issues_word h, issues_thread h, memAddr_issued e hop, hspace, space, hsize, hd, aligned, ne_eq, not_true_eq_false,
    if_false, if_true, globalAccess_sound e _ ok, reduceCtorEq]

theorem store_global (ok : checkAccess (issued s c e) (getJob (issued s c e) (getCell (issued s c e) c).ctx) (getCell (issued s c e) c).item (dieOfCell c)
      .wr [(accessAddr s c t f (decide (op = 3 ∨ op = 4)), 2 ^ f.size.toNat)] = .ok ps) :
    storeScalar (issued s c e) c e s.free =
      startWrite (touchRanges (issued s c e) (some c) (getCell (issued s c e) c).ctx (getCell (issued s c e) c).item (dieOfCell c)
        [(accessAddr s c t f (decide (op = 3 ∨ op = 4)), 2 ^ f.size.toNat)]) c (newFlight e .store none)
        [(accessAddr s c t f (decide (op = 3 ∨ op = 4)), 2 ^ f.size.toNat)] ps
        (leBytes (2 ^ f.size.toNat) (sReg s.free (getCell (issued s c e) c) t f.d.toNat).toNat) := by
  obtain ⟨-, -, hd, -, -, hspace, hsize, -⟩ := encM_fields (by decide : 3 < 16) hop f
  simp only [storeScalar, issues_word h, issues_thread h, memAddr_issued e hop, hspace, space, hsize, hd, aligned, ne_eq, not_true_eq_false,
    if_false, if_true, globalAccess_sound e _ ok]

end

section
variable {u : State} {c free : Nat} {e : Entry} {ps : List Piece} (space : wSpace e.word = true)
include space

theorem loadTile_global (aligned : tileMisaligned (wFmt e.word) (tileRanges free (getCell u c) e.thread e.word) = none)
    (ok : checkAccess u (getJob u (getCell u c).ctx) (getCell u c).item (dieOfCell c) .rd (tileRanges free (getCell u c) e.thread e.word) = .ok ps) :
    loadTile u c e free =
      let x := getCell u c
      let fl : Flight := { newFlight e .load (some (resT (wD e.word))) with
        old := tilesFrom free x (wD e.word) (tileCount (wFmt e.word)), mask := maskReg free x (wMask e.word) }
      startRead (touchRanges (meetPieces u ps) (some c) x.ctx x.item (dieOfCell c) (tileRanges free x e.thread e.word)) c fl ps (finishLoad fl) := by
  simp only [loadTile, aligned, space, if_true, globalAccess_sound e _ ok, reduceCtorEq, if_false]

theorem loadMask_global (aligned : (tileAddr free (getCell u c) e.thread e.word).toNat % 64 = 0)
    (ok : checkAccess u (getJob u (getCell u c).ctx) (getCell u c).item (dieOfCell c) .rd [((tileAddr free (getCell u c) e.thread e.word).toNat, 128)] = .ok ps) :
    loadMask u c e free =
      startRead (touchRanges (meetPieces u ps) (some c) (getCell u c).ctx (getCell u c).item (dieOfCell c)
        [((tileAddr free (getCell u c) e.thread e.word).toNat, 128)]) c (newFlight e .load (some (resM (wD e.word)))) ps (fun l => l) := by
  simp only [loadMask, aligned, space, if_true, globalAccess_sound e _ ok, reduceCtorEq, if_false, ne_eq, not_true_eq_false]

end

theorem globalAccessesStart : GlobalAccessesStart := by
  intro s c t e ps v x ok rd wr
  refine ⟨fun f space => ⟨fun h aligned passes => ?_, fun h aligned passes => ?_, fun h aligned passes => ?_, fun h aligned passes => ?_,
    fun h aligned passes => ?_⟩, fun f space h => ?_, fun f space h => ?_⟩
  · exact (onThread_issue h fun u e => loadScalar u c e s.free).trans (congrArg _ (load_global (op := 0) (by decide) h space aligned passes))
  · exact (onThread_issue h fun u e => loadScalar u c e s.free).trans (congrArg _ (load_global (op := 1) (by decide) h space aligned passes))
  · exact (onThread_issue h fun u e => loadScalar u c e s.free).trans (congrArg _ (load_global (op := 3) (by decide) h space aligned passes))
  · exact (onThread_issue h fun u e => storeScalar u c e s.free).trans (congrArg _ (store_global (op := 2) (by decide) h space aligned passes))
  · exact (onThread_issue h fun u e => storeScalar u c e s.free).trans (congrArg _ (store_global (op := 4) (by decide) h space aligned passes))
  · intro rs fl aligned passes
    obtain ⟨-, -, hd, -, -, hspace, -, hfmt, hmask, -⟩ := encVM_fields (by decide : 9 < 16) (by decide : 0x00 < 256) f
    rw [← issues_word h] at hd hspace hfmt hmask
    refine (onThread_issue h fun u e => loadTile u c e s.free).trans (congrArg _ ?_)
    rw [loadTile_global (hspace.trans space) (by rw [issues_thread h, hfmt]; exact aligned) (by rw [issues_thread h]; exact passes),
      issues_thread h, hd, hfmt, hmask]
  · intro a aligned passes
    obtain ⟨-, -, hd, -, -, hspace, -⟩ := encVM_fields (by decide : 9 < 16) (by decide : 0x04 < 256) f
    rw [← issues_word h] at hd hspace
    refine (onThread_issue h fun u e => loadMask u c e s.free).trans (congrArg _ ?_)
    rw [loadMask_global (hspace.trans space) (by rw [issues_thread h]; exact aligned) (by rw [issues_thread h]; exact passes), issues_thread h, hd]

/-! ### Atomics at the Hearth -/

/-- Each atomic is issued with its opcode; the size of AXS is 24 bytes, that of the others of the size field (R79). -/
theorem exec_atomicOps : ∀ k ∈ atomicOps, ∀ c t f s,
    exec (k.1 c t f) s = onThread c t (issue s c t (encM 3 k.2.1 f) (fun u e => startAtomic u c e k.2.2 s.free)) := by
  simp only [atomicOps, List.forall_mem_cons, List.not_mem_nil, false_imp_iff, implies_true, and_true]
  exact ⟨fun _ _ _ _ => rfl, fun _ _ _ _ => rfl, fun _ _ _ _ => rfl, fun _ _ _ _ => rfl, fun _ _ _ _ => rfl, fun _ _ _ _ => rfl, fun _ _ _ _ => rfl⟩

theorem atomicOps_code : ∀ k ∈ atomicOps, k.2.1 < 256 ∧ decide (k.2.1 = 3 ∨ k.2.1 = 4) = false ∧ (k.2.1 = 0x12 ↔ k.2.2 = .xs) := by
  simp only [atomicOps, List.forall_mem_cons, List.not_mem_nil, false_imp_iff, implies_true, and_true]
  decide

/-- The bytes of an atomic's operand (R79). -/
def atomLen (op : AtomOp) (f : MFields) : Nat := if op = .xs then 24 else 2 ^ f.size.toNat

/-- The flight of an atomic. -/
def atomFlight (e : Entry) (op : AtomOp) (t d : Nat) : Flight := newFlight e .atom (if op = .xs then none else some (resS t d))

/-- The request that an atomic leaves at its Hearth. -/
def atomReq (s : State) (c t : Nat) (f : MFields) (e : Entry) (op : AtomOp) (ps : List Piece) : HearthReq where
  op := op
  parts := ps.filterMap (fun p => match p.target with | .phys a => some (a, p.len) | .fabric _ => none)
  a := sReg s.free (getCell s c) t f.b.toNat
  b := sReg s.free (getCell s c) t f.d.toNat
  width := atomLen op f
  cell := some (c, e.stamp)
  fabric := none

/-- The flight stands in the cell and the request at the Hearth of its home die. -/
def atHearth (u : State) (c : Nat) (fl : Flight) (r : HearthReq) : State :=
  modStore (modCell u c (fun x => addFlight x fl)) (dieOfAddr u ((r.parts.headD (0, 0)).1)) (fun y => { y with hearthQ := y.hearthQ ++ [r] })

/-- The state in which the operand's pages have been touched and its errors met. -/
def atomTouched (s : State) (c t : Nat) (f : MFields) (e : Entry) (op : AtomOp) (ps : List Piece) : State :=
  let v := issued s c e
  touchRanges (meetPieces v ps) (some c) (getCell v c).ctx (getCell v c).item (dieOfCell c) [(accessAddr s c t f false, atomLen op f)]

theorem startAtomic_device {s : State} {c t : Nat} {f : MFields} {e : Entry} {p : Piece} {ps : List Piece}
    {k : (Nat → Nat → MFields → Instr) × Nat × AtomOp} (hk : k ∈ atomicOps) (h : Issues s c t (encM 3 k.2.1 f) e)
    (aligned : accessAddr s c t f false % 2 ^ f.size.toNat = 0) (device : hasFabric (p :: ps) = false)
    (ok : checkAccess (issued s c e) (getJob (issued s c e) (getCell (issued s c e) c).ctx) (getCell (issued s c e) c).item (dieOfCell c) .atom
      [(accessAddr s c t f false, atomLen k.2.2 f)] = .ok (p :: ps)) :
    exec (k.1 c t f) s = .next (atHearth (atomTouched s c t f e k.2.2 (p :: ps)) c (atomFlight e k.2.2 t f.d.toNat)
      (atomReq s c t f e k.2.2 (p :: ps))) := by
  obtain ⟨hop, notIndexed, isXs⟩ := atomicOps_code k hk
  obtain ⟨hc, ho, hd, -, hb, -, hsize, -⟩ := encM_fields (by decide : 3 < 16) hop f
  have size : memSize (encM 3 k.2.1 f) = atomLen k.2.2 f := by simp only [memSize, hc, ho, hsize, true_and, isXs, atomLen]
  refine ((exec_atomicOps k hk c t f s).trans (onThread_issue h _)).trans (congrArg _ ?_)
  obtain ⟨va, len, target⟩ := p
  cases target with
  | fabric => simp [hasFabric] at device
  | phys a =>
    simp only [startAtomic, issues_word h, issues_thread h, memAddr_issued e hop, notIndexed, size, hsize, hb, hd, aligned, sReg_issued, ne_eq,
      not_true_eq_false, if_false, globalAccess_sound e _ ok, reduceCtorEq]
    rfl

section
variable (s : State) (c : Nat) (e : Entry)

@[simp] theorem ctx_issued : (getCell (issued s c e) c).ctx = (getCell s c).ctx := by
  obtain ⟨_, _, _, _, _, _, h⟩ := issued_cell s c e
  rw [h]

@[simp] theorem item_issued : (getCell (issued s c e) c).item = (getCell s c).item := by
  obtain ⟨_, _, _, _, _, _, h⟩ := issued_cell s c e
  rw [h]

@[simp] theorem flights_issued : (getCell (issued s c e) c).flights = (getCell s c).flights := by
  obtain ⟨_, _, _, _, _, _, h⟩ := issued_cell s c e
  rw [h]

theorem hearthKept_issued : HearthKept s (issued s c e) := by
  obtain ⟨x, h⟩ := issued_frame s c e
  rw [h]
  exact .of_stores rfl

end

theorem addFlight_flights (x : Cell) (fl : Flight) : (addFlight x fl).flights = x.flights ++ [fl] := by
  rw [addFlight]
  split <;> rfl

theorem atHearth_queue (u : State) (c : Nat) (fl : Flight) (r : HearthReq) :
    let d := dieOfAddr u ((r.parts.headD (0, 0)).1)
    (getStore (atHearth u c fl r) d).hearthQ = (getStore u d).hearthQ ++ [r] := by
  intro d
  rw [atHearth, getStore_modStore_if, if_pos rfl]
  rfl

theorem atHearth_flights (u : State) (c : Nat) (fl : Flight) (r : HearthReq) : (getCell (atHearth u c fl r) c).flights = (getCell u c).flights ++ [fl] := by
  have cell : getCell (atHearth u c fl r) c = addFlight (getCell u c) fl := getCell_setCell ..
  rw [cell, addFlight_flights]

theorem atomicsGoToTheHearth : AtomicsGoToTheHearth := by
  intro k hk s c t f e p ps v x a n h aligned device ok
  have kept : HearthKept s (atomTouched s c t f e k.2.2 (p :: ps)) :=
    ((hearthKept_issued s c e).trans (hearthKept_meetPieces ..)).trans (touchFrame_touchRanges ..).hearthKept
  have next := startAtomic_device hk h aligned device (by rw [ctx_issued, item_issued]; exact ok)
  generalize atomTouched s c t f e k.2.2 (p :: ps) = w at kept next
  have queue := atHearth_queue w c (atomFlight e k.2.2 t f.d.toNat) (atomReq s c t f e k.2.2 (p :: ps))
  have flights := atHearth_flights w c (atomFlight e k.2.2 t f.d.toNat) (atomReq s c t f e k.2.2 (p :: ps))
  dsimp only at queue
  rw [kept.queue] at queue
  refine ⟨_, _, _, next, queue, rfl, rfl, rfl, rfl, rfl, atomFlight e k.2.2 t f.d.toNat, ?_, rfl, rfl, rfl, rfl⟩
  rw [flights]
  exact List.mem_append_right _ (List.mem_singleton_self _)

/-! ### What leaves a cell live -/

/-- Nothing changes by which a cell is live, an address has its die, or a stack answers: only cells, store dies, jobs' tables, device memory with its
errors, events and the counter of free values may differ. -/
structure LifeFrame (s u : State) (c : Nat) : Prop where
  only : ∃ cells stores jobs free mem upsets evs clk,
    u = { s with cells := cells, stores := stores, jobs := jobs, free := free, mem := mem, upsets := upsets, evs := evs, lodgeClk := clk }
  cell : (getCell u c).mode = (getCell s c).mode ∧ (getCell u c).ctxv = (getCell s c).ctxv ∧ (getCell u c).ctx = (getCell s c).ctx ∧
    (getCell u c).job = (getCell s c).job
  jobs : ∀ j, (getJob u j).loaded = (getJob s j).loaded ∧ (getJob u j).faulted = (getJob s j).faulted ∧ (getJob u j).gen = (getJob s j).gen

section
variable {s t u : State} {c : Nat}

theorem LifeFrame.trans (h : LifeFrame s t c) (h' : LifeFrame t u c) : LifeFrame s u c where
  only := by
    obtain ⟨_, _, _, _, _, _, _, _, eq⟩ := h.only
    obtain ⟨_, _, _, _, _, _, _, _, eq'⟩ := h'.only
    exact ⟨_, _, _, _, _, _, _, _, by rw [eq', eq]⟩
  cell := by
    obtain ⟨mode, ctxv, ctx, job⟩ := h.cell
    obtain ⟨mode', ctxv', ctx', job'⟩ := h'.cell
    exact ⟨mode'.trans mode, ctxv'.trans ctxv, ctx'.trans ctx, job'.trans job⟩
  jobs j := by
    obtain ⟨l, f, g⟩ := h.jobs j
    obtain ⟨l', f', g'⟩ := h'.jobs j
    exact ⟨l'.trans l, f'.trans f, g'.trans g⟩

theorem LifeFrame.stackUp (h : LifeFrame s u c) (d : Nat) : stackUp u d = stackUp s d := by
  obtain ⟨_, _, _, _, _, _, _, _, rfl⟩ := h.only
  rfl

theorem LifeFrame.dieOfAddr (h : LifeFrame s u c) (a : Nat) : dieOfAddr u a = dieOfAddr s a := by
  obtain ⟨_, _, _, _, _, _, _, _, rfl⟩ := h.only
  rfl

theorem LifeFrame.failTrigger (h : LifeFrame s u c) : u.failTrigger = s.failTrigger := by
  obtain ⟨_, _, _, _, _, _, _, _, rfl⟩ := h.only
  rfl

theorem LifeFrame.host (h : LifeFrame s u c) : u.host = s.host := by
  obtain ⟨_, _, _, _, _, _, _, _, rfl⟩ := h.only
  rfl

theorem LifeFrame.cellLive (h : LifeFrame s u c) : cellLive u c = cellLive s c := by
  obtain ⟨mode, ctxv, ctx, job⟩ := h.cell
  have owner : cellJob u c = cellJob s c := by simp only [cellJob, mode, ctxv, ctx, job, (h.jobs _).2.2]
  have power : getPav u (pavOfCell c) = getPav s (pavOfCell c) ∧ running u = running s := by
    obtain ⟨_, _, _, _, _, _, _, _, rfl⟩ := h.only
    exact ⟨rfl, rfl⟩
  rw [Machine.cellLive, Machine.cellLive, owner, power.1, power.2, h.stackUp]
  cases cellJob s c with
  | none => rfl
  | some j => simp only [h.jobs j]

theorem lifeFrame_setCell {x : Cell} (cell : x.mode = (getCell s c).mode ∧ x.ctxv = (getCell s c).ctxv ∧ x.ctx = (getCell s c).ctx ∧
    x.job = (getCell s c).job) : LifeFrame s (setCell s c x) c where
  only := ⟨_, _, _, _, _, _, _, _, rfl⟩
  cell := by rw [getCell_setCell]; exact cell
  jobs _ := ⟨rfl, rfl, rfl⟩

theorem lifeFrame_modStore (d : Nat) (f : StoreDie → StoreDie) : LifeFrame s (modStore s d f) c :=
  ⟨⟨_, _, _, _, _, _, _, _, rfl⟩, ⟨rfl, rfl, rfl, rfl⟩, fun _ => ⟨rfl, rfl, rfl⟩⟩

theorem lifeFrame_issued (s : State) (c : Nat) (e : Entry) : LifeFrame s (issued s c e) c := by
  refine ⟨?_, ?_, fun j => ?_⟩
  · obtain ⟨_, h⟩ := issued_frame s c e
    rw [h]
    exact ⟨_, _, _, _, _, _, _, _, rfl⟩
  · obtain ⟨_, _, _, _, _, _, h⟩ := issued_cell s c e
    rw [h]
    exact ⟨rfl, rfl, rfl, rfl⟩
  · rw [getJob_issued]
    exact ⟨rfl, rfl, rfl⟩

theorem TouchFrame.life (h : TouchFrame s u) : LifeFrame s u c where
  only := by
    obtain ⟨_, _, _, _, eq⟩ := h.only
    exact ⟨_, _, _, _, _, _, _, _, eq⟩
  cell := by
    obtain ⟨_, eq⟩ := h.cells c
    rw [eq]
    exact ⟨rfl, rfl, rfl, rfl⟩
  jobs := h.jobs

theorem TouchFrame.flights (h : TouchFrame s u) : (getCell u c).flights = (getCell s c).flights := by
  obtain ⟨_, eq⟩ := h.cells c
  rw [eq]

theorem TouchFrame.mem (h : TouchFrame s u) : u.mem = s.mem := by
  obtain ⟨_, _, _, _, rfl⟩ := h.only
  rfl

end

theorem addFlight_frame (x : Cell) (fl : Flight) : ∃ ts, addFlight x fl = { x with flights := x.flights ++ [fl], tstate := ts } := by
  rw [addFlight]
  split <;> exact ⟨_, rfl⟩

theorem lifeFrame_atHearth (u : State) (c : Nat) (fl : Flight) (r : HearthReq) : LifeFrame u (atHearth u c fl r) c := by
  refine LifeFrame.trans (t := modCell u c fun x => addFlight x fl) ?_ (lifeFrame_modStore ..)
  obtain ⟨_, eq⟩ := addFlight_frame (getCell u c) fl
  rw [modCell_eq, eq]
  exact lifeFrame_setCell ⟨rfl, rfl, rfl, rfl⟩

/-! ### The Hearth applies an atomic -/

/-- Counting an atomic changes no memory and no queue (R304). -/
theorem countAtom_frame (s : State) (d : Nat) (op : AtomOp) (a : Word) (old : List Byte) :
    (∃ stores evs clk, countAtom s d op a old = { s with stores := stores, evs := evs, lodgeClk := clk }) ∧ HearthKept s (countAtom s d op a old) := by
  rw [countAtom]
  split
  · have counted : ∀ f : StoreDie → StoreDie, (∀ x, (f x).hearthQ = x.hearthQ) → ∀ b : Bool,
        (∃ stores evs clk, (if b then raiseEvent (modStore s d f) (228 + d) else modStore s d f) = { s with stores := stores, evs := evs, lodgeClk := clk }) ∧
          HearthKept s (if b then raiseEvent (modStore s d f) (228 + d) else modStore s d f) := by
      intro f keeps b
      have kept : HearthKept s (modStore s d f) := .modStore s d keeps
      cases b
      · exact ⟨⟨_, _, _, rfl⟩, kept⟩
      · exact ⟨⟨_, _, _, rfl⟩, kept.trans (hearthKept_raiseEvent ..)⟩
    refine counted _ ?_ _
    exact fun _ => rfl
  · exact ⟨⟨_, _, _, rfl⟩, .modStore s d fun _ => rfl⟩

theorem xsBytes_length (x : Xs) : (xsBytes x).length = 24 := by simp [xsBytes]

theorem atomBytes_length (op : AtomOp) (f : MFields) (a b : Word) (old : List Byte) : (atomBytes op (atomLen op f) a b old).length = atomLen op f := by
  rw [atomBytes, atomLen]
  split
  · rw [List.length_mapIdx, xsBytes_length]
  · rw [leBytes_length]

/-- An atomic on one range of device memory writes its new bytes there, and answers the old (R292). -/
theorem applyAtomic_device {s : State} {d m n : Nat} {r : HearthReq} (parts : r.parts = [(m, n)])
    (len : (atomBytes r.op r.width r.a r.b (memRead s.mem m n)).length = n) (below : m < hostBase) :
    (applyAtomic s d r).2 = memRead s.mem m n ∧ HearthKept s (applyAtomic s d r).1 ∧
      ∃ stores evs clk upsets, (applyAtomic s d r).1 =
        { s with stores := stores, evs := evs, lodgeClk := clk, upsets := upsets, mem := memWrite s.mem m (atomBytes r.op r.width r.a r.b (memRead s.mem m n)) } := by
  have device : ¬ (hostBase ≤ m ∧ m < hostEnd) := fun h => absurd h.1 (Nat.not_le.mpr below)
  have old : partsRead s [(m, n)] = memRead s.mem m n := by simp [partsRead, physRead, device]
  obtain ⟨⟨stores, evs, clk, counted⟩, kept⟩ := countAtom_frame s d r.op r.a (memRead s.mem m n)
  have written : (applyAtomic s d r).1 = clearErrors (physWrite (countAtom s d r.op r.a (memRead s.mem m n)) m
      (atomBytes r.op r.width r.a r.b (memRead s.mem m n))) m n := by
    simp only [applyAtomic, parts, old, partsWrite, List.take_of_length_le (Nat.le_of_eq len)]
  rw [written, physWrite, if_neg device]
  refine ⟨by rw [applyAtomic, parts, old], kept.trans (.of_stores rfl), ?_⟩
  rw [counted]
  exact ⟨_, _, _, _, rfl⟩

/-- The flight with the old value that an atomic answers. -/
def answeredFlight (fl : Flight) (old : List Byte) : Flight := { fl with arrived := true, data := leBytes 8 (leNat old) }

/-- A flight by its stamp, behind others with other stamps. -/
theorem find?_last {l : List Flight} {fl : Flight} (fresh : ∀ g ∈ l, g.stamp ≠ fl.stamp) :
    (l ++ [fl]).find? (fun g => decide (g.stamp = fl.stamp)) = some fl := by
  have none : l.find? (fun g => decide (g.stamp = fl.stamp)) = none := List.find?_eq_none.mpr fun g hg => by simpa using fresh g hg
  simp [List.find?_append, none]

theorem endFlight_spec (x : Cell) (stamp : Nat) :
    (∀ g ∈ (endFlight x stamp).flights, g.stamp ≠ stamp) ∧ (endFlight x stamp).mode = x.mode ∧ (endFlight x stamp).ctxv = x.ctxv ∧
      (endFlight x stamp).ctx = x.ctx ∧ (endFlight x stamp).job = x.job := by
  have ended : ∀ g ∈ (flightEnded x stamp).flights, g.stamp ≠ stamp := fun g hg => not_mem_flightEnded hg
  have acquired : ∀ t, ∃ m b n, acquireStreams (flightEnded x stamp) t stamp = { flightEnded x stamp with slots := m, bellows := b, qinval := n } :=
    fun t => acquireStreams_frame ..
  rw [endFlight, ← flightEnded]
  split
  · split
    · next f _ _ =>
      obtain ⟨_, _, _, eq⟩ := acquired f.thread
      rw [eq]
      exact ⟨ended, rfl, rfl, rfl, rfl⟩
    · exact ⟨ended, rfl, rfl, rfl, rfl⟩
  · exact ⟨ended, rfl, rfl, rfl, rfl⟩

section
variable {s : State} {c : Nat} {op : AtomOp} {l : List Flight} {fl : Flight} (old : List Byte) (flights : (getCell s c).flights = l ++ [fl])
  (fresh : ∀ g ∈ l, g.stamp ≠ fl.stamp)
include flights fresh

theorem answerAtomic_value (value : op ≠ .xs) :
    answerAtomic s c fl.stamp op old = setCell s c { getCell s c with flights := l ++ [answeredFlight fl old] } := by
  have marked : l.map (fun g => if g.stamp = fl.stamp then answeredFlight fl old else g) = l :=
    (List.map_congr_left fun g hg => if_neg (fresh g hg)).trans (List.map_id' l)
  have all : (l ++ [fl]).map (fun g => if g.stamp = fl.stamp then answeredFlight fl old else g) = l ++ [answeredFlight fl old] := by
    simp [marked]
  simp only [answerAtomic, modCell_eq, flights, find?_last fresh, if_neg value]
  exact congrArg (fun m => setCell s c { getCell s c with flights := m }) all

theorem answerAtomic_none (silent : op = .xs) : answerAtomic s c fl.stamp op old = setCell s c (endFlight (getCell s c) fl.stamp) := by
  simp only [answerAtomic, modCell_eq, flights, find?_last fresh, if_pos silent]

end

/-- The next atomic of a Hearth is applied, and its cell answered. -/
theorem exec_hearthAtomicApply {u : State} {d c stamp : Nat} {r : HearthReq} (ok : storeOk d = true) (up : stackUp u d = true)
    (runs : u.failTrigger = 0) (queue : (getStore u d).hearthQ = [r]) (own : r.fabric = none) (cell : r.cell = some (c, stamp)) :
    exec (.hearthAtomicApply d) u =
      .next (let t := applyAtomic (modStore u d (fun x => { x with hearthQ := [] })) d r; answerAtomic t.1 c stamp r.op t.2) := by
  change onUnit _ _ = _
  simp only [ok, onUnit_true, queue, up, runs, own, cell, Bool.not_true, Bool.false_eq_true, ne_eq, not_true_eq_false, or_self, if_false]

/-! ### Atomics complete -/

/-- An entry issues only on a cell that is live. -/
theorem issues_live {s : State} {c t : Nat} {w : Word} {e : Entry} (h : Issues s c t w e) : cellLive s c = true := by
  obtain ⟨-, -, issue⟩ := h
  rw [canIssue] at issue
  split at issue
  · cases issue
  · split at issue
    case isTrue ready =>
      simp only [Bool.and_eq_true] at ready
      obtain ⟨⟨⟨⟨⟨-, live⟩, -⟩, -⟩, -⟩, -⟩ := ready
      exact live
    case isFalse => cases issue

theorem cellLive_runs {s : State} {c : Nat} (h : cellLive s c = true) : s.failTrigger = 0 := by
  simp only [cellLive, running, Bool.and_eq_true, decide_eq_true_eq] at h
  obtain ⟨⟨⟨⟨-, runs, -⟩, -⟩, -⟩, -⟩ := h
  exact runs

/-- Without errors under it, an atomic's operand is touched and nothing else happens before it goes to its Hearth. -/
theorem atomTouched_frame {s : State} (c t : Nat) (f : MFields) (e : Entry) (op : AtomOp) (ps : List Piece) (sound : s.upsets = []) :
    TouchFrame (issued s c e) (atomTouched s c t f e op ps) := by
  have none : (issued s c e).upsets = [] := by
    obtain ⟨_, h⟩ := issued_frame s c e
    rw [h]
    exact sound
  rw [atomTouched, meetPieces_of_sound ps none]
  exact touchFrame_touchRanges ..

/-- The request of an atomic stands alone at the Hearth d, its flight in its cell, and nothing has been written. -/
structure AtomWaits (s u : State) (c d : Nat) (fl : Flight) (r : HearthReq) : Prop where
  life : LifeFrame s u c
  flights : (getCell u c).flights = (getCell s c).flights ++ [fl]
  mem : u.mem = s.mem
  queue : (getStore u d).hearthQ = [r]

theorem atomic_waits {s : State} {c t m : Nat} {f : MFields} {e : Entry} {p : Piece} {k : (Nat → Nat → MFields → Instr) × Nat × AtomOp}
    (hk : k ∈ atomicOps) (h : Issues s c t (encM 3 k.2.1 f) e) (aligned : accessAddr s c t f false % 2 ^ f.size.toNat = 0)
    (target : p.target = .phys m)
    (ok : checkAccess (issued s c e) (getJob s (getCell s c).ctx) (getCell s c).item (dieOfCell c) .atom
      [(accessAddr s c t f false, atomLen k.2.2 f)] = .ok [p])
    (queue : (getStore s (dieOfAddr s m)).hearthQ = []) (sound : s.upsets = []) :
    ∃ u, exec (k.1 c t f) s = .next u ∧
      AtomWaits s u c (dieOfAddr s m) (atomFlight e k.2.2 t f.d.toNat) (atomReq s c t f e k.2.2 [p]) := by
  have device : hasFabric [p] = false := by simp [hasFabric, target]
  have next := startAtomic_device hk h aligned device (by rw [ctx_issued, item_issued, getJob_issued]; exact ok)
  have touch := atomTouched_frame c t f e k.2.2 [p] sound
  have parts : ((atomReq s c t f e k.2.2 [p]).parts.headD (0, 0)).1 = m := by simp [atomReq, target]
  generalize atomTouched s c t f e k.2.2 [p] = w at touch next
  generalize atomReq s c t f e k.2.2 [p] = r at parts next ⊢
  generalize atomFlight e k.2.2 t f.d.toNat = fl at next ⊢
  have life : LifeFrame s w c := (lifeFrame_issued s c e).trans touch.life
  have empty : (getStore w (dieOfAddr s m)).hearthQ = [] := by rw [touch.hearthKept.queue, (hearthKept_issued s c e).queue, queue]
  have waiting := atHearth_queue w c fl r
  dsimp only at waiting
  rw [parts, life.dieOfAddr, empty, List.nil_append] at waiting
  exact ⟨_, next, life.trans (lifeFrame_atHearth w c fl r), by rw [atHearth_flights, touch.flights, flights_issued],
    touch.mem.trans (issued_mem s c e), waiting⟩

/-- The state in which the Hearth d has written device memory, before the cell is answered. -/
structure AtomApplied (u y : State) (c d m : Nat) (new : List Byte) : Prop where
  life : LifeFrame u y c
  flights : (getCell y c).flights = (getCell u c).flights
  mem : y.mem = memWrite u.mem m new
  queue : (getStore y d).hearthQ = []

theorem hearth_applies {u : State} {c d stamp m n : Nat} {r : HearthReq} (ok : storeOk d = true) (up : stackUp u d = true) (runs : u.failTrigger = 0)
    (queue : (getStore u d).hearthQ = [r]) (own : r.fabric = none) (cell : r.cell = some (c, stamp)) (parts : r.parts = [(m, n)])
    (len : (atomBytes r.op r.width r.a r.b (memRead u.mem m n)).length = n) (below : m < hostBase) :
    ∃ y, exec (.hearthAtomicApply d) u = .next (answerAtomic y c stamp r.op (memRead u.mem m n)) ∧
      AtomApplied u y c d m (atomBytes r.op r.width r.a r.b (memRead u.mem m n)) := by
  have applies := exec_hearthAtomicApply ok up runs queue own cell
  have empty : (getStore (modStore u d fun x => { x with hearthQ := [] }) d).hearthQ = [] := by rw [getStore_modStore_if, if_pos rfl]
  obtain ⟨answer, kept, stores, evs, clk, upsets, applied⟩ := applyAtomic_device (s := modStore u d fun x => { x with hearthQ := [] }) (d := d) parts len below
  have life : LifeFrame u (modStore u d fun x => { x with hearthQ := [] }) c := lifeFrame_modStore ..
  simp only [answer] at applies
  refine ⟨_, applies, ?_, ?_, ?_, by rw [kept.queue, empty]⟩
  · rw [applied]
    exact life.trans ⟨⟨_, _, _, _, _, _, _, _, rfl⟩, ⟨rfl, rfl, rfl, rfl⟩, fun _ => ⟨rfl, rfl, rfl⟩⟩
  · rw [applied]
    rfl
  · rw [applied]
    rfl

/-- The old value of an atomic returns to its scalar destination (R63, R79). -/
theorem atomic_returns {y : State} {c t d : Nat} {e : Entry} {op : AtomOp} {l : List Flight} (old : List Byte) (ok : cellOk c = true)
    (live : cellLive y c = true) (ht : t < 8) (hd : d < 32) (value : op ≠ .xs) (nonzero : d ≠ 0)
    (flights : (getCell y c).flights = l ++ [atomFlight e op t d]) (fresh : ∀ g ∈ l, g.stamp ≠ e.stamp) :
    ∃ z, exec (.globalLoadReturn c e.stamp) (answerAtomic y c e.stamp op old) = .next z ∧
      (∀ i, sReg i (getCell z c) t d = BitVec.ofNat 64 (leNat old)) ∧ ∀ g ∈ (getCell z c).flights, g.stamp ≠ e.stamp := by
  have answered : answerAtomic y c e.stamp op old = _ := answerAtomic_value old flights fresh value
  have dest : (answeredFlight (atomFlight e op t d) old).dest = some (resS t d) := if_neg value
  have number : resS t d < 256 ∧ resS t d / 32 = t ∧ resS t d % 32 = d := by
    rw [resS]
    omega
  obtain ⟨scalar, thread, reg⟩ := number
  rw [answered]
  have live' := (lifeFrame_setCell (s := y) (c := c) (x := { getCell y c with flights := l ++ [answeredFlight (atomFlight e op t d) old] })
    ⟨rfl, rfl, rfl, rfl⟩).cellLive.trans live
  have found : ({ getCell y c with flights := l ++ [answeredFlight (atomFlight e op t d) old] } : Cell).flights.find?
      (fun g => decide (g.stamp = (answeredFlight (atomFlight e op t d) old).stamp)) = some (answeredFlight (atomFlight e op t d) old) :=
    find?_last fresh
  generalize { getCell y c with flights := l ++ [answeredFlight (atomFlight e op t d) old] } = x at *
  have next := exec_globalLoadReturn ok live' (by rw [getCell_setCell]; exact found) rfl (by rintro ⟨⟩) (by rintro ⟨⟩)
  rw [getCell_setCell] at next
  obtain ⟨gone, written⟩ := deliver_writes dest scalar x
  rw [thread, reg] at written
  refine ⟨_, next, fun i => ?_, ?_⟩
  · rw [getCell_setCell, written nonzero]
    have eight : (leBytes 8 (leNat old)).take 8 = leBytes 8 (leNat old) := List.take_of_length_le (Nat.le_of_eq (leBytes_length ..))
    rw [answeredFlight, eight, leNat_leBytes]
    exact BitVec.eq_of_toNat_eq (Nat.mod_mod _ _)
  · rw [getCell_setCell]
    exact gone

theorem atomLen_pos (op : AtomOp) (f : MFields) : 0 < atomLen op f := by
  rw [atomLen]
  split
  · decide
  · exact Nat.two_pow_pos _

theorem atomicsComplete : AtomicsComplete := by
  intro k hk s c t f e p m x a n d old h aligned target len below ok store up queue fresh sound
  obtain ⟨u, next, waits⟩ := atomic_waits hk h aligned target ok queue sound
  have parts : (atomReq s c t f e k.2.2 [p]).parts = [(m, n)] := by simp [atomReq, target, len]
  have long : (atomBytes k.2.2 n (sReg s.free x t f.b.toNat) (sReg s.free x t f.d.toNat) old).length = n := atomBytes_length k.2.2 f ..
  have inside : m < hostBase := Nat.lt_of_lt_of_le (Nat.lt_add_of_pos_right (atomLen_pos k.2.2 f)) below
  obtain ⟨y, applies, applied⟩ := hearth_applies store ((waits.life.stackUp _).trans up) (waits.life.failTrigger.trans (cellLive_runs (issues_live h)))
    waits.queue rfl rfl parts (by rw [waits.mem]; exact long) inside
  have life := waits.life.trans applied.life
  have flights := applied.flights.trans waits.flights
  have mem := applied.mem
  rw [waits.mem] at applies mem
  have live : cellLive y c = true := life.cellLive.trans (issues_live h)
  refine ⟨u, _, next, applies, ?_, fun q outside => ?_, life.host, applied.queue, fun silent => ?_, fun value nonzero => ?_⟩
  · change memRead y.mem m n = _
    rw [mem]
    have same := memRead_memWrite_same s.mem m (atomBytes k.2.2 n (sReg s.free x t f.b.toNat) (sReg s.free x t f.d.toNat) old)
    rw [long] at same
    exact same
  · change memByte y.mem q = _
    rw [mem]
    rcases outside with before | after
    · exact memByte_memWrite_below _ _ before
    · exact memByte_memWrite_above _ _ (Nat.le_trans (Nat.le_of_eq (congrArg (m + ·) long)) after)
  · have answered : answerAtomic y c e.stamp k.2.2 old = _ := answerAtomic_none old flights fresh silent
    rw [show answerAtomic y c e.stamp (atomReq s c t f e k.2.2 [p]).op _ = _ from answered, getCell_setCell]
    exact (endFlight_spec _ _).1
  · exact atomic_returns old h.1 live (issues_thread_lt h) f.d.isLt value (fun zero => nonzero (BitVec.eq_of_toNat_eq zero)) flights fresh

/-- Settles O25. -/
theorem globalAccessesAndAtomicsStart : Obligations.GlobalAccessesAndAtomicsStart := ⟨globalAccessesStart, atomicsGoToTheHearth, atomicsComplete⟩

end Sys2Proof.Machine
end

section
/-!
PROOF. The waits of a cell end; its allocators, streams and matrix unit go on (O31).
-/
namespace Sys2Proof.Machine
open Sys2Proof.Claim

/-! ### Waits -/

/-- One that changes its own cell and draws a free value has the frame of the change. -/
theorem storeFrame_draw_setCell {s : State} {c : Nat} {dests : List Nat} {lo n : Nat} {x : Cell} (h : CellFrame (getCell s c) x dests lo n) :
    StoreFrame s (draw (setCell s c x)) c dests lo n := storeFrame_of_cell x (s.free + 1) h

/-- The cell in which a waiting thread takes a miss register (R63). -/
def missGrantedTo (free : Nat) (x : Cell) (t : Nat) (rest : List Nat) : Cell :=
  let y := { endMissWait free x rest with missGranted := x.missGranted ++ [t] }
  if tstateOf y t = .missfull then setTState y t .ready else y

theorem missGrantedTo_spec (free : Nat) (x : Cell) (t : Nat) (rest : List Nat) :
    (missGrantedTo free x t rest).missWaiters = rest ∧ (missGrantedTo free x t rest).missGranted = x.missGranted ++ [t] ∧
      (tstateOf x t = .missfull → tstateOf (missGrantedTo free x t rest) t = .ready) ∧ CellFrame x (missGrantedTo free x t rest) [] 0 0 := by
  have waited : ∃ n, endMissWait free x rest = { x with missWaiters := rest, missWait := n } := by
    rw [endMissWait]
    split
    · exact ⟨_, rfl⟩
    · exact ⟨_, rfl⟩
  obtain ⟨n, eq⟩ := waited
  rw [missGrantedTo, eq]
  have same : tstateOf { x with missWaiters := rest, missWait := n, missGranted := x.missGranted ++ [t] } t = tstateOf x t := rfl
  have frame : CellFrame x { x with missWaiters := rest, missWait := n, missGranted := x.missGranted ++ [t] } [] 0 0 :=
    .of_eq rfl rfl rfl rfl rfl rfl rfl rfl rfl rfl rfl
  dsimp only
  rw [same]
  split
  case isTrue => exact ⟨rfl, rfl, fun _ => tstateOf_setTState .., frame.trans (.setTState ..)⟩
  case isFalse waits => exact ⟨rfl, rfl, fun full => absurd full waits, frame⟩

theorem missRegisterGrant_grants {s : State} {c t : Nat} {rest : List Nat} (ok : cellOk c = true) (live : cellLive s c = true)
    (waits : (getCell s c).missWaiters = t :: rest) (room : missUsed (getCell s c) < 48) :
    exec (.missRegisterGrant c) s = .next (setCell (draw s) c (missGrantedTo s.free (getCell s c) t rest)) := by
  change onUnit _ _ = _
  simp only [ok, onUnit_true, waits, live, Nat.not_le.mpr room, Bool.not_true, Bool.false_eq_true, or_false, if_false]
  rfl

/-- The cell in which a fence of thread t with a stamp is over (R89). -/
def fenceEnded (x : Cell) (t st : Nat) : Cell :=
  setWaits (setTState { x with ctl := x.ctl.map (fun e => if e.stamp = st then { e with relDone := true } else e) } t .ready) t .none

theorem fenceComplete_ends {s : State} {c t st : Nat} {b : Bool} (ok : cellOk c = true) (thread : threadOk t = true) (live : cellLive s c = true)
    (fenceIsOver : fenceOver (getCell s c) t = true) (waits : waitsOf (getCell s c) t = .fence b st) :
    exec (.fenceComplete c t) s = .next (setCell s c (fenceEnded (getCell s c) t st)) := by
  change onUnit _ _ = _
  simp only [ok, thread, Bool.and_self, onUnit_true, live, fenceIsOver, waits, Bool.not_true, Bool.false_eq_true, or_self, if_false]
  rfl

section
variable {s v : State} {c : Nat} {a : AllocReq} {r : Word} (ok : cellOk c = true) (live : cellLive s c = true)
include ok live

theorem exec_allocatorAnswer (found : (getCell s c).allocs.find? (fun a => !a.waiting) = some a) (done : performAlloc s c a = .done v r) :
    exec (.allocatorAnswer c) s = .next (answered v c a r) := by
  change onUnit _ _ = _
  simp only [ok, onUnit_true, found, live, if_true, serveAlloc, done]

theorem exec_stashFrameRetry (found : (getCell s c).allocs.find? (fun a => a.waiting && !a.forStore) = some a)
    (done : performAlloc s c a = .done v r) : exec (.stashFrameRetry c) s = .next (noteStuck (answered v c a r) (getCell s c).ctx) := by
  change onUnit _ _ = _
  simp only [ok, onUnit_true, found, live, if_true, serveAlloc, done]

end

/-- The cell that has reported: its streams are stopped and thread 0 has halted (R81). -/
def reportedCell (x : Cell) : Cell := { setWaits (setTState (stopStreams x) 0 .halted) 0 .none with reported := true, mode := 0 }

theorem reportedCell_spec (x : Cell) :
    (reportedCell x).reported = true ∧ tstateOf (reportedCell x) 0 = .halted ∧ waitsOf (reportedCell x) 0 = .none := by
  rw [reportedCell]
  generalize stopStreams x = y
  exact ⟨rfl, tstateOf_setTState y 0 .halted, waitsOf_setWaits (setTState y 0 .halted) 0 .none⟩

theorem getCell_modItem (s : State) (j i c : Nat) (f : Item → Item) : getCell (modItem s j i f) c = getCell s c := rfl

theorem getCell_bedReported (j i c : Nat) (s : State) : getCell (bedReported j i s) c = getCell s c := by
  rw [bedReported]
  split
  · split <;> rfl
  · rfl

theorem getCell_reportCell (s : State) (c : Nat) : getCell (reportCell s c) c = reportedCell (getCell s c) := by
  have here : getCell (modCell s c reportedCell) c = reportedCell (getCell s c) := getCell_setCell ..
  rw [reportCell]
  split
  · exact here
  · rw [getCell_bedReported, getCell_modItem]
    exact here

theorem exec_cellReport {s : State} {c : Nat} (ok : cellOk c = true) (live : cellLive s c = true) (done : drained (getCell s c) = true) :
    exec (.cellReport c) s = .next (reportCell s c) := by
  change onUnit _ _ = _
  simp only [ok, onUnit_true, live, done, and_self, if_true]

theorem cellWaitsEnd : CellWaitsEnd := by
  intro s c ok live x
  refine ⟨fun t rest waits room => ?_, fun t b st thread fenceIsOver waits => ?_, fun a v r found done => exec_allocatorAnswer ok live found done,
    fun a v r found done => exec_stashFrameRetry ok live found done, fun done => ?_⟩
  · obtain ⟨waiters, granted, ready, frame⟩ := missGrantedTo_spec s.free x t rest
    refine ⟨_, missRegisterGrant_grants ok live waits room, ?_⟩
    rw [getCell_setCell]
    exact ⟨waiters, granted, ready, storeFrame_draw_setCell frame⟩
  · refine ⟨_, fenceComplete_ends ok thread live fenceIsOver waits, ?_⟩
    rw [getCell_setCell]
    refine ⟨tstateOf_setTState { x with ctl := x.ctl.map (fun e => if e.stamp = st then { e with relDone := true } else e) } t .ready,
      waitsOf_setWaits .., rfl, storeFrame_setCell_self ?_⟩
    exact .of_eq rfl rfl rfl rfl rfl rfl rfl rfl rfl rfl rfl
  · refine ⟨_, exec_cellReport ok live done, ?_⟩
    rw [getCell_reportCell]
    exact reportedCell_spec x

/-! ### The matrix unit -/

@[simp] theorem accTile_length (free : Nat) (x : Cell) (a : Nat) : (accTile free x a).length = 1024 := by simp [accTile]

@[simp] theorem landTile_length (run : MatRun) (k : Nat) (tile : List F32) : (landTile run k tile).length = tile.length := by simp [landTile]

/-- The elements of an accumulator tile that has been written. -/
theorem mget_setAcc (x : Cell) (a : Nat) {l : List F32} {i : Nat} (h : i < l.length) : mget 0 (setAcc x a l).acc (1024 * a + i) = l.getD i 0 := by
  have element := mget_setAccFrom a x.acc 0 i l h
  rw [Nat.zero_add] at element
  exact element

/-- What a chunk of the oldest run that lands leaves (R116). -/
theorem landChunk_spec {x : Cell} {run : MatRun} {rest : List MatRun} (free : Nat) (runs : x.runs = run :: rest) :
    (landChunk free x).runs = (if run.chunk + 1 = landings run.word then rest else { run with chunk := run.chunk + 1 } :: rest) ∧
      (∀ i, i < 1024 → mget 0 (landChunk free x).acc (1024 * xAcc run.word + i) = (landTile run run.chunk (accTile free x (xAcc run.word))).getD i 0) ∧
      CellFrame x (landChunk free x) [resAcc (xAcc run.word)] 0 0 := by
  have length : (landTile run run.chunk (accTile free x (xAcc run.word))).length = 1024 := by simp
  have lands : landChunk free x = { setAcc x (xAcc run.word) (landTile run run.chunk (accTile free x (xAcc run.word))) with
      runs := if run.chunk + 1 = landings run.word then rest else { run with chunk := run.chunk + 1 } :: rest } := by
    simp only [landChunk, runs]
  rw [lands]
  generalize landTile run run.chunk (accTile free x (xAcc run.word)) = l at length
  have frame : CellFrame x (setAcc x (xAcc run.word) l) [resAcc (xAcc run.word)] 0 0 := .setAcc x _ l (Nat.le_of_eq length) (List.mem_singleton_self _)
  refine ⟨rfl, fun i hi => mget_setAcc x _ (by rw [length]; exact hi), frame.trans ?_⟩
  exact .of_eq rfl rfl rfl rfl rfl rfl rfl rfl rfl rfl rfl

theorem exec_anvilChunkLand {s : State} {c : Nat} {run : MatRun} {rest : List MatRun} (ok : cellOk c = true) (live : cellLive s c = true)
    (runs : (getCell s c).runs = run :: rest) : exec (.anvilChunkLand c) s = .next (draw (setCell s c (landChunk s.free (getCell s c)))) := by
  change onUnit _ _ = _
  simp only [ok, onUnit_true, live, runs, List.isEmpty_cons, if_true, Bool.false_eq_true, if_false, modCell_eq]

theorem exec_quenchReadStart {s : State} {c : Nat} {q : QuenchRun} (ok : cellOk c = true) (live : cellLive s c = true)
    (quench : (getCell s c).quench = some q) (idle : q.started = false) (landed : runsInto (getCell s c) (qAcc q.word) = false) :
    exec (.quenchReadStart c) s = .next (draw (setCell s c { getCell s c with
      quench := some { q with started := true, value := accTile s.free (getCell s c) (qAcc q.word) } })) := by
  change onUnit _ _ = _
  simp only [ok, onUnit_true, live, quench, idle, landed, Bool.not_true, Bool.false_eq_true, or_self, if_false]

theorem exec_quenchReadDone {s : State} {c : Nat} {q : QuenchRun} (ok : cellOk c = true) (live : cellLive s c = true)
    (quench : (getCell s c).quench = some q) (started : q.started = true) (ready : quenchWaits s c q = false) :
    exec (.quenchReadDone c) s =
      .next (quenchWrite (modCell s c (fun y => { quenchAfter y q with quench := none })) c q (quenchBytes s (getCell s c) q)) := by
  change onUnit _ _ = _
  simp only [ok, onUnit_true, live, quench, started, ready, Bool.not_true, Bool.false_eq_true, or_self, if_false]

/-! ### Streams and operands -/

theorem exec_bellowsRequest {s : State} {c : Nat} {w : Want} (ok : cellOk c = true) (live : cellLive s c = true) (room : (getCell s c).bellows.length < 96)
    (want : (demandWant (getCell s c)).or (aheadWant (getCell s c)) = some w) : exec (.bellowsRequest c) s = .next (bellowsFetch s c w) := by
  change onUnit _ _ = _
  simp only [ok, onUnit_true, live, Nat.not_le.mpr room, want, Bool.not_true, Bool.false_eq_true, or_self, if_false]

theorem exec_bellowsDataReturn {s : State} {c id : Nat} {r : BellowsReq} (ok : cellOk c = true)
    (found : (getCell s c).bellows.find? (fun r => decide (r.id = id)) = some r) (come : r.remote = false ∨ r.arrived = true) :
    exec (.bellowsDataReturn c id) s = .next (setCell s c (arriveData (getCell s c) r)) := by
  have here : ¬ (r.remote = true ∧ (!r.arrived) = true) := by rcases come with h | h <;> simp [h]
  change onUnit _ _ = _
  simp only [ok, onUnit_true, found, if_neg here, modCell_eq]

/-- The cell that holds an operand which has come for an MMA. -/
def operandHeld (x : Cell) (e : Entry) (b : Bool) (f : Flight) : Cell :=
  holdOperand { x with flights := x.flights.filter (fun g => decide (g.stamp ≠ f.stamp ∨ g.kind ≠ f.kind)) } e b f.data

theorem exec_tongsOperandArrival {s : State} {c : Nat} {b : Bool} {e : Entry} {f : Flight} (ok : cellOk c = true) (live : cellLive s c = true)
    (entry : tongsEntry (getCell s c) = some e) (wants : (if b then e.opB else e.opA) = none)
    (found : (getCell s c).flights.find? (fun f => decide (f.stamp = e.stamp ∧ f.kind = opKind b)) = some f) (arrived : f.arrived = true) :
    exec (.tongsOperandArrival c b) s = .next (setCell s c (operandHeld (getCell s c) e b f)) := by
  change onUnit _ _ = _
  simp only [ok, onUnit_true, entry, live, wants, found, arrived, Option.isSome_none, Bool.not_true, Bool.false_eq_true, or_self, if_false, if_true,
    modCell_eq]
  rfl

theorem cellEnginesGoOn : CellEnginesGoOn := by
  intro s c ok live x
  refine ⟨fun w room want => exec_bellowsRequest ok live room want, fun id r found come => exec_bellowsDataReturn ok found come, fun run rest runs => ?_,
    fun b e f entry wants found arrived => exec_tongsOperandArrival ok live entry wants found arrived, fun q quench idle landed => ?_,
    fun q quench started ready => exec_quenchReadDone ok live quench started ready⟩
  · obtain ⟨left, tile, frame⟩ := landChunk_spec s.free runs
    refine ⟨_, exec_anvilChunkLand ok live runs, ?_, ?_, storeFrame_draw_setCell frame⟩
    · rw [← left]
      exact congrArg Cell.runs (getCell_setCell ..)
    · intro i hi
      rw [← tile i hi]
      exact congrArg (fun y => mget 0 y.acc _) (getCell_setCell ..)
  · refine ⟨_, exec_quenchReadStart ok live quench idle landed, congrArg Cell.quench (getCell_setCell ..), storeFrame_draw_setCell ?_⟩
    exact .of_eq rfl rfl rfl rfl rfl rfl rfl rfl rfl rfl rfl

/-! ### Answers of the allocators -/

/-- An answer stands in sD and its request is gone (R80). -/
theorem answered_spec (v : State) (c : Nat) (a : AllocReq) (r : Word) :
    (getCell (answered v c a r) c).allocs = (getCell v c).allocs.filter (fun q => decide (q.stamp ≠ a.stamp)) ∧
      ∀ n, sReg n (getCell (answered v c a r) c) a.thread a.dest = if a.dest = 0 then 0 else r := by
  have cell : getCell (answered v c a r) c =
      setS { getCell v c with allocs := (getCell v c).allocs.filter (fun q => decide (q.stamp ≠ a.stamp)) } a.thread a.dest r := getCell_setCell ..
  rw [cell]
  refine ⟨?_, fun n => sReg_setS n _ a.thread a.dest r⟩
  obtain ⟨_, _, eq⟩ := setS_frame { getCell v c with allocs := (getCell v c).allocs.filter (fun q => decide (q.stamp ≠ a.stamp)) } a.thread a.dest r
  rw [eq]

theorem getCell_noteStuck (s : State) (j c : Nat) : getCell (noteStuck s j) c = getCell s c := rfl

/-- An item that a job has, changed (R170). -/
theorem mfind_modItem {s : State} {j i : Nat} {it : Item} (f : Item → Item) (has : mfind (getJob s j).items i = some it) :
    mfind (getJob (modItem s j i f) j).items i = some (f it) := by
  simp [modItem, has, mfind_mput_same]

theorem mfind_mdel_same {α : Type} (k : Nat) (m : List (Nat × α)) : mfind (mdel k m) k = none := by
  induction m with
  | nil => rfl
  | cons e rest ih =>
    by_cases h : e.1 = k
    · simpa [mdel, h] using ih
    · simpa [mdel, mfind, h] using ih

/-- FREE.TMP of a scratch allocation that stands: it is gone (R80). -/
theorem freeTmp_frees {s : State} {c i n : Nat} {a : Word} {it : Item} (item : (getCell s c).item = some i)
    (has : mfind (getJob s (getCell s c).ctx).items i = some it) (stands : mfind it.scratch a.toNat = some n) :
    ∃ v r m, freeTmp s c a = .done v r ∧ mfind (getJob v (getCell s c).ctx).items i = some m ∧ mfind m.scratch a.toNat = none := by
  have freed : ∀ vpns l, mfind (getJob (releaseFrames (invalidate (draw s) (getCell s c).ctx (dieOfCell c) vpns) l) (getCell s c).ctx).items i = some it :=
    fun vpns l => by rw [((invalidate_frame (draw s) ..).trans (releaseFrames_frame ..)).items]; exact has
  simp only [freeTmp, item, Option.bind_some, has, stands]
  exact ⟨_, _, _, rfl, mfind_modItem _ (freed ..), mfind_mdel_same ..⟩

/-! ### Operands and units that data reaches -/

/-- An entry that replaces those with its stamp is found where the one that it replaces was. -/
theorem find?_replace {p : Entry → Bool} {e g : Entry} (l : List Entry) (found : l.find? p = some e) (stamp : g.stamp = e.stamp) (holds : p g = true) :
    (l.map (fun f => if f.stamp = g.stamp then g else f)).find? p = some g := by
  induction l with
  | nil => cases found
  | cons f rest ih =>
    by_cases same : f.stamp = g.stamp
    · simp [same, holds]
    · by_cases here : p f = true
      · rw [List.find?_cons_of_pos here] at found
        exact absurd (Option.some.inj found ▸ stamp.symm) same
      · rw [List.find?_cons_of_neg here] at found
        simp [same, here, ih found]

/-- The entry with an operand that has come. -/
def heldEntry (e : Entry) (b : Bool) (l : List Byte) : Entry := if b then { e with opB := some l } else { e with opA := some l }

theorem heldEntry_spec (e : Entry) (b : Bool) (l : List Byte) :
    (heldEntry e b l).word = e.word ∧ (heldEntry e b l).stamp = e.stamp ∧ (if b then (heldEntry e b l).opB else (heldEntry e b l).opA) = some l := by
  cases b <;> exact ⟨rfl, rfl, rfl⟩

/-- The operand that has come is held by the entry that waits for it, and its flight is gone (R110). -/
theorem operandHeld_spec {x : Cell} {e : Entry} (b : Bool) (f : Flight) (entry : tongsEntry x = some e) :
    ∃ g, tongsEntry (operandHeld x e b f) = some g ∧ g.stamp = e.stamp ∧ (if b then g.opB else g.opA) = some f.data ∧
      ∀ h ∈ (operandHeld x e b f).flights, h.stamp ≠ f.stamp ∨ h.kind ≠ f.kind := by
  have isMma : wClass e.word = 0xC := of_decide_eq_true (List.find?_some entry :)
  have queue : queueOf e.word = .mat := by simp [queueOf, isMma]
  obtain ⟨word, stamp, holds⟩ := heldEntry_spec e b f.data
  have held : operandHeld x e b f = { x with
      flights := x.flights.filter (fun g => decide (g.stamp ≠ f.stamp ∨ g.kind ≠ f.kind))
      mat := x.mat.map (fun g => if g.stamp = (heldEntry e b f.data).stamp then heldEntry e b f.data else g) } := by
    rw [operandHeld, holdOperand, ← heldEntry, putEntry, word, queue]
    rfl
  rw [held]
  exact ⟨_, find?_replace x.mat entry stamp (by simp [word, isMma]), stamp, holds, fun h hh => of_decide_eq_true (List.mem_filter.mp hh).2⟩

/-- A unit changed in anything but its number is found by its number. -/
theorem find?_unit {k : Nat} {f : SUnit → SUnit} (keeps : ∀ u, (f u).k = u.k) {y : SUnit} (l : List SUnit)
    (found : l.find? (fun u => decide (u.k = k)) = some y) :
    (l.map (fun u => if u.k = k then f u else u)).find? (fun u => decide (u.k = k)) = some (f y) := by
  induction l with
  | nil => cases found
  | cons u rest ih =>
    by_cases here : u.k = k
    · rw [List.find?_cons_of_pos (by simpa using here)] at found
      simp [here, keeps, ← Option.some.inj found]
    · rw [List.find?_cons_of_neg (by simpa using here)] at found
      simp [here, ih found]

/-- The data of a request stands in its unit, and the request is gone (R202). -/
theorem arriveData_spec {x : Cell} {r : BellowsReq} {y : SUnit} (runs : (getSlot x r.q).state = .running) (gen : (getSlot x r.q).gen = r.gen)
    (found : (getSlot x r.q).units.find? (fun u => decide (u.k = r.k)) = some y) :
    (arriveData x r).bellows = x.bellows.filter (fun b => decide (b.id ≠ r.id)) ∧
      (getSlot (arriveData x r) r.q).units.find? (fun u => decide (u.k = r.k)) =
        some { y with got := r.parts.foldl (fun g p => localPut g p.1 p.2) y.got, poisoned := y.poisoned || r.bad } := by
  have slot : getSlot { x with bellows := x.bellows.filter (fun b => decide (b.id ≠ r.id)) } r.q = getSlot x r.q := rfl
  have unit : ∀ z : Cell, getSlot z r.q = getSlot x r.q → ∀ f : SUnit → SUnit, (∀ u, (f u).k = u.k) →
      (getSlot (modUnit z r.q r.k f) r.q).units.find? (fun u => decide (u.k = r.k)) = some (f y) := by
    intro z same f keeps
    rw [modUnit, getSlot_setSlot, same]
    exact find?_unit keeps _ found
  simp only [arriveData, slot, runs, gen, found, ne_eq, not_true_eq_false, or_self, if_false]
  split
  · exact ⟨rfl, unit _ slot _ fun _ => rfl⟩
  · exact ⟨rfl, unit _ slot _ fun _ => rfl⟩

/-! ### Requests of Bellows -/

/-- What Bellows wants for a claim is a demand (R194). -/
theorem demandWant_demand {x : Cell} {w : Want} (h : demandWant x = some w) : w.demand = true := by
  obtain ⟨cl, -, units⟩ := List.exists_of_findSome?_eq_some h
  obtain ⟨k, -, want⟩ := List.exists_of_findSome?_eq_some units
  dsimp only at want
  split at want
  · cases want
  · cases want
    rfl

theorem openUnit_desc (s : Slot) (k : Nat) : (openUnit s k).desc = s.desc := by
  rw [openUnit]
  split <;> rfl

/-- The checks of an access look at no cell. -/
theorem checkAccess_setCell (s : State) (c : Nat) (x : Cell) (jb : Job) (item : Option Nat) (d : Nat) (k : Acc) (rs : List (Nat × Nat)) :
    checkAccess (setCell s c x) jb item d k rs = checkAccess s jb item d k rs := rfl

/-- A request for a piece of this package stands in flight with the bytes of memory (R194). -/
theorem sendWant_device (s : State) (c : Nat) (w : Want) (p : Nat × Option Nat) (offs : List Nat) (va n a : Nat) :
    ∃ r, (getCell (sendWant s c w p offs [⟨va, n, .phys a⟩] false) c).bellows = (getCell s c).bellows ++ [r] ∧ r.q = w.q ∧ r.k = w.k ∧ r.offs = offs ∧
      r.remote = false ∧ r.bad = false ∧ r.parts = offs.map (fun o => (o, physRead s (a + (offAddr p o - va)) (offLen o))) := by
  have here : hasFabric [⟨va, n, .phys a⟩] = false := rfl
  unfold sendWant
  simp only [here, Bool.false_eq_true, if_false]
  rw [getCell_setCell]
  exact ⟨_, rfl, rfl, rfl, rfl, rfl, rfl, rfl⟩

/-- A touched state holds the same bytes. -/
theorem TouchFrame.physRead {s u : State} (h : TouchFrame s u) (a n : Nat) : physRead u a n = physRead s a n := by
  obtain ⟨_, _, _, _, rfl⟩ := h.only
  rfl

theorem TouchFrame.bellows {s u : State} (h : TouchFrame s u) (c : Nat) : (getCell u c).bellows = (getCell s c).bellows := by
  obtain ⟨_, eq⟩ := h.cells c
  rw [eq]

/-- The cell in which Bellows has begun the unit that it wants. -/
def unitOpened (x : Cell) (w : Want) : Cell :=
  { setSlot x w.q (openUnit (getSlot x w.q) w.k) with bellowsPtr := if w.demand then x.bellowsPtr else (w.q + 1) % 16 }

/-- What Bellows wants on demand is requested, if its checks pass (R201). -/
theorem bellowsFetch_demand {s : State} {c va n : Nat} {w : Want} {p : Nat × Option Nat} {ps : List Piece} (demand : w.demand = true)
    (unit : unitIn (getSlot (getCell s c) w.q).desc w.k = some p) (first : offAddr p ((oneRequest p w.offs).headD 0) = va)
    (len : ((oneRequest p w.offs).map offLen).sum = n)
    (ok : checkAccess s (getJob s (getCell s c).ctx) (getCell s c).item (dieOfCell c) .rd [(va, n)] = .ok ps) :
    bellowsFetch s c w = sendWant (touchRanges (meetPieces (setCell s c (unitOpened (getCell s c) w)) ps) (some c) (getCell s c).ctx (getCell s c).item
      (dieOfCell c) [(va, n)]) c w p (oneRequest p w.offs) ps false := by
  have passes : checkAccess (setCell s c (unitOpened (getCell s c) w)) (getJob (setCell s c (unitOpened (getCell s c) w)) (getCell s c).ctx)
      (getCell s c).item (dieOfCell c) .rd [(va, n)] = .ok ps := ok
  simp only [bellowsFetch, openUnit_desc, unit, if_pos demand, first, len]
  rw [unitOpened, if_pos demand] at passes ⊢
  simp only [passes]

/-- The request that Bellows makes of this package (R194, R196). -/
theorem bellowsFetch_device {s : State} {c va n a : Nat} {w : Want} {p : Nat × Option Nat} (demand : w.demand = true)
    (unit : unitIn (getSlot (getCell s c) w.q).desc w.k = some p) (sound : s.upsets = []) (first : offAddr p ((oneRequest p w.offs).headD 0) = va)
    (len : ((oneRequest p w.offs).map offLen).sum = n)
    (ok : checkAccess s (getJob s (getCell s c).ctx) (getCell s c).item (dieOfCell c) .rd [(va, n)] = .ok [⟨va, n, .phys a⟩]) :
    ∃ r, (getCell (bellowsFetch s c w) c).bellows = (getCell s c).bellows ++ [r] ∧ r.q = w.q ∧ r.k = w.k ∧ r.offs = oneRequest p w.offs ∧
      r.remote = false ∧ r.bad = false ∧
      r.parts = (oneRequest p w.offs).map (fun o => (o, physRead s (a + (offAddr p o - va)) (offLen o))) := by
  have opened : (getCell (setCell s c (unitOpened (getCell s c) w)) c).bellows = (getCell s c).bellows := by
    rw [getCell_setCell]
    rfl
  have touch := touchFrame_touchRanges (setCell s c (unitOpened (getCell s c) w)) (some c) (getCell s c).ctx (getCell s c).item (dieOfCell c) [(va, n)]
  have same : ∀ b k, physRead (setCell s c (unitOpened (getCell s c) w)) b k = physRead s b k := fun _ _ => rfl
  rw [bellowsFetch_demand demand unit first len ok, meetPieces_of_sound _ (by exact sound)]
  obtain ⟨r, stands, q, k, offs, remote, bad, parts⟩ := sendWant_device (touchRanges (setCell s c (unitOpened (getCell s c) w)) (some c)
    (getCell s c).ctx (getCell s c).item (dieOfCell c) [(va, n)]) c w p (oneRequest p w.offs) va n a
  refine ⟨r, by rw [stands, touch.bellows, opened], q, k, offs, remote, bad, ?_⟩
  simp only [parts, touch.physRead, same]

theorem cellEventsComplete : CellEventsComplete := by
  intro s c ok live x answers
  refine ⟨fun a v r found _ _ done => ⟨_, exec_allocatorAnswer ok live found done, answered_spec v c a r⟩, fun a v r found _ _ done => ?_,
    fun a i it n found kind performed item has stands => ?_, fun w p a room want unit sound => ?_,
    fun id r y found here slot runs gen unit => ?_, fun b e f entry wants found arrived => ?_⟩
  · refine ⟨_, exec_stashFrameRetry ok live found done, ?_⟩
    rw [getCell_noteStuck]
    exact answered_spec v c a r
  · obtain ⟨v, r, m, freed, stays, gone⟩ := freeTmp_frees item has stands
    have done : performAlloc s c a = .done v r := by
      rw [performAlloc, if_neg (by simp [kind]), if_neg (by simp [kind]), if_neg (by rw [performed]; exact Bool.false_ne_true), freed]
    refine ⟨_, exec_allocatorAnswer ok live found done, fun q hq => ?_, m, stays, gone⟩
    rw [(answered_spec v c a r).1] at hq
    exact of_decide_eq_true (List.mem_filter.mp hq).2
  · intro offs va n passes
    obtain ⟨r, request⟩ := bellowsFetch_device (demandWant_demand want) unit sound rfl rfl passes
    exact ⟨_, r, exec_bellowsRequest ok live room (by rw [show demandWant (getCell s c) = some w from want]; rfl), request⟩
  · have numbered : r.id = id := of_decide_eq_true (List.find?_some found :)
    obtain ⟨left, stands⟩ := arriveData_spec runs gen unit
    refine ⟨_, { y with got := r.parts.foldl (fun g p => localPut g p.1 p.2) y.got, poisoned := y.poisoned || r.bad },
      exec_bellowsDataReturn ok found (.inl here), ?_, ?_, rfl, rfl⟩
    · rw [getCell_setCell, left, numbered]
    · rw [getCell_setCell, stands]
  · obtain ⟨g, stands, stamp, holds, gone⟩ := operandHeld_spec b f entry
    refine ⟨_, g, exec_tongsOperandArrival ok live entry wants found arrived, ?_, stamp, holds, ?_⟩
    · rw [getCell_setCell]
      exact stands
    · rw [getCell_setCell]
      exact gone

/-- Settles O31. -/
theorem cellsGoOn : Obligations.CellsGoOn := ⟨cellWaitsEnd, cellEnginesGoOn, cellEventsComplete⟩

end Sys2Proof.Machine
end

section
/-!
PROOF. The matrix unit's instructions begin and complete (O21).
-/
namespace Sys2Proof.Machine
open Sys2Proof.Claim

/-! ### Instructions begin -/

section
variable {s : State} {c t op : Nat} {f : XFields} {e : Entry} {l : List (List Byte × List Byte)} (hop : op < 256)
  (h : Issues s c t (encX 0xC op f) e) (got : claimsGot (getCell (issued s c e) c) (e.claims.getD []) = .inl l)

/-- The run that an MMA begins with the registers and the operands' bytes at issue (R100, R113). -/
def mmaRun (x : Cell) (free t : Nat) (f : XFields) (e : Entry) (l : List (List Byte × List Byte)) : MatRun where
  stamp := e.stamp
  word := e.word
  scaleC := (sReg free x t f.c.toNat >>> 32).setWidth 32
  rows := if xMsk e.word = 1 then (sReg free x t f.c.toNat).setWidth 32 else BitVec.allOnes 32
  bytesA := (operandBytes e.word e l).1
  bytesB := (operandBytes e.word e l).2
  chunk := 0

include hop h got

theorem startMma_begins (active : suppressed s.free (getCell (issued s c e) c) t e.word = false) :
    startMma s.free (issued s c e) c e = setCell (issued s c e) c (assignClaims (settleSlots { getCell (issued s c e) c with
      runs := (getCell (issued s c e) c).runs ++ [mmaRun (getCell (issued s c e) c) s.free t f e l] })) := by
  obtain ⟨-, -, -, -, -, hC, -⟩ := encX_fields (by decide : 0xC < 16) hop f
  rw [← issues_word h] at hC
  rw [startMma, takeClaims_taken _ got]
  simp only [issues_thread h, active, Bool.false_eq_true, if_false, hC]
  rfl

theorem startMma_suppressed (idle : suppressed s.free (getCell (issued s c e) c) t e.word = true) :
    startMma s.free (issued s c e) c e = setCell (issued s c e) c (assignClaims (settleSlots
      (if op = 1 then setAcc (getCell (issued s c e) c) f.acc.toNat (List.replicate 1024 0) else getCell (issued s c e) c))) := by
  obtain ⟨-, hO, hacc, -⟩ := encX_fields (by decide : 0xC < 16) hop f
  rw [← issues_word h] at hO hacc
  rw [startMma, takeClaims_taken _ got]
  simp only [issues_thread h, idle, if_true, hO, hacc]

end

/-- The Quench that an instruction begins with the registers at issue (R118). -/
def quenchRun (x : Cell) (free t op : Nat) (f : QFields) (e : Entry) : QuenchRun where
  stamp := e.stamp
  thread := t
  pc := e.pc
  word := encQ 0xD op f
  addrA := sReg free x t f.a.toNat
  addrA1 := if isSb f.fmt.toNat then sReg free x t (f.a.toNat + 1) else 0
  scale := (sReg free x t f.b.toNat).setWidth 32
  regC := if f.rnd.toNat = 2 then sReg free x t f.c.toNat else 0
  stream := streamOf x t
  preload := if op = 2 then preValue free x f.pre.toNat else []
  started := false
  value := []

theorem startQuench_begins {s : State} {c t op : Nat} {f : QFields} {e : Entry} (hop : op < 256) (h : Issues s c t (encQ 0xD op f) e)
    (aligned : (misaligned 64 (((quenchFoot (quenchRun (getCell (issued s c e) c) s.free t op f e)).flatMap (·.ranges)).take 1)).or
      (misaligned 16 (((quenchFoot (quenchRun (getCell (issued s c e) c) s.free t op f e)).flatMap (·.ranges)).drop 1)) = none) :
    startQuench s.free (issued s c e) c e =
      setCell (issued s c e) c { getCell (issued s c e) c with quench := some (quenchRun (getCell (issued s c e) c) s.free t op f e) } := by
  obtain ⟨-, hO, -, hA, hB, hC, hfmt, -, hrnd, -, hpre⟩ := encQ_fields (by decide : 0xD < 16) hop f
  simp only [startQuench, issues_word h, issues_thread h, hO, hA, hB, hC, hfmt, hrnd, hpre]
  simp only [quenchRun] at aligned ⊢
  simp only [aligned]

theorem quench_begins {s : State} {c t op : Nat} {f : QFields} {e : Entry} {o : Out} (hop : op < 256) (h : Issues s c t (encQ 0xD op f) e)
    (next : o = .next (startQuench s.free (issued s c e) c e)) :
    let x := getCell (issued s c e) c
    ∃ q : QuenchRun, q.stamp = e.stamp ∧ q.thread = t ∧ q.word = encQ 0xD op f ∧ q.started = false ∧ q.addrA = sReg s.free x t f.a.toNat ∧
      q.scale = (sReg s.free x t f.b.toNat).setWidth 32 ∧ q.preload = (if op = 2 then preValue s.free x f.pre.toNat else []) ∧
      (let rs := (quenchFoot q).flatMap (·.ranges)
       (misaligned 64 (rs.take 1)).or (misaligned 16 (rs.drop 1)) = none → o = .next (setCell (issued s c e) c { x with quench := some q })) :=
  ⟨quenchRun (getCell (issued s c e) c) s.free t op f e, rfl, rfl, rfl, rfl, rfl, rfl, rfl, fun aligned =>
    next.trans (congrArg _ (startQuench_begins hop h aligned))⟩

theorem matrixInstructionsBegin : MatrixInstructionsBegin := by
  intro s c t e v x
  refine ⟨fun f l got => ⟨fun h active => ?_, fun h active => ?_, fun h idle => ?_, fun h idle => ?_⟩,
    fun f => ⟨fun h => ?_, fun h => ?_, fun h => ?_, fun h => ?_, fun h => ?_⟩⟩
  · refine (onThread_issue h fun u e => startMma s.free u c e).trans (congrArg _ ?_)
    exact startMma_begins (by decide) h got active
  · refine (onThread_issue h fun u e => startMma s.free u c e).trans (congrArg _ ?_)
    exact startMma_begins (by decide) h got active
  · refine (onThread_issue h fun u e => startMma s.free u c e).trans (congrArg _ ?_)
    rw [startMma_suppressed (op := 0x00) (by decide) h got idle, if_neg (by decide)]
  · refine (onThread_issue h fun u e => startMma s.free u c e).trans (congrArg _ ?_)
    rw [startMma_suppressed (op := 0x01) (by decide) h got idle, if_pos rfl]
  · exact onThread_issue h fun u _ => modCell u c (fun x => setAcc x f.acc.toNat (List.replicate 1024 0))
  · refine (onThread_issue h fun u _ => modCell u c (fun y => setAcc y f.acc.toNat (preValue s.free y f.pre.toNat))).trans (congrArg _ ?_)
    rw [modCell_eq, modCell_eq]
  · exact quench_begins (op := 0x00) (by decide) h (onThread_issue h fun u e => startQuench s.free u c e)
  · exact quench_begins (op := 0x01) (by decide) h (onThread_issue h fun u e => startQuench s.free u c e)
  · exact quench_begins (op := 0x02) (by decide) h (onThread_issue h fun u e => startQuench s.free u c e)

end Sys2Proof.Machine
end

section
/-!
PROOF. Products land one chunk after the other, and a Quench reads and writes (O21).
-/
namespace Sys2Proof.Machine
open Sys2Proof.Claim

/-! ### Claims change slots and queues only -/

/-- Of a cell only the slots and the issue queues differ. -/
def ClaimFrame (x y : Cell) : Prop := ∃ slots ctl vec mat, y = { x with slots := slots, ctl := ctl, vec := vec, mat := mat }

theorem ClaimFrame.refl (x : Cell) : ClaimFrame x x := ⟨_, _, _, _, rfl⟩

theorem ClaimFrame.trans {x y z : Cell} (h : ClaimFrame x y) (h' : ClaimFrame y z) : ClaimFrame x z := by
  obtain ⟨_, _, _, _, rfl⟩ := h
  obtain ⟨_, _, _, _, rfl⟩ := h'
  exact ⟨_, _, _, _, rfl⟩

theorem claimFrame_putEntry (x : Cell) (e : Entry) : ClaimFrame x (putEntry x e) := by
  obtain ⟨_, _, _, eq⟩ := setIQ_frame x (queueOf e.word) ((getIQ x (queueOf e.word)).map (fun f => if f.stamp = e.stamp then e else f))
  exact ⟨_, _, _, _, eq⟩

theorem claimFrame_claimOne (x : Cell) (k : Take) : ClaimFrame x (claimOne x k).1 := by
  unfold claimOne
  dsimp only
  split
  · exact .refl x
  · split
    · split
      · exact ⟨_, _, _, _, rfl⟩
      · exact .refl x
    · split
      · exact ⟨_, _, _, _, rfl⟩
      · exact .refl x

theorem claimFrame_claimAll (x : Cell) (ks : List Take) : ClaimFrame x (claimAll x ks).1 := by
  induction ks generalizing x with
  | nil => exact .refl x
  | cons k rest ih => exact (claimFrame_claimOne x k).trans (ih _)

theorem claimFrame_assignFrom (x : Cell) (barred : List Nat) (l : List Entry) : ClaimFrame x (assignFrom x barred l) := by
  induction l generalizing x barred with
  | nil => exact .refl x
  | cons e rest ih =>
    rw [assignFrom]
    split
    · exact ih ..
    · split
      · exact ih ..
      · exact ((claimFrame_claimAll x _).trans (claimFrame_putEntry ..)).trans (ih ..)

theorem claimFrame_settleSlot (x : Cell) (q : Nat) : ClaimFrame x (settleSlot x q) := by
  rw [settleSlot]
  split
  · exact .refl x
  · dsimp only
    split
    · exact ⟨_, _, _, _, rfl⟩
    · exact ⟨_, _, _, _, rfl⟩

/-- When an instruction has taken its claims, streams go on (R198). -/
theorem claimFrame_settled (x : Cell) : ClaimFrame x (assignClaims (settleSlots x)) :=
  ClaimFrame.trans (List.foldlRecOn _ _ (.refl x) fun y h q _ => h.trans (claimFrame_settleSlot y q)) (claimFrame_assignFrom ..)

/-! ### Accumulator tiles -/

/-- A tile that has been written reads as it was written. -/
theorem accTile_setAcc (free : Nat) (x : Cell) (a : Nat) {l : List F32} (len : l.length = 1024) : accTile free (setAcc x a l) a = l := by
  refine List.ext_getElem (by simp [len]) fun i hi hl => ?_
  have written : isWritten (setAcc x a l) (resAcc a) = true := (isWritten_markWritten ..).trans (if_pos rfl)
  have place : 1024 * a + 32 * (i / 32) + i % 32 = 1024 * a + i := by omega
  simp only [accTile, List.getElem_map, List.getElem_range, accElem, written, if_true, place]
  rw [mget_setAcc x a hl, List.getD_eq_getElem _ _ hl]

theorem accTile_landChunk (free n : Nat) {x : Cell} {run : MatRun} {rest : List MatRun} (runs : x.runs = run :: rest) :
    accTile n (landChunk free x) (xAcc run.word) = landTile run run.chunk (accTile free x (xAcc run.word)) := by
  have same : ∀ (y : Cell) (l : List MatRun) (a : Nat), accTile n { y with runs := l } a = accTile n y a := fun _ _ _ => rfl
  simp only [landChunk, runs, same]
  exact accTile_setAcc n x _ (by simp)

/-! ### Chunks land one after the other -/

/-- The state after a chunk of a cell's oldest run has landed. -/
def chunkLanded (s : State) (c : Nat) : State := draw (setCell s c (landChunk s.free (getCell s c)))

theorem getCell_chunkLanded (s : State) (c : Nat) : getCell (chunkLanded s c) c = landChunk s.free (getCell s c) := getCell_setCell ..

theorem landChunk_frame (free : Nat) (x : Cell) : ∃ acc written runs, landChunk free x = { x with acc := acc, written := written, runs := runs } := by
  have set : ∀ a l rs, ∃ acc written runs, { setAcc x a l with runs := rs } = { x with acc := acc, written := written, runs := runs } :=
    fun _ _ _ => ⟨_, _, _, rfl⟩
  rw [landChunk]
  split
  · exact ⟨_, _, _, rfl⟩
  · exact set ..

theorem lifeFrame_draw (s : State) (c : Nat) : LifeFrame s (draw s) c :=
  ⟨⟨_, _, _, _, _, _, _, _, rfl⟩, ⟨rfl, rfl, rfl, rfl⟩, fun _ => ⟨rfl, rfl, rfl⟩⟩

theorem cellLive_chunkLanded (s : State) (c : Nat) : cellLive (chunkLanded s c) c = cellLive s c := by
  obtain ⟨_, _, _, eq⟩ := landChunk_frame s.free (getCell s c)
  have life : LifeFrame s (setCell s c (landChunk s.free (getCell s c))) c := lifeFrame_setCell (by rw [eq]; exact ⟨rfl, rfl, rfl, rfl⟩)
  exact (life.trans (lifeFrame_draw _ c)).cellLive

theorem landTile_chunk (run : MatRun) (j k : Nat) (tile : List F32) : landTile { run with chunk := j } k tile = landTile run k tile := rfl

theorem lands_succ {s : State} {c n : Nat} {run : MatRun} {rest : List MatRun} (ok : cellOk c = true) (live : cellLive s c = true)
    (runs : (getCell s c).runs = run :: rest) : lands c (n + 1) s = lands c n (chunkLanded s c) := by
  rw [lands, exec_anvilChunkLand ok live runs]
  rfl

/-- The chunks that a lone run still has to land make its tile of what it was (R100, R101, R116). -/
theorem lands_run {c : Nat} {run : MatRun} (ok : cellOk c = true) (n j : Nat) {s : State} (live : cellLive s c = true)
    (runs : (getCell s c).runs = [{ run with chunk := j }]) (left : j + (n + 1) = landings run.word) :
    ∃ w, lands c (n + 1) s = some w ∧ (getCell w c).runs = [] ∧
      ∀ i, i < 1024 → mget 0 (getCell w c).acc (1024 * xAcc run.word + i) =
        ((List.range' j (n + 1)).foldl (fun tile k => landTile run k tile) (accTile s.free (getCell s c) (xAcc run.word))).getD i 0 := by
  obtain ⟨after, tile, -⟩ := landChunk_spec s.free runs
  rw [← getCell_chunkLanded] at after tile
  rw [lands_succ ok live runs]
  induction n generalizing j s with
  | zero =>
    refine ⟨_, by rw [lands], after.trans (if_pos left), fun i hi => ?_⟩
    rw [List.range'_one, List.foldl_cons, List.foldl_nil, ← landTile_chunk run j]
    exact tile i hi
  | succ n ih =>
    have notLast : ¬ j + 1 = landings run.word := by omega
    have more : (getCell (chunkLanded s c) c).runs = [{ run with chunk := j + 1 }] := after.trans (if_neg notLast)
    have live' := (cellLive_chunkLanded s c).trans live
    obtain ⟨after', tile', -⟩ := landChunk_spec (chunkLanded s c).free more
    rw [← getCell_chunkLanded] at after' tile'
    obtain ⟨w, landed, done, tiles⟩ := ih (j + 1) live' more (by omega) after' tile'
    have first : accTile (chunkLanded s c).free (getCell (chunkLanded s c) c) (xAcc run.word) =
        landTile run j (accTile s.free (getCell s c) (xAcc run.word)) := by
      have landed := accTile_landChunk s.free (chunkLanded s c).free runs
      rw [← getCell_chunkLanded] at landed
      simpa only [landTile_chunk] using landed
    refine ⟨w, (lands_succ ok live' more).trans landed, done, fun i hi => ?_⟩
    have split : List.range' j (n + 1 + 1) = j :: List.range' (j + 1) (n + 1) := List.range'_succ
    rw [tiles i hi, first, split, List.foldl_cons]

theorem landings_pos (w : Word) : ∃ n, landings w = n + 1 := by
  rw [landings]
  split
  · exact ⟨23, rfl⟩
  · exact ⟨3, rfl⟩

/-- A cell whose runs change and whose streams then go on holds those runs, and runs the same item. -/
theorem runsBegun_spec (x : Cell) (rs : List MatRun) :
    let y := assignClaims (settleSlots { x with runs := rs })
    y.runs = rs ∧ y.mode = x.mode ∧ y.ctxv = x.ctxv ∧ y.ctx = x.ctx ∧ y.job = x.job := by
  obtain ⟨_, _, _, _, settled⟩ := claimFrame_settled { x with runs := rs }
  dsimp only
  rw [settled]
  exact ⟨rfl, rfl, rfl, rfl, rfl⟩

/-- An MMA of a cell that lands no other run completes when its chunks have landed (R100, R116). -/
theorem mma_completes {s : State} {c t op : Nat} {f : XFields} {e : Entry} {l : List (List Byte × List Byte)} {o : Out} (hop : op < 256)
    (h : Issues s c t (encX 0xC op f) e) (got : claimsGot (getCell (issued s c e) c) (e.claims.getD []) = .inl l)
    (active : suppressed s.free (getCell (issued s c e) c) t e.word = false) (alone : (getCell (issued s c e) c).runs = [])
    (next : o = .next (startMma s.free (issued s c e) c e)) :
    let run := mmaRun (getCell (issued s c e) c) s.free t f e l
    ∃ u w, o = .next u ∧ (getCell u c).runs = [run] ∧ lands c (landings e.word) u = some w ∧ (getCell w c).runs = [] ∧
      ∀ i, i < 1024 → mget 0 (getCell w c).acc (1024 * f.acc.toNat + i) =
        ((List.range (landings e.word)).foldl (fun tile k => landTile run k tile) (accTile u.free (getCell u c) f.acc.toNat)).getD i 0 := by
  intro run
  obtain ⟨-, -, hacc, -⟩ := encX_fields (by decide : 0xC < 16) hop f
  rw [← issues_word h] at hacc
  have live : cellLive (issued s c e) c = true := (lifeFrame_issued s c e).cellLive.trans (issues_live h)
  rw [startMma_begins hop h got active, alone, List.nil_append] at next
  obtain ⟨begun, keeps⟩ := runsBegun_spec (getCell (issued s c e) c) [run]
  have started : LifeFrame (issued s c e) (setCell (issued s c e) c (assignClaims (settleSlots { getCell (issued s c e) c with runs := [run] }))) c :=
    lifeFrame_setCell keeps
  have runs : (getCell (setCell (issued s c e) c (assignClaims (settleSlots { getCell (issued s c e) c with runs := [run] }))) c).runs = [run] := by
    rw [getCell_setCell, begun]
  have live' := started.cellLive.trans live
  generalize setCell (issued s c e) c (assignClaims (settleSlots { getCell (issued s c e) c with runs := [run] })) = u at next runs live'
  obtain ⟨n, count⟩ := landings_pos e.word
  obtain ⟨w, landed, done, tile⟩ := lands_run h.1 (run := run) n 0 live' runs ((Nat.zero_add _).trans count.symm)
  refine ⟨u, w, next, runs, ?_, done, fun i hi => ?_⟩
  · rw [count]
    exact landed
  · rw [count, List.range_eq_range', ← hacc]
    exact tile i hi

/-! ### Tile registers -/

theorem tileBytes_setTile_same (free : Nat) (x : Cell) (n : Nat) {l : List Byte} (len : l.length = 1024) : tileBytes free (setTile x n l) n = l := by
  have written : isWritten (setTile x n l) (resT n) = true := (isWritten_markWritten ..).trans (if_pos rfl)
  have same := memRead_memWrite_same x.tile (1024 * (n % 32)) (l.take 1024)
  rw [List.take_of_length_le (Nat.le_of_eq len), len] at same
  rw [tileBytes, if_pos written]
  change memRead (memWrite x.tile (1024 * (n % 32)) (l.take 1024)) (1024 * (n % 32)) 1024 = l
  rw [List.take_of_length_le (Nat.le_of_eq len)]
  exact same

theorem tileBytes_setTile_apart (free : Nat) (x : Cell) {m n : Nat} (l : List Byte) (h : m % 32 ≠ n % 32) :
    tileBytes free (setTile x n l) m = tileBytes free x m := by
  have other : isWritten (setTile x n l) (resT m) = isWritten x (resT m) :=
    (isWritten_markWritten ..).trans (if_neg fun same => h (by rw [resT, resT] at same; omega))
  have len := List.length_take_le 1024 l
  have apart : memRead (setTile x n l).tile (1024 * (m % 32)) 1024 = memRead x.tile (1024 * (m % 32)) 1024 := memRead_memWrite_apart _ (by omega)
  rw [tileBytes, other, apart, tileBytes]

/-- Registers that consecutive writes do not reach are as they were. -/
theorem tileBytes_setTiles_apart (free : Nat) {m : Nat} (l : List (List Byte)) (x : Cell) (n : Nat)
    (h : ∀ j < l.length, m % 32 ≠ (n + j) % 32) : tileBytes free (setTiles x n l) m = tileBytes free x m := by
  induction l generalizing x n with
  | nil => rfl
  | cons b rest ih =>
    have later : ∀ j < rest.length, m % 32 ≠ (n + 1 + j) % 32 := fun j hj => by
      have := h (j + 1) (by simpa using hj)
      rwa [show n + (j + 1) = n + 1 + j by omega] at this
    rw [setTiles, ih _ _ later]
    exact tileBytes_setTile_apart free x b (h 0 (by simp))

/-- Of consecutive writes each register holds its own tile. -/
theorem tileBytes_setTiles (free : Nat) (l : List (List Byte)) (x : Cell) (n : Nat) (len : ∀ b ∈ l, b.length = 1024) (few : l.length ≤ 32) {i : Nat}
    (hi : i < l.length) : tileBytes free (setTiles x n l) (n + i) = l.getD i [] := by
  induction l generalizing x n i with
  | nil => exact absurd hi (by simp)
  | cons b rest ih =>
    rw [List.length_cons] at few hi
    rw [setTiles]
    cases i with
    | zero =>
      rw [tileBytes_setTiles_apart free rest _ _ fun j hj => by omega]
      exact tileBytes_setTile_same free x n (len b (List.mem_cons_self ..))
    | succ i =>
      rw [show n + (i + 1) = n + 1 + i by omega]
      exact ih _ _ (fun a ha => len a (List.mem_cons_of_mem _ ha)) (by omega) (by omega)

theorem setTiles_frame (l : List (List Byte)) (x : Cell) (n : Nat) : ∃ m w, setTiles x n l = { x with tile := m, written := w } := by
  induction l generalizing x n with
  | nil => exact ⟨_, _, rfl⟩
  | cons b rest ih =>
    obtain ⟨_, _, eq⟩ := ih (setTile x n b) (n + 1)
    rw [setTiles, eq]
    exact ⟨_, _, rfl⟩

/-! ### A Quench reads and writes -/

theorem pieces_length {α : Type} (n k : Nat) (l : List α) : (pieces n k l).length = k := by
  induction k generalizing l with
  | zero => rfl
  | succ k ih => rw [pieces, List.length_cons, ih]

theorem length_of_mem_pieces {α : Type} {n k : Nat} {l b : List α} (long : n * k ≤ l.length) (h : b ∈ pieces n k l) : b.length = n := by
  induction k generalizing l with
  | zero => cases h
  | succ k ih =>
    rw [Nat.mul_succ] at long
    rcases List.mem_cons.mp h with rfl | rest
    · exact List.length_take_of_le (by omega)
    · exact ih (by rw [List.length_drop]; omega) rest

theorem packElems_length (w : Nat) (l : List Nat) : (packElems w l).length = l.length * (w / 8) := by
  simp [packElems, List.length_flatMap]

/-- The tiles of a block in F32 are four, and of one whose elements take 16 bits two, of 1,024 bytes each (R85). -/
theorem quenchTilesOf_length {q : QuenchRun} (l : List Byte) (whole : wFmt q.word = 0 ∨ 2048 ≤ l.length) :
    (quenchTilesOf q l).length ≤ 4 ∧ ∀ b ∈ quenchTilesOf q l, b.length = 1024 := by
  rw [quenchTilesOf]
  split
  case isTrue =>
    refine ⟨by simp [blockGroup], fun b hb => ?_⟩
    obtain ⟨j, -, rfl⟩ := List.mem_map.mp hb
    rw [packElems_length, List.length_map, List.length_range]
  case isFalse notF32 =>
    have long : 1024 * 2 ≤ l.length := by
      rcases whole with zero | long
      · exact absurd zero notF32
      · exact long
    exact ⟨by rw [pieces_length]; decide, fun b hb => length_of_mem_pieces long hb⟩

/-- A block of 1,024 elements of 16 bits takes 2,048 bytes. -/
theorem quenchBytes_length (s : State) (x : Cell) {q : QuenchRun} (elems : q.value.length = 1024) (notF32 : wFmt q.word ≠ 0)
    (bits : fmtBits (wFmt q.word) = 16) (plain : isSb (wFmt q.word) = false) : (quenchBytes s x q).1.length = 2048 := by
  simp only [quenchBytes, if_neg notF32, encodeBlock, plain, Bool.false_eq_true, if_false, pack, leBytes_length, List.length_mapIdx, quenchQuos,
    List.length_map, elems, bits]

@[simp] theorem preValue_length (free : Nat) (x : Cell) (n : Nat) : (preValue free x n).length = 1024 := by simp [preValue, groupBlock]

/-- The accumulator tile after a Quench: as it was, +0, or the preload value (R120). -/
theorem quenchAfter_acc (x : Cell) {q : QuenchRun} {i : Nat} (long : wOp q.word = 2 → q.preload.length = 1024) (hi : i < 1024) :
    mget 0 (quenchAfter x q).acc (1024 * qAcc q.word + i) =
      if wOp q.word = 1 then 0 else if wOp q.word = 2 then q.preload.getD i 0 else mget 0 x.acc (1024 * qAcc q.word + i) := by
  rw [quenchAfter]
  split
  · rw [mget_setAcc x _ (by rw [List.length_replicate]; exact hi), List.getD_replicate _ hi]
  · split
    case isTrue two => exact mget_setAcc x _ (by rw [long two]; exact hi)
    case isFalse => rfl

/-- A Quench with tile registers as its destination writes them, and its accumulator tile is then as its instruction says (R117 to R120). -/
theorem quench_writes {v : State} {c : Nat} {q : QuenchRun} (ok : cellOk c = true) (live : cellLive v c = true) (quench : (getCell v c).quench = some q)
    (started : q.started = true) (dest : qDest q.word = 0) :
    ∃ w, exec (.quenchReadDone c) v = .next w ∧
      getCell w c = setTiles { quenchAfter (getCell v c) q with quench := none } (wD q.word) (quenchTilesOf q (quenchBytes v (getCell v c) q).1) := by
  have ready : quenchWaits v c q = false := by simp [quenchWaits, dest]
  refine ⟨_, exec_quenchReadDone ok live quench started ready, ?_⟩
  rw [quenchWrite, if_pos dest, modCell_eq, getCell_setCell, modCell_eq, getCell_setCell]

/-- The Quench whose read has started. -/
def quenchReading (q : QuenchRun) (value : List F32) : QuenchRun := { q with started := true, value := value }

theorem quenchReading_value (q : QuenchRun) (value : List F32) : (quenchReading q value).value = value := rfl

theorem lifeFrame_quench (u : State) (c : Nat) (q : Option QuenchRun) : LifeFrame u (setCell u c { getCell u c with quench := q }) c :=
  lifeFrame_setCell ⟨rfl, rfl, rfl, rfl⟩

theorem runsInto_quench (x : Cell) (q : Option QuenchRun) (a : Nat) : runsInto { x with quench := q } a = runsInto x a := rfl

/-- A Quench that has begun reads its accumulator tile, which no run changes (R120, R123). -/
theorem quench_reads {s : State} {c a : Nat} {q : QuenchRun} (ok : cellOk c = true) (live : cellLive s c = true) (acc : qAcc q.word = a)
    (fresh : q.started = false) (idle : runsInto (getCell s c) a = false) :
    let u := setCell s c { getCell s c with quench := some q }
    ∃ v, exec (.quenchReadStart c) u = .next v ∧ cellLive v c = true ∧
      getCell v c = { getCell s c with quench := some (quenchReading q (accTile u.free (getCell u c) a)) } := by
  intro u
  have cell : getCell u c = { getCell s c with quench := some q } := getCell_setCell ..
  have live' : cellLive u c = true := (lifeFrame_quench s c (some q)).cellLive.trans live
  generalize u = v at *
  subst acc
  refine ⟨_, exec_quenchReadStart ok live' (by rw [cell]) fresh (by rw [cell, runsInto_quench]; exact idle),
    ((lifeFrame_quench v c _).trans (lifeFrame_draw _ c)).cellLive.trans live', ?_⟩
  refine (getCell_setCell ..).trans ?_
  rw [quenchReading, cell]

theorem acc_issued (s : State) (c : Nat) (e : Entry) : (getCell (issued s c e) c).acc = (getCell s c).acc := by
  obtain ⟨_, _, _, _, _, _, h⟩ := issued_cell s c e
  rw [h]

/-- What a Quench that has been read leaves when it writes its tile registers (R117 to R120). -/
theorem quench_finishes {v : State} {c a d op : Nat} {q : QuenchRun} {pre : List F32} {x : Cell} (ok : cellOk c = true) (live : cellLive v c = true)
    (cell : getCell v c = { x with quench := some q }) (started : q.started = true) (dest : qDest q.word = 0) (elems : q.value.length = 1024)
    (fmt : wFmt q.word = 0 ∨ (fmtBits (wFmt q.word) = 16 ∧ isSb (wFmt q.word) = false)) (hO : wOp q.word = op) (hD : wD q.word = d)
    (hacc : qAcc q.word = a) (preload : q.preload = if op = 2 then pre else []) (long : pre.length = 1024) :
    ∃ w, exec (.quenchReadDone c) v = .next w ∧ (getCell w c).quench = none ∧
      (let tiles := quenchTilesOf q (quenchBytes v (getCell v c) q).1
       ∀ i, i < tiles.length → tileBytes w.free (getCell w c) (d + i) = tiles.getD i []) ∧
      ∀ i, i < 1024 → mget 0 (getCell w c).acc (1024 * a + i) =
        if op = 0x01 then 0 else if op = 0x02 then pre.getD i 0 else mget 0 x.acc (1024 * a + i) := by
  obtain ⟨w, writes, result⟩ := quench_writes ok live (by rw [cell]) started dest
  have whole : wFmt q.word = 0 ∨ 2048 ≤ (quenchBytes v (getCell v c) q).1.length := by
    by_cases zero : wFmt q.word = 0
    · exact .inl zero
    · obtain ⟨bits, plain⟩ := fmt.resolve_left zero
      exact .inr (Nat.le_of_eq (quenchBytes_length v (getCell v c) elems zero bits plain).symm)
  obtain ⟨few, len⟩ := quenchTilesOf_length _ whole
  obtain ⟨_, _, frame⟩ := setTiles_frame (quenchTilesOf q (quenchBytes v (getCell v c) q).1) { quenchAfter (getCell v c) q with quench := none } (wD q.word)
  subst hO hD hacc
  refine ⟨w, writes, by rw [result, frame], fun i hi => ?_, fun i hi => ?_⟩
  · rw [result]
    exact tileBytes_setTiles _ _ _ _ len (Nat.le_trans few (by decide)) hi
  · have kept : (getCell w c).acc = (quenchAfter (getCell v c) q).acc := by rw [result, frame]
    have preloaded : wOp q.word = 2 → q.preload = pre := fun two => preload.trans (if_pos two)
    rw [kept, quenchAfter_acc _ (fun two => (congrArg List.length (preloaded two)).trans long) hi, cell]
    split
    · rfl
    · split
      case isTrue two => rw [preloaded two]
      case isFalse => rfl

/-- A Quench that has begun in a cell reads its tile and then writes it (R117 to R120). -/
theorem quench_runs {s : State} {c a d op : Nat} {q : QuenchRun} {pre : List F32} (ok : cellOk c = true) (live : cellLive s c = true)
    (fresh : q.started = false) (idle : runsInto (getCell s c) a = false) (dest : qDest q.word = 0)
    (fmt : wFmt q.word = 0 ∨ (fmtBits (wFmt q.word) = 16 ∧ isSb (wFmt q.word) = false)) (hO : wOp q.word = op) (hD : wD q.word = d)
    (hacc : qAcc q.word = a) (preload : q.preload = if op = 2 then pre else []) (long : pre.length = 1024) :
    let u := setCell s c { getCell s c with quench := some q }
    ∃ v w r, exec (.quenchReadStart c) u = .next v ∧ exec (.quenchReadDone c) v = .next w ∧ (getCell v c).quench = some r ∧ r.word = q.word ∧
      r.value = accTile u.free (getCell u c) a ∧ r.scale = q.scale ∧ (getCell w c).quench = none ∧
      (let tiles := quenchTilesOf r (quenchBytes v (getCell v c) r).1
       ∀ i, i < tiles.length → tileBytes w.free (getCell w c) (d + i) = tiles.getD i []) ∧
      ∀ i, i < 1024 → mget 0 (getCell w c).acc (1024 * a + i) =
        if op = 0x01 then 0 else if op = 0x02 then pre.getD i 0 else mget 0 (getCell s c).acc (1024 * a + i) := by
  intro u
  obtain ⟨v, reads, live', cell⟩ := quench_reads ok live hacc fresh idle
  have elems : (quenchReading q (accTile u.free (getCell u c) a)).value.length = 1024 := by rw [quenchReading_value, accTile_length]
  obtain ⟨w, writes, gone, tiles, acc⟩ := quench_finishes (x := getCell s c) ok live' cell rfl dest elems fmt hO hD hacc preload long
  exact ⟨v, w, quenchReading q (accTile u.free (getCell u c) a), reads, writes, by rw [cell], rfl, quenchReading_value .., rfl, gone, tiles, acc⟩

/-- A Quench of a tile that no run changes, with tile registers as its destination, begins, reads and writes (R117 to R120). -/
theorem quench_completes {s : State} {c t op : Nat} {f : QFields} {e : Entry} {o : Out} (hop : op < 256) (h : Issues s c t (encQ 0xD op f) e)
    (dest : f.dest = 0) (fmt : f.fmt = 0 ∨ (fmtBits f.fmt.toNat = 16 ∧ isSb f.fmt.toNat = false))
    (idle : runsInto (getCell (issued s c e) c) f.acc.toNat = false) (next : o = .next (startQuench s.free (issued s c e) c e)) :
    let x := getCell (issued s c e) c
    ∃ u v w q, o = .next u ∧ exec (.quenchReadStart c) u = .next v ∧ exec (.quenchReadDone c) v = .next w ∧
      (getCell v c).quench = some q ∧ q.word = encQ 0xD op f ∧ q.value = accTile u.free (getCell u c) f.acc.toNat ∧
      q.scale = (sReg s.free x t f.b.toNat).setWidth 32 ∧ (getCell w c).quench = none ∧
      (let tiles := quenchTilesOf q (quenchBytes v (getCell v c) q).1
       ∀ i, i < tiles.length → f.d.toNat + i < 32 → tileBytes w.free (getCell w c) (f.d.toNat + i) = tiles.getD i []) ∧
      ∀ i, i < 1024 → mget 0 (getCell w c).acc (1024 * f.acc.toNat + i) =
        if op = 0x01 then 0 else if op = 0x02 then (preValue s.free x f.pre.toNat).getD i 0
        else mget 0 (getCell s c).acc (1024 * f.acc.toNat + i) := by
  intro x
  obtain ⟨-, hO, hD, -, -, -, hfmt, hdest, -, hacc, -⟩ := encQ_fields (by decide : 0xD < 16) hop f
  have zero : qDest (encQ 0xD op f) = 0 := hdest.trans (congrArg BitVec.toNat dest)
  have format : wFmt (encQ 0xD op f) = 0 ∨ (fmtBits (wFmt (encQ 0xD op f)) = 16 ∧ isSb (wFmt (encQ 0xD op f)) = false) := by
    rw [hfmt]
    exact fmt.imp_left (congrArg BitVec.toNat)
  have foot : quenchFoot (quenchRun x s.free t op f e) = [] := by rw [quenchFoot, quenchRun, if_pos zero]
  rw [startQuench_begins hop h (by rw [foot]; rfl)] at next
  have live : cellLive (issued s c e) c = true := (lifeFrame_issued s c e).cellLive.trans (issues_live h)
  obtain ⟨v, w, q, reads, writes, holds, word, value, scale, gone, tiles, acc⟩ :=
    quench_runs (q := quenchRun x s.free t op f e) h.1 live rfl idle zero format hO hD hacc rfl (preValue_length s.free x f.pre.toNat)
  rw [acc_issued] at acc
  exact ⟨_, v, w, q, next, reads, writes, holds, word, value, scale, gone, fun i hi _ => tiles i hi, acc⟩

theorem matrixInstructionsComplete : MatrixInstructionsComplete := by
  intro s c t e x
  refine ⟨fun k hk f l h got active alone => ?_, fun k hk f h dest fmt idle => ?_⟩
  · simp only [List.mem_cons, List.not_mem_nil, or_false] at hk
    rcases hk with rfl | rfl
    · exact mma_completes (op := 0x00) (by decide) h got active alone (onThread_issue h fun u e => startMma s.free u c e)
    · exact mma_completes (op := 0x01) (by decide) h got active alone (onThread_issue h fun u e => startMma s.free u c e)
  · simp only [List.mem_cons, List.not_mem_nil, or_false] at hk
    rcases hk with rfl | rfl | rfl
    · exact quench_completes (op := 0x00) (by decide) h dest fmt idle (onThread_issue h fun u e => startQuench s.free u c e)
    · exact quench_completes (op := 0x01) (by decide) h dest fmt idle (onThread_issue h fun u e => startQuench s.free u c e)
    · exact quench_completes (op := 0x02) (by decide) h dest fmt idle (onThread_issue h fun u e => startQuench s.free u c e)

/-- Settles O21: runs and Quenches begin with the registers at issue, and chunks, reads and writes complete them. -/
theorem matrixInstructions : Obligations.MatrixInstructions := ⟨matrixInstructionsBegin, matrixInstructionsComplete⟩

end Sys2Proof.Machine
end

section
/-!
PROOF. The vector instructions that are not element by element, and those that write a mask (O26).
-/
namespace Sys2Proof.Machine
open Sys2Proof.Claim

/-! ### One write of the cell -/

section
variable {s : State} {c t op : Nat} {f : VFields} {e : Entry}

@[simp] theorem step_issued : (getCell (issued s c e) c).step = (getCell s c).step := by
  obtain ⟨_, _, _, _, _, _, h⟩ := issued_cell s c e
  rw [h]

@[simp] theorem vMask_issued : vMask s.free (getCell (issued s c e) c) f = maskReg s.free (getCell s c) f.mask.toNat := maskReg_issued ..

/-- The spark values are those of the cell's job and step before the entry has gone (R46). -/
theorem sparkOf_issued (stream : BitVec 32) (i : Nat) :
    sparkOf (issued s c e) (getCell (issued s c e) c) stream i =
      spark (getJob s (getCell s c).ctx).image.seed stream (getCell s c).step (BitVec.ofNat 64 i) := by
  rw [sparkOf, getJob_issued, ctx_issued, step_issued]

variable (h : Issues s c t (encV 8 op f) e)
include h

/-- An instruction that writes tD under the mask (R131). -/
theorem vecOp_putTile (l : Nat → State → Cell → List Nat) :
    onThread c t (vecOp s c t op f (fun free u _ x => putTile free x f (l free u x))) =
      .next (modCell (issued s c e) c (fun y =>
        setTile y f.d.toNat (maskedTile s c f (l s.free (issued s c e) (getCell (issued s c e) c))))) := by
  rw [onThread_vecOp h, putTile_issued]

/-- An instruction that writes every element of tD. -/
theorem vecOp_putWhole (l : Nat → Cell → List Nat) :
    onThread c t (vecOp s c t op f (fun free _ _ x => putWhole x f (l free x))) =
      .next (modCell (issued s c e) c (fun y =>
        setTile y f.d.toNat (packElems (viewBits f.fmt.toNat) (l s.free (getCell (issued s c e) c))))) :=
  onThread_vecOp h _

/-- An instruction that writes every bit of mD. -/
theorem vecOp_setMask (m : Nat → Cell → BitVec 1024) :
    onThread c t (vecOp s c t op f (fun free _ _ x => setMask x f.d.toNat (m free x))) =
      .next (modCell (issued s c e) c (fun y => setMask y f.d.toNat (m s.free (getCell (issued s c e) c)))) :=
  onThread_vecOp h _

/-- An instruction that writes the bits of mD under the mask (R130, R142). -/
theorem vecOp_putMask (l : Nat → Cell → List Bool) :
    onThread c t (vecOp s c t op f (fun free _ _ x => putMask free x f (l free x))) =
      .next (modCell (issued s c e) c (fun y => setMask y f.d.toNat
        (maskUnder (maskReg s.free (getCell s c) f.mask.toNat) f.mz (maskReg s.free (getCell s c) f.d.toNat)
          (l s.free (getCell (issued s c e) c))))) := by
  rw [onThread_vecOp h, putMask, vMask_issued, maskReg_issued, modCell_eq]

/-! ### The tables -/

/-- A reduction writes every element of tD (R144). -/
theorem vecReduce_result (row : Bool) (g : List FVal → FVal) :
    onThread c t (vecReduce s c t op f row g) =
      .next (modCell (issued s c e) c (fun y => setTile y f.d.toNat (packElems (viewBits f.fmt.toNat)
        (reduce f (maskReg s.free (getCell s c) f.mask.toNat) row g ((codes s c f f.a).map (fpVal f)))))) := by
  rw [vecReduce, vecOp_putWhole h, vMask_issued, vElems_issued]

theorem vecCmp_result (k : CmpOp) :
    onThread c t (vecCmp s c t op f k) =
      .next (modCell (issued s c e) c (fun y => setMask y f.d.toNat
        (maskUnder (maskReg s.free (getCell s c) f.mask.toNat) f.mz (maskReg s.free (getCell s c) f.d.toNat)
          (List.zipWith (cmpElem k f.fmt.toNat (f.imm.toNat % 4)) (codes s c f f.a) (codes s c f f.b))))) := by
  rw [vecCmp, vecOp_putMask h, vElems_issued, vElems_issued]

theorem vecTest_result (g : FVal → Bool) :
    onThread c t (vecTest s c t op f g) =
      .next (modCell (issued s c e) c (fun y => setMask y f.d.toNat
        (maskUnder (maskReg s.free (getCell s c) f.mask.toNat) f.mz (maskReg s.free (getCell s c) f.d.toNat)
          ((codes s c f f.a).map (fun a => g (fpVal f a)))))) := by
  rw [vecTest, vecOp_putMask h, vElems_issued]

theorem maskOp_result (g : BitVec 1024 → BitVec 1024 → BitVec 1024) :
    onThread c t (maskOp s c t op f g) =
      .next (modCell (issued s c e) c (fun y =>
        setMask y f.d.toNat (g (maskReg s.free (getCell s c) f.a.toNat) (maskReg s.free (getCell s c) f.b.toNat)))) := by
  rw [maskOp, vecOp_setMask h, maskReg_issued, maskReg_issued]

end

/-- Each compare asks the order of its row (R142). -/
theorem exec_compareOps_order : ∀ k ∈ compareOps, ∃ op, (∀ f, k.2.2 f = cmpElem op f.fmt.toNat (f.imm.toNat % 4)) ∧
    ∀ c t f s, exec (k.1 c t f) s = onThread c t (vecCmp s c t k.2.1 f op) := by
  simp only [compareOps, List.forall_mem_cons]
  exact ⟨⟨.eq, fun _ => rfl, fun _ _ _ _ => rfl⟩, ⟨.lt, fun _ => rfl, fun _ _ _ _ => rfl⟩, ⟨.le, fun _ => rfl, fun _ _ _ _ => rfl⟩,
    fun _ h => absurd h List.not_mem_nil⟩

/-! ### Movement and masks -/

theorem vectorMovementResults : VectorMovementResults := by
  intro s c t f e v x w b vals tile
  refine ⟨fun h => ?bcast, fun h => ?trans, fun h => ?sel, fun h => ?ins, fun h => ?extr, fun h => ?spark, fun h => ?softmax, fun h => ?cvt,
    fun k hk h => ?reduce⟩
  case bcast =>
    refine (vecOp_putTile h fun free _ x => broadcast f (vElems free x f f.a.toNat) (sReg free x t f.b.toNat).toNat).trans ?_
    rw [vElems_issued, sReg_issued]
  case trans =>
    refine (vecOp_putTile h fun free _ x => (List.range 256).map (fun i => (vElems free x f f.a.toNat).getD (16 * (i % 16) + i / 16) 0)).trans ?_
    rw [vElems_issued]
  case sel =>
    refine (vecOp_putWhole h fun free x => underMask (vMask free x f) false (fun i => i) (vElems free x f f.b.toNat) (vElems free x f f.a.toNat)).trans ?_
    rw [vMask_issued, vElems_issued, vElems_issued]
  case ins =>
    refine (vecOp_putWhole h fun free x => (vElems free x f f.d.toNat).set ((sReg free x t f.b.toNat).toNat % viewCount f.fmt.toNat)
      ((sReg free x t f.a.toNat).toNat % 2 ^ viewBits f.fmt.toNat)).trans ?_
    rw [vElems_issued, sReg_issued, sReg_issued]
  case extr =>
    refine (onThread_vecOp h fun free _ _ x => setS x t f.d.toNat
      (BitVec.ofNat 64 ((vElems free x f f.a.toNat).getD ((sReg free x t f.b.toNat).toNat % viewCount f.fmt.toNat) 0))).trans ?_
    rw [vElems_issued, sReg_issued, modCell_eq]
  case spark =>
    refine (vecOp_putTile h fun free u x => (List.range 256).map (fun i =>
      (sparkOf u x (streamOf x t) (sparkIndex (sReg free x t f.c.toNat) 16 (i / 16) (i % 16))).toNat)).trans ?_
    simp only [sparkOf_issued, streamOf_issued, sReg_issued, v, x]
  case softmax =>
    refine (vecOp_putTile h fun free _ x => softmaxGrad f (vMask free x f) ((vElems free x f f.a.toNat).map (fpVal f))
      ((vElems free x f f.b.toNat).map (fpVal f)) ((vElems free x f f.c.toNat).map (fpVal f))).trans ?_
    rw [vMask_issued, vElems_issued, vElems_issued, vElems_issued]
  case cvt =>
    exact onThread_vecOp h fun free u e x => if f.imm.toNat % 256 = 0 then narrowing u free e f x else widening free e f x
  case reduce => exact (exec_reduceOps k hk c t f s).trans (vecReduce_result h _ _)

theorem maskResults : MaskResults := by
  intro s c t f e x m gives
  refine ⟨fun k hk h => ?compare, fun k hk h => ?test, fun k hk h => ?logic, fun h => ?first⟩
  case compare =>
    obtain ⟨op, order, eq⟩ := exec_compareOps_order k hk
    rw [order]
    exact (eq c t f s).trans (vecCmp_result h op)
  case test => exact (exec_testOps k hk c t f s).trans (vecTest_result h _)
  case logic => exact (exec_maskOps k hk c t f s).trans (maskOp_result h _)
  case first =>
    refine (vecOp_setMask h fun free x => maskOf ((List.range (viewCount f.fmt.toNat)).map
      (firstBit (f.imm.toNat % 4) (viewWidth f.fmt.toNat) (sReg free x t f.b.toNat).toNat))).trans ?_
    rw [sReg_issued]

/-- Settles O26: movement, conversion and reductions, and the instructions that write a mask. -/
theorem vectorInstructionsGiveTheirResults : Obligations.VectorInstructionsGiveTheirResults := ⟨vectorMovementResults, maskResults⟩

end Sys2Proof.Machine
end

section

/-!
PROOF. Device and host memory stay in canonical form, and are so after reset (O5, O8).

`Canonical s` says it of both memories of a state. What writes a memory is `memWrite`, `memZero`, a filter and, at a package reset, the
empty memory: each gives a canonical memory from a canonical one. Each function `f` of the model that answers with a state has a lemma
`f_canonical`, tagged `simp`, in the order of the model's files: `Canonical (f s …) ↔ Canonical s` where it writes no memory, and
`Canonical s → Canonical (f s …)` where it may. A function that answers with more, or with a refusal, has one about the state it hands on;
one that takes a continuation asks the same of the continuation. On them stand the handlers: `CanonicalOut o` says of an outcome `o` what
the obligation says of a step.

Where a field that is no memory is set, the lemma is met through `canonical_iff`: compared as whole states the two sides would be unfolded
down to their numerals.
-/
namespace Sys2Proof.Machine

/-- Both memories of a state are in canonical form. -/
def Canonical (s : State) : Prop := Memory.wf s.mem = true ∧ Memory.wf s.host = true

section

variable {s u : State} {c d i j k n t code op off size va vpn stamp id : Nat}
  {it : Item} {sh : ShardDecl} {v : Word} {rs : List (Nat × Nat)} {e : Entry}

/-! ### Units, and folds -/

@[simp] theorem canonical_ite (c : Prop) [Decidable c] (s t : State) : Canonical (if c then s else t) ↔ if c then Canonical s else Canonical t :=
  iff_of_eq (apply_ite Canonical c s t)

theorem canonical_withMem {m : Mem} (hs : Canonical s) (hm : Memory.wf m = true) : Canonical { s with mem := m } := ⟨hm, hs.2⟩
theorem canonical_withHost {m : Mem} (hs : Canonical s) (hm : Memory.wf m = true) : Canonical { s with host := m } := ⟨hs.1, hm⟩
theorem canonical_iff : Canonical s ↔ Memory.wf s.mem = true ∧ Memory.wf s.host = true := .rfl
@[simp] theorem Canonical.mem (hs : Canonical s) : Memory.wf s.mem = true := hs.1
@[simp] theorem Canonical.host (hs : Canonical s) : Memory.wf s.host = true := hs.2
@[simp] theorem setCell_canonical {x : Cell} : Canonical (setCell s i x) ↔ Canonical s := .rfl
@[simp] theorem setPav_canonical {x : Pav} : Canonical (setPav s i x) ↔ Canonical s := .rfl
@[simp] theorem setStore_canonical {x : StoreDie} : Canonical (setStore s i x) ↔ Canonical s := .rfl
@[simp] theorem setHbm_canonical {x : Hbm} : Canonical (setHbm s i x) ↔ Canonical s := .rfl
@[simp] theorem setLink_canonical {x : Link} : Canonical (setLink s i x) ↔ Canonical s := .rfl
@[simp] theorem setFab_canonical {x : Fab} : Canonical (setFab s i x) ↔ Canonical s := .rfl
@[simp] theorem setUcie_canonical {x : Ucie} : Canonical (setUcie s i x) ↔ Canonical s := .rfl
@[simp] theorem setJob_canonical {x : Job} : Canonical (setJob s i x) ↔ Canonical s := .rfl
@[simp] theorem setObj_canonical {x : SyncObj} : Canonical (setObj s i x) ↔ Canonical s := .rfl
@[simp] theorem setQueue_canonical {x : Queue} : Canonical (setQueue s i x) ↔ Canonical s := .rfl
@[simp] theorem setCtx_canonical {x : Ctx} : Canonical (setCtx s i x) ↔ Canonical s := .rfl
@[simp] theorem setEv_canonical {x : EvSrc} : Canonical (setEv s i x) ↔ Canonical s := .rfl
@[simp] theorem setEvCpu_canonical {x : EvCpu} : Canonical (setEvCpu s i x) ↔ Canonical s := .rfl
@[simp] theorem setRst_canonical {x : StackRst} : Canonical (setRst s i x) ↔ Canonical s := .rfl
@[simp] theorem setRegion_canonical {x : Region} : Canonical (setRegion s i x) ↔ Canonical s := .rfl
@[simp] theorem setPort_canonical {x : List PortOp} : Canonical (setPort s i x) ↔ Canonical s := .rfl

@[simp] theorem foldl_canonical_iff {α : Type} {f : State → α → State} (h : ∀ s a, Canonical (f s a) ↔ Canonical s) (l : List α) (s : State) :
    Canonical (l.foldl f s) ↔ Canonical s :=
  List.foldlRecOn (motive := fun t => Canonical t ↔ Canonical s) l f .rfl fun _ ih a _ => (h _ a).trans ih
@[simp] theorem foldl_canonical {α : Type} {f : State → α → State} (hf : ∀ s a, Canonical s → Canonical (f s a)) {l : List α} {s : State}
    (hs : Canonical s) : Canonical (l.foldl f s) :=
  List.foldlRecOn l f hs fun _ ih a _ => hf _ a ih
theorem foldl_fst_canonical {α β : Type} {f : State × β → α → State × β} (h : ∀ t a, Canonical t.1 → Canonical (f t a).1) {l : List α}
    {t : State × β} (hs : Canonical t.1) : Canonical (l.foldl f t).1 :=
  List.foldlRecOn (motive := fun u => Canonical u.1) l f hs fun _ ih a _ => h _ a ih

/-! ### Units, counters, reports, job faults -/

@[simp] theorem modCell_canonical {f : Cell → Cell} : Canonical (modCell s c f) ↔ Canonical s := .rfl
@[simp] theorem modPav_canonical {p : Nat} {f : Pav → Pav} : Canonical (modPav s p f) ↔ Canonical s := .rfl
@[simp] theorem modStore_canonical {f : StoreDie → StoreDie} : Canonical (modStore s d f) ↔ Canonical s := .rfl
@[simp] theorem modHbm_canonical {h : Nat} {f : Hbm → Hbm} : Canonical (modHbm s h f) ↔ Canonical s := .rfl
@[simp] theorem modLink_canonical {l : Nat} {f : Link → Link} : Canonical (modLink s l f) ↔ Canonical s := .rfl
@[simp] theorem modFab_canonical {f : Fab → Fab} : Canonical (modFab s d f) ↔ Canonical s := .rfl
@[simp] theorem modJob_canonical {f : Job → Job} : Canonical (modJob s j f) ↔ Canonical s := .rfl
@[simp] theorem modQueue_canonical {q : Nat} {f : Queue → Queue} : Canonical (modQueue s q f) ↔ Canonical s := .rfl
@[simp] theorem modUcie_canonical {u : Nat} {f : Ucie → Ucie} : Canonical (modUcie s u f) ↔ Canonical s := .rfl
@[simp] theorem restartIdle_canonical : Canonical (restartIdle s) ↔ Canonical s := .rfl
@[simp] theorem draw_canonical : Canonical (draw s) ↔ Canonical s := .rfl
@[simp] theorem reportOf_canonical : Canonical (reportOf s code i) ↔ Canonical s := .rfl
@[simp] theorem report_canonical : Canonical (report s code) ↔ Canonical s := .rfl
@[simp] theorem recordErr_canonical {block offset : Nat} : Canonical (recordErr s block offset code) ↔ Canonical s := .rfl
@[simp] theorem raiseEvent_canonical : Canonical (raiseEvent s n) ↔ Canonical s := .rfl
@[simp] theorem sampleLevel_canonical : Canonical (sampleLevel s n) ↔ Canonical s := by
  unfold sampleLevel
  dsimp only
  repeat' split
  all_goals exact .rfl

@[simp] theorem countFrame_canonical {f : Nat} {add : Bool} : Canonical (countFrame s j d f add) ↔ Canonical s := .rfl
@[simp] theorem putFrame_canonical {f : Nat} {x : Frame} : Canonical (putFrame s f x) ↔ Canonical s := .rfl
@[simp] theorem releaseFrame_canonical {f : Nat} (hs : Canonical s) : Canonical (releaseFrame s f) := by
  unfold releaseFrame
  dsimp only
  split
  · exact canonical_withMem hs (Memory.wf_memZero _ _ _ hs.mem)
  · simp [hs]

@[simp] theorem releaseFrames_canonical {l : List Nat} (hs : Canonical s) : Canonical (releaseFrames s l) := by
  simp +contextual [releaseFrames, hs]

@[simp] theorem invalidate_canonical {vpns : List Nat} : Canonical (invalidate s j d vpns) ↔ Canonical s := .rfl
@[simp] theorem abandonItem_canonical (hs : Canonical s) : Canonical (abandonItem s j i) := by
  fun_cases abandonItem s j i <;> simp +zetaDelta [hs]

@[simp] theorem dropHolds_canonical (hs : Canonical s) : Canonical (dropHolds s j) := by
  unfold dropHolds
  exact foldl_canonical (fun _ _ h => by simp [h]) hs

@[simp] theorem stopEngines_canonical : Canonical (stopEngines s j) ↔ Canonical s := .rfl
@[simp] theorem jobFault_canonical (hs : Canonical s) : Canonical (jobFault s j code) := by
  unfold jobFault
  dsimp only
  split
  · exact hs
  · have abandoned : Canonical ((getJob s j).items.foldl (fun s e => abandonItem s j e.1) s) :=
      foldl_canonical (fun _ _ h => abandonItem_canonical h) hs
    have dropped : Canonical (dropHolds (stopEngines ((getJob s j).items.foldl (fun s e => abandonItem s j e.1) s) j) j) :=
      dropHolds_canonical (stopEngines_canonical.2 abandoned)
    rw [sampleLevel_canonical, reportOf_canonical, foldl_canonical_iff fun _ _ => modQueue_canonical,
      restartIdle_canonical, setCtx_canonical, modJob_canonical]
    exact dropped

@[simp] theorem cellFault_canonical {thread pc addr : Nat} {glob : Bool} (hs : Canonical s) : Canonical (cellFault s c thread pc addr glob code) := by
  simp [cellFault, hs]

/-! ### Translation and physical memory -/

@[simp] theorem physWrite_canonical {a : Nat} {l : List Byte} (hs : Canonical s) : Canonical (physWrite s a l) := by
  unfold physWrite
  split
  · exact canonical_withHost hs (Memory.wf_memWrite _ _ _ hs.host)
  · exact canonical_withMem hs (Memory.wf_memWrite _ _ _ hs.mem)

@[simp] theorem clearErrors_canonical {a : Nat} : Canonical (clearErrors s a n) ↔ Canonical s := .rfl
@[simp] theorem writePieces_canonical {l : List Piece} {b : List Byte} (hs : Canonical s) : Canonical (writePieces s l b) := by
  fun_induction writePieces s l b with
  | case1 => exact hs
  | case2 s p rest b t ih =>
    refine ih ?_
    simp only [t]
    split <;> simp [hs]

/-! ### Retirements and ECC errors -/

@[simp] theorem journalWrite_canonical {typ index value : Nat} : Canonical (journalWrite s typ index value) ↔ Canonical s := .rfl
@[simp] theorem faultJobs_canonical {l : List Nat} (hs : Canonical s) : Canonical (faultJobs s l code) := by simp +contextual [faultJobs, hs]
@[simp] theorem markCellRetired_canonical (hs : Canonical s) : Canonical (markCellRetired s c) := by
  fun_cases markCellRetired s c <;> simp +zetaDelta [hs]

@[simp] theorem retireCell_canonical {unc : Bool} (hs : Canonical s) : Canonical (retireCell s c unc) := by simp [retireCell, hs]
@[simp] theorem retireBank_canonical {b : Nat} {unc : Bool} (hs : Canonical s) : Canonical (retireBank s b unc) := by simp [retireBank, hs]
@[simp] theorem startHold_canonical {computeOnly : Bool} : Canonical (startHold s d computeOnly) ↔ Canonical s := by simp [startHold]
@[simp] theorem afterHbm_canonical {h : Nat} (hs : Canonical s) : Canonical (afterHbm s h) := by simp [afterHbm, hs]
@[simp] theorem retireHbm_canonical {h : Nat} (hs : Canonical s) : Canonical (retireHbm s h) := by simp [retireHbm, hs]
@[simp] theorem retirePc_canonical {h pc : Nat} (hs : Canonical s) : Canonical (retirePc s h pc) := by simp [retirePc, hs]
@[simp] theorem bumpDist_canonical : Canonical (bumpDist s) ↔ Canonical s := .rfl
@[simp] theorem retirePav_canonical {p : Nat} (hs : Canonical s) : Canonical (retirePav s p) := by
  fun_cases retirePav s p <;> simp +zetaDelta [hs]

@[simp] theorem countEcc_canonical {a : Nat} {bad : Bool} (hs : Canonical s) : Canonical (countEcc s a bad) := by
  fun_cases countEcc s a bad <;> simp +zetaDelta [hs]

@[simp] theorem systemError_canonical {a : Nat} (hs : Canonical s) : Canonical (systemError s a) := by
  unfold systemError
  split <;> simp [hs]

@[simp] theorem meetErrors_canonical {a : Nat} (hs : Canonical s) : Canonical (meetErrors s a n) := by
  unfold meetErrors
  refine foldl_canonical (fun s e h => ?_) hs
  have counted : Canonical (countEcc s e.1 e.2) := countEcc_canonical h
  dsimp only
  split
  · exact systemError_canonical counted
  · exact counted

@[simp] theorem meetPieces_canonical {l : List Piece} (hs : Canonical s) : Canonical (meetPieces s l) := by
  unfold meetPieces
  refine foldl_canonical (fun s p h => ?_) hs
  split <;> simp [h]

@[simp] theorem meetRanges_canonical {jb : Job} {item : Option Nat} (hs : Canonical s) : Canonical (meetRanges s jb item rs) := by
  refine foldl_canonical (fun s r h => foldl_canonical (fun s q h => ?_) h) hs
  repeat' split
  all_goals simp [h]

/-! ### Pages -/

@[simp] theorem takeFrame_canonical {f : Nat} {st : FState} : Canonical (takeFrame s j f st) ↔ Canonical s := by
  simp [takeFrame]

@[simp] theorem startMove_canonical {fromA f : Nat} {pageIn : Bool} : Canonical (startMove s j vpn fromA f pageIn) ↔ Canonical s := by
  simp [startMove]

@[simp] theorem evict_canonical : Canonical ((evict s j d).1) ↔ Canonical s := by
  fun_cases evict s j d <;> simp +zetaDelta

@[simp] theorem requestPageIn_canonical {l : Leaf} : Canonical (requestPageIn s j vpn l) ↔ Canonical s := by
  fun_cases requestPageIn s j vpn l <;> simp +zetaDelta

@[simp] theorem startWaiting_canonical : Canonical (startWaiting s j d) ↔ Canonical s := by
  fun_cases startWaiting s j d <;> simp

@[simp] theorem installPage_canonical {who : Option Nat} {item : Option Nat} : Canonical (installPage s who j item d va) ↔ Canonical s := by
  unfold installPage
  dsimp only
  repeat' split
  all_goals simp

@[simp] theorem touchPage_canonical {who : Option Nat} {item : Option Nat} : Canonical (touchPage s who j item d va) ↔ Canonical s := by
  fun_cases touchPage s who j item d va <;> simp +zetaDelta

@[simp] theorem touchRanges_canonical {who : Option Nat} {item : Option Nat} : Canonical (touchRanges s who j item d rs) ↔ Canonical s := by
  simp [touchRanges]

/-! ### Work items -/

@[simp] theorem oweRcp_canonical {e : StashEntry} : Canonical (oweRcp s j e) ↔ Canonical s := by
  unfold oweRcp
  refine foldl_canonical_iff (fun s a => ?_) _ _
  dsimp only
  repeat' split
  all_goals simp

/-! ### Waits and held items -/

@[simp] theorem sendWait_canonical {agent : Nat} {ok : Bool} : Canonical (sendWait s agent ok) ↔ Canonical s := .rfl

@[simp] theorem countBelv_canonical {p : Nat} : Canonical (countBelv s n p) ↔ Canonical s := by
  fun_cases countBelv s n p <;> simp

@[simp] theorem countHeld_canonical : Canonical (countHeld s d) ↔ Canonical s := by
  fun_cases countHeld s d <;> simp

@[simp] theorem expireObj_canonical : Canonical (expireObj s i) ↔ Canonical s := by
  fun_cases expireObj s i <;> simp +zetaDelta

@[simp] theorem expireWaits_canonical : Canonical (expireWaits s) ↔ Canonical s := by simp [expireWaits]

@[simp] theorem passTicks_canonical : Canonical (passTicks s n) ↔ Canonical s := by
  unfold passTicks
  rw [expireWaits_canonical, foldl_canonical_iff fun _ _ => countHeld_canonical]
  split
  · exact foldl_canonical_iff (fun _ _ => countBelv_canonical) ..
  · exact .rfl

@[simp] theorem advanceTo_canonical : Canonical (advanceTo s t) ↔ Canonical s := by simp [advanceTo]

/-! ### Packets, channels, combining, requests -/

@[simp] theorem putSent_canonical {l : Nat} {p : Packet} : Canonical (putSent s l p) ↔ Canonical s := by
  unfold putSent
  split <;> exact .rfl

@[simp] theorem holdPacket_canonical {p : Packet} : Canonical (holdPacket s d p) ↔ Canonical s := .rfl
@[simp] theorem emitOn_canonical {p : Packet} : Canonical (emitOn s d n p) ↔ Canonical s := by
  unfold emitOn
  split <;> simp

@[simp] theorem emit_canonical {p : Packet} : Canonical (emit s d p) ↔ Canonical s := by
  fun_cases emit s d p <;> simp

@[simp] theorem releaseOne_canonical {h : Nat × Packet × Nat} : Canonical (releaseOne s d h) ↔ Canonical s := by
  fun_cases releaseOne s d h <;> simp

@[simp] theorem releaseHeld_canonical : Canonical (releaseHeld s d) ↔ Canonical s := by simp [releaseHeld]
@[simp] theorem returnTag_canonical {tag gen : Nat} : Canonical (returnTag s d tag gen) ↔ Canonical s := .rfl
@[simp] theorem endChannel_canonical (hs : Canonical s) : Canonical (endChannel s d id) := by
  unfold endChannel
  split
  · exact hs
  · refine foldl_canonical (fun s p h => ?_) (modFab_canonical.2 hs)
    split <;> simp [h]

@[simp] theorem sendNow_canonical {e : SendCh} {p : SentPkt} (hs : Canonical s) : Canonical (sendNow s d e p) := by
  fun_cases sendNow s d e p <;> simp +zetaDelta [hs]

@[simp] theorem joinChannel_canonical {sp : SentPkt} (hs : Canonical s) : Canonical (joinChannel s d sp) := by
  fun_cases joinChannel s d sp <;> simp [hs]

@[simp] theorem sendSeq_canonical {p : Packet} {job : Option Nat} {who : Option (Nat × Nat)} (hs : Canonical s) :
    Canonical (sendSeq s d p job who) := by
  simp [sendSeq, hs]

@[simp] theorem serveChannels_canonical (hs : Canonical s) : Canonical (serveChannels s d) := by simp +contextual [serveChannels, hs]
@[simp] theorem resendAll_canonical {e : SendCh} {path : Option Nat} {count : Bool} : Canonical (resendAll s d e path count) ↔ Canonical s := by
  unfold resendAll
  dsimp only
  repeat' split
  all_goals simp

@[simp] theorem drainChannel_canonical {fuel : Nat} (hs : Canonical s) : Canonical (drainChannel fuel s d id) := by
  fun_induction drainChannel fuel s d id <;> simp_all +contextual +zetaDelta

@[simp] theorem movePaths_canonical (hs : Canonical s) : Canonical (movePaths s d) := by
  refine serveChannels_canonical (foldl_canonical (fun s e h => ?_) hs)
  repeat' split
  all_goals simp [h]

@[simp] theorem modComb_canonical {f : Comb → Comb} : Canonical (modComb s d id f) ↔ Canonical s := .rfl
@[simp] theorem dropComb_canonical : Canonical (dropComb s d id) ↔ Canonical s := .rfl
@[simp] theorem openComb_canonical {p : Packet} {sent : Bool} : Canonical ((openComb s d p sent).1) ↔ Canonical s := .rfl
@[simp] theorem joinComb_canonical {c : Comb} {p : Packet} : Canonical (joinComb s d c p) ↔ Canonical s := by simp [joinComb]
@[simp] theorem combineAtom_canonical {p : Packet} : Canonical (combineAtom s d p) ↔ Canonical s := by
  fun_cases combineAtom s d p <;> simp

@[simp] theorem combineOwnRd_canonical {p : Packet} : Canonical (combineOwnRd s d p) ↔ Canonical s := by
  unfold combineOwnRd
  split <;> simp

@[simp] theorem launchReq_canonical {o : OutReq} (hs : Canonical s) : Canonical (launchReq s d o) := by
  fun_cases launchReq s d o <;> simp [hs]

@[simp] theorem sendReq_canonical {o : OutReq} (hs : Canonical s) : Canonical (sendReq s d o) := by fun_cases sendReq s d o <;> simp [hs]
@[simp] theorem sendRequest_canonical {p : Packet} {cls : BitVec 2} {job : Nat} {who : ReqFor} (hs : Canonical s) :
    Canonical (sendRequest s d p cls job who) := by
  simp [sendRequest, hs]

@[simp] theorem serveTags_canonical (hs : Canonical s) : Canonical (serveTags s d) := by fun_cases serveTags s d <;> simp [hs]
@[simp] theorem sendReads_canonical {epoch : BitVec 16} {comb : Bool} {job : Nat} {who : Nat → ReqFor} {fuel addr : Nat} (hs : Canonical s) :
    Canonical (sendReads s d epoch comb job who fuel addr n k) := by
  fun_induction sendReads s d epoch comb job who fuel addr n k <;> simp_all +contextual +zetaDelta

@[simp] theorem sendWrites_canonical {epoch : BitVec 16} {job : Nat} {who : Option (Nat × Nat)} {fuel addr : Nat} {l : List Byte} (hs : Canonical s) :
    Canonical (sendWrites s d epoch job who fuel addr l) := by
  fun_induction sendWrites s d epoch job who fuel addr l <;> simp_all +contextual +zetaDelta

@[simp] theorem countReject_canonical {target : BitVec 16} : Canonical (countReject s d code target) ↔ Canonical s := .rfl
@[simp] theorem setLine_canonical {f : Nat} {x : MLine} : Canonical (setLine s f x) ↔ Canonical s := .rfl
@[simp] theorem askLine_canonical {f : Nat} {job : Nat} {excl : Bool} (hs : Canonical s) : Canonical (askLine s f job excl) := by
  simp [askLine, hs]

@[simp] theorem waitLine_canonical {f : Nat} {w : LineWait} (hs : Canonical s) : Canonical (waitLine s f w) := by simp [waitLine, hs]
@[simp] theorem setDirLine_canonical {r : Nat} {x : DLine} : Canonical (setDirLine s r n x) ↔ Canonical s := .rfl
@[simp] theorem recallFrom_canonical {r : Nat} {down : Bool} {members : List (BitVec 16)} (hs : Canonical s) :
    Canonical (recallFrom s r n down members) := by
  simp +contextual [recallFrom, hs]

@[simp] theorem recallRange_canonical {jb : Job} {k : Acc} {len : Nat} (hs : Canonical s) : Canonical (recallRange s jb k va len) := by
  simp +contextual [recallRange, hs]

/-! ### Issue -/

@[simp] theorem issued_canonical : Canonical (issued s c e) ↔ Canonical s := by
  rw [canonical_iff, issued_mem, issued_host, canonical_iff]

@[simp] theorem waitMiss_canonical : Canonical (waitMiss s c t) ↔ Canonical s := .rfl
@[simp] theorem releaseFence_canonical : Canonical (releaseFence s c t stamp) ↔ Canonical s := .rfl
@[simp] theorem recallFor_canonical (hs : Canonical s) : Canonical (recallFor s c e) := by
  unfold recallFor
  dsimp only
  split
  · exact hs
  · refine foldl_canonical (fun s f h => ?_) hs
    split
    · exact foldl_canonical (fun _ _ h => recallRange_canonical h) h
    · exact h

@[simp] theorem issue_canonical {w : Word} {f : State → Entry → State} (hf : ∀ u x, Canonical u → Canonical (f u x)) (hs : Canonical s) :
    Canonical (issue s c t w f) := by
  fun_cases issue s c t w f <;> simp [hs, hf]

/-! ### Accesses of a cell -/

@[simp] theorem faultAt_canonical {glob : Bool} {addr : Nat} (hs : Canonical s) : Canonical (faultAt s c e glob addr code) := by
  simp [faultAt, hs]

@[simp] theorem faultSpots_canonical {glob : Bool} {k : Acc} {noHost : Bool} {l : List Extent} (hs : Canonical s) :
    Canonical (faultSpots s c e glob k noHost l) := by
  fun_cases faultSpots s c e glob k noHost l <;> simp +zetaDelta [hs]

@[simp] theorem globalAccess_canonical {k : Acc} {f : State → List Piece → State} (hf : ∀ u x, Canonical u → Canonical (f u x)) (hs : Canonical s) :
    Canonical (globalAccess s c e k rs f) := by
  fun_cases globalAccess s c e k rs f <;> simp [hs, hf]

@[simp] theorem blockAccess_canonical {k : Acc} {f : State → List Piece → State} (hf : ∀ u x, Canonical u → Canonical (f u x)) (hs : Canonical s) :
    Canonical (blockAccess s c e k rs f) := by
  simp +contextual [blockAccess, hs, hf]

@[simp] theorem localAccess_canonical {write : Bool} {f : Cell → Cell} (hs : Canonical s) : Canonical (localAccess s c e write rs f) := by
  fun_cases localAccess s c e write rs f <;> simp [hs]

@[simp] theorem readLines_canonical {job : Nat} {who : Nat → ReqFor} {m : Map Byte} {f : Nat} (hs : Canonical s) :
    Canonical ((readLines s job who m f n k).1) := by
  refine foldl_fst_canonical (fun t q h => ?_) hs
  dsimp only
  split <;> simp [h]

@[simp] theorem fetchPieces_canonical {comb : Bool} {who : Nat → ReqFor} {l : List Piece} {m : Map Byte} (hs : Canonical s) :
    Canonical ((fetchPieces s c comb who l k m).1) := by
  fun_induction fetchPieces s c comb who l k m <;> simp_all +contextual +zetaDelta

@[simp] theorem startRead_canonical {fl : Flight} {ps : List Piece} {fin : List Byte → List Byte} (hs : Canonical s) :
    Canonical (startRead s c fl ps fin) := by
  simp [startRead, hs]

@[simp] theorem writeLines_canonical {job f : Nat} {l : List Byte} (hs : Canonical s) : Canonical ((writeLines s job c stamp f l).1) := by
  refine foldl_fst_canonical (fun t q h => ?_) hs
  dsimp only
  split <;> simp [h]

@[simp] theorem pushPieces_canonical {l : List Piece} {b : List Byte} (hs : Canonical s) : Canonical ((pushPieces s c stamp l b n).1) := by
  fun_induction pushPieces s c stamp l b n <;> simp_all +contextual +zetaDelta

@[simp] theorem startWrite_canonical {fl : Flight} {ps : List Piece} {l : List Byte} (hs : Canonical s) : Canonical (startWrite s c fl rs ps l) := by
  fun_cases startWrite s c fl rs ps l <;> simp +zetaDelta [hs]

/-! ### Reads, writes and jumps -/

@[simp] theorem issueB_canonical {f : BFields} {g : State → Entry → State} (hg : ∀ u x, Canonical u → Canonical (g u x)) (hs : Canonical s) :
    Canonical (issueB s c t op f g) := by
  simp +contextual [issueB, hs, hg]

@[simp] theorem jump_canonical : Canonical (jump s c t n) ↔ Canonical s := .rfl
@[simp] theorem jumpTo_canonical {pc : Nat} {a : Word} {g : State → State} (hg : ∀ u, Canonical u → Canonical (g u)) (hs : Canonical s) :
    Canonical (jumpTo s c t pc a g) := by
  simp [jumpTo, hs, hg]

@[simp] theorem putS_canonical : Canonical (putS s c t d v) ↔ Canonical s := .rfl
@[simp] theorem branch_canonical {f : BFields} {cmp : Word → Word → Bool} (hs : Canonical s) : Canonical (branch s c t op f cmp) := by
  simp [branch, hs]

/-! ### The Icehouse -/

@[simp] theorem modIce_canonical {f : Ice → Ice} : Canonical (modIce s j d f) ↔ Canonical s := .rfl
@[simp] theorem startSpill_canonical {e : StashEntry} : Canonical (startSpill s j d e) ↔ Canonical s := .rfl
@[simp] theorem startRefill_canonical {e : StashEntry} : Canonical (startRefill s j d e) ↔ Canonical s := .rfl
@[simp] theorem storeFreed_canonical : Canonical (storeFreed s j d) ↔ Canonical s := .rfl
@[simp] theorem freePages_canonical {l : List Nat} (hs : Canonical s) : Canonical (freePages s j d l) := by
  unfold freePages
  dsimp only
  split
  · exact storeFreed_canonical.2 (foldl_canonical (fun _ _ h => canonical_withMem h (Memory.wf_memZero _ _ _ h.mem)) hs)
  · exact foldl_canonical (fun _ _ h => canonical_withMem h (Memory.wf_memZero _ _ _ h.mem)) hs

@[simp] theorem sweepEntries_canonical (hs : Canonical s) : Canonical (sweepEntries s j d) := by simp [sweepEntries, hs]
@[simp] theorem dropEntry_canonical {e : StashEntry} (hs : Canonical s) : Canonical (dropEntry s j d e) := by simp [dropEntry, hs]
@[simp] theorem noteStuck_canonical : Canonical (noteStuck s j) ↔ Canonical s := .rfl
@[simp] theorem stashFrame_canonical {phase fuel : Nat} (hs : Canonical s) : Canonical ((stashFrame phase j d fuel s).1) := by
  fun_induction stashFrame phase j d fuel s <;> simp_all +contextual +zetaDelta

@[simp] theorem endMove_canonical {fromA toA : Nat} (hs : Canonical s) : Canonical (endMove s j d fromA toA) := by
  have copied : Canonical { s with mem := memZero (memWrite s.mem toA (memRead s.mem fromA 65536)) fromA 65536 } :=
    canonical_withMem hs (Memory.wf_memZero _ _ _ (Memory.wf_memWrite _ _ _ hs.mem))
  unfold endMove
  dsimp only
  rw [modIce_canonical]
  split
  · rwa [storeFreed_canonical, invalidate_canonical]
  · rwa [invalidate_canonical]

@[simp] theorem exhausted_canonical (hs : Canonical s) : Canonical (exhausted s j) := by
  unfold exhausted
  refine modJob_canonical.2 (foldl_canonical (fun _ _ h => freePages_canonical h) ?_)
  repeat' split
  all_goals simp [hs]

/-! ### Vector instructions -/

@[simp] theorem vecOp_canonical {f : VFields} {g : Nat → State → Entry → Cell → Cell} (hs : Canonical s) : Canonical (vecOp s c t op f g) := by
  simp [vecOp, hs]

@[simp] theorem vec1_canonical {f : VFields} {g : Nat → Nat} (hs : Canonical s) : Canonical (vec1 s c t op f g) := by simp [vec1, hs]
@[simp] theorem vec2_canonical {f : VFields} {g : Nat → Nat → Nat} (hs : Canonical s) : Canonical (vec2 s c t op f g) := by simp [vec2, hs]
@[simp] theorem vecF1_canonical {f : VFields} {g : FVal → FVal} (hs : Canonical s) : Canonical (vecF1 s c t op f g) := by simp [vecF1, hs]
@[simp] theorem vecF2_canonical {f : VFields} {g : FVal → FVal → FVal} (hs : Canonical s) : Canonical (vecF2 s c t op f g) := by
  simp [vecF2, hs]

@[simp] theorem vecFS_canonical {f : VFields} {g : FVal → FVal → FVal} (hs : Canonical s) : Canonical (vecFS s c t op f g) := by
  simp [vecFS, hs]

@[simp] theorem vecI2_canonical {f : VFields} {g : Nat → Nat → Nat → Nat} (hs : Canonical s) : Canonical (vecI2 s c t op f g) := by
  simp [vecI2, hs]

@[simp] theorem vecSfu_canonical {f : VFields} {fn : SfuFn} (hs : Canonical s) : Canonical (vecSfu s c t op f fn) := by simp [vecSfu, hs]
@[simp] theorem vecDeriv_canonical {f : VFields} {g : FVal → FVal → FVal} (hs : Canonical s) : Canonical (vecDeriv s c t op f g) := by
  simp [vecDeriv, hs]

@[simp] theorem vecCmp_canonical {f : VFields} {k : CmpOp} (hs : Canonical s) : Canonical (vecCmp s c t op f k) := by simp [vecCmp, hs]
@[simp] theorem vecTest_canonical {f : VFields} {g : FVal → Bool} (hs : Canonical s) : Canonical (vecTest s c t op f g) := by
  simp [vecTest, hs]

@[simp] theorem maskOp_canonical {f : VFields} {g : BitVec 1024 → BitVec 1024 → BitVec 1024} (hs : Canonical s) :
    Canonical (maskOp s c t op f g) := by
  simp [maskOp, hs]

@[simp] theorem vecReduce_canonical {f : VFields} {row : Bool} {g : List FVal → FVal} (hs : Canonical s) :
    Canonical (vecReduce s c t op f row g) := by
  simp [vecReduce, hs]

/-! ### Pages of a shard -/

@[simp] theorem pageWrite_canonical {m : Map Leaf} {l : List Byte} (hs : Canonical s) : Canonical (pageWrite s m va l) := by
  refine foldl_fst_canonical (fun r b h => ?_) hs
  dsimp only
  split
  · exact canonical_withMem h (Memory.wf_mset _ _ _ h.mem)
  · exact h

@[simp] theorem putVer_canonical {m : Map Leaf} {l : List Byte} (hs : Canonical s) : Canonical (putVer s sh m l) := by
  have put : ∀ (t : State) (l : List Nat) (va : Nat → Nat) (bytes : Nat → List Byte), Canonical t →
      Canonical (l.foldl (fun t b => pageWrite t m (va b) (bytes b)) t) :=
    fun _ _ _ _ h => foldl_canonical (fun _ _ h => pageWrite_canonical h) h
  unfold putVer
  dsimp only
  split
  · exact put _ _ _ _ (put _ _ _ _ hs)
  · exact put _ _ _ _ hs

/-! ### Allocation -/

@[simp] theorem issueR_canonical {cls : Nat} {f : RFields} {g : State → Entry → State} (hg : ∀ u x, Canonical u → Canonical (g u x))
    (hs : Canonical s) :
    Canonical (issueR s c t cls op f g) := by
  simp +contextual [issueR, hs, hg]

@[simp] theorem modItem_canonical {f : Item → Item} : Canonical (modItem s j i f) ↔ Canonical s := .rfl
@[simp] theorem openStaging_canonical {d : SlotDecl} {inst : Option Nat} : Canonical (openStaging s j i k d inst) ↔ Canonical s := by
  fun_cases openStaging s j i k d inst <;> simp +zetaDelta

@[simp] theorem placePage_canonical {p f loc : Nat} {rm : Bool} {inst : Option Nat} :
    Canonical (placePage s j i k p f loc rm inst) ↔ Canonical s := by
  unfold placePage
  split <;> simp

theorem placeAll_canonical {d : SlotDecl} {inst : Option Nat} {l : List Nat} (h : placeAll j c i k it d inst s l = .inl (some u)) (hs : Canonical s) :
    Canonical u := by
  fun_induction placeAll j c i k it d inst s l with
  | case1 =>
    cases h
    exact hs
  | case2 => cases h
  | case3 => cases h
  | case4 s p rest f loc eq ih => exact ih h (placePage_canonical.2 (takeFrame_canonical.2 hs))

@[simp] theorem stashAll_canonical {phase : Nat} {l : List Nat} (hs : Canonical s) : Canonical ((stashAll j i k phase d s l).1) := by
  fun_induction stashAll j i k phase d s l with
  | case1 => exact hs
  | case2 s p rest t forStore eq => exact (congrArg (Canonical ·.1) eq).mp (stashFrame_canonical hs)
  | case3 s p rest t f eq ih => exact ih (placePage_canonical.2 ((congrArg (Canonical ·.1) eq).mp (stashFrame_canonical hs)))

@[simp] theorem giveShare_canonical {r share : Nat} : Canonical ((giveShare s j i k r off share).state) ↔ Canonical s := modItem_canonical ..
@[simp] theorem allocOut_canonical {a b : Word} (hs : Canonical s) : Canonical ((allocOut s c a b).state) := by
  fun_cases allocOut s c a b with
  | case5 => exact draw_canonical.2 hs
  | case7 x j jb i it _ _ d _ k share used off inst taken _ _ _ _ t g _ pages _ u stashed =>
    have staged : Canonical (stashAll j i k it.phase it.die t pages).1 := stashAll_canonical (openStaging_canonical.2 hs)
    exact giveShare_canonical.2 ((congrArg (Canonical ·.1) stashed).mp staged)
  | case8 x j jb i it _ _ d _ k share used off inst taken _ _ _ _ t g _ pages _ u forStore stashed =>
    have staged : Canonical (stashAll j i k it.phase it.die t pages).1 := stashAll_canonical (openStaging_canonical.2 hs)
    exact (congrArg (Canonical ·.1) stashed).mp staged
  | case11 x j jb i it _ _ d _ k share used off inst taken _ _ _ _ t g _ pages _ u placed =>
    exact giveShare_canonical.2 (placeAll_canonical placed (openStaging_canonical.2 hs))
  | _ => exact hs

theorem tmpPages_canonical {l : List Nat} (h : tmpPages j c i s l = .inl (some u)) (hs : Canonical s) : Canonical u := by
  fun_induction tmpPages j c i s l with
  | case1 =>
    cases h
    exact hs
  | case2 => cases h
  | case3 => cases h
  | case4 s vpn rest f loc eq t ih => exact ih h (modItem_canonical.2 (takeFrame_canonical.2 hs))

@[simp] theorem allocTmp_canonical {b : Word} (hs : Canonical s) : Canonical ((allocTmp s c b).state) := by
  fun_cases allocTmp s c b with
  | case6 x j i eq n pos fits va u pages => exact modItem_canonical.2 (tmpPages_canonical pages (draw_canonical.2 hs))
  | _ => exact hs

@[simp] theorem freeTmp_canonical {a : Word} (hs : Canonical s) : Canonical ((freeTmp s c a).state) := by
  unfold freeTmp
  dsimp only
  repeat' split
  · exact hs
  · exact modItem_canonical.2 (releaseFrames_canonical (invalidate_canonical.2 (draw_canonical.2 hs)))
  · exact hs

@[simp] theorem requestAlloc_canonical {free kind : Nat} : Canonical (requestAlloc s c e free kind) ↔ Canonical s := .rfl
@[simp] theorem performAlloc_canonical {a : AllocReq} (hs : Canonical s) : Canonical ((performAlloc s c a).state) := by
  unfold performAlloc
  repeat' split
  · exact allocOut_canonical hs
  · exact allocTmp_canonical hs
  · exact hs
  · exact freeTmp_canonical hs

@[simp] theorem answered_canonical {a : AllocReq} : Canonical (answered s c a v) ↔ Canonical s := .rfl
@[simp] theorem markWaiting_canonical {a : AllocReq} {forStore : Bool} : Canonical (markWaiting s c a forStore) ↔ Canonical s := .rfl
@[simp] theorem serveAlloc_canonical {a : AllocReq} (hs : Canonical s) : Canonical (serveAlloc s c a) := by
  have performed : Canonical (performAlloc s c a).state := performAlloc_canonical hs
  unfold serveAlloc
  split <;> rename_i eq <;> rw [eq] at performed
  · exact answered_canonical.2 performed
  · split
    · exact markWaiting_canonical.2 performed
    · exact performed

@[simp] theorem bedReported_canonical : Canonical (bedReported j i s) ↔ Canonical s := by
  unfold bedReported
  split <;> simp

@[simp] theorem reportCell_canonical : Canonical (reportCell s c) ↔ Canonical s := by
  fun_cases reportCell s c <;> simp +zetaDelta

/-! ### Bellows -/

@[simp] theorem qLoad_canonical {free : Nat} {f : RFields} (hs : Canonical s) : Canonical (qLoad free s c t e f) := by
  fun_cases qLoad free s c t e f <;> simp [hs]

@[simp] theorem takeClaims_canonical {f : List (List Byte × List Byte) → Cell → Cell} (hs : Canonical s) : Canonical (takeClaims s c e f) := by
  fun_cases takeClaims s c e f <;> simp [hs]

@[simp] theorem countPageIn_canonical : Canonical (countPageIn s c va) ↔ Canonical s := by
  fun_cases countPageIn s c va <;> simp

@[simp] theorem sendWant_canonical {w : Want} {p : Nat × Option Nat} {offs : List Nat} {ps : List Piece} {bad : Bool} (hs : Canonical s) :
    Canonical (sendWant s c w p offs ps bad) := by
  fun_cases sendWant s c w p offs ps bad <;> simp +zetaDelta [hs]

@[simp] theorem bellowsFetch_canonical {w : Want} (hs : Canonical s) : Canonical (bellowsFetch s c w) := by
  fun_cases bellowsFetch s c w <;> simp +zetaDelta [hs]

/-! ### Tiles and masks -/

@[simp] theorem issueVM_canonical {f : VMFields} {g : State → Entry → State} (hg : ∀ u x, Canonical u → Canonical (g u x)) (hs : Canonical s) :
    Canonical (issueVM s c t op f g) := by
  simp +contextual [issueVM, hs, hg]

@[simp] theorem loadTile_canonical {free : Nat} (hs : Canonical s) : Canonical (loadTile s c e free) := by
  fun_cases loadTile s c e free <;> simp +contextual [hs]

@[simp] theorem storeRuns_canonical {glob : Bool} {runs : List (Nat × List Byte)} (hs : Canonical s) : Canonical (storeRuns s c e glob rs runs) := by
  unfold storeRuns
  split
  · refine globalAccess_canonical (fun t _ h => ?_) hs
    dsimp only
    split <;> simp [h]
  · exact localAccess_canonical hs

@[simp] theorem storeTile_canonical {free : Nat} (hs : Canonical s) : Canonical (storeTile s c e free) := by
  fun_cases storeTile s c e free <;> simp [hs]

@[simp] theorem loadMask_canonical {free : Nat} (hs : Canonical s) : Canonical (loadMask s c e free) := by simp +contextual [loadMask, hs]
@[simp] theorem storeMask_canonical {free : Nat} (hs : Canonical s) : Canonical (storeMask s c e free) := by simp [storeMask, hs]

/-! ### Anvil and Tongs -/

@[simp] theorem startMma_canonical {free : Nat} (hs : Canonical s) : Canonical (startMma free s c e) := by
  unfold startMma
  exact takeClaims_canonical hs

@[simp] theorem issueX_canonical {f : XFields} (hs : Canonical s) : Canonical (issueX s c t op f) := by simp +contextual [issueX, hs]
@[simp] theorem readOperand_canonical {free : Nat} {isB : Bool} {f : Foot} (hs : Canonical s) : Canonical (readOperand free s c e isB f) := by
  fun_cases readOperand free s c e isB f <;> simp +contextual [hs]

/-! ### Memory instructions -/

@[simp] theorem issueM_canonical {cls : Nat} {f : MFields} {g : State → Entry → State} (hg : ∀ u x, Canonical u → Canonical (g u x))
    (hs : Canonical s) :
    Canonical (issueM s c t cls op f g) := by
  simp +contextual [issueM, hs, hg]

@[simp] theorem loadScalar_canonical {free : Nat} (hs : Canonical s) : Canonical (loadScalar s c e free) := by
  simp +contextual [loadScalar, hs]

@[simp] theorem storeScalar_canonical {free : Nat} (hs : Canonical s) : Canonical (storeScalar s c e free) := by
  simp +contextual [storeScalar, hs]

@[simp] theorem startAtomic_canonical {op : AtomOp} {free : Nat} (hs : Canonical s) : Canonical (startAtomic s c e op free) := by
  unfold startAtomic
  dsimp only
  split
  · exact faultAt_canonical hs
  · refine globalAccess_canonical (fun t ps h => ?_) hs
    split <;> simp [h]

/-! ### Operations on objects -/

@[simp] theorem startFence_canonical {cell : Bool} : Canonical (startFence s c e cell) ↔ Canonical s := .rfl
@[simp] theorem enqueue_canonical {o : Nat} {op : PortOp} : Canonical (enqueue s o op) ↔ Canonical s := .rfl
@[simp] theorem syncOp_canonical {free : Nat} {arrive : Bool} {g : State → Nat → State} {far : State → Nat → State}
    (hg : ∀ u x, Canonical u → Canonical (g u x)) (hfar : ∀ u x, Canonical u → Canonical (far u x)) (hs : Canonical s) :
    Canonical (syncOp s c e free arrive g far) := by
  fun_cases syncOp s c e free arrive g far <;> simp [hs, hg, hfar]

@[simp] theorem postOp_canonical {o : Nat} {op : PortOp} : Canonical (postOp s c e o op) ↔ Canonical s := .rfl
@[simp] theorem farArrive_canonical {v : BitVec 32} {f : Nat} (hs : Canonical s) : Canonical (farArrive s c e v f) := by simp [farArrive, hs]
@[simp] theorem startWait_canonical {o : Nat} {ticks : Option Nat} : Canonical (startWait s c e o ticks) ↔ Canonical s := .rfl

/-! ### The Hearth -/

@[simp] theorem evaluate_canonical : Canonical (evaluate s i) ↔ Canonical s := by simp [evaluate]
@[simp] theorem noteTriggers_canonical : Canonical (noteTriggers s i) ↔ Canonical s := by
  refine foldl_canonical_iff (fun s j => ?_) _ _
  dsimp only
  split
  · rfl
  · refine foldl_canonical_iff (fun s e => ?_) _ _
    split <;> simp

@[simp] theorem settle_canonical {was : Bool} : Canonical (settle s i was) ↔ Canonical s := by simp [settle]
@[simp] theorem performed_canonical {who : Option (Nat × Nat)} : Canonical (performed s who) ↔ Canonical s := by
  unfold performed
  split <;> simp

@[simp] theorem applyUpdate_canonical {op : PortOp} : Canonical (applyUpdate s i op) ↔ Canonical s := by
  unfold applyUpdate
  split <;> simp

@[simp] theorem answerRead_canonical {w : Word} : Canonical (answerRead s c stamp w) ↔ Canonical s := .rfl
@[simp] theorem registerWait_canonical {agent : Nat} {ticks : Option Nat} : Canonical (registerWait s i agent ticks) ↔ Canonical s := by
  simp [registerWait]

@[simp] theorem answerOps_canonical {l : List PortOp} : Canonical ((answerOps i s l).1) ↔ Canonical s := by
  fun_induction answerOps i s l <;> simp [*]

@[simp] theorem portCycle_canonical : Canonical (portCycle s i) ↔ Canonical s := by
  unfold portCycle
  dsimp only
  repeat' split
  all_goals simp

@[simp] theorem countAtom_canonical {op : AtomOp} {a : Word} {old : List Byte} : Canonical (countAtom s d op a old) ↔ Canonical s := by
  simp [countAtom]

@[simp] theorem partsWrite_canonical {l : List (Nat × Nat)} {b : List Byte} (hs : Canonical s) : Canonical (partsWrite s l b) := by
  fun_induction partsWrite s l b <;> simp_all +contextual +zetaDelta

@[simp] theorem applyAtomic_canonical {r : HearthReq} (hs : Canonical s) : Canonical ((applyAtomic s d r).1) := by simp [applyAtomic, hs]
@[simp] theorem answerAtomic_canonical {op : AtomOp} {old : List Byte} : Canonical (answerAtomic s c stamp op old) ↔ Canonical s := .rfl

/-! ### Register writes -/

@[simp] theorem regWrite_canonical {base : Nat} {f : State → State} (hf : ∀ u, Canonical u → Canonical (f u)) (hs : Canonical s) :
    Canonical (regWrite s base off f) := by
  simp [regWrite, hs, hf]

@[simp] theorem checkWrite_canonical {base : Nat} {rejections : List (Bool × Nat)} {f : State → State} (hf : ∀ u, Canonical u → Canonical (f u))
    (hs : Canonical s) :
    Canonical (checkWrite s base off rejections f) := by
  unfold checkWrite
  split <;> simp +contextual [hs, hf]

/-! ### Responses, acknowledgements and lines -/

@[simp] theorem modFlight_canonical {p : Flight → Bool} {f : Flight → Flight} : Canonical (modFlight s c stamp p f) ↔ Canonical s := .rfl
@[simp] theorem modDescr_canonical {f : RunDescr → RunDescr} : Canonical (modDescr s d id f) ↔ Canonical s := .rfl
@[simp] theorem deliverPart_canonical {who : ReqFor} {l : List Byte} : Canonical (deliverPart s d who l) ↔ Canonical s := by
  unfold deliverPart
  split <;> simp

@[simp] theorem ackOne_canonical {who : Option (Nat × Nat)} : Canonical (ackOne s who) ↔ Canonical s := by
  unfold ackOne
  split <;> simp

@[simp] theorem rejectJob_canonical (hs : Canonical s) : Canonical (rejectJob s j code) := by simp [rejectJob, hs]
@[simp] theorem rejectPart_canonical {who : ReqFor} : Canonical (rejectPart s d code who n) ↔ Canonical s := by
  unfold rejectPart
  split <;> simp

@[simp] theorem countStale_canonical : Canonical (countStale s d) ↔ Canonical s := .rfl
@[simp] theorem endRequest_canonical {o : OutReq} (hs : Canonical s) : Canonical (endRequest s d o) := by simp [endRequest, hs]
@[simp] theorem completeRead_canonical {p : Packet} {o : OutReq} (hs : Canonical s) : Canonical (completeRead s d p o) := by
  fun_cases completeRead s d p o <;> simp +zetaDelta [hs]

@[simp] theorem sendRack_canonical {p : Packet} : Canonical (sendRack s d p) ↔ Canonical s := by simp [sendRack]
@[simp] theorem answerFlight_canonical {who : ReqFor} {old : Word} : Canonical (answerFlight s who old) ↔ Canonical s := by
  unfold answerFlight
  split <;> simp

@[simp] theorem rejectWrite_canonical {who : Option (Nat × Nat)} : Canonical (rejectWrite s code who) ↔ Canonical s := by
  unfold rejectWrite
  split <;> simp

@[simp] theorem rejectAtomic_canonical {who : ReqFor} : Canonical (rejectAtomic s d code who) ↔ Canonical s := by
  unfold rejectAtomic
  split <;> simp

@[simp] theorem tryXfer_canonical (hs : Canonical s) : Canonical (tryXfer s d) := by fun_cases tryXfer s d <;> simp +zetaDelta [hs]
@[simp] theorem tryXfers_canonical (hs : Canonical s) : Canonical (tryXfers s) := by simp +contextual [tryXfers, hs]
@[simp] theorem endXfer_canonical : Canonical (endXfer s d code) ↔ Canonical s := .rfl
@[simp] theorem covered_canonical {p : SentPkt} : Canonical (covered s d p) ↔ Canonical s := by simp [covered]
@[simp] theorem applyAck_canonical {e : SendCh} {next : BitVec 32} (hs : Canonical s) : Canonical (applyAck s d e next) := by
  unfold applyAck
  dsimp only
  split
  · exact hs
  · exact tryXfers_canonical (drainChannel_canonical (foldl_canonical (fun _ _ h => covered_canonical.2 h) (modFab_canonical.2 hs)))

@[simp] theorem writeBack_canonical {key : Nat} {x : MLine} (hs : Canonical s) : Canonical (writeBack s d key x) := by simp [writeBack, hs]
@[simp] theorem makeRoom_canonical (hs : Canonical s) : Canonical (makeRoom s d) := by fun_cases makeRoom s d <;> simp +zetaDelta [hs]
@[simp] theorem serveLine_canonical {f : Nat} {l : List LineWait} (hs : Canonical s) : Canonical (serveLine f s l) := by
  fun_induction serveLine f s l with
  | case1 => exact hs
  | case2 s w rest x none ih => exact ih (deliverPart_canonical.2 hs)
  | case3 s w rest x b some modified t ih =>
    refine ih ?_
    split <;> simp [hs, t]
  | case4 => simp [hs]

@[simp] theorem fillLine_canonical {f : Nat} {src : BitVec 16} {data : List Byte} (hs : Canonical s) : Canonical (fillLine s f code src data) := by
  unfold fillLine
  dsimp only
  split
  · refine foldl_canonical (fun t w h => rejectJob_canonical ?_) (countReject_canonical.2 (setLine_canonical.2 hs))
    split <;> simp [h]
  · simp [hs]

/-! ### Packets that arrive -/

@[simp] theorem recordEpoch_canonical {p : Packet} : Canonical (recordEpoch s d p) ↔ Canonical s := .rfl
@[simp] theorem touchInbound_canonical {k : Acc} {ps : List Piece} (hs : Canonical s) : Canonical (touchInbound s d j va n k ps) := by
  simp [touchInbound, hs]

@[simp] theorem answer_canonical {p : Packet} {typ : PType} {data : List Byte} : Canonical (answer s d p typ code data) ↔ Canonical s := by
  simp [answer]

@[simp] theorem answerStatus_canonical {p : Packet} : Canonical (answerStatus s d p code) ↔ Canonical s := by
  simp [answerStatus]

@[simp] theorem noteReject_canonical {p : Packet} (hs : Canonical s) : Canonical (noteReject s d p n code) := by simp [noteReject, hs]
theorem deliverRd_canonical {p : Packet} (h : deliverRd s d p = some u) (hs : Canonical s) : Canonical u := by
  unfold deliverRd at h
  split at h <;> cases h <;> simp +contextual [hs]

@[simp] theorem postArrive_canonical {v : BitVec 32} : Canonical (postArrive s i v) ↔ Canonical s := .rfl
theorem deliverWr_canonical {p : Packet} (h : deliverWr s d p = some u) (hs : Canonical s) : Canonical u := by
  unfold deliverWr at h
  split at h <;> cases h <;> simp +contextual [hs]

@[simp] theorem queueAtomic_canonical {p : Packet} {op : AtomOp} {ps : List Piece} : Canonical (queueAtomic s p op ps) ↔ Canonical s := .rfl
theorem startRemote_canonical {p : Packet} (h : startRemote s d p = some u) (hs : Canonical s) : Canonical u := by
  unfold startRemote at h
  repeat' split at h
  all_goals cases h
  all_goals simp +contextual [hs]

theorem deliverAtom_canonical {p : Packet} (h : deliverAtom s d p = some u) (hs : Canonical s) : Canonical u := by
  unfold deliverAtom at h
  repeat' split at h
  · cases h
    simp [hs]
  · cases h
    exact hs
  · exact startRemote_canonical h hs

@[simp] theorem applyMany_canonical {r : HearthReq} {l : List Byte} (hs : Canonical s) : Canonical (applyMany s d r n l) := by
  simp +contextual [applyMany, hs]

@[simp] theorem applyRemote_canonical {r : HearthReq} {p : Packet} (hs : Canonical s) : Canonical (applyRemote s d r p) := by
  unfold applyRemote
  split <;> simp [hs]

@[simp] theorem deliverArrive_canonical {p : Packet} (hs : Canonical s) : Canonical (deliverArrive s d p) := by
  fun_cases deliverArrive s d p <;> simp [hs]

@[simp] theorem deliverMark_canonical {p : Packet} : Canonical (deliverMark s d p) ↔ Canonical s := .rfl
@[simp] theorem deliverXfer_canonical {p : Packet} : Canonical (deliverXfer s d p) ↔ Canonical s := by simp [deliverXfer]
@[simp] theorem sendCdata_canonical {p : Packet} {data : List Byte} (hs : Canonical s) : Canonical (sendCdata s p code data) := by
  simp [sendCdata, hs]

theorem servePending_canonical {p : Packet} (h : servePending s p = some u) (hs : Canonical s) : Canonical u := by
  unfold servePending at h
  dsimp only at h
  repeat' split at h
  all_goals cases h
  all_goals simp +contextual [hs]

@[simp] theorem serveDir_canonical {fuel : Nat} {r : Nat} (hs : Canonical s) : Canonical (serveDir fuel s r n) := by
  fun_induction serveDir fuel s r n with
  | case4 fuel s r n p rest eq t h ih => exact ih (servePending_canonical h hs)
  | _ => exact hs

@[simp] theorem joinLine_canonical {p : Packet} (hs : Canonical s) : Canonical (joinLine s p) := by simp [joinLine, hs]
@[simp] theorem deliverCrd_canonical {p : Packet} (hs : Canonical s) : Canonical (deliverCrd s d p) := by
  fun_cases deliverCrd s d p <;> simp [hs]

@[simp] theorem deliverCoherentAtom_canonical {p : Packet} (hs : Canonical s) : Canonical (deliverCoherentAtom s d p) := by
  fun_cases deliverCoherentAtom s d p <;> simp [hs]

theorem storeLine_canonical {p : Packet} (h : storeLine s p = some u) (hs : Canonical s) : Canonical u := by
  unfold storeLine at h
  dsimp only at h
  split at h <;> cases h <;> simp +contextual [hs]

@[simp] theorem dropHolder_canonical {p : Packet} : Canonical (dropHolder s p) ↔ Canonical s := .rfl
theorem deliverCrack_canonical {p : Packet} (h : deliverCrack s d p = some u) (hs : Canonical s) : Canonical u := by
  unfold deliverCrack at h
  split at h
  · cases h
    simp [hs]
  · split at h
    · cases h
    · rename_i t stored
      have kept : Canonical t := by
        split at stored
        · cases stored
          exact hs
        · exact storeLine_canonical stored hs
      cases h
      simp [kept]

theorem deliverCwb_canonical {p : Packet} (h : deliverCwb s d p = some u) (hs : Canonical s) : Canonical u := by
  unfold deliverCwb at h
  split at h
  · cases h
    simp [hs]
  · obtain ⟨t, stored, rfl⟩ := Option.map_eq_some_iff.mp h
    exact dropHolder_canonical.2 (storeLine_canonical stored hs)

@[simp] theorem deliverCrecall_canonical {p : Packet} (hs : Canonical s) : Canonical (deliverCrecall s d p) := by simp [deliverCrecall, hs]
@[simp] theorem deliverCdata_canonical {p : Packet} (hs : Canonical s) : Canonical (deliverCdata s d p) := by simp [deliverCdata, hs]
theorem deliver1_canonical {p : Packet} (h : deliver1 s d p = some u) (hs : Canonical s) : Canonical u := by
  unfold deliver1 at h
  split at h
  · exact deliverRd_canonical h hs
  · exact deliverWr_canonical h hs
  · split at h
    · cases h
      simp [hs]
    · exact deliverAtom_canonical h hs
  case h_11 => exact deliverCrack_canonical h hs
  case h_12 => exact deliverCwb_canonical h hs
  all_goals
    cases h
    simp [hs]

@[simp] theorem holdRequest_canonical {p : Packet} : Canonical (holdRequest s d p) ↔ Canonical s := by simp [holdRequest]
theorem deliver1_getD_canonical {p : Packet} (hs : Canonical s) (kept : Canonical u) : Canonical ((deliver1 s d p).getD u) := by
  cases h : deliver1 s d p with
  | none => exact kept
  | some u => exact deliver1_canonical h hs

@[simp] theorem serveWaiting_canonical (hs : Canonical s) : Canonical (serveWaiting s d) := by
  refine foldl_canonical (fun _ _ h => serveDir_canonical h) (foldl_canonical (fun t p h => ?_) hs)
  exact deliver1_getD_canonical (modFab_canonical.2 h) h

@[simp] theorem sendAck_canonical {e : RecvCh} : Canonical (sendAck s d e) ↔ Canonical s := by simp [sendAck]
@[simp] theorem deliverHeld_canonical {fuel : Nat} {key : Packet} (hs : Canonical s) : Canonical (deliverHeld fuel s d key) := by
  fun_induction deliverHeld fuel s d key with
  | case5 fuel s d key e _ p _ t h u ih => exact ih (modFab_canonical.2 (deliver1_canonical h hs))
  | _ => exact hs

@[simp] theorem countDup_canonical : Canonical (countDup s d) ↔ Canonical s := .rfl
@[simp] theorem receiveSeq_canonical {p : Packet} (hs : Canonical s) : Canonical (receiveSeq s d p) := by
  fun_cases receiveSeq s d p with
  | case4 e found room e' k inTurn t h u =>
    exact deliverHeld_canonical (modFab_canonical.2 (deliver1_canonical h (modFab_canonical.2 hs)))
  | _ => simp +zetaDelta [hs]

@[simp] theorem takePacket_canonical {p : Packet} {typ : PType} (hs : Canonical s) : Canonical (takePacket s d p typ) := by
  unfold takePacket
  repeat' split
  · exact hs
  · exact receiveSeq_canonical hs
  · exact deliver1_getD_canonical hs (holdRequest_canonical.2 hs)

@[simp] theorem takeResponse_canonical {p : Packet} {typ : PType} {f : State → State} (hf : ∀ u, Canonical u → Canonical (f u)) (hs : Canonical s) :
    Canonical (takeResponse s d p typ f) := by
  simp [takeResponse, hs, hf]

@[simp] theorem takeRack_canonical {p : Packet} (hs : Canonical s) : Canonical (takeRack s d p) := by simp [takeRack, hs]
@[simp] theorem takeAck_canonical {p : Packet} (hs : Canonical s) : Canonical (takeAck s d p) := by fun_cases takeAck s d p <;> simp [hs]
@[simp] theorem takeStatus_canonical {p : Packet} (hs : Canonical s) : Canonical (takeStatus s d p) := by
  have ended : ∀ {t : State} {id : Nat}, Canonical t → Canonical (tryXfers (drainChannel 4096 t d id)) :=
    fun h => tryXfers_canonical (drainChannel_canonical h)
  unfold takeStatus
  dsimp only
  split
  · exact hs
  · split
    · exact hs
    · refine ended ?_
      repeat' split
      all_goals simp [hs]

/-! ### Routers and timers -/

@[simp] theorem endCombAtom_canonical {c : Comb} {old : Word} : Canonical (endCombAtom s d c code old) ↔ Canonical s := by
  simp [endCombAtom]

@[simp] theorem endCombRead_canonical {c : Comb} {data : List Byte} : Canonical (endCombRead s d c code data) ↔ Canonical s := by
  simp [endCombRead]

@[simp] theorem endLed_canonical {p : Packet} {o : OutReq} : Canonical (endLed s d p o) ↔ Canonical s := by
  unfold endLed
  split <;> simp

@[simp] theorem takeRdrsp_canonical {p : Packet} (hs : Canonical s) : Canonical (takeRdrsp s d p) := by
  fun_cases takeRdrsp s d p <;> simp [hs]

@[simp] theorem takeAtomrsp_canonical {p : Packet} (hs : Canonical s) : Canonical (takeAtomrsp s d p) := by
  fun_cases takeAtomrsp s d p <;> simp +zetaDelta [hs]

@[simp] theorem countHop_canonical : Canonical (countHop s d) ↔ Canonical s := .rfl
@[simp] theorem forwardRd_canonical {p : Packet} (hs : Canonical s) : Canonical (forwardRd s d p) := by
  fun_cases forwardRd s d p <;> simp +zetaDelta [hs]

@[simp] theorem answerRecord_canonical {p : Packet} : Canonical (answerRecord s d p) ↔ Canonical s := by
  unfold answerRecord
  split <;> simp

@[simp] theorem forwardPacket_canonical {p : Packet} (hs : Canonical s) : Canonical (forwardPacket s d p) := by
  fun_cases forwardPacket s d p <;> simp +zetaDelta [hs]

@[simp] theorem closeWindow_canonical {c : Comb} (hs : Canonical s) : Canonical (closeWindow s d c) := by
  fun_cases closeWindow s d c <;> simp +zetaDelta [hs]

@[simp] theorem timeOut_canonical {o : OutReq} (hs : Canonical s) : Canonical (timeOut s d o) := by
  unfold timeOut
  dsimp only
  refine jobFault_canonical ?_
  split
  · rwa [dropComb_canonical, modFab_canonical, returnTag_canonical, advanceTo_canonical]
  · rwa [modFab_canonical, returnTag_canonical, advanceTo_canonical]

@[simp] theorem writeXfer_canonical (hs : Canonical s) : Canonical (writeXfer s d v) := by simp +contextual [writeXfer, hs]
@[simp] theorem writeMarktx_canonical (hs : Canonical s) : Canonical (writeMarktx s d v) := by simp +contextual [writeMarktx, hs]
@[simp] theorem readMark_canonical : Canonical (readMark s d) ↔ Canonical s := by
  unfold readMark
  dsimp only
  split <;> simp [canonical_iff]

@[simp] theorem writePkgid_canonical (hs : Canonical s) : Canonical (writePkgid s v) := checkWrite_canonical (fun _ h => h) hs

/-! ### Links -/

@[simp] theorem loseMember_canonical {peer : BitVec 16} (hs : Canonical s) : Canonical (loseMember s peer) := by
  unfold loseMember
  split
  · exact hs
  · refine (foldl_canonical_iff (fun _ _ => modFab_canonical) ..).2 (foldl_canonical (fun s j h => ?_) (foldl_canonical (fun s e h => ?_) hs))
    · split
      · exact jobFault_canonical h
      · exact h
    · split
      · exact jobFault_canonical (modFab_canonical.2 h)
      · exact h

@[simp] theorem setLinkState_canonical {l st : Nat} (hs : Canonical s) : Canonical (setLinkState s l st) := by
  have moved : ∀ (t : State) (peer : BitVec 16), Canonical t → Canonical (loseMember ((List.range 4).foldl movePaths t) peer) :=
    fun t peer h => loseMember_canonical (foldl_canonical (fun _ _ h => movePaths_canonical h) h)
  have held : ∀ t : State, Canonical ((List.range 4).foldl releaseHeld t) ↔ Canonical t :=
    fun _ => foldl_canonical_iff (fun _ _ => releaseHeld_canonical) ..
  unfold setLinkState
  dsimp only
  split
  · exact hs
  · split <;> split <;> simp [hs, held, moved]

@[simp] theorem linkDown_canonical {l : Nat} (hs : Canonical s) : Canonical (linkDown s l) := by simp [linkDown, hs]
@[simp] theorem retireLink_canonical {l : Nat} (hs : Canonical s) : Canonical (retireLink s l) := by simp [retireLink, hs]
@[simp] theorem retireLane_canonical {l lane : Nat} (hs : Canonical s) : Canonical (retireLane s l lane) := by simp [retireLane, hs]
@[simp] theorem linkFailSafe_canonical {l : Nat} (hs : Canonical s) : Canonical (linkFailSafe s l) := by simp [linkFailSafe, hs]
@[simp] theorem discardFlit_canonical {l : Nat} : Canonical (discardFlit s l) ↔ Canonical s := .rfl
@[simp] theorem badCodeword_canonical {l : Nat} (hs : Canonical s) : Canonical (badCodeword s l) := by
  fun_cases badCodeword s l <;> simp +zetaDelta [hs]

@[simp] theorem idleFlits_canonical {l : Nat} : Canonical (idleFlits s l) ↔ Canonical s := .rfl
@[simp] theorem replayFlits_canonical {l : Nat} : Canonical (replayFlits s l) ↔ Canonical s := by simp [replayFlits]
@[simp] theorem routePacket_canonical {p : Packet} (hs : Canonical s) : Canonical (routePacket s d p) := by
  fun_cases routePacket s d p <;> simp +contextual [hs]

@[simp] theorem flitPackets_canonical {l : Nat} {f : Flit} (hs : Canonical s) : Canonical (flitPackets s l f) := by
  simp +contextual [flitPackets, hs]

@[simp] theorem nextFlit_canonical {l : Nat} {f : Flit} (hs : Canonical s) : Canonical (nextFlit s l f) :=
    flitPackets_canonical ((foldl_canonical_iff (fun _ _ => releaseHeld_canonical) ..).2 (modLink_canonical.2 hs))

@[simp] theorem goodFlit_canonical {l : Nat} {f : Flit} (hs : Canonical s) : Canonical (goodFlit s l f) := by
  fun_cases goodFlit s l f <;> simp +zetaDelta [hs]

@[simp] theorem receiveFlit_canonical {l : Nat} {f : Flit} (hs : Canonical s) : Canonical (receiveFlit s l f) := by
  simp +contextual [receiveFlit, hs]

@[simp] theorem writeLinkCtrl_canonical {l : Nat} (hs : Canonical s) : Canonical (writeLinkCtrl s l v) := by
  simp +contextual [writeLinkCtrl, hs]

/-! ### Versions -/

@[simp] theorem sweepCaches_canonical (hs : Canonical s) : Canonical (sweepCaches s j) := by simp [sweepCaches, hs]
@[simp] theorem sweepVersions_canonical (hs : Canonical s) : Canonical (sweepVersions s j) := by simp [sweepVersions, hs]
@[simp] theorem modHolds_canonical {v : Nat} {f : Nat → Nat} : Canonical (modHolds s j d i v f) ↔ Canonical s := .rfl
@[simp] theorem fixVersion_canonical {v : Nat} : Canonical (fixVersion s j it v) ↔ Canonical s := by simp [fixVersion]
@[simp] theorem endBatch_canonical (hs : Canonical s) : Canonical (endBatch s j it) := by
  unfold endBatch
  dsimp only
  repeat' split
  all_goals simp [hs]

/-! ### Commits -/

@[simp] theorem scrubOne_canonical {u : Upset} (hs : Canonical s) : Canonical (scrubOne s d u) := by
  unfold scrubOne
  dsimp only
  split
  · exact meetErrors_canonical hs
  · exact hs

@[simp] theorem endPageMove_canonical {m : PageMove} (hs : Canonical s) : Canonical (endPageMove s j m) := by
  have copied : Canonical { s with mem := memWrite s.mem m.toAddr (memRead s.mem m.fromAddr 65536) } :=
    canonical_withMem hs (Memory.wf_memWrite _ _ _ hs.mem)
  unfold endPageMove
  exact startWaiting_canonical.2 (releaseFrame_canonical (modStore_canonical.2 (invalidate_canonical.2 (modJob_canonical.2 copied))))

@[simp] theorem commitStash_canonical {g : Staging} (hs : Canonical s) : Canonical (commitStash s j it g) := by
  fun_cases commitStash s j it g <;> simp +zetaDelta [hs]

@[simp] theorem commitRange_canonical {g : Staging} (hs : Canonical s) : Canonical (commitRange s it g) := by simp [commitRange, hs]
@[simp] theorem noteCommit_canonical {step : BitVec 32} : Canonical (noteCommit s j step) ↔ Canonical s := .rfl
@[simp] theorem commitItem_canonical (hs : Canonical s) : Canonical (commitItem j s i) := by
  unfold commitItem
  split
  · exact hs
  · refine endBatch_canonical (noteCommit_canonical.2 (modItem_canonical.2 (invalidate_canonical.2 ?_)))
    exact foldl_canonical (fun _ _ h => commitRange_canonical h) (foldl_canonical (fun _ _ h => commitStash_canonical h) hs)

@[simp] theorem finishItem_canonical (hs : Canonical s) : Canonical (finishItem s j i it) := by
  refine foldl_canonical (fun _ _ h => sweepEntries_canonical h) (modJob_canonical.2 (modItem_canonical.2 ?_))
  exact invalidate_canonical.2 (releaseFrames_canonical hs)

@[simp] theorem foldInst_canonical {n : Inst} (hs : Canonical s) : Canonical (foldInst s j k n) := by simp [foldInst, hs]

/-! ### The update engine -/

@[simp] theorem nextBlock_canonical {r : UpdRun} : Canonical (nextBlock s d r sh) ↔ Canonical s := .rfl
@[simp] theorem advanceUpd_canonical {r : UpdRun} : Canonical (advanceUpd s d r) ↔ Canonical s := by
  unfold advanceUpd
  split <;> simp

@[simp] theorem engineFault_canonical {code : Option Nat} (hs : Canonical s) : Canonical ((engineFault s d j code).1) := by
  fun_cases engineFault s d j code <;> simp [hs]

theorem engineWrite_canonical {l : List Byte} (h : engineWrite s d j va l = .inl u) (hs : Canonical s) : Canonical u := by
  unfold engineWrite at h
  repeat' split at h
  all_goals cases h
  exact touchRanges_canonical.2 (writePieces_canonical hs)

theorem allocPages_canonical {st : FState} {l : List Nat} {m n : Map Leaf} (h : allocPages j d st s l m = some (u, n)) (hs : Canonical s) :
    Canonical u := by
  fun_induction allocPages j d st s l m with
  | case1 =>
    cases h
    exact hs
  | case2 => cases h
  | case3 s v rest m f eq ih => exact ih h (takeFrame_canonical.2 hs)

@[simp] theorem copyPages_canonical {old new : Map Leaf} (hs : Canonical s) : Canonical (copyPages s old new) := by
  unfold copyPages
  refine foldl_canonical (fun s a h => ?_) hs
  repeat' split
  · exact canonical_withMem h (Memory.wf_memWrite _ _ _ h.mem)
  all_goals exact h

theorem stageShards_canonical {l : List Nat} (h : stageShards j d i s l = some u) (hs : Canonical s) : Canonical u := by
  fun_induction stageShards j d i s l with
  | case1 =>
    cases h
    exact hs
  | case2 s k rest jb eq ih => exact ih h hs
  | case3 => cases h
  | case4 => cases h
  | case5 s k rest jb sh eq old t mw work v mh hot w g ih =>
    exact ih h (modItem_canonical.2 (copyPages_canonical (copyPages_canonical (allocPages_canonical hot (allocPages_canonical work hs)))))

@[simp] theorem publishShard_canonical : Canonical (publishShard j i n it s k) ↔ Canonical s := by
  fun_cases publishShard j i n it s k <;> simp +zetaDelta

@[simp] theorem holdOld_canonical {old : Nat} : Canonical (holdOld j k old s) ↔ Canonical s := by
  unfold holdOld
  split <;> simp

@[simp] theorem rearm_canonical : Canonical (rearm s j sh) ↔ Canonical s := by
  fun_cases rearm s j sh <;> simp

@[simp] theorem arriveAt_canonical {addr : Nat} {epoch : BitVec 16} (hs : Canonical s) : Canonical (arriveAt s d j addr epoch) := by
  simp [arriveAt, hs]

@[simp] theorem endUpd_canonical {r : UpdRun} (hs : Canonical s) : Canonical (endUpd s d r it) := by
  refine sweepVersions_canonical (foldl_canonical (fun t k h => ?_) (modStore_canonical.2 (noteCommit_canonical.2 (modItem_canonical.2
    (invalidate_canonical.2 (foldl_canonical (fun _ _ h => holdOld_canonical.2 h) (foldl_canonical (fun _ _ h => publishShard_canonical.2 h) hs)))))))
  split
  · exact foldl_canonical (fun _ _ h => arriveAt_canonical h) (rearm_canonical.2 h)
  · exact h

/-! ### Fetches and scrubs -/

@[simp] theorem sendFetch_canonical (hs : Canonical s) : Canonical (sendFetch s d j i sh) := by
  refine foldl_canonical (fun s r h => foldl_canonical (fun s q h => ?_) h) hs
  split <;> simp [h]

@[simp] theorem startFetch_canonical {v : Nat} {tries : Nat} (hs : Canonical s) : Canonical (startFetch s d j i v sh tries) := by
  simp [startFetch, hs]

@[simp] theorem arriveVa_canonical {v : BitVec 32} (hs : Canonical s) : Canonical (arriveVa s d j va v) := by
  fun_cases arriveVa s d j va v <;> simp [hs]

@[simp] theorem arriveFetch_canonical (hs : Canonical s) : Canonical (arriveFetch s d j sh) := by
  fun_cases arriveFetch s d j sh <;> simp [hs]

theorem publishCopy_canonical {v : Nat} {digest : Word} {l : List Byte} (h : publishCopy s d j i v sh digest l = some u) (hs : Canonical s) :
    Canonical u := by
  unfold publishCopy at h
  split at h <;> cases h
  rename_i t m alloc
  exact modJob_canonical.2 (putVer_canonical (allocPages_canonical alloc hs))

@[simp] theorem failFetch_canonical {v : Nat} (hs : Canonical s) : Canonical (failFetch s d j i v sh) := by
  unfold failFetch
  dsimp only
  repeat' split
  all_goals simp [hs]

@[simp] theorem endFetch_canonical {f : FetchRec} {l : List Byte} (hs : Canonical s) : Canonical (endFetch s d f sh l) := by
  fun_cases endFetch s d f sh l with
  | case2 jb want gone right t copy u =>
    exact sweepVersions_canonical (arriveFetch_canonical (modStore_canonical.2 (publishCopy_canonical copy (modStore_canonical.2 hs))))
  | _ => simp +zetaDelta [hs]

@[simp] theorem scrubCopy_canonical {c : CacheRec} : Canonical (scrubCopy s j d c) ↔ Canonical s := by
  unfold scrubCopy
  split <;> simp

@[simp] theorem scrubOwner_canonical {e : Nat × VerRec} (hs : Canonical s) : Canonical (scrubOwner s j d e) := by
  fun_cases scrubOwner s j d e <;> simp [hs]

@[simp] theorem setOutcome_canonical {q : Nat} {o : Nat × Nat × Nat × Nat} : Canonical (setOutcome s q k o) ↔ Canonical s := .rfl

/-! ### Resharding and transitions -/

@[simp] theorem fetchSource_canonical (hs : Canonical s) : Canonical ((fetchSource s d j id rs).1) := by
  refine foldl_fst_canonical (fun t r h => foldl_fst_canonical (fun t q h => ?_) h) hs
  split
  · dsimp only
    split <;> simp [h]
  · exact h

@[simp] theorem takeUp_canonical {r : RunDescr} (hs : Canonical s) : Canonical (takeUp s d r) := by simp [takeUp, hs]
@[simp] theorem pumpDescrs_canonical (hs : Canonical s) : Canonical (pumpDescrs s d) := by simp +contextual [pumpDescrs, hs]
@[simp] theorem startDescr_canonical {x : Descr} {step : BitVec 32} {trans : Option Nat} {entry : Option (Nat × Nat)} (hs : Canonical s) :
    Canonical (startDescr s d j x step trans entry) := by
  simp [startDescr, hs]

theorem writeRuns_canonical {l : List (Nat × List Byte)} (h : writeRuns d j id s n l = .inl (u, k)) (hs : Canonical s) : Canonical u := by
  fun_induction writeRuns d j id s n l with
  | case1 =>
    cases h
    exact hs
  | case2 => cases h
  | case3 => cases h
  | case4 s n r rest t va m f tail checked fuel ih => exact ih h (sendWrites_canonical (writePieces_canonical hs))
  | case5 s n r rest ps checked t other ih => exact ih h (writePieces_canonical hs)

@[simp] theorem arriveDescr_canonical {r : RunDescr} (hs : Canonical s) : Canonical (arriveDescr s d r) := by simp [arriveDescr, hs]
@[simp] theorem leaveEngine_canonical {r : RunDescr} (hs : Canonical s) : Canonical (leaveEngine s d r) := by simp [leaveEngine, hs]
@[simp] theorem endDescr_canonical {r : RunDescr} (hs : Canonical s) : Canonical (endDescr s d r) := by
  unfold endDescr
  split <;> simp [hs]

@[simp] theorem rejectDescr_canonical {r : RunDescr} (hs : Canonical s) : Canonical (rejectDescr s d r code) := by
  unfold rejectDescr
  split <;> simp [hs]

@[simp] theorem failDescr_canonical {r : RunDescr} (hs : Canonical s) : Canonical (failDescr s d r code) := by simp [failDescr, hs]
@[simp] theorem runDescr_canonical {r : RunDescr} (hs : Canonical s) : Canonical (runDescr s d r) := by
  fun_cases runDescr s d r with
  | case5 src got t runs u wrote v w none =>
    exact endDescr_canonical (modDescr_canonical.2 (modStore_canonical.2 (writeRuns_canonical wrote (draw_canonical.2 (touchRanges_canonical.2 hs)))))
  | case6 src got t runs u wrote v w some =>
    exact modDescr_canonical.2 (modStore_canonical.2 (writeRuns_canonical wrote (draw_canonical.2 (touchRanges_canonical.2 hs))))
  | _ => simp +zetaDelta [hs]

@[simp] theorem lodgeArrive_canonical {a : BitVec 16 × Nat} (hs : Canonical s) : Canonical (lodgeArrive s j a) := by simp [lodgeArrive, hs]
@[simp] theorem armNext_canonical {o : Nat} : Canonical (armNext s o n) ↔ Canonical s := .rfl
@[simp] theorem giveShardUp_canonical (hs : Canonical s) : Canonical (giveShardUp s j k d) := by simp [giveShardUp, hs]
@[simp] theorem takeShard_canonical (hs : Canonical s) : Canonical (takeShard s j k d sh) := by
  unfold takeShard
  refine modJob_canonical.2 (foldl_canonical (fun t f h => ?_) ?_)
  · exact draw_canonical.2 (canonical_withMem h (Memory.wf_memWrite _ _ _ h.mem))
  · cases h : allocPages j d .published s (hotPages (getJob s j) sh) [] with
    | none => exact hs
    | some t => exact allocPages_canonical h hs

@[simp] theorem moveOwner_canonical {old new : JobImage} (hs : Canonical s) : Canonical (moveOwner j old new s k) := by
  fun_cases moveOwner j old new s k <;> simp [hs]

@[simp] theorem openEpoch_canonical (hs : Canonical s) : Canonical (openEpoch s j) := by simp +contextual [openEpoch, hs]

/-! ### Slots of a channel -/

@[simp] theorem sendSlot_canonical {p : Nat} {ch : ChanDecl} : Canonical (sendSlot s c p ch) ↔ Canonical s := .rfl
@[simp] theorem postTo_canonical {o : Option Nat} {op : PortOp} : Canonical (postTo s o op) ↔ Canonical s := by
  unfold postTo
  split <;> simp

@[simp] theorem landSlot_canonical {p : Nat} {ch : ChanDecl} {data : List Byte} {rest : List (Nat × List Byte)} :
    Canonical (landSlot s c p ch data rest) ↔ Canonical s := by
  simp [landSlot]

/-! ### The vertical port -/

@[simp] theorem beatFail_canonical : Canonical (beatFail s c) ↔ Canonical s := .rfl
@[simp] theorem spareBonds_canonical {l : List (Nat × Nat)} : Canonical ((spareBonds s c l).1) ↔ Canonical s := by
  fun_induction spareBonds s c l with
  | case1 => rfl
  | case2 => rfl
  | case3 s c g bond rest fate ih =>
    rw [ih]
    rfl

@[simp] theorem laneTested_canonical {failing : List (Nat × Nat)} (hs : Canonical s) : Canonical (laneTested s c failing) := by
  have spared : Canonical (spareBonds
      (modCell s c (fun x => { x with testOwed := false, beatFails := 0, retryTimes := [], laneSound := failing.isEmpty })) c failing).1 :=
    spareBonds_canonical.2 (modCell_canonical.2 hs)
  unfold laneTested
  dsimp only
  split <;> rename_i eq <;> rw [eq] at spared
  · exact retireCell_canonical spared
  · exact spared

/-! ### Dispatch -/

@[simp] theorem dispatchFault_canonical {p pc : Nat} (hs : Canonical s) : Canonical (dispatchFault s p pc code) := by
  simp [dispatchFault, hs]

@[simp] theorem dGoto_canonical {p : Nat} (hs : Canonical s) : Canonical (dGoto s p n) := by simp [dGoto, hs]
@[simp] theorem dNextWord_canonical {p : Nat} (hs : Canonical s) : Canonical (dNextWord s p) := by simp [dNextWord, hs]
@[simp] theorem dWrite_canonical {p : Nat} {f : DFields} (hs : Canonical s) : Canonical (dWrite s p f v) := by simp [dWrite, hs]
@[simp] theorem startKindle_canonical {p : Nat} (hs : Canonical s) : Canonical (startKindle s p) := by simp [startKindle, hs]
@[simp] theorem reserve_canonical {p : Nat} : Canonical (reserve s p d i it) ↔ Canonical s := .rfl
@[simp] theorem pinEntries_canonical : Canonical (pinEntries s j i it) ↔ Canonical s := by simp [pinEntries]
@[simp] theorem startItem_canonical {p : Nat} {v : Nat} : Canonical (startItem s p i it v) ↔ Canonical s := by
  unfold startItem
  dsimp only
  rw [modPav_canonical]
  split <;> simp [-modCell_eq]

@[simp] theorem doLaunch_canonical {p : Nat} (hs : Canonical s) : Canonical (doLaunch s p d i it) := by
  fun_cases doLaunch s p d i it <;> simp +zetaDelta [hs]

@[simp] theorem startThread0_canonical {p bed : Nat} : Canonical (startThread0 s p bed i) ↔ Canonical s := by
  unfold startThread0
  dsimp only
  repeat' split
  · rfl
  · rfl
  · exact foldl_canonical_iff (fun _ _ => modCell_canonical ..) _ _

/-! ### Migration -/

@[simp] theorem setMig_canonical {m : Mig} : Canonical (setMig s j k m) ↔ Canonical s := .rfl
@[simp] theorem addRx_canonical {ch : ChanDecl} {pt : Port} : Canonical (addRx s c k ch pt) ↔ Canonical s := by
  unfold addRx
  split <;> simp

@[simp] theorem addTx_canonical {ch : ChanDecl} {pt : Port} : Canonical (addTx s c k ch pt) ↔ Canonical s := by
  unfold addTx
  split <;> simp

@[simp] theorem openPorts_canonical {m : Mig} : Canonical (openPorts s j m) ↔ Canonical s := by
  refine (foldl_canonical_iff (fun t e => ?_) _ _).trans (foldl_canonical_iff (fun t e => ?_) _ _)
  all_goals
    dsimp only
    split <;> simp

@[simp] theorem moveItems_canonical {m : Mig} : Canonical (moveItems s j m) ↔ Canonical s := by simp [moveItems]
@[simp] theorem startMigration_canonical {st r fromP fromB toP toB row col : Nat} :
    Canonical (startMigration s j st r fromP fromB toP toB row col) ↔ Canonical s := by
  unfold startMigration
  dsimp only
  rw [canonical_iff]
  dsimp only
  rw [← canonical_iff, moveItems_canonical, openPorts_canonical, modPav_canonical]

theorem requestMigration_canonical {st r q b : Nat} (h : requestMigration s j st r q b = .inl u) (hs : Canonical s) : Canonical u := by
  unfold requestMigration at h
  dsimp only at h
  repeat' split at h
  all_goals cases h
  exact startMigration_canonical.2 hs

theorem moveInput_canonical {m : Mig} {ch : ChanDecl} (h : moveInput s m k ch = some u) (hs : Canonical s) : Canonical u := by
  unfold moveInput at h
  split at h <;> cases h
  exact modCell_canonical.2 hs

theorem moveOutput_canonical {m : Mig} {ch : ChanDecl} (h : moveOutput s m k ch = some u) (hs : Canonical s) : Canonical u := by
  unfold moveOutput at h
  split at h <;> cases h
  exact modCell_canonical.2 (modCell_canonical.2 (modCell_canonical.2 hs))

@[simp] theorem moveMarker_canonical {m : Mig} (hs : Canonical s) : Canonical (moveMarker s j n m k) := by
  fun_cases moveMarker s j n m k with
  | case3 ch _ _ _ u h => exact setMig_canonical.2 (moveInput_canonical h hs)
  | case5 ch _ _ _ _ u h => exact setMig_canonical.2 (moveOutput_canonical h hs)
  | _ => exact hs

theorem forwardAll_canonical {m : Mig} {ch : ChanDecl} (h : forwardAll s m k ch = some u) (hs : Canonical s) : Canonical u := by
  unfold forwardAll at h
  dsimp only at h
  repeat' split at h
  all_goals cases h
  exact modCell_canonical.2 (modCell_canonical.2 (draw_canonical.2 hs))

theorem endForward_canonical {m : Mig} {ch : ChanDecl} (h : endForward s m k ch = some u) (hs : Canonical s) : Canonical u := by
  unfold endForward at h
  dsimp only at h
  repeat' split at h
  all_goals cases h
  exact modCell_canonical.2 hs

@[simp] theorem endMarker_canonical {m : Mig} {e : Nat} (hs : Canonical s) : Canonical (endMarker s j n m e) := by
  fun_cases endMarker s j n m e with
  | case3 k ch eq fresh consumer u h =>
    refine setMig_canonical.2 ?_
    repeat' split at h
    · exact forwardAll_canonical h hs
    · cases h
    · exact endForward_canonical h hs
    · cases h
  | _ => simp [hs]

@[simp] theorem completeMig_canonical {m : Mig} (hs : Canonical s) : Canonical (completeMig s j n m) := by
  have emptied : Canonical ((bedCells m.fromP (getBed (getPav s m.fromP) m.fromB)).foldl (fun s c =>
      modCell ((getCell s c).rx.foldl (fun s e => modCell s e.2.peerCell (fun y =>
        setTx y e.2.peerPort { getTx y e.2.peerPort with credits := (getTx y e.2.peerPort).credits + e.2.creditsBack })) s) c
        (fun x => { x with tx := [], rx := [] })) s) :=
    foldl_canonical (fun _ _ h => modCell_canonical.2 (foldl_canonical (fun _ _ h => modCell_canonical.2 h) h)) hs
  unfold completeMig
  dsimp only
  split
  · exact retirePav_canonical (setMig_canonical.2 (modPav_canonical.2 emptied))
  · exact setMig_canonical.2 (modPav_canonical.2 emptied)

/-! ### The loader -/

@[simp] theorem setDown_canonical {st r p b row col : Nat} {d : StageDecl} : Canonical (setDown s st r p b row col d) ↔ Canonical s := .rfl
theorem placeOne_canonical {im : JobImage} {t u : State × List Placed} {st r : Nat} (h : placeOne im t st r = some u) (hs : Canonical t.1) :
    Canonical u.1 := by
  unfold placeOne at h
  dsimp only at h
  repeat' split at h
  all_goals cases h
  exact setDown_canonical.2 hs

theorem placeNamed_canonical {im : JobImage} {l : List (Nat × Nat × Nat × Nat × Nat)} {t u : State × List Placed} {st r : Nat}
    (h : placeNamed im l t st r = some u) (hs : Canonical t.1) :
    Canonical u.1 := by
  unfold placeNamed at h
  repeat' split at h
  all_goals cases h
  exact setDown_canonical.2 hs

theorem foldl_bind_canonical {α σ : Type} {view : σ → State} {f : σ → α → Option σ}
    (keeps : ∀ t a v, f t a = some v → Canonical (view t) → Canonical (view v)) (l : List α) {t u : σ}
    (h : l.foldl (fun o a => o.bind (f · a)) (some t) = some u) (ht : Canonical (view t)) : Canonical (view u) := by
  induction l generalizing t with
  | nil =>
    cases h
    exact ht
  | cons a rest ih =>
    rw [List.foldl_cons, Option.bind_some] at h
    cases first : f t a with
    | none =>
      rw [first, List.foldl_fixed' fun _ => rfl] at h
      cases h
    | some v => exact ih (first ▸ h) (keeps t a v first ht)

theorem placeEach_canonical {im : JobImage} {f : State × List Placed → Nat → Nat → Option (State × List Placed)} {order : List Nat}
    {u : State × List Placed} (keeps : ∀ t v st r, f t st r = some v → Canonical t.1 → Canonical v.1) (h : placeEach im f order s = some u)
    (hs : Canonical s) : Canonical u.1 := by
  exact foldl_bind_canonical (view := Prod.fst) (f := fun t (e : Nat × Nat) => f t e.1 e.2) (fun t e v => keeps t v e.1 e.2) _ h hs

theorem placeBeds_canonical {im : JobImage} {u : State × List Placed} (h : placeBeds s im = some u) (hs : Canonical s) : Canonical u.1 := by
  unfold placeBeds at h
  split at h
  · exact placeEach_canonical (fun _ _ _ _ => placeNamed_canonical) h hs
  · exact placeEach_canonical (fun _ _ _ _ => placeOne_canonical) h hs

theorem openChannel_canonical {beds : List Placed} {ch : ChanDecl} {r : Nat} (h : openChannel s beds k ch r = some u) (hs : Canonical s) :
    Canonical u := by
  unfold openChannel at h
  dsimp only at h
  repeat' split at h
  all_goals cases h
  exact addRx_canonical.2 (addTx_canonical.2 hs)

theorem openChannels_canonical {im : JobImage} {beds : List Placed} (h : openChannels s im beds = some u) (hs : Canonical s) :
    Canonical u := by
  exact foldl_bind_canonical (view := id) (f := fun s (e : Nat × ChanDecl × Nat) => openChannel s beds e.1 e.2.1 e.2.2)
    (fun _ _ _ => openChannel_canonical) _ h hs

theorem placeChecks_canonical {im : JobImage} {beds : List Placed} (h : placeChecks s im = .inl (u, beds)) (hs : Canonical s) :
    Canonical u := by
  unfold placeChecks at h
  repeat' split at h
  all_goals cases h
  rename_i placed _ opened
  exact openChannels_canonical opened (placeBeds_canonical placed hs)

theorem loadChecks_canonical {im : JobImage} {len : Nat} {beds : List Placed} (h : loadChecks s im len = .inl (j, u, beds)) (hs : Canonical s) :
    Canonical u := by
  unfold loadChecks at h
  repeat' split at h
  all_goals cases h
  rename_i checked
  exact placeChecks_canonical checked hs

@[simp] theorem iceStoreFrames_canonical {banks : List Nat} {t : State × List Nat} : Canonical ((iceStoreFrames j banks n t).1) ↔ Canonical t.1 := by
  fun_induction iceStoreFrames j banks n t <;> simp_all

@[simp] theorem iceSpillFrames_canonical {t : State × List Nat} : Canonical ((iceSpillFrames j d n t).1) ↔ Canonical t.1 := by
  fun_induction iceSpillFrames j d n t <;> simp_all

@[simp] theorem makeIce_canonical {beds : List Placed} {im : JobImage} : Canonical (makeIce j beds im s d) ↔ Canonical s :=
    (modIce_canonical ..).trans ((iceSpillFrames_canonical ..).trans (iceStoreFrames_canonical ..))
@[simp] theorem mapPage_canonical {r : RegionDecl} : Canonical (mapPage j c r s vpn) ↔ Canonical s := by
  fun_cases mapPage j c r s vpn <;> simp +zetaDelta

@[simp] theorem loaderWrite_canonical {l : List Byte} (hs : Canonical s) : Canonical (loaderWrite j s va l) := by simp [loaderWrite, hs]
@[simp] theorem fillRegion_canonical {r : RegionDecl} (hs : Canonical s) : Canonical (fillRegion j s r) := by
  have filled : Canonical (r.data.foldl (fun s e => loaderWrite j s (r.va + e.1) e.2) s) := foldl_canonical (fun _ _ h => loaderWrite_canonical h) hs
  unfold fillRegion
  split
  · exact filled
  · exact foldl_canonical (fun _ _ h => loaderWrite_canonical h) filled

@[simp] theorem mapRegion_canonical {beds : List Placed} {r : RegionDecl} (hs : Canonical s) : Canonical (mapRegion j beds s r) := by
  simp [mapRegion, hs]

@[simp] theorem mapSync_canonical {y : Nat × List (BitVec 32)} : Canonical (mapSync j d s y) ↔ Canonical s := by
  unfold mapSync
  split
  · rfl
  · exact (foldl_canonical_iff (fun _ _ => setObj_canonical ..) _ _).trans (modJob_canonical ..)

@[simp] theorem initShard_canonical (hs : Canonical s) : Canonical (initShard j s k) := by
  fun_cases initShard j s k with
  | case1 => exact hs
  | case2 => exact modJob_canonical.2 hs
  | case3 => exact hs
  | case4 jb sh eq owned t mw work none => exact allocPages_canonical work hs
  | case5 jb sh eq owned v t mw work u mh hot w r =>
    have placed : Canonical u := allocPages_canonical hot (allocPages_canonical work hs)
    refine modJob_canonical.2 ?_
    simp only [w]
    split
    · exact putVer_canonical placed
    · exact placed

@[simp] theorem holdPav_canonical {im : JobImage} {p : Nat} : Canonical (holdPav j im s p) ↔ Canonical s := .rfl
@[simp] theorem setLayout_canonical {im : JobImage} {b : Placed} : Canonical (setLayout im s b) ↔ Canonical s := by
  unfold setLayout
  split
  · exact foldl_canonical_iff (fun _ _ => modCell_canonical ..) _ _
  · rfl

@[simp] theorem exportRegion_canonical {e : ExportDecl} : Canonical (exportRegion j s e) ↔ Canonical s := .rfl
@[simp] theorem setRoot_canonical {valid : Bool} {root : Nat} : Canonical (setRoot j valid root s d) ↔ Canonical s := .rfl
@[simp] theorem firstTriggers_canonical : Canonical (firstTriggers j s) ↔ Canonical s := by
  unfold firstTriggers
  refine foldl_canonical_iff (fun s a => ?_) _ _
  repeat' split
  all_goals simp

@[simp] theorem commitLoad_canonical {im : JobImage} {beds : List Placed} (hs : Canonical u) : Canonical (commitLoad u j im beds) := by
  unfold commitLoad
  dsimp only
  rw [firstTriggers_canonical, canonical_iff]
  dsimp only
  rw [← canonical_iff, setCtx_canonical, foldl_canonical_iff fun _ _ => setRoot_canonical, modJob_canonical, draw_canonical,
    foldl_canonical_iff fun _ _ => exportRegion_canonical, foldl_canonical_iff fun t d => foldl_canonical_iff (fun _ _ => mapSync_canonical) _ t,
    foldl_canonical_iff fun _ _ => makeIce_canonical]
  refine foldl_canonical (fun _ _ h => initShard_canonical h) (foldl_canonical (fun _ _ h => mapRegion_canonical h) ?_)
  rwa [foldl_canonical_iff fun _ _ => setLayout_canonical, foldl_canonical_iff fun _ _ => holdPav_canonical, setJob_canonical]

/-! ### Queues -/

@[simp] theorem hostStores_canonical {l : List HostWrite} (hs : Canonical s) : Canonical (hostStores s l) := by
  refine canonical_withHost hs (List.foldlRecOn (motive := fun m => Memory.wf m = true) l _ hs.host fun m h w _ => ?_)
  split
  · exact Memory.wf_memWrite _ _ _ h
  · exact h

@[simp] theorem toHost_canonical {a : Nat} {l : List Byte} (hs : Canonical s) : Canonical (toHost s a l) :=
    canonical_withHost hs (Memory.wf_memWrite _ _ _ hs.host)

@[simp] theorem beginEntry_canonical {q : Nat} : Canonical (beginEntry s q k) ↔ Canonical s := .rfl
@[simp] theorem failEntry_canonical {q : Nat} : Canonical (failEntry s q k code) ↔ Canonical s := .rfl
@[simp] theorem writeTail_canonical {q : QueueId} (hs : Canonical s) : Canonical (writeTail s q v) :=
    checkWrite_canonical (fun _ h => modQueue_canonical.2 h) hs

@[simp] theorem writeCqhead_canonical {q : QueueId} (hs : Canonical s) : Canonical (writeCqhead s q v) :=
    checkWrite_canonical (fun _ h => modQueue_canonical.2 h) hs

@[simp] theorem writeQctrl_canonical {q : QueueId} (hs : Canonical s) : Canonical (writeQctrl s q v) :=
    checkWrite_canonical (fun _ h => modQueue_canonical.2 h) hs

@[simp] theorem acceptEntry_canonical {q : QueueId} (hs : Canonical s) : Canonical (acceptEntry s q) := by simp [acceptEntry, hs]
@[simp] theorem noteStep_canonical {q : QueueId} {e : QEntry} {o : Nat × Nat × Nat × Nat} : Canonical (noteStep s q e o) ↔ Canonical s := by
  unfold noteStep
  split <;> simp

@[simp] theorem dropPav_canonical {p : Nat} : Canonical (dropPav s p) ↔ Canonical s := by simp [dropPav, -modCell_eq]
@[simp] theorem dropOnDie_canonical : Canonical (dropOnDie j s d) ↔ Canonical s := .rfl
@[simp] theorem dropObjects_canonical : Canonical (dropObjects s j) ↔ Canonical s := .rfl
@[simp] theorem dropRegions_canonical : Canonical (dropRegions s j) ↔ Canonical s := by
  unfold dropRegions
  dsimp only
  rw [foldl_canonical_iff fun _ _ => modFab_canonical, canonical_iff, canonical_iff]

@[simp] theorem dropTranslations_canonical : Canonical (dropTranslations s j) ↔ Canonical s := by
  unfold dropTranslations
  dsimp only
  rw [canonical_iff]
  dsimp only
  rw [← canonical_iff, foldl_canonical_iff fun _ _ => invalidate_canonical]

@[simp] theorem dropJob_canonical : Canonical (dropJob s j) ↔ Canonical s := by
  unfold dropJob
  dsimp only
  rw [setCtx_canonical, setJob_canonical, foldl_canonical_iff fun _ _ => dropPav_canonical, canonical_iff]
  dsimp only
  rw [← canonical_iff, dropRegions_canonical, dropObjects_canonical, foldl_canonical_iff fun _ _ => dropOnDie_canonical, dropTranslations_canonical,
    foldl_canonical_iff fun _ _ => setRoot_canonical]

@[simp] theorem submitStep_canonical {q : Nat} {e : QEntry} {batches : List Batch} : Canonical (submitStep s j q e batches) ↔ Canonical s := by
  unfold submitStep
  dsimp only
  rw [beginEntry_canonical, noteStuck_canonical, modJob_canonical, modJob_canonical]

/-! ### Resets -/

@[simp] theorem applyRecord_canonical {r : JRec} : Canonical (applyRecord s r) ↔ Canonical s := by simp [applyRecord, -modCell_eq]
@[simp] theorem applyRecords_canonical {p : JRec → Bool} : Canonical (applyRecords s p) ↔ Canonical s := by simp [applyRecords]
@[simp] theorem recoverQueues_canonical {live : Nat → Bool} : Canonical (recoverQueues s live) ↔ Canonical s := .rfl
@[simp] theorem writeRecovered_canonical {q : Nat} {x : Queue} (hs : Canonical s) : Canonical (writeRecovered s q x) := by
  unfold writeRecovered
  refine foldl_canonical (fun s a h => ?_) hs
  split
  · exact raiseEvent_canonical.2 (toHost_canonical (draw_canonical.2 h))
  · exact h

@[simp] theorem setHbmState_canonical {h st : Nat} : Canonical (setHbmState s h st) ↔ Canonical s := by simp [setHbmState]
@[simp] theorem cutCompute_canonical : Canonical (cutCompute s) ↔ Canonical s := .rfl
@[simp] theorem countSkipped_canonical : Canonical (countSkipped s) ↔ Canonical s := .rfl
@[simp] theorem failSafe_canonical {trigger : Nat} (hs : Canonical s) : Canonical (failSafe s trigger) := by
  unfold failSafe
  split
  · exact hs
  · dsimp only
    rw [sampleLevel_canonical, canonical_iff]
    dsimp only
    rw [← canonical_iff, cutCompute_canonical, countSkipped_canonical, foldl_canonical_iff fun s h => ?_]
    · refine foldl_canonical (fun _ _ h => linkFailSafe_canonical h) (recoverQueues_canonical.2 ?_)
      exact foldl_canonical (fun _ _ h => jobFault_canonical h) hs
    · split <;> simp

@[simp] theorem packageReset_canonical (hs : Canonical s) : Canonical (packageReset s) := ⟨Memory.wf_nil, hs.host⟩

@[simp] theorem requestPackage_canonical (hs : Canonical s) : Canonical (requestPackage s) := by
  unfold requestPackage
  split
  · exact packageReset_canonical hs
  · exact foldl_canonical (fun _ _ h => startHold_canonical.2 h) hs

@[simp] theorem requestStack_canonical {computeOnly : Bool} : Canonical (requestStack s d computeOnly) ↔ Canonical s := by
  simp [requestStack]

@[simp] theorem startPavReset_canonical {p : Nat} : Canonical (startPavReset s p) ↔ Canonical s := by
  unfold startPavReset
  dsimp only
  rw [sampleLevel_canonical, canonical_iff]
  dsimp only
  rw [← canonical_iff, modPav_canonical]

@[simp] theorem writeResetctl_canonical (hs : Canonical s) : Canonical (writeResetctl s v) := by simp +contextual [writeResetctl, hs]
@[simp] theorem resetCompute_canonical : Canonical (resetCompute s d) ↔ Canonical s := by
  unfold resetCompute
  dsimp only
  rw [foldl_canonical_iff fun _ _ => sampleLevel_canonical, applyRecords_canonical, canonical_iff]
  dsimp only
  rw [← canonical_iff, foldl_canonical_iff fun _ _ => modPav_canonical]

@[simp] theorem freeDie_canonical (hs : Canonical s) : Canonical (freeDie s d) := by
  unfold freeDie
  dsimp only
  rw [modStore_canonical]
  exact ⟨canonical_filter hs.mem, hs.host⟩

@[simp] theorem resetStoreDie_canonical (hs : Canonical s) : Canonical (resetStoreDie s d) := by
  unfold resetStoreDie
  dsimp only
  rw [applyRecords_canonical, setUcie_canonical]
  simp only [canonical_ite, raiseEvent_canonical, ite_self]
  rw [foldl_canonical_iff fun s h => (modHbm_canonical.trans setHbmState_canonical), foldl_canonical_iff fun _ _ => modLink_canonical, canonical_iff]
  dsimp only
  rw [← canonical_iff]
  exact foldl_canonical (fun _ _ h => linkDown_canonical h) hs

@[simp] theorem faultStack_canonical (hs : Canonical s) : Canonical (faultStack s d) := by
  unfold faultStack
  rw [canonical_iff]
  dsimp only
  rw [← canonical_iff]
  exact faultJobs_canonical hs

@[simp] theorem cycleRail_canonical : Canonical (cycleRail s d) ↔ Canonical s := .rfl
@[simp] theorem resetDies_canonical (hs : Canonical s) : Canonical (resetDies s d) := by
  have computed : Canonical (resetCompute (faultStack s d) d) := resetCompute_canonical.2 (faultStack_canonical hs)
  unfold resetDies
  dsimp only
  rw [bumpDist_canonical, setRst_canonical]
  split
  · exact computed
  · exact cycleRail_canonical.2 (resetStoreDie_canonical (freeDie_canonical computed))

@[simp] theorem trainHbm_canonical {h : Nat} {ok : Bool} (hs : Canonical s) : Canonical (trainHbm s h ok) := by simp [trainHbm, hs]
@[simp] theorem trainUcie_canonical {u : Nat} : Canonical (trainUcie s u) ↔ Canonical s := by simp [trainUcie]
@[simp] theorem failStack_canonical (hs : Canonical s) : Canonical (failStack s d) :=
    foldl_canonical (fun _ _ h => retirePav_canonical h) (setRst_canonical.2 hs)

@[simp] theorem haltPav_canonical {p : Nat} (hs : Canonical s) : Canonical (haltPav s p) := by
  unfold haltPav
  dsimp only
  rw [sampleLevel_canonical, foldl_canonical_iff fun _ _ => modCell_canonical, dropPav_canonical]
  refine foldl_canonical (fun t e h => ?_) hs
  split
  · exact abandonItem_canonical h
  · exact h

@[simp] theorem writeFailsafe_canonical (hs : Canonical s) : Canonical (writeFailsafe s v) := by simp +contextual [writeFailsafe, hs]

/-! ### Power -/

@[simp] theorem enterRow_canonical {row : Nat} : Canonical (enterRow s row) ↔ Canonical s := .rfl
@[simp] theorem advanceRows_canonical : Canonical (advanceRows n s) ↔ Canonical s := by
  fun_induction advanceRows n s <;> simp_all

@[simp] theorem addPg_canonical {r : Rail} : Canonical (addPg s r) ↔ Canonical s := by
  unfold addPg
  split <;> rfl

@[simp] theorem dropPg_canonical {r : Rail} : Canonical (dropPg s r) ↔ Canonical s := .rfl
@[simp] theorem railFault_canonical {fault : Nat} (hs : Canonical s) : Canonical (railFault s fault) := by
  unfold railFault
  dsimp only
  split
  · rw [canonical_iff]
    dsimp only
    rw [← canonical_iff]
    exact failSafe_canonical hs
  · exact failSafe_canonical hs

@[simp] theorem deassertNext_canonical : Canonical (deassertNext s) ↔ Canonical s := by
  unfold deassertNext
  split <;> rfl

@[simp] theorem wake_canonical (hs : Canonical s) : Canonical (wake s) := by
  unfold wake
  split
  · exact hs
  · refine foldl_canonical (fun t h ht => ?_) (passTicks_canonical.2 hs)
    split
    · exact setHbmState_canonical.2 ht
    · exact ht

@[simp] theorem setDuty_canonical : Canonical (setDuty s n) ↔ Canonical s := by
  unfold setDuty
  rw [sampleLevel_canonical]
  rfl

/-! ### Host memory and modules -/

@[simp] theorem retireUcie_canonical {u : Nat} : Canonical (retireUcie s u) ↔ Canonical s :=
    (reportOf_canonical ..).trans ((raiseEvent_canonical ..).trans ((modUcie_canonical ..).trans (journalWrite_canonical ..)))
@[simp] theorem failLane_canonical {u lane : Nat} : Canonical (failLane s u lane) ↔ Canonical s := by simp [failLane]
@[simp] theorem crcError_canonical {u lane : Nat} {retrain : Bool} : Canonical (crcError s u lane retrain) ↔ Canonical s := by simp [crcError]
@[simp] theorem trainModules_canonical {trained : List Nat} : Canonical (trainModules s trained) ↔ Canonical s := by simp [trainModules]
@[simp] theorem hdmWake_canonical (hs : Canonical s) : Canonical (hdmWake s) := wake_canonical hs

@[simp] theorem readLine_canonical {a : Nat} (hs : Canonical s) : Canonical (readLine s a) := by
  unfold readLine
  split
  · exact hs
  · exact meetErrors_canonical hs

@[simp] theorem rejectHdm_canonical {u : Nat} : Canonical (rejectHdm s u) ↔ Canonical s := .rfl
@[simp] theorem lostRequest_canonical : Canonical (lostRequest s d) ↔ Canonical s := by simp [lostRequest]
@[simp] theorem drainPort_canonical {fuel : Nat} : Canonical (drainPort fuel s i) ↔ Canonical s := by
  fun_induction drainPort fuel s i <;> simp_all

@[simp] theorem readObject_canonical : Canonical (readObject s off) ↔ Canonical s := by
  unfold readObject
  dsimp only
  split
  · rw [canonical_iff, canonical_iff]
  · rw [draw_canonical, canonical_iff, canonical_iff]

@[simp] theorem writeSyncop_canonical (hs : Canonical s) : Canonical (writeSyncop s d v) := by
  unfold writeSyncop
  split
  · exact lostRequest_canonical.2 hs
  · refine regWrite_canonical (fun u h => ?_) hs
    dsimp only
    split
    · exact recordErr_canonical.2 (modStore_canonical.2 h)
    · exact enqueue_canonical.2 (modStore_canonical.2 h)

/-! ### Boot and enrolment -/

@[simp] theorem setMeas_canonical {v : List Byte} : Canonical (setMeas s i v) ↔ Canonical s := .rfl
@[simp] theorem measureOwners_canonical : Canonical (measureOwners s) ↔ Canonical s := .rfl
@[simp] theorem measureDebug_canonical : Canonical (measureDebug s) ↔ Canonical s := .rfl
@[simp] theorem secEvent_canonical {bit : Nat} : Canonical (secEvent s bit) ↔ Canonical s := .rfl
@[simp] theorem countBoot_canonical : Canonical (countBoot s) ↔ Canonical s := by
  unfold countBoot
  split <;> rfl

@[simp] theorem deriveIdentity_canonical : Canonical (deriveIdentity s) ↔ Canonical s := .rfl
@[simp] theorem presentModules_canonical {trained : List Nat} : Canonical (presentModules s trained) ↔ Canonical s := by simp [presentModules]
@[simp] theorem bootRom_canonical {trained : List Nat} : Canonical (bootRom s trained) ↔ Canonical s := by
  have measured : Canonical (measureDebug (measureOwners (setMeas (countBoot s) 1 Config.romDigest))) ↔ Canonical s := by
    rw [measureDebug_canonical, measureOwners_canonical, setMeas_canonical, countBoot_canonical]
  unfold bootRom
  dsimp only
  split
  · exact measured
  · rw [presentModules_canonical, canonical_iff]
    dsimp only
    rw [← canonical_iff, deriveIdentity_canonical, setMeas_canonical, measured]

@[simp] theorem copyImage_canonical : Canonical (copyImage s) ↔ Canonical s := .rfl
@[simp] theorem writeBootctl_canonical (hs : Canonical s) : Canonical (writeBootctl s v) := by
  refine checkWrite_canonical (fun u h => ?_) hs
  split
  · exact copyImage_canonical.2 h
  · exact h

@[simp] theorem deriveKeys_canonical : Canonical (deriveKeys s) ↔ Canonical s := .rfl
@[simp] theorem recoverAtBoot_canonical (hs : Canonical s) : Canonical (recoverAtBoot s) := by
  have recovered : Canonical (s.queues.foldl (fun s e => writeRecovered s e.1 e.2) s) := foldl_canonical (fun _ _ h => writeRecovered_canonical h) hs
  exact recovered

@[simp] theorem startFirmware_canonical (hs : Canonical s) : Canonical (startFirmware s) := by
  unfold startFirmware
  dsimp only
  rw [foldl_canonical_iff fun _ _ => setRst_canonical, canonical_iff]
  dsimp only
  rw [← canonical_iff]
  exact recoverAtBoot_canonical (applyRecords_canonical.2 hs)

@[simp] theorem refuseImage_canonical : Canonical (refuseImage s code) ↔ Canonical s := .rfl
@[simp] theorem drawNonce_canonical : Canonical (drawNonce s) ↔ Canonical s := .rfl
@[simp] theorem endCommand_canonical : Canonical (endCommand s code) ↔ Canonical s := .rfl
@[simp] theorem spendNonce_canonical : Canonical (spendNonce s) ↔ Canonical s := .rfl
@[simp] theorem acceptEnrol_canonical {l : List Byte} : Canonical (acceptEnrol s l) ↔ Canonical s := by
  unfold acceptEnrol
  dsimp only
  rw [secEvent_canonical, endCommand_canonical, measureOwners_canonical, canonical_iff, canonical_iff]

@[simp] theorem runEnrol_canonical {a : Nat} {l : List Byte} {verifies : Bool} : Canonical (runEnrol s a l verifies) ↔ Canonical s := by
  simp [runEnrol]

@[simp] theorem openDebug_canonical {l : List Byte} : Canonical (openDebug s l) ↔ Canonical s := by
  unfold openDebug
  dsimp only
  rw [endCommand_canonical, secEvent_canonical, measureDebug_canonical, canonical_iff, canonical_iff]

@[simp] theorem runUnlock_canonical {a : Nat} {l : List Byte} {verifies : Bool} : Canonical (runUnlock s a l verifies) ↔ Canonical s := by
  simp [runUnlock]

/-! ### Attestation -/

@[simp] theorem reply_canonical {code : BitVec 8} {body : List Byte} : Canonical (reply s code body) ↔ Canonical s := .rfl
@[simp] theorem replyError_canonical {e data : BitVec 8} : Canonical (replyError s e data) ↔ Canonical s := .rfl
@[simp] theorem setStage_canonical : Canonical (setStage s n) ↔ Canonical s := .rfl
@[simp] theorem refuseAttest_canonical : Canonical (refuseAttest s) ↔ Canonical s := .rfl
@[simp] theorem signedReply_canonical {code : BitVec 8} {nonce : BitVec 256} {body : List Byte} :
    Canonical (signedReply s code nonce body) ↔ Canonical s := .rfl

/-! ### Events -/

@[simp] theorem signal_canonical : Canonical (signal s t) ↔ Canonical s := by
  unfold signal
  repeat' split
  all_goals rfl

@[simp] theorem deliverTo_canonical : Canonical (deliverTo s n t) ↔ Canonical s := by
  unfold deliverTo
  dsimp only
  rw [signal_canonical]
  rfl

@[simp] theorem routeOne_canonical : Canonical (routeOne s n) ↔ Canonical s := by
  unfold routeOne
  split <;> simp

@[simp] theorem routeCycle_canonical : Canonical (routeCycle s) ↔ Canonical s := by
  unfold routeCycle
  rw [canonical_iff]
  dsimp only
  rw [← canonical_iff, foldl_canonical_iff fun _ _ => routeOne_canonical]

@[simp] theorem writePend_canonical (hs : Canonical s) : Canonical (writePend s i v) :=
    checkWrite_canonical (fun _ h => foldl_canonical (fun _ _ h => setEv_canonical.2 h) h) hs

@[simp] theorem writeSetp_canonical (hs : Canonical s) : Canonical (writeSetp s i v) :=
    checkWrite_canonical (fun _ h => foldl_canonical (fun _ _ h => raiseEvent_canonical.2 h) h) hs

@[simp] theorem writeEnable_canonical (hs : Canonical s) : Canonical (writeEnable s i v) := by
  refine checkWrite_canonical (fun _ h => foldl_canonical (fun _ _ h => ?_) h) hs
  dsimp only
  split <;> exact h

@[simp] theorem writeSrc_canonical (hs : Canonical s) : Canonical (writeSrc s n v) := by
  refine checkWrite_canonical (fun _ h => ?_) hs
  dsimp only
  split <;> exact h

@[simp] theorem resample_canonical : Canonical (resample s t) ↔ Canonical s := by
  refine foldl_canonical_iff (fun s n => ?_) _ _
  dsimp only
  split <;> rfl

@[simp] theorem popTarget_canonical : Canonical (popTarget s t) ↔ Canonical s := by
  unfold popTarget
  split
  · rw [resample_canonical]
    rfl
  · rfl

@[simp] theorem writeEoi_canonical (hs : Canonical s) : Canonical (writeEoi s t v) := by
  refine checkWrite_canonical (fun _ h => ?_) hs
  split
  · exact popTarget_canonical.2 h
  · exact h

/-! ### Quench -/

@[simp] theorem issueQ_canonical {f : QFields} {g : State → Entry → State} (hg : ∀ u x, Canonical u → Canonical (g u x)) (hs : Canonical s) :
    Canonical (issueQ s c t op f g) := by
  simp +contextual [issueQ, hs, hg]

@[simp] theorem startQuench_canonical {free : Nat} (hs : Canonical s) : Canonical (startQuench free s c e) := by
  fun_cases startQuench free s c e <;> simp [hs]

@[simp] theorem quenchWrite_canonical {q : QuenchRun} {b : List Byte × List Byte} (hs : Canonical s) : Canonical (quenchWrite s c q b) := by
  simp +contextual [quenchWrite, hs]

/-! ### Temper -/

@[simp] theorem tryMigrate_canonical {ok : Nat → Bool} {p : Nat} {b : Bed} (hs : Canonical s) : Canonical (tryMigrate ok p s b) := by
  unfold tryMigrate
  dsimp only
  split
  · rename_i u rest eq
    obtain ⟨q, -, found⟩ := List.mem_filterMap.mp (eq ▸ List.mem_cons_self : u ∈ _)
    obtain ⟨k, -, h⟩ := Option.bind_eq_some_iff.mp found
    split at h <;> cases h
    rename_i migrated
    exact requestMigration_canonical migrated hs
  · exact hs

@[simp] theorem migrateBeds_canonical {p : Nat} {ok : Nat → Bool} (hs : Canonical s) : Canonical (migrateBeds s p ok) := by
  unfold migrateBeds
  dsimp only
  split
  · exact hs
  · exact foldl_canonical (fun _ _ h => tryMigrate_canonical h) hs
@[simp] theorem applyPlan_canonical {p : Nat} {step : TemperStep} (hs : Canonical s) : Canonical (applyPlan s p step) := by
  fun_cases applyPlan s p step <;> simp +zetaDelta [hs]

@[simp] theorem temperOne_canonical {p : Nat} {r : TemperRead} (hs : Canonical s) : Canonical (temperOne s p r) := by simp [temperOne, hs]
@[simp] theorem writeTemper_canonical (hs : Canonical s) : Canonical (writeTemper s v) := checkWrite_canonical (fun _ h => h) hs

/-! ### Register blocks written -/

@[simp] theorem writeBase_canonical {q : QueueId} {r : Nat} (hs : Canonical s) : Canonical (writeBase s q r v) :=
    checkWrite_canonical (fun _ h => modQueue_canonical.2 h) hs

@[simp] theorem writeQueue_canonical {q : QueueId} {r : Nat} (hs : Canonical s) : Canonical (writeQueue s q r v) := by simp [writeQueue, hs]
@[simp] theorem writeLodge_canonical (hs : Canonical s) : Canonical (writeLodge s off v) := by fun_cases writeLodge s off v <;> simp [hs]
@[simp] theorem writeEvc_canonical (hs : Canonical s) : Canonical (writeEvc s off v) := by simp [writeEvc, hs]
@[simp] theorem writePower_canonical {p : Nat} (hs : Canonical s) : Canonical (writePower s p v) :=
    regWrite_canonical (fun _ h => modPav_canonical.2 h) hs

@[simp] theorem writeScrub_canonical (hs : Canonical s) : Canonical (writeScrub s d v) := checkWrite_canonical (fun _ h => modStore_canonical.2 h) hs

@[simp] theorem writeRtsel_canonical (hs : Canonical s) : Canonical (writeRtsel s d v) := regWrite_canonical (fun _ h => modFab_canonical.2 h) hs

@[simp] theorem writeRtdata_canonical (hs : Canonical s) : Canonical (writeRtdata s d v) :=
    checkWrite_canonical (fun _ h => releaseHeld_canonical.2 (movePaths_canonical (modFab_canonical.2 h))) hs
@[simp] theorem writeFab_canonical (hs : Canonical s) : Canonical (writeFab s d off v) := by simp [writeFab, hs]
@[simp] theorem writeImgaddr_canonical (hs : Canonical s) : Canonical (writeImgaddr s v) := checkWrite_canonical (fun _ h => h) hs

@[simp] theorem writeImglen_canonical (hs : Canonical s) : Canonical (writeImglen s v) := checkWrite_canonical (fun _ h => h) hs

@[simp] theorem writeCmdaddr_canonical (hs : Canonical s) : Canonical (writeCmdaddr s v) := regWrite_canonical (fun _ h => h) hs

@[simp] theorem writeCmd_canonical (hs : Canonical s) : Canonical (writeCmd s v) := checkWrite_canonical (fun _ h => h) hs

@[simp] theorem writeEvent_canonical (hs : Canonical s) : Canonical (writeEvent s v) := regWrite_canonical (fun _ h => h) hs

@[simp] theorem writeSec_canonical (hs : Canonical s) : Canonical (writeSec s off v) := by simp [writeSec, hs]
@[simp] theorem writeClkctrl_canonical (hs : Canonical s) : Canonical (writeClkctrl s v) := regWrite_canonical (fun _ h => h) hs

@[simp] theorem writeLimit_canonical (hs : Canonical s) : Canonical (writeLimit s v) := checkWrite_canonical (fun _ h => h) hs

@[simp] theorem writeReg_canonical {b : Blk} (hs : Canonical s) : Canonical (writeReg s b off v) := by
  fun_cases writeReg s b off v <;> simp [hs]

@[simp] theorem writeBlock_canonical {b : Blk} (hs : Canonical s) : Canonical (writeBlock s b off size v) := by
  fun_cases writeBlock s b off size v <;> simp [hs]

@[simp] theorem writeNowhere_canonical : Canonical (writeNowhere s off size) ↔ Canonical s := by simp [writeNowhere]
@[simp] theorem writeMsix32_canonical {x v : Nat} : Canonical (writeMsix32 s x v) ↔ Canonical s := .rfl
@[simp] theorem writeBar4_canonical {x : Nat} : Canonical (writeBar4 s x size v) ↔ Canonical s := by simp [writeBar4]
@[simp] theorem writeWindow_canonical (hs : Canonical s) : Canonical (writeWindow s off size v) := by
  fun_cases writeWindow s off size v <;> simp [hs]

/-! ### Register blocks read -/

@[simp] theorem clearIce_canonical : Canonical (clearIce s d off) ↔ Canonical s := by simp [clearIce]
@[simp] theorem clearHearth_canonical : Canonical (clearHearth s d off) ↔ Canonical s := .rfl
@[simp] theorem clearReg_canonical {b : Blk} : Canonical (clearReg s b off) ↔ Canonical s := by
  unfold clearReg
  repeat' split
  case h_3 => rw [clearIce_canonical, modStore_canonical]
  all_goals rfl

@[simp] theorem freshen_canonical {b : Blk} : Canonical (freshen s b off) ↔ Canonical s := by simp [freshen]
@[simp] theorem readReg_canonical {b : Blk} : Canonical (readReg s b off) ↔ Canonical s := by
  unfold readReg
  split
  · simp
  · simp
  · dsimp only
    rw [draw_canonical, clearReg_canonical, canonical_iff]
    dsimp only
    rw [← canonical_iff, freshen_canonical]

@[simp] theorem readBlock_canonical {b : Blk} : Canonical (readBlock s b off size) ↔ Canonical s := by
  unfold readBlock
  repeat' split
  all_goals first | rfl | exact readReg_canonical

@[simp] theorem readNowhere_canonical : Canonical (readNowhere s off size) ↔ Canonical s := by
  unfold readNowhere
  split <;> rfl

@[simp] theorem readBar4_canonical {x : Nat} : Canonical (readBar4 s x size) ↔ Canonical s := .rfl
@[simp] theorem readWindow_canonical : Canonical (readWindow s off size) ↔ Canonical s := by
  fun_cases readWindow s off size <;> simp

/-! ### Scalar instructions -/

@[simp] theorem scalarR_canonical {f : RFields} {g : Word → Word → Word → Word} (hs : Canonical s) : Canonical (scalarR s c t op f g) := by
  simp [scalarR, hs]

@[simp] theorem scalarI_canonical {f : IFields} {g : Word → Word → Word} (hs : Canonical s) : Canonical (scalarI s c t op f g) := by
  simp [scalarI, hs]

/-! ### What a handler keeps -/

@[simp] theorem onMig_canonical {f : Mig → State} (h : ∀ m, Canonical s → Canonical (f m)) (hs : Canonical s) : Canonical (onMig s j n f) := by
  fun_cases onMig s j n f <;> simp [hs, h]

/-- A run that goes on, goes on with memories in canonical form. -/
def CanonicalOut (o : Out) : Prop := ∀ u, o = .next u → Canonical u

theorem canonical_withPwr {x : Pwr} (hs : Canonical s) : Canonical { s with pwr := x } := hs

theorem CanonicalOut.next (h : Canonical u) : CanonicalOut (.next u) := by
  rintro _ ⟨⟩
  exact h

theorem CanonicalOut.onUnit {x : State} {ok : Bool} (h : Canonical x) : CanonicalOut (onUnit ok x) := by
  intro u eq
  obtain ⟨-, rfl⟩ := onUnit_next eq
  exact h

theorem CanonicalOut.onEntry {f : State → QEntry → State} {q : QueueId} (hs : Canonical s) (h : ∀ e, Canonical (f s e)) :
    CanonicalOut (onEntry q op s f) := by
  refine .onUnit ?_
  repeat' split
  · exact h _
  all_goals exact hs

theorem CanonicalOut.onDispatch {g : State → State} {p : Nat} {f : DFields} (hs : Canonical s) (h : Canonical (g s)) :
    CanonicalOut (onDispatch p op f s g) := by
  refine .onUnit ?_
  split
  · exact h
  · exact hs

theorem CanonicalOut.updInstr {w : BitVec 32} {f : State → UpdRun → Nat → ShardDecl → UpdDecl → State × Option UpdRun}
    (hs : Canonical s) (h : ∀ r i sh p, Canonical (f s r i sh p).1) : CanonicalOut (updInstr s d w f) := by
  refine .onUnit ?_
  dsimp only
  repeat' split
  all_goals simp [h, hs]

theorem CanonicalOut.updMap {f : UFields} {g : UpdRun → Nat → F32} (hs : Canonical s) : CanonicalOut (updMap s d op f g) :=
  .updInstr hs fun _ _ _ _ => hs

/-! ### Handlers: accesses of a cell -/

@[simp] theorem execGlobalLoadReturn_canonical (hs : Canonical s) : CanonicalOut (execGlobalLoadReturn c stamp s) := by
  refine .onUnit ?_
  split
  · exact hs
  · simp [hs]

/-! ### Handlers: reads, writes and jumps -/

@[simp] theorem execInstructionFetch_canonical (hs : Canonical s) : CanonicalOut (execInstructionFetch c s) := by
  refine .onUnit ?_
  dsimp only
  repeat' split
  all_goals simp [hs]

@[simp] theorem execMissRegisterGrant_canonical (hs : Canonical s) : CanonicalOut (execMissRegisterGrant c s) := by
  refine .onUnit ?_
  dsimp only
  repeat' split
  all_goals simp [hs]

@[simp] theorem execFenceComplete_canonical (hs : Canonical s) : CanonicalOut (execFenceComplete c t s) := by
  refine .onUnit ?_
  dsimp only
  repeat' split
  all_goals simp [hs]

/-! ### Handlers: the Icehouse -/

@[simp] theorem execIcehouseSpillStart_canonical (hs : Canonical s) : CanonicalOut (execIcehouseSpillStart d j s) := by
  refine .onUnit ?_
  split <;> simp [hs]

@[simp] theorem execIcehouseRefillStart_canonical (hs : Canonical s) : CanonicalOut (execIcehouseRefillStart d j s) := by
  refine .onUnit ?_
  split
  · simp [hs]
  · exact hs

@[simp] theorem execIcehouseMoveDone_canonical (hs : Canonical s) : CanonicalOut (execIcehouseMoveDone d j s) := by
  refine .onUnit ?_
  split <;> simp [hs]

@[simp] theorem execIcehouseDeadlockTimeout_canonical (hs : Canonical s) : CanonicalOut (execIcehouseDeadlockTimeout j s) := by
  have le : ∀ t, s.ember ≤ (advanceTo (noteStuck s j) t).ember := fun t => by
    simpa using advanceTo_ember_le (noteStuck s j) t
  refine .onUnit ?_
  dsimp only
  repeat' split
  all_goals simp [hs]

/-! ### Handlers: allocation -/

@[simp] theorem execAllocatorAnswer_canonical (hs : Canonical s) : CanonicalOut (execAllocatorAnswer c s) := by
  refine .onUnit ?_
  split <;> simp [hs]

@[simp] theorem execStashFrameRetry_canonical (hs : Canonical s) : CanonicalOut (execStashFrameRetry c s) := by
  refine .onUnit ?_
  split <;> simp [hs]

/-! ### Handlers: Bellows -/

@[simp] theorem execBellowsRequest_canonical (hs : Canonical s) : CanonicalOut (execBellowsRequest c s) := by
  refine .onUnit ?_
  dsimp only
  repeat' split
  all_goals simp [hs]

@[simp] theorem execBellowsDataReturn_canonical (hs : Canonical s) : CanonicalOut (execBellowsDataReturn c id s) := by
  refine .onUnit ?_
  split
  · simp [hs]
  · exact hs

/-! ### Handlers: Anvil and Tongs -/

@[simp] theorem execTongsOperandArrival_canonical {isB : Bool} (hs : Canonical s) : CanonicalOut (execTongsOperandArrival c isB s) := by
  refine .onUnit ?_
  dsimp only
  repeat' split
  all_goals simp [hs]

/-! ### Handlers: the Hearth -/

@[simp] theorem execWaittExpiry_canonical (hs : Canonical s) : CanonicalOut (execWaittExpiry i c t s) := by
  refine .onUnit ?_
  dsimp only
  repeat' split
  case h_1.isFalse => exact expireObj_canonical.2 (advanceTo_canonical.2 hs)
  all_goals exact hs

@[simp] theorem execWaitReleaseMessage_canonical (hs : Canonical s) : CanonicalOut (execWaitReleaseMessage c t s) := by
  refine .onUnit ?_
  repeat' split
  · rw [modCell_canonical]
    exact hs
  all_goals exact hs

/-! ### Handlers: packets that arrive -/

@[simp] theorem execHearthAtomicApply_canonical (hs : Canonical s) : CanonicalOut (execHearthAtomicApply d s) := by
  refine .onUnit ?_
  dsimp only
  repeat' split
  all_goals simp [hs]

/-! ### Handlers: routers and timers -/

@[simp] theorem execCombineWindowClose_canonical (hs : Canonical s) : CanonicalOut (execCombineWindowClose d id s) := by
  refine .onUnit ?_
  split <;> simp [hs]

@[simp] theorem execPacketResidencyDrop_canonical (hs : Canonical s) : CanonicalOut (execPacketResidencyDrop d id s) := by
  refine .onUnit ?_
  split
  · exact modFab_canonical.2 (advanceTo_canonical.2 hs)
  · exact hs

@[simp] theorem execAckPeriodic_canonical {ch : Nat} (hs : Canonical s) : CanonicalOut (execAckPeriodic d ch s) := by
  refine .onUnit ?_
  split
  · simp [hs]
  · exact hs

@[simp] theorem execChannelResendTimeout_canonical {ch : Nat} (hs : Canonical s) : CanonicalOut (execChannelResendTimeout d ch s) := by
  refine .onUnit ?_
  dsimp only
  repeat' split
  all_goals simp [hs]

@[simp] theorem execChannelEntryIdleFree_canonical {ch : Nat} {sending : Bool} (hs : Canonical s) :
    CanonicalOut (execChannelEntryIdleFree d ch sending s) := by
  refine .onUnit ?_
  repeat' split
  all_goals simp [hs]

@[simp] theorem execRemoteRequestRetry_canonical {tag : Nat} (hs : Canonical s) : CanonicalOut (execRemoteRequestRetry d tag s) := by
  refine .onUnit ?_
  repeat' split
  all_goals simp [hs]

@[simp] theorem execRemoteRequestTimeout_canonical {tag : Nat} (hs : Canonical s) : CanonicalOut (execRemoteRequestTimeout d tag s) := by
  refine .onUnit ?_
  split
  · exact timeOut_canonical hs
  · exact hs

@[simp] theorem execTagQuarantineEnd_canonical {tag : Nat} (hs : Canonical s) : CanonicalOut (execTagQuarantineEnd d tag s) := by
  refine .onUnit ?_
  dsimp only
  split
  · exact hs
  · simp [hs]

@[simp] theorem execKeptResultExpiry_canonical (hs : Canonical s) : CanonicalOut (execKeptResultExpiry d id s) := by
  refine .onUnit ?_
  split
  · exact hs
  · simp [hs]

@[simp] theorem execMarkReceiveRead_canonical (hs : Canonical s) : CanonicalOut (execMarkReceiveRead d s) := by
  refine .onUnit ?_
  repeat' split
  · exact hs
  · exact readMark_canonical.2 hs
  · exact hs

/-! ### Handlers: links -/

@[simp] theorem execLinkRetryDelayExpiry_canonical {l : Nat} (hs : Canonical s) : CanonicalOut (execLinkRetryDelayExpiry l s) := by
  refine .onUnit ?_
  split
  · simp [hs]
  · exact hs

@[simp] theorem execLinkDetectComplete_canonical {l : Nat} (hs : Canonical s) : CanonicalOut (execLinkDetectComplete l s) := by
  refine .onUnit ?_
  dsimp only
  repeat' split
  all_goals simp [hs]

@[simp] theorem execLinkStateTimeout_canonical {l : Nat} {lanes : List Nat} (hs : Canonical s) : CanonicalOut (execLinkStateTimeout l lanes s) := by
  refine .onUnit ?_
  dsimp only
  split
  · exact hs
  · refine foldl_canonical (fun _ _ h => retireLane_canonical h) (linkDown_canonical ?_)
    split <;> simp [hs]

/-! ### Handlers: commits -/

@[simp] theorem execScrubPatrol_canonical {found : List Upset} (hs : Canonical s) : CanonicalOut (execScrubPatrol d found s) := by
  refine .onUnit ?_
  split
  · exact hs
  · exact modStore_canonical.2 (foldl_canonical (fun _ _ h => scrubOne_canonical h) hs)

@[simp] theorem execPageMoveDone_canonical (hs : Canonical s) : CanonicalOut (execPageMoveDone j vpn s) := by
  refine .onUnit ?_
  repeat' split
  · exact foldl_canonical (fun _ _ h => serveWaiting_canonical h) (endPageMove_canonical hs)
  all_goals exact hs

@[simp] theorem execFrameZeroComplete_canonical {frame : Nat} (hs : Canonical s) : CanonicalOut (execFrameZeroComplete d frame s) := by
  refine .onUnit ?_
  split
  · exact hs
  · refine foldl_canonical (fun _ _ h => startWaiting_canonical.2 h) (modStore_canonical.2 (clearErrors_canonical.2 ?_))
    exact canonical_withMem hs (Memory.wf_memZero _ _ _ hs.mem)

@[simp] theorem execItemCommit_canonical (hs : Canonical s) : CanonicalOut (execItemCommit j i s) := by
  refine .onUnit ?_
  dsimp only
  repeat' split
  · exact hs
  · exact hs
  · exact noteStuck_canonical.2 (foldl_canonical (fun _ _ h => commitItem_canonical h) hs)

@[simp] theorem execItemDone_canonical (hs : Canonical s) : CanonicalOut (execItemDone j i s) := by
  refine .onUnit ?_
  split
  · exact hs
  · simp [hs]

@[simp] theorem execPublicationFold_canonical (hs : Canonical s) : CanonicalOut (execPublicationFold j k s) := by
  refine .onUnit ?_
  dsimp only
  repeat' split
  all_goals simp [hs]

/-! ### Handlers: the update engine -/

@[simp] theorem execULdf_canonical {f : UFields} (hs : Canonical s) : CanonicalOut (execULdf d f s) := by
  refine .updInstr hs fun r i sh p => ?_
  dsimp only
  repeat' split
  · exact engineFault_canonical hs
  · exact engineWrite_canonical ‹_› hs
  · exact engineFault_canonical hs
  · exact hs

@[simp] theorem execUStf_canonical {f : UFields} (hs : Canonical s) : CanonicalOut (execUStf d f s) := by
  refine .updInstr hs fun r i sh p => ?_
  dsimp only
  repeat' split
  · exact engineFault_canonical hs
  · exact pageWrite_canonical (pageWrite_canonical hs)
  · exact pageWrite_canonical hs
  · exact pageWrite_canonical hs
  · exact engineWrite_canonical ‹_› hs
  · exact engineFault_canonical hs

@[simp] theorem execULdk_canonical {f : UFields} (hs : Canonical s) : CanonicalOut (execULdk d f s) :=
    .updInstr hs fun _ _ _ _ => hs

@[simp] theorem execUBsum_canonical {f : UFields} (hs : Canonical s) : CanonicalOut (execUBsum d f s) :=
    .updInstr hs fun _ _ _ _ => hs

@[simp] theorem execUBmax_canonical {f : UFields} (hs : Canonical s) : CanonicalOut (execUBmax d f s) :=
    .updInstr hs fun _ _ _ _ => hs

@[simp] theorem execUpdItemLaunch_canonical (hs : Canonical s) : CanonicalOut (execUpdItemLaunch d j i s) := by
  refine .onUnit ?_
  dsimp only
  repeat' split
  · exact hs
  · exact hs
  · exact hs
  · next h => exact modStore_canonical.2 (modItem_canonical.2 (stageShards_canonical h hs))

@[simp] theorem execUpdItemEnd_canonical (hs : Canonical s) : CanonicalOut (execUpdItemEnd d s) := by
  refine .onUnit ?_
  repeat' split
  all_goals simp [hs]

/-! ### Handlers: fetches and scrubs -/

@[simp] theorem execParamFetchStart_canonical (hs : Canonical s) : CanonicalOut (execParamFetchStart d j i s) := by
  refine .onUnit ?_
  dsimp only
  repeat' split
  all_goals simp [hs]

@[simp] theorem execParamFetchComplete_canonical {received : List Byte} (hs : Canonical s) : CanonicalOut (execParamFetchComplete d received s) := by
  refine .onUnit ?_
  split
  · exact hs
  · split
    · split
      · exact hs
      · split
        · simp [hs]
        · simp [hs]
    · exact hs

@[simp] theorem execDigestScrub_canonical (hs : Canonical s) : CanonicalOut (execDigestScrub d j s) := by
  refine .onUnit ?_
  split
  · exact hs
  · refine sweepCaches_canonical (modStore_canonical.2 (foldl_canonical (fun _ _ h => scrubOwner_canonical h) ?_))
    exact foldl_canonical (fun _ _ h => scrubCopy_canonical.2 h) (modJob_canonical.2 hs)

@[simp] theorem execExportRecordWritten_canonical (hs : Canonical s) : CanonicalOut (execExportRecordWritten j s) := by
  refine .onUnit ?_
  dsimp only
  repeat' split
  · exact hs
  · exact hs
  · exact jobFault_canonical hs
  · exact hs
  · next written _ _ _ => exact sweepVersions_canonical (setOutcome_canonical.2 (setPort_canonical.2 (engineWrite_canonical written hs)))
  · next written _ _ => exact sweepVersions_canonical (setOutcome_canonical.2 (engineWrite_canonical written hs))
  · exact hs

/-! ### Handlers: resharding and transitions -/

@[simp] theorem execReshardDescriptorComplete_canonical (hs : Canonical s) : CanonicalOut (execReshardDescriptorComplete d k s) := by
  refine .onUnit ?_
  split
  · exact hs
  · split
    · exact hs
    · split
      · simp [hs]
      · repeat' split
        all_goals simp [hs]

@[simp] theorem execTransitionStart_canonical (hs : Canonical s) : CanonicalOut (execTransitionStart d s) := by
  refine .onUnit ?_
  extract_lets x busy
  split
  · exact hs
  · split
    · exact hs
    · exact foldl_canonical (fun _ _ h => startDescr_canonical h) (modStore_canonical.2 hs)

@[simp] theorem execEpochArrived_canonical (hs : Canonical s) : CanonicalOut (execEpochArrived j s) := by
  refine .onUnit ?_
  dsimp only
  repeat' split
  all_goals simp [hs]

@[simp] theorem execEpochActivationSend_canonical (hs : Canonical s) : CanonicalOut (execEpochActivationSend j s) := by
  refine .onUnit ?_
  dsimp only
  split
  · exact hs
  · exact foldl_canonical (fun _ _ h => lodgeArrive_canonical h) (armNext_canonical.2 hs)

@[simp] theorem execEpochActivate_canonical (hs : Canonical s) : CanonicalOut (execEpochActivate j s) := by
  refine .onUnit ?_
  dsimp only
  repeat' split
  all_goals simp [hs]

/-! ### Handlers: slots of a channel -/

@[simp] theorem execSlotSend_canonical {p : Nat} (hs : Canonical s) : CanonicalOut (execSlotSend c p s) := by
  refine .onUnit ?_
  dsimp only
  repeat' split
  all_goals simp [hs]

@[simp] theorem execSlotLand_canonical {p : Nat} (hs : Canonical s) : CanonicalOut (execSlotLand c p s) := by
  refine .onUnit ?_
  dsimp only
  repeat' split
  all_goals simp [hs]

/-! ### Handlers: the vertical port -/

@[simp] theorem execSpareJournalRecord_canonical (hs : Canonical s) : CanonicalOut (execSpareJournalRecord c s) := by
  refine .onUnit ?_
  split
  · exact hs
  · simp [hs]

/-! ### Handlers: dispatch -/

@[simp] theorem execDLdt_canonical {p : Nat} {f : DFields} (hs : Canonical s) : CanonicalOut (execDLdt p f s) := by
  refine .onDispatch hs ?_
  dsimp only
  split
  all_goals simp [hs]

@[simp] theorem execDNext_canonical {p : Nat} {f : DFields} (hs : Canonical s) : CanonicalOut (execDNext p f s) := by
  refine .onDispatch hs ?_
  repeat' split
  all_goals simp [hs]

@[simp] theorem execNextResume_canonical {p : Nat} (hs : Canonical s) : CanonicalOut (execNextResume p s) := by
  refine .onUnit ?_
  split
  · split
    · exact hs
    · split
      · simp [hs]
      · exact hs
  · split
    · simp [hs]
    · exact hs
  · exact hs

@[simp] theorem execDLaunch_canonical {p : Nat} {f : DFields} (hs : Canonical s) : CanonicalOut (execDLaunch p f s) := by
  refine .onDispatch hs ?_
  dsimp only
  repeat' split
  all_goals simp [hs]

@[simp] theorem execThread0Start_canonical {p b : Nat} (hs : Canonical s) : CanonicalOut (execThread0Start p b s) := by
  refine .onUnit ?_
  dsimp only
  repeat' split
  all_goals simp [hs]

@[simp] theorem execKindleComplete_canonical {p : Nat} (hs : Canonical s) : CanonicalOut (execKindleComplete p s) := by
  refine .onUnit ?_
  dsimp only
  repeat' split
  all_goals simp [hs]

@[simp] theorem execPavilionGate_canonical {p : Nat} (hs : Canonical s) : CanonicalOut (execPavilionGate p s) := by
  refine .onUnit ?_
  dsimp only
  split
  · exact hs
  · exact modPav_canonical.2 (advanceTo_canonical.2 hs)

@[simp] theorem execPavilionOff_canonical {p : Nat} (hs : Canonical s) : CanonicalOut (execPavilionOff p s) := by
  refine .onUnit ?_
  dsimp only
  split
  · exact hs
  · rw [modPav_canonical]
    split
    · exact hs
    · exact advanceTo_canonical.2 hs

/-! ### Handlers: migration -/

@[simp] theorem execDMigrate_canonical {p : Nat} {f : DFields} (hs : Canonical s) : CanonicalOut (execDMigrate p f s) := by
  refine .onDispatch hs ?_
  dsimp only
  repeat' split
  · exact dWrite_canonical hs
  · exact dWrite_canonical (requestMigration_canonical ‹_› hs)
  · exact dWrite_canonical hs

/-! ### Handlers: queues -/

@[simp] theorem execCompletionWrite_canonical {q : QueueId} (hs : Canonical s) : CanonicalOut (execCompletionWrite q s) := by
  refine .onUnit ?_
  dsimp only
  repeat' split
  all_goals simp [hs]

@[simp] theorem execQueueNop_canonical {q : QueueId} (hs : Canonical s) : CanonicalOut (execQueueNop q s) :=
    .onEntry hs fun _ => setOutcome_canonical.2 hs

@[simp] theorem execLoadImage_canonical {sects : JobImage} (hs : Canonical s) : CanonicalOut (execLoadImage sects s) := by
  refine .onEntry hs fun e => ?_
  dsimp only
  repeat' split
  · exact hs
  · exact failEntry_canonical.2 hs
  · exact setOutcome_canonical.2 (toHost_canonical (by simp [execLoadImage.report_, hs]))
  · exact setOutcome_canonical.2 (toHost_canonical (commitLoad_canonical (loadChecks_canonical ‹_› hs)))

@[simp] theorem execUnloadEntry_canonical (hs : Canonical s) : CanonicalOut (execUnloadEntry s) := by
  refine .onEntry hs fun e => ?_
  dsimp only
  repeat' split
  all_goals simp [hs]

@[simp] theorem execUnloadComplete_canonical (hs : Canonical s) : CanonicalOut (execUnloadComplete j s) := by
  refine .onUnit ?_
  dsimp only
  repeat' split
  all_goals simp [hs]

@[simp] theorem execStepEntry_canonical {q : QueueId} (hs : Canonical s) : CanonicalOut (execStepEntry q s) := by
  refine .onEntry hs fun e => ?_
  repeat' split
  all_goals simp [hs]

@[simp] theorem execExportEntry_canonical {q : QueueId} (hs : Canonical s) : CanonicalOut (execExportEntry q s) := by
  refine .onEntry hs fun e => ?_
  dsimp only
  repeat' split
  · exact hs
  · exact failEntry_canonical.2 hs
  · rw [beginEntry_canonical]
    exact hs

@[simp] theorem execImportEntry_canonical {q : QueueId} (hs : Canonical s) : CanonicalOut (execImportEntry q s) := by
  refine .onEntry hs fun e => ?_
  dsimp only
  repeat' split
  all_goals simp [hs]

/-! ### Handlers: resets -/

@[simp] theorem execStackDrainEnd_canonical {aborted : Nat} (hs : Canonical s) : CanonicalOut (execStackDrainEnd d aborted s) := by
  refine .onUnit ?_
  split
  · exact hs
  · extract_lets late t rst r
    have drained : Canonical t := by
      rw [canonical_iff]
      exact advanceTo_canonical.2 hs
    have reset : Canonical r := bumpDist_canonical.2 (setRst_canonical.2 drained)
    repeat' split
    · exact packageReset_canonical reset
    · exact reset
    · exact resetDies_canonical drained

@[simp] theorem execStackHoldTimeout_canonical (hs : Canonical s) : CanonicalOut (execStackHoldTimeout d s) := by
  refine .onUnit ?_
  split
  · exact failSafe_canonical (advanceTo_canonical.2 hs)
  · exact hs

@[simp] theorem execStackReinitComplete_canonical {ok : Bool} {hbmOk : List Bool} (hs : Canonical s) :
    CanonicalOut (execStackReinitComplete d ok hbmOk s) := by
  refine .onUnit ?_
  extract_lets r advanced trained opened rearmed counted
  have fromTimer : Canonical advanced := advanceTo_canonical.2 hs
  have whole : Canonical trained := by
    unfold trained
    split
    · exact freeDie_canonical fromTimer
    · exact foldl_canonical (fun _ _ h => trainHbm_canonical h) fromTimer
  have up : Canonical opened := by
    unfold opened
    split
    · exact whole
    · exact trainUcie_canonical.2 (freeDie_canonical whole)
  have ready : Canonical counted := by
    unfold counted
    split
    · exact setRst_canonical.2 up
    · exact bumpDist_canonical.2 (setRst_canonical.2 up)
  repeat' split
  · exact hs
  · exact failStack_canonical whole
  · exact recoverQueues_canonical.2 ready

@[simp] theorem execPavilionResetHalt_canonical {p : Nat} (hs : Canonical s) : CanonicalOut (execPavilionResetHalt p s) := by
  refine .onUnit ?_
  dsimp only
  split
  · exact hs
  · rw [advanceTo_canonical, canonical_iff]
    exact haltPav_canonical hs

/-! ### Handlers: power -/

@[simp] theorem execPowerDownRequest_canonical (hs : Canonical s) : CanonicalOut (execPowerDownRequest s) := by
  refine .next ?_
  dsimp only
  split
  · exact deassertNext_canonical.2 (canonical_withPwr (packageReset_canonical (canonical_withPwr hs)))
  · exact hs

@[simp] theorem execPowerDownStepTimer_canonical (hs : Canonical s) : CanonicalOut (execPowerDownStepTimer s) := by
  refine .next ?_
  split
  · exact deassertNext_canonical.2 (advanceTo_canonical.2 hs)
  · exact hs

@[simp] theorem execPowerGoodTimeout_canonical {r : Rail} (hs : Canonical s) : CanonicalOut (execPowerGoodTimeout r s) := by
  refine .onUnit ?_
  split
  · exact railFault_canonical (advanceTo_canonical.2 hs)
  · exact hs

@[simp] theorem execRailOutOfTolerance_canonical (hs : Canonical s) : CanonicalOut (execRailOutOfTolerance s) := by
  refine .next ?_
  split
  · exact railFault_canonical (passTicks_canonical.2 hs)
  · exact hs

@[simp] theorem execPowerUpRequest_canonical (hs : Canonical s) : CanonicalOut (execPowerUpRequest s) := by
  refine .next ?_
  dsimp only
  repeat' split
  · exact advanceRows_canonical.2 (enterRow_canonical.2 (passTicks_canonical.2 (canonical_withPwr hs)))
  · exact advanceRows_canonical.2 (enterRow_canonical.2 (canonical_withPwr hs))
  · exact hs

@[simp] theorem execRefclkLoss_canonical {k : RefClk} (hs : Canonical s) : CanonicalOut (execRefclkLoss k s) := by
  have lost : Canonical { passTicks s 50 with pwr := { (passTicks s 50).pwr with refLost := (passTicks s 50).pwr.refLost ++ [k] } } :=
    canonical_withPwr (passTicks_canonical.2 hs)
  refine .onUnit ?_
  dsimp only
  repeat' split
  · exact hs
  · exact foldl_canonical (fun _ _ h => linkDown_canonical h) lost
  · exact railFault_canonical lost

@[simp] theorem execSleepEntry_canonical (hs : Canonical s) : CanonicalOut (execSleepEntry s) := by
  refine .next ?_
  split
  · refine canonical_withPwr (cutCompute_canonical.2 (countSkipped_canonical.2 (foldl_canonical (fun s h hs => ?_) ?_)))
    · split
      · exact setHbmState_canonical.2 hs
      · exact hs
    · exact foldl_canonical (fun _ _ h => modPav_canonical.2 h) (passTicks_canonical.2 (advanceTo_canonical.2 hs))
  · exact hs

@[simp] theorem execSleepExit_canonical (hs : Canonical s) : CanonicalOut (execSleepExit s) := by
  refine .next ?_
  split
  · exact wake_canonical hs
  · exact hs

@[simp] theorem execSleepExitComplete_canonical (hs : Canonical s) : CanonicalOut (execSleepExitComplete s) := by
  refine .next ?_
  dsimp only
  split
  · refine foldl_canonical (fun s d hs => ?_) (canonical_withPwr hs)
    split
    · exact startHold_canonical.2 (setRst_canonical.2 hs)
    · exact hs
  · exact hs

@[simp] theorem execThrottlePeriod_canonical {m : PowerRead} (hs : Canonical s) : CanonicalOut (execThrottlePeriod m s) := by
  refine .next ?_
  dsimp only
  split
  · refine setDuty_canonical.2 (foldl_canonical (fun _ _ h => modHbm_canonical.2 h) (canonical_withPwr ?_))
    exact countSkipped_canonical.2 (advanceTo_canonical.2 hs)
  · exact hs

@[simp] theorem execOverCurrent_canonical (hs : Canonical s) : CanonicalOut (execOverCurrent d s) := by
  refine .onUnit ?_
  dsimp only
  split
  · exact setDuty_canonical.2 (canonical_withPwr (countSkipped_canonical.2 hs))
  · exact hs

@[simp] theorem execProchotChange_canonical {high : Bool} (hs : Canonical s) : CanonicalOut (execProchotChange high s) := by
  refine .next ?_
  split
  · exact canonical_withPwr hs
  · exact hs

@[simp] theorem execThermalTrip_canonical {hbm : Bool} {idx temp : Nat} (hs : Canonical s) : CanonicalOut (execThermalTrip hbm idx temp s) := by
  refine .onUnit ?_
  by_cases early : (!powered s) = true ∨ temp < if hbm then 100 else 105
  · rw [if_pos early]
    exact hs
  · rw [if_neg early]
    refine failSafe_canonical (canonical_withPwr ?_)
    repeat' split
    · exact modHbm_canonical.2 hs
    · exact canonical_withPwr hs
    · exact canonical_withPwr hs

/-! ### Handlers: host memory and modules -/

@[simp] theorem execUcieTrainingRetry_canonical {trained : List Nat} (hs : Canonical s) : CanonicalOut (execUcieTrainingRetry trained s) := by
  refine .next ?_
  split
  · exact trainModules_canonical.2 (passTicks_canonical.2 hs)
  · exact hs

@[simp] theorem execHdmRead_canonical {a : Nat} (hs : Canonical s) : CanonicalOut (execHdmRead a s) := by
  have woken : Canonical (if hdmCovers s a then hdmWake s else s) := by
    split
    · exact hdmWake_canonical hs
    · exact hs
  refine .next ?_
  dsimp only
  split
  case h_1 => exact woken
  case h_5 => exact readLine_canonical woken
  all_goals exact woken

@[simp] theorem execHdmWrite_canonical {a : Nat} {l : List Byte} (hs : Canonical s) : CanonicalOut (execHdmWrite a l s) := by
  refine .next ?_
  dsimp only
  repeat' split
  all_goals simp [hs]

@[simp] theorem execHostSyncRead_canonical (hs : Canonical s) : CanonicalOut (execHostSyncRead off size s) := by
  refine .next ?_
  dsimp only
  repeat' split
  · exact hs
  · exact lostRequest_canonical.2 hs
  · rw [recordErr_canonical]
    exact hs
  · exact readObject_canonical.2 (drainPort_canonical.2 hs)

/-! ### Handlers: boot and enrolment -/

@[simp] theorem execColdBoot_canonical {trained : List Nat} (hs : Canonical s) : CanonicalOut (execColdBoot trained s) := by
  refine .next ?_
  split
  · exact bootRom_canonical.2 (canonical_withPwr hs)
  · exact hs

/-! ### Handlers: attestation -/

@[simp] theorem execSpdmGetMeasurements_canonical {index : Nat} {sign : Bool} {nonce : BitVec 256} (hs : Canonical s) :
    CanonicalOut (execSpdmGetMeasurements index sign nonce s) := by
  refine .next ?_
  dsimp only
  repeat' split
  all_goals simp [hs]

/-! ### Handlers: Quench -/

@[simp] theorem execQuenchReadStart_canonical (hs : Canonical s) : CanonicalOut (execQuenchReadStart c s) := by
  refine .onUnit ?_
  dsimp only
  repeat' split
  all_goals simp [hs]

@[simp] theorem execQuenchReadDone_canonical (hs : Canonical s) : CanonicalOut (execQuenchReadDone c s) := by
  refine .onUnit ?_
  dsimp only
  repeat' split
  all_goals simp [hs]

/-! ### Handlers: Temper -/

@[simp] theorem execTemperPass_canonical {reads : List TemperRead} (hs : Canonical s) : CanonicalOut (execTemperPass reads s) := by
  refine .next ?_
  split
  · have tempered : Canonical (((List.range 64).zip reads).foldl (fun s e => temperOne s e.1 e.2) (advanceTo s (s.temperAt + s.period * 2 ^ 25))) :=
      foldl_canonical (fun _ _ h => temperOne_canonical h) (advanceTo_canonical.2 hs)
    exact tempered
  · exact hs

/-! ### Handlers: register blocks read -/

@[simp] theorem execPowerLoss_canonical (hs : Canonical s) : CanonicalOut (execPowerLoss s) := by
  have reset : Canonical (packageReset s) := packageReset_canonical hs
  exact .next reset

theorem exec_canonical {i : Instr} (hs : Canonical s) : CanonicalOut (exec i s) := by
  cases i
  case kNop | kJmp | kJal | kJr | kJalr | kTspawn | kTjoin | kYield | kHalt | kRdsr | kSpark =>
    exact .onUnit (issueB_canonical (fun _ _ h => by simp [h]) hs)
  case kBeq | kBne | kBlt | kBge | kBltu | kBgeu => exact .onUnit (branch_canonical hs)
  case kVadd | kVsub | kVmul | kVmin | kVmax => exact .onUnit (vecF2_canonical hs)
  case kVfma | kVdsoftmax | kMfirst | kVcvt | kVsel | kVbcast | kVtrans | kVextr | kVins | kVspark => exact .onUnit (vecOp_canonical hs)
  case kVabs | kVneg | kVsqrt => exact .onUnit (vecF1_canonical hs)
  case kVdiv | kVdsqrt => exact .onUnit (vec2_canonical hs)
  case kVadds | kVmuls => exact .onUnit (vecFS_canonical hs)
  case kViadd | kViaddSat | kVisub | kVisubSat | kVand | kVor | kVxor | kVshl | kVshr | kVsra => exact .onUnit (vecI2_canonical hs)
  case kVexp | kVlog | kVrcp | kVrsqrt | kVtanh | kVsigm => exact .onUnit (vecSfu_canonical hs)
  case kVdsigm | kVdtanh | kVdrelu | kVdexp | kVdrcp => exact .onUnit (vecDeriv_canonical hs)
  case kVcmpeq | kVcmplt | kVcmple => exact .onUnit (vecCmp_canonical hs)
  case kVtestnan | kVtestinf | kVtestfin => exact .onUnit (vecTest_canonical hs)
  case kMand | kMor | kMxor | kMnot => exact .onUnit (maskOp_canonical hs)
  case kVrsumRow | kVrsumCol | kVrmaxRow | kVrmaxCol | kVrminRow | kVrminCol => exact .onUnit (vecReduce_canonical hs)
  case kVmov => exact .onUnit (vec1_canonical hs)
  case kAllocOut | kAllocTmp | kFreeTmp | kPublish | kQLoad | kQStart | kQStop | kQPopS | kQStatus =>
    exact .onUnit (issueR_canonical (fun _ _ h => by simp [h]) hs)
  case kVld | kVldQ | kVst | kVldm | kVstm => exact .onUnit (issueVM_canonical (fun _ _ h => by simp [h]) hs)
  case kMma | kMmaZ => exact .onUnit (issueX_canonical hs)
  case kLd | kLds | kSt | kLdx | kStx | kAadd | kAfaddF32 | kAxs | kAmin | kAmax | kAxchg | kAcas | kFenceThread | kFenceCell | kSyncArm
      | kSyncReset | kSyncWait | kSyncWaitt | kSyncRead => exact .onUnit (issueM_canonical (fun _ _ h => by simp [h]) hs)
  case kSyncArrive =>
    exact .onUnit (issueM_canonical (fun _ _ h => syncOp_canonical (fun _ _ h => postOp_canonical.2 h) (fun _ _ h => farArrive_canonical h) h) hs)
  case zfpRd | zfpWr | zfpAtom | zfpArrive | zfpMark | zfpXfer | zfpCrd | zfpCrdx | zfpCdata | zfpCrecall | zfpCrack | zfpCwb =>
    exact .onUnit (takePacket_canonical hs)
  case uLdc | uFadd | uFsub | uFmul | uFma | uFdiv | uFsqrt | uFmin | uFmax | uFabs | uFneg | uFcmplt | uFcmpeq | uSel | uFtestfin => exact .updMap hs
  case kAzero | kApreload => exact .onUnit (issueQ_canonical (fun _ _ h => modCell_canonical.2 h) hs)
  case kQuench | kQuenchReset | kQuenchPreload => exact .onUnit (issueQ_canonical (fun _ _ h => by simp [h]) hs)
  case kAdd | kSub | kMul | kMulh | kMulhu | kDiv | kDivu | kRem | kRemu | kAnd | kOr | kXor | kShl | kShr | kSra | kSlt | kSltu | kMin | kMax
      | kMinu | kMaxu | kSel | kFaddF32 | kFsubF32 | kFmulF32 | kFmaF32 | kFminF32 | kFmaxF32 | kFcmpltF32 | kFcmpeqF32 | kFcvtF32I64
      | kFcvtI64F32 => exact .onUnit (scalarR_canonical hs)
  case kAddi | kAndi | kOri | kXori | kShli | kShri | kSrai | kSlti | kSltiu | kLih => exact .onUnit (scalarI_canonical hs)
  case cellReport | anvilChunkLand | syncPortUpdate | packetForward | regionTransfer | markSend | linkTrainComplete | linkAlignComplete
      | linkNegotiateComplete | linkLoss | flitReceive | linkRetrain | linkEnable | creditReturn | verticalBeatCrcFail | laneTest | dNop | dAdd
      | dAddi | dSub | dAndi | dOr | dShli | dShri | dMuli | dLds | dSts | dBeq | dBne | dBltu | dJmp | dHalt | dKindle | dArg | dStat
      | tailWrite | cqheadWrite | queueEnable | queueDisable | queueEntryAccept | storeDieSelfFault | computeDieSelfFault | hbmReinitComplete
      | powerGoodRise | powerGoodFall | ucieCrcError | syncopArrive | syncopArm | syncopReset | syncopSetevt | syncopClrevt | eventPendClear
      | eventSetp | eventEoi => exact .onUnit (by simp [hs])
  case zfpRack => exact .onUnit (takeResponse_canonical (fun _ h => takeRack_canonical h) hs)
  case zfpAck => exact .onUnit (takeResponse_canonical (fun _ h => takeAck_canonical h) hs)
  case zfpStatus => exact .onUnit (takeResponse_canonical (fun _ h => takeStatus_canonical h) hs)
  case zfpRdrsp => exact .onUnit (takeResponse_canonical (fun _ h => takeRdrsp_canonical h) hs)
  case zfpAtomrsp => exact .onUnit (takeResponse_canonical (fun _ h => takeAtomrsp_canonical h) hs)
  case pkgidWrite | resetPackage | resetStack | resetComputeDie | resetPavilion | resetLink | failsafeEnter | lodgeWatchdogExpiry
      | lodgeStateUncorrectable | syncWindowWrite | bootGo | imageVerifyComplete | nonceDraw | enrollAdd | enrollRemove | enrollRelease
      | debugUnlock | spdmGetVersion | spdmGetCapabilities | spdmNegotiateAlgorithms | spdmGetDigests | spdmGetCertificate | spdmChallenge
      | spdmUnsupportedRequest | eventRoute | registerWrite | registerRead => exact .next (by simp [hs])
  case migrationEndMarker | migrationMoveMarker | migrationComplete => exact .onUnit (onMig_canonical (fun _ h => by simp [h]) hs)
  case refclkReturn => exact .onUnit (canonical_withPwr hs)
  all_goals simp [exec, hs]

theorem idleTick_canonical (hs : Canonical s) : Canonical (idleTick s) := by
  unfold idleTick
  split
  · exact hs
  · exact passTicks_canonical.2 hs

end

/-- Settles O5, by cases on the queue of commands: an idle tick, or the handler of the command in front. -/
theorem everyStepKeepsMemoryCanonical : Obligations.EveryStepKeepsMemoryCanonical := by
  intro s u mem host next
  have hs : Canonical s := ⟨mem, host⟩
  cases queue : s.pending with
  | nil =>
    rw [step_nil queue] at next
    obtain rfl := Host.Outcome.next.inj next
    exact idleTick_canonical hs
  | cons c rest =>
    rw [step_cons queue] at next
    have queued : Canonical { s with pending := rest } := hs
    exact exec_canonical queued u next

/-- Settles O8: both memories are empty after reset. -/
theorem resetMemoryIsCanonical : Obligations.ResetMemoryIsCanonical := ⟨rfl, rfl, fun _ => ⟨rfl, rfl⟩⟩

end Sys2Proof.Machine
end

section

/-!
PROOF. Scrub, page moves, zeroed frames, publication and the Icehouse (O32).

What a command answers is read off its handler, whose checks the hypotheses discharge. What then stands in memory and in the job needs, of the
functions that free frames or drop entries on the way, which fields of a job they leave: those come first.
-/
namespace Sys2Proof.Machine
open Sys2Proof.Claim

/-! ### What freed frames and passing ticks leave of jobs -/

/-- A frame that is freed changes a job's counts of frames and nothing else of it (R173). -/
theorem releaseFrame_job (s : State) (f k : Nat) :
    ∃ a b, getJob (releaseFrame s f) k = { getJob s k with usedStore := a, usedHbm := b } := by
  unfold releaseFrame
  dsimp only
  repeat' split
  · exact ⟨_, _, rfl⟩
  · exact ⟨_, _, rfl⟩
  · rw [countFrame, getJob_modJob_if]
    repeat' split
    all_goals exact ⟨_, _, rfl⟩
  · exact ⟨_, _, rfl⟩

theorem releaseFrames_job (s : State) (l : List Nat) (k : Nat) :
    ∃ a b, getJob (releaseFrames s l) k = { getJob s k with usedStore := a, usedHbm := b } := by
  refine List.foldlRecOn (motive := fun t => ∃ a b, getJob t k = { getJob s k with usedStore := a, usedHbm := b }) l releaseFrame ⟨_, _, rfl⟩ ?_
  rintro t ⟨a, b, eq⟩ f -
  obtain ⟨a', b', eq'⟩ := releaseFrame_job t f k
  exact ⟨a', b', by rw [eq', eq]⟩

section
variable (s : State) (j d : Nat)

@[simp] theorem invalidate_mem (vpns : List Nat) : (invalidate s j d vpns).mem = s.mem := rfl
@[simp] theorem invalidate_fabs (vpns : List Nat) : (invalidate s j d vpns).fabs = s.fabs := rfl
@[simp] theorem getJob_invalidate (vpns : List Nat) (k : Nat) : getJob (invalidate s j d vpns) k = getJob s k := rfl

theorem freePages_frame (l : List Nat) : ∃ m cells, freePages s j d l = { s with mem := m, cells := cells } := by
  have zeroed : ∃ m, l.foldl (fun s a => { s with mem := memZero s.mem a 65536 }) s = { s with mem := m } :=
    List.foldlRecOn (motive := fun t => ∃ m, t = { s with mem := m }) l _ ⟨_, rfl⟩ (by rintro _ ⟨m, rfl⟩ a -; exact ⟨_, rfl⟩)
  obtain ⟨m, eq⟩ := zeroed
  unfold freePages
  dsimp only
  rw [eq]
  split
  · exact ⟨_, _, rfl⟩
  · exact ⟨_, _, rfl⟩

@[simp] theorem freePages_jobs (l : List Nat) : (freePages s j d l).jobs = s.jobs := by
  obtain ⟨_, _, eq⟩ := freePages_frame s j d l
  rw [eq]

@[simp] theorem freePages_ctxs (l : List Nat) : (freePages s j d l).ctxs = s.ctxs := by
  obtain ⟨_, _, eq⟩ := freePages_frame s j d l
  rw [eq]

@[simp] theorem countBelv_jobs (n p : Nat) : (countBelv s n p).jobs = s.jobs := by
  unfold countBelv
  dsimp only
  repeat' split
  all_goals rfl

@[simp] theorem countHeld_jobs : (countHeld s d).jobs = s.jobs := by
  unfold countHeld
  dsimp only
  split <;> rfl

@[simp] theorem expireObj_jobs : (expireObj s d).jobs = s.jobs := by
  rcases expireObj_cases s d with ⟨eq, -⟩ | ⟨eq, -⟩ <;> rw [eq]
  rfl

theorem foldl_jobs {α : Type} {f : State → α → State} (h : ∀ s a, (f s a).jobs = s.jobs) (l : List α) : (l.foldl f s).jobs = s.jobs :=
  List.foldlRecOn (motive := fun t => t.jobs = s.jobs) l f rfl fun t eq a _ => (h t a).trans eq

/-- Jobs stand still while ticks pass (R487). -/
@[simp] theorem advanceTo_jobs (t : Nat) : (advanceTo s t).jobs = s.jobs := by
  unfold advanceTo passTicks expireWaits
  split
  · rw [foldl_jobs _ expireObj_jobs, foldl_jobs _ countHeld_jobs]
    split
    · exact foldl_jobs _ (countBelv_jobs · _) _
    · rfl
  · rfl

end

theorem getJob_of_jobs {s u : State} (h : u.jobs = s.jobs) (k : Nat) : getJob u k = getJob s k := by rw [getJob, h, getJob]

theorem noteStuck_job (s : State) (j : Nat) : ∃ t, getJob (noteStuck s j) j = { getJob s j with stuckSince := t } := ⟨_, getJob_setJob ..⟩

theorem jobLive_noteStuck (s : State) (j : Nat) : jobLive (noteStuck s j) j = jobLive s j := by
  obtain ⟨t, eq⟩ := noteStuck_job s j
  rw [jobLive, eq]
  rfl

theorem jobLive_parts {s : State} {j : Nat} (live : jobLive s j = true) :
    (getJob s j).loaded = true ∧ (getJob s j).faulted = false ∧ running s = true := by
  simpa [jobLive, and_assoc] using live

/-! ### Scrub, page moves, zeroing -/

theorem startWaiting_of_noMoves {s : State} {j : Nat} (none : (getJob s j).moves = []) (d : Nat) : startWaiting s j d = s := by
  simp [startWaiting, none]

theorem foldl_startWaiting_of_noMoves {s : State} (d : Nat) (l : List Nat) (none : ∀ j ∈ l, (getJob s j).moves = []) :
    l.foldl (fun s j => startWaiting s j d) s = s := by
  induction l with
  | nil => rfl
  | cons j rest ih =>
    rw [List.foldl_cons, startWaiting_of_noMoves (none j List.mem_cons_self)]
    exact ih fun k hk => none k (List.mem_cons_of_mem _ hk)

theorem exec_pageMoveDone {s : State} {j : Nat} {m : PageMove} (ok : jobOk j = true)
    (found : (getJob s j).moves.find? (fun n => n.started && decide (n.vpn = m.vpn)) = some m) (loaded : (getJob s j).loaded = true)
    (runs : running s = true) : exec (.pageMoveDone j m.vpn) s = .next ((List.range 4).foldl serveWaiting (endPageMove s j m)) := by
  change onUnit (jobOk j) _ = _
  rw [ok, onUnit_true, found]
  simp [loaded, runs]

/-- The state after a frame has been zeroed: its bytes, the errors known there, its entry in the frame table (R504). -/
def zeroedFrame (s : State) (d f : Nat) : State :=
  modStore (clearErrors { s with mem := memZero s.mem (f * 65536) 65536 } (f * 65536) 65536) d (fun x => { x with frames := mdel f x.frames })

theorem exec_frameZeroComplete {s : State} {d f : Nat} (ok : storeOk d = true) (zeroing : (mget ⟨.free, 0⟩ (getStore s d).frames f).state = .zeroing)
    (none : ∀ j, j < 8 → (getJob s j).moves = []) : exec (.frameZeroComplete d f) s = .next (zeroedFrame s d f) := by
  change onUnit (storeOk d) _ = _
  rw [ok, onUnit_true, if_neg (by simp [zeroing])]
  exact congrArg _ (foldl_startWaiting_of_noMoves d _ fun j hj => none j (List.mem_range.mp hj))

theorem exec_scrubPatrol {s : State} {d : Nat} {found : List Upset} (ok : storeOk d = true) (runs : running s = true) (up : stackUp s d = true)
    (here : ∀ g ∈ found, wordAt s d g.addr = true) (clean : s.upsets = []) :
    exec (.scrubPatrol d found) s =
      .next (modStore (found.foldl (fun s g => scrubOne s d g) s) d (fun x => { x with passes := wrap32 (x.passes + 1) })) := by
  change onUnit (storeOk d) _ = _
  rw [ok, onUnit_true, if_neg (by simpa [runs, up] using here), clean]
  rfl

theorem storeEventEffects : StoreEventEffects := by
  intro s
  refine ⟨fun d ok runs up clean => ?_, fun d found ok runs up here clean => exec_scrubPatrol ok runs up here clean,
    fun j m ok found loaded runs => exec_pageMoveDone ok found loaded runs, fun d f ok zeroing none => ?_⟩
  · exact ⟨_, exec_scrubPatrol ok runs up (fun _ h => absurd h List.not_mem_nil) clean, by simp, rfl, rfl⟩
  · exact ⟨_, exec_frameZeroComplete ok zeroing none, by simp [zeroedFrame, mget_mdel_same], fun a => memByte_memZero s.mem (f * 65536) 65536 a⟩

/-! ### The end of a page move -/

theorem dirLine_pend_of_noneWaits {s : State} {r : Nat} (n : Nat) (none : noneWaits s (r % 4)) : (dirLine s r n).pend = [] := by
  have reads : ∀ l : List (Nat × DLine), (∀ e ∈ l, e.2.pend = []) → ∀ k, (mget DLine.reset l k).pend = [] := by
    intro l h k
    induction l with
    | nil => rfl
    | cons e rest ih =>
      rw [mget]
      split
      · exact h _ List.mem_cons_self
      · exact ih fun x hx => h x (List.mem_cons_of_mem _ hx)
  exact reads _ none.2 _

/-- Where no request waits there is none to serve. -/
theorem serveWaiting_of_noneWaits {s : State} {d : Nat} (hd : d < 4) (none : ∀ k, k < 4 → noneWaits s k) : serveWaiting s d = s := by
  have lines : ∀ l : List (Nat × DLine), l.foldl (fun s e => serveDir (2 * e.2.pend.length + 4) s (e.1 / 2 ^ 34) (e.1 % 2 ^ 34)) s = s := by
    intro l
    induction l with
    | nil => rfl
    | cons e rest ih =>
      have idle : serveDir (2 * e.2.pend.length + 4) s (e.1 / 2 ^ 34) (e.1 % 2 ^ 34) = s := by
        rw [serveDir, dirLine_pend_of_noneWaits _ (none _ (Nat.mod_lt _ (by decide)))]
      rw [List.foldl_cons, idle, ih]
  unfold serveWaiting
  rw [(none d hd).1]
  exact lines _

theorem serveAll_of_noneWaits {s : State} (none : ∀ k, k < 4 → noneWaits s k) (l : List Nat) (hl : ∀ d ∈ l, d < 4) :
    l.foldl serveWaiting s = s := by
  induction l with
  | nil => rfl
  | cons d rest ih =>
    rw [List.foldl_cons, serveWaiting_of_noneWaits (hl d List.mem_cons_self) none]
    exact ih fun k hk => hl k (List.mem_cons_of_mem _ hk)

theorem takeFrame_fabs_mem (s : State) (j f : Nat) (st : FState) :
    (takeFrame s j f st).fabs = s.fabs ∧ (takeFrame s j f st).mem = s.mem := by
  unfold takeFrame
  dsimp only
  split
  · exact ⟨rfl, rfl⟩
  · exact ⟨rfl, rfl⟩

/-- A page-in that starts leaves the fabric and memory. -/
theorem startWaiting_fabs_mem (s : State) (j d : Nat) : (startWaiting s j d).fabs = s.fabs ∧ (startWaiting s j d).mem = s.mem := by
  unfold startWaiting
  repeat' split
  · exact ⟨rfl, rfl⟩
  · rw [startMove, modJob_eq]
    exact takeFrame_fabs_mem ..
  · exact ⟨rfl, rfl⟩

theorem takeFrame_moves (s : State) (j f : Nat) (st : FState) : (getJob (takeFrame s j f st) j).moves = (getJob s j).moves := by
  unfold takeFrame countFrame
  dsimp only
  split
  · rw [getJob_modJob_if, if_pos rfl]
    split <;> rfl
  · rfl

/-- The page-in that starts is one that waited: so none leaves an address that no listed move leaves. -/
theorem startWaiting_moves {s : State} {j d a : Nat} (none : ∀ n ∈ (getJob s j).moves, n.fromAddr ≠ a) :
    ∀ n ∈ (getJob (startWaiting s j d) j).moves, n.fromAddr ≠ a := by
  unfold startWaiting
  split
  · exact none
  · rename_i m found
    have waited : m.fromAddr ≠ a := none m (List.mem_of_find?_eq_some found)
    split
    · intro n hn
      rw [startMove, getJob_modJob_if, if_pos rfl] at hn
      simp only [mapLeaves, takeFrame_moves, List.mem_append, List.mem_filter, List.mem_singleton] at hn
      rcases hn with ⟨old, -⟩ | rfl
      · exact none n old
      · exact waited
    · exact none

theorem releaseFrame_fabs (s : State) (f : Nat) : (releaseFrame s f).fabs = s.fabs := by
  unfold releaseFrame
  dsimp only
  repeat' split
  all_goals rfl

theorem releaseFrame_mem (s : State) (f : Nat) :
    (releaseFrame s f).mem = s.mem ∨ (releaseFrame s f).mem = memZero s.mem (f * 65536) 65536 := by
  unfold releaseFrame
  dsimp only
  repeat' split
  · exact .inr rfl
  all_goals exact .inl rfl

/-- The leaf of a page that has been copied names the new frame, the move has ended and translations are dropped; the old frame still stands (R175). -/
def pageMoved (s : State) (j d : Nat) (m : PageMove) : State :=
  modStore
    (invalidate
      (modJob s j (fun jb =>
        let jb := mapLeaves jb (atAddr m.fromAddr) (fun l => { l with target := .phys m.toAddr, loc := if m.toAddr < storeEnd then 0 else 1 })
        { jb with moves := jb.moves.filter (fun n => decide (n.fromAddr ≠ m.fromAddr)) }))
      j d [m.vpn])
    d (fun x => if m.pageIn then { x with pageIn := wrap32 (x.pageIn + 1) } else { x with evict := wrap32 (x.evict + 1) })

theorem endPageMove_eq (s : State) (j : Nat) (m : PageMove) :
    endPageMove s j m =
      startWaiting
        (releaseFrame (pageMoved { s with mem := memWrite s.mem m.toAddr (memRead s.mem m.fromAddr 65536) } j (dieOfAddr s m.fromAddr) m)
          (m.fromAddr / 65536))
        j (dieOfAddr s m.fromAddr) := rfl

theorem pageMoved_mem (s : State) (j d : Nat) (m : PageMove) : (pageMoved s j d m).mem = s.mem := by
  rw [pageMoved, modStore_eq, setStore_mem, invalidate_mem, modJob_eq, setJob_mem]

theorem pageMoved_fabs (s : State) (j d : Nat) (m : PageMove) : (pageMoved s j d m).fabs = s.fabs := by
  rw [pageMoved, modStore_eq, setStore_fabs, invalidate_fabs, modJob_eq, setJob_fabs]

theorem pageMoved_moves (s : State) (j d : Nat) (m : PageMove) : ∀ n ∈ (getJob (pageMoved s j d m) j).moves, n.fromAddr ≠ m.fromAddr := by
  intro n hn
  rw [pageMoved, modStore_eq, getJob_setStore, getJob_invalidate, modJob_eq, getJob_setJob] at hn
  exact of_decide_eq_true (List.mem_filter.mp hn).2

theorem memRead_memZero_apart (m : Mem) {a b n k : Nat} (h : a + n ≤ b ∨ b + k ≤ a) : memRead (memZero m b k) a n = memRead m a n := by
  refine List.map_congr_left fun i hi => ?_
  have := List.mem_range.mp hi
  rw [memByte_memZero, if_neg (by omega)]

theorem memRead_memZero_same (m : Mem) (a n : Nat) : memRead (memZero m a n) a n = List.replicate n 0 := by
  refine List.ext_getElem (by simp [memRead]) fun i h _ => ?_
  have hi : i < n := by simpa [memRead] using h
  simp [memRead, memByte_memZero, hi]

/-- Bytes copied are read where they were copied to. -/
theorem memRead_copied (m : Mem) (a b n : Nat) : memRead (memWrite m b (memRead m a n)) b n = memRead m a n := by
  have len : (memRead m a n).length = n := by simp [memRead]
  have := memRead_memWrite_same m b (memRead m a n)
  rwa [len] at this

theorem endPageMove_fabs (s : State) (j : Nat) (m : PageMove) : (endPageMove s j m).fabs = s.fabs := by
  rw [endPageMove_eq, (startWaiting_fabs_mem ..).1, releaseFrame_fabs, pageMoved_fabs]

/-- The page reads in its new frame what it read in its old one: freeing that one zeroes at most its own 64 KiB (R173, R175). -/
theorem endPageMove_copies {s : State} {m : PageMove} (j : Nat) (fromPage : m.fromAddr % 65536 = 0) (toPage : m.toAddr % 65536 = 0)
    (ne : m.fromAddr ≠ m.toAddr) : memRead (endPageMove s j m).mem m.toAddr 65536 = memRead s.mem m.fromAddr 65536 := by
  have apart : m.toAddr + 65536 ≤ m.fromAddr / 65536 * 65536 ∨ m.fromAddr / 65536 * 65536 + 65536 ≤ m.toAddr := by omega
  rw [endPageMove_eq, (startWaiting_fabs_mem ..).2]
  rcases releaseFrame_mem (pageMoved { s with mem := memWrite s.mem m.toAddr (memRead s.mem m.fromAddr 65536) } j (dieOfAddr s m.fromAddr) m)
    (m.fromAddr / 65536) with eq | eq
  · rw [eq, pageMoved_mem, memRead_copied]
  · rw [eq, pageMoved_mem, memRead_memZero_apart _ apart, memRead_copied]

theorem endPageMove_moves (s : State) (j : Nat) (m : PageMove) : ∀ n ∈ (getJob (endPageMove s j m) j).moves, n.fromAddr ≠ m.fromAddr := by
  rw [endPageMove_eq]
  generalize { s with mem := memWrite s.mem m.toAddr (memRead s.mem m.fromAddr 65536) } = t
  refine startWaiting_moves ?_
  obtain ⟨_, _, eq⟩ := releaseFrame_job (pageMoved t j (dieOfAddr s m.fromAddr) m) (m.fromAddr / 65536) j
  rw [eq]
  exact pageMoved_moves t j _ m

theorem exec_pageMoveDone_alone {s : State} {j : Nat} {m : PageMove} (ok : jobOk j = true) (live : jobLive s j = true)
    (found : (getJob s j).moves.find? (fun n => n.started && decide (n.vpn = m.vpn)) = some m) (none : ∀ k, k < 4 → noneWaits s k) :
    exec (.pageMoveDone j m.vpn) s = .next (endPageMove s j m) := by
  obtain ⟨loaded, -, runs⟩ := jobLive_parts live
  have quiet : ∀ k, k < 4 → noneWaits (endPageMove s j m) k := fun k hk => by
    rw [noneWaits, getFab, endPageMove_fabs]
    exact none k hk
  rw [exec_pageMoveDone ok found loaded runs, serveAll_of_noneWaits quiet _ fun d hd => List.mem_range.mp hd]

/-! ### Commit -/

theorem exec_itemCommit {s : State} {j i : Nat} {it : Item} (ok : jobOk j = true) (live : jobLive s j = true)
    (found : mfind (getJob s j).items i = some it) (runs : it.state = .running) (noUpd : it.phase ≠ 4)
    (reported : groupReported (getJob s j) (groupOf (getJob s j) it) = true) (whole : groupWhole (getJob s j) it (groupOf (getJob s j) it) = true)
    (members : ∀ m ∈ (groupOf (getJob s j) it).filterMap (fun k => mfind (getJob s j).items k),
      stagedMoves (getJob s j) m = false ∧ stackUp s m.die = true) :
    exec (.itemCommit j i) s = .next (noteStuck ((groupOf (getJob s j) it).foldl (commitItem j) s) j) := by
  have still : ((groupOf (getJob s j) it).filterMap (fun k => mfind (getJob s j).items k)).any (stagedMoves (getJob s j)) = false :=
    List.any_eq_false.mpr fun m hm => by simp [(members m hm).1]
  have up : ((groupOf (getJob s j) it).filterMap (fun k => mfind (getJob s j).items k)).all (fun m => stackUp s m.die) = true :=
    List.all_eq_true.mpr fun m hm => (members m hm).2
  change onUnit (jobOk j) _ = _
  rw [ok, onUnit_true]
  dsimp only
  rw [found]
  dsimp only
  rw [if_neg (by simp only [live, runs, noUpd, reported, whole, still, up]; decide)]

theorem exec_itemDone {s : State} {j i : Nat} {it : Item} (ok : jobOk j = true) (live : jobLive s j = true)
    (found : mfind (getJob s j).items i = some it) (committed : it.state = .committed) (noUpd : it.phase ≠ 4) :
    exec (.itemDone j i) s = .next (noteStuck (finishItem s j i it) j) := by
  change onUnit (jobOk j) _ = _
  rw [ok, onUnit_true, found]
  dsimp only
  rw [if_pos ⟨live, committed, noUpd⟩]

theorem exec_publicationFold {s : State} {j k : Nat} {n : Inst} {it : Item} (ok : jobOk j = true) (live : jobLive s j = true)
    (inst : (getJob s j).insts[k]? = some n) (next : n.nextV = true) (found : mfind (getJob s j).items n.commitItem = some it)
    (done : it.state = .done) : exec (.publicationFold j k) s = .next (foldInst s j k n) := by
  obtain ⟨loaded, -, runs⟩ := jobLive_parts live
  change onUnit (jobOk j) _ = _
  rw [ok, onUnit_true]
  dsimp only
  rw [inst]
  simp [loaded, runs, next, found, done]

/-- Its next pages have been taken; the frames that are given back are no part of them (R172 step 5). -/
theorem foldInst_inst {s : State} {j k : Nat} {n : Inst} (inst : (getJob s j).insts[k]? = some n) :
    (getJob (foldInst s j k n) j).insts[k]? =
      some { n with cur := n.next, curV := true, next := [], nextV := false, version := wrap32 (n.version + 1) } := by
  unfold foldInst
  dsimp only
  obtain ⟨_, _, eq⟩ := releaseFrames_job (modJob s j (fun jb => { jb with insts := jb.insts.mapIdx (fun m x =>
    if m = k then { x with cur := n.next, curV := true, next := [], nextV := false, version := wrap32 (n.version + 1) } else x) }))
    (if n.curV then pageFrames n.cur else []) j
  rw [eq, getJob_modJob_if, if_pos rfl]
  simp [inst]

theorem publicationEffects : PublicationEffects := by
  intro s j ok live
  refine ⟨fun i it found runs noUpd reported whole members => exec_itemCommit ok live found runs noUpd reported whole members,
    fun i it found committed noUpd => exec_itemDone ok live found committed noUpd, fun k n it inst next found done => ?_⟩
  exact ⟨_, exec_publicationFold ok live inst next found done, foldInst_inst inst⟩

/-! ### What a commit and an end do to the items of a job -/

/-- No item of any job changes. -/
structure SameItems (s u : State) : Prop where
  items : ∀ k, (getJob u k).items = (getJob s k).items

theorem SameItems.refl (s : State) : SameItems s s := ⟨fun _ => rfl⟩

section
variable {s t : State} {j d : Nat}

theorem SameItems.foldl {α : Type} {f : State → α → State} (h : SameItems s t) (step : ∀ u a, SameItems s u → SameItems s (f u a)) (l : List α) :
    SameItems s (l.foldl f t) :=
  List.foldlRecOn l f h fun u h a _ => step u a h

theorem SameItems.of_jobs {u : State} (h : SameItems s t) (jobs : u.jobs = t.jobs) : SameItems s u :=
  ⟨fun k => by rw [getJob_of_jobs jobs, h.items]⟩

theorem SameItems.of_frame {u : State} (h : SameItems s t) (frame : ItemFrame t u) : SameItems s u := ⟨fun k => (frame.items k).trans (h.items k)⟩

theorem SameItems.modJob {f : Job → Job} (h : SameItems s t) (keeps : ∀ jb, (f jb).items = jb.items) : SameItems s (modJob t j f) :=
  h.of_frame (.modJob t j keeps)

theorem SameItems.modIce {f : Ice → Ice} (h : SameItems s t) : SameItems s (modIce t j d f) := h.modJob fun _ => rfl

theorem SameItems.invalidate {vpns : List Nat} (h : SameItems s t) : SameItems s (invalidate t j d vpns) := h.of_frame (invalidate_frame ..)

theorem SameItems.releaseFrames {l : List Nat} (h : SameItems s t) : SameItems s (releaseFrames t l) := h.of_frame (releaseFrames_frame t l)

theorem SameItems.freePages {l : List Nat} (h : SameItems s t) : SameItems s (freePages t j d l) := h.of_jobs (freePages_jobs t j d l)

theorem SameItems.noteStuck (h : SameItems s t) : SameItems s (noteStuck t j) := by
  unfold Machine.noteStuck
  exact h.modJob fun _ => rfl

theorem SameItems.noteCommit {step : BitVec 32} (h : SameItems s t) : SameItems s (noteCommit t j step) := by
  unfold Machine.noteCommit
  exact h.modJob fun _ => rfl

theorem SameItems.sweepEntries (h : SameItems s t) : SameItems s (sweepEntries t j d) := by
  unfold Machine.sweepEntries
  exact h.freePages.modIce

theorem SameItems.commitStash {it : Item} {g : Staging} (h : SameItems s t) : SameItems s (commitStash t j it g) := by
  unfold Machine.commitStash
  dsimp only
  repeat' split
  · exact h.modIce
  · exact h.modIce.modIce.modIce
  · exact h.freePages

theorem SameItems.commitRange {it : Item} {g : Staging} (h : SameItems s t) : SameItems s (commitRange t it g) := by
  unfold Machine.commitRange
  dsimp only
  split
  · exact h.releaseFrames
  · refine h.foldl (fun u f h => ?_) _
    split
    · exact h.of_frame (putFrame_frame ..)
    · exact h

theorem SameItems.sweepVersions (h : SameItems s t) : SameItems s (sweepVersions t j) := by
  have caches : SameItems s (sweepCaches t j) := by
    unfold sweepCaches
    exact (h.foldl (fun _ _ h => h.invalidate) _).releaseFrames.modJob fun _ => rfl
  unfold Machine.sweepVersions
  exact (caches.foldl (fun _ _ h => h.invalidate) _).releaseFrames.modJob fun _ => rfl

theorem SameItems.modHolds {i v : Nat} {f : Nat → Nat} (h : SameItems s t) : SameItems s (modHolds t j d i v f) := by
  unfold Machine.modHolds
  refine h.modJob fun jb => ?_
  dsimp only
  split <;> split <;> rfl

theorem SameItems.endBatch {it : Item} (h : SameItems s t) : SameItems s (endBatch t j it) := by
  unfold Machine.endBatch
  dsimp only
  split
  · exact h
  · refine SameItems.sweepVersions (SameItems.modJob ?_ fun _ => rfl)
    split
    · exact h.foldl (fun _ _ h => h.modHolds) _
    · exact h

end

theorem mfind_modItem_ne (s : State) {j i k : Nat} (f : Item → Item) (hk : k ≠ i) :
    mfind (getJob (modItem s j i f) j).items k = mfind (getJob s j).items k := by
  rw [modItem, getJob_modJob_if, if_pos rfl]
  split
  · exact mfind_mput_ne _ _ hk
  · rfl

/-- An item changed on the way from s to u, where nothing before and after touches items. -/
theorem mfind_of_modItem {s t u : State} {j i : Nat} {f : Item → Item} {it : Item} (after : SameItems (modItem t j i f) u) (before : SameItems s t)
    (has : mfind (getJob s j).items i = some it) :
    mfind (getJob u j).items i = some (f it) ∧ ∀ k, k ≠ i → mfind (getJob u j).items k = mfind (getJob s j).items k := by
  rw [after.items j, mfind_modItem f ((before.items j).symm ▸ has)]
  exact ⟨rfl, fun k hk => by rw [mfind_modItem_ne _ _ hk, before.items j]⟩

/-- Item k of job j is there. -/
def HasItem (s : State) (j k : Nat) : Prop := ∃ it, mfind (getJob s j).items k = some it

/-- It has committed. -/
def HasCommitted (s : State) (j k : Nat) : Prop := ∃ it, mfind (getJob s j).items k = some it ∧ it.state = .committed

/-- The commit of an item leaves it committed, and the others as they were. -/
theorem commitItem_items {s : State} {j i : Nat} {it : Item} (has : mfind (getJob s j).items i = some it) :
    HasCommitted (commitItem j s i) j i ∧ ∀ k, k ≠ i → mfind (getJob (commitItem j s i) j).items k = mfind (getJob s j).items k := by
  unfold commitItem
  rw [has]
  obtain ⟨here, others⟩ := mfind_of_modItem (u := endBatch _ j it) (SameItems.refl _).noteCommit.endBatch
    ((((SameItems.refl s).foldl (fun _ _ h => h.commitStash) (stashRanges (getJob s j) it)).foldl (fun _ _ h => h.commitRange)
      (it.staging.filter (fun g => !stashStaging (getJob s j) it g))).invalidate (vpns := stashVpns (getJob s j) it)) has
  exact ⟨⟨_, here, rfl⟩, others⟩

theorem commitItem_hasItem {s : State} {j i k : Nat} (item : HasItem s j i) (has : HasItem s j k) : HasItem (commitItem j s i) j k := by
  obtain ⟨it, found⟩ := item
  obtain ⟨⟨x, now, -⟩, others⟩ := commitItem_items found
  by_cases hk : k = i
  · exact ⟨x, hk ▸ now⟩
  · rwa [HasItem, others k hk]

theorem commitItem_hasCommitted {s : State} {j i k : Nat} (item : HasItem s j i) (done : k = i ∨ HasCommitted s j k) :
    HasCommitted (commitItem j s i) j k := by
  obtain ⟨it, found⟩ := item
  obtain ⟨committed, others⟩ := commitItem_items found
  by_cases hk : k = i
  · exact hk ▸ committed
  · rw [HasCommitted, others k hk]
    exact done.resolve_left hk

/-- When every item listed is there, the commit of one after the other leaves each committed (R172). -/
theorem commitItems_hasCommitted (j : Nat) {l : List Nat} {s : State} {k : Nat} (items : ∀ i ∈ l, HasItem s j i) (k_done : k ∈ l ∨ HasCommitted s j k) :
    HasCommitted (l.foldl (commitItem j) s) j k := by
  induction l generalizing s with
  | nil => exact k_done.resolve_left List.not_mem_nil
  | cons i rest ih =>
    have here : HasItem s j i := items i List.mem_cons_self
    refine ih (fun n hn => commitItem_hasItem here (items n (List.mem_cons_of_mem _ hn))) ?_
    rcases k_done with listed | done
    · rcases List.mem_cons.mp listed with rfl | later
      · exact .inr (commitItem_hasCommitted here (.inl rfl))
      · exact .inl later
    · exact .inr (commitItem_hasCommitted here (.inr done))

theorem hasItem_of_groupReported {s : State} {j : Nat} {g : List Nat} (reported : groupReported (getJob s j) g = true) : ∀ i ∈ g, HasItem s j i := by
  intro i hi
  have runs := List.all_eq_true.mp (Bool.and_eq_true_iff.mp reported).2 i hi
  split at runs
  · exact ⟨_, ‹_›⟩
  · cases runs

/-- The frames of an ending item's scratch are free and the translations of its ranges are gone (R172). -/
def itemFreed (s : State) (j i : Nat) (it : Item) : State :=
  let t := releaseFrames s (pageFrames it.scratchPages)
  invalidate t j it.die (privateVpns it ++ instVpns (getJob t j) i ++ entryVpns (getJob t j) it)

/-- The pins of an item are gone from every Icehouse of the job, and what a BWD item has read is swept (R256). -/
def pinsDropped (s : State) (j i : Nat) : State :=
  (List.range 4).foldl (fun s d => sweepEntries s j d) (modJob s j (fun jb =>
    { jb with ices := jb.ices.map (fun e =>
        (e.1, { e.2 with entries := e.2.entries.map (fun n => { n with pins := n.pins.filter (fun k => decide (k ≠ i)) }) })) }))

theorem finishItem_eq (s : State) (j i : Nat) (it : Item) :
    finishItem s j i it =
      pinsDropped (modItem (itemFreed s j i it) j i (fun x => { x with state := .done, staging := [], scratch := [], scratchPages := [] })) j i := rfl

theorem SameItems.pinsDropped (s : State) (j i : Nat) : SameItems s (pinsDropped s j i) := by
  refine SameItems.foldl ?_ (fun _ _ h => h.sweepEntries) _
  exact SameItems.modJob (.refl _) fun _ => rfl

/-- An item that ends is DONE, with nothing staged and no scratch (R172). -/
theorem finishItem_item {s : State} {j i : Nat} {it : Item} (found : mfind (getJob s j).items i = some it) :
    ∃ m, mfind (getJob (finishItem s j i it) j).items i = some m ∧ m.state = .done ∧ m.staging = [] ∧ m.scratch = [] := by
  rw [finishItem_eq]
  exact ⟨_, (mfind_of_modItem (.pinsDropped _ j i) (SameItems.refl s).releaseFrames.invalidate found).1, rfl, rfl, rfl⟩

/-! ### The Icehouse -/

section
variable {s : State} {d j : Nat} (okStore : storeOk d = true) (okJob : jobOk j = true) (live : jobLive s j = true)
include okStore okJob live

theorem exec_icehouseSpillStart {e : StashEntry} (up : stackUp s d = true) (ready : spillReady (getJob s j) d = some e)
    (mover : moverFree s j d = true) : exec (.icehouseSpillStart d j) s = .next (noteStuck (startSpill s j d e) j) := by
  change onUnit (storeOk d && jobOk j) _ = _
  rw [okStore, okJob, Bool.and_self, onUnit_true, ready]
  dsimp only
  rw [if_pos ⟨live, up, mover⟩]

theorem exec_icehouseRefillStart {e : StashEntry} (up : stackUp s d = true) (ready : refillReady (getJob s j) d = some e)
    (mover : moverFree s j d = true) (noSpill : spillNeeded s d = false) :
    exec (.icehouseRefillStart d j) s = .next (noteStuck (startRefill s j d e) j) := by
  change onUnit (storeOk d && jobOk j) _ = _
  rw [okStore, okJob, Bool.and_self, onUnit_true, ready]
  dsimp only
  rw [if_pos ⟨live, up, mover, by rw [noSpill]; rfl⟩]

theorem exec_icehouseMoveDone {a b : Nat} {rest : List (Nat × Nat)} (up : stackUp s d = true)
    (moves : (getIce (getJob s j) d).moves = (a, b) :: rest) (mover : (moverJobs s d).head? = some j) :
    exec (.icehouseMoveDone d j) s = .next (noteStuck (sweepEntries (endMove s j d a b) j d) j) := by
  change onUnit (storeOk d && jobOk j) _ = _
  rw [okStore, okJob, Bool.and_self, onUnit_true, moves]
  dsimp only
  rw [if_pos ⟨live, up, mover⟩]

omit okStore in
theorem exec_icehouseDeadlockTimeout {t : Nat} (stuck : (getJob (noteStuck s j) j).stuckSince = some t) :
    exec (.icehouseDeadlockTimeout j) s = .next (exhausted (advanceTo (noteStuck s j) (t + 2500000)) j) := by
  change onUnit (jobOk j) _ = _
  rw [okJob, onUnit_true]
  dsimp only
  rw [if_pos live, stuck]
  dsimp only
  rw [if_pos ((jobLive_noteStuck s j).trans live)]

end

theorem icehouseEffects : IcehouseEffects := by
  intro s d j okStore okJob live
  refine ⟨fun up => ⟨fun e ready mover => ?spill, fun e ready mover noSpill => ?refill, fun a b rest moves mover => ?moved⟩, fun t stuck _ => ?timeout⟩
  case spill => exact exec_icehouseSpillStart okStore okJob live up ready mover
  case refill => exact exec_icehouseRefillStart okStore okJob live up ready mover noSpill
  case moved => exact exec_icehouseMoveDone okStore okJob live up moves mover
  case timeout => exact exec_icehouseDeadlockTimeout okJob live stuck

/-! ### What the Icehouse makes of its entries, its moves and memory -/

section
variable (s : State) (j d : Nat)

@[simp] theorem getIce_modIce (f : Ice → Ice) : getIce (getJob (modIce s j d f) j) d = f (getIce (getJob s j) d) := by
  rw [modIce, getJob_modJob_if, if_pos rfl, getIce_setIce]

@[simp] theorem modIce_mem (f : Ice → Ice) : (modIce s j d f).mem = s.mem := rfl

@[simp] theorem getIce_noteStuck : getIce (getJob (noteStuck s j) j) d = getIce (getJob s j) d := by
  obtain ⟨t, eq⟩ := noteStuck_job s j
  rw [eq]
  rfl

@[simp] theorem noteStuck_mem : (noteStuck s j).mem = s.mem := rfl

/-- Every entry of the number named gets the new state, whatever else it holds. -/
theorem putEntryState_state {i : Ice} {seq : Nat} {st : EState} :
    ∀ g ∈ (putEntryState i seq (fun f => { f with state := st })).entries, g.seq = seq → g.state = st := by
  intro g hg same
  obtain ⟨e, -, rfl⟩ := List.mem_map.mp hg
  by_cases named : e.seq = seq
  · rw [if_pos named]
  · rw [if_neg named] at same
    exact absurd same named

theorem sweepEntries_moves : (getIce (getJob (sweepEntries s j d) j) d).moves = (getIce (getJob s j) d).moves := by
  unfold sweepEntries
  dsimp only
  rw [getIce_modIce, getJob_of_jobs (freePages_jobs ..)]

theorem getJob_storeFreed (k : Nat) : getJob (storeFreed s j d) k = getJob s k := rfl

theorem getJob_withMem (m : Mem) (k : Nat) : getJob { s with mem := m } k = getJob s k := rfl

variable (a b : Nat)

theorem endMove_mem : (endMove s j d a b).mem = memZero (memWrite s.mem b (memRead s.mem a 65536)) a 65536 := by
  unfold endMove
  dsimp only
  rw [modIce_mem]
  split
  · rw [storeFreed, invalidate_mem]
  · rw [invalidate_mem]

theorem endMove_moves : (getIce (getJob (endMove s j d a b) j) d).moves = (getIce (getJob s j) d).moves.filter (fun m => decide (m.1 ≠ a)) := by
  unfold endMove
  dsimp only
  rw [getIce_modIce]
  split
  · rw [getJob_storeFreed, getJob_invalidate, getJob_withMem]
  · rw [getJob_invalidate, getJob_withMem]

end

/-- A page that has moved apart from itself reads where it is what it read where it was, and 0 there (R257). -/
theorem endMove_copies (s : State) (j d : Nat) {a b : Nat} (apart : a + 65536 ≤ b ∨ b + 65536 ≤ a) :
    memRead (endMove s j d a b).mem b 65536 = memRead s.mem a 65536 ∧ memRead (endMove s j d a b).mem a 65536 = List.replicate 65536 0 := by
  rw [endMove_mem, memRead_memZero_apart _ apart.symm, memRead_copied, memRead_memZero_same]
  exact ⟨rfl, rfl⟩

theorem emptied_entries (l : List (Nat × Ice)) (k : Nat) :
    (mget Ice.reset (l.map (fun e => (e.1, { e.2 with entries := [], moves := [] }))) k).entries = [] := by
  induction l with
  | nil => rfl
  | cons e rest ih =>
    rw [List.map_cons, mget]
    split
    · rfl
    · exact ih

/-- The Icehouse of an exhausted job is emptied after the fault of the cell that waits, which is the job's fault (R261, R262). -/
theorem exhausted_of_waits {v : State} {j c : Nat} {rest : List Nat} {a : AllocReq} (waits : waitingCells v j = c :: rest)
    (own : (getCell v c).ctx = j) (found : (getCell v c).allocs.find? (·.waiting) = some a) :
    ∃ u, u.jobs = (jobFault v j eIcehouseExhausted).jobs ∧ u.ctxs = (jobFault v j eIcehouseExhausted).ctxs ∧
      exhausted v j = modJob u j (fun jb => { jb with ices := jb.ices.map (fun e => (e.1, { e.2 with entries := [], moves := [] })) }) := by
  have fault : cellFault v c a.thread a.pc 0 true eIcehouseExhausted = jobFault v j eIcehouseExhausted := by
    unfold cellFault
    dsimp only
    rw [if_neg fun h => absurd h.2 (by decide), own]
  unfold exhausted
  rw [waits]
  dsimp only
  rw [found]
  dsimp only
  rw [fault]
  refine ⟨_, ?jobs, ?ctxs, rfl⟩
  case jobs => exact foldl_jobs _ (fun t k => freePages_jobs ..) _
  case ctxs =>
    exact List.foldlRecOn (motive := fun t : State => t.ctxs = (jobFault v j eIcehouseExhausted).ctxs) _ _ rfl fun t eq k _ =>
      (freePages_ctxs ..).trans eq

/-- An exhausted job has faulted with E_ICEHOUSE_EXHAUSTED, and its Icehouse is empty (R261, R262). -/
theorem exhausted_completes {v : State} {j c : Nat} {rest : List Nat} {a : AllocReq} (loaded : (getJob v j).loaded = true)
    (sound : (getJob v j).faulted = false) (waits : waitingCells v j = c :: rest) (own : (getCell v c).ctx = j)
    (found : (getCell v c).allocs.find? (·.waiting) = some a) :
    (getJob (exhausted v j) j).faulted = true ∧ (getCtx (exhausted v j) j).code = eIcehouseExhausted ∧
      ∀ k, k < 4 → (getIce (getJob (exhausted v j) j) k).entries = [] := by
  obtain ⟨w, jobs, ctxs, eq⟩ := exhausted_of_waits waits own found
  obtain ⟨faulted, -, code, -⟩ := jobFaultEndsItsContext v j eIcehouseExhausted loaded sound
  rw [eq, getJob_modJob_if, if_pos rfl, getJob_of_jobs jobs]
  refine ⟨faulted, ?_, fun k _ => emptied_entries ..⟩
  rw [getCtx, modJob_eq, setJob_ctxs, ctxs]
  exact code

theorem pageAndIcehouseCommandsComplete : PageAndIcehouseCommandsComplete := by
  intro s d j okStore okJob live
  refine ⟨?page, ?commit, ?done, ?spill, ?refill, ?moved, ?timeout⟩
  case page =>
    intro m found fromPage toPage ne none
    exact ⟨_, exec_pageMoveDone_alone okJob live found none, endPageMove_copies j fromPage toPage ne, endPageMove_moves s j m⟩
  case commit =>
    intro i it found runs noUpd reported whole members
    refine ⟨_, exec_itemCommit okJob live found runs noUpd reported whole members, fun k hk => ?_⟩
    rw [(SameItems.refl _).noteStuck.items j]
    exact commitItems_hasCommitted j (hasItem_of_groupReported reported) (.inl hk)
  case done =>
    intro i it found committed noUpd
    obtain ⟨m, here, ended⟩ := finishItem_item found
    refine ⟨_, m, exec_itemDone okJob live found committed noUpd, ?_, ended⟩
    rw [(SameItems.refl _).noteStuck.items j]
    exact here
  case spill =>
    intro e up ready mover
    refine ⟨_, exec_icehouseSpillStart okStore okJob live up ready mover, ?_, ?_, ?_⟩
    · simp [startSpill]
    · simp only [getIce_noteStuck, startSpill, getIce_modIce]
      exact putEntryState_state
    · simp [startSpill]
  case refill =>
    intro e up ready mover noSpill
    refine ⟨_, exec_icehouseRefillStart okStore okJob live up ready mover noSpill, ?_, ?_, ?_⟩
    · simp [startRefill]
    · simp only [getIce_noteStuck, startRefill, getIce_modIce]
      exact putEntryState_state
    · simp [startRefill]
  case moved =>
    intro a b rest up moves mover
    refine ⟨_, exec_icehouseMoveDone okStore okJob live up moves mover, ?_, endMove_copies s j d⟩
    rw [getIce_noteStuck, sweepEntries_moves, endMove_moves]
  case timeout =>
    intro t c rest a stuck v waits own found
    obtain ⟨loaded, sound, -⟩ := jobLive_parts ((jobLive_noteStuck s j).trans live)
    have jobs : getJob v j = getJob (noteStuck s j) j := getJob_of_jobs (advanceTo_jobs ..) j
    exact ⟨_, exec_icehouseDeadlockTimeout okJob live stuck, exhausted_completes (jobs ▸ loaded) (jobs ▸ sound) waits own found⟩

/-- Settles O32: what each command answers, and what then stands in memory, in the job and in the Icehouse. -/
theorem storePagesAndIcehouseGoOn : Obligations.StorePagesAndIcehouseGoOn :=
  ⟨storeEventEffects, publicationEffects, icehouseEffects, pageAndIcehouseCommandsComplete⟩

end Sys2Proof.Machine
end

section
/-!
PROOF. Words of the dispatch units (O11); their arithmetic, branches and faults (O34).
-/
namespace Sys2Proof.Machine
open Sys2Proof.Claim

/-! ### The unit of one pavilion -/

/-- Of the package only pavilion p differs, and it holds y. -/
structure PavSet (s u : State) (p : Nat) (y : Pav) : Prop where
  here : getPav u p = y
  others : ∀ q, q ≠ p → getPav u q = getPav s q
  only : ∃ m, u = { s with pavs := m }

theorem PavSet.refl (s : State) (p : Nat) : PavSet s s p (getPav s p) := ⟨rfl, fun _ _ => rfl, _, rfl⟩

theorem PavSet.setPav (s : State) (p : Nat) (y : Pav) : PavSet s (setPav s p y) p y :=
  ⟨getPav_setPav .., fun q hq => getPav_setPav_ne s p q y hq, _, rfl⟩

theorem PavSet.trans {s t u : State} {p : Nat} {x y : Pav} (h : PavSet s t p x) (h' : PavSet t u p y) : PavSet s u p y where
  here := h'.here
  others q hq := (h'.others q hq).trans (h.others q hq)
  only := by
    obtain ⟨_, eq⟩ := h.only
    obtain ⟨_, eq'⟩ := h'.only
    exact ⟨_, by rw [eq', eq]⟩

theorem PavSet.field {α : Type} {s u : State} {p : Nat} {y : Pav} (h : PavSet s u p y) (g : Pav → α) : g (getPav u p) = g y := congrArg g h.here

/-- What does not read pavilions is as it was. -/
theorem PavSet.keeps {α : Type} {s u : State} {p : Nat} {y : Pav} (h : PavSet s u p y) (g : State → α) (same : ∀ m, g { s with pavs := m } = g s) :
    g u = g s := by
  obtain ⟨m, eq⟩ := h.only
  rw [eq, same m]

theorem dReg_setD_same (x : Pav) (n : Nat) (v : Word) : dReg (setD x n v) n = if n = 0 then 0 else v := by
  by_cases h : n = 0
  · simp [h, dReg]
  · simp [h, dReg, setD]

theorem dReg_setD_ne (x : Pav) {n k : Nat} (v : Word) (h : k ≠ n) : dReg (setD x n v) k = dReg x k := by
  by_cases hn : n = 0
  · simp [hn, setD]
  · simp [hn, dReg, setD, mget_mset_ne _ _ h]

/-- Writing a register leaves everything of the pavilion but the register file (R225). -/
theorem setD_frame (x : Pav) (n : Nat) (v : Word) : ∃ m, setD x n v = { x with dreg := m } := by
  unfold setD
  split
  · exact ⟨_, rfl⟩
  · exact ⟨_, rfl⟩

/-! ### An instruction that is next -/

section
variable {s : State} {p op : Nat} {f : DFields}

theorem onDispatch_of_enabled (ok : pavOk p = true) (on : dEnabled s p op f = true) (g : State → State) :
    onDispatch p op f s g = .next (g s) := by
  rw [onDispatch, ok, onUnit_true, if_pos on]

theorem dGoto_of_lt {n : Nat} (lt : n < (getPav s p).prog.length) : dGoto s p n = setPav s p { getPav s p with dpc := n } :=
  if_neg (Nat.not_le.mpr lt)

/-- A unit whose registers or arrays have changed goes on at its next word (R225). -/
theorem pavSet_dNextWord {t : State} {y : Pav} (set : PavSet s t p y) (next : y.dpc + 1 < y.prog.length) :
    PavSet s (dNextWord t p) p { y with dpc := y.dpc + 1 } := by
  obtain rfl := set.here
  rw [dNextWord, dGoto_of_lt next]
  exact set.trans (.setPav ..)

/-- A unit whose register n gets v goes on at its next word. -/
theorem setD_goes {y : Pav} (n : Nat) (v : Word) (next : y.dpc + 1 < y.prog.length) :
    let u := dNextWord (setPav s p (setD y n v)) p
    (∃ regs, PavSet s u p { y with dpc := y.dpc + 1, dreg := regs }) ∧ (∀ k, k ≠ n → dReg (getPav u p) k = dReg y k) ∧
      dReg (getPav u p) n = if n = 0 then 0 else v := by
  intro u
  have written := dReg_setD_same y n v
  have kept := fun k (hk : k ≠ n) => dReg_setD_ne y v hk
  obtain ⟨regs, eq⟩ := setD_frame y n v
  have went : PavSet s u p { setD y n v with dpc := (setD y n v).dpc + 1 } := pavSet_dNextWord (.setPav ..) (by rw [eq]; exact next)
  refine ⟨⟨regs, ?_⟩, fun k hk => (went.field (dReg · k)).trans (kept k hk), (went.field (dReg · n)).trans written⟩
  rwa [eq] at went

end

/-! ### Arithmetic and moves (R225, R227) -/

/-- What a unit holds that has written registers, scratch or arguments and gone on is the frame of a dispatch instruction. -/
theorem dispatchFrame_of_pavSet {s u : State} {p n : Nat} {regs scratch args : Map Word}
    (set : PavSet s u p { getPav s p with dpc := (getPav s p).dpc + 1, dreg := regs, scratch := scratch, args := args })
    (same : ∀ k, k ≠ n → dReg (getPav u p) k = dReg (getPav s p) k) : DispatchFrame s u p n := by
  refine ⟨set.field Pav.dpc, same, ?_⟩
  rw [set.here]
  exact ⟨rfl, rfl, rfl, rfl, rfl, set.others, set.only⟩

section
variable {s : State} {p : Nat} {f : DFields} (next : (getPav s p).dpc + 1 < (getPav s p).prog.length)
include next

/-- dD gets v and the unit goes on (R225). -/
theorem dWrite_goes (v : Word) :
    (∃ regs, PavSet s (dWrite s p f v) p { getPav s p with dpc := (getPav s p).dpc + 1, dreg := regs }) ∧
      (∀ k, k ≠ f.d.toNat → dReg (getPav (dWrite s p f v) p) k = dReg (getPav s p) k) ∧
      dReg (getPav (dWrite s p f v) p) f.d.toNat = if f.d = 0 then 0 else v := by
  obtain ⟨went, kept, written⟩ := setD_goes (s := s) (p := p) f.d.toNat v next
  exact ⟨went, kept, written.trans (if_congr (BitVec.toNat_inj (y := 0#4)) rfl rfl)⟩

/-- Nothing else changes. -/
theorem dWrite_result (v : Word) :
    DispatchFrame s (dWrite s p f v) p f.d.toNat ∧ dReg (getPav (dWrite s p f v) p) f.d.toNat = (if f.d = 0 then 0 else v) ∧
      (getPav (dWrite s p f v) p).scratch = (getPav s p).scratch ∧ (getPav (dWrite s p f v) p).args = (getPav s p).args := by
  obtain ⟨⟨_, went⟩, kept, written⟩ := dWrite_goes (f := f) next v
  exact ⟨dispatchFrame_of_pavSet went kept, written, went.field Pav.scratch, went.field Pav.args⟩

/-- A scratch word or an argument register is written and the unit goes on. -/
theorem pavSet_arrays (scratch args : Map Word) :
    PavSet s (dNextWord (setPav s p { getPav s p with scratch := scratch, args := args }) p) p
      { getPav s p with dpc := (getPav s p).dpc + 1, scratch := scratch, args := args } :=
  pavSet_dNextWord (.setPav ..) next

end

theorem shiftLeft_eq_ofNat (a : Word) (k : Nat) : a <<< k = BitVec.ofNat 64 (a.toNat * 2 ^ k) :=
  BitVec.eq_of_toNat_eq (by simp [Nat.shiftLeft_eq])

theorem shiftRight_eq_ofNat (a : Word) (k : Nat) : a >>> k = BitVec.ofNat 64 (a.toNat / 2 ^ k) := by
  refine BitVec.eq_of_toNat_eq ?_
  rw [BitVec.toNat_ushiftRight, Nat.shiftRight_eq_div_pow, BitVec.toNat_ofNat, Nat.mod_eq_of_lt]
  exact (Nat.div_le_self ..).trans_lt a.isLt

theorem dispatchArithmetic : DispatchArithmetic := by
  intro s p f ok next x a b imm sets
  have alu : ∀ (i : Instr) (op : Nat) (g : Word → Word → Word), exec i s = dAlu p op f s g → sets i op (g a b) := fun i op g eq on =>
    ⟨_, eq.trans (onDispatch_of_enabled ok on _), dWrite_result next _⟩
  refine ⟨?nop, ?add, ?addi, ?sub, ?andi, ?or, ?shli, ?shri, ?muli, ?ldt, ?lds, ?stat, ?sts, ?arg⟩
  case add => exact alu (.dAdd p f) 0x01 (fun a b => a + b) rfl
  case addi => exact alu (.dAddi p f) 0x02 (fun a _ => a + imm) rfl
  case sub => exact alu (.dSub p f) 0x03 (fun a b => a - b) rfl
  case andi => exact alu (.dAndi p f) 0x04 (fun a _ => a &&& imm) rfl
  case or => exact alu (.dOr p f) 0x05 (fun a b => a ||| b) rfl
  case muli => exact alu (.dMuli p f) 0x08 (fun a _ => a * imm) rfl
  case shli =>
    rw [← shiftLeft_eq_ofNat]
    exact alu (.dShli p f) 0x06 (fun a _ => a <<< (f.imm.toNat % 64)) rfl
  case shri =>
    rw [← shiftRight_eq_ofNat]
    exact alu (.dShri p f) 0x07 (fun a _ => a >>> (f.imm.toNat % 64)) rfl
  case nop =>
    intro on
    have went := pavSet_dNextWord (.refl s p) next
    refine ⟨dNextWord s p, ?_, dispatchFrame_of_pavSet went fun k _ => went.field (dReg · k), went.field Pav.dreg⟩
    change execDNop p f s = _
    rw [execDNop, onDispatch_of_enabled ok on]
  case ldt =>
    intro v found on
    refine ⟨_, ?_, dWrite_result next v⟩
    change execDLdt p f s = _
    rw [execDLdt, onDispatch_of_enabled ok on]
    have word : (getPav s p).table[dIndex' (getPav s p) f]? = some v := found
    simp only [word]
  case lds =>
    intro inside on
    refine ⟨_, ?_, dWrite_result next _⟩
    change execDLds p f s = _
    rw [execDLds, onDispatch_of_enabled ok on]
    exact congrArg _ (if_pos inside)
  case stat =>
    intro _ on
    refine ⟨_, ?_, dWrite_result next _⟩
    change execDStat p f s = _
    rw [execDStat, onDispatch_of_enabled ok on]
  case sts =>
    intro on inside
    have went := pavSet_arrays next (mset 0 (dIndex' x f) b x.scratch) x.args
    refine ⟨_, ?_, dispatchFrame_of_pavSet went fun k _ => went.field (dReg · k), went.here ▸ mget_mset_same .., fun n hn => went.here ▸ mget_mset_ne _ _ hn⟩
    change execDSts p f s = _
    rw [execDSts, onDispatch_of_enabled ok on]
    exact congrArg _ (if_pos inside)
  case arg =>
    intro on
    have went := pavSet_arrays next x.scratch (mset 0 (f.imm.toNat % 8) a x.args)
    refine ⟨_, ?_, dispatchFrame_of_pavSet went fun k _ => went.field (dReg · k), went.here ▸ mget_mset_same .., went.field Pav.scratch,
      fun n hn => went.here ▸ mget_mset_ne _ _ hn⟩
    change execDArg p f s = _
    rw [execDArg, onDispatch_of_enabled ok on]

/-! ### Branches (R227) -/

theorem dispatchBranches : DispatchBranches := by
  intro s p f ok x a b target goes
  have branch : ∀ (i : Instr) (op : Nat) (c : Word → Word → Bool), exec i s = dBranch p op f s c → goes i op (c a b) := by
    intro i op c eq on inside
    have went : exec i s = .next (dGoto s p (target (c a b))) := by
      rw [eq, dBranch, onDispatch_of_enabled ok on]
      exact congrArg _ (apply_ite (dGoto s p) (c a b = true) _ _).symm
    rw [dGoto_of_lt inside] at went
    have set := PavSet.setPav s p { getPav s p with dpc := target (c a b) }
    exact ⟨_, went, set.field Pav.dpc, set.field Pav.dreg, set.field Pav.dstate, set.others, set.only⟩
  refine ⟨?beq, ?bne, ?bltu, ?jmp, ?halt⟩
  case beq => exact branch (.dBeq p f) 0x10 (fun a b => a == b) rfl
  case bne =>
    rw [show decide (a ≠ b) = (a != b) from decide_not]
    exact branch (.dBne p f) 0x11 (fun a b => a != b) rfl
  case bltu => exact branch (.dBltu p f) 0x12 (fun a b => a.ult b) rfl
  case jmp => exact branch (.dJmp p f) 0x13 (fun _ _ => true) rfl
  case halt =>
    intro on
    change execDHalt p f s = _
    rw [execDHalt, onDispatch_of_enabled ok on, modPav_eq]

/-! ### Faults (R229) -/

section
variable (s : State) (j : Nat)

theorem foldl_pavs {α : Type} {f : State → α → State} (h : ∀ s a, (f s a).pavs = s.pavs) (l : List α) : (l.foldl f s).pavs = s.pavs :=
  List.foldlRecOn (motive := fun t => t.pavs = s.pavs) l f rfl fun t eq a _ => (h t a).trans eq

@[simp] theorem releaseFrame_pavs (f : Nat) : (releaseFrame s f).pavs = s.pavs := by
  unfold releaseFrame
  dsimp only
  repeat' split
  all_goals rfl

@[simp] theorem releaseFrames_pavs (l : List Nat) : (releaseFrames s l).pavs = s.pavs := foldl_pavs s releaseFrame_pavs l

@[simp] theorem invalidate_pavs (d : Nat) (vpns : List Nat) : (invalidate s j d vpns).pavs = s.pavs := rfl

@[simp] theorem abandonItem_pavs (i : Nat) : (abandonItem s j i).pavs = s.pavs := by
  unfold abandonItem
  dsimp only
  split
  · rfl
  · split
    · rfl
    · rw [modJob_eq, setJob_pavs, invalidate_pavs, releaseFrames_pavs]

@[simp] theorem dropHolds_pavs : (dropHolds s j).pavs = s.pavs := by
  unfold dropHolds
  rw [modJob_eq, setJob_pavs]
  exact foldl_pavs s (fun t e => (releaseFrames_pavs ..).trans (invalidate_pavs ..)) _

@[simp] theorem jobCleared_pavs : (jobCleared s j).pavs = s.pavs := by
  rw [jobCleared, dropHolds_pavs]
  exact foldl_pavs s (fun t (e : Nat × Item) => abandonItem_pavs t j e.1) _

@[simp] theorem sampleLevel_pavs (n : Nat) : (sampleLevel s n).pavs = s.pavs := by
  obtain ⟨_, _, eq⟩ := sampleLevel_frame s n
  rw [eq]

@[simp] theorem markFaulted_pavs (code : Nat) : (markFaulted s j code).pavs = s.pavs := by simp [markFaulted, restartIdle]

@[simp] theorem failContext_pavs (code : Nat) : (failContext s j code).pavs = s.pavs := by
  obtain ⟨_, _, _, eq⟩ := failContext_frame s j code
  rw [eq]

@[simp] theorem jobFault_pavs (code : Nat) : (jobFault s j code).pavs = s.pavs := by
  by_cases sound : (getJob s j).loaded = true ∧ (getJob s j).faulted = false
  · obtain ⟨loaded, unfaulted⟩ := sound
    rw [jobFault_of_loaded code loaded unfaulted, failContext_pavs, markFaulted_pavs, jobCleared_pavs]
  · rw [jobFault, if_pos (by simpa [imp_iff_not_or] using sound)]

end

theorem getPav_of_pavs {s u : State} (h : u.pavs = s.pavs) (p : Nat) : getPav u p = getPav s p := by rw [getPav, h, getPav]

/-- What keeps a unit at work: its job is loaded and has not faulted (log 13). -/
theorem pavLive_parts {s : State} {p : Nat} (live : pavLive s p = true) :
    running s = true ∧ (getPav s p).held = true ∧ stackUp s (dieOfPav p) = true ∧ (getJob s (getPav s p).ctx).loaded = true ∧
      (getJob s (getPav s p).ctx).faulted = false := by
  simpa [pavLive, and_assoc] using live

theorem pavLive_of_dEnabled {s : State} {p op : Nat} {f : DFields} (on : dEnabled s p op f = true) : pavLive s p = true := by
  obtain ⟨live, -⟩ := Bool.and_eq_true_iff.mp on
  exact live

/-- A unit that a fault has stopped: it records the code and the PC (R229). -/
def stoppedUnit (x : Pav) (pc code : Nat) : Pav := { x with code := code, dstate := 3, dpc := pc, dwait := .none }

/-- A dispatch fault stops the unit, records code and PC, and faults its job (R229, R408). -/
theorem dispatchFault_spec {s : State} {p : Nat} (live : pavLive s p = true) (pc code : Nat) :
    let x := getPav s p
    let u := dispatchFault s p pc code
    (getPav u p).code = code ∧ (getPav u p).dpc = pc ∧ (getPav u p).dstate = 3 ∧ (getJob u x.ctx).faulted = true ∧
      (getCtx u x.ctx).state = 2 ∧ (getCtx u x.ctx).code = code := by
  intro x u
  obtain ⟨-, -, -, loaded, sound⟩ := pavLive_parts live
  have stops := PavSet.setPav s p (stoppedUnit x pc code)
  obtain ⟨faulted, state, marked, -⟩ := jobFaultEndsItsContext (setPav s p (stoppedUnit x pc code)) x.ctx code loaded sound
  have eq : u = sampleLevel (jobFault (setPav s p (stoppedUnit x pc code)) x.ctx code) (64 + p) := by
    simp only [u, dispatchFault, modPav_eq, getPav_setPav, x, stoppedUnit]
  generalize setPav s p (stoppedUnit x pc code) = t at *
  have here : getPav u p = _ := (getPav_of_pavs (by rw [eq, sampleLevel_pavs, jobFault_pavs]) p).trans stops.here
  obtain ⟨_, _, sampled⟩ := sampleLevel_frame (jobFault t x.ctx code) (64 + p)
  rw [here, eq, sampled]
  exact ⟨rfl, rfl, rfl, faulted, state, marked⟩

theorem dispatchFaults : DispatchFaults := by
  intro s p f ok x i faults
  have stops : ∀ {op : Nat}, dEnabled s p op f = true → ∀ c, exec c s = .next (dispatchFault s p x.dpc ePageFault) → faults c x.dpc :=
    fun on c eq => ⟨_, eq, dispatchFault_spec (pavLive_of_dEnabled on) x.dpc ePageFault⟩
  refine ⟨fun on outside => stops on _ ?ldt, fun on outside => stops on _ ?lds, fun on outside => stops on _ ?sts, fun on last => stops on _ ?nop⟩
  case ldt =>
    change execDLdt p f s = _
    have word : (getPav s p).table[dIndex' (getPav s p) f]? = none := List.getElem?_eq_none outside
    rw [execDLdt, onDispatch_of_enabled ok on]
    simp only [word, x]
  case lds =>
    change execDLds p f s = _
    rw [execDLds, onDispatch_of_enabled ok on]
    exact congrArg _ (if_neg (Nat.not_lt.mpr outside))
  case sts =>
    change execDSts p f s = _
    rw [execDSts, onDispatch_of_enabled ok on]
    exact congrArg _ (if_neg (Nat.not_lt.mpr outside))
  case nop =>
    change execDNop p f s = _
    have past : (getPav s p).prog.length ≤ (getPav s p).dpc + 1 := last.ge
    rw [execDNop, onDispatch_of_enabled ok on, dNextWord, dGoto, if_pos past, ← last, Nat.add_sub_cancel]

/-- Settles O34: an instruction that is next gives its result or goes to its target, and one that cannot faults. -/
theorem dispatchInstructionsGiveTheirResults : Obligations.DispatchInstructionsGiveTheirResults :=
  ⟨dispatchArithmetic, dispatchBranches, dispatchFaults⟩

/-! ### Words (R226, R229) -/

theorem dispatchWordFields : DispatchWordFields := by
  refine ⟨fun op f hop => ?_, fun s p f ok => ⟨fun on named next => ?_, fun n on target inside => ?_⟩⟩
  · have := f.d.isLt; have := f.a.isLt; have := f.b.isLt; have := f.imm.isLt
    simp only [encD, fieldAt, BitVec.toNat_ofNat]
    omega
  · obtain ⟨-, -, addi, -⟩ := dispatchArithmetic s p f ok next
    obtain ⟨u, eq, -, sum, -⟩ := addi on
    exact ⟨u, eq, sum.trans (if_neg named)⟩
  · obtain ⟨-, -, -, jmp, -⟩ := dispatchBranches s p f ok
    have word : ((getPav s p).dpc + f.imm.toInt).toNat = n := by omega
    obtain ⟨u, eq, pc, -⟩ := jmp on (word ▸ inside)
    exact ⟨u, eq, pc.trans word⟩

theorem dispatchExampleWords : DispatchExampleWords := by
  unfold DispatchExampleWords
  decide

/-- Settles O11: the fields stand apart below bit 32; ADDI and JMP read IMM with its sign. -/
theorem dispatchWordFieldsReadBack : Obligations.DispatchWordFieldsReadBack := ⟨dispatchWordFields, dispatchExampleWords⟩

end Sys2Proof.Machine
end

section
/-!
PROOF. Channel slots and credits where no route leads to the other end (O29).

R24 ends a job with E_LINK_NO_PATH when no route carries what goes between two cells of a channel, and so does the model. The statement asks
for the credit to go back, and for the slot to be sent, whether or not there is a route: with both stacks between the two ends down it fails.
-/
namespace Sys2Proof.Machine

/-- A job fault leaves the receive ports of every cell (R408). -/
theorem getRx_jobFault (s : State) (j code c p : Nat) : getRx (getCell (jobFault s j code) c) p = getRx (getCell s c) p := by
  obtain ⟨_, eq⟩ := jobFault_cell s j code c
  rw [eq]
  rfl

/-- A credit that no route carries ends the job instead of going back (R24, R219). -/
theorem exec_creditReturn_of_noRoute {s : State} {c p : Nat} (ok : cellOk c = true) (port : p < 8) (live : portLive s c = true)
    (valid : (getRx (getCell s c) p).valid = true) (owed : 0 < (getRx (getCell s c) p).creditsBack)
    (none : channelRoute s c (getRx (getCell s c) p).peerCell = false) :
    exec (.creditReturn c p) s = .next (jobFault s (getPav s (pavOfCell c)).ctx eLinkNoPath) := by
  change execCreditReturn c p s = _
  simp [execCreditReturn, ok, port, live, valid, owed, none]

/-- Port 0 of cell 0, on stack 0, owes a credit to cell 3072, on stack 3; stacks 1 and 2, which alone join the two, are in reset. -/
def cutOff : State :=
  { State.reset with
    pwr := { State.reset.pwr with pstate := 2 }
    sec := { Sec.reset with bootState := 3 }
    pavs := [(0, { Pav.reset with power := .run, held := true })]
    jobs := [(0, { Job.none with loaded := true })]
    rsts := [(1, { StackRst.reset with phase := 2 }), (2, { StackRst.reset with phase := 2 })]
    cells := [(0, { Cell.reset with rx := [(0, { Port.reset with valid := true, creditsBack := 1, peerCell := 3072 })] })] }

theorem cutOff_port : getRx (getCell cutOff 0) 0 = { Port.reset with valid := true, creditsBack := 1, peerCell := 3072 } := rfl
theorem cutOff_live : portLive cutOff 0 = true := rfl
theorem cutOff_noRoute : channelRoute cutOff 0 3072 = false := rfl

/-- Refutes O29: in `cutOff` the credit stays owed, since the job faults with E_LINK_NO_PATH. -/
theorem not_channelSlotsAndCredits : ¬ Obligations.ChannelSlotsAndCredits := by
  intro h
  obtain ⟨-, -, credit⟩ := h cutOff 0 0 rfl (by decide) cutOff_live
  obtain ⟨u, eq, returned, -⟩ := credit rfl (by decide) (by decide)
  have faults : exec (.creditReturn 0 0) cutOff = .next (jobFault cutOff 0 eLinkNoPath) :=
    exec_creditReturn_of_noRoute rfl (by decide) cutOff_live rfl (by decide) cutOff_noRoute
  obtain rfl : jobFault cutOff 0 eLinkNoPath = u := Host.Outcome.next.inj (faults.symm.trans eq)
  rw [getRx_jobFault, cutOff_port] at returned
  exact absurd returned (by decide)

end Sys2Proof.Machine
end

section
/-!
PROOF. The power states of a pavilion, the start of thread 0 and the halt of a pavilion reset (O33).
-/
namespace Sys2Proof.Machine

/-! ### What passing ticks leave of cells, memory and pavilions -/

/-- Of pavilions only the Belvedere counters differ; cells, memory and the resets under way do not. -/
structure TickFrame (s u : State) : Prop where
  cells : u.cells = s.cells
  mem : u.mem = s.mem
  pavRsts : u.pavRsts = s.pavRsts
  pavs : ∀ p, ∃ b, getPav u p = { getPav s p with belv := b }

theorem TickFrame.of_eq {s u : State} (cells : u.cells = s.cells) (mem : u.mem = s.mem) (pavRsts : u.pavRsts = s.pavRsts)
    (pavs : u.pavs = s.pavs) : TickFrame s u :=
  ⟨cells, mem, pavRsts, fun p => ⟨_, getPav_of_pavs pavs p⟩⟩

theorem TickFrame.refl (s : State) : TickFrame s s := .of_eq rfl rfl rfl rfl

theorem TickFrame.trans {s t u : State} (h : TickFrame s t) (h' : TickFrame t u) : TickFrame s u where
  cells := h'.cells.trans h.cells
  mem := h'.mem.trans h.mem
  pavRsts := h'.pavRsts.trans h.pavRsts
  pavs p := by
    obtain ⟨_, eq⟩ := h.pavs p
    obtain ⟨_, eq'⟩ := h'.pavs p
    exact ⟨_, by rw [eq', eq]⟩

theorem TickFrame.foldl {α : Type} {f : State → α → State} (step : ∀ s a, TickFrame s (f s a)) (l : List α) (s : State) :
    TickFrame s (l.foldl f s) :=
  List.foldlRecOn l f (.refl s) fun _ h a _ => h.trans (step _ a)

theorem TickFrame.countBelv (s : State) (n p : Nat) : TickFrame s (countBelv s n p) := by
  have counted : ∀ b, TickFrame s (setPav s p { getPav s p with belv := b }) := fun b => by
    refine ⟨rfl, rfl, rfl, fun q => ?_⟩
    by_cases h : q = p
    · subst h
      exact ⟨b, getPav_setPav ..⟩
    · exact ⟨_, getPav_setPav_ne s p q _ h⟩
  unfold Machine.countBelv
  dsimp only
  split
  · exact .refl s
  · split
    · exact counted _
    · exact (counted _).trans (.of_eq rfl rfl rfl rfl)

theorem TickFrame.countHeld (s : State) (d : Nat) : TickFrame s (countHeld s d) := by
  unfold Machine.countHeld
  dsimp only
  split
  · exact .refl s
  · exact .of_eq rfl rfl rfl rfl

theorem TickFrame.expireObj (s : State) (i : Nat) : TickFrame s (expireObj s i) := by
  rcases expireObj_cases s i with ⟨eq, -⟩ | ⟨eq, -⟩ <;> rw [eq]
  · exact .refl s
  · exact .of_eq rfl rfl rfl rfl

theorem TickFrame.advanceTo (s : State) (t : Nat) : TickFrame s (advanceTo s t) := by
  have ticked : ∀ n, TickFrame s { s with ember := s.ember + n } := fun n => .of_eq rfl rfl rfl rfl
  unfold Machine.advanceTo passTicks expireWaits
  split
  · refine TickFrame.trans ?_ (.foldl expireObj _ _)
    refine TickFrame.trans ?_ (.foldl countHeld _ _)
    refine (ticked (t - s.ember)).trans ?_
    split
    · exact .foldl (countBelv · _) _ _
    · exact .refl _
  · exact .refl s

theorem TickFrame.power {s u : State} (h : TickFrame s u) (p : Nat) : (getPav u p).power = (getPav s p).power := by
  obtain ⟨_, eq⟩ := h.pavs p
  rw [eq]

theorem TickFrame.held {s u : State} (h : TickFrame s u) (p : Nat) : (getPav u p).held = (getPav s p).held := by
  obtain ⟨_, eq⟩ := h.pavs p
  rw [eq]

/-! ### KINDLING, RUN, GATED, OFF (R230, R240) -/

section
variable {s : State} {p : Nat} (ok : pavOk p = true)
include ok

theorem exec_kindleComplete (kindling : (getPav s p).power = .kindling) (runs : running s = true) (up : stackUp s (dieOfPav p) = true)
    (none : (getPav s p).dwait = .none) :
    exec (.kindleComplete p) s = .next (setPav s p (beginIdle s.ember { getPav s p with power := .run })) := by
  change execKindleComplete p s = _
  simp [execKindleComplete, ok, kindling, runs, up, none]

theorem exec_pavilionGate (inRun : (getPav s p).power = .run) (idle : launchRuns s p = false) (runs : running s = true) :
    let t := advanceTo s ((getPav s p).idleSince + ceilDiv (getPav s p).gateNow 45)
    exec (.pavilionGate p) s = .next (modPav t p (fun x => { x with power := .gated, idleSince := t.ember })) := by
  change execPavilionGate p s = _
  simp [execPavilionGate, ok, inRun, idle, runs]

/-- GATED goes OFF at its time, or at once where a Temper change waits (R232, R240). -/
theorem exec_pavilionOff (gated : (getPav s p).power = .gated) (runs : running s = true)
    (due : (getPav s p).offNow ≠ 0xFFFFFFFF ∨ temperPending (getPav s p) = true) :
    exec (.pavilionOff p) s =
      .next (modPav (if temperPending (getPav s p) then s else advanceTo s ((getPav s p).idleSince + (getPav s p).offNow)) p
        (fun x => { x with power := .off })) := by
  change execPavilionOff p s = _
  rw [execPavilionOff, ok, onUnit_true, if_neg]
  rintro (notGated | stopped | ⟨never, noChange⟩)
  · exact notGated gated
  · simp [runs] at stopped
  · rcases due with timed | change
    · exact timed never
    · simp [change] at noChange

theorem exec_thread0Start {b i : Nat} (bed : bedOk b = true) (starts : (getPav s p).starts.find? (fun e => decide (e.1 = b)) = some (b, i))
    (live : pavLive s p = true) (inRun : (getPav s p).power = .run) :
    exec (.thread0Start p b) s =
      .next (startThread0 (setPav s p { getPav s p with starts := dropFirst (fun e => decide (e = (b, i))) (getPav s p).starts }) p b i) := by
  change execThread0Start p b s = _
  rw [execThread0Start, ok, bed, Bool.and_self, onUnit_true]
  simp only [starts]
  rw [if_pos ⟨live, inRun⟩]

theorem exec_pavilionResetHalt {t : Nat} (begun : mget 0 s.pavRsts p = t + 1) (boot : booted s = true) :
    exec (.pavilionResetHalt p) s = .next (advanceTo { haltPav s p with pavRsts := mset 0 p 0 (haltPav s p).pavRsts } (t + 5000)) := by
  change execPavilionResetHalt p s = _
  simp [execPavilionResetHalt, ok, begun, boot]

end

/-! ### The halt of a pavilion reset (R446) -/

/-- Cells changed one after the other leave the rest of the package. -/
theorem foldl_modCell_frame {α : Type} (c : α → Nat) (f : State → α → Cell → Cell) (l : List α) (s : State) :
    ∃ m, l.foldl (fun s a => modCell s (c a) (f s a)) s = { s with cells := m } := by
  induction l generalizing s with
  | nil => exact ⟨_, rfl⟩
  | cons a rest ih => exact ih (modCell s (c a) (f s a))

theorem getPav_foldl_modCell {α : Type} (c : α → Nat) (f : State → α → Cell → Cell) (l : List α) (s : State) (p : Nat) :
    getPav (l.foldl (fun s a => modCell s (c a) (f s a)) s) p = getPav s p := by
  obtain ⟨_, eq⟩ := foldl_modCell_frame c f l s
  rw [eq]
  rfl

theorem getPav_draw (s : State) (p : Nat) : getPav (draw s) p = getPav s p := rfl

/-- A pavilion that is given up is OFF, and no job holds it (R213). -/
theorem dropPav_pav (s : State) (p : Nat) : (getPav (dropPav s p) p).power = .off ∧ (getPav (dropPav s p) p).held = false := by
  have eq : getPav (dropPav s p) p = getPav (draw (modPav s p _)) p := (getPav_of_pavs (sampleLevel_pavs ..) p).trans (getPav_foldl_modCell ..)
  rw [eq, getPav_draw, modPav_eq, getPav_setPav]
  exact ⟨rfl, rfl⟩

theorem haltPav_pav (s : State) (p : Nat) : (getPav (haltPav s p) p).power = .off ∧ (getPav (haltPav s p) p).held = false := by
  have eq : getPav (haltPav s p) p = getPav (dropPav _ p) p := (getPav_of_pavs (sampleLevel_pavs ..) p).trans (getPav_foldl_modCell ..)
  rw [eq]
  exact dropPav_pav ..

/-- Settles O33: each command sets the pavilion's state, after the ticks that it waits for. -/
theorem pavilionPowerStates : Obligations.PavilionPowerStates := by
  intro s p ok x
  refine ⟨?kindled, ?gate, ?off, ?temper, ?start, ?reset⟩
  case kindled =>
    intro kindling runs up none
    have set := PavSet.setPav s p (beginIdle s.ember { x with power := .run })
    exact ⟨_, exec_kindleComplete ok kindling runs up none, set.field Pav.power, set.field Pav.idleSince, rfl, rfl, set.others⟩
  case gate =>
    intro inRun idle runs
    have ticks := TickFrame.advanceTo s (x.idleSince + ceilDiv x.gateNow 45)
    refine ⟨_, exec_pavilionGate ok inRun idle runs, ?_, ?_, ticks.cells, ticks.mem⟩
    · simp
    · exact advanceTo_ember ..
  case off =>
    intro gated runs timed noChange
    have ticks := TickFrame.advanceTo s (x.idleSince + x.offNow)
    refine ⟨_, exec_pavilionOff ok gated runs (.inl timed), ?_⟩
    rw [show temperPending (getPav s p) = false from noChange]
    refine ⟨?_, ?_, ticks.cells, ticks.mem⟩
    · simp
    · exact advanceTo_ember ..
  case temper =>
    intro gated runs change
    refine ⟨_, exec_pavilionOff ok gated runs (.inr change), ?_⟩
    rw [show temperPending (getPav s p) = true from change]
    simp
  case start => exact fun b i bed starts live inRun => exec_thread0Start ok bed starts live inRun
  case reset =>
    intro t begun boot
    obtain ⟨off, free⟩ := haltPav_pav s p
    have ticks := TickFrame.advanceTo { haltPav s p with pavRsts := mset 0 p 0 (haltPav s p).pavRsts } (t + 5000)
    refine ⟨_, exec_pavilionResetHalt ok begun boot, (ticks.power p).trans off, (ticks.held p).trans free, ?_⟩
    rw [ticks.pavRsts]
    exact mget_mset_same 0 p 0 _

end Sys2Proof.Machine
end

section
/-!
PROOF. What the instructions of items, and what follows them, answer (O35).
-/
namespace Sys2Proof.Machine
open Sys2Proof.Claim

section
variable {s : State} {p : Nat} {f : DFields} (ok : pavOk p = true)
include ok

/-! ### NEXT and LAUNCH (R225, R228) -/

theorem exec_dNext {i : Nat} {it : Item} (on : dEnabled s p 0x20 f = true) (free : (getPav s p).reserved = none)
    (found : offered s p = some (i, it)) : exec (.dNext p f) s = .next (dNextWord (reserve s p f.d.toNat i it) p) := by
  change execDNext p f s = _
  rw [execDNext, onDispatch_of_enabled ok on]
  simp only [free, found, Option.isSome_none, Bool.false_eq_true, if_false]

theorem exec_dNext_waits (on : dEnabled s p 0x20 f = true) (free : (getPav s p).reserved = none) (none : offered s p = none) :
    exec (.dNext p f) s = .next (setPav s p { getPav s p with dwait := .next f.d.toNat, dstate := 2 }) := by
  change execDNext p f s = _
  rw [execDNext, onDispatch_of_enabled ok on]
  simp only [free, none, Option.isSome_none, Bool.false_eq_true, if_false, modPav_eq]

theorem exec_dLaunch {i : Nat} {it : Item} (on : dEnabled s p 0x22 f = true)
    (named : launchNamed s p (dReg (getPav s p) f.a.toNat) = some (i, it)) (inRun : (getPav s p).power = .run) :
    exec (.dLaunch p f) s = .next (doLaunch s p f.d.toNat i it) := by
  change execDLaunch p f s = _
  rw [execDLaunch, onDispatch_of_enabled ok on]
  simp only [named, inRun, if_true]

/-- LAUNCH on a pavilion that is not in RUN waits for its Kindle (R231). -/
theorem exec_dLaunch_kindles {i : Nat} {it : Item} (on : dEnabled s p 0x22 f = true)
    (named : launchNamed s p (dReg (getPav s p) f.a.toNat) = some (i, it)) (notRun : (getPav s p).power ≠ .run) :
    exec (.dLaunch p f) s =
      .next (startKindle (setPav s p
        { getPav s p with dwait := .launch f.d.toNat i, dstate := 2, late := wrap32 ((getPav s p).late + 1) }) p) := by
  change execDLaunch p f s = _
  rw [execDLaunch, onDispatch_of_enabled ok on]
  simp only [named, notRun, if_false, modPav_eq]

/-! ### The ends of waits (R225) -/

theorem exec_nextResume_next {d i : Nat} {it : Item} (waits : (getPav s p).dwait = .next d) (live : pavLive s p = true)
    (found : offered s p = some (i, it)) : exec (.nextResume p) s = .next (dNextWord (reserve s p d i it) p) := by
  change execNextResume p s = _
  rw [execNextResume, ok, onUnit_true, waits]
  simp only [live, found, Bool.not_true, Bool.false_eq_true, if_false]

theorem exec_nextResume_launch {d i : Nat} {it : Item} (waits : (getPav s p).dwait = .launch d i)
    (found : mfind (getJob s (getPav s p).ctx).items i = some it) (live : pavLive s p = true) (inRun : (getPav s p).power = .run) :
    exec (.nextResume p) s = .next (doLaunch s p d i it) := by
  change execNextResume p s = _
  rw [execNextResume, ok, onUnit_true, waits]
  simp only [live, found, inRun, and_self, if_true]

/-! ### KINDLE and MIGRATE (R227, R231, R235) -/

theorem exec_dKindle (on : dEnabled s p 0x23 f = true) (inRange : (dReg (getPav s p) f.a.toNat).toNat ≤ 63)
    (held : (getPav s (dReg (getPav s p) f.a.toNat).toNat).held = true)
    (own : (getPav s (dReg (getPav s p) f.a.toNat).toNat).ctx = (getPav s p).ctx) :
    exec (.dKindle p f) s = .next (dWrite (startKindle s (dReg (getPav s p) f.a.toNat).toNat) p f 0) := by
  change execDKindle p f s = _
  rw [execDKindle, onDispatch_of_enabled ok on]
  simp only [Nat.not_lt.mpr inRange, held, own, Bool.not_true, Bool.false_eq_true, ne_eq, not_true_eq_false, or_self, if_false]

theorem exec_dMigrate {u : State} (on : dEnabled s p 0x24 f = true) (a_lt : (dReg (getPav s p) f.a.toNat).toNat < 2 ^ 20)
    (b_lt : (dReg (getPav s p) f.b.toNat).toNat < 2 ^ 10)
    (taken : requestMigration s (getPav s p).ctx ((dReg (getPav s p) f.a.toNat).toNat % 4096) ((dReg (getPav s p) f.a.toNat).toNat / 4096)
      ((dReg (getPav s p) f.b.toNat).toNat / 16) ((dReg (getPav s p) f.b.toNat).toNat % 16) = .inl u) :
    exec (.dMigrate p f) s = .next (dWrite u p f 0) := by
  change execDMigrate p f s = _
  rw [execDMigrate, onDispatch_of_enabled ok on]
  simp only [Nat.not_le.mpr a_lt, Nat.not_le.mpr b_lt, or_self, if_false, taken]

end

/-! ### What is reserved -/

/-- NEXT returns an item: it is reserved, its bed taken, and the unit goes on with its word in dN; of the rest of the package only the item's state
changes (R228). -/
theorem reserve_goes {s : State} {p : Nat} (n i : Nat) (it : Item) (next : (getPav s p).dpc + 1 < (getPav s p).prog.length) :
    let u := dNextWord (reserve s p n i it) p
    (getPav u p).reserved = some i ∧ (getPav u p).dwait = .none ∧ (getPav u p).dstate = 1 ∧ (getPav u p).dpc = (getPav s p).dpc + 1 ∧
      dReg (getPav u p) n = (if n = 0 then 0 else itemWordOf it) ∧ u.mem = s.mem ∧ u.cells = s.cells := by
  intro u
  obtain ⟨⟨_, went⟩, -, written⟩ := setD_goes (s := modItem s (getPav s p).ctx i (fun it => { it with state := .reserved })) (p := p)
    (y := setBed { getPav s p with reserved := some i, dwait := .none, dstate := 1 } it.bed { getBed (getPav s p) it.bed with item := some i })
    n (itemWordOf it) next
  exact ⟨went.field Pav.reserved, went.field Pav.dwait, went.field Pav.dstate, went.field Pav.dpc, written,
    went.keeps State.mem fun _ => rfl, went.keeps State.cells fun _ => rfl⟩

theorem dispatchItems : DispatchItems := by
  intro s p f ok x a
  refine ⟨fun i it on free found next => ?_, fun on free none => exec_dNext_waits ok on free none,
    fun i it on named inRun => exec_dLaunch ok on named inRun, fun i it on named notRun => exec_dLaunch_kindles ok on named notRun,
    fun d i it waits live found => exec_nextResume_next ok waits live found,
    fun d i it waits found live inRun => exec_nextResume_launch ok waits found live inRun,
    fun on inRange held own => exec_dKindle ok on inRange held own, fun u on a_lt b_lt taken => exec_dMigrate ok on a_lt b_lt taken⟩
  obtain ⟨reserved, -, runs, pc, word, mem, cells⟩ := reserve_goes f.d.toNat i it next
  exact ⟨_, exec_dNext ok on free found, reserved, pc, runs, word.trans (if_congr (BitVec.toNat_inj (y := 0#4)) rfl rfl), mem, cells⟩

end Sys2Proof.Machine
end

section
/-!
PROOF. A launch: what comes before it leaves the pavilions and every item's place; then the item runs (O35).
-/
namespace Sys2Proof.Machine
open Sys2Proof.Claim

/-! ### Items stay while an access touches pages -/

/-- Every item that a job has it still has, whatever else of it changed. -/
structure KeepsItems (s u : State) : Prop where
  items : ∀ j i, HasItem s j i → HasItem u j i

theorem KeepsItems.refl (s : State) : KeepsItems s s := ⟨fun _ _ h => h⟩

theorem KeepsItems.trans {s t u : State} (h : KeepsItems s t) (h' : KeepsItems t u) : KeepsItems s u :=
  ⟨fun j i has => h'.items j i (h.items j i has)⟩

theorem KeepsItems.foldl {α : Type} {f : State → α → State} (step : ∀ s a, KeepsItems s (f s a)) (l : List α) (s : State) :
    KeepsItems s (l.foldl f s) :=
  List.foldlRecOn l f (.refl s) fun _ h a _ => h.trans (step _ a)

theorem keepsItems_of_same {s u : State} (h : SameItems s u) : KeepsItems s u :=
  ⟨fun j i has => by rwa [HasItem, h.items j]⟩

theorem keepsItems_of_jobs {s u : State} (h : u.jobs = s.jobs) : KeepsItems s u := keepsItems_of_same ((SameItems.refl s).of_jobs h)

theorem mfind_map_values {α β : Type} (g : Nat × α → β) {m : List (Nat × α)} {k : Nat} (h : ∃ v, mfind m k = some v) :
    ∃ v, mfind (m.map (fun e => (e.1, g e))) k = some v := by
  induction m with
  | nil => simp [mfind] at h
  | cons e rest ih =>
    rw [List.map_cons]
    by_cases hk : e.1 = k
    · exact ⟨g e, by simp [mfind, hk]⟩
    · simpa [mfind, hk] using ih (by simpa [mfind, hk] using h)

/-- Leaves replaced in the tables of a job leave it its items (R158). -/
theorem keepsItems_mapLeaves (s : State) (j : Nat) {f : Job → Job} (p : Leaf → Bool) (g : Leaf → Leaf)
    (items : ∀ jb, (f jb).items = (mapLeaves jb p g).items) : KeepsItems s (modJob s j f) := by
  refine ⟨fun k i has => ?_⟩
  rw [HasItem, getJob_modJob_if]
  split
  · rw [items]
    exact mfind_map_values _ has
  · exact has

theorem sameItems_takeFrame (s : State) (j f : Nat) (st : FState) : SameItems s (takeFrame s j f st) := by
  rw [takeFrame]
  split
  · exact ((SameItems.refl s).of_frame (putFrame_frame ..)).of_frame (countFrame_frame ..)
  · exact (SameItems.refl s).of_frame (putFrame_frame ..)

theorem keepsItems_startMove (s : State) (j vpn a f : Nat) (pageIn : Bool) : KeepsItems s (startMove s j vpn a f pageIn) := by
  rw [startMove]
  exact (keepsItems_of_same (sameItems_takeFrame ..)).trans (keepsItems_mapLeaves _ j (atAddr a) (fun l => { l with loc := 2 }) fun _ => rfl)

theorem keepsItems_evict (s : State) (j d : Nat) : KeepsItems s (evict s j d).1 := by
  have leaves : ∀ p g, KeepsItems s (modJob s j (fun jb => mapLeaves jb p g)) := fun p g => keepsItems_mapLeaves s j p g fun _ => rfl
  have clock : ∀ (t : State) v, KeepsItems t (modJob t j (fun jb => { jb with clock := mset 0 d v jb.clock })) := fun t v =>
    keepsItems_of_same ((SameItems.refl t).modJob fun _ => rfl)
  unfold evict
  dsimp only
  split
  · exact leaves ..
  · split
    · exact (leaves ..).trans (clock ..)
    · split
      · exact (leaves ..).trans (clock ..)
      · exact ((leaves ..).trans (clock ..)).trans (keepsItems_startMove ..)

theorem keepsItems_requestPageIn (s : State) (j vpn : Nat) (l : Leaf) : KeepsItems s (requestPageIn s j vpn l) := by
  have queued : ∀ (t : State) m, KeepsItems t (modJob t j (fun jb => { jb with moves := jb.moves ++ [m] })) := fun t m =>
    keepsItems_of_same ((SameItems.refl t).modJob fun _ => rfl)
  rw [requestPageIn]
  split
  · exact .refl s
  · dsimp only
    split
    · exact .refl s
    · split
      · exact keepsItems_startMove ..
      · split
        · exact (keepsItems_evict ..).trans (queued ..)
        · exact keepsItems_evict ..

theorem keepsItems_walked (s : State) (who : Option Nat) (d n : Nat) (t : Nat × Nat) :
    KeepsItems s (match who with
      | some c => modCell (modStore s d (fun x => { x with walks := wrap32 (x.walks + n) })) c (installTlb s.free t)
      | none => modStore s d (fun x => { x with walks := wrap32 (x.walks + n) })) := by
  cases who with
  | none => exact keepsItems_of_jobs rfl
  | some c => exact keepsItems_of_jobs rfl

theorem keepsItems_installPage (s : State) (who : Option Nat) (j : Nat) (item : Option Nat) (d va : Nat) :
    KeepsItems s (installPage s who j item d va) := by
  have walked := keepsItems_walked s who d ((Config.freeWord s.free 9000).toNat % 2) (va / 65536, (walk (getJob s j) item va).number)
  have aged : ∀ (t : State) (l : Leaf), KeepsItems t (if l.a then t
      else modJob t j (fun jb => mapLeaves jb (fun m => decide (m.target = l.target)) (fun m => { m with a := true }))) := by
    intro t l
    split
    · exact .refl t
    · exact keepsItems_mapLeaves _ j _ _ fun _ => rfl
  have drawn : ∀ t, KeepsItems t (draw t) := fun t => keepsItems_of_jobs rfl
  unfold installPage
  dsimp only
  split
  · refine KeepsItems.trans ?_ (drawn _)
    exact walked.trans (aged ..)
  · exact walked.trans (drawn _)

theorem keepsItems_touchPage (s : State) (who : Option Nat) (j : Nat) (item : Option Nat) (d va : Nat) :
    KeepsItems s (touchPage s who j item d va) := by
  have installed : KeepsItems s (if missesTlb s who (va / 65536, (walk (getJob s j) item va).number) then installPage s who j item d va else s) := by
    split
    · exact keepsItems_installPage ..
    · exact .refl s
  rw [touchPage]
  split
  · exact installed.trans (keepsItems_requestPageIn ..)
  · exact installed

theorem keepsItems_touchRanges (s : State) (who : Option Nat) (j : Nat) (item : Option Nat) (d : Nat) (rs : List (Nat × Nat)) :
    KeepsItems s (touchRanges s who j item d rs) :=
  .foldl (fun t (_ : Nat × Nat) => .foldl (fun t (q : Nat × Nat) => keepsItems_touchPage t who j item d q.1) _ t) rs s

/-- Bytes written change memories and the errors known there (R181). -/
theorem writePieces_frame (s : State) (l : List Piece) (b : List Byte) :
    ∃ mem host upsets, writePieces s l b = { s with mem := mem, host := host, upsets := upsets } := by
  fun_induction writePieces s l b with
  | case1 => exact ⟨_, _, _, rfl⟩
  | case2 s q rest b t ih =>
    have written : ∃ mem host upsets, t = { s with mem := mem, host := host, upsets := upsets } := by
      simp only [t, physWrite]
      repeat' split
      all_goals exact ⟨_, _, _, rfl⟩
    obtain ⟨_, _, _, eq⟩ := written
    obtain ⟨_, _, _, eq'⟩ := ih
    exact ⟨_, _, _, by rw [eq', eq]⟩

/-! ### The item starts (R228) -/

section
variable {s t : State} {j i v : Nat} {it : Item}

theorem SameItems.fixVersion (h : SameItems s t) : SameItems s (fixVersion t j it v) := by
  unfold Machine.fixVersion
  split
  · exact h
  · exact (h.foldl (fun _ _ h => h.modHolds) _).modJob fun _ => rfl

theorem SameItems.pinEntries (h : SameItems s t) : SameItems s (pinEntries t j i it) := by
  unfold Machine.pinEntries
  split
  · exact h
  · exact h.modJob fun _ => rfl

end

section
variable (s : State) (j i v : Nat) (it : Item)

theorem fixVersion_pavs : (fixVersion s j it v).pavs = s.pavs := by
  unfold fixVersion
  split
  · rfl
  · rw [modJob_eq, setJob_pavs]
    exact foldl_pavs s (fun _ _ => by rfl) _

theorem pinEntries_pavs : (pinEntries s j i it).pavs = s.pavs := by
  unfold pinEntries
  split <;> rfl

/-- The version of the item's micro-batch is fixed, and the micro-batch has begun at its stage (R224, R314). -/
def launchNoted : State :=
  modJob (fixVersion s j it v) j (fun jb =>
    if it.phase = 0 ∧ it.chunk = 0 then { jb with begun := jb.begun ++ [(it.stage, it.replica, it.mb)] } else jb)

/-- The cells of a bed enter the launch, in the order of their ranks (R59). -/
def launchCells (b : Bed) (cells : List Nat) : State :=
  match stageOf (getJob s j) it.stage with
  | some st => ((List.range cells.length).zip cells).foldl (fun s e => modCell s e.2 (launchCell s j i it b st e.1)) s
  | none => s

theorem launchCells_frame (b : Bed) (cells : List Nat) : ∃ m, launchCells s j i it b cells = { s with cells := m } := by
  unfold launchCells
  split
  · exact foldl_modCell_frame (fun e : Nat × Nat => e.2) (fun s e => launchCell s j i it b _ e.1) _ s
  · exact ⟨_, rfl⟩

/-- The item runs with its version, the entries that it reads are pinned (R256). -/
def itemRuns (cells : List Nat) : State :=
  pinEntries (modItem (launchNoted s j v it) j i (fun it => { it with state := .running, version := v, toReport := cells, reported := false })) j i it

theorem startItem_eq (p : Nat) :
    startItem s p i it v =
      let b := getBed (getPav (launchNoted s (getPav s p).ctx v it) p) it.bed
      modPav (launchCells (itemRuns s (getPav s p).ctx i v it (bedCells p b)) (getPav s p).ctx i it b (bedCells p b)) p
        (fun x => { x with reserved := none, starts := x.starts ++ [(it.bed, i)] }) := rfl

theorem launchNoted_pavs : (launchNoted s j v it).pavs = s.pavs := fixVersion_pavs ..

theorem itemRuns_pavs (cells : List Nat) : (itemRuns s j i v it cells).pavs = s.pavs :=
  (pinEntries_pavs ..).trans (launchNoted_pavs ..)

theorem sameItems_launchNoted : SameItems s (launchNoted s j v it) :=
  (SameItems.refl s).fixVersion.modJob fun jb => by split <;> rfl

theorem itemRuns_item {s : State} {j i : Nat} (cells : List Nat) (has : HasItem s j i) :
    ∃ m, mfind (getJob (itemRuns s j i v it cells) j).items i = some m ∧ m.state = .running ∧ m.version = v := by
  obtain ⟨_, found⟩ := has
  obtain ⟨here, -⟩ := mfind_of_modItem (SameItems.refl _).pinEntries (sameItems_launchNoted s j v it) found
  exact ⟨_, here, rfl, rfl⟩

end

/-- An item that starts runs with its version, and its bed's thread 0 is to start; of the pavilion nothing else changes. -/
theorem startItem_spec {s : State} {p i : Nat} (it : Item) (v : Nat) (has : HasItem s (getPav s p).ctx i) :
    getPav (startItem s p i it v) p = { getPav s p with reserved := none, starts := (getPav s p).starts ++ [(it.bed, i)] } ∧
      ∃ m, mfind (getJob (startItem s p i it v) (getPav s p).ctx).items i = some m ∧ m.state = .running ∧ m.version = v := by
  rw [startItem_eq]
  dsimp only
  generalize getBed (getPav (launchNoted s (getPav s p).ctx v it) p) it.bed = b
  obtain ⟨_, eq⟩ := launchCells_frame (itemRuns s (getPav s p).ctx i v it (bedCells p b)) (getPav s p).ctx i it b (bedCells p b)
  have pav : getPav (launchCells (itemRuns s (getPav s p).ctx i v it (bedCells p b)) (getPav s p).ctx i it b (bedCells p b)) p = getPav s p :=
    getPav_of_pavs (by rw [eq]; exact itemRuns_pavs ..) p
  rw [modPav_eq, getPav_setPav, getJob_setPav, pav, eq]
  exact ⟨rfl, itemRuns_item v it _ has⟩

/-! ### LAUNCH (R228) -/

/-- Where the argument words can be written and the item has its version, LAUNCH writes them, starts the item, and the unit goes on. -/
theorem doLaunch_eq {s : State} {p i v : Nat} {it : Item} {ps : List Piece} (n : Nat)
    (ready : versionOf s (getJob s (getPav s p).ctx) it = some v)
    (fits : checkAccess s (getJob s (getPav s p).ctx) none (dieOfPav p) .wr [(argAddr (getJob s (getPav s p).ctx) p it.bed, 64)] = .ok ps) :
    ∃ words, doLaunch s p n i it =
      noteStuck (dNextWord (modPav
        (startItem (writePieces
          (touchRanges s none (getPav s p).ctx none (dieOfPav p) [(argAddr (getJob s (getPav s p).ctx) p it.bed, 64)]) ps words) p i it v) p
        (fun x => setD { x with dwait := .none, dstate := 1 } n 0)) p) (getPav s p).ctx := by
  unfold doLaunch
  simp only [fits, ready]
  exact ⟨_, rfl⟩

theorem getPav_noteStuck (s : State) (j p : Nat) : getPav (noteStuck s j) p = getPav s p := by
  rfl

theorem doLaunch_starts {s : State} {p i v : Nat} {it : Item} {ps : List Piece} (n : Nat) (next : (getPav s p).dpc + 1 < (getPav s p).prog.length)
    (found : mfind (getJob s (getPav s p).ctx).items i = some it) (ready : versionOf s (getJob s (getPav s p).ctx) it = some v)
    (fits : checkAccess s (getJob s (getPav s p).ctx) none (dieOfPav p) .wr [(argAddr (getJob s (getPav s p).ctx) p it.bed, 64)] = .ok ps) :
    let u := doLaunch s p n i it
    ∃ m, mfind (getJob u (getPav s p).ctx).items i = some m ∧ m.state = .running ∧ m.version = v ∧ (it.bed, i) ∈ (getPav u p).starts ∧
      (getPav u p).reserved = none ∧ (getPav u p).dwait = .none ∧ (getPav u p).dpc = (getPav s p).dpc + 1 ∧ dReg (getPav u p) n = 0 := by
  dsimp only
  obtain ⟨words, eq⟩ := doLaunch_eq n (i := i) ready fits
  have touched := touchFrame_touchRanges s none (getPav s p).ctx none (dieOfPav p) [(argAddr (getJob s (getPav s p).ctx) p it.bed, 64)]
  have kept := keepsItems_touchRanges s none (getPav s p).ctx none (dieOfPav p) [(argAddr (getJob s (getPav s p).ctx) p it.bed, 64)]
  generalize touchRanges s none (getPav s p).ctx none (dieOfPav p) [(argAddr (getJob s (getPav s p).ctx) p it.bed, 64)] = t at *
  obtain ⟨_, _, _, written⟩ := writePieces_frame t ps words
  have pav : getPav (writePieces t ps words) p = getPav s p := by
    obtain ⟨_, _, _, _, only⟩ := touched.only
    rw [written, only]
    rfl
  have has : HasItem (writePieces t ps words) (getPav s p).ctx i := by
    rw [written]
    exact kept.items _ i ⟨it, found⟩
  generalize writePieces t ps words = w at *
  obtain ⟨started, m, runs, state, version⟩ := startItem_spec it v (pav ▸ has)
  rw [pav] at started runs
  generalize startItem w p i it v = z at *
  obtain ⟨⟨_, went⟩, -, zero⟩ := setD_goes (s := z) (p := p) (y := { getPav z p with dwait := .none, dstate := 1 }) n 0 (by rw [started]; exact next)
  rw [modPav_eq] at eq
  generalize doLaunch s p n i it = u at *
  have items : SameItems z u := by
    rw [eq]
    exact ((SameItems.refl z).of_jobs (went.keeps State.jobs fun _ => rfl)).noteStuck
  have pavs := getPav_noteStuck (dNextWord (setPav z p (setD { getPav z p with dwait := .none, dstate := 1 } n 0)) p) (getPav s p).ctx p
  rw [← eq] at pavs
  have here := pavs.trans went.here
  have cleared : dReg (getPav u p) n = 0 := by rw [pavs, zero, ite_self]
  rw [items.items]
  refine ⟨m, runs, state, version, ?_, ?_, ?_, ?_, cleared⟩ <;> rw [here]
  · rw [started]
    exact List.mem_append_right _ (List.mem_singleton_self _)
  · rw [started]
  · rw [started]

end Sys2Proof.Machine
end

section
/-!
PROOF. Migrations: what their markers and their end do, and how one starts (O35).
-/
namespace Sys2Proof.Machine
open Sys2Proof.Claim

/-! ### Cells change -/

/-- Of the package only cells and the count of free values differ. -/
structure CellsOnly (s u : State) : Prop where
  only : ∃ m n, u = { s with cells := m, free := n }

theorem CellsOnly.refl (s : State) : CellsOnly s s := ⟨_, _, rfl⟩

theorem CellsOnly.modCell (s : State) (c : Nat) (f : Cell → Cell) : CellsOnly s (modCell s c f) := ⟨_, _, rfl⟩

theorem CellsOnly.trans {s t u : State} (h : CellsOnly s t) (h' : CellsOnly t u) : CellsOnly s u := by
  obtain ⟨_, _, eq⟩ := h.only
  obtain ⟨_, _, eq'⟩ := h'.only
  exact ⟨_, _, by rw [eq', eq]⟩

theorem CellsOnly.foldl {α : Type} {f : State → α → State} (step : ∀ s a, CellsOnly s (f s a)) (l : List α) (s : State) :
    CellsOnly s (l.foldl f s) :=
  List.foldlRecOn l f (.refl s) fun _ h a _ => h.trans (step _ a)

/-- What reads neither cells nor free values is as it was. -/
theorem CellsOnly.keeps {α : Type} {s u : State} (h : CellsOnly s u) (g : State → α) (same : ∀ m n, g { s with cells := m, free := n } = g s) :
    g u = g s := by
  obtain ⟨_, _, eq⟩ := h.only
  rw [eq, same]

theorem CellsOnly.migs {s u : State} (h : CellsOnly s u) : u.migs = s.migs := h.keeps State.migs fun _ _ => rfl
theorem CellsOnly.mem {s u : State} (h : CellsOnly s u) : u.mem = s.mem := h.keeps State.mem fun _ _ => rfl
theorem CellsOnly.pavs {s u : State} (h : CellsOnly s u) : u.pavs = s.pavs := h.keeps State.pavs fun _ _ => rfl

theorem getMigs_of_migs {s u : State} (h : u.migs = s.migs) (j : Nat) : getMigs u j = getMigs s j := by rw [getMigs, h, getMigs]

/-! ### Markers (R236) -/

section
variable {s u : State} {j n : Nat} {m : Mig}

theorem getMigs_setMig (s : State) (j n : Nat) (m : Mig) : getMigs (setMig s j n m) j = (getMigs s j).set n m := mget_mset_same ..

theorem setMig_here {s : State} (m' : Mig) (found : (getMigs s j)[n]? = some m) : (getMigs (setMig s j n m') j)[n]? = some m' := by
  rw [getMigs_setMig, List.getElem?_set_self', found]
  rfl

/-- What a marker records once its cells have changed. -/
theorem CellsOnly.setMig (h : CellsOnly s u) (m' : Mig) (found : (getMigs s j)[n]? = some m) :
    (getMigs (setMig u j n m') j)[n]? = some m' ∧ (setMig u j n m').mem = s.mem :=
  ⟨setMig_here m' (by rw [getMigs_of_migs h.migs]; exact found), h.mem⟩

theorem cellsOnly_of_moveInput {k : Nat} {ch : ChanDecl} (moved : moveInput s m k ch = some u) : CellsOnly s u := by
  unfold moveInput at moved
  split at moved
  · obtain rfl := Option.some.inj moved
    exact .modCell ..
  · cases moved

theorem cellsOnly_of_forwardAll {k : Nat} {ch : ChanDecl} (forwarded : forwardAll s m k ch = some u) : CellsOnly s u := by
  unfold forwardAll at forwarded
  dsimp only at forwarded
  split at forwarded
  · split at forwarded
    · cases forwarded
    · obtain rfl := Option.some.inj forwarded
      exact ⟨_, _, rfl⟩
  · cases forwarded

/-- The MOVE of an input channel (step 2). -/
theorem moveMarker_eq {k : Nat} {ch : ChanDecl} (declared : (getJob s j).image.chans[k]? = some ch) (fresh : m.moves.contains k = false)
    (input : ch.cStage = m.stage) (moved : moveInput s m k ch = some u) :
    moveMarker s j n m k = Machine.setMig u j n { m with moves := k :: m.moves } := by
  unfold moveMarker
  simp only [declared, fresh, input, moved, Bool.false_eq_true, if_false, if_true]

/-- The END of an input channel (step 3). -/
theorem endMarker_eq {k : Nat} {ch : ChanDecl} (declared : (getJob s j).image.chans[k]? = some ch) (moved : m.moves.contains k = true)
    (fresh : m.ends.contains (2 * k) = false) (idle : oldIdle s m = true) (input : ch.cStage = m.stage) (forwarded : forwardAll s m k ch = some u) :
    endMarker s j n m (2 * k) = Machine.setMig u j n { m with ends := 2 * k :: m.ends } := by
  unfold endMarker
  simp only [Nat.mul_div_cancel_left k Nat.two_pos, declared, fresh, idle, input, Nat.mul_mod_right, moved, forwarded, Bool.false_eq_true,
    Bool.not_true, or_self, if_false, if_true]

/-- The last credits of the old bed go back, and its ports are released (step 6). -/
def releasePorts (s : State) (cells : List Nat) : State :=
  cells.foldl (fun s c =>
    let s := (getCell s c).rx.foldl (fun s e =>
      Machine.modCell s e.2.peerCell (fun y =>
        let q := getTx y e.2.peerPort
        setTx y e.2.peerPort { q with credits := q.credits + e.2.creditsBack })) s
    Machine.modCell s c (fun x => { x with tx := [], rx := [] })) s

theorem cellsOnly_releasePorts (s : State) (cells : List Nat) : CellsOnly s (releasePorts s cells) := by
  refine .foldl (fun t c => ?_) cells s
  exact (CellsOnly.foldl (fun t (e : Nat × Port) => .modCell t e.2.peerCell _) _ t).trans (.modCell ..)

theorem completeMig_eq (s : State) (j n : Nat) (m : Mig) :
    completeMig s j n m =
      let u := Machine.setMig (modPav (releasePorts s (bedCells m.fromP (getBed (getPav s m.fromP) m.fromB))) m.fromP (fun x => setBed x m.fromB Bed.reset))
        j n { m with done := true }
      if (getPav u m.fromP).retirePend ∧ (getPav u m.fromP).beds.all (fun e => !e.2.valid) then retirePav u m.fromP else u := rfl

theorem completeMig_releases (found : (getMigs s j)[n]? = some m) (stays : (getPav s m.fromP).retirePend = false) :
    (getMigs (completeMig s j n m) j)[n]? = some { m with done := true } ∧ getBed (getPav (completeMig s j n m) m.fromP) m.fromB = Bed.reset := by
  have released := cellsOnly_releasePorts s (bedCells m.fromP (getBed (getPav s m.fromP) m.fromB))
  rw [completeMig_eq]
  generalize releasePorts s (bedCells m.fromP (getBed (getPav s m.fromP) m.fromB)) = t at *
  have here : getPav (Machine.setMig (modPav t m.fromP (fun x => setBed x m.fromB Bed.reset)) j n { m with done := true }) m.fromP =
      setBed (getPav s m.fromP) m.fromB Bed.reset := by
    rw [← getPav_of_pavs released.pavs m.fromP]
    exact getPav_setPav ..
  dsimp only
  rw [here, if_neg fun retires => by simp [setBed, stays] at retires, here]
  exact ⟨setMig_here _ (by rw [modPav_eq]; exact (getMigs_of_migs released.migs j ▸ found)), getBed_setBed ..⟩

end

/-! ### The commands -/

section
variable {s : State} {j n : Nat} {m : Mig} (ok : jobOk j = true) (live : jobLive s j = true) (found : (getMigs s j)[n]? = some m)
  (running : m.done = false)
include ok live found running

theorem onMig_of_open (f : Mig → State) : onUnit (jobOk j) (onMig s j n f) = .next (f m) := by
  rw [ok, onUnit_true, onMig]
  simp only [found, live, running, Bool.not_false, and_self, if_true]

theorem exec_migrationEndMarker (k : Nat) : exec (.migrationEndMarker j n k) s = .next (endMarker s j n m k) :=
  onMig_of_open ok live found running _

theorem exec_migrationMoveMarker (k : Nat) : exec (.migrationMoveMarker j n k) s = .next (moveMarker s j n m k) :=
  onMig_of_open ok live found running _

theorem exec_migrationComplete (ended : migOver s j m = true) : exec (.migrationComplete j n) s = .next (completeMig s j n m) := by
  change onUnit (jobOk j) (onMig s j n _) = _
  rw [onMig_of_open ok live found running, if_pos ended]

end

theorem migrationMarkers : MigrationMarkers := fun _ _ _ _ ok live found running =>
  ⟨exec_migrationEndMarker ok live found running, exec_migrationMoveMarker ok live found running, exec_migrationComplete ok live found running,
    fun _ _ _ => moveMarker_eq⟩

/-! ### A migration starts (R235) -/

/-- What a pavilion's unit runs is as it was. -/
def SameUnit (x y : Pav) : Prop := y.dpc = x.dpc ∧ y.prog = x.prog

theorem sameUnit_modPav (s : State) (q p : Nat) {f : Pav → Pav} (same : ∀ x, SameUnit x (f x)) : SameUnit (getPav s p) (getPav (modPav s q f) p) := by
  rw [modPav_eq]
  by_cases h : p = q
  · subst h
    rw [getPav_setPav]
    exact same _
  · rw [getPav_setPav_ne _ _ _ _ h]
    exact ⟨rfl, rfl⟩

theorem cellsOnly_openPorts (s : State) (j : Nat) (m : Mig) : CellsOnly s (openPorts s j m) := by
  have rx : ∀ t c k ch pt, CellsOnly t (addRx t c k ch pt) := fun t c k ch pt => by
    unfold addRx
    split
    · exact .modCell ..
    · exact .refl t
  have tx : ∀ t c k ch pt, CellsOnly t (addTx t c k ch pt) := fun t c k ch pt => by
    unfold addTx
    split
    · exact .modCell ..
    · exact .refl t
  unfold openPorts
  refine CellsOnly.trans (.foldl (fun t (e : Nat × ChanDecl) => ?_) _ s) (.foldl (fun t (e : Nat × ChanDecl) => ?_) _ _)
  · dsimp only
    split
    · exact rx ..
    · exact .refl t
  · dsimp only
    split
    · exact tx ..
    · exact .refl t

theorem moveItems_keeps (s : State) (j : Nat) (m : Mig) :
    (moveItems s j m).migs = s.migs ∧ ∀ p, SameUnit (getPav s p) (getPav (moveItems s j m) p) := by
  unfold moveItems
  dsimp only
  generalize (getJob s j).items.filter _ = moved
  have items : ∃ jobs, moved.foldl (fun s e =>
      modItem s j e.1 (fun it => { it with state := .waiting, pav := m.toP, bed := m.toB, die := dieOfPav m.toP })) s = { s with jobs := jobs } :=
    List.foldlRecOn (motive := fun t => ∃ jobs, t = { s with jobs := jobs }) moved _ ⟨_, rfl⟩ fun t eq e _ => by
      obtain ⟨_, rfl⟩ := eq
      exact ⟨_, rfl⟩
  obtain ⟨jobs, eq⟩ := items
  rw [eq]
  refine ⟨rfl, fun p => sameUnit_modPav { s with jobs := jobs } m.fromP p fun x => ?_⟩
  exact iteInduction (motive := SameUnit x) (fun _ => ⟨rfl, rfl⟩) fun _ => ⟨rfl, rfl⟩

/-- The migration of R235 that a request asks for, before any marker. -/
def newMig (st r fromP fromB toP toB : Nat) : Mig :=
  { stage := st, replica := r, fromP := fromP, fromB := fromB, toP := toP, toB := toB, ends := [], moves := [], done := false }

theorem startMigration_eq (s : State) (j st r fromP fromB toP toB row col : Nat) :
    ∃ b, startMigration s j st r fromP fromB toP toB row col =
      let m := newMig st r fromP fromB toP toB
      let u := moveItems (openPorts (modPav s toP (fun x => setBed x toB b)) j m) j m
      { u with migs := mset [] j (getMigs u j ++ [m]) u.migs } := ⟨_, rfl⟩

/-- A migration that starts is the last in the job's list; the units of all pavilions stand where they stood. -/
theorem startMigration_spec (s : State) (j st r fromP fromB toP toB row col : Nat) :
    let u := startMigration s j st r fromP fromB toP toB row col
    getMigs u j = getMigs s j ++ [newMig st r fromP fromB toP toB] ∧ ∀ p, SameUnit (getPav s p) (getPav u p) := by
  obtain ⟨b, eq⟩ := startMigration_eq s j st r fromP fromB toP toB row col
  rw [eq]
  dsimp only
  generalize newMig st r fromP fromB toP toB = m
  have bed := fun p => sameUnit_modPav s toP p (f := fun x => setBed x toB b) fun _ => ⟨rfl, rfl⟩
  have ports := cellsOnly_openPorts (modPav s toP (fun x => setBed x toB b)) j m
  obtain ⟨migs, unit⟩ := moveItems_keeps (openPorts (modPav s toP (fun x => setBed x toB b)) j m) j m
  generalize openPorts (modPav s toP (fun x => setBed x toB b)) j m = t at *
  generalize moveItems t j m = u at *
  refine ⟨?_, fun p => ?_⟩
  · rw [getMigs_of_migs (migs.trans ports.migs) j]
    exact mget_mset_same ..
  · obtain ⟨pc, prog⟩ := bed p
    obtain ⟨pc', prog'⟩ := unit p
    rw [getPav_of_pavs ports.pavs] at pc' prog'
    exact ⟨pc'.trans pc, prog'.trans prog⟩

/-- A request that is granted starts a migration to the bed that it names. -/
theorem requestMigration_granted {s t : State} {j st r q b : Nat} (granted : requestMigration s j st r q b = .inl t) :
    ∃ fromP fromB row col, t = startMigration s j st r fromP fromB q b row col := by
  unfold requestMigration at granted
  split at granted
  case h_1 sd fromP fromB _ _ =>
    split at granted
    · cases granted
    · split at granted
      · cases granted
      · split at granted
        · cases granted
        · rename_i row col _
          dsimp only at granted
          split at granted
          · exact ⟨fromP, fromB, row, col, (Sum.inl.inj granted).symm⟩
          · cases granted
  case h_2 => cases granted

end Sys2Proof.Machine
end

section
/-!
PROOF. Kindles, starts of thread 0, and what the commands of items come to (O35).
-/
namespace Sys2Proof.Machine
open Sys2Proof.Claim

/-! ### KINDLE (R231, R232) -/

/-- A Kindle from OFF puts its pavilion in KINDLING and counts; the units of all pavilions stand where they stood. -/
theorem startKindle_of_off {s : State} {q : Nat} (off : (getPav s q).power = .off) (here : (getPav s q).retired = false)
    (stays : (getPav s q).retirePend = false) :
    (getPav (startKindle s q) q).power = .kindling ∧ (getPav (startKindle s q) q).kindles = wrap32 ((getPav s q).kindles + 1) ∧
      ∀ p, SameUnit (getPav s p) (getPav (startKindle s q) p) := by
  have kindled : ∃ voff aclk, (startKindle s q).pavs =
      (modPav s q (fun x => { x with power := .kindling, kindles := wrap32 (x.kindles + 1), idleSince := s.ember, voff := voff, aclkDown := aclk })).pavs := by
    unfold startKindle
    simp only [modPav_eq, off, here, stays, reduceCtorEq, or_self, Bool.false_eq_true, Bool.and_false, if_false]
    split <;> exact ⟨_, _, rfl⟩
  obtain ⟨voff, aclk, pavs⟩ := kindled
  simp only [getPav_of_pavs pavs]
  refine ⟨?_, ?_, fun p => sameUnit_modPav s q p fun _ => ⟨rfl, rfl⟩⟩
  · rw [modPav_eq, getPav_setPav]
  · rw [modPav_eq, getPav_setPav]

/-- A register write of a unit leaves the clocks of every pavilion. -/
theorem dWrite_clocks {s : State} {p : Nat} (f : DFields) (next : (getPav s p).dpc + 1 < (getPav s p).prog.length) (v : Word) (q : Nat) :
    (getPav (dWrite s p f v) q).power = (getPav s q).power ∧ (getPav (dWrite s p f v) q).kindles = (getPav s q).kindles := by
  obtain ⟨⟨_, went⟩, -⟩ := dWrite_goes (f := f) next v
  by_cases h : q = p
  · subst h
    exact ⟨went.field Pav.power, went.field Pav.kindles⟩
  · rw [went.others q h]
    exact ⟨rfl, rfl⟩

/-- A unit that stands where it stood has the next word that it had. -/
theorem SameUnit.next {x y : Pav} (h : SameUnit x y) (next : x.dpc + 1 < x.prog.length) : y.dpc + 1 < y.prog.length := by
  obtain ⟨pc, prog⟩ := h
  rwa [pc, prog]

theorem PavSet.migs {s u : State} {p : Nat} {y : Pav} (h : PavSet s u p y) : u.migs = s.migs := h.keeps State.migs fun _ => rfl

/-! ### Thread 0 of a bed (R59, R228) -/

/-- Thread 0 of a cell at word e, with the address of its argument block in s1. -/
def startedCell (args : Word) (e : Nat) (x : Cell) : Cell := setTState (gotoPc (setStream (setS x 0 1 args) 0 0) 0 e) 0 .ready

theorem startedCell_spec (args : Word) (e : Nat) (x : Cell) :
    tstateOf (startedCell args e x) 0 = .ready ∧ pcOf (startedCell args e x) 0 = e % 8192 ∧ streamOf (startedCell args e x) 0 = 0 ∧
      ∀ n, sReg n (startedCell args e x) 0 1 = args :=
  ⟨tstateOf_setTState .., pcOf_gotoPc .., mget_mset_same 0 0 0 (setS x 0 1 args).streamId, fun n => sReg_setS n x 0 1 args⟩

/-- Every cell of a list to which f is applied in turn holds what f makes. -/
theorem getCell_foldl_modCell (f : Cell → Cell) {l : List Nat} {c : Nat} (listed : c ∈ l) (s : State) :
    ∃ x, getCell (l.foldl (fun s c => modCell s c f) s) c = f x := by
  induction l using List.reverseRecOn with
  | nil => cases listed
  | append_singleton l a ih =>
    rw [List.foldl_append, List.foldl_cons, List.foldl_nil, modCell_eq, getCell_setCell_if]
    split
    · exact ⟨_, rfl⟩
    · next other => exact ih (by simpa [other] using listed)

theorem startThread0_eq {s : State} {p b i e : Nat} {it : Item} (found : mfind (getJob s (getPav s p).ctx).items i = some it)
    (entry : (stageOf (getJob s (getPav s p).ctx) it.stage).bind (fun st => entryWord st it.phase) = some e) :
    startThread0 s p b i = (bedCells p (getBed (getPav s p) b)).foldl (fun t c => modCell t c
      (startedCell (BitVec.ofNat 64 (argAddr (getJob s (getPav s p).ctx) p b)) e)) s := by
  simp only [startThread0, found, entry]
  rfl

theorem startThread0_cell {s : State} {p b i e : Nat} {it : Item} (found : mfind (getJob s (getPav s p).ctx).items i = some it)
    (entry : (stageOf (getJob s (getPav s p).ctx) it.stage).bind (fun st => entryWord st it.phase) = some e) {c : Nat}
    (listed : c ∈ bedCells p (getBed (getPav s p) b)) :
    let y := getCell (startThread0 s p b i) c
    tstateOf y 0 = .ready ∧ pcOf y 0 = e % 8192 ∧ streamOf y 0 = 0 ∧
      ∀ n, sReg n y 0 1 = BitVec.ofNat 64 (argAddr (getJob s (getPav s p).ctx) p b) := by
  dsimp only
  rw [startThread0_eq found entry]
  obtain ⟨x, eq⟩ := getCell_foldl_modCell (startedCell (BitVec.ofNat 64 (argAddr (getJob s (getPav s p).ctx) p b)) e) listed s
  rw [eq]
  exact startedCell_spec ..

/-! ### The statement -/

theorem launchNamed_item {s : State} {p i : Nat} {w : Word} {it : Item} (named : launchNamed s p w = some (i, it)) :
    mfind (getJob s (getPav s p).ctx).items i = some it := by
  unfold launchNamed at named
  simp only [Option.bind_eq_some_iff] at named
  obtain ⟨k, -, m, found, word⟩ := named
  split at word
  · cases word
    exact found
  · cases word

theorem itemCommandsComplete : ItemCommandsComplete := by
  intro s p f ok x jb a ends starts
  refine ⟨?launch, ?resumeLaunch, ?resumeNext, ?kindle, ?migrate, ?thread0, ?markers⟩
  case launch =>
    intro i it v ps on named inRun next ready fits
    obtain ⟨m, runs⟩ := doLaunch_starts f.d.toNat next (launchNamed_item named) ready fits
    exact ⟨_, m, exec_dLaunch ok on named inRun, runs⟩
  case resumeLaunch =>
    intro d i it v ps waits found live inRun next ready fits
    obtain ⟨m, runs⟩ := doLaunch_starts d next found ready fits
    exact ⟨_, m, exec_nextResume_launch ok waits found live inRun, runs⟩
  case resumeNext =>
    intro d i it waits live found next
    obtain ⟨reserved, goes, runs, pc, word, -⟩ := reserve_goes d i it next
    exact ⟨_, exec_nextResume_next ok waits live found, reserved, goes, runs, pc, word⟩
  case kindle =>
    intro y on inRange held own off here stays next
    obtain ⟨power, kindles, unit⟩ := startKindle_of_off off here stays
    obtain ⟨pc, -⟩ := unit p
    obtain ⟨frame, zero, -⟩ := dWrite_result (f := f) ((unit p).next next) 0
    obtain ⟨power', kindles'⟩ := dWrite_clocks f ((unit p).next next) 0 a.toNat
    obtain ⟨pc', -⟩ := frame
    exact ⟨_, exec_dKindle ok on inRange held own, power'.trans power, kindles'.trans kindles, zero.trans (ite_self 0), pc'.trans (congrArg (· + 1) pc)⟩
  case migrate =>
    intro t on a_lt b_lt next granted
    obtain ⟨fromP, fromB, row, col, rfl⟩ := requestMigration_granted granted
    obtain ⟨migs, unit⟩ := startMigration_spec s x.ctx (a.toNat % 4096) (a.toNat / 4096) fromP fromB ((dReg x f.b.toNat).toNat / 16)
      ((dReg x f.b.toNat).toNat % 16) row col
    obtain ⟨⟨_, went⟩, -, zero⟩ := dWrite_goes (f := f) ((unit p).next next) 0
    exact ⟨_, _, exec_dMigrate ok on a_lt b_lt granted, (getMigs_of_migs went.migs _).trans migs,
      rfl, rfl, rfl, rfl, rfl, zero.trans (ite_self 0)⟩
  case thread0 =>
    intro b i it e bed waiting live inRun found entry
    refine ⟨_, exec_thread0Start ok bed waiting live inRun, fun c listed => ?_⟩
    have begins := startThread0_cell (s := setPav s p { x with starts := dropFirst (fun e => decide (e = (b, i))) x.starts }) (p := p) (b := b) (i := i)
      (e := e) (it := it) (c := c)
    simp only [getPav_setPav, getJob_setPav] at begins
    exact begins found entry listed
  case markers =>
    intro j n m jok live found running
    refine ⟨fun k ch u declared fresh input moved => ?move, fun k ch u declared moved fresh idle input forwarded => ?ending, fun ended stays => ?complete⟩
    case move =>
      refine ⟨_, exec_migrationMoveMarker jok live found running k, ?_⟩
      rw [moveMarker_eq declared fresh input moved]
      exact (cellsOnly_of_moveInput moved).setMig _ found
    case ending =>
      refine ⟨_, exec_migrationEndMarker jok live found running (2 * k), ?_⟩
      rw [endMarker_eq declared moved fresh idle input forwarded]
      exact (cellsOnly_of_forwardAll forwarded).setMig _ found
    case complete => exact ⟨_, exec_migrationComplete jok live found running ended, completeMig_releases found stays⟩

/-- Settles O35: what each command does is proved of the step that it takes; the lemmas about that step give the fields the statement reads. -/
theorem itemsAreLaunchedAndBedsMigrate : Obligations.ItemsAreLaunchedAndBedsMigrate :=
  ⟨dispatchItems, migrationMarkers, itemCommandsComplete⟩

end Sys2Proof.Machine
end

section
/-!
PROOF. Synchronisation objects: when one is satisfied, what its evaluation releases, what an operation at its update port changes (O36, O37, O38).
-/
namespace Sys2Proof.Machine

/-! ### The comparison of R274 -/

/-- Settles O37: on 32 bits COUNT − TARGET is the difference modulo 2^32. -/
theorem satisfiedObjects : Obligations.SatisfiedObjects := by
  intro o
  have difference : (o.count - o.target).toNat = (o.count.toNat + 4294967296 - o.target.toNat) % 4294967296 := by
    have := o.target.isLt
    rw [BitVec.toNat_sub]
    congr 1
    omega
  rw [satisfied, decide_eq_true_eq, difference]

/-! ### Evaluation (R276, R280) -/

/-- An object that has released its waiters: none is left and EVT is clear. -/
def settledObj (o : SyncObj) : SyncObj := if satisfied o then { o with waiters := [], evt := false } else o

section
variable (o : SyncObj)

@[simp] theorem settledObj_count : (settledObj o).count = o.count := by rw [settledObj]; split <;> rfl
@[simp] theorem settledObj_target : (settledObj o).target = o.target := by rw [settledObj]; split <;> rfl
@[simp] theorem settledObj_evsrc : (settledObj o).evsrc = o.evsrc := by rw [settledObj]; split <;> rfl
@[simp] theorem settledObj_waiters : (settledObj o).waiters = if satisfied o then [] else o.waiters := by rw [settledObj]; split <;> rfl

end

/-- The state in which the waiters of object i have been told and counted, before its event is raised. -/
def released (s : State) (i : Nat) : State :=
  setObj (modStore { s with waitMsgs := s.waitMsgs ++ (getObj s i).waiters.map (fun w => ⟨w.agent, true⟩) } (dieOfObj i)
    (fun x => { x with waitsSat := wrap32 (x.waitsSat + (getObj s i).waiters.length) })) i { getObj s i with waiters := [], evt := false }

theorem evaluate_of_unsatisfied {s : State} {i : Nat} (unsat : satisfied (getObj s i) = false) : evaluate s i = s := by
  simp [evaluate, unsat]

theorem evaluate_of_satisfied {s : State} {i : Nat} (sat : satisfied (getObj s i) = true) :
    evaluate s i =
      if (getObj s i).evt then raiseEvent (released s i) (16 * dieOfObj i + (getObj s i).evsrc) else released s i := by
  simp only [evaluate, sat, foldl_sendWait, released, Bool.not_true, Bool.false_eq_true, if_false]

section
variable (s : State) (i : Nat)

@[simp] theorem getObj_released : getObj (released s i) i = { getObj s i with waiters := [], evt := false } := getObj_setObj ..

theorem getStore_released :
    getStore (released s i) (dieOfObj i) =
      { getStore s (dieOfObj i) with waitsSat := wrap32 ((getStore s (dieOfObj i)).waitsSat + (getObj s i).waiters.length) } := by
  rw [released, getStore_setObj, modStore_eq, getStore_setStore]
  rfl

/-- Whether or not the event is raised, objects, messages and store dies are those of the release. -/
theorem evaluate_releases (sat : satisfied (getObj s i) = true) :
    ∃ evs clk, evaluate s i = { released s i with evs := evs, lodgeClk := clk } := by
  rw [evaluate_of_satisfied sat]
  split
  · obtain ⟨-, -, evs, raised⟩ := raiseEvent_frame (released s i) (16 * dieOfObj i + (getObj s i).evsrc)
    exact ⟨evs, true, raised⟩
  · exact ⟨_, _, rfl⟩

end

/-- Settles O38: the waiters are released whatever EVT is; only the raising of the event turns on it. -/
theorem satisfiedObjectReleasesWaiters : Obligations.SatisfiedObjectReleasesWaiters := by
  intro s i sat
  obtain ⟨evs, clk, releases⟩ := evaluate_releases s i sat
  have object : getObj (evaluate s i) i = { getObj s i with waiters := [], evt := false } := by
    rw [releases]
    exact getObj_released s i
  refine ⟨by rw [object], by rw [object], by rw [object], by rw [releases]; rfl, ?counted, fun set => ?raised, fun clear => ?silent⟩
  case counted =>
    rw [releases]
    exact congrArg StoreDie.waitsSat (getStore_released s i)
  case raised =>
    obtain ⟨pending, others, -⟩ := raiseEvent_frame (released s i) (16 * dieOfObj i + (getObj s i).evsrc)
    rw [evaluate_of_satisfied sat, if_pos set]
    exact ⟨by rw [pending], others⟩
  case silent =>
    rw [evaluate_of_satisfied sat, clear]
    rfl

/-! ### One object written -/

/-- Object i has been written as `o` and evaluated; the other objects and memory are as they were. -/
structure ObjectWritten (s u : State) (i : Nat) (o : SyncObj) : Prop where
  here : getObj u i = settledObj o
  others : ∀ k, k ≠ i → getObj u k = getObj s k
  mem : u.mem = s.mem

/-- What changes neither objects nor memory may follow. -/
theorem ObjectWritten.of_eq {s t u : State} {i : Nat} {o : SyncObj} (h : ObjectWritten s t i o) (objs : u.objs = t.objs) (mem : u.mem = t.mem) :
    ObjectWritten s u i o := by
  have same : ∀ k, getObj u k = getObj t k := fun k => congrArg (mget SyncObj.reset · k) objs
  exact ⟨(same i).trans h.here, fun k hk => (same k).trans (h.others k hk), mem.trans h.mem⟩

theorem objectWritten_evaluate (s : State) (i : Nat) (o : SyncObj) : ObjectWritten s (evaluate (setObj s i o) i) i o := by
  have others : ∀ k, k ≠ i → getObj (setObj s i o) k = getObj s k := fun k hk => getObj_setObj_ne s i k o hk
  cases sat : satisfied o
  · rw [evaluate_of_unsatisfied (by rw [getObj_setObj]; exact sat)]
    exact ⟨by simp [settledObj, sat], others, rfl⟩
  · have sat' : satisfied (getObj (setObj s i o) i) = true := by rw [getObj_setObj]; exact sat
    obtain ⟨evs, clk, releases⟩ := evaluate_releases (setObj s i o) i sat'
    have written : ObjectWritten s (released (setObj s i o) i) i o := by
      refine ⟨by simp [settledObj, sat], fun k hk => ?_, rfl⟩
      rw [released, getObj_setObj_ne _ _ _ _ hk]
      exact others k hk
    rw [releases]
    exact written.of_eq rfl rfl

/-- Triggers that have become satisfied join queues of store dies (R381). -/
theorem noteTriggers_frame (s : State) (i : Nat) : ∃ m, noteTriggers s i = { s with stores := m } := by
  unfold noteTriggers
  refine List.foldlRecOn (motive := fun t : State => ∃ m, t = { s with stores := m }) _ _ ⟨s.stores, rfl⟩ fun t ht j _ => ?_
  dsimp only
  split
  · exact ht
  · refine List.foldlRecOn (motive := fun t : State => ∃ m, t = { s with stores := m }) _ _ ht fun v hv e _ => ?_
    obtain ⟨m, rfl⟩ := hv
    split
    · exact ⟨_, rfl⟩
    · exact ⟨_, rfl⟩

theorem objectWritten_settle (s : State) (i : Nat) (o : SyncObj) (was : Bool) : ObjectWritten s (settle (setObj s i o) i was) i o := by
  have written := objectWritten_evaluate s i o
  rw [settle]
  split
  · obtain ⟨m, noted⟩ := noteTriggers_frame (evaluate (setObj s i o) i) i
    rw [noted]
    exact written.of_eq rfl rfl
  · exact written

/-- A posted access that has been performed is told to its cell (R287). -/
theorem ObjectWritten.performed {s u : State} {i : Nat} {o : SyncObj} (h : ObjectWritten s u i o) (who : Option (Nat × Nat)) :
    ObjectWritten s (performed u who) i o := by
  cases who
  · exact h
  · exact h.of_eq rfl rfl

/-! ### The update port (R281) -/

theorem exec_syncPortUpdate {s : State} {i : Nat} (ok : objOk i = true) (up : stackUp s (dieOfObj i) = true) (runs : s.failTrigger = 0) :
    exec (.syncPortUpdate i) s = .next (portCycle s i) := by
  change execSyncPortUpdate i s = _
  rw [execSyncPortUpdate, ok, onUnit_true, if_pos ⟨up, runs⟩]

section
variable {s : State} {i : Nat} {rest : List PortOp} (next : (rest.head?.map isUpdate).getD true = true)
include next

/-- Reads and waits are answered up to the next update. -/
theorem answerOps_of_update (t : State) : answerOps i t rest = (t, rest) := by
  cases rest with
  | nil => rfl
  | cons op rest =>
    cases op with
    | read => exact absurd next Bool.false_ne_true
    | wait => exact absurd next Bool.false_ne_true
    | _ => rfl

theorem portCycle_update {op : PortOp} (front : getPort s i = op :: rest) (update : isUpdate op = true) :
    portCycle s i = setPort (applyUpdate s i op) i rest := by
  simp only [portCycle, front, update, if_true, answerOps_of_update next]

theorem portCycle_wait {agent : Nat} {n : Option Nat} (front : getPort s i = .wait agent n :: rest) :
    portCycle s i = setPort (registerWait s i agent n) i rest := by
  simp only [portCycle, front, isUpdate, Bool.false_eq_true, if_false, answerOps, answerOps_of_update next]

theorem portCycle_read {c stamp : Nat} (front : getPort s i = .read c stamp :: rest) :
    portCycle s i = setPort (answerRead s c stamp (objWord0 (getObj s i))) i rest := by
  simp only [portCycle, front, isUpdate, Bool.false_eq_true, if_false, answerOps, answerOps_of_update next]

end

/-- Settles O36: the port is worked off up to the next update, and an update writes its object and evaluates it. -/
theorem portUpdatesObject : Obligations.PortUpdatesObject := by
  intro s i rest o who v ok up runs object next sat after
  subst object
  have port := exec_syncPortUpdate ok up runs
  have updates : ∀ op count target, isUpdate op = true →
      applyUpdate s i op = performed (settle (setObj s i { getObj s i with count := count, target := target }) i (satisfied (getObj s i))) who →
        getPort s i = op :: rest → ∃ u, exec (.syncPortUpdate i) s = .next u ∧ after u count target := by
    intro op count target update writes front
    rw [port, portCycle_update next front update, writes]
    obtain ⟨here, others, mem⟩ := (objectWritten_settle s i { getObj s i with count := count, target := target } (satisfied (getObj s i))).performed who
    generalize performed _ who = u at here others mem
    have settled : getObj (setPort u i rest) i = settledObj { getObj s i with count := count, target := target } := here
    refine ⟨_, rfl, ?_, ?_, ?_, ?_, getPort_setPort .., others, mem⟩ <;> rw [settled]
    · exact settledObj_count _
    · exact settledObj_target _
    · exact settledObj_evsrc _
    · exact settledObj_waiters _
  refine ⟨updates _ _ _ rfl rfl, updates _ _ _ rfl rfl, updates _ _ _ rfl rfl, fun agent n front => ?wait, fun c st front => ?read,
    fun n _ front unsat => ?setevt, fun front => ?clrevt⟩
  case wait => rw [port, portCycle_wait next front]
  case read =>
    rw [port, portCycle_read next front]
    rfl
  case setevt =>
    rw [port, portCycle_update next front rfl]
    obtain ⟨here, -, mem⟩ := objectWritten_evaluate s i { getObj s i with evsrc := n, evt := true }
    have waiting : settledObj { getObj s i with evsrc := n, evt := true } = { getObj s i with evsrc := n, evt := true } :=
      if_neg (Bool.eq_false_iff.mp unsat)
    exact ⟨_, rfl, here.trans waiting, getPort_setPort .., mem⟩
  case clrevt =>
    rw [port, portCycle_update next front rfl]
    exact ⟨_, rfl, getObj_setObj .., getPort_setPort .., rfl⟩

end Sys2Proof.Machine
end

section
/-!
PROOF. The Hearth: the atomic in front of its queue, and the arithmetic of atomics (O41).
-/
namespace Sys2Proof.Machine
open Sys2Proof.Claim

/-! ### What an applied atomic leaves of its store die -/

theorem partsWrite_stores (s : State) (l : List (Nat × Nat)) (b : List Byte) : (partsWrite s l b).stores = s.stores := by
  have wrote : ∀ (t : State) (a : Nat) (c : List Byte), (physWrite t a c).stores = t.stores := by
    intro t a c
    rw [physWrite]
    split <;> rfl
  induction l generalizing s b with
  | nil => rfl
  | cons p rest ih => exact (ih ..).trans (wrote ..)

/-- The Hearth counts an atomic on its die; its queue and all else there stay (R304). -/
theorem getStore_applyAtomic {s : State} {d : Nat} {r : HearthReq} (counted : r.op ≠ .xs) :
    getStore (applyAtomic s d r).1 d = { getStore s d with atomics := wrap32 ((getStore s d).atomics + 1) } := by
  have stores : (applyAtomic s d r).1.stores = (modStore s d (fun x => { x with atomics := wrap32 (x.atomics + 1) })).stores := by
    rw [applyAtomic, partsWrite_stores, countAtom, if_neg counted]
  rw [getStore, stores]
  exact getStore_setStore ..

/-! ### The answer -/

/-- Replacing every element with a key by one of that key, the first found is the replacement. -/
theorem find?_replaced {l : List Flight} {stamp : Nat} {f g : Flight} (found : l.find? (fun f => decide (f.stamp = stamp)) = some f)
    (same : g.stamp = stamp) :
    (l.map (fun h => if h.stamp = stamp then g else h)).find? (fun f => decide (f.stamp = stamp)) = some g := by
  have key : (fun f : Flight => decide (f.stamp = stamp)) ∘ (fun h => if h.stamp = stamp then g else h) = fun f => decide (f.stamp = stamp) := by
    funext h
    by_cases at_stamp : h.stamp = stamp <;> simp [at_stamp, same]
  have stamped : f.stamp = stamp := by simpa using List.find?_some found
  rw [List.find?_map, key, found, Option.map_some, if_pos stamped]

/-- The flight that asked holds the old value, and has arrived. -/
theorem answerAtomic_flight {s : State} {c stamp : Nat} {op : AtomOp} {f : Flight} (old : List Byte) (value : op ≠ .xs)
    (found : (getCell s c).flights.find? (fun f => decide (f.stamp = stamp)) = some f) :
    (getCell (answerAtomic s c stamp op old) c).flights.find? (fun f => decide (f.stamp = stamp)) = some (answeredFlight f old) := by
  have stamped : f.stamp = stamp := by simpa using List.find?_some found
  rw [answerAtomic, modCell_eq, getCell_setCell]
  simp only [found, if_neg value]
  exact find?_replaced (g := answeredFlight f old) found stamped

/-! ### The command HEARTH_ATOMIC_APPLY -/

/-- The requests behind the front one wait at the Hearth d. -/
def advanced (s : State) (d : Nat) (rest : List HearthReq) : State := modStore s d (fun x => { x with hearthQ := rest })

/-- The Hearth d has applied its front request: memory is `m`, the request has left the queue and is counted. -/
structure FrontApplied (s y : State) (d : Nat) (rest : List HearthReq) (m : Mem) : Prop where
  mem : y.mem = m
  host : y.host = s.host
  cells : y.cells = s.cells
  store : getStore y d = { getStore s d with hearthQ := rest, atomics := wrap32 ((getStore s d).atomics + 1) }

section
variable {s : State} {d a c stamp : Nat} {r : HearthReq} {rest : List HearthReq}

/-- An atomic of the package in front of the queue of a Hearth that runs is applied, and its cell answered. -/
theorem exec_hearthAtomicApply_front (ok : storeOk d = true) (up : stackUp s d = true) (runs : s.failTrigger = 0)
    (queue : (getStore s d).hearthQ = r :: rest) (own : r.fabric = none) (cell : r.cell = some (c, stamp)) :
    exec (.hearthAtomicApply d) s =
      .next (answerAtomic (applyAtomic (advanced s d rest) d r).1 c stamp r.op (applyAtomic (advanced s d rest) d r).2) := by
  change onUnit _ _ = _
  simp only [ok, onUnit_true, queue, up, runs, own, cell, Bool.not_true, Bool.false_eq_true, ne_eq, not_true_eq_false, or_self, if_false]
  rfl

/-- An integer or F32 operation on one range of device memory writes the new operand there and answers the old (R292). -/
theorem applyAtomic_front (parts : r.parts = [(a, r.width)]) (device : a < hostBase) (value : r.op ≠ .xs) :
    (applyAtomic (advanced s d rest) d r).2 = memRead s.mem a r.width ∧
      FrontApplied s (applyAtomic (advanced s d rest) d r).1 d rest (memWrite s.mem a
        (leBytes r.width (atomNew r.op (8 * r.width) (leNat (memRead s.mem a r.width)) r.a.toNat r.b.toNat))) := by
  have new : atomBytes r.op r.width r.a r.b (memRead s.mem a r.width) =
      leBytes r.width (atomNew r.op (8 * r.width) (leNat (memRead s.mem a r.width)) r.a.toNat r.b.toNat) := if_neg value
  have len : (atomBytes r.op r.width r.a r.b (memRead s.mem a r.width)).length = r.width := by rw [new, leBytes_length]
  have taken : getStore (advanced s d rest) d = { getStore s d with hearthQ := rest } := getStore_setStore ..
  obtain ⟨answer, -, _, _, _, _, applied⟩ := applyAtomic_device (s := advanced s d rest) (d := d) parts len device
  refine ⟨answer, ⟨?mem, ?host, ?cells, (getStore_applyAtomic value).trans (by rw [taken])⟩⟩
  case mem =>
    rw [applied, ← new]
    rfl
  case host =>
    rw [applied]
    rfl
  case cells =>
    rw [applied]
    rfl

end

theorem hearthAppliesAtomic : HearthAppliesAtomic := by
  intro s d a c stamp r rest ok up runs queue own cell parts width below value old
  have next := exec_hearthAtomicApply_front ok up runs queue own cell
  obtain ⟨answer, mem, host, cells, store⟩ := applyAtomic_front (s := s) (d := d) (rest := rest) parts (by omega) value
  rw [answer] at next
  generalize (applyAtomic (advanced s d rest) d r).1 = y at next mem host cells store
  refine ⟨_, next, congrArg StoreDie.hearthQ store, ?written, fun k outside => ?others, host, congrArg StoreDie.atomics store, fun f found => ?answered⟩
  case written =>
    change memRead y.mem a r.width = _
    have same := memRead_memWrite_same s.mem a (leBytes r.width (atomNew r.op (8 * r.width) old r.a.toNat r.b.toNat))
    rwa [leBytes_length, ← mem] at same
  case others =>
    change memByte y.mem k = _
    rw [mem]
    rcases outside with before | after
    · exact memByte_memWrite_below _ _ before
    · exact memByte_memWrite_above _ _ (by rwa [leBytes_length])
  case answered =>
    have asked : (getCell y c).flights.find? (fun f => decide (f.stamp = stamp)) = some f := by rwa [getCell, cells]
    exact ⟨_, answerAtomic_flight _ value asked, rfl, rfl⟩

/-! ### The arithmetic (R292) -/

/-- The signed value is that of the low bits. -/
theorem signedOf_mod (w v : Nat) : signedOf w (v % 2 ^ w) = signedOf w v := by rw [signedOf, signedOf, Nat.mod_mod]

theorem atomicArithmetic : AtomicArithmetic := by
  intro w old a b _ _
  refine ⟨rfl, rfl, rfl, ?min, ?max⟩
  case min =>
    simp only [atomNew, signedOf_mod]
    split
    · next le => exact (min_eq_left le).symm
    · next gt => rw [signedOf_mod, min_eq_right (Int.le_of_not_le gt)]
  case max =>
    simp only [atomNew, signedOf_mod]
    split
    · next le => exact (max_eq_left le).symm
    · next gt => rw [signedOf_mod, max_eq_right (Int.le_of_not_le gt)]

/-- Settles O41: the front request leaves the queue, is applied to memory, and its old value is put into the flight that asked. -/
theorem hearthAtomics : Obligations.HearthAtomics := ⟨hearthAppliesAtomic, atomicArithmetic⟩

end Sys2Proof.Machine
end

section
/-!
PROOF. What the host reaches: accesses to device memory, the window on objects, the UCIe modules, SYNCOP (O49).
-/
namespace Sys2Proof.Machine
open Sys2Proof.Claim

/-! ### HDM accesses (R401, R402) -/

theorem hdmCovers_of_hdmAt {s : State} {a : Nat} (served : hdmAt s a ≠ .none) : hdmCovers s a = true := by
  unfold hdmAt at served
  dsimp only at served
  split at served
  · exact absurd rfl served
  · next h =>
    simp only [not_or, Bool.not_eq_true, Bool.not_eq_false'] at h
    obtain ⟨-, -, covers⟩ := h
    exact covers

/-- Store and HBM lie below the window on host memory (R152, R182). -/
theorem below_hostBase_of_hdmCovers {s : State} {a : Nat} (covers : hdmCovers s a = true) : a < hostBase := by
  have z : hbmZ s ≤ 0x1000000000 := by
    rw [hbmZ]
    split <;> decide
  simp only [hdmCovers, Bool.or_eq_true, Bool.and_eq_true, decide_eq_true_eq] at covers
  simp only [storeEnd, hbmBase] at covers
  rw [hostBase]
  omega

/-- The time of an HDM access is noted (R490). -/
def hdmNoted (s : State) : State := { s with hdmAt := s.ember }

@[simp] theorem hdmAt_hdmNoted (s : State) (a : Nat) : hdmAt (hdmNoted s) a = hdmAt s a := rfl

section
variable {s : State} {a u : Nat} (awake : s.pwr.pstate ≠ 3)
include awake

/-- A package that is not asleep need not wake for an access. -/
theorem hdmWake_of_hdmAt (served : hdmAt s a ≠ .none) : (if hdmCovers s a then hdmWake s else s) = hdmNoted s := by
  have stays : wake s = s := if_pos (.inl awake)
  rw [if_pos (hdmCovers_of_hdmAt served), hdmWake, stays]
  rfl

theorem exec_hdmRead_mem (served : hdmAt s a = .mem u) : exec (.hdmRead a) s = .next (readLine (hdmNoted s) a) := by
  change execHdmRead a s = _
  simp only [execHdmRead, hdmWake_of_hdmAt awake (a := a) (by simp [served]), hdmAt_hdmNoted, served]

theorem exec_hdmRead_failSafe (served : hdmAt s a = .failSafe u) :
    exec (.hdmRead a) s = .next { hdmNoted s with hdmData := List.replicate 64 0 } := by
  change execHdmRead a s = _
  simp only [execHdmRead, hdmWake_of_hdmAt awake (a := a) (by simp [served]), hdmAt_hdmNoted, served]

section
variable {l : List Byte} (line : l.length = 64)
include line

theorem exec_hdmWrite_mem (served : hdmAt s a = .mem u) :
    exec (.hdmWrite a l) s =
      .next (if hdmWritable s a then clearErrors (physWrite (hdmNoted s) a l) a 64 else rejectHdm (hdmNoted s) u) := by
  change execHdmWrite a l s = _
  simp only [execHdmWrite, line, ne_eq, not_true_eq_false, if_false, hdmWake_of_hdmAt awake (a := a) (by simp [served]), hdmAt_hdmNoted, served]
  rfl

theorem exec_hdmWrite_failSafe (served : hdmAt s a = .failSafe u) : exec (.hdmWrite a l) s = .next (rejectHdm (hdmNoted s) u) := by
  change execHdmWrite a l s = _
  simp only [execHdmWrite, line, ne_eq, not_true_eq_false, if_false, hdmWake_of_hdmAt awake (a := a) (by simp [served]), hdmAt_hdmNoted, served]

end
end

/-- A line without errors, of a frame that is not retired, is read as it stands in memory. -/
theorem readLine_sound {s : State} {a : Nat} (device : a < hostBase) (whole : retiredFrame s a = false) (sound : s.upsets = []) :
    readLine s a = { s with hdmData := memRead s.mem a 64 } := by
  have met : meetErrors s a 64 = s := by rw [meetErrors, sound]; rfl
  have correct : uncorrectableIn s a 64 = false := by rw [uncorrectableIn, sound]; rfl
  have read : physRead s a 64 = memRead s.mem a 64 := if_neg fun h => absurd h.1 (Nat.not_le.mpr device)
  simp only [readLine, whole, met, correct, read, Bool.false_eq_true, if_false]

theorem hdmAccesses : HdmAccesses := by
  intro s a u awake rejected
  have device : ∀ {w}, hdmAt s a = .mem w → a < hostBase := fun served =>
    below_hostBase_of_hdmCovers (s := s) (hdmCovers_of_hdmAt (by simp [served]))
  have counted : getUcie (rejectHdm (hdmNoted s) u) u =
      { getUcie s u with hdmRej := satAdd 0xFFFFFFFF (getUcie s u).hdmRej 1 } := getUcie_setUcie ..
  refine ⟨fun served whole sound => ?read, fun served retired => ?retired, fun l served line writable => ?write, fun l served line fixed => ?fixed,
    fun served => ?safeRead, fun l served line => ?safeWrite⟩
  case read =>
    refine ⟨_, exec_hdmRead_mem awake served, ?_⟩
    rw [readLine_sound (s := hdmNoted s) (device served) whole sound]
    exact ⟨rfl, rfl, rfl, rfl⟩
  case retired =>
    have zeros : readLine (hdmNoted s) a = { hdmNoted s with hdmData := List.replicate 64 0 } := if_pos retired
    refine ⟨_, exec_hdmRead_mem awake served, ?_⟩
    rw [zeros]
    exact ⟨rfl, rfl⟩
  case write =>
    have stored : physWrite (hdmNoted s) a l = { hdmNoted s with mem := memWrite s.mem a l } :=
      if_neg fun h => absurd h.1 (Nat.not_le.mpr (device served))
    refine ⟨_, exec_hdmWrite_mem awake line served, ?_⟩
    rw [if_pos writable, stored]
    refine ⟨?_, fun k outside => ?_, rfl, rfl⟩
    · exact (congrArg (memRead _ a) line.symm).trans (memRead_memWrite_same ..)
    · rcases outside with before | after
      · exact memByte_memWrite_below _ _ before
      · exact memByte_memWrite_above _ _ (by omega)
  case fixed =>
    refine ⟨_, exec_hdmWrite_mem awake line served, ?_⟩
    rw [fixed, if_neg Bool.false_ne_true, counted]
    exact ⟨rfl, rfl, rfl⟩
  case safeRead => exact ⟨_, exec_hdmRead_failSafe awake served, rfl, rfl⟩
  case safeWrite =>
    refine ⟨_, exec_hdmWrite_failSafe awake line served, ?_⟩
    rw [counted]
    exact ⟨rfl, rfl, rfl⟩

/-! ### The window on objects (R279) -/

section
variable {s : State} {off : Nat} (die : off / 0x100000 < 4) (up : windowUp s (off / 0x100000) = true)
include die up

theorem exec_hostSyncRead_misaligned {size : Nat} (bad : size ≠ 8 ∨ off % 8 ≠ 0) :
    exec (.hostSyncRead off size) s = .next (recordErr { s with rdata := 0 } (hearthBase (off / 0x100000)) (off % 0x100000) eArgAlign) := by
  change execHostSyncRead off size s = _
  simp only [execHostSyncRead, Nat.not_le.mpr die, up, bad, if_false, if_true, Bool.not_true, Bool.false_eq_true]

theorem exec_hostSyncRead_word0 (aligned : off % 16 = 0) :
    exec (.hostSyncRead off 8) s =
      .next (let w := drainPort (getPort s (off / 16)).length s (off / 16); { w with rdata := objWord0 (getObj w (off / 16)) }) := by
  have fits : ¬ ((8 : Nat) ≠ 8 ∨ off % 8 ≠ 0) := by omega
  change execHostSyncRead off 8 s = _
  simp only [execHostSyncRead, Nat.not_le.mpr die, up, fits, readObject, aligned, if_false, if_true, Bool.not_true, Bool.false_eq_true]

theorem exec_syncWindowWrite (size : Nat) (v : Word) :
    exec (.syncWindowWrite off size v) s = .next (recordErr s (hearthBase (off / 0x100000)) (off % 0x100000) eArgReserved) := by
  change execSyncWindowWrite off size v s = _
  simp only [execSyncWindowWrite, Nat.not_le.mpr die, up, if_false, Bool.not_true, Bool.false_eq_true]

end

/-! ### UCIe modules (R397, R460) -/

/-- What one CRC error without retraining leaves of its module. -/
def crcCounted (s : State) (x : Ucie) (lane : Nat) : Ucie :=
  { x with crcErr := satAdd 0xFFFFFFFF x.crcErr 1, replay := wrap32 (x.replay + 1 + (Config.freeWord s.free 9500).toNat)
           crcTimes := (lane, s.ember) :: x.crcTimes.filter (fun e => decide (s.ember < e.2 + 25000))
           retrainTimes := x.retrainTimes.filter (fun t => decide (s.ember < t + 25000000)) }

/-- Below the limits of R437 a CRC error is counted, and neither lane nor module fails. -/
theorem crcError_counts {s : State} {u lane : Nat} (few : (getUcie s u).crcTimes.length < 1023) (calm : (getUcie s u).retrainTimes.length < 8) :
    crcError s u lane false = setUcie (draw s) u (crcCounted s (getUcie s u) lane) := by
  have module : getUcie (setUcie (draw s) u (crcCounted s (getUcie s u) lane)) u = crcCounted s (getUcie s u) lane := getUcie_setUcie ..
  have errors : ¬ 1024 ≤ ((crcCounted s (getUcie s u) lane).crcTimes.filter (fun e => decide (e.1 = lane))).length := by
    have all := List.length_filter_le (fun e => decide (e.1 = lane)) (crcCounted s (getUcie s u) lane).crcTimes
    have kept := List.length_filter_le (fun e : Nat × Nat => decide (s.ember < e.2 + 25000)) (getUcie s u).crcTimes
    simp only [crcCounted, List.length_cons] at all ⊢
    omega
  have retrains : ¬ 8 ≤ (crcCounted s (getUcie s u) lane).retrainTimes.length := by
    have kept := List.length_filter_le (fun t => decide (s.ember < t + 25000000)) (getUcie s u).retrainTimes
    simp only [crcCounted]
    omega
  have judged : crcError s u lane false =
      (let t := setUcie (draw s) u (crcCounted s (getUcie s u) lane)
       let t := if 1024 ≤ ((getUcie t u).crcTimes.filter (fun e => decide (e.1 = lane))).length then failLane t u lane else t
       if (getUcie t u).state = 1 ∧ 8 ≤ (getUcie t u).retrainTimes.length then retireUcie t u else t) := rfl
  simp only [judged, module, if_neg errors, retrains, and_false, if_false]

theorem countBelv_ucies (s : State) (n p : Nat) : (countBelv s n p).ucies = s.ucies := by
  unfold countBelv
  dsimp only
  split
  · rfl
  · split <;> rfl

theorem countHeld_ucies (s : State) (d : Nat) : (countHeld s d).ucies = s.ucies := by
  unfold countHeld
  dsimp only
  split <;> rfl

theorem expireObj_ucies (s : State) (i : Nat) : (expireObj s i).ucies = s.ucies := by
  rcases expireObj_cases s i with ⟨eq, -⟩ | ⟨eq, -⟩ <;> rw [eq]
  rfl

theorem foldl_ucies {α : Type} {f : State → α → State} (step : ∀ s a, (f s a).ucies = s.ucies) (l : List α) (s : State) :
    (l.foldl f s).ucies = s.ucies :=
  List.foldlRecOn (motive := fun t => t.ucies = s.ucies) l _ rfl fun t h a _ => (step t a).trans h

/-- Ticks leave the modules. -/
theorem passTicks_ucies (s : State) (n : Nat) : (passTicks s n).ucies = s.ucies := by
  rw [passTicks, expireWaits, foldl_ucies expireObj_ucies, foldl_ucies countHeld_ucies]
  dsimp only
  split
  · exact foldl_ucies (countBelv_ucies · n) ..
  · rfl

theorem passTicks_ember (s : State) (n : Nat) : (passTicks s n).ember = s.ember + n := by
  obtain ⟨v, eq, counted⟩ := passTicks_spec s n
  rw [eq, expireWaits_ember, counted.ember]

theorem trainUcie_state (s : State) (u k : Nat) :
    (getUcie (trainUcie s u) k).state = if k = u ∧ (getUcie s k).state = 0 then 1 else (getUcie s k).state := by
  rw [trainUcie]
  split
  · next down =>
    change (getUcie (setUcie s u { getUcie s u with state := 1 }) k).state = _
    by_cases h : k = u
    · subst h
      rw [getUcie_setUcie, if_pos ⟨rfl, down⟩]
    · rw [getUcie_setUcie_ne _ _ _ _ h, if_neg (not_and_of_not_left _ h)]
  · next other =>
    have stays : ¬ (k = u ∧ (getUcie s k).state = 0) := fun ⟨here, down⟩ => other (here ▸ down)
    rw [if_neg stays]

/-- Of the modules that train in turn, each that is untrained comes up. -/
theorem trainUcies_state (l : List Nat) (s : State) (k : Nat) :
    (getUcie (l.foldl trainUcie s) k).state = if k ∈ l ∧ (getUcie s k).state = 0 then 1 else (getUcie s k).state := by
  induction l generalizing s with
  | nil => simp
  | cons u rest ih =>
    rw [List.foldl_cons, ih, trainUcie_state]
    by_cases down : (getUcie s k).state = 0
    · by_cases here : k = u
      · subst here
        simp [down]
      · simp [here, down]
    · simp [down]

theorem exec_ucieTrainingRetry {s : State} (trained : List Nat) (waits : s.sec.bootState = 1) (down : ∀ u, u < 4 → (getUcie s u).state ≠ 1) :
    exec (.ucieTrainingRetry trained) s = .next (trainModules (passTicks s 25000) trained) := by
  have none : (List.range 4).all (fun u => decide ((getUcie s u).state ≠ 1)) = true :=
    List.all_eq_true.mpr fun u hu => decide_eq_true (down u (List.mem_range.mp hu))
  change execUcieTrainingRetry trained s = _
  rw [execUcieTrainingRetry, if_pos ⟨waits, none⟩]

theorem hostWindowAndModules : HostWindowAndModules := by
  intro s
  refine ⟨fun off die up => ⟨fun aligned => ⟨?read, fun idle => ?idle⟩, fun size bad => ?misaligned, fun size v => ?write⟩,
    fun u lane ok inRange isUp few calm => ?crc, fun trained waits down => ?train⟩
  case read => exact ⟨_, exec_hostSyncRead_word0 die up aligned, rfl, rfl, rfl⟩
  case idle => rw [idle]; rfl
  case misaligned => exact exec_hostSyncRead_misaligned die up bad
  case write => exact exec_syncWindowWrite die up size v
  case crc =>
    have next : exec (.ucieCrcError u lane false) s = .next (setUcie (draw s) u (crcCounted s (getUcie s u) lane)) := by
      change execUcieCrcError u lane false s = _
      rw [execUcieCrcError, ok, onUnit_true, if_pos ⟨isUp, inRange⟩, crcError_counts few calm]
    refine ⟨_, next, ?_⟩
    rw [getUcie_setUcie]
    exact ⟨rfl, isUp, rfl, fun k hk => getUcie_setUcie_ne _ _ k _ hk⟩
  case train =>
    refine ⟨_, exec_ucieTrainingRetry trained waits down, (trainModules_ember ..).trans (passTicks_ember ..), fun u hu => ?_⟩
    have same : getUcie (passTicks s 25000) u = getUcie s u := congrArg (mget Ucie.reset · u) (passTicks_ucies s 25000)
    have listed : u ∈ (List.range 4).filter (fun u => trained.contains u) ↔ u ∈ trained := by simp [hu]
    rw [trainModules, trainUcies_state, same]
    exact if_congr (and_congr listed Iff.rfl) rfl rfl

/-! ### SYNCOP (R302, R303) -/

/-- The Hearth notes the index and the code of the last SYNCOP (R303). -/
def syncopNoted (s : State) (d : Nat) (v : Word) : State :=
  modStore s d (fun x => { x with syncIndex := bits v.toNat 47 32, syncCode := syncopCode s d v })

theorem writeSyncop_taken {s : State} {d : Nat} {v : Word} (takes : TakesWrites s (hearthBase d)) (reached : hostReaches s d = true) :
    writeSyncop s d v =
      if syncopCode s d v ≠ 0 then recordErr (syncopNoted s d v) (hearthBase d) 0 (syncopCode s d v)
      else enqueue (syncopNoted s d v) (syncopObj d v) (syncopPort v) := by
  obtain ⟨power, boot, served⟩ := takes
  rw [writeSyncop, reached, regWrite_taken power boot served]
  rfl

/-- The operation of a SYNCOP that is accepted is the last at the port of its object. -/
theorem writeSyncop_accepted {s : State} {d : Nat} {v : Word} (takes : TakesWrites s (hearthBase d)) (reached : hostReaches s d = true)
    (accepted : syncopCode s d v = 0) : 
    writeSyncop s d v = setPort (syncopNoted s d v) (syncopObj d v) (getPort s (syncopObj d v) ++ [syncopPort v]) := by
  rw [writeSyncop_taken takes reached, if_neg (not_not_intro accepted)]
  rfl

theorem writeSyncop_refused {s : State} {d : Nat} {v : Word} (takes : TakesWrites s (hearthBase d)) (reached : hostReaches s d = true)
    (refused : syncopCode s d v ≠ 0) : writeSyncop s d v = recordErr (syncopNoted s d v) (hearthBase d) 0 (syncopCode s d v) := by
  rw [writeSyncop_taken takes reached, if_pos refused]

theorem getStore_syncopNoted (s : State) (d : Nat) (v : Word) :
    getStore (syncopNoted s d v) d = { getStore s d with syncIndex := bits v.toNat 47 32, syncCode := syncopCode s d v } := getStore_setStore ..

theorem syncopsReachThePort : SyncopsReachThePort := by
  intro s d v hw ok takes reached o value does
  have takes' : TakesWrites (hostStores s hw) (hearthBase d) := takes
  have reached' : hostReaches (hostStores s hw) d = true := reached
  have noted := getStore_syncopNoted (hostStores s hw) d v
  have each : ∀ (i : Instr) (op : Nat) (p : PortOp), exec i s = onSyncop op d v hw s → (bits v.toNat 63 60 = op → syncopPort v = p) → does i op p := by
    intro i op p next port named
    rw [onSyncop, ok, onUnit_true, if_pos named] at next
    refine ⟨fun accepted => ⟨_, next, ?_⟩, fun refused => ⟨_, next, ?_⟩⟩
    · rw [writeSyncop_accepted takes' reached' accepted, port named]
      refine ⟨getPort_setPort .., fun k hk => getPort_setPort_ne _ _ k _ hk, ?_, ?_, rfl, rfl, rfl⟩
      · exact (congrArg StoreDie.syncCode noted).trans accepted
      · exact congrArg StoreDie.syncIndex noted
    · rw [writeSyncop_refused takes' reached' refused]
      exact ⟨rfl, rfl, congrArg StoreDie.syncCode noted, congrArg StoreDie.syncIndex noted, rfl⟩
  exact ⟨each _ _ _ rfl fun named => by simp [syncopPort, named, value], each _ _ _ rfl fun named => by simp [syncopPort, named, value],
    each _ _ _ rfl fun named => by simp [syncopPort, named], each _ _ _ rfl fun named => by simp [syncopPort, named, value],
    each _ _ _ rfl fun named => by simp [syncopPort, named]⟩

/-- Settles O49: each access is one way through its command; training goes module by module, after ticks that leave the modules. -/
theorem hostReachesMemoryAndObjects : Obligations.HostReachesMemoryAndObjects := ⟨hdmAccesses, hostWindowAndModules, syncopsReachThePort⟩

end Sys2Proof.Machine
end

section
/-!
PROOF. Update programs: the registers of an update engine, what a word computes, what LDF and STF write (O42).
-/
namespace Sys2Proof.Machine
open Sys2Proof.Claim

/-! ### Registers and the next word (R320) -/

theorem mget_setFrom_apart {α : Type} [DecidableEq α] (d : α) (f : Nat → α) (b n : Nat) (m : Map α) {k : Nat} (h : k < b ∨ b + n ≤ k) :
    mget d ((List.range n).foldl (fun m i => mset d (b + i) (f i) m) m) k = mget d m k := by
  refine List.foldlRecOn (motive := fun t => mget d t k = mget d m k) _ _ rfl fun t eq i hi => ?_
  have := List.mem_range.mp hi
  rw [mget_mset_ne _ _ (by omega), eq]

/-- Entries b to b + n − 1 of a map, written in turn, each read as they were written. -/
theorem mget_setFrom {α : Type} [DecidableEq α] (d : α) (f : Nat → α) (b : Nat) (m : Map α) {n i : Nat} (h : i < n) :
    mget d ((List.range n).foldl (fun m i => mset d (b + i) (f i) m) m) (b + i) = f i := by
  induction n with
  | zero => exact absurd h (Nat.not_lt_zero i)
  | succ n ih =>
    rw [List.range_succ, List.foldl_append, List.foldl_cons, List.foldl_nil]
    by_cases last : i = n
    · rw [last, mget_mset_same]
    · rw [mget_mset_ne _ _ (by omega), ih (by omega)]

theorem uReg_setUReg (r : UpdRun) (n : Nat) (f : Nat → F32) {i : Nat} (h : i < 1024) : uReg (setUReg r n f) n i = f i := by
  rw [uReg, setUReg, mget_setFrom 0 f (1024 * n) r.u h]

theorem uReg_setUReg_ne (r : UpdRun) (f : Nat → F32) {m n i : Nat} (ne : m ≠ n) (h : i < 1024) : uReg (setUReg r n f) m i = uReg r m i := by
  rw [uReg, setUReg, mget_setFrom_apart 0 f (1024 * n) 1024 r.u (by omega), uReg]

section
variable (r : UpdRun) (n : Nat) (f : Nat → F32)

@[simp] theorem setUReg_job : (setUReg r n f).job = r.job := by rw [setUReg]
@[simp] theorem setUReg_shards : (setUReg r n f).shards = r.shards := by rw [setUReg]
@[simp] theorem setUReg_block : (setUReg r n f).block = r.block := by rw [setUReg]
@[simp] theorem setUReg_pc : (setUReg r n f).pc = r.pc := by rw [setUReg]

theorem shardOf_setUReg (s : State) : shardOf s (setUReg r n f) = shardOf s r := by rw [shardOf, setUReg_shards, setUReg_job, shardOf]

end

/-- The run at the next word of its program. -/
def UpdRun.stepped (r : UpdRun) : UpdRun := { r with pc := r.pc + 1 }

@[simp] theorem UpdRun.stepped_pc (r : UpdRun) : r.stepped.pc = r.pc + 1 := rfl
@[simp] theorem UpdRun.stepped_block (r : UpdRun) : r.stepped.block = r.block := rfl
@[simp] theorem UpdRun.stepped_shards (r : UpdRun) : r.stepped.shards = r.shards := rfl
@[simp] theorem uReg_stepped (r : UpdRun) (n i : Nat) : uReg r.stepped n i = uReg r n i := rfl

section
variable {s : State} {d k : Nat} {w : BitVec 32} {r : UpdRun} {sh : ShardDecl} {p : UpdDecl}

theorem advanceUpd_inProgram (shard : shardOf s r = some (k, sh)) (prog : progOf (getJob s r.job) sh = some p) (more : r.pc + 1 < p.words.length) :
    advanceUpd s d r = modStore s d (fun x => { x with updRun := some r.stepped }) := by
  rw [advanceUpd, shard]
  simp only [prog, if_pos more]
  rfl

theorem advanceUpd_setUReg (n : Nat) (g : Nat → F32) (shard : shardOf s r = some (k, sh)) (prog : progOf (getJob s r.job) sh = some p)
    (more : r.pc + 1 < p.words.length) :
    advanceUpd s d (setUReg r n g) = modStore s d (fun x => { x with updRun := some (setUReg r n g).stepped }) := by
  rw [advanceUpd_inProgram (k := k) (sh := sh) (p := p)]
  · rw [shardOf_setUReg, shard]
  · rw [setUReg_job, prog]
  · rwa [setUReg_pc]

/-- The word that the engine stands at has its effect, and the engine goes on. -/
theorem updInstr_at (here : UpdAt s d w r k sh p) {f : State → UpdRun → Nat → ShardDecl → UpdDecl → State × Option UpdRun} {t : State} {q : UpdRun}
    (does : f s r k sh p = (t, some q)) : updInstr s d w f = .next (advanceUpd t d q) := by
  obtain ⟨ok, runs, shard, prog, word⟩ := here
  rw [updInstr, ok, onUnit_true, runs]
  simp only [shard, prog, word, ne_eq, not_true_eq_false, if_false, does]

/-! ### Instructions that compute uD (R321, R322) -/

/-- The outcome in which the engine of store die d has the values g in register n, all else of run r, and stands at the next word. -/
def ComputesReg (s : State) (d : Nat) (r : UpdRun) (n : Nat) (g : Nat → F32) (o : Out) : Prop :=
  ∃ u q, o = .next u ∧ (getStore u d).updRun = some q ∧ q.pc = r.pc + 1 ∧ q.block = r.block ∧ q.shards = r.shards ∧
    (∀ i, i < 1024 → uReg q n i = g i) ∧ (∀ m i, m ≠ n → i < 1024 → uReg q m i = uReg r m i) ∧
    (∀ e, e ≠ d → getStore u e = getStore s e) ∧ ∃ m, u = { s with stores := m }

theorem updInstr_computesReg (here : UpdAt s d w r k sh p) (more : r.pc + 1 < p.words.length)
    {f : State → UpdRun → Nat → ShardDecl → UpdDecl → State × Option UpdRun} {n : Nat} {g : Nat → F32}
    (does : f s r k sh p = (s, some (setUReg r n g))) : ComputesReg s d r n g (updInstr s d w f) := by
  have next : updInstr s d w f = .next (modStore s d (fun x => { x with updRun := some (setUReg r n g).stepped })) := by
    have ⟨_, _, shard, prog, _⟩ := here
    rw [updInstr_at here does, advanceUpd_setUReg n g shard prog more]
  refine ⟨_, (setUReg r n g).stepped, next, ?_, by simp, by simp, by simp, fun i hi => ?_, fun m i ne hi => ?_, fun e he => ?_, _, rfl⟩
  · rw [getStore_modStore_if, if_pos rfl]
  · rw [uReg_stepped, uReg_setUReg r n g hi]
  · rw [uReg_stepped, uReg_setUReg_ne r g ne hi]
  · rw [getStore_modStore_if, if_neg he]

end

theorem updateArithmetic : UpdateArithmetic := by
  intro s d f r k sh p more A B C one gives
  have runs : ∀ {i : Instr} {op : Nat} {g : Nat → F32} (body : State → UpdRun → Nat → ShardDecl → UpdDecl → State × Option UpdRun),
      exec i s = updInstr s d (encU op f) body → body s r k sh p = (s, some (setUReg r f.d.toNat g)) → gives i op g :=
    fun _ eq does here => eq ▸ updInstr_computesReg here more does
  have fills : ∀ {i : Instr} {op : Nat} (v : UpdRun → ShardDecl → UpdDecl → F32),
      exec i s = updInstr s d (encU op f) (fun s r _ sh p => (s, some (setUReg r f.d.toNat (fun _ => v r sh p)))) → gives i op (fun _ => v r sh p) :=
    fun _ eq => runs _ eq rfl
  have maps : ∀ {i : Instr} {op : Nat} (g : UpdRun → Nat → F32), exec i s = updMap s d op f g → gives i op (g r) := fun _ eq => runs _ eq rfl
  have unary : ∀ {i : Instr} {op : Nat} (g : F32 → F32), exec i s = upd1 s d op f g → gives i op (fun n => g (A n)) := fun _ eq => maps _ eq
  have binary : ∀ {i : Instr} {op : Nat} (g : F32 → F32 → F32), exec i s = upd2 s d op f g → gives i op (fun n => g (A n) (B n)) :=
    fun _ eq => maps _ eq
  refine ⟨binary addF32 rfl, binary subF32 rfl, binary mulF32 rfl, ?fma, binary divF32 rfl, unary (fun a => toF32 (fvSqrt (f32 a))) rfl,
    binary minF32 rfl, binary maxF32 rfl, unary (fun a => toF32 (f32 a).abs) rfl, unary (fun a => toF32 (f32 a).neg) rfl,
    binary (fun a b => f32Bool (fvLt (f32 a) (f32 b))) rfl, binary (fun a b => f32Bool (fvEq (f32 a) (f32 b))) rfl, ?sel,
    unary (fun a => f32Bool (!(f32 a).isNan && !(f32 a).isInf)) rfl, ?ldc, ?ldk, ?bsum, ?bmax⟩
  case fma => exact maps (fun r n => fmaF32 (uReg r f.a.toNat n) (uReg r f.b.toNat n) (uReg r f.c.toNat n)) rfl
  case sel => exact maps (fun r n => if fvLt (f32 0) (f32 (uReg r f.c.toNat n)) then uReg r f.a.toNat n else uReg r f.b.toNat n) rfl
  case ldc => exact maps (fun r _ => stepScalar s r (f.x.toNat % 16)) rfl
  case ldk => exact fills (fun _ _ p => p.consts.getD (f.x.toNat % 16) 0) rfl
  case bsum => exact fills (fun r sh _ => toF32 (fvSum (blockVal r sh f.a.toNat))) rfl
  case bmax =>
    intro here
    change ComputesReg s d r f.d.toNat _ (execUBmax d f s)
    rw [execUBmax]
    refine updInstr_computesReg here more ?_
    cases blockVal r sh f.a.toNat <;> rfl

/-! ### LDF and STF (R319, R323, R326) -/

section
variable {s : State} {d k : Nat} {f : UFields} {r : UpdRun} {sh : ShardDecl} {p : UpdDecl} {b : List Byte × List Byte}

/-- What LDF leaves in uD: the values of the block, 0 in the padding (R323). -/
def blockLoaded (r : UpdRun) (f : UFields) (sh : ShardDecl) (fmt : Nat) (b : List Byte × List Byte) : UpdRun :=
  setUReg r f.d.toNat (fun n => if isLogical sh r.block n then (fieldValues fmt b.1 b.2).getD n 0 else 0)

theorem exec_uLdf (here : UpdAt s d (encU 0x01 f) r k sh p)
    (bytes : fieldBytes s d r k sh (f.x.toNat % 8) (slotField p (f.x.toNat % 8)).1 (slotField p (f.x.toNat % 8)).2.1 = .inl b)
    (noReset : (slotField p (f.x.toNat % 8)).1 ≠ 1 ∨ bitAt f.x.toNat 3 = false) :
    exec (.uLdf d f) s = .next (advanceUpd s d (blockLoaded r f sh (slotField p (f.x.toNat % 8)).2.1 b)) := by
  have reads : ¬ ((slotField p (f.x.toNat % 8)).1 = 1 ∧ bitAt f.x.toNat 3 = true) := by
    rintro ⟨acc, reset⟩
    rcases noReset with other | keeps
    · exact other acc
    · exact absurd reset (by simp [keeps])
  change execULdf d f s = _
  rw [execULdf]
  refine updInstr_at here ?_
  simp only [bytes, if_neg reads]
  rfl

/-- The bytes that STF encodes: those of elements, and of scales (R322). -/
def blockStored (s : State) (r : UpdRun) (f : UFields) (sh : ShardDecl) (p : UpdDecl) (b : List Byte × List Byte) : List Byte × List Byte :=
  storeBlock s r sh (slotField p (f.x.toNat % 8)).2.1 f.a.toNat (f.x.toNat / 16) (slotField p (f.x.toNat % 8)).2.2 b

/-- The address of the block that STF stores. -/
def blockVa (s : State) (r : UpdRun) (f : UFields) (sh : ShardDecl) (p : UpdDecl) : Nat :=
  fieldBase (getJob s r.job) sh (stepOfRun s r).toNat (f.x.toNat % 8) (slotField p (f.x.toNat % 8)).1 +
    partOffset (slotField p (f.x.toNat % 8)).2.1 r.block

/-- STF into the hot state, or into a working copy whose format has no scales, writes the pages that the item has staged for it. -/
theorem exec_uStf {hot : Bool} (here : UpdAt s d (encU 0x02 f) r k sh p)
    (bytes : fieldBytes s d r k sh (f.x.toNat % 8) (slotField p (f.x.toNat % 8)).1 (slotField p (f.x.toNat % 8)).2.1 = .inl b)
    (staged : hot = true ∧ (slotField p (f.x.toNat % 8)).1 = 2 ∨
      hot = false ∧ (slotField p (f.x.toNat % 8)).1 = 0 ∧ isSb (slotField p (f.x.toNat % 8)).2.1 = false) :
    exec (.uStf d f) s =
      .next (advanceUpd (pageWrite s (newPages s r k hot) (blockVa s r f sh p) (blockStored s r f sh p b).1) d r) := by
  change execUStf d f s = _
  rw [execUStf]
  refine updInstr_at here ?_
  rcases staged with ⟨rfl, kind⟩ | ⟨rfl, kind, plain⟩
  · simp only [kind] at bytes
    simp only [blockVa, blockStored, kind, bytes]
    rfl
  · simp only [kind] at bytes
    simp only [blockVa, blockStored, kind, bytes, plain]
    rfl

end

theorem updateLoadsAndStores : UpdateLoadsAndStores := by
  intro s d f r k sh p b sl vals bytes
  refine ⟨fun here noReset => exec_uLdf here bytes noReset, fun here hot => ?_, fun here work plain => ?_⟩
  · have stored := exec_uStf here bytes (.inl ⟨rfl, hot⟩)
    rwa [blockVa, show (slotField p (f.x.toNat % 8)).1 = 2 from hot] at stored
  · have stored := exec_uStf here bytes (.inr ⟨rfl, work, plain⟩)
    rwa [blockVa, show (slotField p (f.x.toNat % 8)).1 = 0 from work] at stored

/-- Settles O42: each instruction is one effect at the engine's word, on its registers or on the staged pages. -/
theorem updateProgramsRun : Obligations.UpdateProgramsRun := ⟨updateArithmetic, updateLoadsAndStores⟩

end Sys2Proof.Machine
end

section
/-!
PROOF. What pages that are taken, written, published and given back leave of a package; items that are done and engines that are idle (O43).
-/
namespace Sys2Proof.Machine

/-! ### Pages taken, written and given back -/

/-- Only device memory, translations, jobs, and of the store dies the frame tables and the counts of invalidations differ (R162, R173). -/
structure PagesFrame (s u : State) : Prop where
  only : ∃ mem cells stores jobs, u = { s with mem := mem, cells := cells, stores := stores, jobs := jobs }
  stores : ∀ d, ∃ frames inval, getStore u d = { getStore s d with frames := frames, inval := inval }

theorem PagesFrame.refl (s : State) : PagesFrame s s := ⟨⟨_, _, _, _, rfl⟩, fun _ => ⟨_, _, rfl⟩⟩

theorem PagesFrame.trans {s t u : State} (h : PagesFrame s t) (h' : PagesFrame t u) : PagesFrame s u where
  only := by
    obtain ⟨_, _, _, _, eq⟩ := h.only
    obtain ⟨_, _, _, _, eq'⟩ := h'.only
    exact ⟨_, _, _, _, by rw [eq', eq]⟩
  stores d := by
    obtain ⟨_, _, eq⟩ := h.stores d
    obtain ⟨_, _, eq'⟩ := h'.stores d
    exact ⟨_, _, by rw [eq', eq]⟩

theorem PagesFrame.foldl {α : Type} {f : State → α → State} (step : ∀ s a, PagesFrame s (f s a)) (l : List α) (s : State) :
    PagesFrame s (l.foldl f s) :=
  List.foldlRecOn l f (.refl s) fun _ h a _ => h.trans (step _ a)

theorem pagesFrame_mem (s : State) (m : Mem) : PagesFrame s { s with mem := m } := ⟨⟨_, _, _, _, rfl⟩, fun _ => ⟨_, _, rfl⟩⟩

theorem pagesFrame_modJob (s : State) (j : Nat) (f : Job → Job) : PagesFrame s (modJob s j f) := ⟨⟨_, _, _, _, rfl⟩, fun _ => ⟨_, _, rfl⟩⟩

theorem pagesFrame_modStore (s : State) (d : Nat) {f : StoreDie → StoreDie} (keeps : ∀ x, ∃ frames inval, f x = { x with frames := frames, inval := inval }) :
    PagesFrame s (modStore s d f) where
  only := ⟨_, _, _, _, rfl⟩
  stores k := by
    rw [getStore_modStore_if]
    split
    · exact keeps _
    · exact ⟨_, _, rfl⟩

theorem pagesFrame_putFrame (s : State) (f : Nat) (x : Frame) : PagesFrame s (putFrame s f x) := pagesFrame_modStore s _ fun _ => ⟨_, _, rfl⟩

theorem pagesFrame_releaseFrame (s : State) (f : Nat) : PagesFrame s (releaseFrame s f) := by
  unfold releaseFrame
  dsimp only
  split
  · exact pagesFrame_mem ..
  · split
    · exact .refl s
    · split
      · exact (pagesFrame_putFrame s f _).trans (pagesFrame_modJob ..)
      · exact pagesFrame_putFrame s f _

theorem pagesFrame_releaseFrames (s : State) (l : List Nat) : PagesFrame s (releaseFrames s l) := .foldl pagesFrame_releaseFrame l s

theorem pagesFrame_invalidate (s : State) (j d : Nat) (vpns : List Nat) : PagesFrame s (invalidate s j d vpns) := by
  have counted : PagesFrame s (modStore s d (fun x => { x with inval := wrap32 (x.inval + vpns.length) })) := pagesFrame_modStore s d fun _ => ⟨_, _, rfl⟩
  exact counted.trans ⟨⟨_, _, _, _, rfl⟩, fun _ => ⟨_, _, rfl⟩⟩

theorem pagesFrame_sweepCaches (s : State) (j : Nat) : PagesFrame s (sweepCaches s j) := by
  rw [sweepCaches]
  refine PagesFrame.trans ?_ (pagesFrame_modJob ..)
  exact (PagesFrame.foldl (fun _ _ => pagesFrame_invalidate ..) _ s).trans (pagesFrame_releaseFrames ..)

theorem pagesFrame_sweepVersions (s : State) (j : Nat) : PagesFrame s (sweepVersions s j) := by
  rw [sweepVersions]
  refine (pagesFrame_sweepCaches s j).trans (PagesFrame.trans ?_ (pagesFrame_modJob ..))
  exact (PagesFrame.foldl (fun _ _ => pagesFrame_invalidate ..) _ _).trans (pagesFrame_releaseFrames ..)

theorem pagesFrame_takeFrame (s : State) (j f : Nat) (st : FState) : PagesFrame s (takeFrame s j f st) := by
  rw [takeFrame]
  split
  · exact (pagesFrame_putFrame ..).trans (pagesFrame_modJob ..)
  · exact pagesFrame_putFrame ..

theorem pagesFrame_allocPages {j d : Nat} {st : FState} {s u : State} {l : List Nat} {m n : Map Leaf} (h : allocPages j d st s l m = some (u, n)) :
    PagesFrame s u := by
  induction l generalizing s m with
  | nil =>
    rw [allocPages] at h
    cases h
    exact .refl _
  | cons v rest ih =>
    rw [allocPages] at h
    split at h
    · cases h
    · exact (pagesFrame_takeFrame ..).trans (ih h)

/-- Bytes written through pages change device memory only. -/
theorem pageWrite_frame (s : State) (m : Map Leaf) (va : Nat) (l : List Byte) : ∃ mem, pageWrite s m va l = { s with mem := mem } := by
  refine List.foldlRecOn (motive := fun t : State × Nat => ∃ mem, t.1 = { s with mem := mem }) l _ ⟨_, rfl⟩ fun t h b _ => ?_
  obtain ⟨_, eq⟩ := h
  dsimp only
  split
  · exact ⟨_, by rw [eq]⟩
  · exact ⟨_, eq⟩

theorem pagesFrame_pageWrite (s : State) (m : Map Leaf) (va : Nat) (l : List Byte) : PagesFrame s (pageWrite s m va l) := by
  obtain ⟨mem, eq⟩ := pageWrite_frame s m va l
  rw [eq]
  exact pagesFrame_mem ..

theorem pagesFrame_putVer (s : State) (sh : ShardDecl) (m : Map Leaf) (l : List Byte) : PagesFrame s (putVer s sh m l) := by
  have elements : PagesFrame s _ := PagesFrame.foldl (f := fun s b => pageWrite s m (sh.workVa + partOffset (workFmt sh) b)
    ((l.drop (b * partSize (workFmt sh))).take (partSize (workFmt sh)))) (fun _ _ => pagesFrame_pageWrite ..) (List.range (blockCount sh.count)) s
  rw [putVer]
  split
  · exact elements.trans (.foldl (fun _ _ => pagesFrame_pageWrite ..) ..)
  · exact elements

theorem pagesFrame_publishCopy {s u : State} {d j i v : Nat} {sh : ShardDecl} {digest : Word} {l : List Byte}
    (h : publishCopy s d j i v sh digest l = some u) : PagesFrame s u := by
  rw [publishCopy] at h
  split at h
  · cases h
  · next taken =>
    cases h
    exact (pagesFrame_allocPages taken).trans ((pagesFrame_putVer ..).trans (pagesFrame_modJob ..))

/-- Bytes that lie in one mapped page go to its frame. -/
theorem pageWrite_inPage {m : Map Leaf} {va a : Nat} (l : List Byte) (s : State) (mapped : (mfind m (va / 65536)).map (·.target) = some (.phys a))
    (fits : va % 65536 + l.length ≤ 65536) : pageWrite s m va l = { s with mem := memWrite s.mem (a + va % 65536) l } := by
  induction l generalizing s va with
  | nil => rfl
  | cons b rest ih =>
    have first : pageWrite s m va (b :: rest) = pageWrite { s with mem := mset 0 (a + va % 65536) b s.mem } m (va + 1) rest := by
      obtain ⟨leaf, found, target⟩ := Option.map_eq_some_iff.mp mapped
      obtain ⟨_, _, _, _, _, _, _, _⟩ := leaf
      subst target
      simp only [pageWrite, List.foldl_cons, found]
    rw [first, memWrite]
    rw [List.length_cons] at fits
    cases rest with
    | nil => rfl
    | cons c more =>
      rw [List.length_cons] at fits
      have page : (va + 1) / 65536 = va / 65536 := by omega
      have next : (va + 1) % 65536 = va % 65536 + 1 := by omega
      rw [ih _ (by rwa [page]) (by rw [next, List.length_cons]; omega), next, Nat.add_assoc]

/-! ### Items that are done, and engines that are idle, stay so -/

/-- An engine without an item has none afterwards, and an item that is done is as it was (R16, R172). -/
structure EndedStays (s u : State) : Prop where
  idle : ∀ d, (getStore s d).updRun = none → (getStore u d).updRun = none
  done : ∀ j i it, mfind (getJob s j).items i = some it → it.state = .done → mfind (getJob u j).items i = some it

theorem EndedStays.refl (s : State) : EndedStays s s := ⟨fun _ h => h, fun _ _ _ h _ => h⟩

theorem EndedStays.trans {s t u : State} (h : EndedStays s t) (h' : EndedStays t u) : EndedStays s u :=
  ⟨fun d idle => h'.idle d (h.idle d idle), fun j i it found done => h'.done j i it (h.done j i it found done) done⟩

theorem EndedStays.foldl {α : Type} {f : State → α → State} (step : ∀ s a, EndedStays s (f s a)) (l : List α) (s : State) :
    EndedStays s (l.foldl f s) :=
  List.foldlRecOn l f (.refl s) fun _ h a _ => h.trans (step _ a)

theorem endedStays_of_eq {s u : State} (stores : u.stores = s.stores) (jobs : u.jobs = s.jobs) : EndedStays s u :=
  ⟨fun d h => by rwa [getStore, stores], fun j _ _ h _ => by rwa [getJob_of_jobs jobs]⟩

theorem endedStays_of_frame {s u : State} (pages : PagesFrame s u) (items : SameItems s u) : EndedStays s u where
  idle d h := by
    obtain ⟨_, _, eq⟩ := pages.stores d
    rw [eq, h]
  done j _ _ h _ := by rwa [items.items j]

theorem endedStays_sweepVersions (s : State) (j : Nat) : EndedStays s (sweepVersions s j) :=
  endedStays_of_frame (pagesFrame_sweepVersions s j) (SameItems.refl s).sweepVersions

theorem endedStays_modJob (s : State) (j : Nat) {f : Job → Job} (keeps : ∀ jb, (f jb).items = jb.items) : EndedStays s (modJob s j f) :=
  endedStays_of_frame (pagesFrame_modJob s j f) ((SameItems.refl s).modJob keeps)

theorem endedStays_abandonItem (s : State) (j i : Nat) : EndedStays s (abandonItem s j i) := by
  unfold abandonItem
  dsimp only
  split
  · exact .refl s
  · next x found =>
    split
    · exact .refl s
    · next unended =>
      have freed : EndedStays s (invalidate (releaseFrames s (itemFrames x)) j x.die (privateVpns x)) :=
        endedStays_of_frame ((pagesFrame_releaseFrames ..).trans (pagesFrame_invalidate ..)) (SameItems.refl s).releaseFrames.invalidate
      refine ⟨fun d idle => freed.idle d idle, fun k n it has done => ?_⟩
      have still := freed.done k n it has done
      rw [getJob_modJob_if]
      split
      · next same =>
        subst same
        have other : n ≠ i := by
          rintro rfl
          exact unended (.inl (Option.some.inj (has.symm.trans found) ▸ done))
        rwa [mfind_mput_ne _ _ other]
      · exact still

theorem endedStays_stopEngines (s : State) (j : Nat) : EndedStays s (stopEngines s j) := by
  refine ⟨fun d => ?_, fun _ _ _ h _ => h⟩
  simp only [getStore, stopEngines]
  generalize s.stores = m
  intro idle
  induction m with
  | nil => exact idle
  | cons e rest ih =>
    by_cases h : e.1 = d
    · simp only [mget, h, if_true] at idle
      simp [mget, h, idle]
    · simp only [mget, h, if_false] at idle
      simpa [mget, h] using ih idle

theorem endedStays_dropHolds (s : State) (j : Nat) : EndedStays s (dropHolds s j) := by
  have freed : EndedStays s ((heldPages (getJob s j)).foldl (fun s e => releaseFrames (invalidate s j e.1 (e.2.map (·.1))) (mapFrames e.2)) s) :=
    .foldl (fun t _ => endedStays_of_frame ((pagesFrame_invalidate ..).trans (pagesFrame_releaseFrames ..)) (SameItems.refl t).invalidate.releaseFrames) _ s
  have runs : ∀ t : State, EndedStays t { t with exportRuns := t.exportRuns.filter (fun e => decide (e.job ≠ j)) } := fun _ => endedStays_of_eq rfl rfl
  rw [dropHolds]
  exact (freed.trans (runs _)).trans (endedStays_modJob _ j fun _ => rfl)

theorem endedStays_markFaulted (s : State) (j code : Nat) : EndedStays s (markFaulted s j code) := by
  have marked : EndedStays s (modJob s j (fun jb => { jb with faulted := true, stuckSince := none })) := endedStays_modJob s j fun _ => rfl
  exact marked.trans (endedStays_of_eq rfl rfl)

theorem endedStays_failContext (s : State) (j code : Nat) : EndedStays s (failContext s j code) := by
  obtain ⟨_, _, _, eq⟩ := failContext_frame s j code
  rw [eq]
  exact endedStays_of_eq rfl rfl

theorem endedStays_jobFault (s : State) (j code : Nat) : EndedStays s (jobFault s j code) := by
  by_cases sound : (getJob s j).loaded = true ∧ (getJob s j).faulted = false
  · rw [jobFault_of_loaded code sound.1 sound.2]
    have abandoned : EndedStays s ((getJob s j).items.foldl (fun s e => abandonItem s j e.1) s) :=
      .foldl (fun t (e : Nat × Item) => endedStays_abandonItem t j e.1) _ s
    have cleared : EndedStays s (jobCleared s j) := (abandoned.trans (endedStays_stopEngines ..)).trans (endedStays_dropHolds ..)
    exact (cleared.trans (endedStays_markFaulted ..)).trans (endedStays_failContext ..)
  · rw [jobFault]
    simp only [Bool.or_eq_true, Bool.not_eq_true', if_pos (by simpa [imp_iff_not_or] using sound)]
    exact .refl s

/-! ### Packets of the sequenced channels (R351, R356) -/

theorem endedStays_putSent (s : State) (l : Nat) (p : Packet) : EndedStays s (putSent s l p) := by
  unfold putSent
  dsimp only
  split <;> exact endedStays_of_eq rfl rfl

theorem endedStays_emitOn (s : State) (d n : Nat) (p : Packet) : EndedStays s (emitOn s d n p) := by
  unfold emitOn
  split
  · split
    · exact endedStays_putSent ..
    · exact endedStays_of_eq rfl rfl
  · exact .refl s

theorem endedStays_endChannel (s : State) (d id : Nat) : EndedStays s (endChannel s d id) := by
  unfold endChannel
  split
  · exact .refl s
  · have closed : ∀ f : Fab → Fab, EndedStays s (modFab s d f) := fun _ => endedStays_of_eq rfl rfl
    refine (closed _).trans (.foldl (fun t q => ?_) _ _)
    split
    · exact endedStays_jobFault ..
    · exact .refl t

theorem endedStays_sendNow (s : State) (d : Nat) (e : SendCh) (q : SentPkt) : EndedStays s (sendNow s d e q) := by
  have kept : ∀ f : Fab → Fab, EndedStays s (modFab s d f) := fun _ => endedStays_of_eq rfl rfl
  unfold sendNow
  dsimp only
  split
  · split
    · exact (kept _).trans (endedStays_putSent ..)
    · exact (kept _).trans (endedStays_emitOn ..)
  · exact (kept _).trans (endedStays_endChannel ..)

theorem endedStays_joinChannel (s : State) (d : Nat) (q : SentPkt) : EndedStays s (joinChannel s d q) := by
  unfold joinChannel
  dsimp only
  repeat' split
  · exact endedStays_of_eq rfl rfl
  · exact endedStays_sendNow ..
  · exact endedStays_of_eq rfl rfl
  · exact endedStays_sendNow ..

theorem endedStays_sendSeq (s : State) (d : Nat) (p : Packet) (job : Option Nat) (who : Option (Nat × Nat)) :
    EndedStays s (sendSeq s d p job who) := endedStays_joinChannel ..

end Sys2Proof.Machine
end

section
/-!
PROOF. UPD items from launch to end, and the versions they publish: fetches, the digest scrub, exports (O43).
-/
namespace Sys2Proof.Machine
open Sys2Proof.Claim

/-! ### UPD items (R317, R327) -/

section
variable {s : State} {d j i : Nat} {it : Item}

/-- The item runs on the engine of store die d, from the first block of its first shard. -/
def updLaunched (s : State) (d j i : Nat) (it : Item) (l : List Nat) : State :=
  modStore (modItem s j i (fun x => { x with state := .running })) d (fun x =>
    { x with updRun := some { job := j, item := i, shards := l, block := 0, pc := 0, u := [] }, updStep := it.step, updCtx := j })

theorem exec_updItemLaunch {u : State} (store : storeOk d = true) (job : jobOk j = true) (found : mfind (getJob s j).items i = some it)
    (live : jobLive s j = true) (up : stackUp s d = true) (here : it.die = d) (idle : updOf s d = none) (ready : updReady s (getJob s j) it = true)
    (staged : stageShards j d i s (ownedShards s (getJob s j) d it.stage) = some u) :
    exec (.updItemLaunch d j i) s = .next (updLaunched u d j i it (ownedShards s (getJob s j) d it.stage)) := by
  change onUnit (storeOk d && jobOk j) _ = _
  rw [store, job, Bool.and_self, onUnit_true]
  dsimp only
  rw [found]
  dsimp only
  rw [if_neg (by simp [live, up, here, idle, ready]), staged]
  rfl

theorem exec_updItemEnd {r : UpdRun} (store : storeOk d = true) (found : mfind (getJob s r.job).items r.item = some it) (runs : updOf s d = some r)
    (finished : r.shards = []) : exec (.updItemEnd d) s = .next (endUpd s d r it) := by
  change onUnit (storeOk d) _ = _
  rw [store, onUnit_true, runs]
  simp only [found, finished, List.isEmpty_nil, if_true]

end

theorem updateItems : UpdateItems := by
  intro s d j i it store job found
  refine ⟨fun u live up here idle ready staged => ?launch, fun r runs ofJob ofItem finished => ?finish⟩
  case launch =>
    refine ⟨_, exec_updItemLaunch store job found live up here idle ready staged, ?_, ?_, ?_, rfl⟩ <;>
      rw [updLaunched, getStore_modStore_if, if_pos rfl]
  case finish =>
    subst ofJob ofItem
    exact exec_updItemEnd store found runs finished

/-! ### The end of an UPD item -/

/-- The versions of the item's shards are published, those they replace are kept for their holders, and translations of staging are gone (R317). -/
def updPublished (s : State) (d : Nat) (r : UpdRun) (it : Item) : State :=
  let l := ownedShards s (getJob s r.job) d it.stage
  let t := l.foldl (publishShard r.job r.item it.step.toNat it) s
  invalidate ((l.map (fun k => (k, currentVersion (getJob s r.job) k))).foldl (fun s e => holdOld r.job e.1 e.2 s) t) r.job d
    (it.staging.flatMap (fun g => g.pages.map (·.1)))

/-- The item is DONE and its engine idle. -/
def updRetired (s : State) (d : Nat) (r : UpdRun) (it : Item) : State :=
  modStore (noteCommit (modItem (updPublished s d r it) r.job r.item (fun x => { x with state := .done, staging := [] })) r.job it.step) d
    (fun x => { x with updRun := none })

/-- The close object of a shard is armed again, and its notices go out (R297, R387). -/
def announceShard (d j : Nat) (s : State) (k : Nat) : State :=
  match (getJob s j).image.shards[k]? with
  | some sh => sh.notices.foldl (fun s a => arriveAt s d j a (getJob s j).epoch) (rearm s j sh)
  | none => s

theorem endUpd_eq (s : State) (d : Nat) (r : UpdRun) (it : Item) :
    endUpd s d r it =
      sweepVersions ((ownedShards s (getJob s r.job) d it.stage).foldl (announceShard d r.job) (updRetired s d r it)) r.job := rfl

section
variable {s t : State} (h : SameItems s t)
include h

theorem SameItems.putFrames (g : State → Nat → Frame) (l : List Nat) : SameItems s (l.foldl (fun t f => putFrame t f (g t f)) t) :=
  h.foldl (fun _ _ h => h.of_frame (putFrame_frame ..)) l

theorem SameItems.publishShard (j i n : Nat) (it : Item) (k : Nat) : SameItems s (publishShard j i n it t k) := by
  unfold Machine.publishShard
  dsimp only
  split
  · exact (h.putFrames ..).modJob fun _ => rfl
  · exact h

theorem SameItems.holdOld (j k old : Nat) : SameItems s (holdOld j k old t) := by
  unfold Machine.holdOld
  split
  · exact h
  · exact h.putFrames ..

end

theorem sameItems_updPublished (s : State) (d : Nat) (r : UpdRun) (it : Item) : SameItems s (updPublished s d r it) :=
  ((SameItems.refl s).foldl (fun _ _ h => h.publishShard ..) _).foldl (fun _ _ h => h.holdOld ..) _ |>.invalidate

theorem updRetired_item {s : State} {r : UpdRun} {it : Item} (d : Nat) (found : mfind (getJob s r.job).items r.item = some it) :
    mfind (getJob (updRetired s d r it) r.job).items r.item = some { it with state := .done, staging := [] } := by
  have retired : SameItems (modItem (updPublished s d r it) r.job r.item (fun x => { x with state := .done, staging := [] })) (updRetired s d r it) := by
    rw [updRetired, modStore_eq]
    exact (SameItems.refl _).noteCommit.of_jobs (setStore_jobs ..)
  exact (mfind_of_modItem retired (sameItems_updPublished s d r it) found).1

theorem updRetired_idle (s : State) (d : Nat) (r : UpdRun) (it : Item) : (getStore (updRetired s d r it) d).updRun = none := by
  rw [updRetired, getStore_modStore_if, if_pos rfl]

theorem endedStays_arriveAt (s : State) (d j addr : Nat) (epoch : BitVec 16) : EndedStays s (arriveAt s d j addr epoch) := by
  unfold arriveAt
  dsimp only
  split
  · exact endedStays_of_eq rfl rfl
  · exact endedStays_sendSeq ..

theorem endedStays_rearm (s : State) (j : Nat) (sh : ShardDecl) : EndedStays s (rearm s j sh) := by
  unfold rearm
  split
  · exact .refl s
  · split
    · exact endedStays_of_eq rfl rfl
    · exact .refl s

theorem endedStays_announceShard (d j : Nat) (s : State) (k : Nat) : EndedStays s (announceShard d j s k) := by
  rw [announceShard]
  split
  · exact (endedStays_rearm ..).trans (.foldl (fun _ _ => endedStays_arriveAt ..) ..)
  · exact .refl s

/-- Whatever the arrivals that follow do, even where one finds no path and the job faults, the item stays DONE and the engine idle. -/
theorem endedStays_endUpd (s : State) (d : Nat) (r : UpdRun) (it : Item) : EndedStays (updRetired s d r it) (endUpd s d r it) := by
  rw [endUpd_eq]
  exact EndedStays.trans (.foldl (endedStays_announceShard d r.job) _ _) (endedStays_sweepVersions ..)

/-! ### Fetches (R309, R311) -/

section
variable {s : State} {d j : Nat}

theorem exec_paramFetchStart {i v : Nat} {sh : ShardDecl} {rest : List Nat} (store : storeOk d = true) (job : jobOk j = true) (live : jobLive s j = true)
    (up : stackUp s d = true) (shard : (getJob s j).image.shards[i]? = some sh)
    (none : (getStore s d).fetch.any (fun f => decide (f.job = j ∧ f.shard = i)) = false) (wanted : wantedVersions s (getJob s j) d i sh = v :: rest) :
    exec (.paramFetchStart d j i) s = .next (startFetch s d j i v sh 0) := by
  change onUnit (storeOk d && jobOk j) _ = _
  rw [store, job, Bool.and_self, onUnit_true]
  dsimp only
  rw [shard]
  dsimp only
  rw [if_neg (by simp only [live, up, none]; decide), wanted]

theorem exec_paramFetchComplete {l b : List Byte} {f : FetchRec} {sh : ShardDecl} (store : storeOk d = true)
    (first : (getStore s d).fetch.find? (fun f => jobLive s f.job && (fetchedBytes f l).isSome) = some f) (up : stackUp s d = true)
    (shard : (getJob s f.job).image.shards[f.shard]? = some sh) (bytes : fetchedBytes f l = some b) (route : fetchRoute s d sh = true) :
    exec (.paramFetchComplete d l) s = .next (endFetch s d f sh b) := by
  change onUnit (storeOk d) _ = _
  rw [store, onUnit_true, first]
  simp only [shard, bytes, up, route, Bool.not_true, Bool.false_eq_true, if_false]

/-- A fetch from an owner in the package is the last of its die's list. -/
theorem startFetch_here {i v tries : Nat} {sh : ShardDecl} (own : ownsShard s sh = true) :
    startFetch s d j i v sh tries = modStore s d (fun x => { x with fetch := x.fetch ++
      [{ job := j, shard := i, version := v, tries := tries, remote := false, raw := [], need := versionSize sh }] }) := by
  rw [startFetch]
  simp only [own, Bool.not_true, Bool.false_eq_true, if_false]

/-- The fetches of store die d are these. -/
def withFetches (s : State) (d : Nat) (l : List FetchRec) : State := modStore s d (fun x => { x with fetch := l })

/-- A fetch whose bytes match the digest, and which is to arrive on no object, is counted, and its copy is published (R309, R311). -/
theorem endFetch_matches {f : FetchRec} {sh : ShardDecl} {b : List Byte} {t : State} (silent : sh.fetchDone = [])
    (good : digestOf sh f.version b = publishedDigest s (getJob s f.job) f.shard f.version sh)
    (published : publishCopy (withFetches s d ((getStore s d).fetch.filter (fun g => decide (g.job ≠ f.job ∨ g.shard ≠ f.shard)))) d f.job f.shard
      f.version sh (publishedDigest s (getJob s f.job) f.shard f.version sh) b = some t) :
    endFetch s d f sh b = sweepVersions (modStore t d (fun x => { x with fetches := wrap32 (x.fetches + 1) })) f.job := by
  have arrives : ∀ u, arriveFetch u d f.job sh = u := fun u => by rw [arriveFetch, silent]; rfl
  have copied : publishCopy (modStore s d (fun x => { x with fetch := x.fetch.filter (fun g => decide (g.job ≠ f.job ∨ g.shard ≠ f.shard)) })) d f.job
    f.shard f.version sh (publishedDigest s (getJob s f.job) f.shard f.version sh) b = some t := published
  rw [endFetch]
  simp only [if_pos good, copied, arrives]

/-! ### The scrub (R312) -/

/-- The pass of store die d over job j is counted, and the step that it was made at is noted. -/
def scrubCounted (s : State) (d j : Nat) : State :=
  modStore (modJob s j (fun jb => { jb with scrubbed := mput d (stepReached jb) jb.scrubbed })) d
    (fun x => { x with scrubPasses := wrap32 (x.scrubPasses + 1) })

theorem exec_digestScrub_noCopies (store : storeOk d = true) (job : jobOk j = true) (live : jobLive s j = true) (up : stackUp s d = true)
    (due : scrubDue (getJob s j) d = true) (copies : (getJob s j).caches = []) (versions : (getJob s j).versions = []) :
    exec (.digestScrub d j) s = .next (sweepCaches (scrubCounted s d j) j) := by
  change onUnit (storeOk d && jobOk j) _ = _
  rw [store, job, Bool.and_self, onUnit_true, if_neg (by simp [live, up, due])]
  dsimp only
  rw [copies, versions]
  rfl

/-- Where a job has no cached copies, a sweep of them leaves it as it is. -/
theorem sweepCaches_of_none (none : (getJob s j).caches = []) : sweepCaches s j = modJob s j (fun jb => { jb with caches := [] }) := by
  rw [sweepCaches, none]
  simp [releaseFrames, none]

/-! ### Exports (R330) -/

/-- Run e has left the list of records to be written. -/
def exportTaken (s : State) (e : ExportRun) : State := { s with exportRuns := dropFirst (fun x => decide (x = e)) s.exportRuns }

/-- ARRIVE 1 on the completion object of an exported record. -/
def exportArrived (s : State) (jb : Job) (obj : Nat) : State :=
  match objAt jb obj with
  | some o => setPort s o (getPort s o ++ [.arrive 1 none])
  | none => s

theorem exec_exportRecordWritten {e : ExportRun} {sh : ShardDecl} {v : VerRec} {u : State} (job : jobOk j = true) (live : jobLive s j = true)
    (first : s.exportRuns.find? (fun e => decide (e.job = j)) = some e) (shard : (getJob s j).image.shards[e.shard]? = some sh)
    (version : mfind (getJob s j).versions (verKey e.shard e.version) = some v) (up : stackUp s sh.ownerDie = true)
    (written : engineWrite (exportTaken s e) sh.ownerDie j e.buf (exportRecord s sh v) = .inl u) :
    exec (.exportRecordWritten j) s =
      .next (sweepVersions (setOutcome (exportArrived u (getJob s j) e.obj) e.queue e.k (0, 0, (exportRecord (exportTaken s e) sh v).length, 0)) j) := by
  change onUnit (jobOk j) _ = _
  rw [job, onUnit_true, first]
  dsimp only
  rw [shard, version]
  dsimp only
  rw [if_neg (by simp [live, up])]
  rw [exportTaken] at written
  rw [written]
  rfl

end

theorem versionTransfers : VersionTransfers := by
  intro s d j store job live
  refine ⟨fun i sh v rest up shard none wanted => exec_paramFetchStart store job live up shard none wanted,
    fun l f sh b first ofJob up shard bytes route => ?complete,
    fun up due copies versions => exec_digestScrub_noCopies store job live up due copies versions,
    ?record⟩
  case complete =>
    subst ofJob
    exact exec_paramFetchComplete store first up shard bytes route
  case record =>
    intro e sh v u first shard version up gone written arrived
    exact exec_exportRecordWritten job live first shard version up written

/-! ### The commands complete -/

section
variable {s : State} {d k : Nat} {f : UFields} {r : UpdRun} {sh : ShardDecl} {p : UpdDecl} {b : List Byte × List Byte}

/-- LDF leaves the block in uD, and memory as it was. -/
theorem uLdf_completes (here : UpdAt s d (encU 0x01 f) r k sh p) (more : r.pc + 1 < p.words.length)
    (bytes : fieldBytes s d r k sh (f.x.toNat % 8) (slotField p (f.x.toNat % 8)).1 (slotField p (f.x.toNat % 8)).2.1 = .inl b)
    (noReset : (slotField p (f.x.toNat % 8)).1 ≠ 1 ∨ bitAt f.x.toNat 3 = false) :
    ∃ u q, exec (.uLdf d f) s = .next u ∧ (getStore u d).updRun = some q ∧ q.pc = r.pc + 1 ∧ u.mem = s.mem ∧
      ∀ n, n < 1024 → uReg q f.d.toNat n =
        if isLogical sh r.block n then (fieldValues (slotField p (f.x.toNat % 8)).2.1 b.1 b.2).getD n 0 else 0 := by
  have next := exec_uLdf here bytes noReset
  obtain ⟨-, -, shard, prog, -⟩ := here
  rw [blockLoaded, advanceUpd_setUReg _ _ shard prog more] at next
  refine ⟨_, (blockLoaded r f sh (slotField p (f.x.toNat % 8)).2.1 b).stepped, next, ?_, ?_, rfl, fun n hn => ?_⟩
  · rw [getStore_modStore_if, if_pos rfl, blockLoaded]
  · rw [UpdRun.stepped_pc, blockLoaded, setUReg_pc]
  · rw [uReg_stepped, blockLoaded, uReg_setUReg _ _ _ hn]

/-- STF leaves the encoded block in the staged page that holds it, and every other byte as it was. -/
theorem uStf_completes {hot : Bool} {a : Nat} (here : UpdAt s d (encU 0x02 f) r k sh p) (more : r.pc + 1 < p.words.length)
    (bytes : fieldBytes s d r k sh (f.x.toNat % 8) (slotField p (f.x.toNat % 8)).1 (slotField p (f.x.toNat % 8)).2.1 = .inl b)
    (staged : hot = true ∧ (slotField p (f.x.toNat % 8)).1 = 2 ∨
      hot = false ∧ (slotField p (f.x.toNat % 8)).1 = 0 ∧ isSb (slotField p (f.x.toNat % 8)).2.1 = false)
    (mapped : (mfind (newPages s r k hot) (blockVa s r f sh p / 65536)).map (·.target) = some (.phys a))
    (fits : blockVa s r f sh p % 65536 + (blockStored s r f sh p b).1.length ≤ 65536) :
    ∃ u q, exec (.uStf d f) s = .next u ∧ (getStore u d).updRun = some q ∧ q.pc = r.pc + 1 ∧
      memRead u.mem (a + blockVa s r f sh p % 65536) (blockStored s r f sh p b).1.length = (blockStored s r f sh p b).1 ∧
      ∀ n, n < a + blockVa s r f sh p % 65536 ∨ a + blockVa s r f sh p % 65536 + (blockStored s r f sh p b).1.length ≤ n →
        memByte u.mem n = memByte s.mem n := by
  have next := exec_uStf here bytes staged
  obtain ⟨-, -, shard, prog, -⟩ := here
  rw [pageWrite_inPage _ s mapped fits,
    advanceUpd_inProgram (s := { s with mem := memWrite s.mem (a + blockVa s r f sh p % 65536) (blockStored s r f sh p b).1 }) shard prog more] at next
  refine ⟨_, r.stepped, next, ?_, rfl, memRead_memWrite_same .., fun n outside => ?_⟩
  · rw [getStore_modStore_if, if_pos rfl]
  · rcases outside with below | above
    · exact memByte_memWrite_below _ _ below
    · exact memByte_memWrite_above _ _ above

end

section
variable {s : State} {d j : Nat}

theorem updItemEnd_completes {r : UpdRun} {it : Item} (store : storeOk d = true) (found : mfind (getJob s r.job).items r.item = some it)
    (runs : updOf s d = some r) (finished : r.shards = []) :
    ∃ u m, exec (.updItemEnd d) s = .next u ∧ (getStore u d).updRun = none ∧ mfind (getJob u r.job).items r.item = some m ∧ m.state = .done ∧
      m.staging = [] := by
  have stays := endedStays_endUpd s d r it
  exact ⟨_, _, exec_updItemEnd store found runs finished, stays.idle d (updRetired_idle ..),
    stays.done _ _ _ (updRetired_item d found) rfl, rfl, rfl⟩

/-- A fetch that has ended well has left the list and is counted. -/
theorem endFetch_completes {f : FetchRec} {sh : ShardDecl} {b : List Byte} {t : State} (silent : sh.fetchDone = [])
    (good : digestOf sh f.version b = publishedDigest s (getJob s f.job) f.shard f.version sh)
    (published : publishCopy (withFetches s d ((getStore s d).fetch.filter (fun g => decide (g.job ≠ f.job ∨ g.shard ≠ f.shard)))) d f.job f.shard
      f.version sh (publishedDigest s (getJob s f.job) f.shard f.version sh) b = some t) :
    (getStore (endFetch s d f sh b) d).fetch = (getStore s d).fetch.filter (fun g => decide (g.job ≠ f.job ∨ g.shard ≠ f.shard)) ∧
      (getStore (endFetch s d f sh b) d).fetches = wrap32 ((getStore s d).fetches + 1) := by
  obtain ⟨_, _, copied⟩ := (pagesFrame_publishCopy published).stores d
  obtain ⟨_, _, swept⟩ := (pagesFrame_sweepVersions (modStore t d (fun x => { x with fetches := wrap32 (x.fetches + 1) })) f.job).stores d
  rw [endFetch_matches silent good published, swept, getStore_modStore_if, if_pos rfl, copied, withFetches, getStore_modStore_if, if_pos rfl]
  exact ⟨rfl, rfl⟩

theorem digestScrub_completes (store : storeOk d = true) (job : jobOk j = true) (live : jobLive s j = true) (up : stackUp s d = true)
    (due : scrubDue (getJob s j) d = true) (copies : (getJob s j).caches = []) (versions : (getJob s j).versions = []) :
    ∃ u, exec (.digestScrub d j) s = .next u ∧ (getStore u d).scrubPasses = wrap32 ((getStore s d).scrubPasses + 1) ∧
      mfind (getJob u j).scrubbed d = some (stepReached (getJob s j)) ∧ u.mem = s.mem := by
  have counted : getJob (scrubCounted s d j) j = { getJob s j with scrubbed := mput d (stepReached (getJob s j)) (getJob s j).scrubbed } := getJob_setJob ..
  have none : (getJob (scrubCounted s d j) j).caches = [] := by rw [counted, copies]
  refine ⟨_, exec_digestScrub_noCopies store job live up due copies versions, ?_⟩
  rw [sweepCaches_of_none none]
  refine ⟨?_, ?_, rfl⟩
  · rw [modJob_eq, getStore_setJob, scrubCounted, getStore_modStore_if, if_pos rfl]
    rfl
  · rw [getJob_modJob_if, if_pos rfl, counted]
    exact mfind_mput_same ..

/-- What an engine writes leaves the exports of the package as they are. -/
theorem engineWrite_exportRuns {va : Nat} {l : List Byte} {u : State} (h : engineWrite s d j va l = .inl u) : u.exportRuns = s.exportRuns := by
  unfold engineWrite at h
  split at h
  · next pieces _ =>
    split at h
    · cases h
    · cases h
      obtain ⟨_, _, _, _, touched⟩ := (touchFrame_touchRanges (writePieces s pieces l) none j none d [(va, l.length)]).only
      obtain ⟨_, _, _, written⟩ := writePieces_frame s pieces l
      rw [touched, written]
  · cases h
  · cases h

theorem exportArrived_frame (s : State) (jb : Job) (obj : Nat) : ∃ ports, exportArrived s jb obj = { s with ports := ports } := by
  unfold exportArrived
  split <;> exact ⟨_, rfl⟩

/-- The entry of an outcome has one. -/
theorem setOutcome_isSome (s : State) (q k : Nat) (o : Nat × Nat × Nat × Nat) :
    ∀ n ∈ (getQueue (setOutcome s q k o) q).entries, n.k = k → n.outcome.isSome = true := by
  intro n listed named
  rw [setOutcome, modQueue_eq, getQueue_setQueue] at listed
  obtain ⟨e, -, rfl⟩ := List.mem_map.mp listed
  split at named
  · next told => rw [if_pos told]; rfl
  · next kept =>
    rw [if_neg kept]
    exact Option.isSome_iff_ne_none.mpr fun untold => kept ⟨named, by rw [untold]; rfl⟩

theorem exportRecordWritten_completes {e : ExportRun} {sh : ShardDecl} {v : VerRec} {t : State} (job : jobOk j = true) (live : jobLive s j = true)
    (first : s.exportRuns.find? (fun e => decide (e.job = j)) = some e) (shard : (getJob s j).image.shards[e.shard]? = some sh)
    (version : mfind (getJob s j).versions (verKey e.shard e.version) = some v) (up : stackUp s sh.ownerDie = true)
    (written : engineWrite (exportTaken s e) sh.ownerDie j e.buf (exportRecord s sh v) = .inl t) :
    ∃ u, exec (.exportRecordWritten j) s = .next u ∧ u.exportRuns = dropFirst (fun x => decide (x = e)) s.exportRuns ∧
      u.host = t.host ∧ ∀ n ∈ (getQueue u e.queue).entries, n.k = e.k → n.outcome.isSome = true := by
  refine ⟨_, exec_exportRecordWritten job live first shard version up written, ?_⟩
  generalize (0, 0, (exportRecord (exportTaken s e) sh v).length, 0) = o
  obtain ⟨ports, arrived⟩ := exportArrived_frame t (getJob s j) e.obj
  have told := setOutcome_isSome (exportArrived t (getJob s j) e.obj) e.queue e.k o
  obtain ⟨_, _, _, _, swept⟩ := (pagesFrame_sweepVersions (setOutcome (exportArrived t (getJob s j) e.obj) e.queue e.k o) j).only
  rw [swept]
  refine ⟨?_, ?_, told⟩
  · rw [arrived]
    exact engineWrite_exportRuns written
  · rw [arrived]
    rfl

end

theorem updateCommandsComplete : UpdateCommandsComplete := by
  refine ⟨fun s d f r k sh p b => ?program,
    fun s d j store job live up => ⟨fun r it runs ofJob found finished => ?finish, fun i sh v rest shard own none wanted => ?start,
      ?complete,
      fun due copies versions => digestScrub_completes store job live up due copies versions,
      fun e sh v t first shard version upOwner written => exportRecordWritten_completes job live first shard version upOwner written⟩⟩
  case program =>
    intro sl vals more bytes
    exact ⟨fun here noReset => uLdf_completes here more bytes noReset, fun hot a staged here => uStf_completes here more bytes staged⟩
  case finish =>
    subst ofJob
    exact updItemEnd_completes store found runs finished
  case start =>
    refine ⟨_, exec_paramFetchStart store job live up shard none wanted, ?_, ?_⟩ <;> rw [startFetch_here own]
    · rfl
    · rw [getStore_modStore_if, if_pos rfl]
  case complete =>
    intro l f sh b t first ofJob shard bytes route silent good rest published
    subst ofJob
    exact ⟨_, exec_paramFetchComplete store first up shard bytes route, endFetch_completes silent good published⟩

/-- Settles O43: an item that is done stays so through every arrival and fault that its end sends out; what travels leaves the engines' lists alone. -/
theorem versionsAreMadeAndTravel : Obligations.VersionsAreMadeAndTravel := ⟨updateItems, versionTransfers, updateCommandsComplete⟩

end Sys2Proof.Machine
end

section
/-!
PROOF. The bytes of a packet: every field of the header is read back from the word that R349 puts it in, and the payload follows (O60).
-/
namespace Sys2Proof.Machine

/-- A 64-bit word is read back from its eight bytes, wherever they stand. -/
theorem leNat_word {w : Nat} (pre post : List Byte) {n : Nat} (at_n : pre.length = n) (h : w < 2 ^ 64) :
    leNat (((pre ++ leBytes 8 w ++ post).drop n).take 8) = w := by
  rw [List.append_assoc, ← at_n, List.drop_left, List.take_append_of_le_length (by simp), List.take_of_length_le (by simp), leNat_leBytes]
  exact Nat.mod_eq_of_lt h

/-- The fields of a packet that fits the wire stay within their bits (R349). -/
theorem wireOk_iff (p : Packet) :
    wireOk p = true ↔ p.hops < 64 ∧ p.path < 4 ∧ p.sstk < 4 ∧ p.dstk < 4 ∧ p.tag < 16384 ∧ p.region < 256 ∧ p.offset < 2 ^ 40 ∧
      p.payload.length % 16 = 0 ∧ p.payload.length ≤ 256 ∧ pTypeOf (typeCode p.typ) = p.typ := by
  rw [wireOk, decide_eq_true_iff]

theorem typeCode_lt (t : PType) : typeCode t < 64 := by
  cases t with
  | reserved c => exact c.isLt
  | _ => decide

theorem packetBytes_length (p : Packet) : (packetBytes p).length = 32 + p.payload.length := by
  simp only [packetBytes, List.length_append, leBytes_length]

section
variable {p : Packet} (ok : wireOk p = true)
include ok

theorem headerWord0_fields :
    let w := headerWord0 p
    w < 2 ^ 64 ∧ bits w 63 48 = p.dst.toNat ∧ bits w 47 32 = p.src.toNat ∧ bits w 31 26 = typeCode p.typ ∧ bits w 25 20 = p.hops ∧
      bits w 19 18 = p.cls.toNat ∧ bits w 17 13 = p.payload.length / 16 ∧ bits w 11 10 = p.path := by
  obtain ⟨hops, path, -, -, -, -, -, -, payload, -⟩ := (wireOk_iff p).mp ok
  have := p.dst.isLt; have := p.src.isLt; have := typeCode_lt p.typ; have := p.cls.isLt
  simp only [headerWord0, bits, fieldAt]
  omega

theorem headerWord1_fields :
    let w := headerWord1 p
    w < 2 ^ 64 ∧ bits w 63 32 = p.cseq.toNat ∧ bits w 31 30 = p.sstk ∧ bits w 29 28 = p.dstk ∧ bits w 27 14 = p.tag ∧
      bits w 13 10 = p.gen.toNat ∧ bitAt w 9 = p.retry ∧ bitAt w 8 = p.openp := by
  obtain ⟨-, -, sstk, dstk, tag, -⟩ := (wireOk_iff p).mp ok
  have := p.cseq.isLt; have := p.gen.isLt; have := b2n_lt_two p.retry; have := b2n_lt_two p.openp
  refine ⟨?_, ?_, ?_, ?_, ?_, ?_, bitAt_eq ?_, bitAt_eq ?_⟩ <;>
  · simp only [headerWord1, bits, fieldAt]
    omega

theorem headerWord2_fields :
    let w := headerWord2 p
    w < 2 ^ 64 ∧ bits w 63 48 = p.epoch.toNat ∧ bits w 47 40 = p.region ∧ bits w 39 0 = p.offset := by
  obtain ⟨-, -, -, -, -, region, offset, -⟩ := (wireOk_iff p).mp ok
  have := p.epoch.isLt
  simp only [headerWord2, bits, fieldAt]
  omega

/-- The four words of the header stand in their places, and the payload after them. -/
theorem packetBytes_parts :
    let l := packetBytes p
    leNat (l.take 8) = headerWord0 p ∧ leNat ((l.drop 8).take 8) = headerWord1 p ∧ leNat ((l.drop 16).take 8) = headerWord2 p ∧
      leNat ((l.drop 24).take 8) = p.w3.toNat ∧ l.drop 32 = p.payload := by
  obtain ⟨w0, -⟩ := headerWord0_fields ok
  obtain ⟨w1, -⟩ := headerWord1_fields ok
  obtain ⟨w2, -⟩ := headerWord2_fields ok
  refine ⟨?_, ?_, ?_, ?_, ?_⟩
  · simpa [packetBytes] using leNat_word [] (leBytes 8 (headerWord1 p) ++ leBytes 8 (headerWord2 p) ++ leBytes 8 p.w3.toNat ++ p.payload) rfl w0
  · simpa [packetBytes] using leNat_word (leBytes 8 (headerWord0 p)) (leBytes 8 (headerWord2 p) ++ leBytes 8 p.w3.toNat ++ p.payload) (leBytes_length ..) w1
  · simpa [packetBytes] using leNat_word (leBytes 8 (headerWord0 p) ++ leBytes 8 (headerWord1 p)) (leBytes 8 p.w3.toNat ++ p.payload) (by simp) w2
  · simpa [packetBytes] using leNat_word (leBytes 8 (headerWord0 p) ++ leBytes 8 (headerWord1 p) ++ leBytes 8 (headerWord2 p)) p.payload (by simp)
      p.w3.isLt
  · exact List.drop_left' (by simp)

theorem packetLen_packetBytes : packetLen (packetBytes p) = 32 + p.payload.length := by
  obtain ⟨w0, -⟩ := packetBytes_parts ok
  obtain ⟨-, -, -, -, -, -, len, -⟩ := headerWord0_fields ok
  obtain ⟨-, -, -, -, -, -, -, units, -, -⟩ := (wireOk_iff p).mp ok
  rw [packetLen, w0, len]
  omega

theorem packetOf_packetBytes : packetOf (packetBytes p) = p := by
  obtain ⟨w0, w1, w2, w3, payload⟩ := packetBytes_parts ok
  obtain ⟨-, dst, src, typ, hops, cls, -, path⟩ := headerWord0_fields ok
  obtain ⟨-, cseq, sstk, dstk, tag, gen, retry, openp⟩ := headerWord1_fields ok
  obtain ⟨-, epoch, region, offset⟩ := headerWord2_fields ok
  obtain ⟨-, -, -, -, -, -, -, -, -, named⟩ := (wireOk_iff p).mp ok
  simp only [packetOf, packetLen_packetBytes ok, Nat.mul_zero, Nat.mul_one, Nat.reduceMul, List.drop_zero, w0, w1, w2, w3, payload, dst, src, typ, hops,
    cls, path, cseq, sstk, dstk, tag, gen, retry, openp, epoch, region, offset, named, BitVec.ofNat_toNat, BitVec.setWidth_eq, Nat.add_sub_cancel_left,
    List.take_length]

end

/-- Settles O60: each field is a digit of its header word, in the mixed radix of the widths, and LEN gives the length of the payload. -/
theorem packetBytesReadBack : Obligations.PacketBytesReadBack := fun p ok =>
  ⟨packetOf_packetBytes ok, (packetLen_packetBytes ok).trans (packetBytes_length p).symm, packetBytes_length p⟩

end Sys2Proof.Machine
end

section
/-!
PROOF. What sending leaves of the state: packets that leave on a link or wait at a router (R341, R354, R355), those of sequenced channels
(R351, R352, R356), the passing of ticks, and a job fault that a channel without a path brings about.
-/
namespace Sys2Proof.Machine
open Sys2Proof.Claim

/-! ### One unit after another is written -/

theorem getFab_modFab_if (s : State) (d k : Nat) (f : Fab → Fab) : getFab (modFab s d f) k = if k = d then f (getFab s k) else getFab s k := by
  split
  · subst_vars
    exact getFab_setFab ..
  · exact getFab_setFab_ne _ _ _ _ ‹_›

theorem getLink_modLink_if (s : State) (l k : Nat) (f : Link → Link) : getLink (modLink s l f) k = if k = l then f (getLink s k) else getLink s k := by
  split
  · subst_vars
    exact getLink_setLink ..
  · exact getLink_setLink_ne _ _ _ _ ‹_›

theorem getFab_of_fabs {s u : State} (h : u.fabs = s.fabs) (d : Nat) : getFab u d = getFab s d := by rw [getFab, h, getFab]

theorem getLink_of_links {s u : State} (h : u.links = s.links) (l : Nat) : getLink u l = getLink s l := by rw [getLink, h, getLink]

/-! ### A packet that leaves or waits -/

/-- Packets have left on links or wait at routers, which changes nothing else: of a link its credits and its replay buffer, of a router what is held
there. -/
structure EmitFrame (s u : State) : Prop where
  only : ∃ sent links free fabs, u = { s with sent := sent, links := links, free := free, fabs := fabs }
  links : ∀ l, ∃ credits txNext replay, getLink u l = { getLink s l with credits := credits, txNext := txNext, replay := replay }
  fabs : ∀ d, ∃ held nextId, getFab u d = { getFab s d with held := held, nextId := nextId }

theorem EmitFrame.refl (s : State) : EmitFrame s s := ⟨⟨_, _, _, _, rfl⟩, fun _ => ⟨_, _, _, rfl⟩, fun _ => ⟨_, _, rfl⟩⟩

theorem EmitFrame.trans {s t u : State} (h : EmitFrame s t) (h' : EmitFrame t u) : EmitFrame s u where
  only := by
    obtain ⟨_, _, _, _, eq⟩ := h.only
    obtain ⟨_, _, _, _, eq'⟩ := h'.only
    exact ⟨_, _, _, _, by rw [eq', eq]⟩
  links l := by
    obtain ⟨_, _, _, eq⟩ := h.links l
    obtain ⟨_, _, _, eq'⟩ := h'.links l
    exact ⟨_, _, _, by rw [eq', eq]⟩
  fabs d := by
    obtain ⟨_, _, eq⟩ := h.fabs d
    obtain ⟨_, _, eq'⟩ := h'.fabs d
    exact ⟨_, _, by rw [eq', eq]⟩

theorem EmitFrame.foldl {α : Type} {f : State → α → State} (step : ∀ s a, EmitFrame s (f s a)) (l : List α) (s : State) :
    EmitFrame s (l.foldl f s) :=
  List.foldlRecOn l f (.refl s) fun _ h a _ => h.trans (step _ a)

/-- A field that sending does not write. -/
theorem EmitFrame.keeps {α : Type} {s u : State} (h : EmitFrame s u) (g : State → α)
    (same : ∀ a b c d, g { s with sent := a, links := b, free := c, fabs := d } = g s) : g u = g s := by
  obtain ⟨_, _, _, _, rfl⟩ := h.only
  exact same ..

/-- A field of a link that its transmitter does not write. -/
theorem EmitFrame.link {α : Type} {s u : State} (h : EmitFrame s u) (l : Nat) (g : Link → α)
    (same : ∀ x a b c, g { x with credits := a, txNext := b, replay := c } = g x) : g (getLink u l) = g (getLink s l) := by
  obtain ⟨_, _, _, eq⟩ := h.links l
  rw [eq, same]

/-- A field of a fabric unit that has nothing to do with its router. -/
theorem EmitFrame.fab {α : Type} {s u : State} (h : EmitFrame s u) (d : Nat) (g : Fab → α) (same : ∀ x a b, g { x with held := a, nextId := b } = g x) :
    g (getFab u d) = g (getFab s d) := by
  obtain ⟨_, _, eq⟩ := h.fabs d
  rw [eq, same]

theorem EmitFrame.setFab (s : State) (d : Nat) (held : List (Nat × Packet × Nat)) (nextId : Nat) :
    EmitFrame s (setFab s d { getFab s d with held := held, nextId := nextId }) where
  only := ⟨_, _, _, _, rfl⟩
  links _ := ⟨_, _, _, rfl⟩
  fabs k := by
    by_cases h : k = d
    · subst h
      exact ⟨_, _, getFab_setFab ..⟩
    · exact ⟨_, _, getFab_setFab_ne _ _ _ _ h⟩

@[simp] theorem putSent_fabs (s : State) (l : Nat) (p : Packet) : (putSent s l p).fabs = s.fabs := by
  unfold putSent
  dsimp only
  split <;> rfl

@[simp] theorem putSent_mem (s : State) (l : Nat) (p : Packet) : (putSent s l p).mem = s.mem := by
  unfold putSent
  dsimp only
  split <;> rfl

@[simp] theorem putSent_sent (s : State) (l : Nat) (p : Packet) : (putSent s l p).sent = mset [] l (p :: mget [] s.sent l) s.sent := by
  unfold putSent
  dsimp only
  split <;> rfl

theorem emitFrame_putSent (s : State) (l : Nat) (p : Packet) : EmitFrame s (putSent s l p) := by
  unfold putSent
  dsimp only
  split
  · exact ⟨⟨_, _, _, _, rfl⟩, fun _ => ⟨_, _, _, rfl⟩, fun _ => ⟨_, _, rfl⟩⟩
  · refine ⟨⟨_, _, _, _, rfl⟩, fun k => ?_, fun _ => ⟨_, _, rfl⟩⟩
    by_cases h : k = l
    · subst h
      exact ⟨_, _, _, getLink_setLink ..⟩
    · exact ⟨_, _, _, getLink_setLink_ne _ _ _ _ h⟩

theorem emitFrame_holdPacket (s : State) (d : Nat) (p : Packet) : EmitFrame s (holdPacket s d p) := .setFab ..

theorem emitFrame_emitOn (s : State) (d n : Nat) (p : Packet) : EmitFrame s (emitOn s d n p) := by
  unfold emitOn
  split
  · split
    · exact emitFrame_putSent ..
    · exact emitFrame_holdPacket ..
  · exact .refl s

theorem emitFrame_emit (s : State) (d : Nat) (p : Packet) : EmitFrame s (emit s d p) := by
  unfold emit
  split
  · exact emitFrame_putSent ..
  · split
    · exact emitFrame_emitOn ..
    · exact emitFrame_holdPacket ..

theorem emitFrame_releaseOne (s : State) (d : Nat) (h : Nat × Packet × Nat) : EmitFrame s (releaseOne s d h) := by
  unfold releaseOne
  dsimp only
  split
  · exact .refl s
  · split
    · exact .refl s
    · exact EmitFrame.trans (.setFab s d _ _) (emitFrame_putSent ..)

theorem emitFrame_releaseHeld (s : State) (d : Nat) : EmitFrame s (releaseHeld s d) := .foldl (fun t h => emitFrame_releaseOne t d h) _ s

theorem releaseHeld_of_noneHeld {s : State} {d : Nat} (none : (getFab s d).held = []) : releaseHeld s d = s := by rw [releaseHeld, none, List.foldl_nil]

theorem releaseAll_of_noneHeld {s : State} (none : ∀ d, d < 4 → (getFab s d).held = []) : (List.range 4).foldl releaseHeld s = s :=
  List.foldlRecOn (motive := fun t => t = s) _ _ rfl fun _ h d hd => by
    subst h
    exact releaseHeld_of_noneHeld (none d (List.mem_range.mp hd))

/-! ### The way a packet takes -/

/-- Nothing that decides the way of a packet through the router of die d differs: links, resets, the package's identity, the route table, what waits. -/
structure SamePaths (s u : State) (d : Nat) : Prop where
  links : u.links = s.links
  rsts : u.rsts = s.rsts
  trigger : u.failTrigger = s.failTrigger
  pkgId : u.pkgId = s.pkgId
  pkgSet : u.pkgSet = s.pkgSet
  route : (getFab u d).route = (getFab s d).route
  held : (getFab u d).held = (getFab s d).held

theorem SamePaths.of_fabs {s u : State} (d : Nat) (links : u.links = s.links) (rsts : u.rsts = s.rsts) (trigger : u.failTrigger = s.failTrigger)
    (pkgId : u.pkgId = s.pkgId) (pkgSet : u.pkgSet = s.pkgSet) (fabs : u.fabs = s.fabs) : SamePaths s u d :=
  ⟨links, rsts, trigger, pkgId, pkgSet, by rw [getFab_of_fabs fabs], by rw [getFab_of_fabs fabs]⟩

/-- A fabric unit changed in anything but its route table and what waits at its router. -/
theorem SamePaths.modFab (s : State) (d : Nat) {f : Fab → Fab} (keeps : ∀ x, (f x).route = x.route ∧ (f x).held = x.held) :
    SamePaths s (modFab s d f) d :=
  ⟨rfl, rfl, rfl, rfl, rfl, by rw [getFab_modFab_if, if_pos rfl, (keeps _).1], by rw [getFab_modFab_if, if_pos rfl, (keeps _).2]⟩

theorem SamePaths.trans {s t u : State} {d : Nat} (h : SamePaths s t d) (h' : SamePaths t u d) : SamePaths s u d :=
  ⟨h'.links.trans h.links, h'.rsts.trans h.rsts, h'.trigger.trans h.trigger, h'.pkgId.trans h.pkgId, h'.pkgSet.trans h.pkgSet,
    h'.route.trans h.route, h'.held.trans h.held⟩

section
variable {s u : State} {d : Nat} (h : SamePaths s u d)
include h

theorem SamePaths.ownDst (p : Packet) : ownDst u p = ownDst s p := by rw [Machine.ownDst, h.pkgId, h.pkgSet, Machine.ownDst]

theorem SamePaths.routePath (dst : BitVec 16) (n : Nat) : routePath u d dst n = routePath s d dst n := by rw [Machine.routePath, h.route, Machine.routePath]

theorem SamePaths.pathUsable (dst : BitVec 16) (cls n : Nat) : pathUsable u d dst cls n = pathUsable s d dst cls n := by
  have up : ∀ l, linkUp u l = linkUp s l := fun l => by rw [linkUp, getLink_of_links h.links, h.trigger, linkUp]
  have on : ∀ k, forwards u k = forwards s k := fun k => by rw [forwards, stackUp, getRst, h.rsts]; rfl
  have routes : ∀ a b, routeExists u a b = routeExists s a b := fun a b => by simp only [routeExists, on]
  unfold Machine.pathUsable
  rw [h.routePath]
  split
  · rw [up, on, routes, getLink_of_links h.links]
  · rfl

theorem SamePaths.bestPath (dst : BitVec 16) (cls : Nat) : bestPath u d dst cls = bestPath s d dst cls :=
  congrArg (List.find? · _) (funext fun n => h.pathUsable dst cls n)

theorem SamePaths.linkRoom (l : Nat) (p : Packet) : linkRoom u l p = linkRoom s l p := by
  rw [Machine.linkRoom, getLink_of_links h.links]
  rfl

theorem SamePaths.leaves {q : Packet} {n l : Nat} (leaves : Leaves s d q n l) : Leaves u d q n l := by
  obtain ⟨own, best, route, room, none⟩ := leaves
  exact ⟨(h.ownDst q).trans own, (h.bestPath ..).trans best, (h.routePath ..).trans route, (h.linkRoom ..).trans room, h.held.trans none⟩

end

theorem emitOn_leaves {s : State} {d n l : Nat} {p : Packet} (route : routePath s d p.dst n = some l) (room : linkRoom s l p = true)
    (none : (getFab s d).held = []) : emitOn s d n p = putSent s l { p with path := n } := by
  simp [emitOn, route, room, none]

/-- A packet with a path goes out on it at once. -/
theorem emit_leaves {s : State} {d n l : Nat} {p : Packet} (leaves : Leaves s d p n l) : emit s d p = putSent s l { p with path := n } := by
  obtain ⟨own, best, route, room, none⟩ := leaves
  simp only [emit, own, best, Bool.false_eq_true, if_false, emitOn_leaves route room none]

theorem emit_sent {s u : State} {d n l : Nat} {p : Packet} (leaves : Leaves s d p n l) (same : SamePaths s u d) (sent : u.sent = s.sent) :
    mget [] (emit u d p).sent l = { p with path := n } :: mget [] s.sent l := by
  rw [emit_leaves (same.leaves leaves), putSent_sent, mget_mset_same, sent]

/-- The number and the OPEN mark that a packet gets on its channel (R351). -/
def numbered (e : SendCh) (p : Packet) : Packet := { p with cseq := e.next, openp := !e.opened }

/-- The channel after a packet has gone out on its path n. -/
def afterSending (s : State) (e : SendCh) (sp : SentPkt) (n : Nat) : SendCh :=
  { e with next := e.next + 1, opened := true, unacked := e.unacked ++ [{ sp with pkt := numbered e sp.pkt, resent := 0 }], path := some n
           progressAt := if e.unacked.isEmpty then s.ember else e.progressAt }

theorem sendNow_of_path {s : State} {d n : Nat} {e : SendCh} {sp : SentPkt} (own : ownDst s sp.pkt = false) (path : channelPath s d e = some n) :
    sendNow s d e sp = emitOn (modFab s d (fun f => putChannel f (afterSending s e sp n))) d n (numbered e sp.pkt) := by
  have own' : ownDst s (numbered e sp.pkt) = false := own
  rw [numbered] at own'
  simp only [sendNow, own', path, Bool.false_eq_true, if_false]
  rfl

/-- The first packet of a die goes out on a channel of its own (R351, R354). -/
theorem sendSeq_leaves {s : State} {d n l : Nat} {p : Packet} (job : Option Nat) (who : Option (Nat × Nat)) (none : (getFab s d).send = [])
    (leaves : Leaves s d { p with src := s.pkgId, sstk := d, cseq := 0, openp := true } n l) :
    ∃ e, sendSeq s d p job who = putSent (modFab s d (fun f => putChannel f e)) l
        { p with src := s.pkgId, sstk := d, cseq := 0, openp := true, path := n } := by
  obtain ⟨own, best, route, room, idle⟩ := leaves
  let sp : SentPkt := { pkt := { p with src := s.pkgId, sstk := d }, resent := 0, job := job, who := who }
  let e := newChannel (getFab s d) sp.pkt s.ember
  have joins : sendSeq s d p job who = sendNow s d e sp := by
    simp only [sendSeq, joinChannel, none, List.find?_nil, List.length_nil]
    rfl
  have kept : SamePaths s (modFab s d (fun f => putChannel f (afterSending s e sp n))) d := .modFab s d fun _ => ⟨rfl, rfl⟩
  have path : channelPath s d e = some n := best
  refine ⟨afterSending s e sp n, ?_⟩
  rw [joins, sendNow_of_path own path]
  exact emitOn_leaves ((kept.routePath ..).trans route) ((kept.linkRoom ..).trans room) (kept.held.trans idle)

end Sys2Proof.Machine
end

section
/-!
PROOF. The registers of the fabric that act: the package's identity, marks, transfers (O46).
-/
namespace Sys2Proof.Machine
open Sys2Proof.Claim

/-- A write without a cause of rejection has its effect where the block takes writes. -/
theorem checkWrite_accepted {s : State} {base : Nat} {off : Nat} {l : List (Bool × Nat)} {f : State → State} (t : TakesWrites s base)
    (ok : l.find? (·.1) = none) : checkWrite s base off l f = f s :=
  let ⟨p, bt, served⟩ := t
  checkWrite_taken p bt served ok

/-- The first cause of rejection gives the code that is recorded. -/
theorem checkWrite_first {s : State} {base : Nat} {off code : Nat} {l : List (Bool × Nat)} {f : State → State} (t : TakesWrites s base)
    (bad : l.find? (·.1) = some (true, code)) : checkWrite s base off l f = recordErr s base off code :=
  let ⟨p, bt, served⟩ := t
  checkWrite_rejected p bt served bad

section
variable {s : State} {d : Nat} {v : Word}

/-! ### FAB[0].ID (R373) -/

theorem exec_pkgidWrite (t : TakesWrites s (fabBase 0)) (reserved : bits v.toNat 63 17 = 0) (value : bits v.toNat 15 0 ≠ 0xFFFF)
    (down : ∀ l, l < 48 → (getLink s l).state = 0 ∨ (getLink s l).state = 6) :
    exec (.pkgidWrite v) s = .next { s with pkgId := v.setWidth 16, pkgSet := true } := by
  have none : (List.range 48).any (fun l => decide ((getLink s l).state ≠ 0 ∧ (getLink s l).state ≠ 6)) = false := by
    rw [List.any_eq_false]
    intro l hl
    rcases down l (List.mem_range.mp hl) with h | h <;> simp [h]
  exact congrArg _ (checkWrite_accepted t (by simp only [List.find?, reserved, value, none]; rfl))

theorem exec_pkgidWrite_reserved (t : TakesWrites s (fabBase 0)) (reserved : bits v.toNat 63 17 ≠ 0) :
    exec (.pkgidWrite v) s = .next (recordErr s (fabBase 0) 0 eArgReserved) :=
  congrArg _ (checkWrite_first t (by simp [reserved]))

theorem exec_pkgidWrite_range (t : TakesWrites s (fabBase 0)) (reserved : bits v.toNat 63 17 = 0) (value : bits v.toNat 15 0 = 0xFFFF) :
    exec (.pkgidWrite v) s = .next (recordErr s (fabBase 0) 0 eArgRange) :=
  congrArg _ (checkWrite_first t (by simp [reserved, value]))

/-! ### MARKTX, MARKRX (R367) -/

theorem getFab_withRdata (s : State) (w : Word) (d : Nat) : getFab { s with rdata := w } d = getFab s d := rfl

theorem readMark_nil (none : (getFab s d).marks = []) : readMark s d = { s with rdata := 0 } := by
  unfold readMark
  dsimp only
  rw [none]

/-- The oldest mark has left the queue, and its time stands in MARKTIME (R367). -/
def markTaken (s : State) (d : Nat) (rest : List (BitVec 16 × BitVec 32 × Nat)) (time : Nat) : State :=
  modFab s d (fun f => { f with marks := rest, markTime := time })

theorem markTaken_mem (s : State) (d : Nat) (rest : List (BitVec 16 × BitVec 32 × Nat)) (time : Nat) : (markTaken s d rest time).mem = s.mem := rfl

/-- The oldest mark is read with bit 32 set (R367). -/
theorem readMark_cons {src : BitVec 16} {val : BitVec 32} {time : Nat} {rest : List (BitVec 16 × BitVec 32 × Nat)}
    (marks : (getFab s d).marks = (src, val, time) :: rest) :
    readMark s d = { markTaken s d rest time with
      rdata := BitVec.ofNat 64 (fieldAt 48 src.toNat + fieldAt 32 1 + val.toNat) } := by
  unfold readMark
  dsimp only
  rw [marks]
  rfl

theorem readMark_fab {src : BitVec 16} {val : BitVec 32} {time : Nat} {rest : List (BitVec 16 × BitVec 32 × Nat)}
    (marks : (getFab s d).marks = (src, val, time) :: rest) :
    getFab (readMark s d) d = { getFab s d with marks := rest, markTime := time } := by
  rw [readMark_cons marks]
  exact (getFab_withRdata ..).trans (getFab_setFab ..)

section
variable (store : storeOk d = true) (t : TakesWrites s (fabBase d))
include store t

theorem exec_markSend (reserved : bits v.toNat 47 32 = 0) :
    exec (.markSend d v) s = .next (sendSeq s d
      { Packet.blank .mark (BitVec.ofNat 16 (v.toNat / 2 ^ 48)) with w3 := BitVec.ofNat 64 (v.toNat % 2 ^ 32) } none none) := by
  change onUnit (storeOk d) _ = _
  rw [store, onUnit_true]
  exact congrArg _ (checkWrite_accepted t (by simp [reserved]))

theorem exec_markReceiveRead : exec (.markReceiveRead d) s = .next (readMark s d) := by
  obtain ⟨power, boot, -⟩ := t
  change onUnit (storeOk d) _ = _
  simp [store, power, boot]

/-! ### XFER (R348) -/

/-- The transfer that FAB[d].XFER asks for is noted, with the channels to the region's home. -/
def xferNoted (s : State) (d : Nat) (v : Word) : State :=
  let home := BitVec.ofNat 16 (v.toNat / 2 ^ 48)
  modFab s d (fun f =>
    { f with xfer := some (home, bits v.toNat 47 40, BitVec.ofNat 16 (bits v.toNat 39 24)), xferBusy := true, xferSent := false
             xferWait := channelsTo s home })

theorem exec_regionTransfer (reserved : bits v.toNat 23 0 = 0) (region : bits v.toNat 47 40 ≠ 255) (idle : (getFab s d).xferBusy = false) :
    exec (.regionTransfer d v) s = .next (tryXfer (xferNoted s d v) d) := by
  change onUnit (storeOk d) _ = _
  rw [store, onUnit_true]
  exact congrArg _ (checkWrite_accepted t (by simp [reserved, region, idle]))

theorem exec_regionTransfer_busy (reserved : bits v.toNat 23 0 = 0) (region : bits v.toNat 47 40 ≠ 255) (busy : (getFab s d).xferBusy = true) :
    exec (.regionTransfer d v) s = .next (recordErr s (fabBase d) 0x40 eBadState) := by
  change onUnit (storeOk d) _ = _
  rw [store, onUnit_true]
  exact congrArg _ (checkWrite_first t (by simp [reserved, region, busy]))

end

/-- With no channel open there is none whose packets a transfer waits for. -/
theorem channelsTo_of_noneOpen (home : BitVec 16) (none : ∀ k, k < 4 → (getFab s k).send = []) : channelsTo s home = [] :=
  List.flatMap_eq_nil_iff.mpr fun d hd => by simp [none d (List.mem_range.mp hd)]

/-- The transfer has sent its XFER. -/
def xferSet (s : State) (d : Nat) : State := modFab s d (fun f => { f with xferSent := true })

/-- The XFER of a transfer (R348, R350). -/
def xferPacket (home : BitVec 16) (region : Nat) (owner : BitVec 16) : Packet :=
  { Packet.blank .xfer home with region := region, dstk := region % 4, w3 := BitVec.ofNat 64 owner.toNat }

/-- A transfer that waits for no channel sends its XFER to the region's home (R348 step 2). -/
theorem tryXfer_ready {home owner : BitVec 16} {region : Nat} (noted : (getFab s d).xfer = some (home, region, owner))
    (busy : (getFab s d).xferBusy = true) (unsent : (getFab s d).xferSent = false) (quiet : (getFab s d).xferWait = []) :
    tryXfer s d = sendSeq (xferSet s d) d (xferPacket home region owner) none none := by
  have ready : ((getFab s d).xferBusy && !(getFab s d).xferSent && xferReady s (getFab s d)) = true := by simp [busy, unsent, xferReady, quiet]
  unfold tryXfer
  dsimp only
  split
  next found =>
    obtain ⟨rfl, rfl, rfl⟩ := Option.some.inj (noted.symm.trans found)
    exact if_pos ready
  next none => exact absurd (noted.symm.trans none) (by simp)

/-- The XFER leaves at once where the home has a path (R348, R354). -/
theorem tryXfer_leaves {m l : Nat} (store : d < 4) (none : ∀ k, k < 4 → (getFab s k).send = [])
    (leaves : Leaves s d { xferPacket (BitVec.ofNat 16 (v.toNat / 2 ^ 48)) (bits v.toNat 47 40) (BitVec.ofNat 16 (bits v.toNat 39 24)) with
      src := s.pkgId, sstk := d, cseq := 0, openp := true } m l) :
    let u := tryXfer (xferNoted s d v) d
    mget [] u.sent l = { xferPacket (BitVec.ofNat 16 (v.toNat / 2 ^ 48)) (bits v.toNat 47 40) (BitVec.ofNat 16 (bits v.toNat 39 24)) with
      src := s.pkgId, sstk := d, cseq := 0, openp := true, path := m } :: mget [] s.sent l ∧
      (getFab u d).xferBusy = true ∧ (getFab u d).xferSent = true ∧ u.mem = s.mem := by
  have noted : getFab (xferNoted s d v) d = { getFab s d with
      xfer := some (BitVec.ofNat 16 (v.toNat / 2 ^ 48), bits v.toNat 47 40, BitVec.ofNat 16 (bits v.toNat 39 24)), xferBusy := true
      xferSent := false, xferWait := [] } := by
    rw [xferNoted, getFab_modFab_if, if_pos rfl, channelsTo_of_noneOpen _ none]
  have set : getFab (xferSet (xferNoted s d v) d) d = { getFab (xferNoted s d v) d with xferSent := true } := by
    rw [xferSet, getFab_modFab_if, if_pos rfl]
  have asked : SamePaths s (xferNoted s d v) d := by
    rw [xferNoted]
    exact .modFab s d fun _ => ⟨rfl, rfl⟩
  have sending : SamePaths (xferNoted s d v) (xferSet (xferNoted s d v) d) d := by
    rw [xferSet]
    exact .modFab _ d fun _ => ⟨rfl, rfl⟩
  have same : SamePaths s (xferSet (xferNoted s d v) d) d := asked.trans sending
  have unopened : (getFab (xferSet (xferNoted s d v) d) d).send = [] := by
    rw [set, noted]
    exact none d store
  obtain ⟨e, sent⟩ := sendSeq_leaves (s := xferSet (xferNoted s d v) d) (p := xferPacket _ _ _) Option.none Option.none unopened (same.leaves leaves)
  intro u
  have eq : u = _ := (tryXfer_ready (by rw [noted]) (by rw [noted]) (by rw [noted]) (by rw [noted])).trans sent
  have fab : getFab u d = putChannel (getFab (xferSet (xferNoted s d v) d) d) e := by
    rw [eq, getFab_of_fabs (putSent_fabs ..), getFab_modFab_if, if_pos rfl]
  refine ⟨?_, ?_, ?_, ?_⟩
  · rw [eq, putSent_sent, mget_mset_same]
    simp only [xferSet, xferNoted, modFab_eq, setFab_sent, setFab_pkgId]
  · simp only [fab, putChannel, set, noted]
  · simp only [fab, putChannel, set]
  · simp only [eq, putSent_mem, xferSet, xferNoted, modFab_eq, setFab_mem]

end

/-- Settles O46: a register takes a value that no check refuses; a MARK and an XFER are the first packets of their channels. -/
theorem fabricRegisterWrites : Obligations.FabricRegisterWrites := by
  intro s d v store t
  have owner : (BitVec.ofNat 16 (bits v.toNat 39 24)).toNat = bits v.toNat 39 24 := Nat.mod_eq_of_lt (Nat.mod_lt _ (by decide))
  have die : d < 4 := by simpa [storeOk] using store
  refine ⟨?identity, ?identityReserved, ?identityRange, fun reserved => exec_markSend store t reserved, ?markRead, ?markLeaves, ?xferLeaves, ?noMark,
    fun reserved region idle => exec_regionTransfer store t reserved region idle,
    fun reserved region busy => exec_regionTransfer_busy store t reserved region busy⟩
  case identity =>
    rintro rfl
    exact exec_pkgidWrite t
  case identityReserved =>
    rintro rfl
    exact exec_pkgidWrite_reserved t
  case identityRange =>
    rintro rfl
    exact exec_pkgidWrite_range t
  case markRead =>
    intro src val at_tick rest marks
    refine ⟨_, exec_markReceiveRead store t, ?_⟩
    have fab := readMark_fab marks
    exact ⟨by rw [readMark_cons marks], congrArg Fab.marks fab, congrArg Fab.markTime fab, by rw [readMark_cons marks, markTaken_mem]⟩
  case markLeaves =>
    intro m l reserved none q leaves
    obtain ⟨e, sent⟩ := sendSeq_leaves (s := s) (d := d)
      (p := { Packet.blank .mark (BitVec.ofNat 16 (v.toNat / 2 ^ 48)) with w3 := BitVec.ofNat 64 (v.toNat % 2 ^ 32) }) Option.none Option.none none leaves
    refine ⟨_, exec_markSend store t reserved, ?_, ?_⟩
    · rw [sent, putSent_sent, mget_mset_same]
      rfl
    · rw [sent, putSent_mem]
      rfl
  case xferLeaves =>
    intro m l reserved region idle none q leaves
    have named : q = { xferPacket (BitVec.ofNat 16 (v.toNat / 2 ^ 48)) (bits v.toNat 47 40) (BitVec.ofNat 16 (bits v.toNat 39 24)) with
        src := s.pkgId, sstk := d, cseq := 0, openp := true } := by
      simp only [q, xferPacket, owner]
      rfl
    rw [named] at leaves ⊢
    exact ⟨_, exec_regionTransfer store t reserved region idle, tryXfer_leaves die none leaves⟩
  case noMark =>
    intro marks
    rw [exec_markReceiveRead store t, readMark_nil marks]

end Sys2Proof.Machine
end

section
/-!
PROOF. What packets do at their target (O45).
-/
namespace Sys2Proof.Machine
open Sys2Proof.Claim

section
variable {s : State} {d : Nat} {p : Packet}

/-! ### The handler of a type -/

theorem deliver1_rd (typ : p.typ = .rd) : deliver1 s d p = deliverRd s d p := by simp only [deliver1, typ]
theorem deliver1_wr (typ : p.typ = .wr) : deliver1 s d p = deliverWr s d p := by simp only [deliver1, typ]
theorem deliver1_atom (typ : p.typ = .atom) (cls : p.cls ≠ 3) : deliver1 s d p = deliverAtom s d p := by simp only [deliver1, typ, if_neg cls]
theorem deliver1_arrive (typ : p.typ = .arrive) : deliver1 s d p = some (deliverArrive s d p) := by simp only [deliver1, typ]
theorem deliver1_mark (typ : p.typ = .mark) : deliver1 s d p = some (deliverMark s d p) := by simp only [deliver1, typ]
theorem deliver1_xfer (typ : p.typ = .xfer) : deliver1 s d p = some (deliverXfer s d p) := by simp only [deliver1, typ]
theorem deliver1_crd (typ : p.typ = .crd) : deliver1 s d p = some (deliverCrd s d p) := by simp only [deliver1, typ]
theorem deliver1_crdx (typ : p.typ = .crdx) : deliver1 s d p = some (deliverCrd s d p) := by simp only [deliver1, typ]
theorem deliver1_cdata (typ : p.typ = .cdata) : deliver1 s d p = some (deliverCdata s d p) := by simp only [deliver1, typ]
theorem deliver1_crecall (typ : p.typ = .crecall) : deliver1 s d p = some (deliverCrecall s d p) := by simp only [deliver1, typ]
theorem deliver1_crack (typ : p.typ = .crack) : deliver1 s d p = deliverCrack s d p := by simp only [deliver1, typ]
theorem deliver1_cwb (typ : p.typ = .cwb) : deliver1 s d p = deliverCwb s d p := by simp only [deliver1, typ]

/-! ### Answers -/

theorem emitFrame_answer (s : State) (d : Nat) (p : Packet) (typ : PType) (code : Nat) (data : List Byte) :
    EmitFrame s (answer s d p typ code data) := emitFrame_emit ..

/-! ### RD, WR (R350) -/

theorem deliverRd_ok {j va : Nat} {ps : List Piece} (passed : checkInbound s d p (pktBytes p) .rd = .ok j va ps) :
    deliverRd s d p = some (answer (touchInbound s d j va (pktBytes p) .rd ps) d p .rdrsp 0 (readPieces s ps)) := by
  rw [deliverRd, passed]

theorem deliverRd_bad {c : Nat} (refused : checkInbound s d p (pktBytes p) .rd = .bad c) :
    deliverRd s d p = some (answer (noteReject s d p (pktBytes p) c) d p .rdrsp c []) := by
  rw [deliverRd, refused]

/-- A WR whose word 3 names a value arrives on its object after its bytes have been written. -/
theorem deliverWr_ok {j va : Nat} {ps : List Piece} (passed : checkInbound s d p (pktBytes p) .wr = .ok j va ps) :
    deliverWr s d p =
      some (if p.w3.toNat / 4294967296 = 0 then writePieces (touchInbound s d j va (pktBytes p) .wr ps) ps (p.payload.take (pktBytes p))
        else postArrive (writePieces (touchInbound s d j va (pktBytes p) .wr ps) ps (p.payload.take (pktBytes p))) (p.w3.toNat / 16384 % 262144)
          (BitVec.ofNat 32 (p.w3.toNat / 4294967296))) := by
  rw [deliverWr, passed]

theorem deliverWr_bad {c : Nat} (refused : checkInbound s d p (pktBytes p) .wr = .bad c) :
    deliverWr s d p = some (answerStatus (noteReject s d p (pktBytes p) c) d p c) := by
  rw [deliverWr, refused]

/-! ### ARRIVE, MARK, XFER (R346, R348, R367) -/

theorem deliverArrive_accepted (accepted : arriveCode s p = none) :
    deliverArrive s d p = postArrive s (p.w3.toNat % 262144) (BitVec.ofNat 32 (p.w3.toNat / 4294967296)) := by
  rw [deliverArrive, accepted]

/-- The queue of marks holds the last 64. -/
theorem deliverMark_marks :
    (getFab (deliverMark s d p) d).marks =
      ((getFab s d).marks ++ [(p.src, p.w3.setWidth 32, s.ember)]).drop ((getFab s d).marks.length - 63) := by
  rw [deliverMark, getFab_modFab_if, if_pos rfl]
  simp

theorem deliverMark_mem : (deliverMark s d p).mem = s.mem := rfl

theorem deliverXfer_fromOwner (fabric : p.region ≠ 255) (valid : (getRegion s p.region).valid = true) (mode : (getRegion s p.region).mode ≠ 3)
    (owner : p.src = (getRegion s p.region).owner) :
    deliverXfer s d p = setRegion s p.region { getRegion s p.region with owner := p.w3.setWidth 16 } := by
  unfold deliverXfer
  dsimp only
  rw [if_neg (by simp [fabric, valid]), if_neg (not_not.mpr owner), if_neg mode]

theorem deliverXfer_fromOther (fabric : p.region ≠ 255) (valid : (getRegion s p.region).valid = true) (other : p.src ≠ (getRegion s p.region).owner) :
    deliverXfer s d p = answerStatus s d p eNotOwner := by
  unfold deliverXfer
  dsimp only
  rw [if_neg (by simp [fabric, valid]), if_pos other]

/-! ### Copies of an ATOM (R361) -/

/-- A copy of an ATOM has been counted. -/
def copyCounted (s : State) (d : Nat) : State := modFab s d (fun f => { f with dupatom := wrap32 (f.dupatom + 1) })

theorem deliverAtom_kept {k : Kept} (kept : (getFab s d).kept.find? (keptKey p) = some k) :
    deliverAtom s d p = some (answer (copyCounted s d) d p .atomrsp k.code (leBytes 8 k.old.toNat)) := by
  rw [deliverAtom, kept]
  rfl

end

/-- Settles O45: each clause is one way through the packet's handler; what is sent in answer leaves memory and the counters. -/
theorem packetEffects : Obligations.PacketEffects := by
  intro s d p
  refine ⟨fun typ => ?rd, fun typ => ?wr, fun typ accepted => ?arrive, fun typ few => ?mark, fun typ full => ?markFull,
    fun typ fabric valid mode owner => ?xfer, fun typ fabric valid other => ?notOwner, fun k typ cls kept => ?copy⟩
  case rd =>
    rw [deliver1_rd typ]
    exact ⟨fun _ _ _ => deliverRd_ok, fun _ => deliverRd_bad⟩
  case wr =>
    rw [deliver1_wr typ]
    exact ⟨fun _ _ _ passed none => (deliverWr_ok passed).trans (by rw [if_pos none]), fun _ => deliverWr_bad⟩
  case arrive =>
    refine ⟨_, deliver1_arrive typ, ?_⟩
    rw [deliverArrive_accepted accepted]
    exact ⟨getPort_setPort .., fun o other => getPort_setPort_ne _ _ _ _ other, rfl, rfl⟩
  case mark =>
    refine ⟨_, deliver1_mark typ, ?_, deliverMark_mem⟩
    rw [deliverMark_marks, Nat.sub_eq_zero_of_le (by omega), List.drop_zero]
  case markFull =>
    refine ⟨_, deliver1_mark typ, ?_, deliverMark_mem⟩
    rw [deliverMark_marks, full, List.drop_append_of_le_length (by omega)]
  case xfer =>
    refine ⟨_, deliver1_xfer typ, ?_⟩
    rw [deliverXfer_fromOwner fabric valid mode owner]
    exact ⟨getRegion_setRegion .., rfl⟩
  case notOwner => rw [deliver1_xfer typ, deliverXfer_fromOther fabric valid other]
  case copy =>
    have sent := emitFrame_answer (copyCounted s d) d p .atomrsp k.code (leBytes 8 k.old.toNat)
    refine ⟨_, (deliver1_atom typ cls).trans (deliverAtom_kept kept), sent.keeps State.mem fun _ _ _ _ => rfl,
      sent.keeps State.stores fun _ _ _ _ => rfl, ?_⟩
    rw [sent.fab d Fab.dupatom fun _ _ _ => rfl, copyCounted, getFab_modFab_if, if_pos rfl]

end Sys2Proof.Machine
end

section
/-!
PROOF. Frames of the fabric: a job fault leaves links and fabric units, sequenced channels write their own fields, ticks leave the fabric alone.
-/
namespace Sys2Proof.Machine
open Sys2Proof.Claim

/-! ### What a job fault leaves of the fabric (R408) -/

/-- Links, fabric units, the ember counter and event sources are the same: so a job fault leaves them until its event is sampled. -/
structure FabricKept (s u : State) : Prop where
  fabs : u.fabs = s.fabs
  links : u.links = s.links
  ember : u.ember = s.ember
  evs : u.evs = s.evs

theorem FabricKept.refl (s : State) : FabricKept s s := ⟨rfl, rfl, rfl, rfl⟩

theorem FabricKept.trans {s t u : State} (h : FabricKept s t) (h' : FabricKept t u) : FabricKept s u :=
  ⟨h'.fabs.trans h.fabs, h'.links.trans h.links, h'.ember.trans h.ember, h'.evs.trans h.evs⟩

theorem FabricKept.foldl {α : Type} {f : State → α → State} (step : ∀ s a, FabricKept s (f s a)) (l : List α) (s : State) :
    FabricKept s (l.foldl f s) :=
  List.foldlRecOn l f (.refl s) fun _ h a _ => h.trans (step _ a)

theorem fabricKept_releaseFrame (s : State) (f : Nat) : FabricKept s (releaseFrame s f) := by
  unfold releaseFrame
  dsimp only
  repeat' split
  all_goals exact ⟨rfl, rfl, rfl, rfl⟩

theorem fabricKept_releaseFrames (s : State) (l : List Nat) : FabricKept s (releaseFrames s l) := .foldl fabricKept_releaseFrame l s

theorem fabricKept_invalidate (s : State) (j d : Nat) (vpns : List Nat) : FabricKept s (invalidate s j d vpns) := ⟨rfl, rfl, rfl, rfl⟩

theorem fabricKept_modJob (s : State) (j : Nat) (f : Job → Job) : FabricKept s (modJob s j f) := ⟨rfl, rfl, rfl, rfl⟩

theorem fabricKept_abandonItem (s : State) (j i : Nat) : FabricKept s (abandonItem s j i) := by
  unfold abandonItem
  dsimp only
  split
  · exact .refl s
  · split
    · exact .refl s
    · exact ((fabricKept_releaseFrames ..).trans (fabricKept_invalidate ..)).trans (fabricKept_modJob ..)

theorem fabricKept_stopEngines (s : State) (j : Nat) : FabricKept s (stopEngines s j) := ⟨rfl, rfl, rfl, rfl⟩

theorem fabricKept_dropHolds (s : State) (j : Nat) : FabricKept s (dropHolds s j) := by
  have freed : FabricKept s ((heldPages (getJob s j)).foldl (fun s e => releaseFrames (invalidate s j e.1 (e.2.map (·.1))) (mapFrames e.2)) s) :=
    .foldl (fun t _ => (fabricKept_invalidate t ..).trans (fabricKept_releaseFrames ..)) _ s
  have runs : ∀ t : State, FabricKept t { t with exportRuns := t.exportRuns.filter (fun e => decide (e.job ≠ j)) } := fun _ => ⟨rfl, rfl, rfl, rfl⟩
  rw [dropHolds]
  exact (freed.trans (runs _)).trans (fabricKept_modJob ..)

theorem fabricKept_jobCleared (s : State) (j : Nat) : FabricKept s (jobCleared s j) := by
  have abandoned : FabricKept s ((getJob s j).items.foldl (fun s e => abandonItem s j e.1) s) :=
    .foldl (fun t (e : Nat × Item) => fabricKept_abandonItem t j e.1) _ s
  exact (abandoned.trans (fabricKept_stopEngines ..)).trans (fabricKept_dropHolds ..)

theorem fabricKept_markFaulted (s : State) (j code : Nat) : FabricKept s (markFaulted s j code) := by
  constructor <;> simp [markFaulted, restartIdle]

/-! ### What changes of links when channels move -/

/-- Time stands still, no event that is pending is lost, and of every link only its credits and its replay buffer differ. -/
structure LinkFrame (s u : State) : Prop where
  ember : u.ember = s.ember
  pend : ∀ n, (getEv s n).pend = true → (getEv u n).pend = true
  links : ∀ l, ∃ credits txNext replay, getLink u l = { getLink s l with credits := credits, txNext := txNext, replay := replay }

theorem LinkFrame.refl (s : State) : LinkFrame s s := ⟨rfl, fun _ h => h, fun _ => ⟨_, _, _, rfl⟩⟩

theorem LinkFrame.trans {s t u : State} (h : LinkFrame s t) (h' : LinkFrame t u) : LinkFrame s u where
  ember := h'.ember.trans h.ember
  pend n on := h'.pend n (h.pend n on)
  links l := by
    obtain ⟨_, _, _, eq⟩ := h.links l
    obtain ⟨_, _, _, eq'⟩ := h'.links l
    exact ⟨_, _, _, by rw [eq', eq]⟩

theorem LinkFrame.foldl {α : Type} {f : State → α → State} (step : ∀ s a, LinkFrame s (f s a)) (l : List α) (s : State) : LinkFrame s (l.foldl f s) :=
  List.foldlRecOn l f (.refl s) fun _ h a _ => h.trans (step _ a)

/-- A field of a link that its transmitter does not write. -/
theorem LinkFrame.link {α : Type} {s u : State} (h : LinkFrame s u) (l : Nat) (g : Link → α)
    (same : ∀ x a b c, g { x with credits := a, txNext := b, replay := c } = g x) : g (getLink u l) = g (getLink s l) := by
  obtain ⟨_, _, _, eq⟩ := h.links l
  rw [eq, same]

theorem linkFrame_of_eq {s u : State} (ember : u.ember = s.ember) (evs : u.evs = s.evs) (links : u.links = s.links) : LinkFrame s u :=
  ⟨ember, fun n h => by rwa [getEv, evs], fun l => ⟨_, _, _, getLink_of_links links l⟩⟩

/-- A level source that is sampled loses no event that is pending (R426). -/
theorem sampleLevel_pend (s : State) (n k : Nat) (on : (getEv s k).pend = true) : (getEv (sampleLevel s n) k).pend = true := by
  have sampled : ∀ e : EvSrc, e.pend = ((getEv s n).pend || evInput s n) → (getEv (setEv s n e) k).pend = true := by
    intro e he
    by_cases h : k = n
    · subst h
      rw [getEv_setEv, he, on, Bool.true_or]
    · rwa [getEv_setEv_ne _ _ _ _ h]
  unfold sampleLevel
  dsimp only
  split
  · exact on
  · split
    · exact sampled _ rfl
    · exact sampled _ rfl

/-- What a job fault does to the fabric: nothing but to raise its own event. -/
theorem jobFault_fabric (s : State) (j code : Nat) : (jobFault s j code).fabs = s.fabs ∧ (jobFault s j code).links = s.links ∧
    LinkFrame s (jobFault s j code) := by
  by_cases sound : (getJob s j).loaded = true ∧ (getJob s j).faulted = false
  · have marked := (fabricKept_jobCleared s j).trans (fabricKept_markFaulted _ j code)
    rw [jobFault_of_loaded code sound.1 sound.2]
    generalize markFaulted (jobCleared s j) j code = t at *
    obtain ⟨_, _, _, eq⟩ := failContext_frame t j code
    obtain ⟨queues, failed⟩ := failQueues_frame code (ctxQueues j) t
    refine ⟨by rw [eq, marked.fabs], by rw [eq, marked.links], by rw [eq]; exact marked.ember, fun n on => ?_, fun l => ?_⟩
    · rw [failContext, failed]
      refine sampleLevel_pend _ _ n ?_
      change (mget EvSrc.reset t.evs n).pend = true
      rwa [marked.evs]
    · exact ⟨_, _, _, getLink_of_links (by rw [eq, marked.links]) l⟩
  · have idle : jobFault s j code = s := by rw [jobFault, if_pos (by simpa [imp_iff_not_or] using sound)]
    rw [idle]
    exact ⟨rfl, rfl, .refl s⟩

/-! ### Sequenced channels (R351, R352, R356) -/

/-- Of every fabric unit, too, only its sending channels and what waits at its router differ. -/
structure SeqFrame (s u : State) : Prop extends LinkFrame s u where
  fabs : ∀ d, ∃ send chanWait held nextId, getFab u d = { getFab s d with send := send, chanWait := chanWait, held := held, nextId := nextId }

theorem SeqFrame.refl (s : State) : SeqFrame s s := ⟨.refl s, fun _ => ⟨_, _, _, _, rfl⟩⟩

theorem SeqFrame.trans {s t u : State} (h : SeqFrame s t) (h' : SeqFrame t u) : SeqFrame s u where
  toLinkFrame := h.toLinkFrame.trans h'.toLinkFrame
  fabs d := by
    obtain ⟨_, _, _, _, eq⟩ := h.fabs d
    obtain ⟨_, _, _, _, eq'⟩ := h'.fabs d
    exact ⟨_, _, _, _, by rw [eq', eq]⟩

theorem SeqFrame.foldl {α : Type} {f : State → α → State} (step : ∀ s a, SeqFrame s (f s a)) (l : List α) (s : State) : SeqFrame s (l.foldl f s) :=
  List.foldlRecOn l f (.refl s) fun _ h a _ => h.trans (step _ a)

/-- A field of a fabric unit that has nothing to do with sending. -/
theorem SeqFrame.fab {α : Type} {s u : State} (h : SeqFrame s u) (d : Nat) (g : Fab → α)
    (same : ∀ x a b c e, g { x with send := a, chanWait := b, held := c, nextId := e } = g x) : g (getFab u d) = g (getFab s d) := by
  obtain ⟨_, _, _, _, eq⟩ := h.fabs d
  rw [eq, same]

theorem EmitFrame.linkFrame {s u : State} (h : EmitFrame s u) : LinkFrame s u where
  ember := h.keeps State.ember fun _ _ _ _ => rfl
  pend n on := by rwa [getEv, h.keeps State.evs fun _ _ _ _ => rfl]
  links := h.links

theorem EmitFrame.seqFrame {s u : State} (h : EmitFrame s u) : SeqFrame s u where
  toLinkFrame := h.linkFrame
  fabs d := by
    obtain ⟨_, _, eq⟩ := h.fabs d
    exact ⟨_, _, _, _, eq⟩

theorem seqFrame_jobFault (s : State) (j code : Nat) : SeqFrame s (jobFault s j code) := by
  obtain ⟨fabs, -, frame⟩ := jobFault_fabric s j code
  exact ⟨frame, fun d => ⟨_, _, _, _, getFab_of_fabs fabs d⟩⟩

/-- A fabric unit changed in its sending channels only. -/
theorem seqFrame_modFab (s : State) (d : Nat) {f : Fab → Fab}
    (keeps : ∀ x, ∃ send chanWait nextId, f x = { x with send := send, chanWait := chanWait, nextId := nextId }) : SeqFrame s (modFab s d f) where
  toLinkFrame := linkFrame_of_eq rfl rfl rfl
  fabs k := by
    rw [getFab_modFab_if]
    split
    · obtain ⟨_, _, _, eq⟩ := keeps (getFab s k)
      exact ⟨_, _, _, _, eq⟩
    · exact ⟨_, _, _, _, rfl⟩

theorem seqFrame_putChannel (s : State) (d : Nat) (e : SendCh) : SeqFrame s (modFab s d (fun f => putChannel f e)) :=
  seqFrame_modFab s d fun _ => ⟨_, _, _, rfl⟩

theorem seqFrame_endChannel (s : State) (d id : Nat) : SeqFrame s (endChannel s d id) := by
  unfold endChannel
  split
  · exact .refl s
  · refine SeqFrame.trans (seqFrame_modFab s d fun _ => ⟨_, _, _, rfl⟩) (.foldl (fun t q => ?_) _ _)
    split
    · exact seqFrame_jobFault ..
    · exact .refl t

theorem seqFrame_sendNow (s : State) (d : Nat) (e : SendCh) (sp : SentPkt) : SeqFrame s (sendNow s d e sp) := by
  unfold sendNow
  dsimp only
  split
  · split
    · exact (seqFrame_putChannel ..).trans (emitFrame_putSent ..).seqFrame
    · exact (seqFrame_putChannel ..).trans (emitFrame_emitOn ..).seqFrame
  · exact (seqFrame_putChannel ..).trans (seqFrame_endChannel ..)

theorem seqFrame_joinChannel (s : State) (d : Nat) (sp : SentPkt) : SeqFrame s (joinChannel s d sp) := by
  unfold joinChannel
  dsimp only
  split
  · next e _ =>
    split
    · exact seqFrame_putChannel s d { e with waitQ := e.waitQ ++ [sp] }
    · exact seqFrame_sendNow ..
  · split
    · exact seqFrame_modFab s d (f := fun f => { f with chanWait := f.chanWait ++ [sp] }) fun _ => ⟨_, _, _, rfl⟩
    · exact seqFrame_sendNow ..

theorem seqFrame_sendSeq (s : State) (d : Nat) (p : Packet) (job : Option Nat) (who : Option (Nat × Nat)) : SeqFrame s (sendSeq s d p job who) :=
  seqFrame_joinChannel ..

theorem seqFrame_serveChannels (s : State) (d : Nat) : SeqFrame s (serveChannels s d) :=
  (seqFrame_modFab s d fun _ => ⟨_, _, _, rfl⟩).trans (.foldl (fun t sp => seqFrame_joinChannel t d sp) _ _)

theorem seqFrame_resendAll (s : State) (d : Nat) (e : SendCh) (path : Option Nat) (count : Bool) : SeqFrame s (resendAll s d e path count) := by
  refine (seqFrame_putChannel ..).trans (.foldl (fun t p => ?_) _ _)
  split
  · exact (emitFrame_putSent ..).seqFrame
  · split
    · exact (emitFrame_emitOn ..).seqFrame
    · exact .refl t

theorem seqFrame_movePaths (s : State) (d : Nat) : SeqFrame s (movePaths s d) := by
  refine SeqFrame.trans (.foldl (fun t e => ?_) _ _) (seqFrame_serveChannels ..)
  split
  · exact .refl t
  · split
    · exact .refl t
    · split
      · exact seqFrame_putChannel ..
      · split
        · exact seqFrame_resendAll ..
        · exact seqFrame_endChannel ..

/-- With no channel open and no packet waiting for one, no link carries a packet when paths are looked at again. -/
theorem movePaths_links {s : State} {d : Nat} (none : (getFab s d).send = [] ∧ (getFab s d).chanWait = []) : (movePaths s d).links = s.links := by
  rw [movePaths, none.1, List.foldl_nil, serveChannels, none.2]
  rfl

/-! ### Ticks -/

/-- The passing of ticks writes the clock, the counters of pavilions and store dies, and the waits that expire (R283, R393, R487). -/
structure TicksPass (s u : State) : Prop where
  only : ∃ ember free pavs objs stores msgs,
    u = { s with ember := ember, free := free, pavs := pavs, objs := objs, stores := stores, waitMsgs := msgs }

theorem TicksPass.refl (s : State) : TicksPass s s := ⟨_, _, _, _, _, _, rfl⟩

theorem TicksPass.trans {s t u : State} (h : TicksPass s t) (h' : TicksPass t u) : TicksPass s u := by
  obtain ⟨_, _, _, _, _, _, rfl⟩ := h
  obtain ⟨_, _, _, _, _, _, rfl⟩ := h'
  exact ⟨_, _, _, _, _, _, rfl⟩

theorem TicksPass.foldl {α : Type} {f : State → α → State} (step : ∀ s a, TicksPass s (f s a)) (l : List α) (s : State) : TicksPass s (l.foldl f s) :=
  List.foldlRecOn l f (.refl s) fun _ h a _ => h.trans (step _ a)

theorem TicksPass.keeps {α : Type} {s u : State} (h : TicksPass s u) (g : State → α)
    (same : ∀ a b c d e f, g { s with ember := a, free := b, pavs := c, objs := d, stores := e, waitMsgs := f } = g s) : g u = g s := by
  obtain ⟨_, _, _, _, _, _, rfl⟩ := h
  exact same ..

theorem ticksPass_countBelv (s : State) (n p : Nat) : TicksPass s (countBelv s n p) := by
  unfold countBelv
  dsimp only
  repeat' split
  all_goals exact ⟨_, _, _, _, _, _, rfl⟩

theorem ticksPass_countHeld (s : State) (d : Nat) : TicksPass s (countHeld s d) := by
  unfold countHeld
  dsimp only
  split
  · exact .refl s
  · exact ⟨_, _, _, _, _, _, rfl⟩

theorem ticksPass_expireObj (s : State) (i : Nat) : TicksPass s (expireObj s i) := by
  rcases expireObj_cases s i with ⟨eq, -⟩ | ⟨eq, -⟩ <;> rw [eq]
  · exact .refl s
  · exact ⟨_, _, _, _, _, _, rfl⟩

theorem ticksPass_advanceTo (s : State) (t : Nat) : TicksPass s (advanceTo s t) := by
  have ticked : ∀ n, TicksPass s { s with ember := s.ember + n } := fun n => ⟨_, _, _, _, _, _, rfl⟩
  unfold advanceTo passTicks expireWaits
  split
  · refine TicksPass.trans ?_ (.foldl ticksPass_expireObj _ _)
    refine TicksPass.trans ?_ (.foldl ticksPass_countHeld _ _)
    refine (ticked (t - s.ember)).trans ?_
    split
    · exact .foldl (ticksPass_countBelv · _) _ _
    · exact .refl _
  · exact .refl s

end Sys2Proof.Machine
end

section
/-!
PROOF. The training of a link (O47): what a change of its state writes, then each command of R343.
-/
namespace Sys2Proof.Machine
open Sys2Proof.Claim

/-! ### A change of state (R343, R356, R371) -/

/-- A link as it enters a state: what had begun to arrive or waited for an acknowledgement is gone, and only a link that is UP has a peer. -/
def Link.entered (x : Link) (st now : Nat) : Link := { x with state := st, since := now, peer := if st = 5 then x.peer else 0xFFFF, rx := [], replay := [] }

/-- The link has entered the state, and its event is pending. -/
def enterLink (s : State) (l st : Nat) : State := raiseEvent (setLink s l ((getLink s l).entered st s.ember)) (160 + l)

section
variable (s : State) (l st : Nat)

theorem getLink_enterLink : getLink (enterLink s l st) l = (getLink s l).entered st s.ember := getLink_setLink ..

theorem getLink_enterLink_ne {k : Nat} (other : k ≠ l) : getLink (enterLink s l st) k = getLink s k := getLink_setLink_ne _ _ _ _ other

theorem enterLink_pend : (getEv (enterLink s l st) (160 + l)).pend = true :=
  congrArg EvSrc.pend (raiseEvent_frame (setLink s l ((getLink s l).entered st s.ember)) (160 + l)).1

/-- Only the link's own record, its event and the Lodge clock change. -/
theorem enterLink_frame : ∃ links evs, enterLink s l st = { s with links := links, evs := evs, lodgeClk := true } := ⟨_, _, rfl⟩

end

/-- A link that neither leaves UP nor enters it does nothing but enter its state. -/
theorem setLinkState_quiet {s : State} {l st : Nat} (other : (getLink s l).state ≠ st) (wasDown : (getLink s l).state ≠ 5) (stays : st ≠ 5) :
    setLinkState s l st = enterLink s l st := by
  simp only [setLinkState, enterLink, Link.entered, if_neg other, if_neg wasDown, if_neg stays]

/-- Packets that wait take a link that comes UP. -/
theorem setLinkState_up {s : State} {l : Nat} (wasDown : (getLink s l).state ≠ 5) :
    setLinkState s l 5 = (List.range 4).foldl releaseHeld (enterLink s l 5) := by
  simp only [setLinkState, enterLink, Link.entered, if_neg wasDown, if_true]

/-- Channels and lines leave a link that goes DOWN from UP (R356, R370). -/
theorem setLinkState_lost {s : State} {l : Nat} (wasUp : (getLink s l).state = 5) :
    setLinkState s l 0 = loseMember ((List.range 4).foldl movePaths (enterLink s l 0)) (getLink s l).peer := by
  have up : ¬ (5 : Nat) = 0 := by decide
  have down : ¬ (0 : Nat) = 5 := by decide
  simp only [setLinkState, enterLink, Link.entered, wasUp, if_neg up, if_neg down, if_true]

/-- Lines of a package that is lost go, and jobs fault, but no link changes (R370). -/
theorem loseMember_fabric (s : State) (peer : BitVec 16) : (loseMember s peer).links = s.links ∧ LinkFrame s (loseMember s peer) := by
  let P : State → Prop := fun t => t.links = s.links ∧ LinkFrame s t
  have fold : ∀ {α : Type} (f : State → α → State) (l : List α) (t : State), P t → (∀ t a, P t → P (f t a)) → P (l.foldl f t) :=
    fun f l t h step => List.foldlRecOn l f h fun t h a _ => step t a h
  have fault : ∀ t j code, P t → P (jobFault t j code) := fun t j code h =>
    ⟨(jobFault_fabric t j code).2.1.trans h.1, h.2.trans (jobFault_fabric t j code).2.2⟩
  have fab : ∀ t d f, P t → P (modFab t d f) := fun t d f h => ⟨h.1, h.2.trans (linkFrame_of_eq rfl rfl rfl)⟩
  change P _
  unfold loseMember
  split
  · exact ⟨rfl, .refl s⟩
  · refine fold _ _ _ (fold _ _ _ (fold _ _ _ ⟨rfl, .refl s⟩ ?regions) ?jobs) fun t d h => fab t d _ h
    case regions =>
      intro t e h
      dsimp only
      split
      · exact fault _ _ _ (fab _ _ _ h)
      · exact h
    case jobs =>
      intro t j h
      split
      · exact fault _ _ _ h
      · exact h

theorem linkFrame_movePaths (s : State) (l : List Nat) : LinkFrame s (l.foldl movePaths s) := .foldl (fun t d => (seqFrame_movePaths t d).toLinkFrame) _ s

/-- With no channel open no link changes when paths are looked at again. -/
theorem movePathsAll_links {s : State} (none : ∀ d, d < 4 → (getFab s d).send = [] ∧ (getFab s d).chanWait = []) (n : Nat) (h : n ≤ 4) :
    ((List.range n).foldl movePaths s).links = s.links ∧
      ∀ d, d < 4 → (getFab ((List.range n).foldl movePaths s) d).send = [] ∧ (getFab ((List.range n).foldl movePaths s) d).chanWait = [] := by
  induction n with
  | zero => exact ⟨rfl, none⟩
  | succ n ih =>
    obtain ⟨links, quiet⟩ := ih (by omega)
    rw [List.range_succ, List.foldl_append, List.foldl_cons, List.foldl_nil]
    generalize (List.range n).foldl movePaths s = t at *
    refine ⟨(movePaths_links (quiet n (by omega))).trans links, fun d hd => ?_⟩
    have moved : movePaths t n = modFab t n (fun f => { f with chanWait := [] }) := by
      rw [movePaths, (quiet n (by omega)).1, List.foldl_nil, serveChannels, (quiet n (by omega)).2, List.foldl_nil]
    rw [moved, getFab_modFab_if]
    split
    · exact ⟨(quiet d hd).1, rfl⟩
    · exact quiet d hd

/-- A link that has left UP is DOWN, whatever its channels then did. -/
theorem setLinkState_lost_spec {s : State} {l : Nat} (wasUp : (getLink s l).state = 5) : LinkFrame (enterLink s l 0) (setLinkState s l 0) := by
  rw [setLinkState_lost wasUp]
  exact (linkFrame_movePaths ..).trans (loseMember_fabric ..).2

theorem setLinkState_lost_links {s : State} {l : Nat} (wasUp : (getLink s l).state = 5)
    (none : ∀ d, d < 4 → (getFab s d).send = [] ∧ (getFab s d).chanWait = []) : (setLinkState s l 0).links = (enterLink s l 0).links := by
  rw [setLinkState_lost wasUp, (loseMember_fabric ..).1]
  have none' : ∀ d, d < 4 → (getFab (enterLink s l 0) d).send = [] ∧ (getFab (enterLink s l 0) d).chanWait = [] := none
  exact (movePathsAll_links none' 4 (Nat.le_refl 4)).1

theorem linkDown_of_active {s : State} {l : Nat} (active : (getLink s l).state ≠ 6) : linkDown s l = setLinkState s l 0 := if_neg active

/-! ### Retirement (R344, R437) -/

/-- A link that is retired carries nothing more. -/
theorem retireLink_of_training {s : State} {l : Nat} (active : (getLink s l).state ≠ 6) (wasDown : (getLink s l).state ≠ 5) :
    retireLink s l = reportOf (modLink (enterLink (journalWrite s 6 l 0) l 6) l (fun x => { x with lanes := 0 })) eLinkRetired l := by
  have same : getLink (journalWrite s 6 l 0) l = getLink s l := rfl
  rw [retireLink, if_neg active]
  dsimp only
  rw [setLinkState_quiet (by rwa [same]) (by rwa [same]) (by decide)]

theorem getLink_retireLink {s : State} {l : Nat} (active : (getLink s l).state ≠ 6) (wasDown : (getLink s l).state ≠ 5) :
    getLink (retireLink s l) l = { (getLink s l).entered 6 s.ember with lanes := 0 } := by
  have set : getLink (retireLink s l) l = { getLink (enterLink (journalWrite s 6 l 0) l 6) l with lanes := 0 } := by
    rw [retireLink_of_training active wasDown]
    exact getLink_setLink ..
  rw [set, getLink_enterLink]
  rfl

end Sys2Proof.Machine
end

section
/-!
PROOF. The commands of a link's training (O47, R343, R344).
-/
namespace Sys2Proof.Machine
open Sys2Proof.Claim

/-! ### The commands -/

section
variable {s : State} {l : Nat} (ok : linkOk l = true)
include ok

theorem exec_linkRetryDelayExpiry (down : (getLink s l).state = 0) (may : mayTrain s l = true) :
    exec (.linkRetryDelayExpiry l) s =
      .next (setLinkState (modLink (advanceTo s ((getLink s l).since + 25000)) l (fun x => { x with retrain := false })) l 1) := by
  change onUnit (linkOk l) _ = _
  rw [ok, onUnit_true, if_pos ⟨down, may⟩]

/-- The entry to TRAIN is counted, with its tick (R437). -/
def trainCounted (s : State) (l : Nat) : State :=
  modLink s l (fun x =>
    { x with trains := satAdd 0xFFFF x.trains 1, trainTimes := s.ember :: x.trainTimes.filter (fun t => decide (s.ember < t + 25000000)) })

theorem exec_linkDetectComplete (detect : (getLink s l).state = 1) (may : mayTrain s l = true) :
    let t := setLinkState (trainCounted s l) l 2
    exec (.linkDetectComplete l) s = .next (if 8 ≤ (getLink t l).trainTimes.length then retireLink t l else t) := by
  change onUnit (linkOk l) _ = _
  rw [ok, onUnit_true, if_pos ⟨detect, may⟩]
  rfl

theorem exec_linkTrainComplete (train : (getLink s l).state = 2) (may : mayTrain s l = true) :
    exec (.linkTrainComplete l) s = .next (setLinkState s l 3) := by
  change onUnit (linkOk l) _ = _
  rw [ok, onUnit_true, if_pos ⟨train, may⟩]

theorem exec_linkAlignComplete (align : (getLink s l).state = 3) (may : mayTrain s l = true) :
    exec (.linkAlignComplete l) s = .next (setLinkState (modLink s l (fun x => { x with laneFails := [] })) l 4) := by
  change onUnit (linkOk l) _ = _
  rw [ok, onUnit_true, if_pos ⟨align, may⟩]

/-- What NEGOTIATE has found of the peer (R344). -/
def negotiated (s : State) (l : Nat) (peer : BitVec 16) (pl : Nat) : State :=
  modLink s l (fun x => { x with peer := peer, peerLink := pl % 64, lanes := lanesUsable x, rxNext := 0, nakSent := false
                                 credits := [512, 512, 512, 512], txNext := 0 })

theorem exec_linkNegotiateComplete_agrees {peer : BitVec 16} (pl : Nat) {rev lanes : Nat} (negotiate : (getLink s l).state = 4)
    (may : mayTrain s l = true) (set : s.pkgSet = true) (other : peer ≠ s.pkgId) (width : lanes = laneWidth (getLink s l)) (revision : rev = 1) :
    exec (.linkNegotiateComplete l peer pl rev lanes true) s =
      .next ((List.range 4).foldl releaseHeld (negotiated (setLinkState s l 5) l peer pl)) := by
  change onUnit (linkOk l) _ = _
  rw [ok, onUnit_true]
  dsimp only
  rw [if_neg (by simp [negotiate, may]), if_neg (by simp [set, other, width, revision])]
  rfl

theorem exec_linkNegotiateComplete_differs {peer : BitVec 16} (pl : Nat) {rev lanes : Nat} {b : Bool} (negotiate : (getLink s l).state = 4)
    (may : mayTrain s l = true)
    (differs : s.pkgSet = false ∨ b = false ∨ peer = s.pkgId ∨ lanes ≠ laneWidth (getLink s l) ∨ rev ≠ 1) :
    exec (.linkNegotiateComplete l peer pl rev lanes b) s = .next (setLinkState s l 0) := by
  change onUnit (linkOk l) _ = _
  rw [ok, onUnit_true]
  dsimp only
  rw [if_neg (by simp [negotiate, may]), if_pos (by simpa using differs), linkDown_of_active (by simp [negotiate])]

/-- The lanes that failed have failed once more in succession, the others not at all (R437). -/
def failCounts (lanes : List Nat) (m : List (Nat × Nat)) : List (Nat × Nat) :=
  (List.range 4).foldl (fun m i => if lanes.contains i then mset 0 i (mget 0 m i + 1) m else mset 0 i 0 m) m

/-- The attempt has timed out: lanes that failed TRAIN or ALIGN are counted. -/
def attemptFailed (s : State) (l : Nat) (lanes : List Nat) : State :=
  let t := advanceTo s ((getLink s l).since + trainLimit (getLink s l).state)
  if (getLink s l).state = 2 ∨ (getLink s l).state = 3 then modLink t l (fun x => { x with laneFails := failCounts lanes x.laneFails }) else t

/-- The lanes that have failed three times in succession. -/
def lanesFailing (x : Link) : List Nat := (List.range 4).filter (fun i => decide (3 ≤ mget 0 x.laneFails i))

theorem exec_linkStateTimeout (lanes : List Nat) (lo : 1 ≤ (getLink s l).state) (hi : (getLink s l).state ≤ 4) (may : mayTrain s l = true) :
    let t := linkDown (attemptFailed s l lanes) l
    exec (.linkStateTimeout l lanes) s = .next ((lanesFailing (getLink t l)).foldl (fun s i => retireLane s l i) t) := by
  change onUnit (linkOk l) _ = _
  rw [ok, onUnit_true]
  dsimp only
  rw [if_neg (by simp [may]; omega)]
  rfl

theorem exec_linkLoss (up : (getLink s l).state = 5) : exec (.linkLoss l) s = .next (setLinkState s l 0) := by
  change onUnit (linkOk l) _ = _
  rw [ok, onUnit_true, if_pos up, linkDown_of_active (by simp [up])]

end

/-! ### Lanes that fail (R437) -/

theorem mget_mset_if {α : Type} [DecidableEq α] (d : α) (k j : Nat) (v : α) (m : List (Nat × α)) :
    mget d (mset d k v m) j = if j = k then v else mget d m j := by
  split
  · subst_vars
    exact mget_mset_same ..
  · exact mget_mset_ne _ _ ‹_›

theorem failCounts_nil : failCounts [] [] = [] := by decide

theorem mget_failCounts {i j : Nat} (m : List (Nat × Nat)) (hj : j < 4) : mget 0 (failCounts [i] m) j = if j = i then mget 0 m j + 1 else 0 := by
  have step : ∀ (m : List (Nat × Nat)) (k : Nat), mget 0 (if ([i] : List Nat).contains k then mset 0 k (mget 0 m k + 1) m else mset 0 k 0 m) j =
      if j = k then (if j = i then mget 0 m j + 1 else 0) else mget 0 m j := by
    intro m k
    by_cases hk : k = i
    · subst hk
      by_cases h : j = k <;> simp [mget_mset_if, h]
    · by_cases h : j = k
      · subst h
        simp [hk]
      · simp [hk, mget_mset_if, h]
  have range : List.range 4 = [0, 1, 2, 3] := rfl
  simp only [failCounts, range, List.foldl_cons, List.foldl_nil, step]
  split_ifs <;> omega

/-- A lane that has failed twice and fails again is the only one that has failed three times. -/
theorem lanesFailing_once {x : Link} {i : Nat} {m : List (Nat × Nat)} (hi : i < 4) (twice : mget 0 m i = 2) (counted : x.laneFails = failCounts [i] m) :
    lanesFailing x = [i] := by
  have fails : ∀ j ∈ List.range 4, decide (3 ≤ mget 0 x.laneFails j) = decide (j = i) := by
    intro j hj
    rw [counted, mget_failCounts m (List.mem_range.mp hj)]
    by_cases h : j = i
    · subst h
      simp [twice]
    · simp [h]
  rw [lanesFailing, List.filter_congr fails]
  have := hi
  interval_cases i <;> rfl

/-- The lane is on the list of those that are retired, and its attempts are counted no more. -/
def laneNoted (s : State) (l i : Nat) : State :=
  modLink (journalWrite s 5 l i) l (fun x => { x with lanesRetired := x.lanesRetired ++ [i], laneFails := mdel i x.laneFails })

theorem getLink_laneNoted (s : State) (l i : Nat) :
    getLink (laneNoted s l i) l = { getLink s l with lanesRetired := (getLink s l).lanesRetired ++ [i], laneFails := mdel i (getLink s l).laneFails } :=
  getLink_setLink ..

theorem retireLane_of_down {s : State} {l i : Nat} (hi : i < 4) (down : (getLink s l).state = 0) (inUse : i ∉ (getLink s l).lanesRetired) :
    retireLane s l i = if lanesUsable (getLink (laneNoted s l i) l) = 0 then retireLink (laneNoted s l i) l
      else reportOf (modLink (laneNoted s l i) l (fun x => { x with lanes := if x.lanes = 0 then 0 else lanesUsable x })) eLinkRetired l := by
  unfold retireLane
  rw [if_neg (by simp [down, inUse, hi])]
  rfl

/-- A lane that is retired takes its link no further than DOWN (R344, R437). -/
theorem retireLane_spec {s : State} {l i : Nat} (hi : i < 4) (down : (getLink s l).state = 0) :
    i ∈ (getLink (retireLane s l i) l).lanesRetired ∧ ((getLink (retireLane s l i) l).state = 0 ∨ (getLink (retireLane s l i) l).state = 6) := by
  by_cases listed : i ∈ (getLink s l).lanesRetired
  · have idle : retireLane s l i = s := if_pos (.inr (.inl (by simpa using listed)))
    rw [idle]
    exact ⟨listed, .inl down⟩
  · have noted := getLink_laneNoted s l i
    have onList : i ∈ (getLink (laneNoted s l i) l).lanesRetired := by simp [noted]
    have down' : (getLink (laneNoted s l i) l).state = 0 := by rw [noted, down]
    rw [retireLane_of_down hi down listed]
    generalize laneNoted s l i = t at onList down'
    split
    · have gone : getLink (retireLink t l) l = { (getLink t l).entered 6 t.ember with lanes := 0 } := by
        rw [getLink_retireLink (by simp [down']) (by simp [down'])]
      exact ⟨by rw [gone]; exact onList, .inr (by rw [gone]; rfl)⟩
    · have kept : getLink (reportOf (modLink t l (fun x => { x with lanes := if x.lanes = 0 then 0 else lanesUsable x })) eLinkRetired l) l =
          { getLink t l with lanes := if (getLink t l).lanes = 0 then 0 else lanesUsable (getLink t l) } := getLink_setLink ..
      exact ⟨by rw [kept]; exact onList, .inl (by rw [kept]; exact down')⟩

end Sys2Proof.Machine
end

section
/-!
PROOF. The training of a link (O47): its states, one command after another (R343, R344, R437).
-/
namespace Sys2Proof.Machine
open Sys2Proof.Claim

/-- Link l is in state st, entered now, with its event pending; no other link has changed. -/
structure HasEntered (s u : State) (l st : Nat) : Prop where
  state : (getLink u l).state = st
  since : (getLink u l).since = u.ember
  pend : (getEv u (160 + l)).pend = true
  others : ∀ k, k ≠ l → getLink u k = getLink s k
  peer : st ≠ 5 → (getLink u l).peer = 0xFFFF

theorem HasEntered.enters {s u : State} {l st : Nat} {i : Instr} {more : State → Prop} (h : HasEntered s u l st) (ran : exec i s = .next u)
    (m : more u) : ∃ u, exec i s = .next u ∧ (getLink u l).state = st ∧ (getLink u l).since = u.ember ∧ (getEv u (160 + l)).pend = true ∧
      (∀ k, k ≠ l → getLink u k = getLink s k) ∧ (st ≠ 5 → (getLink u l).peer = 0xFFFF) ∧ more u :=
  ⟨u, ran, h.state, h.since, h.pend, h.others, h.peer, m⟩

theorem hasEntered_enterLink {s t : State} {l : Nat} (st : Nat) (others : ∀ k, k ≠ l → getLink t k = getLink s k) :
    HasEntered s (enterLink t l st) l st where
  state := by rw [getLink_enterLink]; rfl
  since := by rw [getLink_enterLink]; rfl
  pend := enterLink_pend ..
  others k hk := (getLink_enterLink_ne _ _ _ hk).trans (others k hk)
  peer h := by rw [getLink_enterLink]; exact if_neg h

theorem getLink_modLink_other {s : State} {l k : Nat} (f : Link → Link) (h : k ≠ l) : getLink (modLink s l f) k = getLink s k :=
  getLink_setLink_ne _ _ _ _ h

/-- Host memory, device memory, cells and jobs are those of before. -/
def Still (s u : State) : Prop := u.mem = s.mem ∧ u.host = s.host ∧ u.cells = s.cells ∧ u.jobs = s.jobs

theorem EmitFrame.still {s u : State} (h : EmitFrame s u) : Still s u :=
  ⟨h.keeps State.mem fun _ _ _ _ => rfl, h.keeps State.host fun _ _ _ _ => rfl, h.keeps State.cells fun _ _ _ _ => rfl,
    h.keeps State.jobs fun _ _ _ _ => rfl⟩

theorem TicksPass.still {s u : State} (h : TicksPass s u) : Still s u :=
  ⟨h.keeps State.mem fun _ _ _ _ _ _ => rfl, h.keeps State.host fun _ _ _ _ _ _ => rfl, h.keeps State.cells fun _ _ _ _ _ _ => rfl,
    h.keeps State.jobs fun _ _ _ _ _ _ => rfl⟩

theorem TicksPass.link {s u : State} (h : TicksPass s u) (l : Nat) : getLink u l = getLink s l :=
  getLink_of_links (h.keeps State.links fun _ _ _ _ _ _ => rfl) l

theorem Still.trans {s t u : State} (h : Still s t) (h' : Still t u) : Still s u :=
  ⟨h'.1.trans h.1, h'.2.1.trans h.2.1, h'.2.2.1.trans h.2.2.1, h'.2.2.2.trans h.2.2.2⟩

theorem Still.refl (s : State) : Still s s := ⟨rfl, rfl, rfl, rfl⟩

theorem still_modLink (s : State) (l : Nat) (f : Link → Link) : Still s (modLink s l f) := ⟨rfl, rfl, rfl, rfl⟩

theorem enterLink_ember (s : State) (l st : Nat) : (enterLink s l st).ember = s.ember := by
  obtain ⟨_, _, eq⟩ := enterLink_frame s l st
  rw [eq]

theorem still_enterLink (s : State) (l st : Nat) : Still s (enterLink s l st) := by
  obtain ⟨_, _, eq⟩ := enterLink_frame s l st
  rw [eq]
  exact ⟨rfl, rfl, rfl, rfl⟩

/-- A link enters a state after its record has been changed by f: no other link changes, and only f and the entry change its own. -/
theorem enterLink_modLink (s : State) (l st : Nat) (f : Link → Link) :
    HasEntered s (enterLink (modLink s l f) l st) l st ∧ getLink (enterLink (modLink s l f) l st) l = (f (getLink s l)).entered st s.ember ∧
      (enterLink (modLink s l f) l st).ember = s.ember ∧ Still s (enterLink (modLink s l f) l st) := by
  refine ⟨hasEntered_enterLink st fun k hk => getLink_modLink_other _ hk, ?_, enterLink_ember .., (still_modLink ..).trans (still_enterLink ..)⟩
  rw [getLink_enterLink, getLink_modLink_if, if_pos rfl]
  rfl

theorem setLinkState_modLink {s : State} {l st : Nat} {f : Link → Link} (other : (f (getLink s l)).state ≠ st)
    (wasDown : (f (getLink s l)).state ≠ 5) (stays : st ≠ 5) : setLinkState (modLink s l f) l st = enterLink (modLink s l f) l st := by
  have here : getLink (modLink s l f) l = f (getLink s l) := by rw [getLink_modLink_if, if_pos rfl]
  exact setLinkState_quiet (by rwa [here]) (by rwa [here]) stays

theorem getLink_reportOf (s : State) (code i k : Nat) : getLink (reportOf s code i) k = getLink s k := rfl

/-- A link that trains is retired: it goes to that state, and is reported (R437). -/
theorem retireLink_spec {s : State} {l : Nat} (active : (getLink s l).state ≠ 6) (wasDown : (getLink s l).state ≠ 5) :
    HasEntered s (retireLink s l) l 6 ∧ (eLinkRetired, l) ∈ (retireLink s l).events ∧ Still s (retireLink s l) := by
  have journal : Still s (journalWrite s 6 l 0) := ⟨rfl, rfl, rfl, rfl⟩
  have here := getLink_retireLink active wasDown
  have entered := hasEntered_enterLink (s := s) (t := journalWrite s 6 l 0) (l := l) 6 fun _ _ => rfl
  have still := journal.trans (still_enterLink (journalWrite s 6 l 0) l 6)
  have now : (enterLink (journalWrite s 6 l 0) l 6).ember = s.ember := enterLink_ember ..
  rw [retireLink_of_training active wasDown] at here ⊢
  generalize enterLink (journalWrite s 6 l 0) l 6 = t at *
  refine ⟨⟨by rw [here]; rfl, ?_, entered.pend, fun k hk => (getLink_reportOf ..).trans ((getLink_modLink_other _ hk).trans (entered.others k hk)),
    fun _ => by rw [here]; rfl⟩, ?_, ?_⟩
  · rw [here]
    exact now.symm
  · exact List.mem_cons_self
  · exact still.trans ⟨rfl, rfl, rfl, rfl⟩

/-- A link that has come UP, whatever packets then left on it. -/
structure CameUp (s u : State) (l : Nat) : Prop where
  state : (getLink u l).state = 5
  since : (getLink u l).since = u.ember
  pend : (getEv u (160 + l)).pend = true
  lanesRetired : (getLink u l).lanesRetired = (getLink s l).lanesRetired
  still : Still s u

theorem setLinkState_up_spec {s : State} {l : Nat} (wasDown : (getLink s l).state ≠ 5) : CameUp s (setLinkState s l 5) l := by
  have released : EmitFrame (enterLink s l 5) (setLinkState s l 5) := by
    rw [setLinkState_up wasDown]
    exact .foldl emitFrame_releaseHeld _ _
  have entered := hasEntered_enterLink (s := s) (t := s) (l := l) 5 fun _ _ => rfl
  refine ⟨?_, ?_, ?_, ?_, (still_enterLink s l 5).trans released.still⟩
  · rw [released.link l Link.state fun _ _ _ _ => rfl]
    exact entered.state
  · rw [released.link l Link.since fun _ _ _ _ => rfl, released.keeps State.ember fun _ _ _ _ => rfl]
    exact entered.since
  · rw [getEv, released.keeps State.evs fun _ _ _ _ => rfl]
    exact entered.pend
  · rw [released.link l Link.lanesRetired fun _ _ _ _ => rfl, getLink_enterLink]
    rfl

/-- With nothing held at the routers nothing leaves on the link. -/
theorem setLinkState_up_quiet {s : State} {l : Nat} (wasDown : (getLink s l).state ≠ 5) (none : ∀ d, d < 4 → (getFab s d).held = []) :
    (getLink (setLinkState s l 5) l).replay = [] ∧ (∀ k, k ≠ l → getLink (setLinkState s l 5) k = getLink s k) ∧
      (setLinkState s l 5).fabs = s.fabs := by
  have fabs : (enterLink s l 5).fabs = s.fabs := by
    obtain ⟨_, _, eq⟩ := enterLink_frame s l 5
    rw [eq]
  rw [setLinkState_up wasDown, releaseAll_of_noneHeld fun d hd => by rw [getFab_of_fabs fabs, none d hd]]
  refine ⟨?_, fun k hk => getLink_enterLink_ne _ _ _ hk, fabs⟩
  rw [getLink_enterLink]
  rfl

theorem getLink_negotiated (s : State) (l : Nat) (peer : BitVec 16) (pl : Nat) : getLink (negotiated s l peer pl) l =
    { getLink s l with peer := peer, peerLink := pl % 64, lanes := lanesUsable (getLink s l), rxNext := 0, nakSent := false
                       credits := [512, 512, 512, 512], txNext := 0 } := getLink_setLink ..

theorem fabs_negotiated (s : State) (l : Nat) (peer : BitVec 16) (pl : Nat) : (negotiated s l peer pl).fabs = s.fabs := rfl

/-- An attempt that has failed: time has passed, and the lanes of TRAIN and ALIGN are counted (R437). -/
theorem attemptFailed_spec (s : State) (l : Nat) (lanes : List Nat) :
    getLink (attemptFailed s l lanes) l = { getLink s l with
      laneFails := if (getLink s l).state = 2 ∨ (getLink s l).state = 3 then failCounts lanes (getLink s l).laneFails else (getLink s l).laneFails } ∧
      (∀ k, k ≠ l → getLink (attemptFailed s l lanes) k = getLink s k) ∧
      (attemptFailed s l lanes).ember = max s.ember ((getLink s l).since + trainLimit (getLink s l).state) ∧ Still s (attemptFailed s l lanes) := by
  have ticks := ticksPass_advanceTo s ((getLink s l).since + trainLimit (getLink s l).state)
  have now := advanceTo_ember s ((getLink s l).since + trainLimit (getLink s l).state)
  unfold attemptFailed
  dsimp only
  generalize advanceTo s ((getLink s l).since + trainLimit (getLink s l).state) = t at *
  split
  · refine ⟨?_, fun k hk => (getLink_modLink_other _ hk).trans (ticks.link k), now, ticks.still.trans (still_modLink ..)⟩
    rw [getLink_modLink_if, if_pos rfl, ticks.link]
  · exact ⟨ticks.link l, fun k _ => ticks.link k, now, ticks.still⟩

section
variable {s : State} {l : Nat} (ok : linkOk l = true)
include ok

/-- DOWN to DETECT (R343). -/
theorem linkRetryDelayExpiry_enters (down : (getLink s l).state = 0) (may : mayTrain s l = true) :
    ∃ u, exec (.linkRetryDelayExpiry l) s = .next u ∧ HasEntered s u l 1 ∧ u.ember = max s.ember ((getLink s l).since + 25000) ∧
      (getLink u l).retrain = false ∧ Still s u := by
  have ticks := ticksPass_advanceTo s ((getLink s l).since + 25000)
  refine ⟨_, exec_linkRetryDelayExpiry ok down may, ?_⟩
  have now := advanceTo_ember s ((getLink s l).since + 25000)
  generalize advanceTo s ((getLink s l).since + 25000) = t at *
  have down' : (getLink t l).state = 0 := by rw [ticks.link, down]
  rw [setLinkState_modLink (by simp [down']) (by simp [down']) (by decide)]
  obtain ⟨entered, link, ember, still⟩ := enterLink_modLink t l 1 (fun x => { x with retrain := false })
  refine ⟨{ entered with others := fun k hk => (entered.others k hk).trans (ticks.link k) }, ember.trans now, ?_, ticks.still.trans still⟩
  rw [link]
  rfl

/-- DETECT to TRAIN, at fewer than eight entries within 25,000,000 ticks (R343, R437). -/
theorem linkDetectComplete_enters (detect : (getLink s l).state = 1) (may : mayTrain s l = true)
    (few : ((getLink s l).trainTimes.filter (fun t => decide (s.ember < t + 25000000))).length < 7) :
    ∃ u, exec (.linkDetectComplete l) s = .next u ∧ HasEntered s u l 2 ∧ (getLink u l).trains = satAdd 0xFFFF (getLink s l).trains 1 ∧ Still s u := by
  obtain ⟨entered, link, -, still⟩ := enterLink_modLink s l 2 (fun x =>
    { x with trains := satAdd 0xFFFF x.trains 1, trainTimes := s.ember :: x.trainTimes.filter (fun t => decide (s.ember < t + 25000000)) })
  have enters : setLinkState (trainCounted s l) l 2 = enterLink (trainCounted s l) l 2 :=
    setLinkState_modLink (by simp [detect]) (by simp [detect]) (by decide)
  refine ⟨enterLink (trainCounted s l) l 2, ?_, entered, ?_, still⟩
  · rw [exec_linkDetectComplete ok detect may, enters, if_neg]
    rw [trainCounted, link]
    simpa [Link.entered] using few
  · rw [trainCounted, link]
    rfl

/-- The eighth entry to TRAIN within 25,000,000 ticks retires the link (R437). -/
theorem linkDetectComplete_retires (detect : (getLink s l).state = 1) (may : mayTrain s l = true)
    (many : 7 ≤ ((getLink s l).trainTimes.filter (fun t => decide (s.ember < t + 25000000))).length) :
    ∃ u, exec (.linkDetectComplete l) s = .next u ∧ HasEntered s u l 6 ∧ (eLinkRetired, l) ∈ u.events ∧ Still s u := by
  obtain ⟨entered, link, -, still⟩ := enterLink_modLink s l 2 (fun x =>
    { x with trains := satAdd 0xFFFF x.trains 1, trainTimes := s.ember :: x.trainTimes.filter (fun t => decide (s.ember < t + 25000000)) })
  have enters : setLinkState (trainCounted s l) l 2 = enterLink (trainCounted s l) l 2 :=
    setLinkState_modLink (by simp [detect]) (by simp [detect]) (by decide)
  change HasEntered s (enterLink (trainCounted s l) l 2) l 2 at entered
  change Still s (enterLink (trainCounted s l) l 2) at still
  change getLink (enterLink (trainCounted s l) l 2) l = _ at link
  refine ⟨retireLink (enterLink (trainCounted s l) l 2) l, ?_, ?_⟩
  · rw [exec_linkDetectComplete ok detect may, enters, if_pos]
    rw [link]
    simpa [Link.entered] using many
  · have train : (getLink (enterLink (trainCounted s l) l 2) l).state = 2 := entered.state
    generalize enterLink (trainCounted s l) l 2 = t at *
    obtain ⟨gone, listed, still'⟩ := retireLink_spec (s := t) (l := l) (by omega) (by omega)
    exact ⟨{ gone with others := fun k hk => (gone.others k hk).trans (entered.others k hk) }, listed, still.trans still'⟩

/-- TRAIN to ALIGN (R343). -/
theorem linkTrainComplete_enters (train : (getLink s l).state = 2) (may : mayTrain s l = true) :
    ∃ u, exec (.linkTrainComplete l) s = .next u ∧ HasEntered s u l 3 ∧ Still s u :=
  ⟨_, by rw [exec_linkTrainComplete ok train may, setLinkState_quiet (by omega) (by omega) (by decide)],
    hasEntered_enterLink 3 fun _ _ => rfl, still_enterLink ..⟩

/-- ALIGN to NEGOTIATE (R343). -/
theorem linkAlignComplete_enters (align : (getLink s l).state = 3) (may : mayTrain s l = true) :
    ∃ u, exec (.linkAlignComplete l) s = .next u ∧ HasEntered s u l 4 ∧ (getLink u l).laneFails = [] ∧ Still s u := by
  obtain ⟨entered, link, -, still⟩ := enterLink_modLink s l 4 (fun x => { x with laneFails := [] })
  refine ⟨_, ?_, entered, by rw [link]; rfl, still⟩
  rw [exec_linkAlignComplete ok align may, setLinkState_modLink (by simp [align]) (by simp [align]) (by decide)]

/-- NEGOTIATE to DOWN, with a peer that does not agree (R344). -/
theorem linkNegotiateComplete_fails {peer : BitVec 16} (pl : Nat) {rev lanes : Nat} {b : Bool} (negotiate : (getLink s l).state = 4)
    (may : mayTrain s l = true)
    (differs : s.pkgSet = false ∨ b = false ∨ peer = s.pkgId ∨ lanes ≠ laneWidth (getLink s l) ∨ rev ≠ 1) :
    ∃ u, exec (.linkNegotiateComplete l peer pl rev lanes b) s = .next u ∧ HasEntered s u l 0 ∧ Still s u :=
  ⟨_, by rw [exec_linkNegotiateComplete_differs ok pl negotiate may differs, setLinkState_quiet (by omega) (by omega) (by decide)],
    hasEntered_enterLink 0 fun _ _ => rfl, still_enterLink ..⟩

/-- The link has come UP with its peer (R344). -/
theorem linkNegotiateComplete_up {peer : BitVec 16} (pl : Nat) {rev lanes : Nat} (negotiate : (getLink s l).state = 4)
    (may : mayTrain s l = true) (set : s.pkgSet = true) (other : peer ≠ s.pkgId) (width : lanes = laneWidth (getLink s l)) (revision : rev = 1) :
    ∃ u, exec (.linkNegotiateComplete l peer pl rev lanes true) s = .next u ∧ (getLink u l).state = 5 ∧ (getLink u l).since = u.ember ∧
      (getEv u (160 + l)).pend = true ∧ (getLink u l).peer = peer ∧ (getLink u l).lanes = lanesUsable (getLink s l) ∧ (getLink u l).rxNext = 0 ∧
      Still s u ∧ ((∀ d, d < 4 → (getFab s d).held = []) →
        (getLink u l).credits = [512, 512, 512, 512] ∧ (getLink u l).txNext = 0 ∧ (getLink u l).replay = [] ∧
          ∀ k, k ≠ l → getLink u k = getLink s k) := by
  have wasDown : (getLink s l).state ≠ 5 := by omega
  have up := setLinkState_up_spec wasDown
  have quiet := setLinkState_up_quiet (s := s) (l := l) wasDown
  have ran := exec_linkNegotiateComplete_agrees ok pl negotiate may set other width revision
  have link := getLink_negotiated (setLinkState s l 5) l peer pl
  have later : EmitFrame (negotiated (setLinkState s l 5) l peer pl) ((List.range 4).foldl releaseHeld (negotiated (setLinkState s l 5) l peer pl)) :=
    .foldl emitFrame_releaseHeld _ _
  have still := up.still.trans ((still_modLink (setLinkState s l 5) l _).trans later.still)
  refine ⟨_, ran, ?_, ?_, ?_, ?_, ?_, ?_, still, fun none => ?_⟩
  · rw [later.link l Link.state fun _ _ _ _ => rfl, link]
    exact up.state
  · rw [later.link l Link.since fun _ _ _ _ => rfl, later.keeps State.ember fun _ _ _ _ => rfl, link]
    exact up.since
  · rw [getEv, later.keeps State.evs fun _ _ _ _ => rfl]
    exact up.pend
  · rw [later.link l Link.peer fun _ _ _ _ => rfl, link]
  · rw [later.link l Link.lanes fun _ _ _ _ => rfl, link]
    exact congrArg (fun r => lanesUsable { getLink s l with lanesRetired := r }) up.lanesRetired
  · rw [later.link l Link.rxNext fun _ _ _ _ => rfl, link]
  · obtain ⟨same, others, fabs⟩ := quiet none
    have idle : (List.range 4).foldl releaseHeld (negotiated (setLinkState s l 5) l peer pl) = negotiated (setLinkState s l 5) l peer pl :=
      releaseAll_of_noneHeld fun d hd => by
        rw [getFab_of_fabs (fabs_negotiated ..), getFab_of_fabs fabs, none d hd]
    rw [idle, link]
    refine ⟨rfl, rfl, same, fun k hk => ?_⟩
    rw [negotiated, getLink_modLink_other _ hk, others k hk]

/-- A state that times out goes DOWN, later (R343). -/
theorem linkStateTimeout_enters (lo : 1 ≤ (getLink s l).state) (hi : (getLink s l).state ≤ 4) (may : mayTrain s l = true)
    (none : (getLink s l).laneFails = []) :
    ∃ u, exec (.linkStateTimeout l []) s = .next u ∧ HasEntered s u l 0 ∧
      u.ember = max s.ember ((getLink s l).since + trainLimit (getLink s l).state) ∧ Still s u := by
  obtain ⟨link, others, now, still⟩ := attemptFailed_spec s l []
  have fails : (getLink (attemptFailed s l []) l).laneFails = [] := by rw [link, none, failCounts_nil, ite_self]
  have state : (getLink (attemptFailed s l []) l).state = (getLink s l).state := by rw [link]
  have ran := exec_linkStateTimeout ok [] lo hi may
  generalize attemptFailed s l [] = t at *
  have down : linkDown t l = enterLink t l 0 := by rw [linkDown_of_active (by omega), setLinkState_quiet (by omega) (by omega) (by decide)]
  have sound : lanesFailing (getLink (enterLink t l 0) l) = [] := by
    rw [getLink_enterLink]
    simp [lanesFailing, Link.entered, fails, mget]
  dsimp only at ran
  rw [down, sound, List.foldl_nil] at ran
  exact ⟨_, ran, hasEntered_enterLink 0 others, (enterLink_ember ..).trans now, still.trans (still_enterLink ..)⟩

/-- The third attempt in succession that a lane fails retires it (R437). -/
theorem linkStateTimeout_retires {i : Nat} (training : (getLink s l).state = 2 ∨ (getLink s l).state = 3) (may : mayTrain s l = true) (lane : i < 4)
    (twice : mget 0 (getLink s l).laneFails i = 2) :
    ∃ u, exec (.linkStateTimeout l [i]) s = .next u ∧ i ∈ (getLink u l).lanesRetired ∧ ((getLink u l).state = 0 ∨ (getLink u l).state = 6) := by
  obtain ⟨link, -, -, -⟩ := attemptFailed_spec s l [i]
  have fails : (getLink (attemptFailed s l [i]) l).laneFails = failCounts [i] (getLink s l).laneFails := by rw [link]; exact if_pos training
  have state : (getLink (attemptFailed s l [i]) l).state = (getLink s l).state := by rw [link]
  have ran := exec_linkStateTimeout ok [i] (by omega) (by omega) may
  generalize attemptFailed s l [i] = t at *
  have down : linkDown t l = enterLink t l 0 := by rw [linkDown_of_active (by omega), setLinkState_quiet (by omega) (by omega) (by decide)]
  have once : lanesFailing (getLink (enterLink t l 0) l) = [i] := by
    rw [getLink_enterLink]
    exact lanesFailing_once lane twice fails
  dsimp only at ran
  rw [down, once, List.foldl_cons, List.foldl_nil] at ran
  exact ⟨_, ran, retireLane_spec lane (by rw [getLink_enterLink]; rfl)⟩

/-- A link that is lost goes DOWN (R356). -/
theorem linkLoss_enters (up : (getLink s l).state = 5) :
    ∃ u, exec (.linkLoss l) s = .next u ∧ (getLink u l).state = 0 ∧ (getLink u l).since = u.ember ∧ (getLink u l).peer = 0xFFFF ∧
      (getEv u (160 + l)).pend = true ∧
      ((∀ d, d < 4 → (getFab s d).send = [] ∧ (getFab s d).chanWait = []) → ∀ k, k ≠ l → getLink u k = getLink s k) := by
  have lost := setLinkState_lost_spec up
  have entered := hasEntered_enterLink (s := s) (t := s) (l := l) 0 fun _ _ => rfl
  refine ⟨_, exec_linkLoss ok up, ?_, ?_, ?_, lost.pend _ entered.pend, fun none k hk => ?_⟩
  · rw [lost.link l Link.state fun _ _ _ _ => rfl]
    exact entered.state
  · rw [lost.link l Link.since fun _ _ _ _ => rfl, lost.ember]
    exact entered.since
  · rw [lost.link l Link.peer fun _ _ _ _ => rfl]
    exact entered.peer (by decide)
  · rw [getLink_of_links (setLinkState_lost_links up none), entered.others k hk]

end

theorem linkTraining : LinkTraining := by
  intro s l ok
  dsimp only
  refine ⟨fun down may => ?delay, fun detect may few => ?detect, fun detect may many => ?retires, fun train may => ?train,
    fun align may => ?align, fun peer pl rev lanes negotiate may set other width revision => ?up,
    fun peer pl rev lanes b negotiate may differs => ?fails, fun lo hi may none => ?timeout,
    fun i training may lane twice => linkStateTimeout_retires ok training may lane twice, fun up => linkLoss_enters ok up⟩
  case delay =>
    obtain ⟨u, ran, entered, more⟩ := linkRetryDelayExpiry_enters ok down may
    exact entered.enters ran more
  case detect =>
    obtain ⟨u, ran, entered, more⟩ := linkDetectComplete_enters ok detect may few
    exact entered.enters ran more
  case retires =>
    obtain ⟨u, ran, entered, more⟩ := linkDetectComplete_retires ok detect may many
    exact entered.enters ran more
  case train =>
    obtain ⟨u, ran, entered, more⟩ := linkTrainComplete_enters ok train may
    exact entered.enters ran more
  case align =>
    obtain ⟨u, ran, entered, more⟩ := linkAlignComplete_enters ok align may
    exact entered.enters ran more
  case up => exact linkNegotiateComplete_up ok pl negotiate may set other width revision
  case fails =>
    obtain ⟨u, ran, entered, more⟩ := linkNegotiateComplete_fails ok pl negotiate may differs
    exact entered.enters ran more
  case timeout =>
    obtain ⟨u, ran, entered, more⟩ := linkStateTimeout_enters ok lo hi may none
    exact entered.enters ran more

end Sys2Proof.Machine
end

section
/-!
PROOF. LINK.CTRL and the flits of a link (O47): each step of receiving a flit writes its own fields of the link (R341, R342, R371, R437).
-/
namespace Sys2Proof.Machine
open Sys2Proof.Claim

/-! ### LINK.CTRL (R371) -/

/-- LINK[l].CTRL as written. -/
def controlled (s : State) (l : Nat) (v : Word) : State :=
  modLink s l (fun x => { x with enable := bitAt v.toNat 0, retrain := x.retrain || bitAt v.toNat 1 })

theorem getLink_controlled (s : State) (l : Nat) (v : Word) :
    getLink (controlled s l v) l = { getLink s l with enable := bitAt v.toNat 0, retrain := (getLink s l).retrain || bitAt v.toNat 1 } := getLink_setLink ..

/-- A link that is taken DOWN is DOWN unless it is retired; what CTRL holds stays. -/
theorem linkDown_spec (s : State) (l : Nat) : (getLink (linkDown s l) l).state = (if (getLink s l).state = 6 then 6 else 0) ∧
    (getLink (linkDown s l) l).enable = (getLink s l).enable ∧ (getLink (linkDown s l) l).retrain = (getLink s l).retrain := by
  by_cases retired : (getLink s l).state = 6
  · rw [linkDown, if_pos retired, if_pos retired]
    exact ⟨retired, rfl, rfl⟩
  · rw [linkDown_of_active retired, if_neg retired]
    by_cases down : (getLink s l).state = 0
    · rw [setLinkState, if_pos down]
      exact ⟨down, rfl, rfl⟩
    · have frame : LinkFrame (enterLink s l 0) (setLinkState s l 0) := by
        by_cases up : (getLink s l).state = 5
        · exact setLinkState_lost_spec up
        · rw [setLinkState_quiet down up (by decide)]
          exact .refl _
      rw [frame.link l Link.state fun _ _ _ _ => rfl, frame.link l Link.enable fun _ _ _ _ => rfl, frame.link l Link.retrain fun _ _ _ _ => rfl,
        getLink_enterLink]
      exact ⟨rfl, rfl, rfl⟩

section
variable {s : State} {l : Nat} {v : Word} (ok : linkOk l = true)

theorem writeLinkCtrl_taken (t : TakesWrites s (linkBase l)) (reserved : bits v.toNat 63 2 = 0)
    (served : bitAt v.toNat 1 = false ∨ (getLink s l).state ≠ 6) :
    writeLinkCtrl s l v = if bitAt v.toNat 1 || !bitAt v.toNat 0 then linkDown (controlled s l v) l else controlled s l v :=
  checkWrite_accepted t (by rcases served with h | h <;> simp [reserved, h])

theorem writeLinkCtrl_reserved (t : TakesWrites s (linkBase l)) (reserved : bits v.toNat 63 2 ≠ 0) :
    writeLinkCtrl s l v = recordErr s (linkBase l) 8 eArgReserved :=
  checkWrite_first t (by simp [reserved])

include ok

theorem exec_linkEnable (plain : bitAt v.toNat 1 = false) : exec (.linkEnable l v) s = .next (writeLinkCtrl s l v) := by
  change onUnit (linkOk l) _ = _
  rw [ok, onUnit_true, plain]
  rfl

theorem exec_linkRetrain (retrain : bitAt v.toNat 1 = true) : exec (.linkRetrain l v) s = .next (writeLinkCtrl s l v) := by
  change onUnit (linkOk l) _ = _
  rw [ok, onUnit_true, if_pos retrain]

variable (t : TakesWrites s (linkBase l))
include t

/-- ENABLE, or RETRAIN, as CTRL takes them. -/
theorem linkEnable_stays (reserved : bits v.toNat 63 2 = 0) (plain : bitAt v.toNat 1 = false) (enable : bitAt v.toNat 0 = true) :
    exec (.linkEnable l v) s = .next (setLink s l { getLink s l with enable := true, retrain := (getLink s l).retrain }) := by
  rw [exec_linkEnable ok plain, writeLinkCtrl_taken t reserved (.inl plain), if_neg (by simp [plain, enable]), controlled, modLink_eq, plain, enable,
    Bool.or_false]

theorem linkEnable_down (reserved : bits v.toNat 63 2 = 0) (plain : bitAt v.toNat 1 = false) (disable : bitAt v.toNat 0 = false) :
    ∃ u, exec (.linkEnable l v) s = .next u ∧ (getLink u l).enable = false ∧ (getLink u l).state = (if (getLink s l).state = 6 then 6 else 0) := by
  refine ⟨_, exec_linkEnable ok plain, ?_⟩
  rw [writeLinkCtrl_taken t reserved (.inl plain), if_pos (by simp [disable])]
  obtain ⟨state, enable, -⟩ := linkDown_spec (controlled s l v) l
  rw [getLink_controlled] at state enable
  exact ⟨enable.trans disable, state⟩

theorem linkRetrain_down (reserved : bits v.toNat 63 2 = 0) (retrain : bitAt v.toNat 1 = true) (active : (getLink s l).state ≠ 6) :
    ∃ u, exec (.linkRetrain l v) s = .next u ∧ (getLink u l).retrain = true ∧ (getLink u l).state = 0 ∧ (getLink u l).enable = bitAt v.toNat 0 := by
  refine ⟨_, exec_linkRetrain ok retrain, ?_⟩
  rw [writeLinkCtrl_taken t reserved (.inr active), if_pos (by simp [retrain])]
  obtain ⟨state, enable, kept⟩ := linkDown_spec (controlled s l v) l
  rw [getLink_controlled] at state enable kept
  exact ⟨kept.trans (by simp [retrain]), state.trans (if_neg active), enable⟩

theorem linkRetrain_retired (reserved : bits v.toNat 63 2 = 0) (retrain : bitAt v.toNat 1 = true) (retired : (getLink s l).state = 6) :
    exec (.linkRetrain l v) s = .next (recordErr s (linkBase l) 8 eBadState) := by
  rw [exec_linkRetrain ok retrain]
  exact congrArg _ (checkWrite_first t (by simp [reserved, retrain, retired]))

end

/-! ### Flits (R341, R342) -/

/-- What a flit leaves of the state, whatever its turn: the link is UP, its corrected symbols are counted, nothing but links has changed. -/
structure TakesFlit (s u : State) (l : Nat) (f : Flit) : Prop where
  state : (getLink u l).state = 5
  fecSym : (getLink u l).fecSym = ((getLink s l).fecSym + f.corrected) % 2 ^ 64
  mem : u.mem = s.mem
  cells : u.cells = s.cells
  others : ∀ k, k ≠ l → getLink u k = getLink s k

theorem TakesFlit.takes {s u : State} {l : Nat} {f : Flit} {more : State → Prop} (h : TakesFlit s u l f) (ran : exec (.flitReceive l f) s = .next u)
    (m : more u) : ∃ u, exec (.flitReceive l f) s = .next u ∧ (getLink u l).state = 5 ∧
      (getLink u l).fecSym = ((getLink s l).fecSym + f.corrected) % 2 ^ 64 ∧ more u ∧ u.mem = s.mem ∧ u.cells = s.cells ∧
      (∀ k, k ≠ l → getLink u k = getLink s k) := ⟨u, ran, h.state, h.fecSym, m, h.mem, h.cells, h.others⟩

/-- A write to the link that has nothing to do with its state or its corrected symbols. -/
theorem TakesFlit.modLink {s t : State} {l : Nat} {f : Flit} (h : TakesFlit s t l f) (g : Link → Link)
    (same : ∀ x, (g x).state = x.state ∧ (g x).fecSym = x.fecSym) : TakesFlit s (modLink t l g) l f where
  state := by rw [getLink_modLink_if, if_pos rfl, (same _).1, h.state]
  fecSym := by rw [getLink_modLink_if, if_pos rfl, (same _).2, h.fecSym]
  mem := h.mem
  cells := h.cells
  others k hk := (getLink_modLink_other _ hk).trans (h.others k hk)

/-- The symbols that FEC has corrected are counted. -/
def fecCounted (s : State) (l : Nat) (f : Flit) : State := modLink s l (fun x => { x with fecSym := (x.fecSym + f.corrected) % 2 ^ 64 })

theorem getLink_fecCounted (s : State) (l : Nat) (f : Flit) :
    getLink (fecCounted s l f) l = { getLink s l with fecSym := ((getLink s l).fecSym + f.corrected) % 2 ^ 64 } := getLink_setLink ..

/-- A flit that fails its FCRC is counted. -/
def fcrcCounted (s : State) (l : Nat) : State := modLink s l (fun x => { x with crcFail := satAdd 0xFFFF x.crcFail 1 })

/-- A codeword that cannot be corrected is counted, with its tick (R437). -/
def uncorrCounted (s : State) (l : Nat) : State :=
  modLink s l (fun x =>
    { x with uncorr := satAdd 0xFFFF x.uncorr 1, uncorrTimes := s.ember :: x.uncorrTimes.filter (fun t => decide (s.ember < t + 25000)) })

/-- FACK has released flits of the transmitter's buffer, after those that it has sent since (R341, R342). -/
def acked (s : State) (l : Nat) (f : Flit) : State := Machine.modLink (idleFlits s l) l (fun x => x.release (flitAck f))

theorem takesFlit_fecCounted {s : State} {l : Nat} (f : Flit) (up : (getLink s l).state = 5) : TakesFlit s (fecCounted s l f) l f where
  state := by rw [getLink_fecCounted]; exact up
  fecSym := by rw [getLink_fecCounted]
  mem := rfl
  cells := rfl
  others _ hk := getLink_modLink_other _ hk

theorem Link.release_frame (x : Link) (fack : BitVec 12) : ∃ replay, x.release fack = { x with replay := replay } := by
  unfold Link.release
  dsimp only
  split <;> exact ⟨_, rfl⟩

/-- FACK and the flits sent since concern the transmitter only. -/
theorem getLink_acked (s : State) (l : Nat) (f : Flit) :
    ∃ txNext replay, getLink (acked s l f) l = { getLink s l with txNext := txNext, replay := replay } := by
  rw [acked, getLink_modLink_if, if_pos rfl, idleFlits]
  dsimp only
  rw [getLink_modLink_if, if_pos rfl]
  obtain ⟨_, eq⟩ := Link.release_frame _ (flitAck f)
  exact ⟨_, _, eq⟩

theorem getLink_acked_other (s : State) {l k : Nat} (f : Flit) (h : k ≠ l) : getLink (acked s l f) k = getLink s k := by
  rw [acked, getLink_modLink_other _ h, idleFlits]
  exact getLink_modLink_other _ h

theorem acked_frame (s : State) (l : Nat) (f : Flit) : ∃ links free, acked s l f = { s with links := links, free := free } := ⟨_, _, rfl⟩

theorem TakesFlit.acked {s t : State} {l : Nat} {f : Flit} (h : TakesFlit s t l f) : TakesFlit s (acked t l f) l f := by
  obtain ⟨_, _, link⟩ := getLink_acked t l f
  obtain ⟨_, _, frame⟩ := acked_frame t l f
  exact ⟨by rw [link]; exact h.state, by rw [link]; exact h.fecSym, by rw [frame]; exact h.mem, by rw [frame]; exact h.cells,
    fun k hk => (getLink_acked_other t f hk).trans (h.others k hk)⟩

/-- The reports of a replay, one for each flit (R342). -/
theorem reports_of_replay (s : State) (l n : Nat) :
    (List.range n).foldl (fun s _ => reportOf s iLinkRetry l) s = { s with events := List.replicate n (iLinkRetry, l) ++ s.events } := by
  induction n with
  | zero => rfl
  | succ n ih => rw [List.range_succ, List.foldl_append, ih]; rfl

/-- The flits of the buffer are sent again: each counts. -/
def replayed (s : State) (l : Nat) : State := Machine.modLink s l (fun x => { x with llretry := wrap32 (x.llretry + (getLink s l).replay.length) })

theorem replayFlits_eq (s : State) (l : Nat) : replayFlits s l = { replayed s l with
    events := List.replicate (getLink s l).replay.length (iLinkRetry, l) ++ s.events } := by
  rw [replayFlits]
  dsimp only
  rw [reports_of_replay]
  rfl


section
variable {s : State} {l : Nat} {f : Flit}

theorem exec_flitReceive (ok : linkOk l = true) (up : linkUp s l = true) (lanes : f.badLanes = []) (len : f.bytes.length = 640) :
    exec (.flitReceive l f) s = .next (if f.uncorr then badCodeword (fecCounted s l f) l
      else if flitBad f then discardFlit (fcrcCounted (fecCounted s l f) l) l else goodFlit (fecCounted s l f) l f) := by
  change onUnit (linkOk l) _ = _
  rw [ok, onUnit_true, if_pos (by simp [up, len]), receiveFlit, lanes, List.foldl_nil]
  rfl

theorem goodFlit_nak (nak : flitNak f = true) :
    goodFlit s l f = if flitSeq f = (getLink (replayFlits (acked s l f) l) l).rxNext then nextFlit (replayFlits (acked s l f) l) l f
      else discardFlit (replayFlits (acked s l f) l) l := by
  unfold goodFlit
  dsimp only
  rw [if_pos nak]
  rfl

theorem goodFlit_plain (plain : flitNak f = false) :
    goodFlit s l f = if flitSeq f = (getLink (acked s l f) l).rxNext then nextFlit (acked s l f) l f else discardFlit (acked s l f) l := by
  unfold goodFlit
  rw [plain]
  rfl

theorem getLink_withEvents (s : State) (e : List (Nat × Nat)) (l : Nat) : getLink { s with events := e } l = getLink s l := rfl

theorem TakesFlit.withEvents {t : State} (h : TakesFlit s t l f) (e : List (Nat × Nat)) : TakesFlit s { t with events := e } l f :=
  ⟨h.state, h.fecSym, h.mem, h.cells, h.others⟩

theorem getLink_discardFlit (s : State) (l : Nat) : getLink (discardFlit s l) l = { getLink s l with nakSent := true } := getLink_setLink ..

theorem TakesFlit.discardFlit {t : State} (h : TakesFlit s t l f) : TakesFlit s (discardFlit t l) l f := h.modLink _ fun _ => ⟨rfl, rfl⟩

theorem TakesFlit.replayed {t : State} (h : TakesFlit s t l f) : TakesFlit s (replayed t l) l f := h.modLink _ fun _ => ⟨rfl, rfl⟩

theorem TakesFlit.fcrcCounted {t : State} (h : TakesFlit s t l f) : TakesFlit s (fcrcCounted t l) l f := h.modLink _ fun _ => ⟨rfl, rfl⟩

theorem TakesFlit.uncorrCounted {t : State} (h : TakesFlit s t l f) : TakesFlit s (uncorrCounted t l) l f := h.modLink _ fun _ => ⟨rfl, rfl⟩

theorem discardFlit_events (s : State) (l : Nat) : (Machine.discardFlit s l).events = s.events := rfl

/-- A flit in its turn advances the sequence, and brings credits (R341). -/
def flitCounted (s : State) (l : Nat) (f : Flit) : State :=
  Machine.modLink s l (fun x => { x with rxNext := x.rxNext + 1, nakSent := false, credits := x.credits.mapIdx (fun i v => min 512 (v + flitCredit f i)) })

theorem getLink_flitCounted (s : State) (l : Nat) (f : Flit) : getLink (flitCounted s l f) l = { getLink s l with
    rxNext := (getLink s l).rxNext + 1, nakSent := false
    credits := (getLink s l).credits.mapIdx (fun i v => min 512 (v + flitCredit f i)) } := getLink_setLink ..

theorem flitCounted_fabs (s : State) (l : Nat) (f : Flit) : (flitCounted s l f).fabs = s.fabs := rfl

theorem flitCounted_events (s : State) (l : Nat) (f : Flit) : (flitCounted s l f).events = s.events := rfl

theorem TakesFlit.flitCounted {t : State} (h : TakesFlit s t l f) : TakesFlit s (flitCounted t l f) l f := h.modLink _ fun _ => ⟨rfl, rfl⟩

/-- What is left of a packet that goes on in the next flit. -/
def waiting (s : State) (l : Nat) (rx : List Byte) : State := Machine.modLink s l (fun x => { x with rx := rx })

theorem getLink_waiting (s : State) (l : Nat) (rx : List Byte) : getLink (waiting s l rx) l = { getLink s l with rx := rx } := getLink_setLink ..

theorem TakesFlit.waiting {t : State} (h : TakesFlit s t l f) (rx : List Byte) : TakesFlit s (waiting t l rx) l f := h.modLink _ fun _ => ⟨rfl, rfl⟩

theorem waiting_same (s : State) (l : Nat) (rx : List Byte) :
    (Machine.waiting s l rx).mem = s.mem ∧ (Machine.waiting s l rx).cells = s.cells ∧ (Machine.waiting s l rx).events = s.events := ⟨rfl, rfl, rfl⟩

theorem flitPackets_eq (s : State) (l : Nat) (f : Flit) :
    flitPackets s l f = (takePackets 64 ((getLink s l).rx ++ flitSlots f)).1.foldl (fun s p => routePacket s (dieOfLink l) p)
      (Machine.waiting s l (takePackets 64 ((getLink s l).rx ++ flitSlots f)).2) := rfl

/-- The link after FEC and FACK. -/
theorem getLink_received (s : State) (l : Nat) (f : Flit) : ∃ txNext replay, getLink (acked (fecCounted s l f) l f) l =
    { getLink s l with fecSym := ((getLink s l).fecSym + f.corrected) % 2 ^ 64, txNext := txNext, replay := replay } := by
  obtain ⟨_, _, link⟩ := getLink_acked (fecCounted s l f) l f
  rw [getLink_fecCounted] at link
  exact ⟨_, _, link⟩

theorem received_events (s : State) (l : Nat) (f : Flit) : (acked (fecCounted s l f) l f).events = s.events := by
  obtain ⟨_, _, frame⟩ := acked_frame (fecCounted s l f) l f
  rw [frame]
  rfl

theorem received_fabs (s : State) (l : Nat) (f : Flit) : (acked (fecCounted s l f) l f).fabs = s.fabs := by
  obtain ⟨_, _, frame⟩ := acked_frame (fecCounted s l f) l f
  rw [frame]
  rfl

theorem linkUp_state (up : linkUp s l = true) : (getLink s l).state = 5 := (of_decide_eq_true up).1

section
variable (ok : linkOk l = true) (up : linkUp s l = true) (lanes : f.badLanes = []) (len : f.bytes.length = 640)
include ok up lanes len

/-- A flit in its turn: its packets go on in their order (R341). -/
theorem flit_next (sound : f.uncorr = false) (good : flitBad f = false) (plain : flitNak f = false) (turn : flitSeq f = (getLink s l).rxNext) :
    let packets := takePackets 64 ((getLink s l).rx ++ flitSlots f)
    ∃ v, exec (.flitReceive l f) s = .next (packets.1.foldl (fun s p => routePacket s (dieOfLink l) p) v) ∧
      (getLink v l).rxNext = (getLink s l).rxNext + 1 ∧ (getLink v l).rx = packets.2 ∧ v.mem = s.mem ∧ v.cells = s.cells ∧
      ((∀ d, d < 4 → (getFab s d).held = []) → TakesFlit s v l f ∧ (getLink v l).nakSent = false ∧
        (getLink v l).credits = (getLink s l).credits.mapIdx (fun i v => min 512 (v + flitCredit f i)) ∧ v.events = s.events) := by
  have ran := exec_flitReceive ok up lanes len
  have takes := (takesFlit_fecCounted f (linkUp_state up)).acked
  have events := received_events s l f
  have fabs := received_fabs s l f
  obtain ⟨_, _, link⟩ := getLink_received s l f
  rw [sound, if_neg (by decide), good, if_neg (by decide), goodFlit_plain plain, if_pos (by rw [link]; exact turn)] at ran
  generalize acked (fecCounted s l f) l f = t at *
  have counted := getLink_flitCounted t l f
  rw [link] at counted
  have released : EmitFrame (flitCounted t l f) ((List.range 4).foldl releaseHeld (flitCounted t l f)) := .foldl emitFrame_releaseHeld _ _
  have goes : nextFlit t l f = flitPackets ((List.range 4).foldl releaseHeld (flitCounted t l f)) l f := rfl
  have idle : (∀ d, d < 4 → (getFab s d).held = []) → (List.range 4).foldl releaseHeld (flitCounted t l f) = flitCounted t l f := fun none =>
    releaseAll_of_noneHeld fun d hd => by rw [getFab_of_fabs (flitCounted_fabs ..), getFab_of_fabs fabs, none d hd]
  have takes' := takes.flitCounted
  have events' := (flitCounted_events t l f).trans events
  have rx : (getLink ((List.range 4).foldl releaseHeld (flitCounted t l f)) l).rx = (getLink s l).rx := by
    rw [released.link l Link.rx fun _ _ _ _ => rfl, counted]
  rw [goes, flitPackets_eq, rx] at ran
  intro packets
  refine ⟨_, ran, ?_, ?_, ?_, ?_, fun none => ?_⟩
  · rw [getLink_waiting]
    exact (released.link l Link.rxNext fun _ _ _ _ => rfl).trans (by rw [counted])
  · rw [getLink_waiting]
  · exact (waiting_same ..).1.trans ((released.keeps State.mem fun _ _ _ _ => rfl).trans takes'.mem)
  · exact (waiting_same ..).2.1.trans ((released.keeps State.cells fun _ _ _ _ => rfl).trans takes'.cells)
  · rw [idle none, getLink_waiting, counted]
    exact ⟨takes'.waiting _, rfl, rfl, (waiting_same ..).2.2.trans events'⟩

/-- A flit out of its turn is discarded (R341). -/
theorem flit_late (sound : f.uncorr = false) (good : flitBad f = false) (plain : flitNak f = false) (late : flitSeq f ≠ (getLink s l).rxNext) :
    ∃ u, exec (.flitReceive l f) s = .next u ∧ TakesFlit s u l f ∧ (getLink u l).rxNext = (getLink s l).rxNext ∧ (getLink u l).nakSent = true ∧
      u.events = s.events := by
  have ran := exec_flitReceive ok up lanes len
  have takes := (takesFlit_fecCounted f (linkUp_state up)).acked
  have events := received_events s l f
  obtain ⟨_, _, link⟩ := getLink_received s l f
  rw [sound, if_neg (by decide), good, if_neg (by decide), goodFlit_plain plain, if_neg (by rw [link]; exact late)] at ran
  generalize acked (fecCounted s l f) l f = t at *
  refine ⟨_, ran, takes.discardFlit, ?_, ?_, (discardFlit_events ..).trans events⟩ <;> rw [getLink_discardFlit]
  rw [link]

/-- A NAK has the flits not yet acknowledged sent again (R342). -/
theorem flit_nak (sound : f.uncorr = false) (good : flitBad f = false) (nak : flitNak f = true) (late : flitSeq f ≠ (getLink s l).rxNext) :
    ∃ u, exec (.flitReceive l f) s = .next u ∧ TakesFlit s u l f ∧
      ∃ n, (getLink u l).llretry = wrap32 ((getLink s l).llretry + n) ∧ u.events = List.replicate n (iLinkRetry, l) ++ s.events := by
  have ran := exec_flitReceive ok up lanes len
  have takes := (takesFlit_fecCounted f (linkUp_state up)).acked
  have events := received_events s l f
  obtain ⟨_, _, link⟩ := getLink_received s l f
  rw [sound, if_neg (by decide), good, if_neg (by decide), goodFlit_nak nak, replayFlits_eq, getLink_withEvents] at ran
  generalize acked (fecCounted s l f) l f = t at *
  have again : getLink (replayed t l) l = { getLink t l with llretry := wrap32 ((getLink t l).llretry + (getLink t l).replay.length) } :=
    getLink_setLink ..
  rw [if_neg (by rw [again, link]; exact late)] at ran
  refine ⟨_, ran, (takes.replayed.withEvents _).discardFlit, (getLink t l).replay.length, ?_, ?_⟩
  · rw [getLink_discardFlit, getLink_withEvents, again, link]
  · rw [← events]
    exact discardFlit_events ..

/-- A flit whose FCRC fails is discarded and counted (R341). -/
theorem flit_bad (sound : f.uncorr = false) (bad : flitBad f = true) :
    ∃ u, exec (.flitReceive l f) s = .next u ∧ TakesFlit s u l f ∧ (getLink u l).rxNext = (getLink s l).rxNext ∧ (getLink u l).nakSent = true ∧
      (getLink u l).crcFail = satAdd 0xFFFF (getLink s l).crcFail 1 := by
  have ran := exec_flitReceive ok up lanes len
  have takes := takesFlit_fecCounted f (linkUp_state up)
  have link := getLink_fecCounted s l f
  rw [sound, if_neg (by decide), if_pos bad] at ran
  generalize fecCounted s l f = t at *
  have counted : getLink (fcrcCounted t l) l = { getLink t l with crcFail := satAdd 0xFFFF (getLink t l).crcFail 1 } := getLink_setLink ..
  refine ⟨_, ran, takes.fcrcCounted.discardFlit, ?_, ?_, ?_⟩ <;> rw [getLink_discardFlit]
  · rw [counted, link]
  · rw [counted, link]

/-- A codeword that cannot be corrected, the sixteenth within 25,000 ticks aside, is discarded and counted (R437). -/
theorem flit_uncorrected (uncorr : f.uncorr = true)
    (few : ((getLink s l).uncorrTimes.filter (fun t => decide (s.ember < t + 25000))).length < 15) :
    ∃ u, exec (.flitReceive l f) s = .next u ∧ TakesFlit s u l f ∧ (getLink u l).rxNext = (getLink s l).rxNext ∧ (getLink u l).nakSent = true ∧
      (getLink u l).uncorr = satAdd 0xFFFF (getLink s l).uncorr 1 := by
  have ran := exec_flitReceive ok up lanes len
  have takes := takesFlit_fecCounted f (linkUp_state up)
  have link := getLink_fecCounted s l f
  have now : (fecCounted s l f).ember = s.ember := rfl
  rw [if_pos uncorr] at ran
  generalize fecCounted s l f = t at *
  have counted : getLink (uncorrCounted t l) l = { getLink t l with
      uncorr := satAdd 0xFFFF (getLink t l).uncorr 1
      uncorrTimes := t.ember :: (getLink t l).uncorrTimes.filter (fun w => decide (t.ember < w + 25000)) } := getLink_setLink ..
  have goes : badCodeword t l = discardFlit (uncorrCounted t l) l := by
    refine if_neg ?_
    change ¬ 16 ≤ (getLink (discardFlit (uncorrCounted t l) l) l).uncorrTimes.length
    rw [getLink_discardFlit, counted, link, now]
    exact Nat.not_le.mpr (Nat.succ_lt_succ few)
  rw [goes] at ran
  refine ⟨_, ran, takes.uncorrCounted.discardFlit, ?_, ?_, ?_⟩ <;> rw [getLink_discardFlit]
  · rw [counted, link]
  · rw [counted, link]

end

end

theorem linkControlAndFlits : LinkControlAndFlits := by
  intro s l ok
  refine ⟨fun v t reserved => ⟨fun plain enable => linkEnable_stays ok t reserved plain enable,
      fun plain disable => linkEnable_down ok t reserved plain disable, fun retrain active => linkRetrain_down ok t reserved retrain active,
      fun retrain retired => linkRetrain_retired ok t reserved retrain retired⟩,
    fun v t reserved => ⟨fun plain => ?_, fun retrain => ?_⟩, fun f up lanes len => ⟨fun sound good plain turn => ?next,
      fun sound good plain late => ?late, fun sound good nak late => ?nak, fun sound bad => ?bad, fun uncorr few => ?uncorrected⟩⟩
  · rw [exec_linkEnable ok plain, writeLinkCtrl_reserved t reserved]
  · rw [exec_linkRetrain ok retrain, writeLinkCtrl_reserved t reserved]
  case next =>
    obtain ⟨v, ran, seq, rx, mem, cells, quiet⟩ := flit_next ok up lanes len sound good plain turn
    refine ⟨⟨v, ran, seq, rx, mem, cells⟩, fun none noPacket => ?_⟩
    obtain ⟨takes, nak, credits, events⟩ := quiet none
    rw [noPacket, List.foldl_nil] at ran
    exact takes.takes ran ⟨seq, nak, rx, credits, events⟩
  case late =>
    obtain ⟨u, ran, takes, more⟩ := flit_late ok up lanes len sound good plain late
    exact takes.takes ran more
  case nak =>
    obtain ⟨u, ran, takes, more⟩ := flit_nak ok up lanes len sound good nak late
    exact takes.takes ran more
  case bad =>
    obtain ⟨u, ran, takes, more⟩ := flit_bad ok up lanes len sound bad
    exact takes.takes ran more
  case uncorrected =>
    obtain ⟨u, ran, takes, more⟩ := flit_uncorrected ok up lanes len uncorr few
    exact takes.takes ran more

/-- Settles O47: a link that enters a state does nothing else until packets move, and each step of receiving a flit writes its own fields. -/
theorem linksTrainAndCarry : Obligations.LinksTrainAndCarry := ⟨linkTraining, linkControlAndFlits⟩

end Sys2Proof.Machine
end

section
/-!
PROOF. A refutation (O48): the directory of die 0 holds a line whose home is die 1.
-/
namespace Sys2Proof.Machine
open Sys2Proof.Claim

/-- A member asks for line 0 of region 1, which it may not reach: the region is not there (R369). -/
def strayAsk : Packet := { Packet.blank .crd 2 with src := 5, cls := 3, region := 1, dstk := 1 }

/-- The channel of die 1 to that member, with a packet of job 0 that is not acknowledged and no path. -/
def strayChannel : SendCh :=
  { id := 0, dst := 5, dstk := 0, cls := 3, next := 1, opened := true, path := none, waitQ := [], progressAt := 0, idleAt := 0
    unacked := [{ pkt := Packet.blank .cdata 5, resent := 0, job := some 0, who := none }] }

/-- Job 0 holds a page of a cached copy that is not the newest. -/
def strayJob : Job := { Job.none with
  loaded := true
  caches := [{ shard := 0, die := 0, version := 0, digest := 0, holds := 1, newest := false, discarded := false, users := []
               pages := [(7, { target := .fabric 0, r := true, w := false, rm := false, ns := false, imm := false, a := false, loc := 0 })] }] }

/-- Die 0 lists line 0 of region 1, whose home is die 1, where a request waits. -/
def strayState : State := { State.reset with
  pkgId := 2, pkgSet := true
  pwr := { Pwr.reset with pstate := 2 }
  sec := { Sec.reset with bootState := 3 }
  fabs := [(0, { Fab.reset with dir := [(17179869184, DLine.reset)] }),
           (1, { Fab.reset with dir := [(17179869184, { DLine.reset with pend := [strayAsk] })], send := [strayChannel] })]
  cells := [(0, { Cell.reset with tlb := [(7, 0)] })]
  jobs := [(0, strayJob)] }

/-- A RACK for die 0. -/
def strayRack : Packet := Packet.blank .rack 2

theorem exec_zfpRack {s : State} {d : Nat} {p : Packet} (store : storeOk d = true) (inbound : inboundOk s d p .rack = true) :
    exec (.zfpRack d p) s = .next (takeRack s d p) := by
  change onUnit (storeOk d) _ = _
  rw [store, onUnit_true, takeResponse, if_pos inbound]

theorem strayRack_inbound : inboundOk strayState 0 strayRack .rack = true := by decide

theorem strayState_tlb : (getCell strayState 0).tlb = [(7, 0)] := rfl

/-- The request that waits at die 1 is refused; the answer finds no path, job 0 faults, and its page leaves the cell's TLB. -/
theorem strayRack_tlb : (getCell (takeRack strayState 0 strayRack) 0).tlb = [] := rfl

/-- Refutes O48: after a RACK a die serves each line that its directory lists at that line's home. Where the home is another die, a request waits there,
whatever the die's own entries hold: its answer may end a channel and fault a job, which changes cells. -/
theorem not_fabricGoesOn : ¬ Obligations.FabricGoesOn := by
  rintro ⟨responses, -⟩
  have noneListed : ∀ e ∈ (getFab strayState 0).dir, e.2.pend = [] := by decide
  obtain ⟨rack, -⟩ := responses strayState 0 strayRack rfl
  obtain ⟨u, ran, -, -, cells⟩ := rack strayRack_inbound rfl noneListed
  have served : takeRack strayState 0 strayRack = u := Host.Outcome.next.inj ((exec_zfpRack rfl strayRack_inbound).symm.trans ran)
  have kept : (getCell (takeRack strayState 0 strayRack) 0).tlb = (getCell strayState 0).tlb := by rw [served, getCell, cells, getCell]
  rw [strayRack_tlb, strayState_tlb] at kept
  exact absurd kept (by decide)

end Sys2Proof.Machine
end

section
/-!
PROOF. Packets that come to their target (O44): those of a channel in its order (R351), and what a packet in its turn leaves of its channel.
-/
namespace Sys2Proof.Machine
open Sys2Proof.Claim

/-! ### Receiving entries -/

section
variable {f : Fab} {p : Packet} {e : RecvCh}

/-- An entry of the packet's channel that stands where one of its channel stood, or where none stood, is the one that the channel finds. -/
theorem find?_putRecv (key : recvKey p e = true) (place : (f.recv.find? (recvKey p)).all (fun x => decide (x.id = e.id)) = true) :
    (putRecv f e).recv.find? (recvKey p) = some e := by
  have replaced : ∀ l : List RecvCh, (l.find? (recvKey p)).all (fun x => decide (x.id = e.id)) = true → l.any (fun x => decide (x.id = e.id)) = true →
      (l.map (fun x => if x.id = e.id then e else x)).find? (recvKey p) = some e := by
    intro l
    induction l with
    | nil => simp
    | cons x rest ih =>
      intro place listed
      by_cases same : x.id = e.id
      · simp [same, key]
      · have other : recvKey p x = false := by
          by_contra found
          rw [Bool.not_eq_false] at found
          simp [found, same] at place
        simpa [same, other] using ih (by simpa [other] using place) (by simpa [same] using listed)
  unfold putRecv
  dsimp only
  split
  next listed => exact replaced _ place listed
  next unlisted =>
    have none : f.recv.find? (recvKey p) = none := by
      cases found : f.recv.find? (recvKey p) with
      | none => rfl
      | some x =>
        have same : x.id = e.id := by simpa [found] using place
        exact absurd (List.any_eq_true.mpr ⟨x, List.mem_of_find?_eq_some found, by simp [same]⟩) unlisted
    rw [List.find?_append, none, Option.none_or, List.find?_singleton, if_pos key]

/-- The entry that a packet meets is of its channel, and stands in that channel's place. -/
theorem recvEntry_spec {now : Nat} (met : recvEntry f p now = some e) :
    recvKey p e = true ∧ (f.recv.find? (recvKey p)).all (fun x => decide (x.id = e.id)) = true := by
  unfold recvEntry at met
  dsimp only at met
  split at met
  · obtain rfl := Option.some.inj met
    refine ⟨by simp [recvKey], ?_⟩
    cases f.recv.find? (recvKey p) <;> simp
  · exact ⟨List.find?_some met, by simp [met]⟩

end

/-! ### Commands -/

/-- A command of a request or a sequenced packet, with its type. -/
def PacketCommand (k : (Nat → Packet → Instr) × PType) : Prop :=
  k ∈ ([(.zfpRd, .rd), (.zfpWr, .wr), (.zfpAtom, .atom), (.zfpArrive, .arrive), (.zfpMark, .mark), (.zfpXfer, .xfer), (.zfpCrd, .crd),
    (.zfpCrdx, .crdx), (.zfpCdata, .cdata), (.zfpCrecall, .crecall), (.zfpCrack, .crack), (.zfpCwb, .cwb)] : List ((Nat → Packet → Instr) × PType))

section
variable {k : (Nat → Packet → Instr) × PType} {s : State} {d : Nat} {p : Packet}

theorem exec_packet (command : PacketCommand k) (store : storeOk d = true) : exec (k.1 d p) s = .next (takePacket s d p k.2) := by
  have takes : exec (k.1 d p) s = onUnit (storeOk d) (takePacket s d p k.2) := by
    simp only [PacketCommand, List.mem_cons, List.not_mem_nil, or_false] at command
    rcases command with rfl | rfl | rfl | rfl | rfl | rfl | rfl | rfl | rfl | rfl | rfl | rfl <;> rfl
  rw [takes, store, onUnit_true]

section
variable (command : PacketCommand k) (store : storeOk d = true) (inbound : inboundOk s d p k.2 = true)
include command store inbound

theorem exec_packet_unsequenced {t : State} (cls0 : p.cls ≠ 0) (cls3 : p.cls ≠ 3) (done : deliver1 s d p = some t) :
    exec (k.1 d p) s = .next t := by
  rw [exec_packet command store, takePacket, inbound, if_neg (by decide), if_neg (not_or.mpr ⟨cls0, cls3⟩), done, Option.getD_some]

theorem exec_packet_sequenced (cls : p.cls = 0 ∨ p.cls = 3) : exec (k.1 d p) s = .next (receiveSeq s d p) := by
  rw [exec_packet command store, takePacket, inbound, if_neg (by decide), if_pos cls]

end

/-- The channel's entry after its packet has been performed. -/
def channelAdvanced (t : State) (d : Nat) (p : Packet) (e : RecvCh) : State :=
  modFab t d (fun f => putRecv f { e with next := e.next + 1, pendObjs := e.pendObjs ++ arrivesOn p })

/-- The packet that its channel expects is performed, and successors follow (R351). -/
theorem receiveSeq_inTurn {e : RecvCh} {t : State} (met : recvEntry (getFab s d) p s.ember = some e) (room : recvFull (getFab s d) p = false)
    (turn : p.cseq = e.next) (done : deliver1 (entered s d e) d p = some t) :
    receiveSeq s d p = deliverHeld 4096 (channelAdvanced t d p { e with usedAt := s.ember }) d p := by
  unfold receiveSeq
  simp only [met, room, turn, BitVec.sub_self, BitVec.toNat_zero, if_true, Bool.false_eq_true, if_false]
  split
  next none => exact absurd (done.symm.trans none) (by simp)
  next found =>
    obtain rfl := Option.some.inj (done.symm.trans found)
    rfl

/-- A packet that runs ahead of NEXT is held (R351). -/
theorem receiveSeq_ahead {e : RecvCh} (met : recvEntry (getFab s d) p s.ember = some e) (room : recvFull (getFab s d) p = false)
    (ahead : 0 < (p.cseq - e.next).toNat) (near : (p.cseq - e.next).toNat < 4096) (fresh : e.held.any (fun q => decide (q.cseq = p.cseq)) = false)
    (few : ((getFab (entered s d e) d).recv.map (fun x => x.held.length)).sum < 2048) :
    receiveSeq s d p = modFab (entered s d e) d (fun f => putRecv f { e with usedAt := s.ember, held := e.held ++ [p] }) := by
  unfold receiveSeq
  simp only [met, room, near, Bool.false_eq_true, if_false, if_true, if_neg (Nat.ne_of_gt ahead), fresh]
  exact if_neg (by simpa [entered] using few)

/-- A packet of no channel is counted (R351). -/
theorem receiveSeq_noChannel (none : recvEntry (getFab s d) p s.ember = none) : receiveSeq s d p = countDup s d := by
  simp only [receiveSeq, none]

end

theorem packetsAreReceivedInOrder : PacketsAreReceivedInOrder := by
  intro k command s d p store inbound
  refine ⟨fun cls0 cls3 t done => exec_packet_unsequenced command store inbound cls0 cls3 done,
    fun cls => ⟨fun e met room => ⟨?turn, ?ahead⟩, ?none⟩⟩
  case turn =>
    intro t turn done
    rw [exec_packet_sequenced command store inbound cls, receiveSeq_inTurn met room turn done]
    rfl
  case ahead =>
    intro ahead near fresh few
    rw [exec_packet_sequenced command store inbound cls, receiveSeq_ahead met room ahead near fresh few]
    rfl
  case none =>
    intro none
    rw [exec_packet_sequenced command store inbound cls, receiveSeq_noChannel none]
    rfl

end Sys2Proof.Machine
end

section
/-!
PROOF. A packet in its turn (O44): what it does is what its handler does, and its channel goes on; then the packets of classes 0 and 2.
-/
namespace Sys2Proof.Machine
open Sys2Proof.Claim

/-! ### A packet in its turn, with no successor held -/

/-- A channel whose entry holds no successor has nothing more to deliver. -/
theorem deliverHeld_of_noneHeld {s : State} {d : Nat} {p : Packet} {e : RecvCh} (fuel : Nat)
    (entry : (getFab s d).recv.find? (recvKey p) = some e) (none : e.held = []) : deliverHeld (fuel + 1) s d p = s := by
  unfold deliverHeld
  simp only [entry, none, List.find?_nil]

section
variable {k : (Nat → Packet → Instr) × PType} {s t : State} {d : Nat} {p : Packet} {e : RecvCh}

theorem getFab_entered (s : State) (d : Nat) (e : RecvCh) (k : Nat) :
    getFab (entered s d e) k = if k = d then putRecv (getFab s k) { e with usedAt := s.ember } else getFab s k := getFab_modFab_if ..

theorem getFab_channelAdvanced (t : State) (d : Nat) (p : Packet) (e : RecvCh) (k : Nat) : getFab (channelAdvanced t d p e) k =
    if k = d then putRecv (getFab t k) { e with next := e.next + 1, pendObjs := e.pendObjs ++ arrivesOn p } else getFab t k := getFab_modFab_if ..

/-- The packet is performed, its channel goes on, and that is all (R351). -/
theorem exec_packet_inTurn (command : PacketCommand k) (store : storeOk d = true) (inbound : inboundOk s d p k.2 = true) (cls : p.cls = 0 ∨ p.cls = 3)
    (turn : InTurn s d p e) (done : deliver1 (entered s d e) d p = some t) (kept : (getFab t d).recv = (getFab (entered s d e) d).recv) :
    exec (k.1 d p) s = .next (channelAdvanced t d p { e with usedAt := s.ember }) := by
  obtain ⟨met, room, next, none⟩ := turn
  obtain ⟨key, place⟩ := recvEntry_spec met
  have key' : recvKey p { e with usedAt := s.ember } = true := key
  have stands : (getFab t d).recv.find? (recvKey p) = some { e with usedAt := s.ember } := by
    rw [kept, getFab_entered, if_pos rfl]
    exact find?_putRecv key' place
  have entry : (getFab (channelAdvanced t d p { e with usedAt := s.ember }) d).recv.find? (recvKey p) =
      some { e with usedAt := s.ember, next := e.next + 1, pendObjs := e.pendObjs ++ arrivesOn p } := by
    rw [getFab_channelAdvanced, if_pos rfl]
    exact find?_putRecv key (by simp [stands])
  rw [exec_packet_sequenced command store inbound cls, receiveSeq_inTurn met room next done]
  exact congrArg _ (deliverHeld_of_noneHeld 4095 entry none)

/-- A field of a fabric unit that has nothing to do with its receiving channels, before the packet. -/
theorem entered_fab {α : Type} (s : State) (d : Nat) (e : RecvCh) (k : Nat) (g : Fab → α) (same : ∀ x a b, g { x with recv := a, nextId := b } = g x) :
    g (getFab (entered s d e) k) = g (getFab s k) := by
  rw [getFab_entered]
  split
  · exact same ..
  · rfl

/-- A field of a fabric unit that has nothing to do with its receiving channels, after the packet. -/
theorem channelAdvanced_fab {α : Type} (t : State) (d : Nat) (p : Packet) (e : RecvCh) (k : Nat) (g : Fab → α)
    (same : ∀ x a b, g { x with recv := a, nextId := b } = g x) : g (getFab (channelAdvanced t d p e) k) = g (getFab t k) := by
  rw [getFab_channelAdvanced]
  split
  · exact same ..
  · rfl

end

/-! ### Writes to device memory -/

/-- Bytes written in one piece of device memory. -/
theorem writePieces_device {s : State} {va n m : Nat} {b : List Byte} (len : b.length = n) (device : m + n ≤ hostBase) :
    memRead (writePieces s [⟨va, n, .phys m⟩] b).mem m n = b ∧
      (∀ a, a < m ∨ m + n ≤ a → memByte (writePieces s [⟨va, n, .phys m⟩] b).mem a = memByte s.mem a) ∧
      (writePieces s [⟨va, n, .phys m⟩] b).fabs = s.fabs := by
  have mem : (writePieces s [⟨va, n, .phys m⟩] b).mem = memWrite s.mem m b := by
    have written : (writePieces s [⟨va, n, .phys m⟩] b).mem = (physWrite s m (b.take n)).mem := rfl
    rw [written, List.take_of_length_le (Nat.le_of_eq len), physWrite]
    split
    next host =>
      have empty : b = [] := List.length_eq_zero_iff.mp (by omega)
      rw [empty]
      rfl
    next => rfl
  refine ⟨?_, fun a outside => ?_, ?_⟩
  · rw [mem, ← len]
    exact memRead_memWrite_same ..
  · rw [mem]
    rcases outside with below | above
    · exact memByte_memWrite_below _ _ below
    · exact memByte_memWrite_above _ _ (by omega)
  · obtain ⟨_, _, _, eq⟩ := writePieces_frame s [⟨va, n, .phys m⟩] b
    rw [eq]

/-! ### WR, ARRIVE, MARK, XFER -/

theorem inboundOk_spec {s : State} {d : Nat} {p : Packet} {typ : PType} (inbound : inboundOk s d p typ = true) :
    p.typ = typ ∧ p.dstk = d ∧ s.failTrigger = 0 := by
  simp only [inboundOk, running, Bool.and_eq_true, decide_eq_true_eq] at inbound
  obtain ⟨⟨⟨⟨⟨typ, die⟩, -⟩, -⟩, -, trigger, -⟩, -⟩ := inbound
  exact ⟨typ, die, trigger⟩

theorem touchFrame_touchInbound {s : State} (sound : s.upsets = []) (d j va n : Nat) (k : Acc) (ps : List Piece) :
    TouchFrame s (touchInbound s d j va n k ps) := by
  rw [touchInbound, meetPieces_of_sound ps sound, ite_self]
  exact touchFrame_touchRanges ..

theorem TouchFrame.keeps {α : Type} {s u : State} (h : TouchFrame s u) (g : State → α)
    (same : ∀ a b c d, g { s with cells := a, stores := b, jobs := c, free := d } = g s) : g u = g s := by
  obtain ⟨_, _, _, _, rfl⟩ := h.only
  exact same ..

theorem postArrive_same (s : State) (i : Nat) (v : BitVec 32) : (postArrive s i v).mem = s.mem ∧ (postArrive s i v).fabs = s.fabs := ⟨rfl, rfl⟩

/-- What a WR leaves in memory, whether or not it then arrives on an object. -/
theorem deliverWr_writes {s : State} {d j va : Nat} {p : Packet} {ps : List Piece} (passed : checkInbound s d p (pktBytes p) .wr = .ok j va ps) :
    ∃ u, deliverWr s d p = some u ∧
      u.mem = (writePieces (touchInbound s d j va (pktBytes p) .wr ps) ps (p.payload.take (pktBytes p))).mem ∧
      u.fabs = (writePieces (touchInbound s d j va (pktBytes p) .wr ps) ps (p.payload.take (pktBytes p))).fabs := by
  refine ⟨_, deliverWr_ok passed, ?_⟩
  split
  · exact ⟨rfl, rfl⟩
  · exact postArrive_same ..

section
variable {s : State} {d : Nat} {p : Packet} {e : RecvCh} (store : storeOk d = true) (turn : InTurn s d p e)
include store turn

theorem exec_zfpWr_inTurn {j va m : Nat} (sound : s.upsets = []) (inbound : inboundOk s d p .wr = true) (cls : p.cls = 0)
    (passed : checkInbound (entered s d e) d p (pktBytes p) .wr = .ok j va [⟨va, pktBytes p, .phys m⟩]) (device : m + pktBytes p ≤ hostBase)
    (full : pktBytes p ≤ p.payload.length) :
    ∃ u, exec (.zfpWr d p) s = .next u ∧ memRead u.mem m (pktBytes p) = p.payload.take (pktBytes p) ∧
      (∀ a, a < m ∨ m + pktBytes p ≤ a → memByte u.mem a = memByte s.mem a) := by
  obtain ⟨typ, -, -⟩ := inboundOk_spec inbound
  have touched := touchFrame_touchInbound (s := entered s d e) sound d j va (pktBytes p) .wr [⟨va, pktBytes p, .phys m⟩]
  have mem : (touchInbound (entered s d e) d j va (pktBytes p) .wr [⟨va, pktBytes p, .phys m⟩]).mem = s.mem := touched.keeps State.mem fun _ _ _ _ => rfl
  have fabs := touched.keeps State.fabs fun _ _ _ _ => rfl
  obtain ⟨u, done, mem', fabs'⟩ := deliverWr_writes passed
  generalize touchInbound (entered s d e) d j va (pktBytes p) .wr [⟨va, pktBytes p, .phys m⟩] = t at mem fabs mem' fabs'
  obtain ⟨read, others, same⟩ := writePieces_device (s := t) (va := va) (List.length_take_of_le full) device
  refine ⟨_, exec_packet_inTurn (k := (.zfpWr, .wr)) (by simp [PacketCommand]) store inbound (.inl cls) turn ((deliver1_wr typ).trans done)
    (by rw [getFab_of_fabs (fabs'.trans (same.trans fabs))]), ?_⟩
  have kept : (channelAdvanced u d p { e with usedAt := s.ember }).mem = (writePieces t [⟨va, pktBytes p, .phys m⟩] (p.payload.take (pktBytes p))).mem :=
    mem'
  rw [kept]
  exact ⟨read, fun a outside => by rw [others a outside, mem]⟩

theorem exec_zfpArrive_inTurn (inbound : inboundOk s d p .arrive = true) (cls : p.cls = 0) (accepted : arriveCode (entered s d e) p = none) :
    ∃ u, exec (.zfpArrive d p) s = .next u ∧
      getPort u (p.w3.toNat % 262144) = getPort s (p.w3.toNat % 262144) ++ [.arrive (BitVec.ofNat 32 (p.w3.toNat / 4294967296)) none] := by
  obtain ⟨typ, -, -⟩ := inboundOk_spec inbound
  have done := deliver1_arrive (s := entered s d e) (d := d) typ
  rw [deliverArrive_accepted accepted] at done
  exact ⟨_, exec_packet_inTurn (k := (.zfpArrive, .arrive)) (by simp [PacketCommand]) store inbound (.inl cls) turn done rfl, getPort_setPort ..⟩

theorem exec_zfpMark_inTurn (inbound : inboundOk s d p .mark = true) (cls : p.cls = 0) (few : (getFab s d).marks.length < 64) :
    ∃ u, exec (.zfpMark d p) s = .next u ∧ (getFab u d).marks = (getFab s d).marks ++ [(p.src, p.w3.setWidth 32, s.ember)] := by
  obtain ⟨typ, -, -⟩ := inboundOk_spec inbound
  have done := deliver1_mark (s := entered s d e) (d := d) typ
  have marks := deliverMark_marks (s := entered s d e) (d := d) (p := p)
  rw [entered_fab s d e d Fab.marks fun _ _ _ => rfl, Nat.sub_eq_zero_of_le (by omega), List.drop_zero] at marks
  have kept : (getFab (deliverMark (entered s d e) d p) d).recv = (getFab (entered s d e) d).recv := by rw [deliverMark, getFab_modFab_if, if_pos rfl]
  refine ⟨_, exec_packet_inTurn (k := (.zfpMark, .mark)) (by simp [PacketCommand]) store inbound (.inl cls) turn done kept, ?_⟩
  rw [channelAdvanced_fab _ d p _ d Fab.marks fun _ _ _ => rfl, marks]
  rfl

theorem exec_zfpXfer_inTurn (inbound : inboundOk s d p .xfer = true) (cls : p.cls = 0) (fabric : p.region ≠ 255)
    (valid : (getRegion s p.region).valid = true) (mode : (getRegion s p.region).mode ≠ 3) (owner : p.src = (getRegion s p.region).owner) :
    ∃ u, exec (.zfpXfer d p) s = .next u ∧ (getRegion u p.region).owner = p.w3.setWidth 16 := by
  obtain ⟨typ, -, -⟩ := inboundOk_spec inbound
  have done := deliver1_xfer (s := entered s d e) (d := d) typ
  rw [deliverXfer_fromOwner (s := entered s d e) fabric valid mode owner] at done
  exact ⟨_, exec_packet_inTurn (k := (.zfpXfer, .xfer)) (by simp [PacketCommand]) store inbound (.inl cls) turn done rfl,
    congrArg Region.owner (getRegion_setRegion ..)⟩

end

end Sys2Proof.Machine
end

section
/-!
PROOF. Requests of class 2 complete (O44): an RD is answered with the bytes of memory, an ATOM is applied by the Hearth next (R350, R361).
-/
namespace Sys2Proof.Machine
open Sys2Proof.Claim

section
variable {s : State} {d : Nat} {p : Packet} (store : storeOk d = true) (sound : s.upsets = [])
include store sound

theorem exec_zfpRd_answered {j va : Nat} {ps : List Piece} (inbound : inboundOk s d p .rd = true) (cls : p.cls = 2)
    (passed : checkInbound s d p (pktBytes p) .rd = .ok j va ps) :
    ∃ u, exec (.zfpRd d p) s = .next u ∧ u.mem = s.mem ∧
      (let q := { Packet.blank .rdrsp p.src with
          src := s.pkgId, sstk := d, dstk := p.sstk, cls := 1, tag := p.tag, gen := p.gen, w3 := 0, payload := padded (readPieces s ps) }
       ∀ m l, Leaves s d q m l → mget [] u.sent l = { q with path := m } :: mget [] s.sent l) := by
  obtain ⟨typ, -, -⟩ := inboundOk_spec inbound
  have ran := exec_packet_unsequenced (k := (.zfpRd, .rd)) (by simp [PacketCommand]) store inbound (by simp [cls]) (by simp [cls])
    ((deliver1_rd typ).trans (deliverRd_ok passed))
  have touched := touchFrame_touchInbound sound d j va (pktBytes p) .rd ps
  generalize touchInbound s d j va (pktBytes p) .rd ps = t at ran touched
  have same : SamePaths s t d := by
    obtain ⟨_, _, _, _, eq⟩ := touched.only
    rw [eq]
    exact .of_fabs d rfl rfl rfl rfl rfl rfl
  have pkgId : t.pkgId = s.pkgId := same.pkgId
  have mem := touched.keeps State.mem fun _ _ _ _ => rfl
  have sent := touched.keeps State.sent fun _ _ _ _ => rfl
  refine ⟨_, ran, ((emitFrame_answer ..).keeps State.mem fun _ _ _ _ => rfl).trans mem, fun m l leaves => ?_⟩
  rw [answer, pkgId]
  exact emit_sent leaves same sent

end

/-! ### ATOM (R361, R362) -/

/-- The request that an ATOM puts to the Hearth of its operand. -/
def remoteReq (p : Packet) (op : AtomOp) (m : Nat) : HearthReq :=
  { op := op, parts := [(m, atomWidth p)], a := BitVec.ofNat 64 (leNat (p.payload.take 8)), b := BitVec.ofNat 64 (leNat ((p.payload.drop 8).take 8))
    width := atomWidth p, cell := none, fabric := some p }

/-- The request has joined the Hearth's queue. -/
def remoteQueued (s : State) (h : Nat) (r : HearthReq) : State := modStore s h (fun y => { y with hearthQ := y.hearthQ ++ [r] })

theorem queueAtomic_device {s : State} {p : Packet} {op : AtomOp} {q : Piece} {m : Nat} (target : q.target = .phys m) (len : q.len = atomWidth p) :
    queueAtomic s p op [q] = remoteQueued s (dieOfAddr s m) (remoteReq p op m) := by
  simp only [queueAtomic, List.filterMap_cons, target, len, List.filterMap_nil, List.headD_cons]
  rfl

theorem atomWidth_pos (p : Packet) : 0 < atomWidth p := by
  unfold atomWidth
  split
  · decide
  · exact Nat.two_pow_pos _

/-- The result of a remote atomic is kept under its key (R361). -/
def resultKept (s : State) (p : Packet) (old : Word) (time : Nat) : State :=
  modFab s p.dstk (fun f =>
    { f with kept := f.kept ++ [{ id := f.nextId, src := p.src, sstk := p.sstk, tag := p.tag, gen := p.gen.toNat, old := old, code := 0, time := time }]
             nextId := f.nextId + 1 })

theorem resultKept_mem (s : State) (p : Packet) (old : Word) (time : Nat) : (resultKept s p old time).mem = s.mem := rfl

theorem resultKept_kept (s : State) (p : Packet) (old : Word) (time : Nat) :
    ∃ k ∈ (getFab (resultKept s p old time) p.dstk).kept, keptKey p k = true ∧ k.old = old := by
  rw [resultKept, getFab_modFab_if, if_pos rfl]
  exact ⟨_, List.mem_append_right _ (List.mem_singleton_self _), by simp [keptKey], rfl⟩

theorem applyRemote_value {s : State} {d : Nat} {r : HearthReq} {p : Packet} (value : r.op ≠ .xs) :
    applyRemote s d r p = answer (resultKept (applyAtomic s d r).1 p (BitVec.ofNat 64 (leNat (applyAtomic s d r).2)) s.ember) p.dstk p .atomrsp 0
      (leBytes 8 (BitVec.ofNat 64 (leNat (applyAtomic s d r).2)).toNat) := by
  simp only [applyRemote, value, false_and, if_false]
  rfl

/-- The request has left the Hearth's queue. -/
def hearthEmptied (s : State) (h : Nat) : State := modStore s h (fun x => { x with hearthQ := [] })

/-- An operation on an operand of device memory: its bytes are written there, and its old value is kept (R292, R361). -/
theorem applyRemote_device {s : State} {h m : Nat} {p : Packet} {op : AtomOp} (value : op ≠ .xs) (device : m + atomWidth p ≤ hostBase) :
    let old := memRead s.mem m (atomWidth p)
    let new := atomBytes op (atomWidth p) (BitVec.ofNat 64 (leNat (p.payload.take 8))) (BitVec.ofNat 64 (leNat ((p.payload.drop 8).take 8))) old
    memRead (applyRemote s h (remoteReq p op m) p).mem m (atomWidth p) = new ∧
      (∀ a, a < m ∨ m + atomWidth p ≤ a → memByte (applyRemote s h (remoteReq p op m) p).mem a = memByte s.mem a) ∧
      ∃ k ∈ (getFab (applyRemote s h (remoteReq p op m) p) p.dstk).kept, keptKey p k = true ∧ k.old = BitVec.ofNat 64 (leNat old) := by
  intro old new
  have len : new.length = atomWidth p := (congrArg List.length (if_neg value)).trans (leBytes_length ..)
  obtain ⟨answer, -, _, _, _, _, written⟩ := applyAtomic_device (s := s) (d := h) (r := remoteReq p op m) rfl len
    (by have := atomWidth_pos p; omega)
  have mem : (applyAtomic s h (remoteReq p op m)).1.mem = memWrite s.mem m new := by rw [written]; rfl
  rw [applyRemote_value (r := remoteReq p op m) value, answer]
  generalize (applyAtomic s h (remoteReq p op m)).1 = t at mem
  have sent := emitFrame_answer (resultKept t p (BitVec.ofNat 64 (leNat old)) s.ember) p.dstk p .atomrsp 0
    (leBytes 8 (BitVec.ofNat 64 (leNat old)).toNat)
  have mem' := ((sent.keeps State.mem fun _ _ _ _ => rfl).trans (resultKept_mem ..)).trans mem
  refine ⟨?_, fun a outside => ?_, ?_⟩
  · exact (congrArg (memRead · m (atomWidth p)) mem').trans (len ▸ memRead_memWrite_same s.mem m new)
  · refine (congrArg (memByte · a) mem').trans ?_
    rcases outside with below | above
    · exact memByte_memWrite_below _ _ below
    · exact memByte_memWrite_above _ _ (by omega)
  · obtain ⟨k, listed, key, result⟩ := resultKept_kept t p (BitVec.ofNat 64 (leNat old)) s.ember
    rw [← sent.fab p.dstk Fab.kept fun _ _ _ => rfl] at listed
    exact ⟨k, listed, key, result⟩

/-- A remote atomic that stands alone at its Hearth is applied there (R293, R361). -/
theorem exec_hearthAtomicApply_remote {s : State} {d : Nat} {r : HearthReq} {p : Packet} (store : storeOk d = true) (up : stackUp s d = true)
    (runs : s.failTrigger = 0) (queue : (getStore s d).hearthQ = [r]) (remote : r.fabric = some p) :
    exec (.hearthAtomicApply d) s = .next (applyRemote (hearthEmptied s d) d r p) := by
  change onUnit _ _ = _
  simp only [store, onUnit_true, queue, up, runs, remote, Bool.not_true, Bool.false_eq_true, ne_eq, not_true_eq_false, or_self, if_false]
  rfl

/-- An ATOM that passes its checks, and of which no copy is known, is queued. -/
theorem deliverAtom_queued {s : State} {d j va : Nat} {p : Packet} {op : AtomOp} {ps : List Piece} (aop : atomAop p = some op) (first : p.retry = false)
    (passed : checkInbound s d p (atomWidth p) .atom = .ok j va ps) (new : (getFab s d).kept.find? (keptKey p) = none)
    (fresh : (atomsOf s d).any (sameReq p) = false) (idle : noneWaits s d) (room : entriesUsed s d < keptMax) :
    deliverAtom s d p = some (queueAtomic (touchInbound s d j va (atomWidth p) .atom ps) p op ps) := by
  have noneListed : (getFab s d).dir.any (fun q => q.2.pend.any (sameReq p)) = false := by
    rw [List.any_eq_false]
    intro q hq
    simp [idle.2 q hq]
  have unknown : ((atomsOf s d).any (sameReq p) || (getFab s d).waiting.any (sameReq p) ||
      (getFab s d).dir.any (fun q => q.2.pend.any (sameReq p))) = false := by
    rw [fresh, idle.1, noneListed]
    rfl
  rw [deliverAtom, new]
  dsimp only
  rw [unknown, if_neg (by decide), startRemote, aop]
  dsimp only
  rw [passed]
  dsimp only
  rw [first, if_neg (by decide), if_neg (Nat.not_le.mpr room)]

section
variable {s : State} {d : Nat} {p : Packet} (store : storeOk d = true) (sound : s.upsets = [])
include store sound

/-- An ATOM joins the queue of its operand's Hearth, which applies it next. -/
theorem exec_zfpAtom_applied {j va m : Nat} {q : Piece} {op : AtomOp} (inbound : inboundOk s d p .atom = true) (cls : p.cls = 2) (first : p.retry = false)
    (aop : atomAop p = some op) (value : op ≠ .xs) (passed : checkInbound s d p (atomWidth p) .atom = .ok j va [q]) (target : q.target = .phys m)
    (len : q.len = atomWidth p) (device : m + atomWidth p ≤ hostBase) (new : (getFab s d).kept.find? (keptKey p) = none)
    (fresh : (atomsOf s d).any (sameReq p) = false) (idle : noneWaits s d) (room : entriesUsed s d < keptMax)
    (home : storeOk (dieOfAddr s m) = true) (up : stackUp s (dieOfAddr s m) = true) (alone : (getStore s (dieOfAddr s m)).hearthQ = []) :
    ∃ u w, exec (.zfpAtom d p) s = .next u ∧ exec (.hearthAtomicApply (dieOfAddr s m)) u = .next w ∧
      memRead w.mem m (atomWidth p) = atomBytes op (atomWidth p) (BitVec.ofNat 64 (leNat (p.payload.take 8)))
        (BitVec.ofNat 64 (leNat ((p.payload.drop 8).take 8))) (memRead s.mem m (atomWidth p)) ∧
      (∀ a, a < m ∨ m + atomWidth p ≤ a → memByte w.mem a = memByte s.mem a) ∧
      ∃ k ∈ (getFab w d).kept, keptKey p k = true ∧ k.old = BitVec.ofNat 64 (leNat (memRead s.mem m (atomWidth p))) := by
  obtain ⟨typ, die, trigger⟩ := inboundOk_spec inbound
  have ran := exec_packet_unsequenced (k := (.zfpAtom, .atom)) (by simp [PacketCommand]) store inbound (by simp [cls]) (by simp [cls])
    ((deliver1_atom typ (by simp [cls])).trans (deliverAtom_queued aop first passed new fresh idle room))
  rw [queueAtomic_device target len] at ran
  have touched := touchFrame_touchInbound sound d j va (atomWidth p) .atom [q]
  generalize touchInbound s d j va (atomWidth p) .atom [q] = t at ran touched
  have mem := touched.keeps State.mem fun _ _ _ _ => rfl
  have home' := touched.keeps (fun u => dieOfAddr u m) fun _ _ _ _ => rfl
  have up' := touched.keeps (fun u => stackUp u (dieOfAddr s m)) fun _ _ _ _ => rfl
  have runs := (touched.keeps State.failTrigger fun _ _ _ _ => rfl).trans trigger
  have queue := (touched.hearthKept.queue (dieOfAddr s m)).trans alone
  rw [home'] at ran
  generalize dieOfAddr s m = h at *
  have queued : (getStore (remoteQueued t h (remoteReq p op m)) h).hearthQ = [remoteReq p op m] := by
    rw [remoteQueued, getStore_modStore_if, if_pos rfl, queue, List.nil_append]
  have applied := exec_hearthAtomicApply_remote (s := remoteQueued t h (remoteReq p op m)) home (up'.trans up) runs queued rfl
  have mem' : (hearthEmptied (remoteQueued t h (remoteReq p op m)) h).mem = s.mem := mem
  obtain ⟨read, others, kept⟩ := applyRemote_device (s := hearthEmptied (remoteQueued t h (remoteReq p op m)) h) (h := h) value device
  rw [mem'] at read others kept
  rw [die] at kept
  exact ⟨_, _, ran, applied, read, others, kept⟩

end

end Sys2Proof.Machine
end

section
/-!
PROOF. Coherence packets in their turn (O44): the line at its home, and the line at a member (R368, R369).
-/
namespace Sys2Proof.Machine
open Sys2Proof.Claim

/-! ### Lines -/

theorem dirLine_setDirLine (s : State) (r n : Nat) (x : DLine) : dirLine (setDirLine s r n x) r n = x := by
  rw [dirLine, setDirLine, getFab_modFab_if, if_pos rfl]
  exact mget_mset_same ..

theorem lineAt_setLine (s : State) (f : Nat) (x : MLine) : lineAt (setLine s f x) f = x := by
  rw [lineAt, setLine, getFab_modFab_if, if_pos rfl]
  exact mget_mset_same ..

theorem setDirLine_recv (s : State) (r n k : Nat) (x : DLine) : (getFab (setDirLine s r n x) k).recv = (getFab s k).recv := by
  rw [setDirLine, getFab_modFab_if]
  split <;> rfl

theorem setLine_recv (s : State) (f k : Nat) (x : MLine) : (getFab (setLine s f x) k).recv = (getFab s k).recv := by
  rw [setLine, getFab_modFab_if]
  split <;> rfl

theorem dirLine_of_dir {s u : State} {r : Nat} (same : (getFab u (r % 4)).dir = (getFab s (r % 4)).dir) (n : Nat) : dirLine u r n = dirLine s r n := by
  rw [dirLine, same, dirLine]

theorem lineAt_of_lines {s u : State} {f : Nat} (same : (getFab u (lineDie f)).lines = (getFab s (lineDie f)).lines) : lineAt u f = lineAt s f := by
  rw [lineAt, same, lineAt]

theorem SeqFrame.dirLine {s u : State} (h : SeqFrame s u) (r n : Nat) : dirLine u r n = dirLine s r n :=
  dirLine_of_dir (h.fab _ Fab.dir fun _ _ _ _ _ => rfl) n

theorem SeqFrame.lineAt {s u : State} (h : SeqFrame s u) (f : Nat) : lineAt u f = lineAt s f :=
  lineAt_of_lines (h.fab _ Fab.lines fun _ _ _ _ _ => rfl)

theorem SeqFrame.recv {s u : State} (h : SeqFrame s u) (d : Nat) : (getFab u d).recv = (getFab s d).recv := h.fab d Fab.recv fun _ _ _ _ _ => rfl

theorem dirLine_entered (s : State) (d : Nat) (e : RecvCh) (r n : Nat) : dirLine (entered s d e) r n = dirLine s r n :=
  dirLine_of_dir (entered_fab s d e _ Fab.dir fun _ _ _ => rfl) n

theorem lineAt_entered (s : State) (d : Nat) (e : RecvCh) (f : Nat) : lineAt (entered s d e) f = lineAt s f :=
  lineAt_of_lines (entered_fab s d e _ Fab.lines fun _ _ _ => rfl)

theorem dirLine_channelAdvanced (t : State) (d : Nat) (p : Packet) (e : RecvCh) (r n : Nat) : dirLine (channelAdvanced t d p e) r n = dirLine t r n :=
  dirLine_of_dir (channelAdvanced_fab t d p e _ Fab.dir fun _ _ _ => rfl) n

theorem lineAt_channelAdvanced (t : State) (d : Nat) (p : Packet) (e : RecvCh) (f : Nat) : lineAt (channelAdvanced t d p e) f = lineAt t f :=
  lineAt_of_lines (channelAdvanced_fab t d p e _ Fab.lines fun _ _ _ => rfl)

/-- Writing again what stands there changes nothing. -/
theorem mput_mput_self {α : Type} (k : Nat) (v : α) (m : List (Nat × α)) : mput k v (mput k v m) = mput k v m := by
  induction m with
  | nil => simp [mput]
  | cons e rest ih =>
    obtain ⟨i, w⟩ := e
    by_cases before : k < i
    · simp [mput, before]
    · by_cases here : i = k
      · simp [mput, here]
      · simp [mput, before, here, ih]

theorem mset_mset_self {α : Type} [DecidableEq α] (d : α) (k : Nat) (v : α) (m : List (Nat × α)) : mset d k v (mset d k v m) = mset d k v m := by
  unfold mset
  split
  · simp [mdel_eq_filter]
  · exact mput_mput_self ..

theorem setFab_setFab_self (s : State) (d : Nat) (x : Fab) : setFab (setFab s d x) d x = setFab s d x := by
  have fabs : (setFab (setFab s d x) d x).fabs = (setFab s d x).fabs := mset_mset_self ..
  calc setFab (setFab s d x) d x = { setFab s d x with fabs := (setFab (setFab s d x) d x).fabs } := rfl
    _ = setFab s d x := by rw [fabs]

theorem setDirLine_setDirLine_self (s : State) (r n : Nat) (x : DLine) : setDirLine (setDirLine s r n x) r n x = setDirLine s r n x := by
  have once : setDirLine s r n x = setFab s (r % 4) { getFab s (r % 4) with dir := mset DLine.reset (r * 2 ^ 34 + n) x (getFab s (r % 4)).dir } := rfl
  have same := mset_mset_self DLine.reset (r * 2 ^ 34 + n) x (getFab s (r % 4)).dir
  conv_lhs => rw [once, setDirLine, modFab_eq, getFab_setFab, same]
  rw [once, setFab_setFab_self]

/-! ### The home (R369) -/

theorem serveDir_of_noneWaits {s : State} {r n : Nat} (fuel : Nat) (none : (dirLine s r n).pend = []) : serveDir fuel s r n = s := by
  cases fuel with
  | zero => rfl
  | succ fuel => simp only [serveDir, none]

/-- A request that waits alone at its line and can be served leaves nothing to serve. -/
theorem serveDir_of_alone {s t : State} {r n : Nat} {p : Packet} (fuel : Nat) (alone : (dirLine s r n).pend = [p]) (served : servePending s p = some t)
    (none : (dirLine t r n).pend = []) : serveDir (fuel + 1) s r n = t := by
  rw [serveDir, alone]
  dsimp only
  rw [served]
  exact serveDir_of_noneWaits fuel none

theorem seqFrame_sendCdata (s : State) (p : Packet) (code : Nat) (data : List Byte) : SeqFrame s (sendCdata s p code data) := seqFrame_sendSeq ..

section
variable {s : State} {d : Nat} {p : Packet} {ps : List Piece}

/-- The line with the request in its queue. -/
def lineJoined (s : State) (p : Packet) : State := setDirLine s p.region (lineNo p) { DLine.reset with pend := [p] }

/-- The line after the request has left its queue with the given state and holder. -/
def lineGranted (s : State) (p : Packet) (state : Nat) : State :=
  setDirLine (setDirLine (lineJoined s p) p.region (lineNo p) DLine.reset) p.region (lineNo p) { DLine.reset with state := state, holders := [p.src] }

theorem dirLine_lineJoined (s : State) (p : Packet) : dirLine (lineJoined s p) p.region (lineNo p) = { DLine.reset with pend := [p] } :=
  dirLine_setDirLine ..

theorem servePending_crd (sound : s.upsets = []) (typ : p.typ = .crd) (passed : lineCheck (lineJoined s p) p .rd = .ok ps) :
    servePending (lineJoined s p) p = some (sendCdata (lineGranted s p 1) p 0 (readPieces (lineJoined s p) ps)) := by
  have sound' : (lineJoined s p).upsets = [] := sound
  unfold servePending
  simp only [dirLine_lineJoined, typ, DLine.reset, passed, meetPieces_of_sound ps sound', dirLine_setDirLine]
  rfl

theorem servePending_crdx (sound : s.upsets = []) (typ : p.typ = .crdx) (passed : lineCheck (lineJoined s p) p .wr = .ok ps) :
    servePending (lineJoined s p) p = some (sendCdata (lineGranted s p 2) p 0 (readPieces (lineJoined s p) ps)) := by
  have again : setDirLine (lineJoined s p) p.region (lineNo p) { DLine.reset with pend := [p] } = lineJoined s p := setDirLine_setDirLine_self ..
  have sound' : (lineJoined s p).upsets = [] := sound
  rw [DLine.reset] at again
  unfold servePending
  simp only [dirLine_lineJoined, typ, DLine.reset, again, passed, meetPieces_of_sound ps sound', dirLine_setDirLine]
  rfl

end

end Sys2Proof.Machine
end

section
/-!
PROOF. Coherence packets in their turn complete (O44, R368, R369).
-/
namespace Sys2Proof.Machine
open Sys2Proof.Claim

/-! ### The handlers -/

section
variable {s : State} {d : Nat} {p : Packet}

theorem lineGranted_spec (s : State) (p : Packet) (state : Nat) :
    dirLine (lineGranted s p state) p.region (lineNo p) = { state := state, holders := [p.src], recalls := [], pend := [] } ∧
      ∀ k, (getFab (lineGranted s p state) k).recv = (getFab s k).recv := by
  refine ⟨dirLine_setDirLine .., fun k => ?_⟩
  rw [lineGranted, setDirLine_recv, setDirLine_recv, lineJoined, setDirLine_recv]

/-- A member's request for a free line is answered at once (R369). -/
theorem deliverCrd_granted {state : Nat} {data : List Byte} (member : coherentCode s p 64 = none) (free : dirLine s p.region (lineNo p) = DLine.reset)
    (served : servePending (lineJoined s p) p = some (sendCdata (lineGranted s p state) p 0 data)) :
    deliverCrd s d p = sendCdata (lineGranted s p state) p 0 data := by
  have none : (dirLine (sendCdata (lineGranted s p state) p 0 data) p.region (lineNo p)).pend = [] := by
    rw [(seqFrame_sendCdata ..).dirLine, (lineGranted_spec ..).1]
  have joins : joinLine s p = serveDir (3 + 1) (lineJoined s p) p.region (lineNo p) := by
    rw [joinLine, free]
    rfl
  rw [deliverCrd, member]
  dsimp only
  rw [joins]
  exact serveDir_of_alone 3 (by rw [dirLine_lineJoined]) served none

/-- The cache of a member makes room without touching its receiving channels. -/
theorem makeRoom_recv (s : State) (d k : Nat) : (getFab (makeRoom s d) k).recv = (getFab s k).recv := by
  have dropped : ∀ key, (getFab (draw (modFab s d (fun y => { y with lines := mdel key y.lines }))) k).recv = (getFab s k).recv := by
    intro key
    have drawn : ∀ t : State, getFab (draw t) k = getFab t k := fun _ => rfl
    rw [drawn, getFab_modFab_if]
    split <;> rfl
  unfold makeRoom
  dsimp only
  split
  · rfl
  · split
    · rfl
    · split
      · exact ((seqFrame_sendSeq ..).recv k).trans (dropped _)
      · exact dropped _

/-- The line that a CDATA brings (R369). -/
theorem deliverCdata_filled (direct : p.hops = 0) (granted : pktCode p = 0) (none : (lineAt s (homeAddr p)).waits = []) :
    deliverCdata s d p = setLine (makeRoom s (lineDie (homeAddr p))) (homeAddr p)
      { state := if (lineAt s (homeAddr p)).asked = 2 then 2 else 1, data := p.payload, asked := 0, waits := [] } := by
  rw [deliverCdata, if_neg (not_not.mpr direct), fillLine]
  dsimp only
  rw [granted, if_neg (not_not.mpr rfl), none, serveLine]

/-- The member's line after a recall to U. -/
def lineRecalled (s : State) (p : Packet) : State := setLine s (homeAddr p) { lineAt s (homeAddr p) with state := 0, data := [] }

theorem deliverCrecall_recalled (direct : p.hops = 0) (whole : p.offset % 2 = 0) (cached : (lineAt s (homeAddr p)).state ≠ 0) :
    SeqFrame (lineRecalled s p) (deliverCrecall s d p) := by
  have full : ¬ p.offset % 2 = 1 := by omega
  unfold deliverCrecall
  dsimp only
  rw [if_neg (not_not.mpr direct), if_neg cached, if_neg (by simp [full])]
  exact seqFrame_sendSeq ..

/-- The line after its recall from the sender is complete. -/
def recallEnded (s : State) (p : Packet) : State :=
  setDirLine (dropHolder s p) p.region (lineNo p)
    { dirLine (dropHolder s p) p.region (lineNo p) with
      recalls := (dirLine (dropHolder s p) p.region (lineNo p)).recalls.filter (fun m => decide (m ≠ p.src)) }

theorem dirLine_dropHolder (s : State) (p : Packet) : dirLine (dropHolder s p) p.region (lineNo p) =
    { dirLine s p.region (lineNo p) with
      holders := (dirLine s p.region (lineNo p)).holders.filter (fun m => decide (m ≠ p.src))
      state := if ((dirLine s p.region (lineNo p)).holders.filter (fun m => decide (m ≠ p.src))).isEmpty then 0
        else (dirLine s p.region (lineNo p)).state } := dirLine_setDirLine ..

theorem dropHolder_recv (s : State) (p : Packet) (k : Nat) : (getFab (dropHolder s p) k).recv = (getFab s k).recv := setDirLine_recv ..

theorem deliverCrack_ended (member : coherentCode s p 0 = none) (clean : p.payload = []) (whole : p.offset % 2 = 0)
    (idle : (dirLine s p.region (lineNo p)).pend = []) : deliverCrack s d p = some (recallEnded s p) := by
  have full : ¬ p.offset % 2 = 1 := by omega
  have none : (dirLine (recallEnded s p) p.region (lineNo p)).pend = [] := by rw [recallEnded, dirLine_setDirLine, dirLine_dropHolder, idle]
  unfold deliverCrack
  rw [member]
  dsimp only
  rw [clean, List.isEmpty_nil, if_pos rfl]
  dsimp only
  rw [if_neg full]
  exact congrArg some (serveDir_of_noneWaits _ none)

/-- A line that is written back goes to memory, and its sender holds it no longer. -/
theorem deliverCwb_written {ps : List Piece} (member : coherentCode s p 0 = none)
    (passed : checkAccess (setDirLine s p.region (lineNo p) { dirLine s p.region (lineNo p) with state := 0, holders := [] })
      (getJob s (getRegion s p.region).ctx) none (p.region % 4) .wr [((getRegion s p.region).vbase + lineNo p * 64, 64)] = .ok ps) :
    deliverCwb s d p = some (dropHolder (writePieces s ps (p.payload.take 64)) p) := by
  rw [deliverCwb, member]
  dsimp only
  rw [storeLine]
  dsimp only
  rw [passed]
  rfl

end

/-! ### The commands -/

section
variable {s : State} {d : Nat} {p : Packet} {e : RecvCh} (store : storeOk d = true) (turn : InTurn s d p e) (cls : p.cls = 3)
include store turn cls

section
variable {ps : List Piece} (sound : s.upsets = []) (member : coherentCode (entered s d e) p 64 = none)
  (free : dirLine s p.region (lineNo p) = DLine.reset)
include sound member free

theorem exec_zfpCrd_inTurn (inbound : inboundOk s d p .crd = true) (passed : lineCheck (lineJoined (entered s d e) p) p .rd = .ok ps) :
    ∃ u, exec (.zfpCrd d p) s = .next u ∧ dirLine u p.region (lineNo p) = { state := 1, holders := [p.src], recalls := [], pend := [] } := by
  obtain ⟨typ, -, -⟩ := inboundOk_spec inbound
  have granted := deliverCrd_granted (d := d) member ((dirLine_entered ..).trans free) (servePending_crd (s := entered s d e) sound typ passed)
  obtain ⟨line, recv⟩ := lineGranted_spec (entered s d e) p 1
  refine ⟨_, exec_packet_inTurn (k := (.zfpCrd, .crd)) (by simp [PacketCommand]) store inbound (.inr cls) turn
    ((deliver1_crd typ).trans (congrArg some granted)) ?_, ?_⟩
  · rw [(seqFrame_sendCdata ..).recv, recv]
  · rw [dirLine_channelAdvanced, (seqFrame_sendCdata ..).dirLine, line]

theorem exec_zfpCrdx_inTurn (inbound : inboundOk s d p .crdx = true) (passed : lineCheck (lineJoined (entered s d e) p) p .wr = .ok ps) :
    ∃ u, exec (.zfpCrdx d p) s = .next u ∧ dirLine u p.region (lineNo p) = { state := 2, holders := [p.src], recalls := [], pend := [] } := by
  obtain ⟨typ, -, -⟩ := inboundOk_spec inbound
  have granted := deliverCrd_granted (d := d) member ((dirLine_entered ..).trans free) (servePending_crdx (s := entered s d e) sound typ passed)
  obtain ⟨line, recv⟩ := lineGranted_spec (entered s d e) p 2
  refine ⟨_, exec_packet_inTurn (k := (.zfpCrdx, .crdx)) (by simp [PacketCommand]) store inbound (.inr cls) turn
    ((deliver1_crdx typ).trans (congrArg some granted)) ?_, ?_⟩
  · rw [(seqFrame_sendCdata ..).recv, recv]
  · rw [dirLine_channelAdvanced, (seqFrame_sendCdata ..).dirLine, line]

end

theorem exec_zfpCdata_inTurn (inbound : inboundOk s d p .cdata = true) (direct : p.hops = 0) (granted : pktCode p = 0)
    (none : (lineAt s (homeAddr p)).waits = []) :
    ∃ u, exec (.zfpCdata d p) s = .next u ∧
      lineAt u (homeAddr p) = { state := if (lineAt s (homeAddr p)).asked = 2 then 2 else 1, data := p.payload, asked := 0, waits := [] } := by
  obtain ⟨typ, -, -⟩ := inboundOk_spec inbound
  have same := lineAt_entered s d e (homeAddr p)
  have filled := deliverCdata_filled (s := entered s d e) (d := d) direct granted (by rw [same, none])
  rw [same] at filled
  refine ⟨_, exec_packet_inTurn (k := (.zfpCdata, .cdata)) (by simp [PacketCommand]) store inbound (.inr cls) turn
    ((deliver1_cdata typ).trans (congrArg some filled)) ?_, ?_⟩
  · rw [setLine_recv, makeRoom_recv]
  · rw [lineAt_channelAdvanced, lineAt_setLine]

theorem exec_zfpCrecall_inTurn (inbound : inboundOk s d p .crecall = true) (direct : p.hops = 0) (whole : p.offset % 2 = 0)
    (cached : (lineAt s (homeAddr p)).state ≠ 0) :
    ∃ u, exec (.zfpCrecall d p) s = .next u ∧ (lineAt u (homeAddr p)).state = 0 ∧ (lineAt u (homeAddr p)).data = [] := by
  obtain ⟨typ, -, -⟩ := inboundOk_spec inbound
  have recalled := deliverCrecall_recalled (s := entered s d e) (d := d) direct whole (by rwa [lineAt_entered])
  refine ⟨_, exec_packet_inTurn (k := (.zfpCrecall, .crecall)) (by simp [PacketCommand]) store inbound (.inr cls) turn
    (deliver1_crecall typ) ?_, ?_⟩
  · rw [recalled.recv, lineRecalled, setLine_recv]
  · rw [lineAt_channelAdvanced, recalled.lineAt, lineRecalled, lineAt_setLine]
    exact ⟨rfl, rfl⟩

section
variable (member : coherentCode (entered s d e) p 0 = none)
include member

theorem exec_zfpCrack_inTurn (inbound : inboundOk s d p .crack = true) (clean : p.payload = []) (whole : p.offset % 2 = 0)
    (idle : (dirLine s p.region (lineNo p)).pend = []) :
    ∃ u, exec (.zfpCrack d p) s = .next u ∧
      (dirLine u p.region (lineNo p)).holders = (dirLine s p.region (lineNo p)).holders.filter (fun m => decide (m ≠ p.src)) ∧
      (dirLine u p.region (lineNo p)).recalls = (dirLine s p.region (lineNo p)).recalls.filter (fun m => decide (m ≠ p.src)) := by
  obtain ⟨typ, -, -⟩ := inboundOk_spec inbound
  have same := dirLine_entered s d e p.region (lineNo p)
  have ended := deliverCrack_ended (s := entered s d e) (d := d) member clean whole (by rw [same, idle])
  refine ⟨_, exec_packet_inTurn (k := (.zfpCrack, .crack)) (by simp [PacketCommand]) store inbound (.inr cls) turn
    ((deliver1_crack typ).trans ended) ?_, ?_⟩
  · rw [recallEnded, setDirLine_recv, dropHolder_recv]
  · rw [dirLine_channelAdvanced, recallEnded, dirLine_setDirLine, dirLine_dropHolder, same]
    exact ⟨rfl, rfl⟩

theorem exec_zfpCwb_inTurn {va m : Nat} (inbound : inboundOk s d p .cwb = true) (line : p.payload.length = 64) (device : m + 64 ≤ hostBase)
    (passed : checkAccess (setDirLine (entered s d e) p.region (lineNo p) { dirLine s p.region (lineNo p) with state := 0, holders := [] })
      (getJob s (getRegion s p.region).ctx) none (p.region % 4) .wr [((getRegion s p.region).vbase + lineNo p * 64, 64)] = .ok [⟨va, 64, .phys m⟩]) :
    ∃ u, exec (.zfpCwb d p) s = .next u ∧ memRead u.mem m 64 = p.payload ∧
      (dirLine u p.region (lineNo p)).holders = (dirLine s p.region (lineNo p)).holders.filter (fun m => decide (m ≠ p.src)) := by
  obtain ⟨typ, -, -⟩ := inboundOk_spec inbound
  have same := dirLine_entered s d e p.region (lineNo p)
  have done := deliverCwb_written (s := entered s d e) (d := d) member (by rw [same]; exact passed)
  rw [List.take_of_length_le (Nat.le_of_eq line)] at done
  obtain ⟨read, -, fabs⟩ := writePieces_device (s := entered s d e) (va := va) line device
  generalize writePieces (entered s d e) [⟨va, 64, .phys m⟩] p.payload = w at done read fabs
  refine ⟨_, exec_packet_inTurn (k := (.zfpCwb, .cwb)) (by simp [PacketCommand]) store inbound (.inr cls) turn
    ((deliver1_cwb typ).trans done) ?_, read, ?_⟩
  · rw [dropHolder_recv, getFab_of_fabs fabs]
  · rw [dirLine_channelAdvanced, dirLine_dropHolder, dirLine_of_dir (congrArg Fab.dir (getFab_of_fabs fabs _)), same]

end

end

theorem packetsComplete : PacketsComplete := by
  intro s d p store sound
  refine ⟨fun j va ps inbound cls passed => exec_zfpRd_answered store sound inbound cls passed,
    fun j va q op m inbound cls first aop value passed target len device new fresh idle room =>
      exec_zfpAtom_applied store sound inbound cls first aop value passed target len device new fresh idle room,
    fun e turn => ⟨?wr, fun inbound cls accepted => exec_zfpArrive_inTurn store turn inbound cls accepted,
      fun inbound cls few => exec_zfpMark_inTurn store turn inbound cls few,
      fun inbound cls fabric valid mode owner => exec_zfpXfer_inTurn store turn inbound cls fabric valid mode owner, ?requests,
      fun inbound cls direct granted none => exec_zfpCdata_inTurn store turn cls inbound direct granted none,
      fun inbound cls direct whole cached => exec_zfpCrecall_inTurn store turn cls inbound direct whole cached,
      fun inbound cls member clean whole idle => exec_zfpCrack_inTurn store turn cls member inbound clean whole idle, ?written⟩⟩
  case wr =>
    intro j va m inbound cls passed device full
    exact exec_zfpWr_inTurn store turn sound inbound cls passed device full
  case requests =>
    intro ps cls member free
    exact ⟨fun inbound passed => exec_zfpCrd_inTurn store turn cls sound member free inbound passed,
      fun inbound passed => exec_zfpCrdx_inTurn store turn cls sound member free inbound passed⟩
  case written =>
    intro va m inbound cls member line device free passed
    exact exec_zfpCwb_inTurn store turn cls member inbound line device passed

/-- Settles O44: a packet in its turn does what its handler does and its channel goes on; each handler then completes by its own checks. -/
theorem packetsAreTakenInOrder : Obligations.PacketsAreTakenInOrder := ⟨packetsAreReceivedInOrder, packetsComplete⟩

end Sys2Proof.Machine
end
